-- ==== Sys2Proof/Word.lean ====
section
/-! DEFINITION. The word types of the package and the plainest arithmetic on them. -/

namespace Sys2Proof

/-- One byte of memory. -/
abbrev Byte := BitVec 8

/-- A 32-bit management register word (R31). -/
abbrev Word := BitVec 32

/-- A 64-bit core register or instruction word (R69). -/
abbrev DWord := BitVec 64

/-- A 1,024-bit vector register (R69). -/
abbrev VWord := BitVec 1024

end Sys2Proof
end

