-- ==== Sys2Proof/Machine/Map.lean ====
section
/-! DEFINITION. Sparse maps: lists of key and value pairs in one canonical form, keys strictly rising and no
value equal to what an unlisted key reads as. Memory, the register file and every array of units use them. -/

namespace Sys2Proof.Machine

/-- A sparse map from numbers to values. -/
abbrev SMap (α : Type) := List (Nat × α)

/-- The value at key `x`; `d` where the key is not listed. -/
def smGet {α : Type} (d : α) : SMap α → Nat → α
  | [], _ => d
  | (k, v) :: t, x => if k = x then v else smGet d t x

/-- `m` with `v` at key `x`, in canonical form: writing the default removes the entry. -/
def smPut {α : Type} [DecidableEq α] (d : α) : SMap α → Nat → α → SMap α
  | [], x, v => if v = d then [] else [(x, v)]
  | (k, w) :: t, x, v =>
    if x < k then (if v = d then (k, w) :: t else (x, v) :: (k, w) :: t)
    else if x = k then (if v = d then t else (x, v) :: t)
    else (k, w) :: smPut d t x v

/-- `m` with the value at key `x` changed by `f`. -/
def smMod {α : Type} [DecidableEq α] (d : α) (m : SMap α) (x : Nat) (f : α → α) : SMap α :=
  smPut d m x (f (smGet d m x))

/-- Every key of `m` is above `b` and the keys rise strictly. -/
def smAbove {α : Type} (b : Nat) : SMap α → Bool
  | [] => true
  | (k, _) :: t => decide (b < k) && smAbove k t

/-- The canonical form: keys strictly rising, no entry equal to the default. -/
def smWf {α : Type} [DecidableEq α] (d : α) (m : SMap α) : Bool :=
  (match m with
    | [] => true
    | (k, _) :: t => smAbove k t) && m.all (fun e => decide (e.2 ≠ d))

/-- `m` without the entries whose key lies in [lo, hi). -/
def smDropRange {α : Type} (m : SMap α) (lo hi : Nat) : SMap α :=
  m.filter (fun e => !(decide (lo ≤ e.1) && decide (e.1 < hi)))

/-- The entries whose key lies in [lo, hi). -/
def smRange {α : Type} (m : SMap α) (lo hi : Nat) : SMap α :=
  m.filter (fun e => decide (lo ≤ e.1) && decide (e.1 < hi))

/-- `m` with every listed value changed by `f` (entries that become the default are removed). -/
def smMapVals {α : Type} [DecidableEq α] (d : α) (m : SMap α) (f : Nat → α → α) : SMap α :=
  (m.map (fun e => (e.1, f e.1 e.2))).filter (fun e => decide (e.2 ≠ d))

end Sys2Proof.Machine
end

