-- ==== Sys2Proof/Machine/Types/Base.lean ====
section
/-! DEFINITION. Types of spec/01: register pages, their headers, frame-bound writes, requesters. -/

namespace Sys2Proof.Machine

/-- The register pages that exist (R30, Table 1.7), with their partition and instance. -/
inductive Page where
  | core (p i : Nat)
  | mxe (p i : Nat)
  | clus (p c : Nat)
  | dma (p j : Nat)
  | ctr (p j : Nat)
  | sync (p : Nat)
  | msc (p : Nat)
  | hbmc (p : Nat)
  | lnk (n : Nat)
  | route (n : Nat)
  | coll (p q : Nat)
  | part (p : Nat)
  | vregP (p r : Nat)
  | vreg (r : Nat)
  | mmu (p : Nat)
  | eph
  | ephP (p : Nat)
  | helio
  | helioP (p : Nat)
  | merid
  | capc (d : Nat)
  | rhost (h : Nat)
  | upd
  | pcie (x : Nat)
  | mgmt
  | alm
  | lic
  | boot
  | eyep
deriving DecidableEq, Repr

/-- The common page header's own state (R33 to R44). `enaW` is the value last written to ENABLE since the block's
reset, none while ENABLE still has its reset value; BLOCK_CTL is reserved in every block of this stepping. -/
structure PageHdr where
  irqStat : Word := 0
  irqEn : Word := 0
  clampCnt : Nat := 0
  lastClampOff : Nat := 0
  lock : Bool := false
  owner : Nat := 0
  snapEn : Bool := false
  freeze : Bool := false
  enaW : Option Bool := none
  draining : Bool := false
  logBase : Word := 0
  snapSeq : Nat := 0
deriving DecidableEq, Repr

/-- A write to a frame-bound register that waits for its boundary (R21): the word's home offset and value. -/
structure FbWrite where
  part : Option Nat
  off : Nat
  value : Word
deriving DecidableEq, Repr

/-- Who performs a management access (Table 1.18, R26). `job` stands for any access made for a job. -/
inductive Requester where
  | mgmtCtl
  | rhostFw
  | pf0
  | pf1
  | remoteFw
  | job
deriving DecidableEq, Repr

/-- The ways a written field is clamped (R37). -/
inductive Clamp where
  /-- every code is legal -/
  | full
  /-- a numeric field with legal values lo to hi -/
  | range (lo hi : Nat)
  /-- an enumerated field: codes above `max` take the default -/
  | enum (max dflt : Nat)
  /-- the clamp is computed by the register's own rule -/
  | special
deriving DecidableEq, Repr

/-- One defined RW field of a register page: its word's offset, its place, its reset value, its clamp. -/
structure RwField where
  off : Nat
  lo : Nat
  width : Nat
  reset : Nat
  clamp : Clamp
deriving DecidableEq, Repr

end Sys2Proof.Machine
end

