-- ==== Sys2Proof/Machine/Types/Mem.lean ====
section
/-! DEFINITION. Types of spec/06: memory-side cache, HBM and capacity controllers, MMU. -/

namespace Sys2Proof.Machine

/-- A byte where what it covers carries the poison marker (R168). Memory keeps both: the data reads zero. -/
structure Ram where
  /-- bytes at home addresses (`homeOf`), an unlisted address reads 0 -/
  mem : SMap Byte := []
  /-- home addresses of protected units (8 B SRAM word, 64 B HBM unit, 128 B capacity line) that hold the marker -/
  poison : SMap Bool := []
deriving DecidableEq, Repr

/-- A valid line of a memory-side cache (R152): line number, dirty, keep mark, and the time of its last use (the
LRU order). `stale` is what the stack holds where that differs from what the line serves: its 128 bytes, and the poison of its 2
units; an empty list where they agree. `bad`: bit j tells that 64-bit word j of the line is lost in the cache (R167). -/
structure MLine where
  line : Nat
  dirty : Bool := false
  keep : Bool := false
  used : Nat := 0
  stale : List Nat := []
  stalePois : List Bool := []
  bad : Nat := 0
deriving DecidableEq, Repr

/-- The memory-side cache of a stack. `lines` is keyed set × 16 + way; `none` is an invalid way. -/
structure Msc where
  lines : SMap (Option MLine) := []
  clock : Nat := 0
  retired : Nat := 0
  wayErr : SMap Nat := []
  errPeriod : Nat := 0
  flushing : Bool := false
  hits : Nat := 0
  misses : Nat := 0
  writebacks : Nat := 0
  luDiscards : Nat := 0
  bypass : Nat := 0
deriving DecidableEq, Repr

/-- The last error record of an HBM or capacity controller (Tables 6.15, 6.18). -/
structure ErrRec where
  valid : Bool := false
  kind : Nat := 0
  symbol : Nat := 0xFF
  addr : Nat := 0
deriving DecidableEq, Repr

/-- An HBM controller and its stack. -/
structure Hbmc where
  temp : Nat := 0
  refresh : Nat := 0
  conservative : Bool := false
  trained : Bool := false
  err : ErrRec := {}
  rdUnits : Nat := 0
  wrUnits : Nat := 0
deriving DecidableEq, Repr

/-- A capacity controller and its device. `checks` lists its check-block copies, most recent first, at most 64, each with whether
it has changed since the device got it (R163). -/
structure Capc where
  rate : Nat := 8533
  err : ErrRec := {}
  checks : List (Nat × Bool) := []
  rdLines : Nat := 0
  wrLines : Nat := 0
deriving DecidableEq, Repr

/-- What the memory tiers share across the package: the interleave mode in force and the next one (R161), stacks
out of service (at reset those of the unlicensed partitions, R150, R415) and stacks marked defective, capacity devices in service (R162). -/
structure Tiers where
  imapCur : Nat := 0
  imapNext : Nat := 0
  stackOos : Nat := 0xFC0
  stackBad : Nat := 0
  capIn : Nat := 0xFFFF
deriving DecidableEq, Repr

/-- A leaf found by a walk, or the fault that ended it (R173 to R178): the leaf's first byte, its page size, and the
entry that ended the walk. -/
inductive Leaf where
  | package (pkgn addr size : Nat) (w x : Bool)
  | host (port iova size : Nat) (w : Bool)
  | fault (cause entry : Nat)
deriving DecidableEq, Repr

/-- A cached translation: the slot's job, slot, virtual page base, the leaf. -/
structure TcEntry where
  job : Nat
  slot : Nat
  base : Nat
  leaf : Leaf
deriving DecidableEq, Repr

/-- A pending record of the fault queue (Table 6.11), with the channel it parked and its age in ticks. -/
structure FaultRec where
  id : Nat
  va : Nat
  job : Nat
  cause : Nat
  write : Bool
  slot : Nat
  engine : Nat
  chan : Nat
  count : Nat
  entry : Nat
  age : Nat := 0
  /-- the record of a job that is pre-empted (R180): its engine is then logical cluster × 4 + engine, and its response waits for the
  restore -/
  held : Bool := false
deriving DecidableEq, Repr

/-- The MMU of a partition. `waiting` holds faults whose channel waits for a free queue slot; `deferred` responses
that arrived while the partition was pre-empted (R180): record ID and action. -/
structure Mmu where
  prod : Nat := 0
  nextId : Nat := 0
  recs : List FaultRec := []
  waiting : List FaultRec := []
  deferred : List (Nat × Nat) := []
  invGo : Bool := false
  cache : List TcEntry := []
  engCache : SMap (List TcEntry) := []
  hits : Nat := 0
  misses : Nat := 0
  walkReads : Nat := 0
deriving DecidableEq, Repr

/-- An error the memory hardware meets while an access or a scrub runs: the physical event of the command. -/
inductive MemEvent where
  | none
  /-- a corrected single-bit error in a 64-bit word of cache data, of a check-block copy or of cluster memory; in a cache tag -/
  | corrData (way : Nat)
  | corrTag (way : Nat)
  /-- an uncorrectable error in the same -/
  | uncData (way : Nat)
  | uncTag (way : Nat)
  /-- a unit or line corrected by the controller's code (symbol), by the stack's on-die ECC, or uncorrectable -/
  | corrUnit (symbol : Nat)
  | onDie
  | uncUnit
deriving DecidableEq, Repr

/-- Which of a slot's atomics on their way is performed, and the physical event its access meets (R167, R219). -/
structure AmoPick where
  k : Nat
  ev : MemEvent := .none
deriving DecidableEq, Repr

/-- What a transfer meets as it moves: nothing, a path parity error (R203), or an error at its first access of memory (R167). -/
inductive MoveEvent where
  | none
  | parity
  | mem (ev : MemEvent)
deriving DecidableEq, Repr

/-- What a management read meets: nothing, a poisoned word (R378), or no answer within 1 ms (Table 14.2). -/
inductive ReadEvent where
  | none
  | poisoned
  | silent
deriving DecidableEq, Repr

/-- Operand of REGISTER_READ_CLEAR: the width in bytes, and what the read meets. -/
structure ReadPick where
  size : BitVec 4
  ev : ReadEvent := .none
deriving DecidableEq, Repr

/-- The kind of access that a walk serves, and the error that its first read of a table meets (R167, R173); `tag`: a tag of the MMU's
table cache has an uncorrectable error (Table 14.2). -/
structure WalkPick where
  write : Bool
  ev : MemEvent := .none
  tag : Bool := false
deriving DecidableEq, Repr

/-- The physical event of an access of core memory (R170, R101), or of the core's register file or pipeline (Table 14.2). -/
inductive SramEvent where
  | none
  | corrected
  | uncorrectable
  | regFile
deriving DecidableEq, Repr

end Sys2Proof.Machine
end

