-- ==== Sys2Proof/Machine/Types/Alm.lean ====
section
/-! DEFINITION. Types of spec/15: the Almanac, boot flash, boot sequence, licences. -/

namespace Sys2Proof.Machine

/-- What the Almanac owes to flash (R408, Tables 15.7, 15.8). -/
inductive AlmRec where
  | way (p w : Nat)
  | imap (mode : Nat)
  | core (p i : Nat)
  | clusterMem (p c : Nat)
  | engine (p j : Nat)
  | compute (p : Nat)
  | capDev (d : Nat)
  | lanes (link rx tx : Nat)
  | rhostCore (h : Nat)
  | updateEngine
  | mode (exposed : Bool)
  | retestDone
  | confirm
deriving DecidableEq, Repr

/-- What the package test tests at the hub (Table 14.7). -/
inductive HubTest where
  | updateEngine
  | rhostCore (h : Nat)
  | voteEngine
  | xactUnit
  | dataPath
deriving DecidableEq, Repr

/-- The licensed features in force (R415): the base set until a package reset applies a record. -/
structure Feat where
  olinks : Nat := 0
  span : Bool := false
  parts12 : Bool := false
  sprint : Bool := false
deriving DecidableEq, Repr

/-- The Almanac block: records due, mode in force. -/
structure Alm where
  due : List AlmRec := []
  mapped : Bool := true
deriving DecidableEq, Repr

end Sys2Proof.Machine
end

