-- ==== Sys2Proof/Machine/Types/Boot.lean ====
section
/-! DEFINITION. Types of spec/15: boot flash, boot sequence, journal, Almanac, licences. -/

namespace Sys2Proof.Machine

/-- Boot paths (BOOT_STAT.PATH). -/
inductive Path where
  | full
  | fast
  | warm
  | recovery
deriving DecidableEq, Repr

/-- Where the package stands: booting or running; in a park with every regulator off but VHUB's, the record being written (Table 13.5);
held in reset by PKG_RST_N; its regulators off until a package cold reset (R351, R357, R447); the always-on domain without VSTBY too, until a
cold reset after its return (R446). -/
inductive Power where
  | on
  | parked
  | reset
  | off
  | dark
deriving DecidableEq, Repr

/-- A journal entry (Table 15.3). -/
structure JEntry where
  boot : Nat
  step : Nat
  variant : Nat := 0
  status : Nat
  kind : Nat := 0
  idx : Nat := 0
  ms : Nat := 0
  detail : Nat := 0
  seq : Nat
deriving DecidableEq, Repr

/-- What the Almanac says of a partition (Table 15.8): silicon cores, cluster memories and engines marked failed. -/
structure AlmPart where
  out : Bool := false
  memBad : Bool := false
  conservative : Bool := false
  refresh : Nat := 0
  ways : Nat := 0
  cores : SMap Bool := []
  mems : SMap Bool := []
  engines : SMap Bool := []
  rows : Nat := 0
deriving DecidableEq, Repr

/-- The Almanac's content (Table 15.7). -/
structure AlmData where
  gen : Nat := 0
  mode : Nat := 1
  modeNext : Nat := 1
  imapNext : Nat := 0
  imapCur : Nat := 0
  fullBoot : Nat := 0
  parts : SMap AlmPart := []
  capIn : Nat := 0xFFFF
  capSlow : Nat := 0
  capRefresh : SMap Nat := []
  links : SMap Nat := []
  hosts : Nat := 0
  updBad : Bool := false
  /-- training results: stack `s` at key s, capacity device `d` at 16 + d (R404) -/
  train : SMap Nat := []
  /-- repairs that capacity devices have used (R405) -/
  capRows : SMap Nat := []
deriving DecidableEq, Repr

/-- A firmware bank (R397, R412): its bundle's version and SVN, whether it is valid, and its 24 MiB by units of 4,096 bytes: each unit is
the value that names its bytes, which no command carries; one that is not listed is as the part was made (assumption log 196). -/
structure Bank where
  units : SMap Nat := []
  valid : Bool := false
  version : Nat := 0
  svn : Nat := 0
deriving DecidableEq, Repr

/-- A licence record (Table 15.10) that was accepted. -/
structure Licence where
  serial : Nat
  bits : Nat
  puidFrom : Nat
deriving DecidableEq, Repr

/-- A park record (Table 13.6). `logs`: page key, counter, value; `trans`: PKGN, space, last TID, outstanding, oldest. -/
structure ParkRec where
  count : Nat
  puid : Nat := 0
  cause : Nat
  logs : List (Nat × Nat × Nat) := []
  trans : List (Nat × Nat × Nat × Nat × Nat) := []
  truncated : Nat := 0
  /-- the commit block's sequence number; none: no valid commit block -/
  commit : Option Nat := none
  /-- the commit block's CRC-32 over the record -/
  crc : Nat := 0
  restored : Bool := false
deriving DecidableEq, Repr

/-- The boot flash (Table 15.1). -/
structure Flash where
  bankA : Bank := { valid := true }
  bankB : Bank := {}
  alm0 : Option AlmData := none
  alm1 : Option AlmData := none
  journal : List JEntry := []
  jseq : Nat := 0
  park0 : Option ParkRec := none
  park1 : Option ParkRec := none
  lic0 : Option Licence := none
  lic1 : Option Licence := none
  maxSvn : Nat := 0
  maxSerial : Nat := 0
  bootNum : Nat := 0
  /-- cold boots since the last full memory test (R398) -/
  coldSince : Nat := 0
  /-- events of the always-on domain to be journalled at the next boot (R351, R447) -/
  owed : List Nat := []
deriving DecidableEq, Repr

/-- The boot block: where the sequence stands, what runs from which bank, activations pending. -/
structure Boot where
  power : Power := .on
  path : Path := .full
  /-- current or last step; whether it has been started; ms at its start -/
  step : Nat := 0
  started : Bool := false
  variant : Nat := 0
  stepUs : Nat := 0
  bootUs : Nat := 0
  failed : Nat := 0
  anyFailed : Bool := false
  ready : Bool := false
  bootMs : Nat := 0
  active : Nat := 0
  next : Nat := 0
  mc : Bool := false
  rhost : Bool := false
  parts : Nat := 0
  rhBank : Nat := 0
  mcBank : Nat := 0
  partBank : Nat := 0
  /-- the contents of the banks that the management controller, the resident host, the hub microcode and each partition's cores run, as
  they were taken (R406, R413) -/
  runMc : SMap Nat := []
  runRh : SMap Nat := []
  runHub : SMap Nat := []
  runPart : SMap (SMap Nat) := []
  /-- MODE_NEXT that a cold reset found not yet written to the Almanac (R410) -/
  modeAsked : Option Nat := none
  /-- the last boot's outcome: READY reached with no failed step -/
  lastClean : Bool := false
  /-- bundle chunks received by source, and their contents by unit of the bank -/
  bcast : SMap (List Nat) := []
  bcastData : SMap (SMap Nat) := []
  /-- complete broadcasts whose bank has not been checked yet, oldest first: the link one came by, its source -/
  bcastFrom : List (Nat × Nat) := []
  /-- LIC: result of the last check, GO -/
  licResult : Nat := 0
  /-- the licence in force and the pending one -/
  lic : Option Licence := none
  licPend : Option Licence := none
  /-- what the Almanac in force says -/
  alm : AlmData := {}
  /-- PKG_RST_N was recognised asserted during a park, and since then released with this hottest sensor, LINKREF_156 present or not
  (R449, R451, R454) -/
  rstDue : Bool := false
  rstGone : Option (Nat × Bool) := none
  /-- the record of the park in progress -/
  park : Option ParkRec := none
  retest : Bool := false
  /-- partitions whose silicon positions are those of the Almanac loaded (R409) -/
  loaded : Bool := false
deriving DecidableEq, Repr

/-- What the always-on domain sees when PKG_RST_N is recognised released: the hottest sensor in °C (R351), and whether LINKREF_156
runs (R448, R454). -/
structure Release where
  tj : BitVec 8
  clock : Bool := true
deriving DecidableEq, Repr

/-- What a step's end reports: whether it passed, the resource that failed it, the cores that CHECK marks, units that a warm
memory sweep found uncorrectable (home numbers), stacks and devices that passed at normal refresh only, the other resources that
the tests found unsound, cache ways among them (R157, R411), memories trained again, and flash copies found bad. -/
structure StepOut where
  ok : Bool
  bad : Option (Nat × Nat) := none
  cores : List (Nat × Nat) := []
  units : List Nat := []
  slow : List (Nat × Nat) := []
  marks : List AlmRec := []
  /-- TRAIN: keys of the memories that failed from stored results and were trained again from defaults (R404) -/
  retrained : List Nat := []
  /-- TRAIN: memories that failed beside `bad` -/
  others : List (Nat × Nat) := []
  /-- MEMTEST on the full path: rows of a stack (kind 2) and repairs of a capacity device (kind 3) that mended failing rows: kind, index,
  number (R405) -/
  repairs : List (Nat × Nat × Nat) := []
  /-- RECORDS: Almanac copies and licence slots whose CRC is bad (R397) -/
  almBad : List Nat := []
  licBad : List Nat := []
deriving DecidableEq, Repr

/-- The header of a bundle whose programming has ended, and whether its signature and components check (R412). -/
structure BundleOut where
  sound : Bool
  edition : Nat
  svn : Nat
  version : Nat
deriving DecidableEq, Repr

end Sys2Proof.Machine
end

