-- ==== Sys2Proof/Machine/Types/Eph.lean ====
section
/-! DEFINITION. Types of spec/12: the job image that the runtime supplies, what Ephemeris keeps. -/

namespace Sys2Proof.Machine

/-- A page of a tensor: the address of its leaf entry, its place in HBM, the place in the capacity tier that spill step 1 would give it,
its size (R173, R324). -/
structure TPage where
  leaf : Nat
  home : Nat
  cap : Nat
  size : Nat
deriving DecidableEq, Repr

/-- A tensor of a job image (R322): size and bytes moved for each step, owner partition, tag byte, recompute FLOP, whether
Orrery gave it the capacity tier, the address of its choice byte (0: it has none), and its pages. -/
structure Tensor where
  size : Nat
  moved : Nat
  part : Nat
  tag : Nat
  flop : Nat := 0
  inCap : Bool := false
  choice : Nat := 0
  pages : List TPage := []
deriving DecidableEq, Repr

/-- What one logical partition of a job asks for beside its tensors (R323): core memory, cluster memory, and the backfill quota
in HBM, core memory and cluster memory. -/
structure PartAsk where
  core : Nat
  cluster : Nat
  quotaHbm : Nat := 0
  quotaCore : Nat := 0
  quotaCluster : Nat := 0
deriving DecidableEq, Repr

/-- A job image and the runtime's request (R322 to R326). `places` lists the cell and feed of each package that may carry a
replica partner, as their EPH_LOC gives them (R329). -/
structure JobImage where
  job : Nat
  seq : Nat
  report : Nat
  asks : List PartAsk
  tensors : List Tensor
  replication : Nat := 2
  backfill : Bool := false
  packages : Nat := 1
  sprint : Bool := false
  thresh : Nat := 32
  runLen : Nat := 2
  places : List (Nat × Nat) := []
  /-- physical partitions of the primary job that a backfill job would share -/
  hosts : List Nat := []
  /-- the packages of the job; the member tables that the planner fixes: address, PKGN and logical partition of each rank; the route
  entries that reach its members: PKGN, entry (R327) -/
  members : List Nat := []
  tables : List (Nat × List (Nat × Nat)) := []
  routes : List (Nat × Nat) := []
  /-- which of those tables are replica groups, and the cell and feed of the packages named there (R329) -/
  replicas : List Nat := []
  locs : List (Nat × Nat × Nat) := []
  /-- the job permits rebalancing; its movable layers: the stage of each, and the address of its choice byte (R332) -/
  rebalance : Bool := false
  layers : List (Nat × Nat) := []
deriving DecidableEq, Repr

/-- The choices of an admission (R324): tensors moved by steps 1 to 3, and partitions without quota. -/
structure Spill where
  s1 : List Nat := []
  s2 : List Nat := []
  s3 : List Nat := []
  s4 : List Nat := []
deriving DecidableEq, Repr

/-- A spill step has been taken. -/
def Spill.taken (x : Spill) : Bool := !(x.s1.isEmpty && x.s2.isEmpty && x.s3.isEmpty && x.s4.isEmpty)

/-- A shard that loses a partner (R329): cell and feed of its other partners, and of the spares among which the planner takes one, with the
spares' PKGNs. -/
structure Reshard where
  partners : List (Nat × Nat)
  spares : List (Nat × Nat)
  pkgns : List Nat := []
deriving DecidableEq, Repr

/-- A spare lies in another cell than every partner, its place known. -/
def Reshard.apart (x : Reshard) (a : Nat × Nat) : Bool :=
  a.1 ≠ 0xFFFF && a.2 ≠ 0xFFFF && x.partners.all fun b => b.1 ≠ a.1

/-- No spare meets R329, and one in another cell on a shared feed is taken. -/
def Reshard.degraded (x : Reshard) : Bool :=
  (x.spares.any x.apart) && !(x.spares.any fun a => x.apart a && x.partners.all fun b => b.2 ≠ a.2)

/-- The PKGN of the spare that the rule takes: the first in another cell and on another feed than every partner, else the first in another
cell. -/
def Reshard.choice (x : Reshard) : Option Nat :=
  let i := match x.spares.findIdx? fun a => x.apart a && x.partners.all fun b => b.2 ≠ a.2 with
    | some i => some i
    | none => x.spares.findIdx? x.apart
  i.bind fun i => x.pkgns[i]?

/-- A plan of recovery as one package takes part in it (R387 to R389): as the survivor of a ring's shard, with the replacement's PKGN;
as the planner, with the shards that it gives a new partner. `tables`: the member tables with the ranks handed over (R263, R387), each
with its address here. `planner`: the PKGN of the planner that sends it. `lost`: the packages that it has declared lost. -/
structure RecoveryPlan where
  mirror : Option (Fin 12 × BitVec 16) := none
  shards : List Reshard := []
  tables : List (BitVec 48 × List (BitVec 16 × Fin 12)) := []
  planner : Option (BitVec 16) := none
  lost : List (BitVec 16) := []
deriving DecidableEq, Repr

/-- Package `g` is a replacement that R329 gives for a shard of the plan. -/
def RecoveryPlan.picks (x : RecoveryPlan) (g : Nat) : Bool := x.shards.any fun y => y.choice = some g

/-- What Ephemeris keeps in the package: EPH_LAST, EPH_GEN, the jobs admitted with THRESH and RUN_LEN of their images (R137), the
consecutive imbalanced steps of each job, the images of the admitted jobs with the spill in force, and the jobs whose tier and choice
changes wait for a step boundary with their update ring idle (R321, R333), and the planner that the package follows for each job, its PKGN
counted from 1 (R333). -/
structure Eph where
  lastStatus : Nat := 0
  lastSteps : Nat := 0
  lastJob : Nat := 0
  gen : Nat := 0
  admitted : List Nat := []
  escs : SMap (Nat × Nat) := []
  imbalanced : SMap Nat := []
  jobs : List (JobImage × Spill) := []
  placeDue : List Nat := []
  planners : SMap Nat := []
deriving DecidableEq, Repr

end Sys2Proof.Machine
end

