-- ==== Sys2Proof/Machine/Types/Helio.lean ====
section
/-! DEFINITION. Types of spec/13: the Heliostat, its partitions, the regulators. -/

namespace Sys2Proof.Machine

/-- The hold-up gauge (HELIO_STAT.GAUGE, R354, R355). -/
inductive Gauge where
  | normal
  | riding
  | parking
deriving DecidableEq, Repr

/-- One HELIO[p] (R336, R337, R348 to R353, R358). -/
structure HelioP where
  fNow : Nat := 32
  /-- the thermal bubble count, the held 105 °C limit -/
  therm : Nat := 0
  limit : Bool := false
  /-- VCORE while it slews and after, mV; none: V(F_NOW), never moved since reset (R337) -/
  volt : Option Nat := none
  /-- the step that the FREE decisions have come to, under the ceiling F_STEP (R349); steps taken off by R339 -/
  free : Nat := 32
  down : Nat := 0
  /-- the partition's own count after a regulator fault (R360) -/
  own : Nat := 0
  /-- bubble counts summed over the loops since the last decision, and the loops -/
  bubSum : Nat := 0
  bubN : Nat := 0
  tj : Nat := 0
  openAt : Nat := 15
  mask : Nat := 0
  /-- consecutive samples by which each sense point has departed; clusters stretched -/
  departs : SMap Nat := []
  stretched : Nat := 0
  /-- VCORE trim with all points masked, mV, and µs since every margin is normal -/
  trim : Nat := 0
  trimUs : Nat := 0
  ballast : Bool := false
  uncal : Bool := true
  /-- a job of the partition is in recovery, until its partition is bound anew (R353, Table 14.13) -/
  recov : Bool := false
  cal : Nat := 0x4000
  /-- time of the last recalibration, µs -/
  calUs : Nat := 0
  meterUj : Nat := 0
  /-- energy attributed to the primary and the backfill job, µJ -/
  priUj : Nat := 0
  bfUj : Nat := 0
  bubbleCyc : Nat := 0
deriving DecidableEq, Repr

/-- The package-wide Heliostat (R338 to R355). Power in W, the effective cap in mW, voltage in mV, charge in µC. -/
structure Helio where
  /-- the power bubble count -/
  f : Nat := 0
  /-- the last 2,000 samples of package power, newest first -/
  samples : List Nat := []
  pNow : Nat := 0
  peak : Nat := 0
  /-- PPL and target as they take effect at the ramp-down limit (R345) -/
  soft : Nat := 3200000
  limitBy : Nat := 0
  /-- measures in force beyond bubbles: 0 none, 1 memory, 2 memory and links (R341) -/
  act : Nat := 0
  overUs : Nat := 0
  capLow : Bool := false
  withinUs : Nat := 0
  /-- PWR_SHED_N recognised low, since when, and whether SHED_STUCK was raised -/
  pinLow : Bool := false
  shedUs : Nat := 0
  stuck : Bool := false
  /-- ticks left of the hold after a shed -/
  hold : Option Nat := none
  /-- SHED_SHORT: the power reached -/
  short : Option Nat := none
  gauge : Gauge := .normal
  lossPin : Bool := false
  lossVin : Bool := false
  v0 : Nat := 0
  charge : Nat := 0
  vmin : Nat := 0
  eLeft : Nat := 0
  disagree : Nat := 0
  recal : Bool := false
  /-- of the last episode that disagreed: charge drawn, V0 − V_min; adopted at the next full recharge (R355) -/
  adopt : Option (Nat × Nat) := none
  /-- the sidereal count at the recognition of the loss (Table 13.6) -/
  lossCount : Nat := 0
  rampUp : Bool := false
  rampDown : Bool := false
  /-- µs for which a fall that the limits do not govern is still in the averages (R343) -/
  exempt : Nat := 0
  /-- energy attributed to each job of the package, µJ (R313, R353) -/
  jobUj : SMap Nat := []
  leaseEnd : Option Nat := none
  hubTj : Nat := 0
  hubHot : Bool := false
  hubPause : Bool := false
  energyUj : Nat := 0
  ballastUj : Nat := 0
  /-- which free value LOCKCAP is (R348) -/
  lockIdx : Nat := 18446744073709551616
  /-- THERMTRIP_N is low; the over-voltage alert of R447 -/
  tripped : Bool := false
  overVolt : Bool := false
deriving DecidableEq, Repr

/-- Operand of HELIOSTAT_LOOP: the readings of regulator `k` (Table 13.11), and that it is within 10 °C of its trip (R364). -/
structure VregRead where
  k : Fin 53
  iout : BitVec 16
  vout : BitVec 12
  temp : BitVec 8
  pin : BitVec 16
  warm : Bool
deriving DecidableEq, Repr

/-- Operand of HELIOSTAT_LOOP: the gauge's sample in an episode (voltage, charge) and the regulators' readings. -/
structure LoopReads where
  gauge : Option (BitVec 16 × BitVec 32) := none
  vregs : List VregRead := []
deriving DecidableEq, Repr

/-- A regulator (R335, R360). -/
structure Vreg where
  on : Bool := false
  /-- it has faulted, whether or not the record is still held -/
  failed : Bool := false
  fault : Option Nat := none
  /-- the last readings: 0.1 A, mV, °C, 0.1 W; it is at its rating; it is within 10 °C of its trip (Table 13.11, R364) -/
  iout : Nat := 0
  vout : Nat := 0
  temp : Nat := 0
  pin : Nat := 0
  atRating : Bool := false
  warm : Bool := false
deriving DecidableEq, Repr

end Sys2Proof.Machine
end

