-- ==== Sys2Proof/Machine/Types/Link.lean ====
section
/-! DEFINITION. Types of spec/09: links, packets, transactions. -/

namespace Sys2Proof.Machine

/-- Link states (Table 9.2). A draining link remembers where it goes. -/
inductive LState where
  | disabled
  | detect
  | train
  | align
  | digest
  | quarantine
  | linkup
  | retry
  | sparing
  | drainDisable (reenable : Bool)
  | drainQuarantine
  | failed
deriving DecidableEq, Repr

/-- A packet (Tables 9.9, 9.10). `space`: 0 ordered, 1 read, 2 management. `extra` in a DROP or NOROUTE notice is the
lost packet's far-end PKGN. -/
structure Pkt where
  kind : Nat := 0
  g : Bool := false
  resync : Bool := false
  hint : Nat := 0
  level : Nat := 0
  hops : Nat := 0
  lpart : Nat := 0
  dst : Nat := 0
  src : Nat := 0
  owner : Nat := 0
  tid : Nat := 0
  job : Nat := 0
  addr : Nat := 0
  operand : Nat := 0
  op : Nat := 0
  size : Nat := 0
  status : Nat := 0
  data : List Nat := []
  /-- bytes asked for by a READ, which carries none (LENGTH) -/
  len : Nat := 0
  /-- bit f: flit f of the packet is poisoned (R235) -/
  pois : Nat := 0
deriving DecidableEq, Repr

/-- A data flit sent and not acknowledged (R241): its SEQ, the SEQ of its packet's first flit, its place in the packet, whether it
took a pool credit (R237), and the packet. -/
structure Flit where
  seq : Nat
  first : Nat
  idx : Nat
  pool : Bool := false
  pkt : Pkt
deriving DecidableEq, Repr

/-- A packet being received on one virtual channel: its payload so far, its poisoned flits, how many flits, and the shares of the
receive buffer they lie in (R237, R239). -/
structure Partial where
  bytes : List Nat := []
  pois : Nat := 0
  flits : Nat := 0
  shares : List Nat := []
deriving DecidableEq, Repr

/-- A packet that waits to leave on a link: flits of it already sent, the SEQ of the first, and the receive buffer that holds it
meanwhile: its link (36: none) and the shares it takes there (R237). -/
structure TxPkt where
  pkt : Pkt
  sent : Nat := 0
  first : Nat := 0
  src : Nat := 36
  shares : List Nat := []
deriving DecidableEq, Repr

/-- A link's own state (R224 to R248). `retry` is the retry buffer, oldest first, at most 256 flits; `log` the in-flight
log entries older than it. `parts` are the packets being received, by virtual channel; `txq` the packets waiting to leave, `turn` the
round robin of each group of channels; `spent` counts the credits spent of each share of the far side's receive buffer, `credits`
those it has freed, `freed` those freed here, modulo 65,536; `peerDg` is the far side's last DIGEST block. -/
structure Link where
  state : LState := .detect
  rtt : Nat := 0
  rxLane : SMap Nat := []
  txLane : SMap Nat := []
  rxBad : Nat := 0
  txBad : Nat := 0
  /-- spares to be switched in: switch SEQ, logical lane, spare (R244) -/
  rxSw : List (Nat × Nat × Nat) := []
  txSw : List (Nat × Nat × Nat) := []
  /-- the SEQ of a NAK received in SPARING -/
  nakAt : Option Nat := none
  /-- the tick period has switched here, and the far side's DIGEST after its own switch has not come (R258) -/
  periodDue : Bool := false
  quar : Nat := 0
  peer : Option (Nat × Nat × Nat × Nat) := none
  txSeq : Nat := 0
  rxSeq : Nat := 0
  acked : Nat := 0xFFFF
  retry : List Flit := []
  log : List Flit := []
  parts : SMap Partial := []
  txq : List TxPkt := []
  turn : SMap Nat := []
  /-- a retry episode of the receive path is open; the SEQ whose acknowledgement ends a replay of the transmit path -/
  episode : Bool := false
  replayTo : Option Nat := none
  failUs : Nat := 0
  credits : SMap Nat := []
  spent : SMap Nat := []
  freed : SMap Nat := []
  peerDg : List Nat := []
  flitsTx : Nat := 0
  flitsRx : Nat := 0
  fecSym : Nat := 0
deriving DecidableEq, Repr

/-- The links at reset (R227, Table 9.3): no licence is in force, so every O-link is DISABLED and every E-link in DETECT. -/
def resetLinks : SMap Link := (List.range 12).map fun p => (3 * p + 2, { state := .disabled })

/-- Where a transfer's data goes: a package physical address, a remote address form, or a host address: the port, the requester's VF, the
IOVA and the translated address, and whether the server has invalidated that translation (R425). -/
inductive Dst where
  | here (pa hint : Nat)
  | remote (pkgn lpart addr hint : Nat)
  | host (port vf iova addr : Nat) (old : Bool)
deriving DecidableEq, Repr

/-- What a transaction's end is reported to (R255, R256). -/
inductive XOrigin where
  /-- writes of a descriptor of a channel -/
  | desc (p eng ch id : Nat)
  /-- a read of a descriptor: the piece, where its data goes, a path parity error on its data -/
  | descRead (p eng ch id num : Nat) (dsts : List Dst) (parity : Bool)
  /-- a signal of a descriptor that has completed -/
  | signal (p : Nat)
  /-- a CTR or BAR update with R = 1 of a slot -/
  | core (p i slot : Nat)
  /-- an AMO of a slot: the S register that takes the old value -/
  | amo (p i slot reg size : Nat)
  /-- an instruction line of a slot (R72) -/
  | fetch (p i slot line : Nat)
  /-- a packet of a collective launch: queue, lane, how many launches had ended there before it (none: it belongs to no launch that runs
  there), and the send that a DATA packet belongs to -/
  | coll (p q lane : Nat) (launch : Option Nat) (send : Option Nat)
  /-- a vote on its way between packages (R282), from the vote queue of a partition -/
  | vote (p q : Nat)
  | mgmt (kind : Nat)
  /-- a write of a region copied to a replacement (R389): the ring, and the number of the copy -/
  | mirror (ring tag : Nat)
  /-- its issuer has been reset: the response is absorbed (Table 14.9); the partition that issued it -/
  | orphan (p : Nat)
  | none
deriving DecidableEq, Repr

/-- The partition whose channels, cores or lanes a transaction belongs to. -/
def XOrigin.part : XOrigin → Option Nat
  | .desc p _ _ _ => .some p
  | .descRead p _ _ _ _ _ _ => .some p
  | .signal p => .some p
  | .core p _ _ => .some p
  | .amo p _ _ _ _ => .some p
  | .fetch p _ _ _ => .some p
  | .coll p _ _ _ _ => .some p
  | .vote p _ => .some p
  | .orphan p => .some p
  | _ => .none

/-- The channel and descriptor that a transaction moves data of. -/
def XOrigin.descOf : XOrigin → Option (Nat × Nat × Nat × Nat)
  | .desc p j ch id => .some (p, j, ch, id)
  | .descRead p j ch id _ _ _ => .some (p, j, ch, id)
  | _ => .none

/-- An outstanding transaction at its issuer (R253, R255). -/
structure Xact where
  pkt : Pkt
  space : Nat
  origin : XOrigin
  sentUs : Nat
  reissues : Nat := 0
  /-- issued with a translation that has been invalidated since (R176) -/
  old : Bool := false
  /-- the link its request last departed on, then the one its response arrived on (R259) -/
  via : Option Nat := none
  /-- formed for a package that cannot be named, so never sent (R23) -/
  refused : Bool := false
deriving DecidableEq, Repr

/-- Key of a TID space of a package: package × 4 + space. -/
abbrev SpaceKey := Nat

/-- The transaction unit and the issuers' sides (R253 to R257). `nextTid` and `resync` are the issuer's; `known`, `next`,
`hold`, `atoms` and `mreqs` the target's. -/
structure Xu where
  nextTid : SMap Nat := []
  resyncDue : SMap Bool := []
  /-- spaces in which the first request since the package reset has gone out (R400) -/
  synced : SMap Bool := []
  outs : List Xact := []
  known : SMap Bool := []
  next : SMap Nat := []
  hold : List (Nat × Pkt) := []
  /-- recorded results of atomics, newest first, at most 131,072: space key, TID, status, old value, its poison mark -/
  atoms : List (Nat × Nat × Nat × Nat × Nat) := []
  /-- recorded responses of management requests, newest first, at most 64 for each issuer: space key, TID, status, data -/
  mreqs : List (Nat × Nat × Nat × Nat) := []
  /-- transactions that have ended and whose origin has not been told yet, with the response (kind 0: REMOTE_FAIL) -/
  ended : List (Xact × Pkt) := []
  /-- packets that have arrived and are not yet handled, with their link (36: from this package) and the shares of its receive buffer
  that they take -/
  arrived : List (Nat × Pkt × List Nat) := []
deriving DecidableEq, Repr

end Sys2Proof.Machine
end

