-- ==== Sys2Proof/Machine/Types/Host.lean ====
section
/-! DEFINITION. Types of spec/16: PCIe ports, the management controller, SPDM, JTAG, the Eyepiece. -/

namespace Sys2Proof.Machine

/-- A device-initiated request of a port that waits for its completion (R425, R177), of descriptor `id` of a channel: a read of piece
`num` from an IOVA page with where its data goes, a path parity error on it, whether its translation has been invalidated since
(R176); an ATS
translation request, and whether it is the retry after a page request; a PRI page request. -/
inductive PcieReq where
  | read (p eng ch id num page n : Nat) (dsts : List Dst) (parity old : Bool)
  | ats (p eng ch id va page : Nat) (write retried : Bool)
  | pri (p eng ch id va page : Nat) (write : Bool)
deriving DecidableEq, Repr

/-- The state of a port function's MSI-X capability (R427): enabled, masked vectors, pending vectors, the address and data words of its
table by vector × 4 + word (R423). -/
structure Msix where
  enabled : Bool := false
  masked : Nat := 0
  pending : Nat := 0
  table : SMap Nat := []
deriving DecidableEq, Repr

/-- How the server configures a function of a port: MSI-X enabled with these vectors masked, its two BARs (R423, R427). -/
structure FnCfg where
  fn : Fin 13
  masked : BitVec 32 := 0
  bar0 : BitVec 64 := 0
  bar2 : BitVec 64 := 0
deriving DecidableEq, Repr

/-- A PCIe port (R422 to R428). ATS cache entries are (partition, IOVA page, write allowed, translated page address); `held` the write
TLPs of R378, each its fields and bytes; `invals` ATS invalidations that wait: VF, first page, pages, and the tags of requests that use
them; `bars` the BAR addresses of the functions; `due` the configuration that waits for READY: VFs enabled and functions (R452). -/
structure Pcie where
  gen : Nat := 0
  width : Nat := 0
  perst : Bool := false
  vfEn : Nat := 0
  ats : List (Nat × Nat × Bool × Nat) := []
  reqs : SMap (Option PcieReq) := []
  nextTag : Nat := 0
  held : List (List Nat) := []
  invals : List (Nat × Nat × Nat × List Nat) := []
  msix : SMap Msix := []
  bars : SMap (Nat × Nat) := []
  due : Option (Nat × List FnCfg) := none
  devRd : Nat := 0
  devWr : Nat := 0
  hostBytes : Nat := 0
deriving DecidableEq, Repr

/-- The state of a firmware update under PLDM type 5 (R432). -/
inductive UpdState where
  | idle
  /-- data received so far, in bytes, and the time of the last command -/
  | download (bytes lastUs : Nat)
  /-- verified, at this time -/
  | verified (lastUs : Nat)
  | activated
deriving DecidableEq, Repr

/-- The progress of an SPDM responder (R435), from GET_VERSION on. -/
inductive SpdmState where
  | start
  | version
  | caps
  | negotiated
deriving DecidableEq, Repr

/-- The management controller (R429 to R435). -/
structure Mgmt where
  eid : Nat := 0
  i3cDa : Nat := 0
  restarts : Nat := 0
  upd : UpdState := .idle
  updBank : Nat := 0
  eventRx : Option Nat := none
  /-- time + 1 of the last event of each page cause -/
  lastEvent : SMap Nat := []
  spdm : SpdmState := .start
  /-- board instruction of the TAP (R436): its table position, and whether it acts -/
  jtagIr : Nat := 0
  jtagActs : Bool := false
  /-- the boundary chain, as SAMPLE/PRELOAD captured it and EXTEST drives it -/
  jtagChain : Nat := 0
deriving DecidableEq, Repr

/-- What EYEP_HALT does to the named core (R438): halts or resumes its slots, or reads (no value) or writes one of its registers or a
byte of its core memory. -/
inductive HaltOp where
  | run (on : Bool)
  | sreg (slot : Fin 2) (r : Fin 32) (v : Option (BitVec 64))
  | areg (slot : Fin 2) (r : Fin 16) (v : Option (BitVec 64))
  | td (slot : Fin 2) (r : Fin 16) (v : Option (BitVec 128))
  | pc (slot : Fin 2) (v : Option (BitVec 57))
  | flags (slot : Fin 2) (v : Option (BitVec 11))
  | actl (slot : Fin 2) (v : Option (BitVec 32))
  | vreg (r : Fin 32) (v : Option (BitVec 1024))
  | mem (off : BitVec 19) (v : Option (BitVec 8))
deriving DecidableEq, Repr

/-- The Eyepiece (R437, R438). -/
structure Eyep where
  unlocked : Bool := false
  nonce : Option Nat := none
  wrapped : Bool := false
  idx : Nat := 0
  full : Bool := false
  drops : Nat := 0
deriving DecidableEq, Repr

end Sys2Proof.Machine
end

