-- ==== Sys2Proof/Machine/Types/Upd.lean ====
section
/-! DEFINITION. Types of spec/11: step rings of the update engine, resident-host cores. -/

namespace Sys2Proof.Machine

/-- Where a step of the update engine stands (R304). -/
inductive UpdPhase where
  | vote
  | regions
  | finished
deriving DecidableEq, Repr

/-- A step in progress on a ring: its record of 64 bytes, its phase, what the result record will say. The CRCs run over the
bytes written so far (R310), kept as CRC-32 registers before their final inversion. -/
structure UpdStep where
  rec' : List Nat
  phase : UpdPhase := .vote
  vote : Nat := 0
  status : Nat := 0
  regions : Nat := 0
  updated : Nat := 0
  guarded : Nat := 0
  masterCrc : Nat := 0xFFFFFFFF
  momentCrc : Nat := 0xFFFFFFFF
deriving DecidableEq, Repr

/-- A step ring (Table 11.13). `stopped`: it takes no record until it is rebound (R306, Table 11.10). -/
structure Ring where
  bound : Bool := false
  prod : Nat := 0
  cons : Nat := 0
  stopped : Bool := false
  step : Option UpdStep := none
  lastStep : Nat := 0
  lastStatus : Nat := 0
  jpt : Nat := 0
  /-- energy attributed to each job when the ring's last result was written, µJ (R313) -/
  seenUj : SMap Nat := []
  /-- group and ordinal of the vote of the step that ended last (R389) -/
  voted : Option (Nat × Nat) := none
  /-- regions in the list of the step that ended last (R389) -/
  regions : Nat := 0
deriving DecidableEq, Repr

/-- The update engine: its rings, the ring it served last, its totals (Table 11.12). -/
structure Upd where
  rings : SMap Ring := []
  cur : Option Nat := none
  elements : Nat := 0
  capBytes : Nat := 0
  guards : Nat := 0
deriving DecidableEq, Repr

/-- Operand of UPDATE_STEP_END: the ring, and whether its result write meets an uncorrectable error (R313). -/
structure StepEndPick where
  r : Fin 12
  unc : Bool := false
deriving DecidableEq, Repr

/-- RHOST_STAT.STATE (Table 11.14). -/
inductive HState where
  | running
  | waiting
  | stopped
  | offline
deriving DecidableEq, Repr

/-- A resident-host core: what its page shows (Table 11.14), and the x, f and 512-bit v registers of RV64GCV (R5, R314). No row of the
opcode table runs an instruction of it, so no command writes those registers (assumption log 83). -/
structure RHost where
  state : HState := .running
  /-- a change of owner waits for the core's next trap boundary; partition and job of the job code that it ends (R315) -/
  moveDue : Bool := false
  ended : Option (Nat × Nat) := none
  cause : Nat := 0
  pc : Nat := 0
  cycles : Nat := 0
  instret : Nat := 0
  x : SMap (BitVec 64) := []
  f : SMap (BitVec 64) := []
  v : SMap (BitVec 512) := []
  fcsr : BitVec 8 := 0
  vl : Nat := 0
  vtype : BitVec 64 := 0
  vstart : Nat := 0
  vcsr : BitVec 3 := 0
deriving DecidableEq, Repr

end Sys2Proof.Machine
end

