-- ==== Sys2Proof/Syntax.lean ====
section
/-! DEFINITION. The commands of the block: one constructor for each row of the opcode table. -/

namespace Sys2Proof

open Sys2Proof.Machine

/-- A command: an instruction word that comes to issue in a slot of a core, a management access, something that arrives on a link or a
port, or an event of the package's engines and pins. Partitions, cores and other units are physical. -/
inductive Instr where
  /-- REGISTER_WRITE (R37): A management write to a register field with no row of its own, checked against width, lock and legal
  range and silently clamped and counted where needed. -/
  | registerWrite (req : Requester) (off : BitVec 32) (size : BitVec 4) (v : BitVec 64) (pois : Bool)
  /-- HDR_LOCK_SET (R35): Writing HDR_LOCK.LOCK as 1 makes the page's RW fields read-only to all but the recorded owner. -/
  | hdrLockSet (key : BitVec 20) (req : Requester)
  /-- IRQ_CAUSE_CLEAR (R36): Writing 1 to a bit of HDR_IRQ_STAT clears that cause and frees any fault record held under it. -/
  | irqCauseClear (key : BitVec 20) (req : Requester) (v : BitVec 32)
  /-- CLAMP_CNT_CLEAR (R39): Writing zero to HDR_CLAMP_CNT clears it; a nonzero write is ignored. -/
  | clampCntClear (key : BitVec 20) (req : Requester) (v : BitVec 16)
  /-- LOGBOOK_CLEAR (R41): Writing zero to a Logbook counter clears it, with a same-cycle event counted after the clear. -/
  | logbookClear (key : BitVec 20) (req : Requester) (m : Fin 128) (v : BitVec 32)
  /-- BLOCK_DISABLE (R386): Writing HDR_CTL.ENABLE as 0 stops new work and drains accepted work with DRAINING set. -/
  | blockDisable (key : BitVec 20) (req : Requester)
  /-- BLOCK_ENABLE (R386): Writing HDR_CTL.ENABLE as 1 resumes acceptance of work and ends any drain at once. -/
  | blockEnable (key : BitVec 20) (req : Requester)
  /-- LOGBOOK_SNAPSHOT (R43): At every tick whose count is a multiple of 1,024, a page with LOG_SNAP_EN writes its 576-byte snapshot
  record to HDR_LOG_BASE. -/
  | logbookSnapshot (key : BitVec 20) (unc : Bool)
  /-- TICK (R47): The local tick occurs: the sidereal count increments, frames begin, tick symbols are sent on every LINKUP link and
  the phase error to the upstream is measured and slewed. -/
  | tick (arrive : Int)
  /-- FRAME_SLIP (R65): A partition falls more than OVR_LIMIT frames behind, raising FRAME_SLIP and a job fault. -/
  | frameSlip (p : Fin 12)
  /-- LOCK_ACHIEVED (R52): Eight consecutive ticks with phase error within 25 ns move a LOCKING or OUT_OF_STEP package to LOCKED. -/
  | lockAchieved
  /-- TICK_SYMBOL_RECEIVE (R49): A tick symbol received on a link is used for upstream selection, steering, count adoption and state
  changes. -/
  | tickSymbolReceive (n : Fin 36) (block : BitVec 128)
  /-- CLAIM_RECEIVE (R53): A claim symbol is compared with the best seen, forwarded if better, and causes a weaker claimant to
  withdraw into LOCKING. -/
  | claimReceive (n : Fin 36) (block : BitVec 128)
  /-- MASTER_ID_RECEIVE (R57): A MASTER_ID symbol is compared against the own master and either confirms the link or makes the
  package change side and raise TIME_MERGE. -/
  | masterIdReceive (n : Fin 36) (block : BitVec 128)
  /-- MASTER_TIMEOUT (R52): No tick symbol for MASTER_TO ticks in LISTEN starts a claim by a package with nonzero PRIO. -/
  | masterTimeout
  /-- CLAIM_WON (R54): No better claim within the convergence bound makes the claimant MASTER with an incremented epoch. -/
  | claimWon
  /-- HOLDOVER_ENTRY (R52): No tick symbol on any link for 2 ticks moves the package to HOLDOVER. -/
  | holdoverEntry
  /-- HOLDOVER_CLAIM (R52): HOLDOVER lasting MASTER_TO ticks starts a claim with frames still running. -/
  | holdoverClaim
  /-- MASTER_RESIGN (R52): Writing MERID_CTL.PRIO as 0 at the master returns it to LISTEN and stops its ticks. -/
  | masterResign (req : Requester)
  /-- MASTER_ID_BROADCAST (R58): At each tick whose count is a multiple of 1,024 the package sends MASTER_ID on every LINKUP link. -/
  | masterIdBroadcast
  /-- TICK_REF_EDGE (R60): A TICK_REF rising edge at the master is accepted to discipline the tick or rejected and counted if too
  early. -/
  | tickRefEdge (dt : Nat) (high : Nat) (residual : Nat)
  /-- REF_HOLDOVER (R60): No accepted TICK_REF edge for two programmed periods puts the master's reference in HOLDOVER. -/
  | refHoldover
  /-- HOLDOVER_EXPIRED (R60): Reference holdover lasting 10 minutes raises HOLDOVER_EXPIRED. -/
  | holdoverExpired
  /-- PERIOD_SWITCH_ARM (R62): Writing MERID_SWITCH_HI with ARM = 1 arms a tick-period change at SWITCH_AT, clamped to at least
  current count plus 8. -/
  | periodSwitchArm (req : Requester) (v : BitVec 32)
  /-- PERIOD_SWITCH (R62): At the armed count the new period takes effect, ARM clears and every link re-exchanges its digest. -/
  | periodSwitch
  /-- RTT_REMEASURE (R50): Every 1,024 ticks each up link remeasures its round trip to update its tick compensation. -/
  | rttRemeasure
  /-- RTT_PROBE_RECEIVE (R236): A received RTT_PROBE is answered with an RTT_ECHO carrying the value received. -/
  | rttProbeReceive (n : Fin 36) (block : BitVec 128)
  /-- RTT_ECHO_RECEIVE (R50): A received RTT_ECHO completes a round-trip measurement and sets the link compensation. -/
  | rttEchoReceive (n : Fin 36) (block : BitVec 128) (rtt : BitVec 32)
  /-- ALU (R75): Scalar ALU instruction in SR format performs the function selected on two S registers. -/
  | alu (p : Fin 12) (i : Fin 153) (sl : Fin 2) (w : BitVec 64)
  /-- ALU_IMMEDIATE (R75): Scalar ALU instruction with a sign-extended immediate as second source. -/
  | aluImmediate (p : Fin 12) (i : Fin 153) (sl : Fin 2) (w : BitVec 64)
  /-- MULTIPLY (R75): Scalar multiply writing the low or high 64 bits of the product. -/
  | multiply (p : Fin 12) (i : Fin 153) (sl : Fin 2) (w : BitVec 64)
  /-- DIVIDE (R75): Scalar divide or remainder with defined results for division by zero and overflow. -/
  | divide (p : Fin 12) (i : Fin 153) (sl : Fin 2) (w : BitVec 64)
  /-- LOAD_CONSTANT (R75): Loads a sign-extended 48-bit constant into an S or A register. -/
  | loadConstant (p : Fin 12) (i : Fin 153) (sl : Fin 2) (w : BitVec 64)
  /-- LOAD (R71): SM-format scalar or vector load from core memory within the slot's window. -/
  | load (p : Fin 12) (i : Fin 153) (sl : Fin 2) (w : BitVec 64) (ev : SramEvent)
  /-- STORE (R71): SM-format scalar or vector store to core memory, interlocked against outstanding matrix extents. -/
  | store (p : Fin 12) (i : Fin 153) (sl : Fin 2) (w : BitVec 64)
  /-- BRANCH (R75): Conditional branch by a signed displacement on the condition of the BR format. -/
  | branch (p : Fin 12) (i : Fin 153) (sl : Fin 2) (w : BitVec 64)
  /-- BRANCH_AND_LINK (R75): Unconditional branch that writes the next instruction's address to an S register. -/
  | branchAndLink (p : Fin 12) (i : Fin 153) (sl : Fin 2) (w : BitVec 64)
  /-- JUMP (R75): Jump to the address held in an S register. -/
  | jump (p : Fin 12) (i : Fin 153) (sl : Fin 2) (w : BitVec 64)
  /-- VADD (R125): Element-wise vector addition. -/
  | vadd (p : Fin 12) (i : Fin 153) (sl : Fin 2) (w : BitVec 64)
  /-- VSUB (R125): Element-wise vector subtraction. -/
  | vsub (p : Fin 12) (i : Fin 153) (sl : Fin 2) (w : BitVec 64)
  /-- VMUL (R125): Element-wise vector multiplication. -/
  | vmul (p : Fin 12) (i : Fin 153) (sl : Fin 2) (w : BitVec 64)
  /-- VFMA (R125): Fused multiply-add Va × Vb + Vc rounded once, FP32 and BF16 only. -/
  | vfma (p : Fin 12) (i : Fin 153) (sl : Fin 2) (w : BitVec 64)
  /-- VMIN (R125): Element-wise minimum, canonical NaN if either operand is NaN. -/
  | vmin (p : Fin 12) (i : Fin 153) (sl : Fin 2) (w : BitVec 64)
  /-- VMAX (R125): Element-wise maximum, canonical NaN if either operand is NaN. -/
  | vmax (p : Fin 12) (i : Fin 153) (sl : Fin 2) (w : BitVec 64)
  /-- VABS (R125): Clears each element's sign bit, NaN giving the canonical NaN. -/
  | vabs (p : Fin 12) (i : Fin 153) (sl : Fin 2) (w : BitVec 64)
  /-- VNEG (R125): Inverts each element's sign bit, NaN giving the canonical NaN. -/
  | vneg (p : Fin 12) (i : Fin 153) (sl : Fin 2) (w : BitVec 64)
  /-- VCMP (R125): Element-wise comparison producing all-ones or zero masks. -/
  | vcmp (p : Fin 12) (i : Fin 153) (sl : Fin 2) (w : BitVec 64)
  /-- VSEL (R75): Selects each element from Va or Vb by the mask in Vc. -/
  | vsel (p : Fin 12) (i : Fin 153) (sl : Fin 2) (w : BitVec 64)
  /-- VAND (R75): Bitwise AND over the whole vector register. -/
  | vand (p : Fin 12) (i : Fin 153) (sl : Fin 2) (w : BitVec 64)
  /-- VOR (R75): Bitwise OR over the whole vector register. -/
  | vor (p : Fin 12) (i : Fin 153) (sl : Fin 2) (w : BitVec 64)
  /-- VXOR (R75): Bitwise XOR over the whole vector register. -/
  | vxor (p : Fin 12) (i : Fin 153) (sl : Fin 2) (w : BitVec 64)
  /-- VSHL (R75): INT32 left shift of each element by a per-element count. -/
  | vshl (p : Fin 12) (i : Fin 153) (sl : Fin 2) (w : BitVec 64)
  /-- VSHR (R75): INT32 logical or arithmetic right shift of each element. -/
  | vshr (p : Fin 12) (i : Fin 153) (sl : Fin 2) (w : BitVec 64)
  /-- VBCAST (R75): Broadcasts the low bits of an S register to every element. -/
  | vbcast (p : Fin 12) (i : Fin 153) (sl : Fin 2) (w : BitVec 64)
  /-- VRSUM (R75): Sums Va's elements in ascending order into element 0. -/
  | vrsum (p : Fin 12) (i : Fin 153) (sl : Fin 2) (w : BitVec 64)
  /-- VRMAX (R75): Maximum of Va's elements into element 0. -/
  | vrmax (p : Fin 12) (i : Fin 153) (sl : Fin 2) (w : BitVec 64)
  /-- VRMIN (R75): Minimum of Va's elements into element 0. -/
  | vrmin (p : Fin 12) (i : Fin 153) (sl : Fin 2) (w : BitVec 64)
  /-- VSF (R126): FP32 special function exp2, log2, reciprocal, reciprocal square root or tanh, correctly rounded. -/
  | vsf (p : Fin 12) (i : Fin 153) (sl : Fin 2) (w : BitVec 64)
  /-- VPERM (R75): Permutes Va's elements by the indices in Vb. -/
  | vperm (p : Fin 12) (i : Fin 153) (sl : Fin 2) (w : BitVec 64)
  /-- VEXT (R75): Extracts one element of Va into an S register. -/
  | vext (p : Fin 12) (i : Fin 153) (sl : Fin 2) (w : BitVec 64)
  /-- VINS (R75): Inserts the low bits of an S register into one element of the destination. -/
  | vins (p : Fin 12) (i : Fin 153) (sl : Fin 2) (w : BitVec 64)
  /-- CVT (R127): Vector conversion between FP32, BF16, binary16, INT32 and the narrow formats, with optional block scaling or
  stochastic rounding. -/
  | cvtVec (p : Fin 12) (i : Fin 153) (sl : Fin 2) (w : BitVec 64)
  /-- NOP (R75): System no-operation. -/
  | nop (p : Fin 12) (i : Fin 153) (sl : Fin 2) (w : BitVec 64)
  /-- RDSYS (R75): Reads the system value named by the selector into an S register. -/
  | rdsys (p : Fin 12) (i : Fin 153) (sl : Fin 2) (w : BitVec 64)
  /-- BPOST (R98): Marks a batch slot valid after all older stores of the slot are written. -/
  | bpost (p : Fin 12) (i : Fin 153) (sl : Fin 2) (w : BitVec 64)
  /-- FLG_READ (R130): Reads the slot's flag word after older matrix and vector instructions have merged their flags. -/
  | flgRead (p : Fin 12) (i : Fin 153) (sl : Fin 2) (w : BitVec 64)
  /-- FLG_CLEAR (R130): Reads the flag word and clears the bits named in the immediate. -/
  | flgClear (p : Fin 12) (i : Fin 153) (sl : Fin 2) (w : BitVec 64)
  /-- ACTL_SET (R130): Sets the arithmetic control word, faulting on any reserved code. -/
  | actlSet (p : Fin 12) (i : Fin 153) (sl : Fin 2) (w : BitVec 64)
  /-- ACTL_READ (R130): Reads ACTL into an S register. -/
  | actlRead (p : Fin 12) (i : Fin 153) (sl : Fin 2) (w : BitVec 64)
  /-- FRAME_END (R76): Ends the slot's current frame; the partition's frame completes when every core has executed it. -/
  | frameEnd (p : Fin 12) (i : Fin 153) (sl : Fin 2) (w : BitVec 64)
  /-- INSTRUCTION_FETCH_MISS (R72): An instruction-cache miss reads the line through the MMU, raising FETCH on a translation fault
  or uncorrectable data. -/
  | instructionFetchMiss (p : Fin 12) (i : Fin 153) (sl : Fin 2) (parity : Bool) (ev : MemEvent)
  /-- BACKFILL_SWITCH (R80): After SWITCH_AFTER consecutive primary stall cycles the core switches to the backfill slot in 240
  cycles. -/
  | backfillSwitch (p : Fin 12) (i : Fin 153)
  /-- BACKFILL_SWITCH_BACK (R81): The primary's wait condition ending stops the backfill slot at its next instruction or pass
  boundary and switches back. -/
  | backfillSwitchBack (p : Fin 12) (i : Fin 153)
  /-- SWITCH_COMPLETE (R80): A context switch finishes saving and restoring vector registers and the incoming slot resumes issue. -/
  | switchComplete (p : Fin 12) (i : Fin 153)
  /-- MM_WS (R88): Weight-stationary forward matrix multiply C = A · B queued after issue checks. -/
  | mmWs (p : Fin 12) (i : Fin 153) (sl : Fin 2) (w : BitVec 64)
  /-- MM_WT (R88): Weight-stationary transposed multiply C = A · Bᵀ reading planes along the other axis. -/
  | mmWt (p : Fin 12) (i : Fin 153) (sl : Fin 2) (w : BitVec 64)
  /-- MM_OS (R88): Output-stationary multiply C = Aᵀ · B over the rows of A and B. -/
  | mmOs (p : Fin 12) (i : Fin 153) (sl : Fin 2) (w : BitVec 64)
  /-- MM_PLD (R94): Loads and retains planes for B without computing. -/
  | mmPld (p : Fin 12) (i : Fin 153) (sl : Fin 2) (w : BitVec 64)
  /-- MM_PREL (R95): Releases the slot's retained planes. -/
  | mmPrel (p : Fin 12) (i : Fin 153) (sl : Fin 2) (w : BitVec 64)
  /-- MM_WAIT (R88): Waits until at most COUNT matrix instructions of the slot are outstanding. -/
  | mmWait (p : Fin 12) (i : Fin 153) (sl : Fin 2) (w : BitVec 64)
  /-- MM_BATCH (R98): Queues a weight-stationary multiply on the rows gathered by the batch assembler. -/
  | mmBatch (p : Fin 12) (i : Fin 153) (sl : Fin 2) (w : BitVec 64)
  /-- MM_TDLD (R88): Loads a tile descriptor from core memory. -/
  | mmTdld (p : Fin 12) (i : Fin 153) (sl : Fin 2) (w : BitVec 64)
  /-- MM_TDST (R88): Stores a tile descriptor to core memory. -/
  | mmTdst (p : Fin 12) (i : Fin 153) (sl : Fin 2) (w : BitVec 64)
  /-- MATRIX_PASS_START (R93): The array starts the next pass of a queued matrix instruction when it is free and queue precedence
  allows. -/
  | matrixPassStart (p : Fin 12) (i : Fin 153) (sl : Fin 2)
  /-- MATRIX_ATTEMPT_END (R142): An attempt of a pass ends and either repeats the pass at a higher rung or lets the drain write the
  block. -/
  | matrixAttemptEnd (p : Fin 12) (i : Fin 153) (sl : Fin 2)
  /-- MATRIX_COMPLETE (R90): A matrix instruction's last result word is written, its flags merge and its queue entry frees. -/
  | matrixComplete (p : Fin 12) (i : Fin 153) (sl : Fin 2)
  /-- BATCH_LAUNCH (R98): MM.BATCH launches when all 48 slots are valid, taking and clearing the valid mask. -/
  | batchLaunch (p : Fin 12) (i : Fin 153)
  /-- BATCH_DEADLINE (R98): At the tick beginning frame f + DEADLINE a partial batch launches, or completes empty if nothing was
  posted. -/
  | batchDeadline (p : Fin 12) (i : Fin 153)
  /-- MSC_ACCESS (R153): An access arrives at its home memory-side cache and is served under its hint with fill, keep and
  replacement rules. -/
  | mscAccess (p : Fin 12) (loc : BitVec 36) (len : BitVec 12) (write : Bool) (hint : BitVec 2) (data : List Byte) (pois : Bool) (ev : MemEvent)
  /-- CAPACITY_ACCESS (R163): A capacity controller reads or writes a line with its check block, merging partial writes. -/
  | capacityAccess (d : Fin 16) (addr : BitVec 36) (len : BitVec 8) (write : Bool) (data : List Byte) (pois : Bool) (ev : MemEvent)
  /-- KEEP_RELEASE (R154): Writing MSC_CTL.KEEP_RELEASE clears every keep mark in the cache. -/
  | keepRelease (p : Fin 12) (req : Requester)
  /-- MSC_FLUSH (R156): Writing MSC_CTL.FLUSH starts writing back every dirty line. -/
  | mscFlush (p : Fin 12) (req : Requester)
  /-- FLUSH_DONE (R156): The last write-back of a flush completes, FLUSH reads 0 and FLUSH_DONE is raised. -/
  | flushDone (p : Fin 12)
  /-- SCRUB_PASS (R169): Each memory controller scrubs its memory every SCRUB_HOURS, correcting units and marking uncorrectables
  with poison. -/
  | scrubPass (cap : Bool) (n : Fin 16) (evs : List (BitVec 36 × MemEvent))
  /-- IMAP_NEXT_WRITE (R161): Writing HBMC_IMAP.NEXT sets the interleave mode for the next package reset in all twelve pages and
  schedules an Almanac write. -/
  | imapNextWrite (p : Fin 12) (req : Requester) (v : BitVec 2)
  /-- TRANSLATION_WALK (R173): A transfer or fetch reaching an untranslated page walks the slot's page tables. -/
  | translationWalk (p : Fin 12) (slot : Fin 2) (eng : Option (Fin 36)) (va : BitVec 64) (k : WalkPick)
  /-- MMU_RESUME (R179): An MMU_RESP action RESUME for a pending record retranslates and continues the parked channel. -/
  | mmuResume (p : Fin 12) (req : Requester)
  /-- MMU_FAIL (R179): An MMU_RESP action FAIL ends the faulted transfer with TRANSLATION_FAIL and a job fault. -/
  | mmuFail (p : Fin 12) (req : Requester)
  /-- MMU_FAULT_TIMEOUT (R179): A fault record unanswered for MMU_FAULT_TO ticks is treated as FAIL and raises FAULT_TIMEOUT. -/
  | mmuFaultTimeout (p : Fin 12) (id : BitVec 32)
  /-- FAULT_QUEUE_CONSUME (R179): Writing MMU_FQ_CONS frees queue slots so a channel waiting on a full queue writes its record. -/
  | faultQueueConsume (p : Fin 12) (req : Requester) (v : BitVec 8)
  /-- MMU_INVALIDATE (R176): Writing MMU_INV.GO starts invalidation of cached translations in the scope given. -/
  | mmuInvalidate (p : Fin 12) (req : Requester)
  /-- MMU_INV_DONE (R176): Invalidation completes with no access using old translations outstanding; GO reads 0 and INV_DONE is
  raised. -/
  | mmuInvDone (p : Fin 12)
  /-- XF_POST (R189): Posts a list of descriptors to a DMA channel and writes the post status. -/
  | xfPost (p : Fin 12) (i : Fin 153) (sl : Fin 2) (w : BitVec 64)
  /-- XF_WAIT (R188): Waits until at most COUNT lists of the slot are outstanding on one or all engines. -/
  | xfWait (p : Fin 12) (i : Fin 153) (sl : Fin 2) (w : BitVec 64)
  /-- XF_PAIR (R190): Sets a buffer pair's half offset and resets its half to 0. -/
  | xfPair (p : Fin 12) (i : Fin 153) (sl : Fin 2) (w : BitVec 64)
  /-- XF_SWAP (R188): Toggles the half of each buffer pair named in MASK. -/
  | xfSwap (p : Fin 12) (i : Fin 153) (sl : Fin 2) (w : BitVec 64)
  /-- XF_STAT (R188): Reads the slot's channel status word of an engine into an S register. -/
  | xfStat (p : Fin 12) (i : Fin 153) (sl : Fin 2) (w : BitVec 64)
  /-- DESCRIPTOR_START (R194): A channel starts its next descriptor after the previous one's last read, checking it and then moving
  rows. -/
  | descriptorStart (p : Fin 12) (eng : Fin 36) (ch : Fin 2) (ev : MoveEvent)
  /-- DESCRIPTOR_COMPLETE (R197): A descriptor's last write is performed at its home and its local and remote signals are sent. -/
  | descriptorComplete (p : Fin 12) (eng : Fin 36) (ch : Fin 2)
  /-- DMA_ENGINE_FAULT (R366): A parity error in an engine's own state moves both its channels to a sibling engine. -/
  | dmaEngineFault (p : Fin 12) (eng : Fin 36)
  /-- FENCE (R212): Waits until older stores, sync updates and optionally matrix instructions and lists of the slot are performed. -/
  | fence (p : Fin 12) (i : Fin 153) (sl : Fin 2) (w : BitVec 64)
  /-- CTR_ADD (R215): Adds AMOUNT to a local or remote sync counter, awaiting the home's verdict when local. -/
  | ctrAdd (p : Fin 12) (i : Fin 153) (sl : Fin 2) (w : BitVec 64)
  /-- CTR_SUB (R215): Subtracts AMOUNT from a local or remote sync counter. -/
  | ctrSub (p : Fin 12) (i : Fin 153) (sl : Fin 2) (w : BitVec 64)
  /-- CTR_WAIT (R216): Waits until a local counter holds at least a value, consuming it when C = 1. -/
  | ctrWait (p : Fin 12) (i : Fin 153) (sl : Fin 2) (w : BitVec 64)
  /-- CTR_READ (R220): Reads a local counter into an S register. -/
  | ctrRead (p : Fin 12) (i : Fin 153) (sl : Fin 2) (w : BitVec 64)
  /-- CTR_SET (R214): Sets a local counter from an S register. -/
  | ctrSet (p : Fin 12) (i : Fin 153) (sl : Fin 2) (w : BitVec 64)
  /-- BAR_INIT (R217): Arms a local barrier with COUNT participants and TIMEOUT. -/
  | barInit (p : Fin 12) (i : Fin 153) (sl : Fin 2) (w : BitVec 64)
  /-- BAR_ARRIVE (R217): Arrives at a local or remote barrier. -/
  | barArrive (p : Fin 12) (i : Fin 153) (sl : Fin 2) (w : BitVec 64)
  /-- BAR_WAIT (R217): Waits for a local barrier's generation to differ from a held value. -/
  | barWait (p : Fin 12) (i : Fin 153) (sl : Fin 2) (w : BitVec 64)
  /-- BAR_SYNC (R217): Arrives at a local barrier and waits on the generation returned. -/
  | barSync (p : Fin 12) (i : Fin 153) (sl : Fin 2) (w : BitVec 64)
  /-- AMO (R219): Issues a memory atomic on a translated virtual address. -/
  | amo (p : Fin 12) (i : Fin 153) (sl : Fin 2) (w : BitVec 64)
  /-- AMO_PERFORM (R219): An atomic is performed indivisibly at its location's home and its old value returned. -/
  | amoPerform (p : Fin 12) (i : Fin 153) (sl : Fin 2) (x : AmoPick)
  /-- COUNTER_UPDATE (R214): An update reaches a counter's home, is applied in order or refused on underflow or overflow, and
  waiters are examined. -/
  | counterUpdate (p : Fin 12) (which : List Nat)
  /-- BARRIER_ARRIVAL (R217): An arrival reaches a barrier's home and completes the generation at COUNT, signalling REL_CTR if
  enabled. -/
  | barrierArrival (p : Fin 12) (which : List Nat)
  /-- BARRIER_ARM_WRITE (R217): A management write of a nonzero SYNC_BAR COUNT arms the barrier and zeroes its arrivals. -/
  | barrierArmWrite (p : Fin 12) (req : Requester) (bar : Fin 256) (count : BitVec 16) (timeout : BitVec 16)
  /-- BARRIER_TIMEOUT (R218): A generation incomplete after TIMEOUT ticks puts the barrier in TIMED_OUT, faulting its waiters. -/
  | barrierTimeout (p : Fin 12) (bar : Fin 256)
  /-- SYNC_SURVEY (R222): Writing SURVEY_CTL.GO, or an automatic trigger, captures the partition's sync objects in one instant. -/
  | syncSurvey (p : Fin 12) (req : Requester)
  /-- SURVEY_COMPLETE (R222): The survey record is written, GO clears and SURVEY_DONE or SURVEY_FAIL is raised. -/
  | surveyComplete (p : Fin 12) (uncorrectable : Bool)
  /-- LINK_ENABLE (R228): Writing a licensed link's HDR_CTL.ENABLE as 1 moves it from DISABLED to DETECT. -/
  | linkEnable (n : Fin 36) (req : Requester)
  /-- LINK_DISABLE (R248): Writing a link's HDR_CTL.ENABLE as 0 stops route selection and drains the link. -/
  | linkDisable (n : Fin 36) (req : Requester)
  /-- LINK_DRAIN_END (R248): All sent data flits are acknowledged or the drain budget expires, and the link enters DISABLED or
  QUARANTINE. -/
  | linkDrainEnd (n : Fin 36)
  /-- LINK_SIGNAL_DETECT (R228): Signal on at least 16 receive lanes moves the link from DETECT to TRAIN. -/
  | linkSignalDetect (n : Fin 36) (lanes : BitVec 18)
  /-- LINK_TRAIN_DONE (R229): At least 16 lanes trained per direction moves the link to ALIGN with untrained lanes spared. -/
  | linkTrainDone (n : Fin 36) (rx : BitVec 18) (tx : BitVec 18)
  /-- LINK_TRAIN_TIMEOUT (R229): TRAIN or ALIGN or DIGEST exceeding its limit moves the link to FAILED. -/
  | linkTrainTimeout (n : Fin 36)
  /-- LINK_ALIGN_DONE (R229): Deskew and round trip done with LNK_PKGN assigned moves the link to DIGEST and sends its digest. -/
  | linkAlignDone (n : Fin 36) (rtt : BitVec 32)
  /-- DIGEST_RECEIVE (R231): A DIGEST block is compared with the local one, putting the link into LINKUP or QUARANTINE. -/
  | digestReceive (n : Fin 36) (block : BitVec 128)
  /-- PKGN_WRITE (R233): Writing LNK_PKGN while no link is beyond ALIGN assigns the package number in all LNK pages. -/
  | pkgnWrite (n : Fin 36) (req : Requester) (sysid : Bool) (v : BitVec 32)
  /-- FLIT_RECEIVE (R235): A flit is checked and accepted in SEQ order, carrying acknowledgement and credits, or causes a NAK. -/
  | flitReceive (n : Fin 36) (bytes : List Byte) (badCodeword : Bool)
  /-- NAK_RECEIVE (R242): A NAK makes the sender replay from the SEQ if covered, or send SKIP and DROP notices otherwise. -/
  | nakReceive (n : Fin 36) (block : BitVec 128)
  /-- SKIP_RECEIVE (R242): A SKIP makes the receiver discard partial packets and resume at the given SEQ. -/
  | skipReceive (n : Fin 36) (block : BitVec 128)
  /-- RETRY_EPISODE_TIMEOUT (R243): A retry episode exceeding its budget moves the link to SPARING. -/
  | retryEpisodeTimeout (n : Fin 36) (lane : Option (Fin 16))
  /-- LANE_LOCK_LOST (R244): Lock lost on lanes starts sparing, or fails the link when more than two lanes of a direction are lost. -/
  | laneLockLost (n : Fin 36) (lanes : List (Fin 16))
  /-- LANE_PROACTIVE_SPARE (R244): A lane correcting more than 65,535 symbols in a 1,024-tick period is spared proactively. -/
  | laneProactiveSpare (n : Fin 36) (lane : Fin 16)
  /-- SPARE_RECEIVE (R244): A SPARE block arranges both sides to switch a logical lane to a spare at the given SEQ. -/
  | spareReceive (n : Fin 36) (block : BitVec 128)
  /-- LINK_DOWN_RECEIVE (R245): A received LINK_DOWN moves the link to FAILED. -/
  | linkDownReceive (n : Fin 36) (block : BitVec 128)
  /-- LINK_RETRAIN (R228): Writing LNK_CTL.RETRAIN moves a failed link to DETECT. -/
  | linkRetrain (n : Fin 36) (req : Requester)
  /-- LINK_RETRAIN_TIMER (R228): RETRAIN_S seconds in FAILED move the link to DETECT. -/
  | linkRetrainTimer (n : Fin 36)
  /-- ROUTE_ENTRY_WRITE (R249): Writing ROUTE_ENTRY updates the destination entry in every copy of the route table. -/
  | routeEntryWrite (n : Fin 36) (req : Requester) (v : BitVec 32)
  /-- PACKET_FORWARD (R250): A whole packet at a hop leaves on the first LINKUP candidate at a non-decreasing level, or is discarded
  with a NOROUTE notice. -/
  | packetForward (n : Fin 36) (pkt : Pkt)
  /-- ORDERED_ARRIVAL (R254): An ordered or management request at its target is performed, held early, answered as duplicate or
  discarded stale. -/
  | orderedArrival (n : Fin 36) (pkt : Pkt)
  /-- READ_ARRIVAL (R254): A READ arrival is performed and answered without ordering. -/
  | readArrival (n : Fin 36) (pkt : Pkt)
  /-- RESPONSE_RECEIVE (R255): A response ends its outstanding transaction, late or unmatched responses being discarded. -/
  | responseReceive (n : Fin 36) (pkt : Pkt)
  /-- DROP_RECEIVE (R255): A DROP notice causes immediate reissue of the lost transaction with G toggled. -/
  | dropReceive (n : Fin 36) (pkt : Pkt)
  /-- NOROUTE_RECEIVE (R250): A NOROUTE notice ends the transaction with REMOTE_FAIL without reissue. -/
  | norouteReceive (n : Fin 36) (pkt : Pkt)
  /-- TRANSACTION_TIMEOUT (R255): A transaction without response at TIMEOUT is reissued, or after REISSUE_MAX ends with REMOTE_FAIL. -/
  | transactionTimeout (space : Fin 3) (target : BitVec 16) (tid : BitVec 16)
  /-- QUEUE_BIND (R261): Writing COLL_BIND.BOUND as 1 binds a communication queue to a group after checking its member table. -/
  | queueBind (p : Fin 12) (q : Fin 64) (req : Requester) (v : BitVec 32)
  /-- QUEUE_UNBIND (R265): Writing COLL_BIND.BOUND as 0 unbinds the queue after draining. -/
  | queueUnbind (p : Fin 12) (q : Fin 64) (req : Requester) (v : BitVec 32)
  /-- CS_LAUNCH (R266): Posts a launch record to a device-launched queue and writes the status. -/
  | csLaunch (p : Fin 12) (i : Fin 153) (sl : Fin 2) (w : BitVec 64)
  /-- LIBRARY_LAUNCH_TAKE (R267): A library-launched queue takes the next ring record when its launch counter allows, consuming 1. -/
  | libraryLaunchTake (p : Fin 12) (q : Fin 64)
  /-- CS_TAKE (R269): A comm core waits for and copies the next launch record available to its lane. -/
  | csTake (p : Fin 12) (i : Fin 153) (sl : Fin 2) (w : BitVec 64)
  /-- CS_EXPECT (R272): Opens an expectation and sends a CTS to the peer lane. -/
  | csExpect (p : Fin 12) (i : Fin 153) (sl : Fin 2) (w : BitVec 64)
  /-- CS_SEND (R273): Enters a send transmitted once the matching CTS is held. -/
  | csSend (p : Fin 12) (i : Fin 153) (sl : Fin 2) (w : BitVec 64)
  /-- CS_REL (R274): Releases the window slot of a step whose expectations are met. -/
  | csRel (p : Fin 12) (i : Fin 153) (sl : Fin 2) (w : BitVec 64)
  /-- CS_NEXT (R275): Waits for and returns the next deliverable collective event of the slot's queues. -/
  | csNext (p : Fin 12) (i : Fin 153) (sl : Fin 2) (w : BitVec 64)
  /-- CS_END (R269): Ends the lane's launch with OK once its sends have completed. -/
  | csEnd (p : Fin 12) (i : Fin 153) (sl : Fin 2) (w : BitVec 64)
  /-- CS_VOTE (R281): Contributes a value, optionally ORing NONFINITE, to the package's vote. -/
  | csVote (p : Fin 12) (i : Fin 153) (sl : Fin 2) (w : BitVec 64)
  /-- CS_VWAIT (R282): Waits for the slot's latest vote result and returns it. -/
  | csVwait (p : Fin 12) (i : Fin 153) (sl : Fin 2) (w : BitVec 64)
  /-- CTS_RECEIVE (R273): A CTS arrival releases a matching send or is kept in the CTS store, overflow ending the launch. -/
  | ctsReceive (n : Fin 36) (pkt : Pkt)
  /-- COLL_DATA_RECEIVE (R274): A DATA packet writes into the expecting lane's slot, meeting its expectation when complete. -/
  | collDataReceive (n : Fin 36) (pkt : Pkt)
  /-- ABORT_RECEIVE (R284): A received ABORT ends the lane's launch with ABORTED and passes ABORT to its pending peers. -/
  | abortReceive (n : Fin 36) (pkt : Pkt)
  /-- ABSENT_RECEIVE (R285): A received ABSENT ends the lane's launch with ABSENT. -/
  | absentReceive (n : Fin 36) (pkt : Pkt)
  /-- COLL_DEADLINE (R284): An expectation unmet at DEADLINE ticks ends the launch with DEADLINE and sends ABORT to peers. -/
  | collDeadline (p : Fin 12) (q : Fin 64) (l : Fin 32)
  /-- ORDER_MISMATCH (R286): A mismatched library-launched arrival unresolved within ORDER_TICKS ends the partition's launches with
  ORDER_MISMATCH. -/
  | orderMismatch (p : Fin 12)
  /-- VOTE_UP_RECEIVE (R282): A child's VOTE_UP is ORed in and, once all children have arrived, the result goes to the parent or is
  turned round at the root. -/
  | voteUpReceive (n : Fin 36) (pkt : Pkt)
  /-- VOTE_DOWN_RECEIVE (R282): A VOTE_DOWN delivers the result to contributing slots and is forwarded to children. -/
  | voteDownReceive (n : Fin 36) (pkt : Pkt)
  /-- VOTE_DEADLINE (R282): No VOTE_DOWN within VDL ticks returns all ones to CS.VWAIT and reports a job fault. -/
  | voteDeadline (job : BitVec 16) (group : BitVec 24) (ordinal : Nat)
  /-- DEFER_TIMEOUT (R287): A pre-emption deferral reaching DEFER_TICKS ends outstanding launches with DEADLINE so pre-emption can
  begin. -/
  | deferTimeout (p : Fin 12)
  /-- RING_BIND (R304): Writing UPD_RING.BOUND as 1 binds a step ring and sets PROD to CONS. -/
  | ringBind (r : Fin 12) (req : Requester) (v : BitVec 32)
  /-- RING_UNBIND (R304): Writing UPD_RING.BOUND as 0 lets the step in progress finish and ends later records DISABLED. -/
  | ringUnbind (r : Fin 12) (req : Requester) (v : BitVec 32)
  /-- STEP_RECORD_POST (R304): Writing UPD_RING.PROD posts step records, clamped to four ahead of CONS. -/
  | stepRecordPost (r : Fin 12) (req : Requester) (v : BitVec 8)
  /-- UPDATE_STEP_START (R306): The update engine takes a step record, validates it and its region list, and waits for its vote. -/
  | updateStepStart (r : Fin 12)
  /-- UPDATE_STEP_VOTE (R302): The step's vote result reaches the engine, which skips, declares VOTE_LOST, or begins updating
  regions. -/
  | updateStepVote (r : Fin 12)
  /-- REGION_END (R308): A region's last write is acknowledged and DONE_CTR receives 1. -/
  | regionEnd (r : Fin 12)
  /-- UPDATE_STEP_END (R313): The engine writes the result record with CRCs, energy and JPT, advances CONS and raises its cause. -/
  | updateStepEnd (x : StepEndPick)
  /-- RHOST_OWNER_CHANGE (R315): Writing RHOST_CFG.OWNER stops the core at its next trap boundary and ends job code on it. -/
  | rhostOwnerChange (h : Fin 32) (req : Requester) (v : BitVec 32)
  /-- RHOST_WATCHDOG (R317): A firmware-owned core silent for 1 s raises WATCHDOG. -/
  | rhostWatchdog (h : Fin 32)
  /-- ADMIT_JOB (R324): Ephemeris computes a job's tier demand, spills in fixed order, and writes the admission report. -/
  | admitJob (j : JobImage)
  /-- JOB_BIND (R327): Ephemeris binds an admitted job's partitions, maps, pages, ranks and routes before its first frame. -/
  | jobBind (job : BitVec 16) (backfill : Bool) (ps : List (Fin 12 × Fin 12))
  /-- EPH_COMMIT (R320): Writing EPH_COMMIT.COMMIT requests that the shadow maps be applied at the next frame boundary. -/
  | ephCommit (p : Fin 12) (req : Requester)
  /-- EPH_COMMIT_APPLY (R320): At the frame boundary the shadow maps are checked and applied or refused. -/
  | ephCommitApply (p : Fin 12)
  /-- REPAIR_REBIND (R331): After a core or cluster fault Ephemeris rebinds to a spare core, cluster, partition or package. -/
  | repairRebind (p : Fin 12) (c : Fin 8) (k : Option (Fin 16))
  /-- ROUTE_REWRITE (R330): After a link or package loss Ephemeris rewrites the affected route entries within 10 s. -/
  | routeRewrite (es : List (Fin 49152 × BitVec 32))
  /-- STAGE_REBALANCE (R332): At a step boundary after REBAL_STEPS imbalanced steps one movable layer moves to a neighbouring stage. -/
  | stageRebalance (job : BitVec 16) (permitted : Bool) (times : List Nat) (layers : List (Nat × BitVec 48)) (layout : JobImage)
  /-- HELIOSTAT_LOOP (R340): Every 1 µs the fast loop reads power and sets the bubble count, ramp ceiling, ballast and secondary
  throttles. -/
  | heliostatLoop (pw : BitVec 16) (parts : List (Fin 12 × BitVec 16 × BitVec 16)) (sense : List (Fin 12 × Fin 9 × BitVec 10 × Bool)) (reads : LoopReads)
  /-- CAP_UNREACHABLE (R339): A 1 ms average above the cap after full actuation lowers clock steps and raises CAP_UNREACHABLE. -/
  | capUnreachable
  /-- CLOCK_STEP_CHANGE (R337): A partition's clock step change takes effect at a frame boundary with voltage slewed first on a
  rise. -/
  | clockStepChange (p : Fin 12) (slewed : Bool)
  /-- FREE_CLOCK_DECISION (R349): Every 1 ms a FREE partition's clock is raised or lowered one step by bubbles and temperature. -/
  | freeClockDecision (p : Fin 12)
  /-- THERMAL_UPDATE (R350): Every 1 ms the thermal count and limits are set from each partition's hottest sensor. -/
  | thermalUpdate (tj : List (BitVec 8)) (hub : BitVec 8) (hbm : List (BitVec 8))
  /-- THERMTRIP (R351): A sensor at 115 °C turns off every VIN_MAIN regulator and drives THERMTRIP_N low without a park. -/
  | thermtrip
  /-- FACILITY_TARGET_WRITE (R345): Writing HELIO_TARGET sets a facility target followed at the ramp limits and renews its lease. -/
  | facilityTargetWrite (req : Requester) (v : BitVec 32)
  /-- TARGET_LEASE_EXPIRY (R345): An unrenewed lease expires, the target becomes none and TARGET_EXPIRED is raised. -/
  | targetLeaseExpiry
  /-- SHED_ASSERT (R346): PWR_SHED_N recognised low sets the cap to the shed floor. -/
  | shedAssert (samples : Nat)
  /-- SHED_DEASSERT (R346): PWR_SHED_N recognised high starts the floor hold until the fifth tick. -/
  | shedDeassert
  /-- SHED_HOLD_END (R346): The hold ends and power rises from the floor at RAMP_UP. -/
  | shedHoldEnd
  /-- SHED_STUCK (R346): PWR_SHED_N held low for 1 s raises SHED_STUCK. -/
  | shedStuck
  /-- ENERGY_CALIBRATION (R353): Every second each partition's activity-model calibration factor is reset from metered energy. -/
  | energyCalibration (rs : List (Option (BitVec 32)))
  /-- INPUT_LOSS (R354): PWR_LOSS_N low or VIN_MAIN below 10.5 V recognised sheds at once and starts the hold-up gauge. -/
  | inputLoss (pin : Bool) (vin : Bool) (v0 : BitVec 16)
  /-- INPUT_RETURN (R354): Input restored before park ends the shed and counts a ride-through. -/
  | inputReturn
  /-- PARK_BEGIN (R355): A gauge estimate reaching RESERVE begins the park: bubbles, link drain, regulators off and the park record
  written. -/
  | parkBegin (v : BitVec 16) (q : BitVec 32)
  /-- PARK_COMPLETE (R357): The park record and commit block are written and the package stays off until cold reset. -/
  | parkComplete
  /-- FINAL_CUTOFF (R355): VIN_MAIN at or below 9.0 V turns off every VIN_MAIN regulator within 1 µs. -/
  | finalCutoff
  /-- GAUGE_RECALIBRATE (R355): After a disagreeing episode and 10 s of full recharge, C_H is adopted from the episode. -/
  | gaugeRecalibrate
  /-- REGULATOR_FAULT (R360): A faulted regulator turns off and records its fault, degrading a partition, the links or the package. -/
  | regulatorFault (k : Fin 53) (kind : BitVec 3)
  /-- MGMT_CONTROLLER_RESET (R359): The management controller restarts with power state and always-on latches kept, then adopts the
  state it reads. -/
  | mgmtControllerReset
  /-- MGMT_WATCHDOG (R429): The management loop unserviced for WDOG_S seconds restarts the management controller. -/
  | mgmtWatchdog
  /-- PATROL_VISIT (R373): The patrol core of a cluster begins a visit running the patrol suite in its backfill context. -/
  | patrolVisit (p : Fin 12) (c : Fin 9)
  /-- PATROL_VISIT_END (R374): A visit's CRC is compared with the known answer, a mismatch marking the core failed and raising
  PATROL_FAIL. -/
  | patrolVisitEnd (p : Fin 12) (c : Fin 9) (bad : Option (Fin 16))
  /-- FLAT_FIELD_TEST (R375): Writing PART_FFT.GO runs the flat-field test on a partition with no job bound, or reports REFUSED. -/
  | flatFieldTest (p : Fin 12) (req : Requester)
  /-- FLAT_FIELD_END (R375): The flat-field test ends with PASSED or FAILED, raising FFT_DONE. -/
  | flatFieldEnd (p : Fin 12) (bad : Option ((Option (Fin 153) ⊕ HubTest) × BitVec 4 × BitVec 4))
  /-- POISON_CONTAIN (R377): At the tick after the first observation the package halts issue and DMA, stops the update engine,
  journals and warm-resets. -/
  | poisonContain
  /-- PART_ABORT (R369): Writing PART_CTL.ABORT stops the partition's primary job at the next frame boundary. -/
  | partAbort (p : Fin 12) (req : Requester)
  /-- PART_PREEMPT (R385): Writing PART_CTL.PREEMPT requests pre-emption at the next frame boundary or deferral end. -/
  | partPreempt (p : Fin 12) (req : Requester)
  /-- PREEMPT_BEGIN (R204): At the frame boundary issue stops, channels stop, transactions settle and the image is saved. -/
  | preemptBegin (p : Fin 12)
  /-- PREEMPT_DONE (R385): The pre-emption image is written, PREEMPT reads 0 and PREEMPT_DONE is raised. -/
  | preemptDone (p : Fin 12) (late : Bool)
  /-- PART_RESTORE (R385): Writing PART_CTL.RESTORE restores the image at MMU_SAVE. -/
  | partRestore (p : Fin 12) (req : Requester)
  /-- RESTORE_DONE (R385): The restore completes and RESTORE_DONE is raised. -/
  | restoreDone (p : Fin 12)
  /-- CORE_RESET (R382): PART_RESET with LEVEL core resets one physical core's slots, state and memory. -/
  | coreReset (p : Fin 12) (i : Fin 153) (req : Requester)
  /-- CLUSTER_RESET (R382): PART_RESET with LEVEL cluster resets a physical cluster's cores, memory and engines. -/
  | clusterReset (p : Fin 12) (c : Fin 9) (req : Requester)
  /-- PARTITION_RESET (R383): PART_RESET with LEVEL partition resets the partition's compute and ends with a quick check. -/
  | partitionReset (p : Fin 12) (req : Requester)
  /-- RESET_COMPLETE (R382): A requested reset finishes, GO reads 0 and RESET_DONE is raised. -/
  | resetComplete (p : Fin 12) (bad : List (Fin 153))
  /-- PACKAGE_WARM_RESET (R384): A package warm reset runs the warm boot path, keeping memory contents in self-refresh. -/
  | packageWarmReset
  /-- PKG_RST_ASSERT (R449): PKG_RST_N recognised asserted turns regulators off without park and holds the package in reset. -/
  | pkgRstAssert
  /-- PKG_RST_RELEASE (R398): PKG_RST_N recognised released starts a cold boot on the full or fast path. -/
  | pkgRstRelease (x : Release)
  /-- CLASS_B_RECOVERY (R387): The planner declares a loss and runs the recovery phases to resume the job on a replacement. -/
  | classBRecovery (job : BitVec 16) (plan : RecoveryPlan)
  /-- REMIRROR_REGION (R389): In a copy window the survivor copies a region to the replacement and sets its commit bit when
  acknowledged. -/
  | remirrorRegion (r : Fin 12) (n : BitVec 32) (master : BitVec 48) (mom1 : BitVec 48) (mom2 : BitVec 48) (work : BitVec 48)
  /-- RAILS_START (R448): VIN_MAIN at 11.0 V for 10 ms lets boot step RAILS sequence the regulators. -/
  | railsStart
  /-- BOOT_STEP_COMPLETE (R401): A boot step ends, its outcome is journalled and the next step starts, READY rising after ALMANAC. -/
  | bootStepComplete (x : StepOut)
  /-- BOOT_STEP_TIMEOUT (R399): A boot step exceeding its maximum duration has failed and is journalled FAILED. -/
  | bootStepTimeout
  /-- BUNDLE_CHUNK_RECEIVE (R407): A 64 KiB bundle chunk is forwarded down the management tree and programmed into the inactive
  bank. -/
  | bundleChunkReceive (l : Fin 37) (src : BitVec 16) (k : Nat) (total : Nat)
  /-- BANK_PROGRAM_DONE (R413): Programming of the inactive bank ends and the bank is checked and marked valid or invalid. -/
  | bankProgramDone (x : BundleOut)
  /-- ALMANAC_WRITE (R408): The Almanac is written to the older copy with an incremented generation, on ALM_CTL.WRITE or within 1 s
  of a mark. -/
  | almanacWrite
  /-- ACTIVATE_MC (R413): Writing BOOT_ACT.MC restarts the management controller on the new bank. -/
  | activateMc (req : Requester)
  /-- ACTIVATE_RHOST (R413): Writing BOOT_ACT.RHOST restarts firmware-owned resident-host cores one at a time on the new bank. -/
  | activateRhost (req : Requester)
  /-- ACTIVATE_PART (R413): Writing BOOT_ACT.PART makes the named partitions load new compute-core firmware at their next reset. -/
  | activatePart (req : Requester) (mask : BitVec 12)
  /-- LICENCE_CHECK (R415): Writing LIC GO checks the staged licence record and accepts it as pending or refuses it. -/
  | licenceCheck (req : Requester) (sig : Bool) (revoked : Bool)
  /-- DOORBELL_WRITE (R424): A 32-bit write to VF BAR0 adds its value to a counter of the partition's primary share. `n` counts dwords
  of the BAR, all of which the command reaches (R423); `a` is the value written, none for a read. -/
  | doorbellWrite (x : Fin 2) (v : Fin 12) (n : BitVec 14) (a : Option (BitVec 32))
  /-- APERTURE_ACCESS (R423): A server access through PF BAR2 is performed at its home or completes Unsupported Request. -/
  | apertureAccess (x : Fin 2) (off : BitVec 36) (len : BitVec 12) (write : Bool) (data : List Byte) (pois : Bool)
  /-- ATS_INVALIDATION (R425): A host ATS invalidation request invalidates matching port translations and is completed within 100
  µs. -/
  | atsInvalidation (x : Fin 2) (v : Fin 12) (page : BitVec 52) (count : Nat)
  /-- PCIE_COMPLETION_TIMEOUT (R425): A device read without completion after CTO_MS ends its descriptor with REMOTE_FAIL. -/
  | pcieCompletionTimeout (x : Fin 2) (tag : BitVec 10)
  /-- MSIX_SEND (R427): Writing PCIE_MSIX_SEND sends an MSI-X message to the named function and vector. -/
  | msixSend (x : Fin 2) (req : Requester) (v : BitVec 32)
  /-- PORT_RESET (R428): PERST_N, Hot Reset or link down resets the port's configuration, ATS and PRI state. -/
  | portReset (x : Fin 2) (pin : Bool)
  /-- PORT_TRAIN (R452): A PCIe port trains after PERST_N release and the end of boot step HUB. -/
  | portTrain (x : Fin 2) (gen : Fin 7) (width : BitVec 5) (vfs : BitVec 12) (cfg : List FnCfg)
  /-- VF_FLR (R428): A VF Function Level Reset invalidates its ATS entries and aborts the partition's primary job. -/
  | vfFlr (x : Fin 2) (v : Fin 12)
  /-- PF_FLR (R428): A PF Function Level Reset resets PF configuration and disables every VF. -/
  | pfFlr (x : Fin 2)
  /-- SET_ENDPOINT_ID (R430): MCTP control Set Endpoint ID assigns the endpoint ID for all bindings. -/
  | setEndpointId (e : BitVec 8)
  /-- GET_ENDPOINT_ID (R430): MCTP control Get Endpoint ID returns the endpoint ID. -/
  | getEndpointId
  /-- GET_MCTP_VERSION_SUPPORT (R430): MCTP control command returning supported versions. -/
  | getMctpVersionSupport
  /-- GET_MESSAGE_TYPE_SUPPORT (R430): MCTP control command returning the supported message types. -/
  | getMessageTypeSupport
  /-- GET_ENDPOINT_UUID (R430): MCTP control command returning a UUID carrying the PUID. -/
  | getEndpointUuid
  /-- MCTP_UNSUPPORTED_TYPE (R430): A message of an unsupported MCTP type is answered ERROR_UNSUPPORTED_CMD and counted. -/
  | mctpUnsupportedType (t : BitVec 8)
  /-- SET_NUMERIC_EFFECTER_VALUE (R431): PLDM command writing an effecter such as PPL or the facility target, clamped as a register
  write. -/
  | setNumericEffecterValue (id : BitVec 16) (v : BitVec 32)
  /-- SET_EVENT_RECEIVER (R431): PLDM command naming the receiver of platform event messages. -/
  | setEventReceiver (e : Option (BitVec 8))
  /-- PLDM_FIRMWARE_DATA (R432): A 4,096-byte firmware data unit of a PLDM update is received and programmed into the inactive bank. -/
  | pldmFirmwareData
  /-- VERIFY_COMPLETE (R432): PLDM VerifyComplete reports the bundle check of R412. -/
  | verifyComplete (x : BundleOut)
  /-- ACTIVATE_FIRMWARE (R432): PLDM ActivateFirmware sets BOOT_ACT.MC and BOOT_ACT.RHOST. -/
  | activateFirmware (selfContained : Bool)
  /-- CANCEL_UPDATE (R432): PLDM CancelUpdate leaves the inactive bank invalid. -/
  | cancelUpdate
  /-- GET_STATUS (R432): PLDM GetStatus reports update state including pending activations. -/
  | getStatus
  /-- PLDM_UPDATE_TIMEOUT (R432): A firmware update stopped for 60 s is cancelled with the bank left invalid. -/
  | pldmUpdateTimeout
  /-- READ32 (R434): Vendor command reading a management register. -/
  | read32 (data : List Byte)
  /-- WRITE32 (R434): Vendor command writing a management register, refused while MCTP_WR_EN is 0. -/
  | write32 (data : List Byte)
  /-- WARM_RESET (R434): Vendor command that responds and then starts a package warm reset. -/
  | warmReset (data : List Byte)
  /-- PKG_FFT (R375): Vendor command running the package flat-field test when every job is unbound. -/
  | pkgFft (data : List Byte)
  /-- FORWARD (R434): Vendor command carrying an inner command to another package's management controller. -/
  | forward (g : BitVec 16) (inner : List Byte)
  /-- EYEP_NONCE (R437): Vendor command returning a 16-byte Eyepiece unlock nonce. -/
  | eyepNonce (data : List Byte)
  /-- EYEP_UNLOCK (R437): Vendor command verifying a signed token and unlocking the Eyepiece until the next package reset. -/
  | eyepUnlock (token : List Byte) (sig : Bool)
  /-- GET_VERSION (R435): SPDM GET_VERSION request. -/
  | getVersion
  /-- GET_CAPABILITIES (R435): SPDM GET_CAPABILITIES request. -/
  | getCapabilities
  /-- NEGOTIATE_ALGORITHMS (R435): SPDM NEGOTIATE_ALGORITHMS request, ECDSA P-384 and SHA-384 only. -/
  | negotiateAlgorithms (offered : Bool)
  /-- GET_DIGESTS (R435): SPDM GET_DIGESTS request. -/
  | getDigests
  /-- GET_CERTIFICATE (R435): SPDM GET_CERTIFICATE request returning the slot 0 chain. -/
  | getCertificate (slot : Fin 8) (off : BitVec 16) (len : BitVec 16)
  /-- CHALLENGE (R435): SPDM CHALLENGE request signed with the device key. -/
  | challenge (slot : Fin 8)
  /-- GET_MEASUREMENTS (R435): SPDM GET_MEASUREMENTS request returning image hashes, licence hash and raw fields. -/
  | getMeasurements (block : BitVec 8)
  /-- BYPASS (R436): JTAG BYPASS instruction. -/
  | bypass
  /-- IDCODE (R436): JTAG IDCODE instruction returning the part identity. -/
  | idcode
  /-- SAMPLE_PRELOAD (R436): JTAG SAMPLE/PRELOAD instruction. -/
  | samplePreload
  /-- EXTEST (R436): JTAG EXTEST, acting only in reset with VIN_MAIN present, else as BYPASS. -/
  | extest (vin : Bool)
  /-- EXTEST_PULSE (R436): IEEE 1149.6 EXTEST_PULSE on E-link and PCIe lanes, under the same conditions as EXTEST. -/
  | extestPulse (vin : Bool)
  /-- EXTEST_TRAIN (R436): IEEE 1149.6 EXTEST_TRAIN on E-link and PCIe lanes, under the same conditions as EXTEST. -/
  | extestTrain (vin : Bool)
  /-- CLAMP_INSTR (R436): JTAG CLAMP instruction, under the same conditions as EXTEST. -/
  | clampInstr (vin : Bool)
  /-- HIGHZ (R436): JTAG HIGHZ instruction, under the same conditions as EXTEST. -/
  | highz (vin : Bool)
  /-- EYEP_HALT (R438): Writing EYEP HALT halts or resumes the named core, refused where a job is bound; it also reads and writes the
  halted core's registers and memory. -/
  | eyepHalt (req : Requester) (op : HaltOp)
  /-- VSTBY_LOSS (R446): VSTBY below 3.0 V turns off every VIN_MAIN regulator within 10 µs with no park record. -/
  | vstbyLoss
  /-- VIN_OVERVOLTAGE (R447): VIN_MAIN above 13.5 V at two samples turns off every regulator without park and drives ALERT_N low. -/
  | vinOvervoltage
  /-- LINKREF_LOSS (R454): LINKREF_156 absent for 1 µs switches the always-on domain to the internal oscillator and parks as for
  input loss. -/
  | linkrefLoss (v0 : BitVec 16)
  /-- REGISTER_READ_CLEAR (R7): A management read of an RC field returns its value and clears it in the same access; likewise a read
  of MERID_COUNT_LO latches COUNT_HI. -/
  | registerReadClear (req : Requester) (off : BitVec 32) (size : ReadPick)
  /-- PCIE_COMPLETION (R425): A completion from the attached server for a device-initiated read, ATS translation request or PRI page
  request arrives and lets the waiting transfer or table walk proceed or end HOST_DENIED. -/
  | pcieCompletion (x : Fin 2) (tag : BitVec 10) (ok : Bool) (perm : Bool) (data : List Byte)
  /-- JOB_TRAP (R317): Job code on a resident-host core traps; firmware takes the fault, RHOST_STAT shows the core stopped on a
  fault and JOB_FAULT is raised and counted. -/
  | jobTrap (h : Fin 32) (cause : BitVec 8) (pc : BitVec 57) (translation : Bool)
  /-- I3C_DYNAMIC_ADDRESS (R430): The I3C bus controller assigns the management controller its dynamic address, which is held in
  always-on latches and shown in MGMT_STAT.I3C_DA. -/
  | i3cDynamicAddress (a : BitVec 7)
deriving DecidableEq, Repr

end Sys2Proof
end

