-- ==== Sys2Proof/Decode.lean ====
section
/-! DEFINITION. Commands from table words. -/

namespace Sys2Proof

/-- The command that a word spells by the opcode table's bits. No row of the table gives bits: a block's commands are no words
(assumption log 100), so no word spells one. -/
def decodeTableWord (_nbits _w : Nat) : Option Instr := none

end Sys2Proof
end

