-- ==== Sys2Proof/Config.lean ====
section
/-! DEFINITION. What the spec leaves open: opaque values no proof can see. -/

namespace Sys2Proof

/-- A free value (assumption log 1): value number `n` of what the spec leaves open. It has no body; a statement about
it holds for every value. The step reads it at the state's counter `fv` and advances the counter. -/
opaque Config.freeWord : Nat → BitVec 64

/-- What one part was made with (assumption log 58): its fused voltage curve, its unique number, its identities, what its
firmware banks hold. It has no body either. -/
opaque Config.perPart : Nat → BitVec 64

/-- SHA-384 of a sequence of words (R435): which value it has is for cryptography, that equal data gives equal values is not. -/
opaque Config.hash384 : List Nat → BitVec 384

/-- What a compute-core image of these units holds (R406; assumption log 196): the length of its core-resident part (0), its place in
core memory (1) and in cluster memory (2), and its bytes (3 on). -/
opaque Config.coreImage : List (Nat × Nat) → Nat → BitVec 64

/-- Byte `n` of the certificate chain of the part with this PUID (R435). -/
opaque Config.certByte : BitVec 64 → Nat → BitVec 8

end Sys2Proof
end

