-- ==== Sys2Proof/Machine/Types/Core.lean ====
section
/-! DEFINITION. Types of spec/03 and spec/05: core slots, shared core state, matrix-queue entries. -/

namespace Sys2Proof.Machine

/-- What a slot waits for (CORE_STAT.WAIT, Table 3.15), with the condition's own data. -/
inductive Wait where
  | none
  /-- sync wait: a registered CTR.WAIT on counter `n` -/
  | ctr (n : Nat)
  /-- sync wait: a barrier generation (BAR.WAIT, BAR.SYNC) -/
  | bar (b : Nat)
  /-- sync wait: an update, arrival or atomic whose verdict or old value has not returned -/
  | verdict
  /-- sync wait: FENCE or an older instruction of the slot -/
  | fence
  /-- transfer wait: an update with R = 1, an atomic or a fetch that has no transaction room (R253) -/
  | room
  /-- sync wait: a collective-step instruction that stalls -/
  | coll
  /-- the FRAME_END wait -/
  | frameEnd
  | mqFull
  | mmWait
  /-- transfer wait: XF.WAIT, a full channel list queue -/
  | transfer
  /-- an interlock or an older instruction; CORE_STAT.WAIT has no code for it and reads 0 -/
  | issue
  /-- a register of the instruction is still on its way (R78): it has not issued yet; the code is 0 here too -/
  | operand
deriving DecidableEq, Repr

/-- Matrix instructions that enter the matrix queue (Table 3.7). -/
inductive MOp where
  | ws
  | wt
  | os
  | pld
  | prel
  | batch
deriving DecidableEq, Repr

/-- A matrix-queue entry (R69, R90): what the instruction captured at issue, and its progress. `held` holds the finished
attempts of the current pass, rung 0 first: for each element of the block its FP32 or INT32 code. `finals` keeps, by
row × No + column, the codes of finished elements while a scaled result waits for its last pass. -/
structure MEntry where
  op : MOp := .prel
  word : Nat := 0
  tda : Nat := 0
  tdb : Nat := 0
  tdc : Nat := 0
  tdi : Nat := 0
  srs : Nat := 0
  thresh : Nat := 32
  runLen : Nat := 2
  planes : Nat := 4
  started : Bool := false
  launched : Bool := false
  headFrame : Nat := 0
  mask : Nat := 0
  reuse : Bool := false
  pass : Nat := 0
  inPass : Bool := false
  rung : Nat := 0
  held : List (List Nat) := []
  /-- poison of the elements, by attempt as `held` -/
  heldPois : List (List Bool) := []
  /-- rungs of the pass's elements found so far, by place in the block: none while still above the last rung tried -/
  rungs : List (Option Nat) := []
  finals : SMap Nat := []
  pois : SMap Bool := []
  flags : Nat := 0
  arrayDone : Bool := false
  maxRung : Nat := 0
  repeated : Bool := false
  overEv : Bool := false
  topEv : Bool := false
  /-- a pass was stopped between its attempts and will start again (R146) -/
  restart : Bool := false
  /-- attempts of this pass that have run, and the blocks of A and of B already counted in it (R147) -/
  tried : Nat := 0
  seenA : List Nat := []
  seenB : List Nat := []
  /-- the planes that held B of this instruction have been released under it: nothing more is kept (R95) -/
  lost : Bool := false
  /-- extents of B that the next attempt has read already, as offset and length, with their bytes and poison (R96) -/
  pre : List (Nat × Nat) := []
  preBytes : SMap Byte := []
  prePois : SMap Bool := []
deriving DecidableEq, Repr

/-- A transfer buffer pair of a slot (R190): the half offset, and whether the second half is current. -/
structure BufPair where
  half : Nat := 0
  second : Bool := false
deriving DecidableEq, Repr

/-- Why a slot that is bound does not run. -/
inductive Stop where
  | running
  /-- stopped by a core fault (R74) -/
  | fault
  /-- stopped by a job abort (R369) -/
  | abort
  /-- stopped by poison containment or a pre-emption -/
  | held
deriving DecidableEq, Repr

/-- An atomic of a slot on its way to a home of this package (R219): where, its operation, operands and the S register that
takes the old value. -/
structure Amo where
  pa : Nat
  hint : Nat
  op : Nat
  size : Nat
  data : Nat
  cmp : Nat
  reg : Nat
  /-- its translation has been invalidated since (R176) -/
  old : Bool
deriving DecidableEq, Repr

/-- One context slot of a core (R69, Table 3.1): its registers, arithmetic words, program counter, queue, binding. -/
structure Slot where
  bound : Bool := false
  job : Nat := 0
  lcore : Nat := 0
  stop : Stop := .running
  wait : Wait := .none
  pc : Nat := 0
  sregs : SMap Nat := []
  aregs : SMap Nat := []
  tds : SMap Nat := []
  flags : Nat := 0
  actl : Nat := 0x44
  pairs : SMap BufPair := []
  mq : List MEntry := []
  syncOut : Nat := 0
  /-- atomics on their way to homes of this package -/
  amos : List Amo := []
  /-- the instruction word that waits, and is tested again -/
  waitWord : Nat := 0
  /-- the queue that CS.NEXT served last (R275) -/
  csLast : Nat := 0
  retTag : Option (List Nat) := none
  retBytes : SMap Byte := []
  retPois : SMap Bool := []
  retPlanes : Nat := 0
deriving DecidableEq, Repr

/-- CORE_STAT.CTX (Table 3.15). -/
inductive Ctx where
  | primary
  | backfill
  /-- switching, to the backfill slot or back -/
  | switching (toBackfill : Bool)
deriving DecidableEq, Repr

/-- A line of the instruction cache: slot, virtual line address, its 64 bytes, parity good. -/
structure ILine where
  slot : Nat
  line : Nat
  word : Nat
deriving DecidableEq, Repr

/-- The state a core shares between its slots (R69), its fault record, its batch assembler and its counters. -/
structure Core where
  ctx : Ctx := .primary
  vregs : SMap Nat := []
  icache : List ILine := []
  faultValid : Bool := false
  faultSlot : Nat := 0
  faultCode : Nat := 0
  faultDetail : Nat := 0
  faultPc : Nat := 0
  batchValid : Nat := 0
  batchPost : Option Nat := none
  planeBytes : Nat := 0
  busy : Nat := 0
  escElem8 : Nat := 0
  escElem16 : Nat := 0
  repeatCyc : Nat := 0
  escLast : Nat := 0
  layerNarrow : SMap Nat := []
  layerEsc : SMap Nat := []
  layerNoEsc : SMap Nat := []
  halted : Bool := false
  inReset : Bool := false
  selftest : Bool := false
deriving DecidableEq, Repr

end Sys2Proof.Machine
end

