-- ==== Sys2Proof/Machine/Types/Merid.lean ====
section
/-! DEFINITION. Types of spec/02: Meridian. -/

namespace Sys2Proof.Machine

/-- Meridian states (Table 2.3). -/
inductive MState where
  | init
  | listen
  | claim
  | locking
  | locked
  | outOfStep
  | holdover
  | master
deriving DecidableEq, Repr

/-- MERID_STAT.REF_STATE (Table 2.13). -/
inductive RefState where
  | notMaster
  | refLocked
  | freeRun
  | holdover
deriving DecidableEq, Repr

/-- The fields of a received tick symbol that Meridian keeps (Table 2.1). -/
structure TickSym where
  count : Nat := 0
  epoch : Nat := 0
  period : Nat := 0
  hops : Nat := 0
  swPending : Bool := false
  inHoldover : Bool := false
  prio : Nat := 0
deriving DecidableEq, Repr

/-- Meridian's state for one link: the last tick symbol, whether it came since the last local tick, the last MASTER_ID
received since the link came up (priority, PUID, epoch; R58), and the compensation in ns (R50). -/
structure MLink where
  sym : Option TickSym := none
  fresh : Bool := false
  mid : Option (Nat × Nat × Nat) := none
  comp : Int := 0
deriving DecidableEq, Repr

/-- Meridian (R45 to R68). `adopt` is the count that the next tick adopts, as the symbol carried it; `claimBest` the best claim
seen in the election; `claimFrames` a CLAIM entered from HOLDOVER; `refLast` the time of the last accepted TICK_REF edge. -/
structure Merid where
  state : MState := .init
  count : Nat := 0
  latchHi : Nat := 0
  period : Nat := 25
  epoch : Nat := 0
  masterPrio : Nat := 0
  masterPuid : Nat := 0
  inLink : Option Nat := none
  hops : Nat := 0
  phaseErr : Int := 0
  phasePeak : Nat := 0
  links : SMap MLink := []
  lockStreak : Nat := 0
  silentTicks : Nat := 0
  /-- a tick symbol, of whatever period, has come since the last tick -/
  heard : Bool := false
  stateTicks : Nat := 0
  claimBest : Option (Nat × Nat) := none
  claimFrames : Bool := false
  adopt : Option Nat := none
  followLink : Option Nat := none
  /-- in LOCKING: the epoch followed is known; a count of it has been adopted; a MASTER_ID of the followed link has been taken -/
  epochKnown : Bool := false
  adopted : Bool := false
  idTaken : Bool := false
  masterIdDue : Bool := false
  refState : RefState := .notMaster
  refLast : Option Nat := none
  refExpired : Bool := false
  /-- the time of the last tick, µs; the time of entry into reference holdover -/
  tickUs : Nat := 0
  refHoldUs : Nat := 0
  ovrValid : Bool := false
  ovrCore : Nat := 0
  ovrPart : Nat := 0
  ovrBehind : Nat := 0
  ovrPc : Nat := 0
deriving DecidableEq, Repr

end Sys2Proof.Machine
end

