-- ==== Sys2Proof/Machine/Types/Sync.lean ====
section
/-! DEFINITION. Types of spec/08: barriers, waiters, the sync fault record, the survey. -/

namespace Sys2Proof.Machine

/-- SYNC_BAR STATE (Table 8.11). -/
inductive BarState where
  | disarmed
  | armed
  | timedOut
deriving DecidableEq, Repr

/-- A barrier (R217, R218). TICKS counts from the first arrival of the generation. -/
structure Bar where
  state : BarState := .disarmed
  count : Nat := 0
  timeout : Nat := 0
  gen : Nat := 0
  arrived : Nat := 0
  ticks : Nat := 0
  relEn : Bool := false
  relCtr : Nat := 0
deriving DecidableEq, Repr

/-- A registered CTR.WAIT on a counter (R216): the slot, the value awaited, C. -/
structure CtrWaiter where
  core : Nat
  slot : Nat
  value : Nat
  consume : Bool
deriving DecidableEq, Repr

/-- A registered BAR.WAIT or BAR.SYNC (R217): the slot, the generation held. -/
structure BarWaiter where
  core : Nat
  slot : Nat
  gen : Nat
deriving DecidableEq, Repr

/-- The sync fault record of SYNC[p][16] (Table 8.10). -/
structure SyncRec where
  source : Nat
  kind : Nat
  lcore : Nat
  counter : Nat
  pkgn : Nat
  job : Nat
  amount : Nat
  value : Nat
deriving DecidableEq, Repr

/-- Where an update, an arrival or an AMO comes from (SYNC fault record SOURCE, R214). A core instruction carries its
core and slot, and whether its verdict is a precise core fault (R215); one whose core has been reset since keeps them and has no slot to tell; a
transfer signal carries its engine; an arrival its link; a release the logical core, job and PKGN of what completed. -/
inductive SyncSrc where
  | instr (p core slot : Nat) (precise : Bool) (lcore job : Nat)
  | signal (eng lcore job : Nat)
  | link (n lcore job pkgn : Nat)
  | mgmt
  | release (lcore job pkgn : Nat)
  | gone (core slot lcore job : Nat)
deriving DecidableEq, Repr

/-- The kinds of update a counter takes (R214). -/
inductive CtrOp where
  | add
  | sub
  | set
deriving DecidableEq, Repr

/-- An update or barrier arrival on its way to its home: the counter or barrier of the partition, the operation, the
amount; for a barrier arrival of a slot, the S register that takes the generation and whether it then waits. -/
structure SyncUpd where
  bar : Bool := false
  op : CtrOp := .add
  num : Nat
  amount : Nat := 0
  src : SyncSrc
  reg : Nat := 0
  sync : Bool := false
deriving DecidableEq, Repr

/-- The sync objects of a partition (R208 to R223). Counters and barriers that are not listed hold zero. -/
structure Sync where
  ctrs : SMap Nat := []
  bars : SMap Bar := []
  ctrWaits : SMap (List CtrWaiter) := []
  barWaits : SMap (List BarWaiter) := []
  fault : Option SyncRec := none
  /-- updates and arrivals on their way here -/
  inflight : List SyncUpd := []
  busy : Bool := false
  /-- the survey captured: trigger and barrier, and the record's bytes -/
  survey : Option (List Nat) := none
  seq : Nat := 0
deriving DecidableEq, Repr

end Sys2Proof.Machine
end

