-- ==== Sys2Proof/Machine/Codes.lean ====
section
/-! DEFINITION. The codes under which states read in registers. -/

namespace Sys2Proof.Machine

/-- BOOT_STAT.PATH codes. -/
def Path.code : Path → Nat
  | .full => 0
  | .fast => 1
  | .warm => 2
  | .recovery => 3

/-- CORE_STAT.WAIT codes (Table 3.15). -/
def Wait.code : Wait → Nat
  | .none => 0
  | .ctr _ => 1
  | .bar _ => 1
  | .verdict => 1
  | .fence => 1
  | .room => 5
  | .coll => 1
  | .frameEnd => 2
  | .mqFull => 3
  | .mmWait => 4
  | .transfer => 5
  | .issue => 0
  | .operand => 0

/-- HELIO_STAT.GAUGE codes. -/
def Gauge.code : Gauge → Nat
  | .normal => 0
  | .riding => 1
  | .parking => 2

/-- LNK_STAT.STATE codes (Table 9.2). -/
def LState.code : LState → Nat
  | .disabled => 0
  | .detect => 1
  | .train => 2
  | .align => 3
  | .digest => 4
  | .quarantine => 5
  | .linkup => 6
  | .retry => 7
  | .sparing => 8
  | .drainDisable _ => 9
  | .drainQuarantine => 9
  | .failed => 10

/-- MERID_STAT.STATE codes (Table 2.3). -/
def MState.code : MState → Nat
  | .init => 0
  | .listen => 1
  | .claim => 2
  | .locking => 3
  | .locked => 4
  | .outOfStep => 5
  | .holdover => 6
  | .master => 7

/-- MERID_STAT.REF_STATE codes. -/
def RefState.code : RefState → Nat
  | .notMaster => 0
  | .refLocked => 1
  | .freeRun => 2
  | .holdover => 3

/-- STATE codes of SYNC_BAR. -/
def BarState.code : BarState → Nat
  | .disarmed => 0
  | .armed => 1
  | .timedOut => 2

/-- RHOST_STAT.STATE codes. -/
def HState.code : HState → Nat
  | .running => 0
  | .waiting => 1
  | .stopped => 2
  | .offline => 3

end Sys2Proof.Machine
end

