-- ==== Sys2Proof/Machine/Fields.lean ====
section
/-! DEFINITION. Register pages of spec/01: where a page lies (Tables 1.4 to 1.7), its causes and Logbook size, and the
RW fields of every block's register tables with their reset values and legal ranges. -/

namespace Sys2Proof.Machine

/-- Domain, instance and block-type code of a page (Tables 1.5 to 1.7). -/
def Page.loc : Page → Nat × Nat × Nat
  | .core p i => (p + 1, i, 0x01)
  | .mxe p i => (p + 1, i, 0x02)
  | .clus p c => (p + 1, c, 0x03)
  | .dma p j => (p + 1, j, 0x04)
  | .ctr p j => (p + 1, j, 0x05)
  | .sync p => (p + 1, 16, 0x05)
  | .msc p => (p + 1, 0, 0x06)
  | .hbmc p => (p + 1, 0, 0x07)
  | .lnk n => (n / 3 + 1, n % 3, 0x08)
  | .route n => (n / 3 + 1, n % 3, 0x09)
  | .coll p q => (p + 1, q, 0x0A)
  | .part p => (p + 1, 0, 0x0B)
  | .vregP p r => (p + 1, r, 0x0C)
  | .vreg r => (0xD, r, 0x0C)
  | .mmu p => (p + 1, 0, 0x0D)
  | .eph => (0xD, 0, 0x13)
  | .ephP p => (p + 1, 0, 0x13)
  | .helio => (0xD, 0, 0x17)
  | .helioP p => (p + 1, 0, 0x17)
  | .merid => (0xD, 0, 0x16)
  | .capc d => (0, d, 0x10)
  | .rhost h => (0, h, 0x11)
  | .upd => (0, 0, 0x12)
  | .pcie x => (0, x, 0x14)
  | .mgmt => (0xF, 0, 0x15)
  | .alm => (0xF, 0, 0x18)
  | .lic => (0xF, 0, 0x19)
  | .boot => (0xF, 0, 0x1A)
  | .eyep => (0xF, 0, 0x1B)

/-- The block-type code of a page (Table 1.6). -/
def Page.blk (pg : Page) : Nat := pg.loc.2.2

/-- The instance of a page (Table 1.7). -/
def Page.inst (pg : Page) : Nat := pg.loc.2.1

/-- The partition of a page in a partition domain; PART[0] stands for the hub and package-wide pages (R376). -/
def Page.partOf (pg : Page) : Nat :=
  let d := pg.loc.1
  if 1 ≤ d ∧ d ≤ 12 then d - 1 else 0

/-- Page number in the management space: the management offset without its low 12 bits (Table 1.4). -/
def Page.key (pg : Page) : Nat :=
  let l := pg.loc
  (l.1 * 256 + l.2.1) * 256 + l.2.2

/-- Management offset of register `o` of the page (Table 1.4). -/
def Page.addr (pg : Page) (o : Nat) : Nat := pg.key * 4096 + o

/-- The page at a page number, none for an absent page (R30, Table 1.7). -/
def pageOf (key : Nat) : Option Page :=
  let blk := key % 256
  let i := key / 256 % 256
  let d := key / 65536
  if 1 ≤ d ∧ d ≤ 12 then
    let p := d - 1
    match blk with
    | 0x01 => if i < 153 then some (.core p i) else none
    | 0x02 => if i < 153 then some (.mxe p i) else none
    | 0x03 => if i < 9 then some (.clus p i) else none
    | 0x04 => if i < 36 then some (.dma p i) else none
    | 0x05 => if i < 16 then some (.ctr p i) else if i = 16 then some (.sync p) else none
    | 0x06 => if i = 0 then some (.msc p) else none
    | 0x07 => if i = 0 then some (.hbmc p) else none
    | 0x08 => if i < 3 then some (.lnk (3 * p + i)) else none
    | 0x09 => if i < 3 then some (.route (3 * p + i)) else none
    | 0x0A => if i < 64 then some (.coll p i) else none
    | 0x0B => if i = 0 then some (.part p) else none
    | 0x0C => if i < 4 then some (.vregP p i) else none
    | 0x0D => if i = 0 then some (.mmu p) else none
    | 0x13 => if i = 0 then some (.ephP p) else none
    | 0x17 => if i = 0 then some (.helioP p) else none
    | _ => none
  else if d = 0 then
    match blk with
    | 0x10 => if i < 16 then some (.capc i) else none
    | 0x11 => if i < 32 then some (.rhost i) else none
    | 0x12 => if i = 0 then some .upd else none
    | 0x14 => if i < 2 then some (.pcie i) else none
    | _ => none
  else if d = 0xD then
    match blk with
    | 0x0C => if i < 5 then some (.vreg i) else none
    | 0x13 => if i = 0 then some .eph else none
    | 0x16 => if i = 0 then some .merid else none
    | 0x17 => if i = 0 then some .helio else none
    | _ => none
  else if d = 0xF then
    match blk with
    | 0x15 => if i = 0 then some .mgmt else none
    | 0x18 => if i = 0 then some .alm else none
    | 0x19 => if i = 0 then some .lic else none
    | 0x1A => if i = 0 then some .boot else none
    | 0x1B => if i = 0 then some .eyep else none
    | _ => none
  else none

/-- Number of block causes of the page (HDR_IRQ_STAT.CAUSE bits 0 to n − 1) and LOG_COUNT (R40). -/
def Page.caps : Page → Nat × Nat
  | .core _ _ => (3, 11)
  | .mxe _ _ => (4, 48)
  | .clus _ _ => (0, 0)
  | .dma _ _ => (6, 12)
  | .ctr _ _ => (0, 0)
  | .sync _ => (5, 10)
  | .msc _ => (5, 8)
  | .hbmc _ => (5, 8)
  | .lnk _ => (8, 24)
  | .route _ => (4, 6)
  | .coll _ _ => (8, 17)
  | .part _ => (8, 16)
  | .vregP _ _ => (2, 3)
  | .vreg _ => (2, 3)
  | .mmu _ => (6, 14)
  | .eph => (5, 10)
  | .ephP _ => (3, 5)
  | .helio => (15, 17)
  | .helioP _ => (6, 8)
  | .merid => (10, 32)
  | .capc _ => (3, 8)
  | .rhost _ => (3, 4)
  | .upd => (6, 8)
  | .pcie _ => (8, 10)
  | .mgmt => (6, 10)
  | .alm => (4, 6)
  | .lic => (2, 3)
  | .boot => (6, 8)
  | .eyep => (4, 5)

/-- Number of Logbook counters of the page. -/
def Page.logCount (pg : Page) : Nat := pg.caps.2

/-- 1: the page raises interrupts (HDR_CAPS.IRQ_CAP). -/
def Page.irqCap (pg : Page) : Bool := pg.caps.1 ≠ 0

/-- The bits of HDR_IRQ_STAT that the page implements: its causes, CLAMP and LOG_SAT. -/
def Page.causeMask (pg : Page) : Nat :=
  if pg.irqCap then 2 ^ pg.caps.1 - 1 + 2 ^ 30 + 2 ^ 31 else 0

/-- Shorthand for the field rows below. -/
def fld (off lo width reset : Nat) (clamp : Clamp := .full) : RwField := ⟨off, lo, width, reset, clamp⟩

/-- The RW fields of a block's register tables, by block-type code and word offset, without address pairs. `i` is the
page's instance (RHOST_CFG.OWNER resets by it, R315). Fields in arrays are given by the array element's word. -/
def blockFields (blk i o : Nat) : List RwField :=
  match blk, o with
  | 0x01, 0x040 => [fld o 16 12 64, fld o 8 5 4, fld o 4 2 2 (.range 0 2), fld o 0 1 0]
  | 0x02, 0x040 => [fld o 8 8 32 (.range 1 255), fld o 0 4 2 (.range 1 8)]
  | 0x02, 0x044 => [fld o 0 8 2 (.range 1 255)]
  | 0x02, 0x084 => [fld o 19 13 0, fld o 6 13 1 (.range 1 0x1FFF)]
  | 0x05, 0x040 => if i = 16 then [fld o 8 7 16 (.range 0 64), fld o 0 4 1 (.range 0 8)] else []
  | 0x05, 0x044 => if i = 16 then [fld o 1 1 1] else []
  | 0x06, 0x040 => [fld o 16 8 16 (.range 1 255), fld o 8 4 8]
  | 0x07, 0x044 => [fld o 0 8 24 (.range 0 168)]
  | 0x10, 0x040 => [fld o 0 8 24 (.range 0 168)]
  | 0x0D, 0x040 => [fld o 0 1 0]
  | 0x0D, 0x048 => [fld o 0 1 0]
  | 0x0D, 0x050 => [fld o 28 1 0, fld o 24 4 0 (.enum 2 0), fld o 0 24 1 (.range 1 0xFFFFFF)]
  | 0x0D, 0x054 => [fld o 16 16 0]
  | 0x0D, 0x058 => [fld o 0 25 0]
  | 0x0D, 0x068 => [fld o 0 8 0]
  | 0x0D, 0x06C => [fld o 0 32 0]
  | 0x0D, 0x074 => [fld o 0 16 40000 (.range 1 65535)]
  | 0x08, 0x040 => [fld o 8 8 10, fld o 2 1 1, fld o 0 1 0]
  | 0x08, 0x060 => [fld o 0 16 0xFFFF .special]
  | 0x08, 0x064 => [fld o 0 32 0 .special]
  | 0x08, 0x068 => [fld o 16 4 2, fld o 0 14 400 (.range 100 10000)]
  | 0x09, 0x040 => [fld o 31 1 0, fld o 0 16 0 (.range 0 49151)]
  | 0x0A, 0x040 => [fld o 24 8 64 (.range 8 255), fld o 16 8 2 (.range 1 255), fld o 8 1 0,
      fld o 0 3 1 (.range 0 4)]
  | 0x0A, 0x044 => [fld o 31 1 0 .special, fld o 30 1 0 .special, fld o 29 1 0 .special, fld o 0 24 0 .special]
  | 0x0A, 0x04C => [fld o 0 21 2 (.range 2 1048576)]
  | 0x0A, 0x058 => [fld o 16 7 0, fld o 0 7 16 .special]
  | 0x0A, 0x064 => [fld o 0 12 0]
  | 0x0A, 0x068 => [fld o 0 1 0]
  | 0x0A, 0x070 => [fld o 31 1 0, fld o 16 8 0, fld o 0 16 0 (.range 0 49151)]
  | 0x0A, 0x074 => [fld o 0 8 8 (.range 2 255)]
  | 0x12, 0x040 => [fld o 0 11 0 (.range 0 1090)]
  | 0x11, 0x040 => [fld o 30 2 (if i < 4 then 0 else 2) .special, fld o 16 4 0 (.range 0 11), fld o 0 16 0]
  | 0x17, 0x040 => [fld o 16 12 900 (.range 600 2000), fld o 0 12 3200 (.range 1200 3600)]
  | 0x17, 0x044 => [fld o 31 1 1, fld o 16 9 100 (.range 1 500), fld o 0 9 100 (.range 1 500)]
  | 0x17, 0x048 => [fld o 16 7 100 (.range 25 100), fld o 8 7 50 (.range 25 100), fld o 0 8 240 (.range 128 255)]
  | 0x17, 0x04C => [fld o 16 8 0, fld o 0 12 0 .special]
  | 0x17, 0x05C => [fld o 16 9 275 (.range 250 400), fld o 0 11 127 (.range 127 2000)]
  | 0x0B, 0x040 => [fld o 8 8 10 (.range 0 50)]
  | 0x0B, 0x044 => [fld o 24 2 0 (.enum 2 0), fld o 0 8 0 .special]
  | 0x1A, 0x040 => [fld o 16 10 100 (.range 25 1000), fld o 8 8 16 (.range 1 255), fld o 0 1 1]
  | 0x1A, 0x050 => [fld o 2 1 0 .special]
  | 0x18, 0x040 => [fld o 30 1 0, fld o 0 1 1]
  | 0x14, 0x040 => [fld o 16 8 16 (.range 1 100), fld o 3 1 1, fld o 2 1 1, fld o 0 2 0 (.enum 2 0)]
  | 0x15, 0x040 => [fld o 24 1 1, fld o 17 7 0x52 (.range 8 0x77), fld o 16 1 1, fld o 0 4 2 (.range 1 15)]
  | 0x1B, 0x040 => [fld o 2 8 0 .special, fld o 1 1 0, fld o 0 1 0]
  | 0x1B, 0x04C => [fld o 16 16 64 (.range 4 65535)]
  | 0x1B, 0x050 => [fld o 16 4 0 (.range 0 11), fld o 0 8 0 (.range 0 152)]
  | 0x1B, 0x054 => [fld o 31 1 0 .special]
  | 0x16, 0x040 => [fld o 16 4 2 (.range 1 15), fld o 12 4 4 (.range 2 15), fld o 11 1 0, fld o 10 1 1, fld o 8 1 1,
      fld o 0 8 0x80]
  | 0x16, 0x044 => [fld o 16 8 25 (.range 10 200)]
  | 0x16, 0x048 => [fld o 0 32 0 .special]
  | 0x16, 0x04C => [fld o 31 1 0 .special, fld o 0 16 0 .special]
  | 0x16, 0x050 => [fld o 0 16 40000 (.range 1 65535)]
  | _, _ => []

/-- The RW fields at word offset `o` of a page, arrays included. -/
def Page.fields (pg : Page) (o : Nat) : List RwField :=
  match pg with
  | .helioP _ =>
    if o = 0x040 then [fld o 31 1 0, fld o 0 6 32 .special]
    else if o = 0x04C then [fld o 0 8 40 (.range 10 100)] else []
  | .eph =>
    if o = 0x040 then [fld o 24 8 8 (.range 1 255), fld o 16 8 10 (.range 1 100), fld o 0 13 256 (.range 64 4096)]
    else if o = 0x044 then [fld o 16 16 0xFFFF, fld o 0 16 0xFFFF .special] else []
  | .ephP _ =>
    if o = 0x040 ∨ o = 0x044 then [fld o 31 1 0, fld o 24 4 0 .special, fld o 0 16 0]
    else if o = 0x050 ∨ o = 0x054 ∨ (0x080 ≤ o ∧ o < 0x100) then
      [fld o 24 8 0 .special, fld o 16 8 0 .special, fld o 8 8 0 .special, fld o 0 8 0 .special]
    else []
  | .upd =>
    if 0x100 ≤ o ∧ o < 0x280 then
      match (o - 0x100) % 32 with
      | 0x08 => [fld o 0 8 0 .special]
      | 0x0C => [fld o 31 1 0 .special, fld o 16 4 0 (.range 0 11), fld o 0 16 0]
      | _ => []
    else blockFields 0x12 0 o
  | .sync _ =>
    if 0x100 ≤ o ∧ o < 0xD00 then
      match (o - 0x100) % 12 with
      | 0x0 => [fld o 16 16 0, fld o 0 16 0 .special]
      | 0x8 => [fld o 31 1 0, fld o 16 12 0]
      | _ => []
    else blockFields 0x05 16 o
  | pg => blockFields pg.blk pg.inst o

/-- An address held in a low and a high register (R468): the low word's offset, the high word's, the lowest address
bit held, and whether only the capacity tier is legal. -/
structure AddrPair where
  lo : Nat
  hi : Nat
  align : Nat
  capOnly : Bool := false
deriving DecidableEq, Repr

/-- The address pairs of a page (R468). -/
def Page.pairs : Page → List AddrPair
  | .sync _ => [⟨0x048, 0x04C, 15, false⟩]
  | .mmu _ => [⟨0x040, 0x044, 12, false⟩, ⟨0x048, 0x04C, 12, false⟩, ⟨0x05C, 0x060, 13, false⟩, ⟨0x078, 0x07C, 21, true⟩]
  | .coll _ _ => [⟨0x050, 0x054, 12, false⟩, ⟨0x05C, 0x060, 12, false⟩, ⟨0x068, 0x06C, 12, false⟩]
  | .upd => (List.range 12).map fun r => ⟨0x100 + 32 * r, 0x104 + 32 * r, 8, false⟩
  | .lic => [⟨0x050, 0x054, 6, false⟩]
  | .pcie _ => [⟨0x048, 0x04C, 30, false⟩]
  | .eyep => [⟨0x048, 0x04C, 12, false⟩]
  | _ => []

/-- The value word `o` of a page has at reset, over its RW fields. -/
def Page.resetWord (pg : Page) (o : Nat) : Nat :=
  ((pg.fields o).map fun f => f.reset * 2 ^ f.lo).sum

/-- The home of a word that several pages share: LNK_PKGN, LNK_SYSID and LNK_E2E are one register in all 36 LNK pages,
COLL_PCFG one in all 64 queue pages of a partition. -/
def Page.home (pg : Page) (o : Nat) : Page :=
  match pg with
  | .lnk n => if 0x060 ≤ o ∧ o ≤ 0x068 then .lnk 0 else .lnk n
  | .coll p q => if o = 0x040 then .coll p 0 else .coll p q
  | pg => pg

end Sys2Proof.Machine
end

