-- ==== Sys2Proof/Machine/Types/Coll.lean ====
section
/-! DEFINITION. Types of spec/10: launches, lanes, communication queues, votes. -/

namespace Sys2Proof.Machine

/-- An expectation of a lane (R272): issue order, bytes written, the place of its completion among the lane's events,
whether ARRIVED was delivered. -/
structure CExp where
  step : Nat
  rank : Nat
  bytes : Nat
  doff : Nat
  seq : Nat
  tick : Nat
  got : Nat := 0
  met : Option Nat := none
  told : Bool := false
deriving DecidableEq, Repr

/-- A send of a lane (R273): transmitted once its clear-to-send is held; `out` counts DATA packets not yet answered. -/
structure CSnd where
  step : Nat
  rank : Nat
  bytes : Nat
  src : Nat
  seq : Nat
  sent : Bool := false
  out : Nat := 0
  done : Option Nat := none
deriving DecidableEq, Repr

/-- A launch (R268): its ordinal, group, and its record of 64 bytes as the queue has taken it. -/
structure CLaunch where
  ordinal : Nat
  group : Nat
  rec' : List Nat
deriving DecidableEq, Repr

/-- A lane of a data queue for the current launch (R266, R269). -/
structure CLane where
  taken : Bool := false
  notified : Bool := false
  /-- the status with which the lane's launch ended -/
  ended : Option Nat := none
  /-- an END event not yet delivered -/
  endEv : Option Nat := none
  seq : Nat := 0
  occ : Nat := 0
  exps : List CExp := []
  sends : List CSnd := []
  /-- expectations whose slot was released before their ARRIVED was delivered (R274, R275) -/
  freed : List CExp := []
  /-- clear-to-sends, and arrivals of later ordinals, that wait (R273, R286) -/
  store : List Pkt := []
  /-- clear-to-sends of later launches that found the store full: their launches end with CTS_OVERFLOW (R273) -/
  lostCts : List Pkt := []
deriving DecidableEq, Repr

/-- The fault record of a COLL page (Table 10.13), and the cause under which it is held. -/
structure CRec where
  cause : Nat
  status : Nat
  pkgn : Nat := 0
  step : Nat := 0
  rank : Nat := 0
  ordinal : Nat := 0
  group : Nat := 0
deriving DecidableEq, Repr

/-- A communication queue (R265 to R269). The current launch is the first of `pending`. -/
structure CQueue where
  bound : Bool := false
  job : Nat := 0
  vote : Bool := false
  library : Bool := false
  group : Nat := 0
  rank : Nat := 0
  draining : Bool := false
  pending : List CLaunch := []
  /-- how often the queue has been bound: an image's queue is the one that is bound, or another (R287) -/
  binds : Nat := 0
  nextOrd : Nat := 0
  lastOrd : Nat := 0
  lastStatus : Nat := 0
  /-- launches taken from the ring so far -/
  ring : Nat := 0
  lanes : SMap CLane := []
  slowRank : Nat := 0
  slowNs : Nat := 0
  slowOrd : Nat := 0
  /-- no lateness has been recorded for the launch in progress (R288) -/
  slowNew : Bool := true
  /-- launches that have ended here since the package reset: it tells the transactions of one launch from another's -/
  ends : Nat := 0
  /-- group and ordinal of tick-bound launches that ended while the package was absent (R285) -/
  absents : List (Nat × Nat) := []
  fault : Option CRec := none
  /-- votes contributed so far by the primary slot of each core -/
  votes : SMap Nat := []
  vres : Nat := 0
deriving DecidableEq, Repr

/-- A vote of a job's group (R280 to R282). -/
structure CVote where
  job : Nat
  group : Nat
  ordinal : Nat
  value : Nat := 0
  /-- the slots that have contributed: partition and core -/
  slots : List (Nat × Nat) := []
  /-- the sidereal count at launch -/
  launch : Option Nat := none
  /-- packages heard from -/
  ups : List Nat := []
  upSent : Bool := false
  result : Option Nat := none
  lost : Bool := false
deriving DecidableEq, Repr

/-- What the package's collectives share. -/
structure Coll where
  votes : List CVote := []
  /-- jobs whose tick-bound data launches have failed since their last vote (R281) -/
  trouble : List Nat := []
  /-- the jobs bound here while the package was OUT_OF_STEP that have not come to a step boundary since (R59, R285) -/
  absentJobs : List Nat := []
  /-- the package has been LOCKED, or MASTER, since it was last OUT_OF_STEP (R59) -/
  back : Bool := false
  /-- jobs whose vote result has been delivered since the last tick, and those whose step boundary was the last tick (R297) -/
  stepDue : List Nat := []
  stepNow : List Nat := []
  /-- mismatch stores (R286): partition, tick of arrival, packet -/
  mism : List (Nat × Nat × Pkt) := []
  /-- bindings of queues made since reset: each binding has its own number -/
  binds : Nat := 0
  /-- packets that wait for room among the outstanding transactions (R253) -/
  outbox : List (Nat × Pkt × XOrigin) := []
deriving DecidableEq, Repr

end Sys2Proof.Machine
end

