-- ==== Sys2Proof/Machine/Types/Dma.lean ====
section
/-! DEFINITION. Types of spec/07: channels, lists, descriptors in progress. -/

namespace Sys2Proof.Machine

/-- A posted list (R187, R191): the core and slot that posted it, its place in core memory, the descriptors started,
and the capture of the buffer pairs (half × half offset of pairs 1 to 8). -/
structure XList where
  core : Nat
  slot : Nat
  lcore : Nat
  job : Nat
  base : Nat
  count : Nat
  next : Nat := 0
  pairs : List Nat := []
deriving DecidableEq, Repr

/-- Data that has come for a piece of a descriptor and waits for the pieces before it (R198): the piece's number, where it goes, its
bytes, the poisoned ranges among them; whether its translation has been invalidated since (R176). -/
structure Piece where
  num : Nat
  dsts : List Dst
  bytes : List Nat
  pois : List (Nat × Nat)
  old : Bool := false
deriving DecidableEq, Repr

/-- Why a descriptor could not go on when it was last tried: no room for a packet to a package in a space (R253), data of its
earlier reads that has not come, or a translation fault that parks the channel once that data has been written (R201). -/
inductive DHold where
  | free
  | room (pkgn space : Nat)
  /-- no tag of the port is free (Table 16.1) -/
  | tag (port : Nat)
  | reads
  | park (va : Nat) (write : Bool) (cause entry : Nat)
deriving DecidableEq, Repr

/-- A fault waits to park the channel. -/
def DHold.parks : DHold → Bool
  | .park .. => true
  | _ => false

/-- Progress of a started descriptor: its number in its channel, its 64 bytes, the boundary (row, byte), whether every element's read
has been issued, whether poison was carried, whether it waits on a batch slot, on a host translation or as `hold` says; the pieces
whose reads went to another package or the host, those of them whose data has gone on, the data that waits; their numbers with their
destination addresses as the descriptor names them; whether its signals have been sent. -/
structure Desc where
  id : Nat := 0
  bytes : List Nat
  row : Nat := 0
  off : Nat := 0
  moved : Bool := false
  poison : Bool := false
  batchWait : Bool := false
  hostWait : Bool := false
  hold : DHold := .free
  asked : Nat := 0
  given : Nat := 0
  held : List Piece := []
  asks : List (Nat × Nat) := []
  signalled : Bool := false
deriving DecidableEq, Repr

/-- Channel states (DMA_CH_STAT.STATE, Table 7.8). -/
inductive ChState where
  | normal
  | parked
  | stopped
  | saved
deriving DecidableEq, Repr

/-- A channel of a DMA engine (R186, R187): its lists, whose `next` counts completed descriptors; the descriptors that have moved and
are not complete, oldest first, before the current one (R196); the number of its next descriptor. -/
structure Chan where
  state : ChState := .normal
  lists : List XList := []
  out : List Desc := []
  nextId : Nat := 0
  cur : Option Desc := none
  lastStatus : Nat := 0
  done : Nat := 0
  /-- the boundary last recorded (Table 7.9): logical core, descriptor, row, byte -/
  prog : Nat × Nat × Nat × Nat := (0, 0, 0, 0)
deriving DecidableEq, Repr

/-- A DMA engine (R185): its two channels, its counters, and the engine that serves its channels if it failed (R366). -/
structure Engine where
  pri : Chan := {}
  bf : Chan := {}
  failed : Bool := false
  substitute : Option Nat := none
  bytesRd : Nat := 0
  bytesWr : Nat := 0
  mcastSaved : Nat := 0
deriving DecidableEq, Repr

end Sys2Proof.Machine
end

