-- ==== Sys2Proof/Machine/Types/Image.lean ====
section
/-! DEFINITION. The pre-emption image of a partition (R180, R204, R210, R287), kept by logical names. -/

namespace Sys2Proof.Machine

/-- What an image holds of the job of one slot of the partition: its job, its slots by logical core, channels by logical cluster × 4 +
engine, and its share of counters and barriers with those that wait on them. -/
structure ImageSide where
  job : Nat := 0
  slots : SMap Slot := []
  chans : SMap Chan := []
  ctrs : SMap Nat := []
  bars : SMap Bar := []
  ctrWaits : SMap (List CtrWaiter) := []
  barWaits : SMap (List BarWaiter) := []
deriving DecidableEq, Repr

/-- What an image holds beside the memories of logical cores and clusters, whose bytes lie in the capacity tier at MMU_SAVE: the primary
job's side and the backfill job's, if one was bound (R204), the partition whose MMU holds its fault records, vector registers by logical
core, queues; and whether an abort awaits the job at its restore (Table 16.9). The spec gives these parts no byte layout: an image in
memory names them by its number (assumption log 104). -/
structure Image extends ImageSide where
  home : Nat := 0
  vregs : SMap (SMap Nat) := []
  queues : SMap CQueue := []
  abort : Bool := false
  bf : Option ImageSide := none
deriving DecidableEq, Repr

/-- A re-mirroring that this package does as survivor (R389): the ring whose shard is copied, the replacement, the commit bitmap,
the number of the next copy, and the region whose writes are out: its index, how many are unanswered, whether one failed, and the
ring's CONS when the copy began, which tells one copy window from the next. -/
structure Mirror where
  ring : Nat
  target : Nat
  bitmap : SMap Bool := []
  tag : Nat := 0
  cur : Option (Nat × Nat × Bool × Nat) := none
deriving DecidableEq, Repr

end Sys2Proof.Machine
end

