-- ==== Sys2Proof/Machine/Types/Out.lean ====
section
/-! DEFINITION. What the block sends to the outside: packets, control blocks, messages, responses. The newest is
first in `Block.out`; nothing in the block reads the list back. -/

namespace Sys2Proof.Machine

/-- One thing sent. Byte strings are numbers or lists of byte values, lowest byte first. -/
inductive Out where
  /-- data a memory home delivered to the requester of a read (R149), with its poison mark -/
  | memData (addr : Nat) (bytes : List Nat) (poison : Bool)
  /-- a memory access refused with an address fault (R24) -/
  | memRefused (addr : Nat)
  /-- a 16-byte control block on a link (R238), as a 128-bit number, byte 0 lowest -/
  | ctl (link : Nat) (block : Nat)
  /-- a flit on a link (R234): its 256 bytes -/
  | flit (link : Nat) (bytes : List Nat)
  /-- a packet delivered inside the package: kind and fields -/
  | deliver (kind : Nat) (fields : List Nat)
  /-- a management read or write response: data and error response -/
  | mgmtResp (data : Nat) (error : Bool)
  /-- a PLDM PlatformEventMessage (R431): page key and cause -/
  | pldmEvent (page cause : Nat)
  /-- an MCTP, PLDM, SPDM or vendor-defined response: message type, completion code, data bytes -/
  | mctp (mtype code : Nat) (data : List Nat)
  /-- a PCIe TLP sent by the package: port, kind, fields. Kind 0 memory read (tag, VF, AT, address, bytes); 1 memory write (VF, AT,
  address, then its data); 2 ATS translation request and 7 PRI page request (tag, VF, page, write); 3 completion with data; 4
  Unsupported Request; 5 Completer Abort; 6 invalidation completion (VF, page, pages); 8 Request Retry Status -/
  | tlp (port kind : Nat) (fields : List Nat)
  /-- a page's interrupt is raised: it reaches the management controller, and the resident host where `host` (R36) -/
  | irq (page : Nat) (host : Bool)
  /-- TICK_OUT is driven high for 1 µs (R51) -/
  | tickOut
  /-- an MSI-X message: port, function, vector -/
  | msix (port fn vec : Nat)
  /-- a trace record on the trace lands (R437) -/
  | trace (record : List Nat)
  /-- a request for firmware data (R432): component classification and identifier, offset, length -/
  | pldmAsk (cls ident off len : Nat)
  /-- JTAG test data out: the register selected, and what it holds -/
  | jtag (reg word : Nat)
  /-- a request of the block to firmware of the same package: kind and fields -/
  | notice (kind : Nat) (fields : List Nat)
deriving DecidableEq, Repr

end Sys2Proof.Machine
end

