-- ==== Sys2Proof/Machine/Types/Part.lean ====
section
/-! DEFINITION. Types of spec/14 and of a partition's frames (spec/02): the partition's own state. -/

namespace Sys2Proof.Machine

/-- What PART_STAT.STATE (Table 14.17) shows beside unbound, running and out of service. -/
inductive PState where
  | normal
  | aborting
  | preemptDeferred
  | saving
  | saved
  | resetting
deriving DecidableEq, Repr

/-- A change of binding that waits for the pre-emption of the partition's primary job (R321): a slot's entry taken away, or written. -/
inductive EphDue where
  | unbind (sl : Nat)
  | bind (sl job lp : Nat)
deriving DecidableEq, Repr

/-- A held job fault record (Table 14.18). -/
structure JobFault where
  cause : Nat
  job : Nat
  detail : Nat
  lcore : Nat
  count : Nat
deriving DecidableEq, Repr

/-- A partition (R369 to R385, R47, R64): frame progress, job fault, patrol, flat-field, poison and reset state. -/
structure Part where
  /-- the job and logical partition bound to the primary and the backfill slots (R319) -/
  bindP : Option (Nat × Nat) := none
  bindB : Option (Nat × Nat) := none
  /-- the partition has been reset since its bindings were made: they stand in the active maps, and nothing of their jobs runs here or is
  bound to its sync objects and lanes (Tables 14.8, 14.9) -/
  blank : Bool := false
  /-- the active maps of EPH[p] (R319): CMAP bytes at keys 0 to 7, KMAP bytes at 16 + 16 × cluster + core -/
  amap : SMap Nat := []
  /-- EPH_COMMIT (R320): a commit is pending; commits applied -/
  commit : Bool := false
  /-- a frame boundary has come since the commit was asked for -/
  commitDue : Bool := false
  actGen : Nat := 0
  /-- the backfill job is pre-empted at the next frame boundary (R324, step 4) -/
  bfStopDue : Bool := false
  /-- the backfill job is pre-empted (R210, R324) -/
  bfHeld : Bool := false
  /-- comm cores for each cluster, latched at the primary binding (R264) -/
  comm : Nat := 0
  /-- number of the partition's current frame, frames behind, and whether the partition runs frames -/
  frame : Nat := 0
  behind : Nat := 0
  /-- the current frame began behind its tick (R64) -/
  late : Bool := false
  /-- the frame has started and nothing has issued in it yet: a frame boundary -/
  atBoundary : Bool := true
  slipped : Bool := false
  state : PState := .normal
  abort : Bool := false
  preempt : Bool := false
  /-- sidereal count at the pre-emption request (R287) -/
  preemptAt : Nat := 0
  /-- a deferral has lasted DEFER_TICKS: pre-emption begins at the next frame boundary (R287) -/
  deferOver : Bool := false
  restore : Bool := false
  /-- repairs that wait for the partition's pre-emption or reset (R321, R331): logical cluster, and core -/
  repairs : List (Nat × Option Nat) := []
  ephDue : List EphDue := []
  /-- the shadow whose pending commit a reset discarded: Ephemeris commits it again after the reset (R333) -/
  recommit : SMap Word := []
  /-- PART_RESET.GO, and the LEVEL with which the reset began (R382) -/
  resetGo : Bool := false
  resetLvl : Nat := 0
  jf : Option JobFault := none
  /-- sidereal count of the last clean patrol visit of each physical core -/
  patrolClean : SMap Nat := []
  /-- next core 0–16 to visit in each physical cluster, and whether a visit is running there -/
  patrolNext : SMap Nat := []
  patrolOn : SMap Bool := []
  /-- a held patrol failure: unit, physical core, last clean count -/
  pFail : Option (Nat × Nat × Nat) := none
  patrolCyc : Nat := 0
  fftGo : Bool := false
  /-- the package test runs (R375): the partition's first pass, at step 32, or its second, at the highest licensed step -/
  fftPkg : Bool := false
  fftPass : Nat := 0
  fftStatus : Nat := 0
  fftUnit : Nat := 0
  fftFmt : Nat := 0
  fftCore : Nat := 0xFF
  /-- a held first observation of poison: block type, instance, sidereal count -/
  xrec : Option (Nat × Nat × Nat) := none
  /-- poison was observed in the current frame (PART_STAT.POISON) -/
  poisonFrame : Bool := false
  /-- resources marked failed or out of service: physical cores, cluster memories, DMA engines, the whole compute -/
  failedCores : SMap Bool := []
  failedClusters : SMap Bool := []
  failedEngines : SMap Bool := []
  lost : Bool := false
  /-- the Almanac marks the partition out of service -/
  marked : Bool := false
  /-- silicon clusters and cores by apparent position (R409); an empty list is the identity -/
  posC : List Nat := []
  posK : List Nat := []
deriving DecidableEq, Repr

end Sys2Proof.Machine
end

