-- ==== Sys2Proof/Machine/State.lean ====
section
/-! DEFINITION. The state of the package, its state after reset, and the reasons a step could stop. -/

namespace Sys2Proof.Machine

/-- Everything the package holds beside the queue of waiting commands. Default field values are the reset values. -/
structure Block where
  timeUs : Nat := 0
  pages : SMap PageHdr := []
  regs : SMap Word := []
  logs : SMap Nat := []
  frameBound : List FbWrite := []
  ram : Ram := {}
  merid : Merid := {}
  parts : SMap Part := []
  cores : SMap Core := []
  slots : SMap Slot := []
  tiers : Tiers := {}
  mscs : SMap Msc := []
  hbmcs : SMap Hbmc := []
  capcs : SMap Capc := []
  mmus : SMap Mmu := []
  syncs : SMap Sync := []
  links : SMap Link := resetLinks
  routes : SMap Word := []
  xu : Xu := {}
  engs : SMap Engine := []
  queues : SMap CQueue := []
  coll : Coll := {}
  upd : Upd := {}
  eph : Eph := {}
  rhosts : SMap RHost := []
  helio : Helio := {}
  helioPs : SMap HelioP := []
  vregs : SMap Vreg := []
  boot : Boot := {}
  flash : Flash := {}
  poisonLatch : Bool := false
  poisonFirst : Option (Nat × Nat × Nat) := none
  poisonTick : Bool := false
  warmDue : Bool := false
  images : SMap Image := []
  mirrors : List Mirror := []
  pcie : SMap Pcie := []
  mgmt : Mgmt := {}
  eyep : Eyep := {}
  alm : Alm := {}
  feat : Feat := {}
  bundle : Nat := 0
  out : List Out := []
  fv : Nat := 0
deriving DecidableEq, Repr

/-- The state: what the package holds, and the commands that wait, the next one first. -/
structure State where
  pending : List Instr := []
  blk : Block := {}
deriving DecidableEq, Repr

/-- Reasons to stop in a fault. No command of this model stops: the spec gives each an effect, an error response, a cause or a fault
record, and the package goes on. -/
inductive Fault where
  /-- Raised by no command (safe). -/
  | stuck
deriving DecidableEq, Repr

/-- Reasons to refuse a command. -/
inductive Refusal where
  /-- Raised by the arm of a command that has no meaning yet, with its mnemonic; no arm raises it now (safe). -/
  | notModelled (mnemonic : String)
deriving DecidableEq, Repr

/-- The package right after reset: every field at the reset value its type gives, no command waiting. -/
def State.reset : State := {}

end Sys2Proof.Machine
end

