-- ==== Sys2Proof/Machine/Ops.lean ====
section
/-! DEFINITION. The named operations every chapter uses: units and maps, registers, memory at its homes, interrupt lines, Logbook
counters. `Cache.lean` and `Events.lean` go on from here. -/

namespace Sys2Proof.Machine

/-- Bit `n` of `w`. -/
def bit (w n : Nat) : Bool := w / 2 ^ n % 2 = 1

/-- Bits [lo + width − 1 : lo] of `w`. -/
def bits (w lo width : Nat) : Nat := w / 2 ^ lo % 2 ^ width

/-- `w` with bits [lo + width − 1 : lo] replaced by `v`. -/
def setBits (w lo width v : Nat) : Nat :=
  w / 2 ^ (lo + width) * 2 ^ (lo + width) + v % 2 ^ width * 2 ^ lo + w % 2 ^ lo

/-- 0 or 1. -/
def b2n (b : Bool) : Nat := if b then 1 else 0

/-- The `n` bytes of `v`, lowest first. -/
def leBytes (n v : Nat) : List Nat := (List.range n).map fun i => v / 2 ^ (8 * i) % 256

/-- The number whose bytes are `bs`, lowest first. -/
def leNat : List Nat → Nat
  | [] => 0
  | b :: t => b % 256 + 256 * leNat t

/-- Number of 1 bits in the low `n` bits of `w`. -/
def popcount (w : Nat) : Nat → Nat
  | 0 => 0
  | n + 1 => popcount w n + b2n (bit w n)

/-- `w` with bit `n` set. -/
def setBit1 (w n : Nat) : Nat := if bit w n then w else w + 2 ^ n

/-- `w` with bit `n` cleared. -/
def clearBit (w n : Nat) : Nat := if bit w n then w - 2 ^ n else w

/-- The bits of `w` that are not in `m`, over 32 bits. -/
def clearMask (w m : Nat) : Nat := (BitVec.ofNat 32 w &&& ~~~ BitVec.ofNat 32 m).toNat

/-- `n` + 1, held at 0xFFFF (R41). -/
def sat16 (n : Nat) : Nat := if n < 0xFFFF then n + 1 else 0xFFFF

/-- Key of core `i` of partition `p`. -/
def coreKey (p i : Nat) : Nat := p * 153 + i

/-- Key of a context slot (0 primary, 1 backfill) of a core. -/
def slotKey (p i sl : Nat) : Nat := (p * 153 + i) * 2 + sl

/-- Key of DMA engine `j` of partition `p`. -/
def engKey (p j : Nat) : Nat := p * 36 + j

/-! Units of the block. -/

def Block.part (s : Block) (p : Nat) : Part := smGet {} s.parts p
def Block.modPart (s : Block) (p : Nat) (f : Part → Part) : Block := { s with parts := smMod {} s.parts p f }
def Block.core (s : Block) (p i : Nat) : Core := smGet {} s.cores (coreKey p i)
def Block.modCore (s : Block) (p i : Nat) (f : Core → Core) : Block :=
  { s with cores := smMod {} s.cores (coreKey p i) f }
def Block.slot (s : Block) (p i sl : Nat) : Slot := smGet {} s.slots (slotKey p i sl)
def Block.modSlot (s : Block) (p i sl : Nat) (f : Slot → Slot) : Block :=
  { s with slots := smMod {} s.slots (slotKey p i sl) f }
def Block.msc (s : Block) (p : Nat) : Msc := smGet {} s.mscs p
def Block.modMsc (s : Block) (p : Nat) (f : Msc → Msc) : Block := { s with mscs := smMod {} s.mscs p f }
def Block.hbmc (s : Block) (p : Nat) : Hbmc := smGet {} s.hbmcs p
def Block.modHbmc (s : Block) (p : Nat) (f : Hbmc → Hbmc) : Block := { s with hbmcs := smMod {} s.hbmcs p f }
def Block.capc (s : Block) (d : Nat) : Capc := smGet {} s.capcs d
def Block.modCapc (s : Block) (d : Nat) (f : Capc → Capc) : Block := { s with capcs := smMod {} s.capcs d f }
def Block.mmu (s : Block) (p : Nat) : Mmu := smGet {} s.mmus p
def Block.modMmu (s : Block) (p : Nat) (f : Mmu → Mmu) : Block := { s with mmus := smMod {} s.mmus p f }
def Block.port (s : Block) (x : Nat) : Pcie := smGet {} s.pcie x
def Block.modPort (s : Block) (x : Nat) (f : Pcie → Pcie) : Block := { s with pcie := smMod {} s.pcie x f }
def Block.hdr (s : Block) (pg : Page) : PageHdr := smGet {} s.pages pg.key
def Block.modHdr (s : Block) (pg : Page) (f : PageHdr → PageHdr) : Block :=
  { s with pages := smMod {} s.pages pg.key f }

/-- Something leaves the block. -/
def Block.emit (s : Block) (o : Out) : Block := { s with out := o :: s.out }

/-- The next free value (assumption log 1), and the block with its counter advanced. -/
def Block.fresh (s : Block) : Nat × Block := ((Config.freeWord s.fv).toNat, { s with fv := s.fv + 1 })

/-! Registers. A word is kept as its difference (exclusive or) from its reset value, so an untouched word is not
listed. -/

/-- The stored value of word `o` of a page: its RW fields. -/
def Block.reg (s : Block) (pg : Page) (o : Nat) : Nat :=
  let h := pg.home o
  (smGet 0 s.regs (h.addr o) ^^^ BitVec.ofNat 32 (h.resetWord o)).toNat

/-- The block with word `o` of a page holding `v`. -/
def Block.setReg (s : Block) (pg : Page) (o v : Nat) : Block :=
  let h := pg.home o
  { s with regs := smPut 0 s.regs (h.addr o) (BitVec.ofNat 32 v ^^^ BitVec.ofNat 32 (h.resetWord o)) }

/-- A field of a stored word. -/
def Block.fld (s : Block) (pg : Page) (o lo width : Nat) : Nat := bits (s.reg pg o) lo width

/-- The block with one field of a stored word replaced. -/
def Block.setFld (s : Block) (pg : Page) (o lo width v : Nat) : Block :=
  s.setReg pg o (setBits (s.reg pg o) lo width v)

/-- The address held in a pair of words (R468). -/
def Block.pair (s : Block) (pg : Page) (lo hi align : Nat) : Nat :=
  s.reg pg lo / 2 ^ align * 2 ^ align + s.reg pg hi % 2 ^ 16 * 2 ^ 32

/-! Memory at its homes. -/

/-- Where a byte lives (R149): a stack and stack-local address, a capacity device and device address, or an SRAM
byte by its package physical address. -/
inductive Home where
  | hbm (stack loc : Nat)
  | cap (dev addr : Nat)
  | sram (pa : Nat)
deriving DecidableEq, Repr

/-- Bytes of one HBM stack, 48 GiB. -/
def stackBytes : Nat := 48 * 2 ^ 30

/-- The number under which `Ram` lists a home byte: stacks in order, then devices from 2 ^ 40, SRAM by its address. -/
def Home.num : Home → Nat
  | .hbm st loc => st * stackBytes + loc
  | .cap d a => 2 ^ 40 + d * 2 ^ 36 + a
  | .sram pa => pa

/-- Size of the protected unit that holds home number `n` (R168). -/
def unitSize (n : Nat) : Nat := if n < 2 ^ 40 then 64 else if n < 2 ^ 41 then 128 else 8

/-- Number of capacity devices in service (R162). -/
def Tiers.capN (t : Tiers) : Nat := popcount t.capIn 16

/-- The device of rank `r` among those in service, in device-number order (R162). -/
def Tiers.capDev (t : Tiers) (r : Nat) : Nat :=
  ((List.range 16).filter (fun d => bit t.capIn d)).getD r 0

/-- The home of a package physical address, none where the access is refused with an address fault (R24, R160 to R162).
The management register space is no memory. -/
def homeOf (t : Tiers) (pa : Nat) : Option Home :=
  if pa < 0x9000000000 then
    match t.imapCur with
    | 1 =>
      let w := pa / (144 * 2 ^ 30)
      let b := pa % (144 * 2 ^ 30)
      let n := b / 4096
      if bit t.stackOos (3 * w) || bit t.stackOos (3 * w + 1) || bit t.stackOos (3 * w + 2) then none
      else some (.hbm (3 * w + n % 3) (n / 3 * 4096 + b % 4096))
    | 2 =>
      let n := pa / 4096
      if bit t.stackOos (n % 12) then none else some (.hbm (n % 12) (n / 12 * 4096 + pa % 4096))
    | _ =>
      if bit t.stackOos (pa / stackBytes) then none else some (.hbm (pa / stackBytes) (pa % stackBytes))
  else if 0x10000000000 ≤ pa ∧ pa < 0x1F800000000 then
    let a := pa - 0x10000000000
    let n := t.capN
    if a < n * (62 * 2 ^ 30) then
      let l := a / 128
      let j := l / n
      some (.cap (t.capDev (l % n)) (j / 31 * 4096 + j % 31 * 128 + a % 128))
    else none
  else if 0x20000000000 ≤ pa ∧ pa < 0x20060000000 then
    if (pa - 0x20000000000) % 2 ^ 27 / 2 ^ 23 < 9 then some (.sram pa) else none
  else if 0x21000000000 ≤ pa ∧ pa < 0x21060000000 then
    if (pa - 0x21000000000) % 2 ^ 27 / 2 ^ 19 < 153 then some (.sram pa) else none
  else none

/-- A fault record belongs to a pre-empted job: to the image of a primary job, or to a backfill job pre-empted alone (R180, R206). -/
def Block.recHeld (s : Block) (p : Nat) (r : FaultRec) : Bool := r.held || (decide (r.chan = 1) && (s.part p).bfHeld)

/-- First byte of the cluster memory of physical cluster `c` of partition `p` (Table 1.3). -/
def clusterBase (p c : Nat) : Nat := 0x20000000000 + p * 2 ^ 27 + c * 2 ^ 23

/-- First byte of the core memory of physical core `i` of partition `p` (Table 1.3). -/
def coreBase (p i : Nat) : Nat := 0x21000000000 + p * 2 ^ 27 + i * 2 ^ 19

/-- The partition and the physical core in whose memory a package physical address lies. -/
def coreOf (pa : Nat) : Option (Nat × Nat) :=
  let o := pa - 0x21000000000
  if 0x21000000000 ≤ pa ∧ pa < 0x21060000000 ∧ o % 2 ^ 27 / 2 ^ 19 < 153 then some (o / 2 ^ 27, o % 2 ^ 27 / 2 ^ 19) else none

/-- The `n` bytes from home number `a`. -/
def Ram.bytes (r : Ram) (a n : Nat) : List Nat := (List.range n).map fun i => (smGet 0 r.mem (a + i)).toNat

/-- The protected units that the bytes [a, a + n) touch, `sz` being the unit's size. -/
def unitsOf (sz a n : Nat) : List Nat :=
  if n = 0 then [] else (List.range ((a + n - 1) / sz - a / sz + 1)).map fun i => (a / sz + i) * sz

/-- A unit that the bytes [a, a + n) touch holds the poison marker. -/
def Ram.poisoned (r : Ram) (a n : Nat) : Bool := (unitsOf (unitSize a) a n).any fun u => smGet false r.poison u

/-- Bytes `bs` stored from home number `a`, whatever the units hold. -/
def putBytes (m : SMap Byte) (a : Nat) : List Nat → SMap Byte
  | [] => m
  | b :: t => putBytes (smPut 0 m a (BitVec.ofNat 8 b)) (a + 1) t

/-- A unit given the poison marker: data zero, poison set (R168). -/
def Ram.mark (r : Ram) (u : Nat) : Ram :=
  { mem := smDropRange r.mem u (u + unitSize u), poison := smPut false r.poison u true }

/-- One unit of a write: a poisoned write marks the unit; a write that covers the unit clears a marker; a partial
write to a marked unit merges with poison and leaves the marker (R168). -/
def Ram.writeUnit (r : Ram) (a : Nat) (bs : List Nat) (pois : Bool) (u : Nat) : Ram :=
  let sz := unitSize u
  let lo := Nat.max a u
  let hi := Nat.min (a + bs.length) (u + sz)
  if pois then r.mark u
  else if smGet false r.poison u && !(decide (lo = u) && decide (hi = u + sz)) then r
  else { mem := putBytes r.mem lo ((bs.drop (lo - a)).take (hi - lo)), poison := smPut false r.poison u false }

/-- Bytes written from home number `a`, unit by unit. -/
def Ram.write (r : Ram) (a : Nat) (bs : List Nat) (pois : Bool) : Ram :=
  (unitsOf (unitSize a) a bs.length).foldl (fun r u => r.writeUnit a bs pois u) r

/-- Bytes written from home number `a`, of which the ranges `mk` of offsets carry poison: each unit that one of them reaches is stored
with its marker (R203). -/
def Ram.writeMarked (r : Ram) (a : Nat) (bs : List Nat) (pois : Bool) (mk : List (Nat × Nat)) : Ram :=
  mk.foldl (fun r x => (unitsOf (unitSize a) (a + x.1) x.2).foldl Ram.mark r) (r.write a bs pois)

/-- Bytes [a, a + n) of SRAM set to zero, with no poison (a reset of R380). -/
def Ram.zero (r : Ram) (a n : Nat) : Ram :=
  { mem := smDropRange r.mem a (a + n), poison := smDropRange r.poison a (a + n) }

/-- The canonical form of memory: addresses strictly rising, no entry equal to what an unlisted address reads as. -/
def Ram.wf (r : Ram) : Bool := smWf 0 r.mem && smWf false r.poison

/-- The range [a, a + n) cut at 128-byte boundaries, inside which homes are contiguous. -/
def linePieces : Nat → Nat → Nat → List (Nat × Nat)
  | 0, _, _ => []
  | f + 1, a, n =>
    if n = 0 then []
    else
      let k := Nat.min n (128 - a % 128)
      (a, k) :: linePieces f (a + k) (n - k)

/-- The pieces of [a, a + n). -/
def piecesOf (a n : Nat) : List (Nat × Nat) := linePieces (n / 128 + 2) a n

/-- Every byte of [a, a + n) has a home: the range is not refused (R24). -/
def Block.canAccess (s : Block) (a n : Nat) : Bool :=
  (piecesOf a n).all fun q => (homeOf s.tiers q.1).isSome && (homeOf s.tiers (q.1 + q.2 - 1)).isSome

/-- The bytes at package physical address `a`; bytes with no home read 0 (callers test `canAccess` first). -/
def Block.memBytes (s : Block) (a n : Nat) : List Nat :=
  (piecesOf a n).flatMap fun q =>
    match homeOf s.tiers q.1 with
    | some h => s.ram.bytes h.num q.2
    | none => List.replicate q.2 0

/-- Ways 0 to 15 of the set of line number `n`, as keys of `Msc.lines` (R152). -/
def setKeys (n : Nat) : List Nat := (List.range 16).map fun w => n % 12288 * 16 + w

/-- The key under which the cache holds line number `n`, if it does. -/
def Msc.find (m : Msc) (n : Nat) : Option Nat :=
  (setKeys n).find? fun k => match smGet none m.lines k with
    | some l => decide (l.line = n)
    | none => false

/-- The 64-bit words that the bytes [loc, loc + n), inside one line, touch, as bits of `MLine.bad`. -/
def wordMask (loc n : Nat) : Nat :=
  (List.range 16).foldl (fun m j =>
    if decide (loc % 128 < 8 * j + 8) && decide (8 * j < loc % 128 + n) then m + 2 ^ j else m) 0

/-- The lost words of the line that holds stack-local address `loc` in the cache of stack `p` (R167). -/
def Block.badWords (s : Block) (p loc : Nat) : Nat :=
  match (s.msc p).find (loc / 128) with
  | some k => match smGet none (s.msc p).lines k with
    | some l => l.bad
    | none => 0
  | none => 0

/-- A lost word of the cache lies among the bytes [loc, loc + n), inside one line of stack `p`. -/
def Block.lineBad (s : Block) (p loc n : Nat) : Bool := s.badWords p loc &&& wordMask loc n ≠ 0

/-- What [h, h + n), inside one line of a home, would deliver holds poison: a marker, or a lost word of the cache. -/
def Block.homePoisoned (s : Block) (h : Home) (n : Nat) : Bool :=
  s.ram.poisoned h.num n || match h with
    | .hbm p loc => s.lineBad p loc n
    | _ => false

/-- A unit that [a, a + n) touches holds the poison marker, or a word of the cache in it is lost. -/
def Block.memPoisoned (s : Block) (a n : Nat) : Bool :=
  (piecesOf a n).any fun q =>
    match homeOf s.tiers q.1 with
    | some h => s.homePoisoned h q.2
    | none => false

/-- Bytes stored at package physical address `a`, piece by piece at their homes. -/
def Ram.store (t : Tiers) (r : Ram) (a : Nat) (bs : List Nat) (pois : Bool) : Ram :=
  (piecesOf a bs.length).foldl (fun r q =>
    match homeOf t q.1 with
    | some h => r.write h.num ((bs.drop (q.1 - a)).take q.2) pois
    | none => r) r

/-- The block with bytes stored at package physical address `a` (no cache effect; see `Block.memWrite`). -/
def Block.poke (s : Block) (a : Nat) (bs : List Nat) (pois : Bool := false) : Block :=
  { s with ram := s.ram.store s.tiers a bs pois }

/-! Interrupts and Logbook counters. -/

/-- Cause `n` of the page is set. -/
def Block.causeSet (s : Block) (pg : Page) (n : Nat) : Bool := (s.hdr pg).irqStat.getLsbD n

/-- The page raises its interrupt: a bit is 1 in both HDR_IRQ_STAT and HDR_IRQ_EN (R36). -/
def PageHdr.line (h : PageHdr) : Bool := decide (h.irqStat &&& h.irqEn ≠ 0)

/-- Interrupts of every page reach the management controller, those of partition-domain and hub-domain pages the resident host as
well (R36). -/
def Page.toHost (pg : Page) : Bool := decide (pg.loc.1 ≤ 12)

/-- The page's interrupt is raised now. -/
def Block.irqLine (s : Block) (pg : Page) : Bool := (s.hdr pg).line

/-- A change of HDR_IRQ_STAT or HDR_IRQ_EN; an interrupt that this raises goes to the management controller and, as the page's
domain says, to the resident host (R36). -/
def Block.modIrq (s : Block) (pg : Page) (f : PageHdr → PageHdr) : Block :=
  let h := s.hdr pg
  let s := s.modHdr pg f
  if !h.line && (f h).line then s.emit (.irq pg.key pg.toHost) else s

/-- Logbook counter `n` of the page counts one event (R41); frozen counters hold (LOG_FREEZE). -/
def Block.log (s : Block) (pg : Page) (n : Nat) : Block :=
  if (s.hdr pg).freeze || decide (pg.logCount ≤ n) then s
  else
    let k := pg.key * 256 + n
    let v := smGet 0 s.logs k
    let s := { s with logs := smPut 0 s.logs k (sat16 v) }
    if v = 0xFFFE then s.modIrq pg fun h => { h with irqStat := h.irqStat ||| BitVec.ofNat 32 (2 ^ 31) } else s

/-- Logbook counter `n` counts `k` events. -/
def Block.logN (s : Block) (pg : Page) (n k : Nat) : Block :=
  if (s.hdr pg).freeze || decide (pg.logCount ≤ n) || decide (k = 0) then s
  else
    let a := pg.key * 256 + n
    let v := smGet 0 s.logs a
    let s := { s with logs := smPut 0 s.logs a (Nat.min (v + k) 0xFFFF) }
    if v < 0xFFFF ∧ 0xFFFF ≤ v + k then s.modIrq pg fun h => { h with irqStat := h.irqStat ||| BitVec.ofNat 32 (2 ^ 31) } else s

end Sys2Proof.Machine
end

