-- ==== Sys2Proof/Machine/Cache.lean ====
section
/-! DEFINITION. The memory tiers of spec/06 without physical errors: the memory-side caches and their stacks, the capacity controllers
and their check blocks. `Ram` holds what an access returns; a cache line whose data differs from its stack's keeps what the stack
holds, and the line's end without a write-back makes that visible (R152, R155, R157, R169). -/

namespace Sys2Proof.Machine

/-- Cache hints (Table 6.2). -/
inductive Hint where
  | normal
  | keep
  | stream
  | lastUse
deriving DecidableEq, Repr

/-- Hint of a two-bit code (Table 6.2). -/
def hintOf (n : Nat) : Hint :=
  match n % 4 with
  | 0 => .normal
  | 1 => .keep
  | 2 => .stream
  | _ => .lastUse

/-- The line at a key. -/
def Msc.at? (m : Msc) (k : Nat) : Option MLine := smGet none m.lines k

/-- The key among `ks` whose line was used least recently and satisfies `ok`. -/
def Msc.lru (m : Msc) (ok : MLine → Bool) : List Nat → Option Nat
  | [] => none
  | k :: t =>
    match m.at? k, m.lru ok t with
    | some l, some k' =>
      if ok l then
        match m.at? k' with
        | some l' => if l.used ≤ l'.used then some k else some k'
        | none => some k
      else some k'
    | some l, none => if ok l then some k else none
    | none, r => r

/-- The way a fill takes (R152), none when every way is retired. -/
def Msc.victim (m : Msc) (n : Nat) : Option Nat :=
  let ks := (setKeys n).filter fun k => !bit m.retired (k % 16)
  match ks.find? (fun k => (m.at? k).isNone) with
  | some k => some k
  | none =>
    match m.lru (fun l => !l.keep) ks with
    | some k => some k
    | none => m.lru (fun _ => true) ks

/-- A controller's last error record takes a new event (R182): a record is kept while the cause that made it is set. -/
def ErrRec.take (r : ErrRec) (held0 held1 : Bool) (kind symbol addr : Nat) : ErrRec :=
  let free := !r.valid || (r.kind = 1 && !held0) || (r.kind = 3 && !held1) || r.kind = 0 || r.kind = 2
  if free then ⟨true, kind, symbol, addr⟩ else r

/-- The HBM controller of stack `p` records an event at stack-local address `loc`. -/
def Block.hbmErr (s : Block) (p kind symbol loc : Nat) : Block :=
  let h0 := s.causeSet (.hbmc p) 0
  let h1 := s.causeSet (.hbmc p) 1
  s.modHbmc p fun h => { h with err := h.err.take h0 h1 kind symbol (loc / 64 * 64) }

/-- The HBM controller reads the units of [loc, loc + n) from the stack (R159): units counted, markers counted and recorded (R168). -/
def Block.hbmRead (s : Block) (p loc n : Nat) : Block :=
  let us := unitsOf 64 loc n
  let s := s.modHbmc p fun h => { h with rdUnits := h.rdUnits + us.length }
  us.foldl (fun s u =>
    if smGet false s.ram.poison (p * stackBytes + u) then (s.log (.hbmc p) 4).hbmErr p 2 0xFF u else s) s

/-- The units that the bytes [loc, loc + n) cover only in part. -/
def partUnits (loc n : Nat) : List Nat := (unitsOf 64 loc n).filter fun u => decide (u < loc) || decide (loc + n < u + 64)

/-- The HBM controller writes the units of [loc, loc + n), which memory already holds; units written with the marker are counted. -/
def Block.hbmWrite (s : Block) (p loc n : Nat) : Block :=
  let us := unitsOf 64 loc n
  let s := s.modHbmc p fun h => { h with wrUnits := h.wrUnits + us.length }
  s.logN (.hbmc p) 3 (us.filter fun u => smGet false s.ram.poison (p * stackBytes + u)).length

/-- The reads that a write of [loc, loc + n) to the stack makes of its partial units (R159). -/
def Block.mergeReads (s : Block) (p loc n : Nat) : Block :=
  let ps := partUnits loc n
  (ps.foldl (fun s u => s.hbmRead p u 64) s).logN (.hbmc p) 5 ps.length

/-- The line at key `k` changed by `f`. -/
def Block.modLine (s : Block) (p k : Nat) (f : MLine → MLine) : Block :=
  s.modMsc p fun m => { m with lines := smMod none m.lines k fun o => o.map f }

/-- The units of a line's lost words get their markers, as a write-back stores them (R157, R168). -/
def MLine.markBad (l : MLine) (p : Nat) (r : Ram) : Ram :=
  ([0, 1] : List Nat).foldl (fun r h => if bits l.bad (8 * h) 8 = 0 then r else r.mark (p * stackBytes + l.line * 128 + 64 * h)) r

/-- A dirty line is written back: it becomes clean, the stack now holds its data (R152). -/
def Block.writeBack (s : Block) (p k : Nat) : Block :=
  match (s.msc p).at? k with
  | some l =>
    if l.dirty then
      let s := { s with ram := l.markBad p s.ram }
      ((s.modMsc p fun m => { m with writebacks := m.writebacks + 1 }).modLine p k fun l =>
        { l with dirty := false, stale := [], stalePois := [], bad := 0 }).hbmWrite p (l.line * 128) 128
    else s
  | none => s

/-- The line keeps what the stack holds, `r` being memory as it still agrees with the stack. -/
def MLine.keepStale (l : MLine) (p : Nat) (r : Ram) : MLine :=
  if l.stale.isEmpty then
    let a := p * stackBytes + l.line * 128
    { l with stale := r.bytes a 128, stalePois := [smGet false r.poison a, smGet false r.poison (a + 64)] }
  else l

/-- The line at key `k` ends without write-back: where its data differed, its bytes fall back to what the stack holds. -/
def Block.dropLine (s : Block) (p k : Nat) : Block :=
  match (s.msc p).at? k with
  | some l =>
    let s := s.modMsc p fun m => { m with lines := smPut none m.lines k none }
    if l.stale.isEmpty then s
    else
      let a := p * stackBytes + l.line * 128
      let r := s.ram.write a l.stale false
      let q := smPut false r.poison a (l.stalePois.getD 0 false)
      { s with ram := { r with poison := smPut false q (a + 64) (l.stalePois.getD 1 false) } }
  | none => s

/-- The keep-marked ways of a line's set. -/
def Msc.kept (m : Msc) (n : Nat) : List Nat :=
  (setKeys n).filter fun j => match m.at? j with
    | some x => x.keep
    | none => false

/-- A KEEP access would mark one more line of the set of line `n`: where that exceeds KEEP_WAYS, the set's least recently used keep
line loses its mark first (R154). One line loses its mark, also where KEEP_WAYS has been lowered below the marks that the set holds
(DESIGN CHOICE, assumption log 163). -/
def Block.keepRoom (s : Block) (p n : Nat) : Block :=
  let m := s.msc p
  let ks := m.kept n
  if s.fld (.msc p) 0x040 8 4 ≤ ks.length then
    match m.lru (fun x => x.keep) ks with
    | some j => (s.modLine p j fun x => { x with keep := false }).log (.msc p) 5
    | none => s
  else s

/-- A KEEP hit marks the line at key `k`; with KEEP_WAYS = 0, KEEP acts as NORMAL (R154). -/
def Block.markKeep (s : Block) (p k : Nat) : Block :=
  match (s.msc p).at? k with
  | some l =>
    if s.fld (.msc p) 0x040 8 4 = 0 ∨ l.keep then s
    else (s.keepRoom p l.line).modLine p k fun x => { x with keep := true }
  | none => s

/-- A miss fills line number `n` (R152): the set makes room for a keep mark first (R154), the victim is written back if dirty, and
the line is read from the stack where `fetch`. The key filled, if any way can take it. -/
def Block.fill (s : Block) (p n : Nat) (fetch keep : Bool) : Option Nat × Block :=
  if ((s.msc p).victim n).isNone then (none, s)
  else
    let keep := keep && decide (s.fld (.msc p) 0x040 8 4 ≠ 0)
    let s := if keep then s.keepRoom p n else s
    match (s.msc p).victim n with
    | none => (none, s)
    | some k =>
      let s := (s.writeBack p k).dropLine p k
      let s := if fetch then s.hbmRead p (n * 128) 128 else s
      (some k, s.modMsc p fun m =>
        { m with clock := m.clock + 1, lines := smPut none m.lines k (some { line := n, keep := keep, used := m.clock + 1 }) })

/-- The line at key `k` becomes most recent. -/
def Block.touch (s : Block) (p k : Nat) : Block :=
  s.modMsc p fun m =>
    { m with clock := m.clock + 1, lines := smMod none m.lines k fun o => o.map fun l => { l with used := m.clock + 1 } }

/-- The words that [loc, loc + n), inside one line, covers whole. -/
def wholeWords (loc n : Nat) : Nat :=
  (List.range 16).foldl (fun m j =>
    if decide (loc % 128 ≤ 8 * j) && decide (8 * j + 8 ≤ loc % 128 + n) then m + 2 ^ j else m) 0

/-- The words of `bad` that a write of [loc, loc + n) leaves lost: it merges with poison where it covers one in part (R168). -/
def badAfter (bad loc n : Nat) : Nat := bad &&& ((2 ^ 16 - 1) ^^^ wholeWords loc n)

/-- The lost words `bad` of a line hold no data. -/
def Ram.blank (r : Ram) (a bad : Nat) : Ram :=
  if bad = 0 then r
  else { r with mem := (List.range 16).foldl (fun m j => if bit bad j then smDropRange m (a + 8 * j) (a + 8 * j + 8) else m) r.mem }

/-- Bytes written into the line at key `k`, which becomes dirty; those in the ranges `mk` carry poison. -/
def Block.lineWrite (s : Block) (p k loc : Nat) (bs : List Nat) (pois : Bool) (mk : List (Nat × Nat) := []) : Block :=
  let r := s.ram
  let bad := match (s.msc p).at? k with
    | some l => badAfter l.bad loc bs.length
    | none => 0
  { s.modLine p k fun l => { l.keepStale p r with dirty := true, bad := bad } with
    ram := (r.writeMarked (p * stackBytes + loc) bs pois mk).blank (p * stackBytes + loc / 128 * 128) bad }

/-- A write of bytes inside one line of stack `p` with hint NORMAL and no physical error (Table 6.2). -/
def Block.mscPut (s : Block) (p loc : Nat) (bs : List Nat) : Block :=
  match (s.msc p).find (loc / 128) with
  | some k => ((s.modMsc p fun m => { m with hits := m.hits + 1 }).lineWrite p k loc bs false).touch p k
  | none =>
    let s := s.modMsc p fun m => { m with misses := m.misses + 1 }
    match s.fill p (loc / 128) (decide (bs.length < 128)) false with
    | (some k, s) => s.lineWrite p k loc bs false
    | (none, s) =>
      let s := (s.modMsc p fun m => { m with bypass := m.bypass + 1 }).mergeReads p loc bs.length
      { s with ram := s.ram.write (p * stackBytes + loc) bs false }.hbmWrite p loc bs.length

/-- A capacity controller brings a check block among its 64 most recently used; `change`: a line write updates its check bytes
there. A block is read from the device on a miss, and written to it when it is replaced (R163). -/
def Block.useCheck (s : Block) (d addr : Nat) (change : Bool) : Block :=
  let b := addr / 4096
  let c := (s.capc d).checks
  let old := c.find? fun e => e.1 = b
  let s := if old.isNone then s.log (.capc d) 5 else s
  s.modCapc d fun x => { x with checks := ((b, change || (old.map (·.2)).getD false) :: c.filter fun e => e.1 ≠ b).take 64 }

/-- The changed check blocks of every controller are written to their devices, and stay (R163). -/
def Block.checksOut (s : Block) : Block :=
  { s with capcs := smMapVals {} s.capcs fun _ x => { x with checks := x.checks.map fun e => (e.1, false) } }

/-- A capacity controller records an event at device address `addr` (R183). -/
def Block.capErr (s : Block) (d kind symbol addr : Nat) : Block :=
  let h0 := s.causeSet (.capc d) 0
  let h1 := s.causeSet (.capc d) 1
  s.modCapc d fun x => { x with err := x.err.take h0 h1 kind symbol (addr / 128 * 128) }

/-- Number under which `Ram` lists the first byte of the line of device `d` at `addr`. -/
def capUnit (d addr : Nat) : Nat := 2 ^ 40 + d * 2 ^ 36 + addr / 128 * 128

/-- A line of device `d` is read (R163): counted, a marker counted and recorded. -/
def Block.capLineRead (s : Block) (d addr : Nat) : Block :=
  let s := (s.useCheck d addr false).modCapc d fun x => { x with rdLines := x.rdLines + 1 }
  if smGet false s.ram.poison (capUnit d addr) then (s.log (.capc d) 3).capErr d 2 0xFF addr else s

/-- A line of device `d` gets bytes, and its check bytes their new value in the controller's copy (R163). -/
def Block.capLineWrite (s : Block) (d addr : Nat) (bs : List Nat) (pois : Bool) (mk : List (Nat × Nat) := []) : Block :=
  let s := (s.useCheck d addr true).modCapc d fun x => { x with wrLines := x.wrLines + 1 }
  let s := { s with ram := s.ram.writeMarked (2 ^ 40 + d * 2 ^ 36 + addr) bs pois mk }
  if smGet false s.ram.poison (capUnit d addr) then s.log (.capc d) 2 else s

/-- A write inside one line of device `d` with no physical error; less than a line is a read, a merge and a write (R163). -/
def Block.capPut (s : Block) (d addr : Nat) (bs : List Nat) : Block :=
  (if bs.length < 128 then (s.log (.capc d) 4).capLineRead d addr else s).capLineWrite d addr bs false

/-- Bytes written at their homes with hint NORMAL and no physical error (R149), for a caller that tested `canAccess`. -/
def Block.tierWrite (s : Block) (a : Nat) (bs : List Nat) : Block :=
  (piecesOf a bs.length).foldl (fun s q =>
    let x := (bs.drop (q.1 - a)).take q.2
    match homeOf s.tiers q.1 with
    | some (.hbm p loc) => s.mscPut p loc x
    | some (.cap d c) => s.capPut d c x
    | some (.sram pa) => { s with ram := s.ram.write pa x false }
    | none => s) s

end Sys2Proof.Machine
end

