-- ==== Sys2Proof/Machine/Events.lean ====
section
/-! DEFINITION. Causes and their interrupts, the Eyepiece's record of a cause, platform events, poison observation, job faults. -/

namespace Sys2Proof.Machine

/-! Causes, trace, events. -/

/-- One trace record (Table 16.8): the sidereal count, the ns into the frame (a free value), source, page offset or core,
data. -/
def traceBytes (count ns src off : Nat) (data : List Nat) : List Nat :=
  leBytes 6 count ++ leBytes 2 ns ++ [src, 0, 0, 0] ++ leBytes 4 off ++ (data ++ List.replicate 16 0).take 16

/-- The Eyepiece emits a record of source `src` if it traces that source (R437): into its ring, the oldest record
overwritten when the ring is full, or out through the trace lands. A record whose ring address is refused is dropped. -/
def Block.traceRec (s : Block) (src off : Nat) (data : List Nat) : Block :=
  let ctl := s.reg .eyep 0x040
  if bit ctl 0 && bit ctl (2 + src) && (decide (4 ≤ src) || s.eyep.unlocked) then
    let (ns, s) := s.fresh
    let r := traceBytes s.merid.count (ns % 65536) src off data
    if bit ctl 1 then s.emit (.trace r)
    else
      let ring := s.pair .eyep 0x048 0x04C 12
      let n := s.fld .eyep 0x04C 16 16 * 32
      let a := ring + s.eyep.idx % n * 32
      if s.canAccess a 32 then
        let s := s.tierWrite a r
        let last := decide (s.eyep.idx + 1 = n)
        let s := if s.eyep.full then
            { s with eyep := { s.eyep with wrapped := true } }.modIrq .eyep fun h => { h with irqStat := h.irqStat ||| 4 }
          else s
        { s with eyep := { s.eyep with idx := (s.eyep.idx + 1) % n, full := s.eyep.full || last } }
      else { s with eyep := { s.eyep with drops := Nat.min (s.eyep.drops + 1) 0xFFFFFFFF } }.log .eyep 2
  else s

/-- A trace record; where it makes the ring's WRAPPED cause set, that cause is traced in turn. -/
def Block.trace (s : Block) (src off : Nat) (data : List Nat) : Block :=
  let t := s.traceRec src off data
  if (t.hdr .eyep).irqStat.getLsbD 2 && !(s.hdr .eyep).irqStat.getLsbD 2 then t.traceRec 4 (Page.eyep.addr 0) [2] else t

/-- The Eyepiece emits a record of source 0 to 3 for core (`p`, `i`), if EYEP_CORE names it (R437). -/
def Block.traceCore (s : Block) (p i src : Nat) (data : List Nat) : Block :=
  if s.fld .eyep 0x050 16 4 = p ∧ s.fld .eyep 0x050 0 8 = i then s.trace src i data else s

/-- Sets cause bit `n` of the page; a cause already set raises no second interrupt (R36). The Eyepiece records it. -/
def Block.raise0 (s : Block) (pg : Page) (n : Nat) : Block :=
  if (s.hdr pg).irqStat.getLsbD n then s
  else
    let s := s.modIrq pg fun h => { h with irqStat := h.irqStat ||| BitVec.ofNat 32 (2 ^ n) }
    s.trace 4 (pg.addr 0) [n]

/-- The pages whose causes send platform events (R431). -/
def Page.alarms : Page → Bool
  | .helio => true
  | .helioP _ => true
  | .merid => true
  | .lnk _ => true
  | .part _ => true
  | _ => false

/-- A platform event for a cause, to the receiver SetEventReceiver named, no more than once per cause per second
(R431); one held back is counted and raises EVENT_DROPPED (R441). -/
def Block.event (s : Block) (pg : Page) (n : Nat) : Block :=
  if pg.alarms && s.mgmt.eventRx.isSome then
    let k := pg.key * 32 + n
    let t := smGet 0 s.mgmt.lastEvent k
    if t ≠ 0 ∧ s.timeUs < t - 1 + 1000000 then (s.log .mgmt 8).raise0 .mgmt 5
    else { s with mgmt := { s.mgmt with lastEvent := smPut 0 s.mgmt.lastEvent k (s.timeUs + 1) } }.emit
        (.pldmEvent pg.key n)
  else s

/-- A block raises cause `n` of a page (R36). -/
def Block.raise (s : Block) (pg : Page) (n : Nat) : Block :=
  if (s.hdr pg).irqStat.getLsbD n then s else (s.raise0 pg n).event pg n

/-- A clamped write to register `o` of the page (R38). -/
def Block.clamped (s : Block) (pg : Page) (o : Nat) : Block :=
  s.modIrq pg fun h => { h with clampCnt := sat16 h.clampCnt, lastClampOff := o,
                                irqStat := h.irqStat ||| BitVec.ofNat 32 (2 ^ 30) }

/-! Poison and job faults. -/

/-- Poison is observed at a page's block (R376): the first observation sets the package's latch, which remembers it, POISON_SEEN
and the record of the partition. -/
def Block.observePoison (s : Block) (pg : Page) : Block :=
  let p := pg.partOf
  let s := (s.log (.part p) 12).modPart p fun q => { q with poisonFrame := true }
  if s.poisonLatch then s
  else
    let held := s.causeSet (.part p) 6
    let s := { s with poisonLatch := true, poisonFirst := some (pg.blk, pg.inst, s.merid.count) }
    let s := if held then s
      else s.modPart p fun q => { q with xrec := some (pg.blk, pg.inst, s.merid.count) }
    s.raise (.part p) 6

/-- A job fault (R368): the record of the partition's PART page, kept while JOB_FAULT is set, and JOB_FAULT. -/
def Block.jobFault (s : Block) (p cause job detail lcore : Nat) : Block :=
  let s := s.log (.part p) 0
  if s.causeSet (.part p) 0 then s
  else
    let s := s.modPart p fun q => { q with jf := some ⟨cause, job, detail % 65536, lcore, s.merid.count⟩ }
    s.raise (.part p) 0

end Sys2Proof.Machine
end

