-- ==== Sys2Proof/Machine/Mem.lean ====
section
/-! DEFINITION. Memory accesses at their homes with the physical errors they meet (spec/06): retirement, HBM and capacity controllers,
page-table walk, and the chapter's commands. -/

namespace Sys2Proof.Machine

/-- A record that marks a resource (R420), and the partition it marks for a core or a cluster. -/
def AlmRec.marks : AlmRec → Bool
  | .way _ _ => true
  | .core _ _ => true
  | .clusterMem _ _ => true
  | .engine _ _ => true
  | .compute _ => true
  | .capDev _ => true
  | .rhostCore _ => true
  | .updateEngine => true
  | _ => false

/-- The Almanac owes a record (R408); the write itself is the command ALMANAC_WRITE. A mark is counted and raised (R420). -/
def Block.almDue (s : Block) (r : AlmRec) : Block :=
  let s := if r.marks then (s.raise .alm 0).log .alm 0 else s
  if s.alm.due.contains r then s else { s with alm := { s.alm with due := s.alm.due ++ [r] } }

/-- A way is retired (R157): its lines written back and invalidated, the retirement raised, counted and recorded. -/
def Block.retireWay (s : Block) (p w : Nat) : Block :=
  if bit (s.msc p).retired w then s
  else
    let s := s.modMsc p fun m => { m with retired := setBit1 m.retired w }
    let ks := ((s.msc p).lines.filter fun e => e.1 % 16 = w).map (·.1)
    let s := ks.foldl (fun s k => (s.writeBack p k).dropLine p k) s
    let s := ((s.raise (.msc p) 0).log (.msc p) 4).almDue (.way p w)
    if (s.msc p).retired = 0xFFFF then s.raise (.msc p) 4 else s

/-- A corrected error of a way counts towards its retirement in the current 1,024-tick period (R157). -/
def Block.wayError (s : Block) (p w : Nat) : Block :=
  let period := s.merid.count / 1024
  let s := s.modMsc p fun m => if m.errPeriod = period then m else { m with errPeriod := period, wayErr := [] }
  let s := s.modMsc p fun m => { m with wayErr := smMod 0 m.wayErr w (· + 1) }
  if s.fld (.msc p) 0x040 16 8 < smGet 0 (s.msc p).wayErr w then s.retireWay p w else s

/-- The unit that a fill of the line at key `k` read at stack-local address `loc` could not be corrected: the line holds poison in its
eight words, and the stack keeps what it holds (R167, R168). -/
def Block.loseUnit (s : Block) (p k loc : Nat) : Block :=
  let r := s.ram
  { s.modLine p k fun l => l.keepStale p r with ram := r.mark (p * stackBytes + loc / 64 * 64) }

/-- The 64-bit word at stack-local address `loc` is lost in the line at key `k`: the line serves poison there, and the stack keeps
what it holds (R157, R167). -/
def Block.loseWord (s : Block) (p k loc : Nat) : Block :=
  let r := s.ram
  let w := 2 ^ (loc % 128 / 8)
  { s.modLine p k fun l => { l.keepStale p r with bad := l.bad ||| w } with
    ram := r.blank (p * stackBytes + loc / 128 * 128) w }

/-- The physical event an access at stack-local address `loc` meets in the cache's own arrays (R157, R167). A dirty line whose tag is
lost has lost its address, and with it its data: the stack's copy is what remains. -/
def Block.mscEvent (s : Block) (p loc : Nat) (ev : MemEvent) : Block :=
  let key (w : Nat) : Nat := loc / 128 % 12288 * 16 + w % 16
  match ev with
  | .corrData w => (s.log (.msc p) 0).wayError p (w % 16)
  | .corrTag w => (s.log (.msc p) 1).wayError p (w % 16)
  | .uncData w =>
    let s := s.log (.msc p) 2
    match (s.msc p).at? (key w) with
    | some l => (s.loseWord p (key w) (l.line * 128 + loc % 128)).raise (.msc p) 2
    | none => s
  | .uncTag w =>
    let s := s.log (.msc p) 3
    match (s.msc p).at? (key w) with
    | some l =>
      let s := s.dropLine p (key w)
      (if l.dirty then (s.raise (.msc p) 3).observePoison (.msc p) else s).retireWay p (w % 16)
    | none => s.retireWay p (w % 16)
  | _ => s

/-- The event lies in the stack or device, not in the cache's own arrays. -/
def MemEvent.inStack : MemEvent → Bool
  | .corrUnit _ => true
  | .onDie => true
  | .uncUnit => true
  | _ => false

/-- The physical event that a read of the stack at stack-local address `loc` meets (R159, R182). -/
def Block.hbmEvent (s : Block) (p loc : Nat) (ev : MemEvent) : Block :=
  match ev with
  | .corrUnit sym => (s.log (.hbmc p) 0).hbmErr p 0 sym loc
  | .onDie => s.log (.hbmc p) 1
  | .uncUnit => ((s.log (.hbmc p) 2).hbmErr p 1 0xFF loc).raise (.hbmc p) 0
  | _ => s

/-- A fill that may meet a physical error as it reads the stack at `loc`: an uncorrectable unit is poison in the line, and the stack
keeps what it holds (R167, R168). -/
def Block.fillEv (s : Block) (p loc : Nat) (fetch keep : Bool) (ev : MemEvent) : Option Nat × Block :=
  match s.fill p (loc / 128) fetch keep with
  | (some k, s) =>
    if fetch then
      let s := s.hbmEvent p loc ev
      (some k, if ev = MemEvent.uncUnit then s.loseUnit p k loc else s)
    else (some k, s)
  | r => r

/-- Bytes of memory as a reader gets them, and whether poison is among them; `lost`: the unit of `a` could not be corrected. -/
def Ram.deliver (r : Ram) (a n : Nat) (lost : Bool) : List Nat × Bool :=
  let r := if lost then r.mark (a / unitSize a * unitSize a) else r
  (r.bytes a n, r.poisoned a n)

/-- A read of [loc, loc + n), inside one line of stack `p`, is served (Table 6.2): the bytes, whether poison was delivered. -/
def Block.mscRead (s : Block) (p loc n : Nat) (hint : Hint) (ev : MemEvent) : List Nat × Bool × Block :=
  let a := p * stackBytes + loc
  let s := s.mscEvent p loc ev
  let short := decide (hint = .lastUse ∧ n < 128)
  let hint := if short then Hint.stream else hint
  let s := if short then s.log (.msc p) 6 else s
  let got (s : Block) (lost : Bool) (after : Block) : List Nat × Bool × Block :=
    ((s.ram.deliver a n lost).1, (s.ram.deliver a n lost).2 || s.lineBad p loc n, after)
  match (s.msc p).find (loc / 128) with
  | some k =>
    let s := s.modMsc p fun m => { m with hits := m.hits + 1 }
    match hint with
    | .normal => got s false (s.touch p k)
    | .keep => got s false ((s.markKeep p k).touch p k)
    | .stream => got s false s
    | .lastUse =>
      let dirty := match (s.msc p).at? k with
        | some l => l.dirty
        | none => false
      got s false ((if dirty then s.modMsc p fun m => { m with luDiscards := m.luDiscards + 1 } else s).dropLine p k)
  | none =>
    let s := s.modMsc p fun m => { m with misses := m.misses + 1 }
    if hint = .stream ∨ hint = .lastUse ∨ (s.msc p).victim (loc / 128) = none then
      let s := ((s.modMsc p fun m => { m with bypass := m.bypass + 1 }).hbmRead p loc n).hbmEvent p loc ev
      got s (decide (ev = MemEvent.uncUnit)) s
    else
      let (_, s) := s.fillEv p loc true (decide (hint = .keep)) ev
      got s false s

/-- A write of [loc, loc + n), inside one line of stack `p`, is served (Table 6.2); memory gets the bytes, those in the ranges `mk` with
poison. A write to the stack itself
reads its partial units first, where it may meet the event (R159). -/
def Block.mscWrite (s : Block) (p loc : Nat) (bs : List Nat) (pois : Bool) (hint : Hint) (ev : MemEvent) (mk : List (Nat × Nat) := []) :
    Block :=
  let n := bs.length
  let s := s.mscEvent p loc ev
  let s := if hint = .lastUse then s.log (.msc p) 7 else s
  match (s.msc p).find (loc / 128) with
  | some k =>
    let s := (s.modMsc p fun m => { m with hits := m.hits + 1 }).lineWrite p k loc bs pois mk
    match hint with
    | .normal => s.touch p k
    | .keep => (s.markKeep p k).touch p k
    | _ => s
  | none =>
    let s := s.modMsc p fun m => { m with misses := m.misses + 1 }
    if hint = .stream ∨ hint = .lastUse ∨ (s.msc p).victim (loc / 128) = none then
      let s := (s.modMsc p fun m => { m with bypass := m.bypass + 1 }).mergeReads p loc n
      let s := match (partUnits loc n).head? with
        | some u =>
          let s := s.hbmEvent p u ev
          if ev = MemEvent.uncUnit then { s with ram := s.ram.mark (p * stackBytes + u) } else s
        | none => s
      { s with ram := s.ram.writeMarked (p * stackBytes + loc) bs pois mk }.hbmWrite p loc n
    else
      match s.fillEv p loc (decide (n < 128)) (decide (hint = .keep)) ev with
      | (some k, s) => s.lineWrite p k loc bs pois mk
      | (none, s) => s

/-- An event that leaves a line of a device without correction: of the line, or of the word of its check block's copy in the controller
(R163, R167). -/
def MemEvent.capLost : MemEvent → Bool
  | .uncUnit => true
  | .uncData _ => true
  | _ => false

/-- The physical event that a read of a line of device `d` meets (R163, R183). A line whose check bytes are lost in the controller's copy
is uncorrectable (DEDUCED, assumption log 41). -/
def Block.capEvent (s : Block) (d addr : Nat) (ev : MemEvent) : Block :=
  match ev with
  | .uncData _ => ((s.log (.capc d) 1).capErr d 1 0xFF addr).raise (.capc d) 0
  | .corrUnit sym => (s.log (.capc d) 0).capErr d 0 sym addr
  | .uncUnit => ((s.log (.capc d) 1).capErr d 1 0xFF addr).raise (.capc d) 0
  | _ => s

/-- A read of [addr, addr + n), inside one line of device `d` (R163): the bytes, whether poison was delivered. -/
def Block.capRead (s : Block) (d addr n : Nat) (ev : MemEvent) : List Nat × Bool × Block :=
  let s := (s.capLineRead d addr).capEvent d addr ev
  let r := s.ram.deliver (2 ^ 40 + d * 2 ^ 36 + addr) n ev.capLost
  (r.1, r.2, s)

/-- A write inside one line of device `d`; less than a line is a read, a merge and a write (R163), and merges with poison where the
read could not be corrected. -/
def Block.capWrite (s : Block) (d addr : Nat) (bs : List Nat) (pois : Bool) (ev : MemEvent) (mk : List (Nat × Nat) := []) : Block :=
  let s := if bs.length < 128 then
      let s := ((s.log (.capc d) 4).capLineRead d addr).capEvent d addr ev
      if ev.capLost then { s with ram := s.ram.mark (capUnit d addr) } else s
    else s
  s.capLineWrite d addr bs pois mk

/-- The event is an error that the code of an SRAM corrects. -/
def MemEvent.sramOne : MemEvent → Bool
  | .corrUnit _ => true
  | .corrData _ => true
  | _ => false

/-- The physical event that an access of SRAM at `pa` meets: an uncorrectable word is stored as poison (R167). In a core's memory either
error is counted at the core, and an uncorrectable one raised (R101, R170). No Logbook names a corrected word of another SRAM, and none counts
it (DESIGN CHOICE, assumption log 206). -/
def Block.sramEvent (s : Block) (pa : Nat) (ev : MemEvent) : Block :=
  if ev.capLost then
    let s := { s with ram := s.ram.mark (pa / 8 * 8) }
    match coreOf pa with
    | some (p, i) => (s.log (.core p i) 9).raise (.core p i) 2
    | none => s
  else if ev.sramOne then
    match coreOf pa with
    | some (p, i) => s.log (.core p i) 8
    | none => s
  else s

/-- The part of an event that an access at `pa` meets before it reads: an error of a cache's own arrays or of an SRAM. What is left of
it lies in the stack or the device. -/
def Block.arrayEvent (s : Block) (pa : Nat) (ev : MemEvent) : Block × MemEvent :=
  match homeOf s.tiers pa, ev.inStack with
  | some (.hbm p loc), false => (s.mscEvent p loc ev, .none)
  | some (.sram q), _ => (s.sramEvent q ev, .none)
  | _, _ => (s, ev)

/-- One piece of a read at its home: the bytes, whether poison was delivered. -/
def Block.readPiece (s : Block) (h : Home) (n : Nat) (hint : Hint) (ev : MemEvent) : List Nat × Bool × Block :=
  match h with
  | .hbm p loc => s.mscRead p loc n hint ev
  | .cap d a => s.capRead d a n ev
  | .sram pa =>
    let s := s.sramEvent pa ev
    (s.ram.bytes pa n, s.ram.poisoned pa n, s)

/-- One piece of a write at its home. -/
def Block.writePiece (s : Block) (h : Home) (bs : List Nat) (pois : Bool) (hint : Hint) (ev : MemEvent) (mk : List (Nat × Nat) := []) : Block :=
  match h with
  | .hbm p loc => s.mscWrite p loc bs pois hint ev mk
  | .cap d a => s.capWrite d a bs pois ev mk
  | .sram pa => { s with ram := s.ram.writeMarked pa bs pois mk }

/-- A read of `n` bytes at package physical address `a` (R149), for a caller that tested `canAccess`: the bytes, the poison delivered
with each piece (its first byte's place, its length), the block after. `ev` meets the first piece. -/
def Block.memReadParts (s : Block) (a n : Nat) (hint : Hint := .normal) (ev : MemEvent := .none) :
    List Nat × List Bool × Block :=
  let r := (piecesOf a n).foldl (fun (acc : List Nat × List Bool × Block × MemEvent) q =>
    match homeOf acc.2.2.1.tiers q.1 with
    | some h =>
      let x := acc.2.2.1.readPiece h q.2 hint acc.2.2.2
      (acc.1 ++ x.1, acc.2.1 ++ [x.2.1], x.2.2, MemEvent.none)
    | none => (acc.1 ++ List.replicate q.2 0, acc.2.1 ++ [false], acc.2.2.1, acc.2.2.2)) ([], [], s, ev)
  (r.1, r.2.1, r.2.2.1)

/-- Such a read, with whether any poison was delivered. -/
def Block.memRead (s : Block) (a n : Nat) (hint : Hint := .normal) (ev : MemEvent := .none) :
    List Nat × Bool × Block :=
  let r := s.memReadParts a n hint ev
  (r.1, r.2.1.any id, r.2.2)

/-- What of ranges of offsets lies in [lo, lo + n), as offsets from `lo`. -/
def clipRanges (mk : List (Nat × Nat)) (lo n : Nat) : List (Nat × Nat) :=
  mk.filterMap fun x =>
    let a := Nat.max x.1 lo
    let b := Nat.min x.2 (lo + n)
    if a < b then some (a - lo, b - a) else none

/-- A write of bytes at package physical address `a` (R149), for a caller that tested `canAccess`; `mk`: offsets, from and up to, of
bytes that carry poison. -/
def Block.memWrite (s : Block) (a : Nat) (bs : List Nat) (pois : Bool := false) (hint : Hint := .normal)
    (ev : MemEvent := .none) (mk : List (Nat × Nat) := []) : Block :=
  ((piecesOf a bs.length).foldl (fun (acc : Block × MemEvent) q =>
    match homeOf acc.1.tiers q.1 with
    | some h => (acc.1.writePiece h ((bs.drop (q.1 - a)).take q.2) pois hint acc.2 (clipRanges mk (q.1 - a) q.2), MemEvent.none)
    | none => acc) (s, ev)).1

/-- The poisoned bytes of [a, a + n), as ranges of offsets from `a`: what of each marked unit, and of each lost word of a cache, lies
inside. -/
def Block.poisonRanges (s : Block) (a n : Nat) : List (Nat × Nat) :=
  (piecesOf a n).flatMap fun q => match homeOf s.tiers q.1 with
    | some h =>
      let part (u z : Nat) : Nat × Nat := (q.1 - a + (u - h.num), q.1 - a + (Nat.min (u + z) (h.num + q.2) - h.num))
      (((unitsOf (unitSize h.num) h.num q.2).filter fun u => smGet false s.ram.poison u).map fun u => part u (unitSize h.num)) ++
        match h with
        | .hbm p loc => ((unitsOf 8 h.num q.2).filter fun u => s.lineBad p (loc + (u - h.num)) 1).map fun u => part u 8
        | _ => []
    | none => []

/-- A write of bytes of which those in the ranges `pois` carry poison: each destination unit that one of them reaches is stored with its
marker (R203). -/
def Block.memWriteMarked (s : Block) (a : Nat) (bs : List Nat) (pois : List (Nat × Nat)) (hint : Hint := .normal) : Block :=
  s.memWrite a bs false hint .none pois

/-- A read whose poison is told by ranges of offsets: those of `poisonRanges`, and what an uncorrectable event makes of the first access
(R203). -/
def Block.memReadMarked (s : Block) (a n : Nat) (hint : Hint) (ev : MemEvent) : List Nat × List (Nat × Nat) × Block :=
  let (s, ev) := s.arrayEvent a ev
  let old := s.poisonRanges a n
  let (bs, flags, s1) := s.memReadParts a n hint ev
  let first := ((piecesOf a n).head?.map (·.2)).getD 0
  let unit := match ev, homeOf s.tiers a with
    | .uncUnit, some h => unitSize h.num - h.num % unitSize h.num
    | _, some (.cap _ x) => 128 - x % 128
    | _, _ => 8 - a % 8
  let hit := flags.headD false && ev.capLost && !(old.any fun r => decide (r.1 < first))
  (bs, if hit then (0, Nat.min first unit) :: old else old, s1)

/-- The little-endian number of `n` bytes read at `a`, its poison, the block after. -/
def Block.memNat (s : Block) (a n : Nat) (hint : Hint := .normal) : Nat × Bool × Block :=
  let (bs, pois, s) := s.memRead a n hint
  (leNat bs, pois, s)

/-! Page tables. -/

/-- Physical address ranges of HBM and the capacity tier (Table 1.3). -/
def inTiers (pa : Nat) : Bool :=
  decide (pa < 0x9000000000) || (decide (0x10000000000 ≤ pa) && decide (pa < 0x1F800000000))

/-- Lowest virtual-address bit that each level indexes, and how many bits (Table 6.8). -/
def levelBits : Nat → Nat × Nat
  | 0 => (48, 9)
  | 1 => (39, 9)
  | 2 => (30, 9)
  | 3 => (21, 9)
  | _ => (16, 5)

/-- An entry with V = 1 is malformed at a level (R175). -/
def malformed (lvl e : Nat) : Bool :=
  let ty := bits e 1 2
  let size := 2 ^ (levelBits lvl).1
  match ty with
  | 0 => lvl = 4 || bits e 48 16 ≠ 0 || bits e 3 5 ≠ 0 || (lvl ≠ 3 && bits e 8 4 ≠ 0) ||
      !inTiers (bits e 8 40 * 256)
  | 1 => lvl = 0 || lvl = 1 || bits e 5 7 ≠ 0 || (bits e 12 36 * 4096) % size ≠ 0 ||
      !inTiers (bits e 12 36 * 4096) || (decide (0xC000 ≤ bits e 48 16) && decide (bits e 48 16 ≤ 0xFFFE))
  | 2 => lvl = 0 || lvl = 1 || bits e 6 6 ≠ 0 || bits e 4 1 ≠ 0 || (bits e 12 36 * 4096) % size ≠ 0
  | _ => true

/-- A walk from a table at `table`, level `lvl` on (R173 to R178); `prev` is the entry that pointed to the table; the first
read meets the event. -/
def Block.walkFrom (s : Block) (p va : Nat) (w x : Bool) : Nat → Nat → Nat → Nat → MemEvent → Leaf × Block
  | 0, _, _, prev, _ => (.fault 4 prev, s)
  | f + 1, lvl, table, prev, ev =>
    let lb := levelBits lvl
    let a := table + bits va lb.1 lb.2 * 8
    if !s.canAccess a 8 then (.fault 9 prev, s)
    else
      let (bs, pois, s) := s.memRead a 8 .normal ev
      let e := leNat bs
      let s := s.modMmu p fun m => { m with walkReads := m.walkReads + 1 }
      if pois then (.fault 5 0, s.observePoison (.mmu p))
      else if !bit e 0 then (.fault 1 e, s)
      else if malformed lvl e then (.fault 4 e, s)
      else
        match bits e 1 2 with
        | 0 => s.walkFrom p va w x f (lvl + 1) (bits e 8 40 * 256) e .none
        | 1 =>
          let base := bits e 12 36 * 4096
          if w && !bit e 3 then (.fault 2 e, s)
          else if x && !bit e 4 then (.fault 3 e, s)
          else (.package (bits e 48 16) base (2 ^ lb.1) (bit e 3) (bit e 4), s)
        | _ =>
          if x then (.fault 3 e, s)
          else if w && !bit e 3 then (.fault 2 e, s)
          else (.host (bits e 5 1) (bits e 12 52 * 4096) (2 ^ lb.1) (bit e 3), s)

/-- A slot's walk from its root (R172, R173). -/
def Block.walk (s : Block) (p slot va : Nat) (w x : Bool) (ev : MemEvent := .none) : Leaf × Block :=
  let lo := if slot = 0 then 0x040 else 0x048
  if !bit (s.reg (.mmu p) lo) 0 then (.fault 8 0, s)
  else s.walkFrom p va w x 5 0 (s.pair (.mmu p) lo (lo + 4) 12) 0 ev

/-- Bytes a leaf maps. -/
def Leaf.size : Leaf → Nat
  | .package _ _ n _ _ => n
  | .host _ _ n _ => n
  | .fault _ _ => 1

/-- A cached leaf allows the access, or names the fault: write through W = 0, fetch through X = 0 or a host leaf. -/
def Leaf.check (l : Leaf) (w x : Bool) : Leaf :=
  match l with
  | .package g a n lw lx => if w && !lw then .fault 2 0 else if x && !lx then .fault 3 0 else .package g a n lw lx
  | .host q a n lw => if x then .fault 3 0 else if w && !lw then .fault 2 0 else .host q a n lw
  | l => l

/-- The job bound to a slot of a partition, none since a partition reset (Table 14.9). -/
def Part.jobOf (q : Part) (slot : Nat) : Option Nat :=
  if q.blank then none else (if slot = 0 then q.bindP else q.bindB).map (·.1)

/-- The jobs of a partition, each once, the primary first. -/
def Part.jobs (q : Part) : List Nat := ([q.jobOf 0, q.jobOf 1].filterMap id).eraseDups

/-- The entry of a cache that covers `va` for a job and slot. -/
def tcFind (c : List TcEntry) (job slot va : Nat) : Option TcEntry :=
  c.find? fun e => e.job = job && e.slot = slot && decide (e.base ≤ va) && decide (va < e.base + e.leaf.size)

/-- Translation of a slot's virtual address (R172 to R178), through the cache of DMA engine `eng` where there is one and
the partition's cache. A leaf whose permission a cached entry denies is walked again, so the fault names its entry. -/
def Block.translate (s : Block) (p slot : Nat) (eng : Option Nat) (va : Nat) (w x : Bool) (ev : MemEvent := .none) : Leaf × Block :=
  let job := ((s.part p).jobOf slot).getD 0
  let inEng := match eng with
    | some j => tcFind (smGet [] (s.mmu p).engCache j) job slot va
    | none => none
  let use (l : Leaf) : Bool := match l.check w x with
    | .fault _ _ => false
    | _ => true
  let learnEng (s : Block) (e : TcEntry) : Block := match eng with
    | some j => s.modMmu p fun m => { m with engCache := smMod [] m.engCache j fun c => (e :: c).take 64 }
    | none => s
  match inEng with
  | some e => if use e.leaf then (e.leaf, s) else s.walk p slot va w x ev
  | none =>
    match tcFind (s.mmu p).cache job slot va with
    | some e =>
      if use e.leaf then (e.leaf, learnEng (s.modMmu p fun m => { m with hits := m.hits + 1 }) e)
      else (s.modMmu p fun m => { m with hits := m.hits + 1 }).walk p slot va w x ev
    | none =>
      let (l, s) := (s.modMmu p fun m => { m with misses := m.misses + 1 }).walk p slot va w x ev
      match l with
      | .fault _ _ => (l, s)
      | l =>
        let e : TcEntry := ⟨job, slot, va / l.size * l.size, l⟩
        (l, learnEng (s.modMmu p fun m => { m with cache := (e :: m.cache).take 8192 }) e)

/-! The chapter's commands. -/

/-- MSC_ACCESS: an access arrives at the home cache of stack `p` (R149, R153), cut at line boundaries. A stack out of
service refuses it (R161). -/
def Block.mscAccess (s : Block) (p loc n : Nat) (write : Bool) (hint : Hint) (data : List Nat) (pois : Bool)
    (ev : MemEvent) : Block :=
  if bit s.tiers.stackOos p || decide (stackBytes < loc + n) then s.emit (.memRefused loc)
  else if write then
    let bs := (data ++ List.replicate n 0).take n
    ((piecesOf loc n).foldl (fun (acc : Block × MemEvent) q =>
      (acc.1.mscWrite p q.1 ((bs.drop (q.1 - loc)).take q.2) pois hint acc.2, MemEvent.none)) (s, ev)).1
  else
    let r := (piecesOf loc n).foldl (fun (acc : List Nat × Bool × Block × MemEvent) q =>
      let x := acc.2.2.1.mscRead p q.1 q.2 hint acc.2.2.2
      (acc.1 ++ x.1, acc.2.1 || x.2.1, x.2.2, MemEvent.none)) ([], false, s, ev)
    let s := r.2.2.1.emit (.memData (p * stackBytes + loc) r.1 r.2.1)
    if r.2.1 then s.observePoison (.hbmc p) else s

/-- CAPACITY_ACCESS: capacity controller `d` reads or writes inside one data line of its device (R163). -/
def Block.capAccess (s : Block) (d addr n : Nat) (write : Bool) (data : List Nat) (pois : Bool) (ev : MemEvent) :
    Block :=
  let n := Nat.min n (128 - addr % 128)
  if !bit s.tiers.capIn d || decide (3968 ≤ addr % 4096) then s.emit (.memRefused addr)
  else if write then s.capWrite d addr ((data ++ List.replicate n 0).take n) pois ev
  else
    let x := s.capRead d addr n ev
    let s := x.2.2.emit (.memData (2 ^ 40 + d * 2 ^ 36 + addr) x.1 x.2.1)
    if x.2.1 then s.observePoison (.capc d) else s

/-- KEEP_RELEASE: every mark in the cache is cleared, the lines stay valid (R154). -/
def Block.keepRelease (s : Block) (p : Nat) : Block :=
  s.modMsc p fun m => { m with lines := smMapVals none m.lines fun _ l => l.map fun x => { x with keep := false } }

/-- MSC_FLUSH: every line dirty now is written back and stays valid and clean; FLUSH reads 1 (R156). A flush in progress
goes on. The capacity controllers write their changed check blocks out, whichever cache is flushed (R163; DESIGN CHOICE, assumption
log 164). -/
def Block.mscFlush (s : Block) (p : Nat) : Block :=
  if (s.msc p).flushing then s
  else
    let s := (s.modMsc p fun m => { m with flushing := true }).checksOut
    ((s.msc p).lines.map (·.1)).foldl (fun s k => s.writeBack p k) s

/-- FLUSH_DONE: FLUSH reads 0 and the cause is raised (R156). -/
def Block.flushDone (s : Block) (p : Nat) : Block :=
  if (s.msc p).flushing then (s.modMsc p fun m => { m with flushing := false }).raise (.msc p) 1 else s

/-- A scrub of stack `p` meets an event at unit address `loc`: it reads and rewrites the stack, whose copy alone changes where the
cache holds the line (R169). Its own reads and writes count in no register (DESIGN CHOICE, assumption log 165). -/
def Block.hbmScrubAt (s : Block) (p loc : Nat) (ev : MemEvent) : Block :=
  let loc := loc / 64 * 64
  match ev with
  | .corrUnit sym => (s.log (.hbmc p) 0).hbmErr p 0 sym loc
  | .onDie => s.log (.hbmc p) 1
  | .uncUnit =>
    let s := ((s.log (.hbmc p) 7).log (.hbmc p) 3).hbmErr p 3 0xFF loc
    let a := p * stackBytes + loc
    let s := match (s.msc p).find (loc / 128) with
      | some k =>
        let r := s.ram
        s.modLine p k fun l =>
          let l := l.keepStale p r
          let h := loc / 64 % 2
          { l with stale := (List.range 128).map (fun i => if i / 64 = h then 0 else l.stale.getD i 0),
                   stalePois := l.stalePois.set h true }
      | none => { s with ram := s.ram.mark a }
    s.raise (.hbmc p) 1
  | _ => s

/-- A scrub of device `d` meets an event at line address `addr` (R169). -/
def Block.capScrubAt (s : Block) (d addr : Nat) (ev : MemEvent) : Block :=
  let addr := addr / 128 * 128
  match ev with
  | .corrUnit sym => (s.log (.capc d) 0).capErr d 0 sym addr
  | .uncUnit =>
    let s := ((s.log (.capc d) 7).log (.capc d) 2).capErr d 3 0xFF addr
    let s := { s with ram := s.ram.mark (2 ^ 40 + d * 2 ^ 36 + addr) }
    s.raise (.capc d) 1
  | _ => s

/-- SCRUB_PASS of an HBM controller: the events met, then the pass is counted and SCRUB_DONE raised (R169, R182).
HOURS = 0 stops the scrub. -/
def Block.hbmScrub (s : Block) (p : Nat) (evs : List (Nat × MemEvent)) : Block :=
  if s.fld (.hbmc p) 0x044 0 8 = 0 then s
  else ((evs.foldl (fun s e => s.hbmScrubAt p e.1 e.2) s).log (.hbmc p) 6).raise (.hbmc p) 3

/-- SCRUB_PASS of a capacity controller (R169, R183). -/
def Block.capScrub (s : Block) (d : Nat) (evs : List (Nat × MemEvent)) : Block :=
  if s.fld (.capc d) 0x040 0 8 = 0 then s
  else ((evs.foldl (fun s e => s.capScrubAt d e.1 e.2) s).log (.capc d) 6).raise (.capc d) 2

/-- What HBMC_IMAP.NEXT takes of a write (R161, Table 6.14). -/
def Block.imapTaken (s : Block) (v : Nat) : Nat := if v % 4 = 3 ∨ (v % 4 = 2 ∧ s.tiers.stackOos % 4096 ≠ 0) then 0 else v % 4

/-- A write of HBMC_IMAP.NEXT in page `p` (R161): one field in all twelve pages; 3 takes the default 0, 2 with a stack
out of service clamps to 0; the change is owed to the Almanac. -/
def Block.imapNext (s : Block) (p v : Nat) : Block :=
  let v' := s.imapTaken v
  let s := if v' ≠ v % 4 then s.clamped (.hbmc p) 0x040 else s
  if v' = s.tiers.imapNext then s
  else { s with tiers := { s.tiers with imapNext := v' } }.almDue (.imap v')

end Sys2Proof.Machine
end

