-- ==== Sys2Proof/Machine/CoreOps.lean ====
section
/-! DEFINITION. Operations on core slots that other chapters share: registers, faults, stops, windows, logical names. -/

namespace Sys2Proof.Machine

/-- S register `n` of a slot, 64 bits; S0 reads zero (R69). -/
def Slot.s (t : Slot) (n : Nat) : Nat := if n % 32 = 0 then 0 else smGet 0 t.sregs (n % 32) % 2 ^ 64

/-- S register `n` set; a write of S0 is discarded (R69). -/
def Slot.setS (t : Slot) (n v : Nat) : Slot :=
  if n % 32 = 0 then t else { t with sregs := smPut 0 t.sregs (n % 32) (v % 2 ^ 64) }

/-- A register `n` of a slot, 64 bits (R69). -/
def Slot.a (t : Slot) (n : Nat) : Nat := smGet 0 t.aregs n % 2 ^ 64

/-- The slot's program counter goes to the next instruction (R75); program counters are 57 bits. -/
def Slot.advance (t : Slot) : Slot := { t with pc := (t.pc + 8) % 2 ^ 57 }

/-- A waiting slot goes on after its instruction. -/
def Slot.resume (t : Slot) : Slot := { t.advance with wait := .none }

/-- The lane of a core by its logical core number, none on a compute core (R264). -/
def Part.laneOf (q : Part) (lcore : Nat) : Option Nat :=
  let i := 15 - lcore % 16
  if i < q.comm then some (q.comm * (lcore / 16 % 8) + i) else none

/-- The core is a comm core of its partition's primary job (R264). -/
def Block.isComm (s : Block) (p i : Nat) : Bool :=
  let t := s.slot p i 0
  t.bound && ((s.part p).laneOf t.lcore).isSome

/-- CORE_BF_CFG.EN of a core; a comm core's reads 0 (R264). -/
def Block.bfOn (s : Block) (p i : Nat) : Bool := bit (s.reg (.core p i) 0x040) 0 && !s.isComm p i

/-- The window of a slot in core memory (R79): first byte and first byte beyond. -/
def Block.window (s : Block) (p i sl : Nat) : Nat × Nat :=
  let size := s.fld (.core p i) 0x040 8 5 * 16384
  if s.bfOn p i then (if sl = 0 then (0, 0x7E000 - size) else (0x7E000 - size, 0x7E000))
  else if sl = 0 then (0, 0x80000) else (0, 0)

/-- Weight planes a slot owns (R79). -/
def Block.planesOf (s : Block) (p i sl : Nat) : Nat :=
  let n := s.fld (.core p i) 0x040 4 2
  if s.bfOn p i then (if sl = 0 then 4 - n else n) else if sl = 0 then 4 else 0

/-- The planes that a slot has retained are released (R95). -/
def Slot.release (t : Slot) : Slot := { t with retTag := none, retBytes := [], retPois := [], retPlanes := 0 }

/-- An instruction that has begun with its planes loses them: it takes B from core memory again, except that an attempt under way goes on
with what the planes held for it (R95; assumption log 159). -/
def MEntry.evict (t : Slot) (e : MEntry) : MEntry :=
  if e.arrayDone || (!e.reuse && e.pass = 0 && !e.inPass) then e
  else if e.inPass && e.rung = 0 && e.reuse && !e.repeated then
    { e with reuse := false, lost := true, pre := [(0, 0x80000)], preBytes := t.retBytes, prePois := t.retPois }
  else { e with reuse := false, lost := true }

/-- The slot owns `n` planes from now on: those it held are taken, and its instructions run with the new number (R79, R95). -/
def Slot.owns (n : Nat) (t : Slot) : Slot := { t with mq := t.mq.map fun e => { e with planes := n } }

/-- The planes of a slot are taken from outside: retention ends, for the instruction that runs on them too (R95). -/
def Slot.evict (t : Slot) : Slot := { t with mq := t.mq.map (MEntry.evict t) }.release

/-- The first byte of [a, a + n) outside a slot's window, if there is one. -/
def Block.outside (s : Block) (p i sl a n : Nat) : Option Nat :=
  let w := s.window p i sl
  if n = 0 then none
  else if a < w.1 then some a
  else if w.2 ≤ a then some a
  else if w.2 < a + n then some w.2
  else none

/-- Core fault codes (Table 3.13). -/
inductive CoreFault where
  | illegal
  | tileShape
  | tileBounds
  | formatPair
  | window
  | plane
  | binding
  | address
  | batchShare
  | sync
  | collective
  | fetch
deriving DecidableEq, Repr

/-- Codes of Table 3.13. -/
def CoreFault.code : CoreFault → Nat
  | .illegal => 1
  | .tileShape => 2
  | .tileBounds => 3
  | .formatPair => 4
  | .window => 5
  | .plane => 6
  | .binding => 7
  | .address => 8
  | .batchShare => 9
  | .sync => 10
  | .collective => 11
  | .fetch => 12

/-- The CORE Logbook counter of a fault code (R101), where it has one. -/
def CoreFault.counter : CoreFault → Option Nat
  | .illegal => some 0
  | .tileShape => some 1
  | .tileBounds => some 1
  | .formatPair => some 1
  | .batchShare => some 1
  | .binding => some 2
  | .address => some 3
  | .window => some 4
  | .plane => some 4
  | _ => none

/-- A precise core fault (R74, R101): the instruction has no effect, the slot stops, the record is written unless one is
held under the cause of the slot that faults now (DESIGN CHOICE, assumption log 187), and a job fault CORE is reported (Table 14.3). -/
def Block.coreFault (s : Block) (p i sl : Nat) (c : CoreFault) (detail : Nat) : Block :=
  let t := s.slot p i sl
  let s := match c.counter with
    | some n => s.log (.core p i) n
    | none => s
  let s := if s.causeSet (.core p i) sl then s
    else s.modCore p i fun k =>
      { k with faultValid := true, faultSlot := sl, faultCode := c.code, faultDetail := detail % 65536, faultPc := t.pc }
  let s := s.modSlot p i sl fun t => { t with stop := .fault, wait := .none }
  let s := s.raise (.core p i) sl
  let s := if c = .binding then (s.raise (.ephP p) 2).log (.ephP p) 2 else s
  s.jobFault p 1 t.job (c.code * 256 + detail % 256) t.lcore

/-! Logical names (R15, R319). -/

/-- The job and logical partition bound to a slot of partition `p`. -/
def Block.bindOf (s : Block) (p sl : Nat) : Option (Nat × Nat) :=
  if sl = 0 then (s.part p).bindP else (s.part p).bindB

/-- A core is working: not marked failed. -/
def Part.coreOk (q : Part) (i : Nat) : Bool := !smGet false q.failedCores i

/-- Working cores of a physical cluster, ascending. -/
def Part.goodCores (q : Part) (c : Nat) : List Nat := (List.range 17).filter fun k => q.coreOk (17 * c + k)

/-- A physical cluster is working (R409). -/
def Part.clusterOk (q : Part) (c : Nat) : Bool :=
  decide (16 ≤ (q.goodCores c).length) && !smGet false q.failedClusters c &&
    (List.range 4).any fun e => !smGet false q.failedEngines (4 * c + e)

/-- A partition's compute is not lost, not marked, and has the clusters that R409 asks for. -/
def Part.usable (q : Part) : Bool :=
  !q.lost && !q.marked && decide (8 ≤ ((List.range 9).filter q.clusterOk).length)

/-- Frames run in this state (Table 2.3). -/
def Merid.framesRun (m : Merid) : Bool :=
  match m.state with
  | .locked => true
  | .outOfStep => true
  | .holdover => true
  | .master => true
  | .claim => m.claimFrames
  | _ => false

/-- The physical partition that carries logical partition `lp` for a job, and the slot, primary first; for the traffic of slot `sl` only
entries of that slot are searched (R319). A partition out of service
contributes no logical numbers (R13). -/
def Block.partOf (s : Block) (job lp : Nat) (sl : Option Nat := none) : Option (Nat × Nat) :=
  ((List.range 12).flatMap fun p => [(p, 0), (p, 1)]).find? fun q => (sl = none || sl = some q.2) && s.bindOf q.1 q.2 = some (job, lp) && (s.part q.1).usable

/-- The physical partition bound under logical partition number `lp`, whatever the job. -/
def Block.anyPart (s : Block) (lp : Nat) : Option Nat :=
  (List.range 12).find? fun p => (((s.bindOf p 0).map (·.2) = some lp) || ((s.bindOf p 1).map (·.2) = some lp)) && (s.part p).usable

/-- Physical cluster of logical cluster `c` (0–7) of a partition (CMAP). -/
def Part.cluster (q : Part) (c : Nat) : Option Nat :=
  let b := smGet 0 q.amap c
  if bit b 7 then some (b % 16) else none

/-- Physical core index of logical core `k` (0–15) of logical cluster `c` of a partition (KMAP). -/
def Part.coreAt (q : Part) (c k : Nat) : Option Nat :=
  let b := smGet 0 q.amap (16 + 16 * c + k)
  match q.cluster c with
  | some pc => if bit b 7 then some (17 * pc + b % 32) else none
  | none => none

/-- Physical partition and cluster of logical cluster `lc` (0–95) for a job (R15). -/
def Block.clusterOf (s : Block) (job lc : Nat) (sl : Option Nat := none) : Option (Nat × Nat) :=
  match s.partOf job (lc / 8) sl with
  | some (p, _) => ((s.part p).cluster (lc % 8)).map fun c => (p, c)
  | none => none

/-- Physical partition, core index and slot of logical core `lc` (0–1,535) for a job: the core's slot bound to the job
(R194). -/
def Block.coreOf (s : Block) (job lc : Nat) (sl : Option Nat := none) : Option (Nat × Nat × Nat) :=
  match s.partOf job (lc / 128) sl with
  | some (p, sl) =>
    match (s.part p).coreAt (lc / 16 % 8) (lc % 16) with
    | some i => if (s.slot p i sl).bound && decide ((s.slot p i sl).job = job) then some (p, i, sl) else none
    | none => none
  | none => none

/-- This package's number (LNK_PKGN). -/
def Block.pkgn (s : Block) : Nat := s.reg (.lnk 0) 0x060 % 65536

/-- A PKGN names this package (R22). -/
def Block.isSelf (s : Block) (g : Nat) : Bool := g = 0xFFFF || (s.pkgn ≠ 0xFFFF && g = s.pkgn)

/-! Bubbles (R340, R342, R350): HELIO[p]'s state is read at every issue. -/

def Block.hp (s : Block) (p : Nat) : HelioP := smGet {} s.helioPs p
def Block.modHp (s : Block) (p : Nat) (f : HelioP → HelioP) : Block := { s with helioPs := smMod {} s.helioPs p f }

/-- The bubble count in force in partition `p`: the larger of the power and the thermal count (R350), its own count after a
regulator fault (R360), 256 at the held limit, and once poison is contained (R377). -/
def Block.bubbles (s : Block) (p : Nat) : Nat :=
  let h := s.hp p
  if h.limit || s.poisonTick then 256 else Nat.max (Nat.max s.helio.f h.therm) h.own

/-- DMA channels and the update engine are stopped for poison containment or a park (R377, Table 13.5). -/
def Block.frozen (s : Block) : Bool := s.poisonTick || decide (s.helio.gauge = .parking)

/-! Hard faults (Table 14.2). -/

def Block.modHelio (s : Block) (f : Helio → Helio) : Block := { s with helio := f s.helio }

/-- A power state that the limits do not govern has just ended or begun: A(t) and A(t − 1 ms) hold it for 2 ms (assumption log 174). -/
def Helio.exempted (h : Helio) : Helio := { h with exempt := 2000 }

/-- The jobs and logical cores of the slots of a core, the primary's first; a job that holds both slots is named once. -/
def Block.jobsAt (s : Block) (p i : Nat) : List (Nat × Nat) :=
  let a := s.slot p i 0
  let b := s.slot p i 1
  (if a.bound then [(a.job, a.lcore)] else []) ++
    (if b.bound && !(a.bound && decide (a.job = b.job)) then [(b.job, b.lcore)] else [])

/-- A core hard fault is reported, to each job bound there (Table 14.2, R395). -/
def Block.coreHard (s : Block) (p i : Nat) : Block :=
  let s := (s.raise (.part p) 7).log (.part p) 14
  (s.jobsAt p i).foldl (fun s x => s.jobFault p 0x0B x.1 i x.2) s

/-- A partition would be in service but for its licence (R409). -/
def Block.partUsable (s : Block) (p : Nat) : Bool :=
  (s.part p).usable && !bit s.tiers.stackBad p

/-- Licensed partitions: the six or twelve lowest-numbered that are otherwise in service (R415). -/
def Block.licensedParts (s : Block) : List Nat :=
  ((List.range 12).filter s.partUsable).take (if s.feat.parts12 then 12 else 6)

/-- A partition is in service (R409). -/
def Block.partIn (s : Block) (p : Nat) : Bool := s.licensedParts.contains p

/-- From `s` to `t` a failure was recorded: where it took partition `p` out of service, that is counted (R409, R420). -/
def Block.outCount (s t : Block) (p : Nat) : Block := if s.partIn p && !t.partIn p then t.log .alm 5 else t

/-- A working cluster of partition `p` is lost; where all nine worked, the spare is consumed (R420). -/
def Block.spareCluster (s : Block) (p : Nat) : Block :=
  if ((List.range 9).filter (s.part p).clusterOk).length = 9 then s.log .alm 4 else s

/-- A partition is lost (Table 14.2): its compute is out of service and its jobs are told. -/
def Block.partLost (s : Block) (p : Nat) : Block :=
  let s := (s.outCount (s.modPart p fun q => { q with lost := true }) p).log (.part p) 15
  let s := s.modHelio Helio.exempted
  (s.part p).jobs.foldl (fun s job => s.jobFault p 0x0C job p 0x7FF) s

/-- An uncorrectable tag of a partition's MMU table cache loses the partition (Table 14.2). -/
def Block.tagLost (s : Block) (p : Nat) (tag : Bool) : Block := if tag then s.partLost p else s

end Sys2Proof.Machine
end

