-- ==== Sys2Proof/Machine/Sync.lean ====
section
/-! DEFINITION. Sync counters, barriers and their updates at the home (spec/08). -/

namespace Sys2Proof.Machine

def Block.syn (s : Block) (p : Nat) : Sync := smGet {} s.syncs p
def Block.modSyn (s : Block) (p : Nat) (f : Sync → Sync) : Block := { s with syncs := smMod {} s.syncs p f }

/-- Counters of a partition that its backfill job owns (R209). -/
def Block.bfCtrs (s : Block) (p : Nat) : Nat := s.fld (.sync p) 0x040 0 4 * 256

/-- Barriers of a partition that its backfill job owns (R209). -/
def Block.bfBars (s : Block) (p : Nat) : Nat := s.fld (.sync p) 0x040 8 7

/-- The partition counter that counter `n` of a slot's share names, none beyond the share (R209). -/
def Block.ctrNum (s : Block) (p sl n : Nat) : Option Nat :=
  let b := s.bfCtrs p
  if sl = 0 then (if n < 4096 - b then some n else none)
  else if n < b then some (4096 - b + n) else none

/-- The partition barrier that barrier `n` of a slot's share names, none beyond the share (R209). -/
def Block.barNum (s : Block) (p sl n : Nat) : Option Nat :=
  let b := s.bfBars p
  if sl = 0 then (if n < 256 - b then some n else none)
  else if n < b then some (256 - b + n) else none

/-- The number of a partition's barrier, or counter, in the share of a slot, as its program names it (R209): DETAIL [11:0] of a core fault
SYNC (Table 8.3; DEDUCED, assumption log 192). -/
def Block.barOwn (s : Block) (p sl n : Nat) : Nat := if sl = 0 then n else n - (256 - s.bfBars p)
def Block.ctrOwn (s : Block) (p sl n : Nat) : Nat := if sl = 0 then n else n - (4096 - s.bfCtrs p)

/-- The slot whose job owns barrier `b` (SYNC_BAR SLOT). -/
def Block.barSlot (s : Block) (p b : Nat) : Nat := if 256 - s.bfBars p ≤ b then 1 else 0

/-- The value of a counter. -/
def Sync.ctr (y : Sync) (n : Nat) : Nat := smGet 0 y.ctrs n

/-- A barrier. -/
def Sync.bar (y : Sync) (b : Nat) : Bar := smGet {} y.bars b

/-- SOURCE code of the sync fault record (Table 8.10). -/
def SyncSrc.code : SyncSrc → Nat
  | .instr .. => 0
  | .signal .. => 1
  | .link .. => 2
  | .mgmt => 3
  | .release .. => 4
  | .gone .. => 0

/-- Logical core, job and PKGN of a source; `self` is this package's number. -/
def SyncSrc.who (x : SyncSrc) (self : Nat) : Nat × Nat × Nat :=
  match x with
  | .instr _ _ _ _ lc job => (lc, job, self)
  | .signal _ lc job => (lc, job, self)
  | .link _ lc job g => (lc, job, g)
  | .mgmt => (0, 0, self)
  | .release lc job g => (lc, job, g)
  | .gone _ _ lc job => (lc, job, self)

/-- The place of a source in the order of updates that arrive in one cycle (R214). Cores of one physical index, or engines of one number, in
different partitions have one place: their updates stand in the order in which they set out (DESIGN CHOICE, assumption log 209). -/
def SyncSrc.order : SyncSrc → Nat
  | .mgmt => 0
  | .release .. => 1
  | .instr _ i sl _ _ _ => 2 + 2 * i + sl
  | .signal e _ _ => 1000 + e
  | .link n _ _ _ => 2000 + n
  | .gone i sl _ _ => 2 + 2 * i + sl

/-- A refused update or release leaves a record unless one is held, raises CTR_FAULT and reports the job fault: the core
fault SYNC of a precise source, COUNTER otherwise (R215, R217). `kind`: 1 underflow, 2 overflow, 3 range. A SIGNAL packet names no
logical core (Table 9.9), so the record of one has a free value there (DESIGN CHOICE, assumption log 138). -/
def Block.syncFault (s : Block) (p kind num amount : Nat) (src : SyncSrc) : Block :=
  let y := s.syn p
  let w := src.who s.pkgn
  let s := s.log (.sync p) (kind - 1)
  let (lc, s) := match src with
    | .link .. => ((s.fresh).1 % 2048, (s.fresh).2)
    | _ => (w.1, s)
  let s := if y.fault.isSome then s
    else s.modSyn p fun y =>
      { y with fault := some ⟨src.code, kind, lc, num, w.2.2, w.2.1, amount, y.ctr num⟩ }
  let s := s.raise (.sync p) 0
  match src with
  | .instr q i sl true _ _ => s.coreFault q i sl .sync (kind * 4096 + s.ctrOwn q sl num)
  | _ => s.jobFault p 3 w.2.1 num w.1

/-- The waiters of counter `n` are examined in the order in which they arrived (R216); a consuming waiter takes its value
before a later one is examined. A slot that no longer waits (stopped, unbound) is passed over. -/
def Block.examine (s : Block) (p n : Nat) : List CtrWaiter → List CtrWaiter → Block
  | [], kept => s.modSyn p fun y => { y with ctrWaits := smPut [] y.ctrWaits n kept.reverse }
  | w :: t, kept =>
    let v := (s.syn p).ctr n
    if (s.slot p w.core w.slot).wait ≠ .ctr n then s.examine p n t kept
    else if w.value ≤ v then
      let s := if w.consume then s.modSyn p fun y => { y with ctrs := smPut 0 y.ctrs n (v - w.value) } else s
      (s.modSlot p w.core w.slot Slot.resume).examine p n t kept
    else s.examine p n t (w :: kept)

/-- One update is applied at counter `n` of partition `p`, or refused (R214, R215); the waiters are then examined. The
result says whether it was applied. -/
def Block.ctrApply (s : Block) (p : Nat) (op : CtrOp) (n amount : Nat) (src : SyncSrc) : Bool × Block :=
  let v := (s.syn p).ctr n
  match op with
  | .sub =>
    if v < amount then (false, s.syncFault p 1 n amount src)
    else
      let s := s.modSyn p fun y => { y with ctrs := smPut 0 y.ctrs n (v - amount) }
      (true, s.examine p n (smGet [] (s.syn p).ctrWaits n) [])
  | .add =>
    if 0xFFFFFFFF < v + amount then (false, s.syncFault p 2 n amount src)
    else
      let s := s.modSyn p fun y => { y with ctrs := smPut 0 y.ctrs n (v + amount) }
      (true, s.examine p n (smGet [] (s.syn p).ctrWaits n) [])
  | .set =>
    let s := s.modSyn p fun y => { y with ctrs := smPut 0 y.ctrs n (amount % 2 ^ 32) }
    (true, s.examine p n (smGet [] (s.syn p).ctrWaits n) [])

/-- Waiters of a barrier whose held generation differs from the present one go on (R217). -/
def Block.releaseWaiters (s : Block) (p b : Nat) : Block :=
  let g := ((s.syn p).bar b).gen
  let ws := smGet [] (s.syn p).barWaits b
  let s := s.modSyn p fun y => { y with barWaits := smPut [] y.barWaits b (ws.filter fun w => w.gen = g) }
  (ws.filter fun w => w.gen ≠ g).foldl (fun s w =>
    if (s.slot p w.core w.slot).wait = .bar b then s.modSlot p w.core w.slot Slot.resume else s) s

/-- The release of a completed generation (R217): 1 is added to counter REL_CTR of the owning slot's share in every
partition of the package bound to the job. A refused one names the job, and the logical core and package (`lc`, `g`) of the arrival that
completed the generation. A share that has no such counter shows its number in the record's COUNTER, and in VALUE the partition's counter
of that index (DESIGN CHOICE, assumption log 210). -/
def Block.barRelease (s : Block) (p b lc g : Nat) : Block :=
  let y := (s.syn p).bar b
  let sl := s.barSlot p b
  match (s.part p).jobOf sl with
  | none => s
  | some job =>
    (List.range 12).foldl (fun s q =>
      ([0, 1] : List Nat).foldl (fun s k =>
        if (s.part q).jobOf k = some job then
          match s.ctrNum q k y.relCtr with
          | some n => (s.ctrApply q .add n 1 (.release lc job g)).2
          | none => s.syncFault q 3 y.relCtr 1 (.release lc job g)
        else s) s) s

/-- One arrival from `src` at an armed barrier (R217): the generation it belongs to, and the block. -/
def Block.barArrive (s : Block) (p b : Nat) (src : SyncSrc) : Nat × Block :=
  let y := (s.syn p).bar b
  if y.arrived + 1 = y.count then
    let y' : Bar := { y with gen := (y.gen + 1) % 65536, arrived := 0, ticks := 0 }
    let s := s.modSyn p fun z => { z with bars := smPut {} z.bars b y' }
    let s := s.releaseWaiters p b
    (y.gen, if y.relEn then s.barRelease p b (src.who s.pkgn).1 (src.who s.pkgn).2.2 else s)
  else
    (y.gen, s.modSyn p fun z => { z with bars := smPut {} z.bars b { y with arrived := y.arrived + 1 } })

/-- An update's sender has its verdict (R220): a slot that waited goes on, one that did not has one update fewer out. -/
def Block.verdict (s : Block) (src : SyncSrc) : Block :=
  match src with
  | .instr q i sl true _ _ => s.modSlot q i sl Slot.resume
  | .instr q i sl false _ _ => s.modSlot q i sl fun t => { t with syncOut := t.syncOut - 1 }
  | _ => s

/-- One barrier arrival reaches its home (R217, R218). -/
def Block.arriveAt (s : Block) (p : Nat) (u : SyncUpd) : Block :=
  let y := (s.syn p).bar u.num
  match y.state with
  | .armed =>
    match u.src with
    | .instr q i sl true _ _ =>
      let (g, s) := s.barArrive p u.num u.src
      if u.sync then
        if ((s.syn p).bar u.num).gen ≠ g then s.modSlot q i sl Slot.resume
        else
          let s := s.modSyn p fun z => { z with barWaits := smMod [] z.barWaits u.num fun l => l ++ [⟨i, sl, g⟩] }
          (s.traceCore q i 3 (leBytes 8 (s.slot q i sl).pc)).modSlot q i sl fun t => { t with wait := .bar u.num }
      else s.modSlot q i sl fun t => (t.setS u.reg g).resume
    | src => ((s.barArrive p u.num src).2).verdict src
  | st =>
    let s := s.log (.sync p) 4
    match u.src with
    | .instr q i sl true _ _ =>
      let kind := if st = .timedOut then 4 else 5
      s.coreFault q i sl .sync (kind * 4096 + s.barOwn q sl u.num)
    | src => s.verdict src

/-- An update placed among others before those whose source comes later in the order of R214. -/
def putInOrder (u : SyncUpd) : List SyncUpd → List SyncUpd
  | [] => [u]
  | x :: t => if u.src.order ≤ x.src.order then u :: x :: t else x :: putInOrder u t

/-- In-flight updates and arrivals in the order of R214; those of one source keep their order. -/
def arrivalOrder (us : List SyncUpd) : List SyncUpd := us.foldr putInOrder []

/-- The in-flight entries at places `ks`, and the rest. -/
def takeAt (us : List SyncUpd) (ks : List Nat) : List SyncUpd × List SyncUpd :=
  let z := us.zipIdx
  ((z.filter fun e => ks.contains e.2).map (·.1), (z.filter fun e => !ks.contains e.2).map (·.1))

/-- The slot that owns the counter or barrier of an update (R209). -/
def Block.updSlot (s : Block) (p : Nat) (u : SyncUpd) : Nat :=
  if u.bar then s.barSlot p u.num else if u.num < 4096 - s.bfCtrs p then 0 else 1

/-- An update's job is bound where it arrives; a partition reset may have ended the binding meanwhile (R221). -/
def Block.updBound (s : Block) (p : Nat) (u : SyncUpd) : Bool :=
  let at' (job : Nat) : Bool := decide ((s.part p).jobOf (s.updSlot p u) = some job)
  match u.src with
  | .instr _ _ _ false _ job => at' job
  | .gone _ _ _ job => at' job
  | .signal _ _ job => at' job
  | _ => true

/-- An update that finds no bound job is dropped, counted, and SIGNAL_UNBOUND is raised; the sender is not told (R221). -/
def Block.dropUnbound (s : Block) (p : Nat) (src : SyncSrc) : Block := ((s.log (.sync p) 5).raise (.sync p) 4).verdict src

/-- One counter update that has reached its home. -/
def Block.updateAt (s : Block) (p : Nat) (u : SyncUpd) : Block :=
  if !s.updBound p u then s.dropUnbound p u.src
  else match s.ctrApply p u.op u.num u.amount u.src with
  | (true, s) => s.verdict u.src
  | (false, s) => match u.src with
    | .instr _ _ _ true _ _ => s
    | src => s.verdict src

/-- COUNTER_UPDATE: the counter updates at places `ks` of partition `p`'s in-flight updates arrive in one cycle (R214). -/
def Block.counterUpdate (s : Block) (p : Nat) (ks : List Nat) : Block :=
  let (now, later) := takeAt (s.syn p).inflight ks
  let s := s.modSyn p fun y => { y with inflight := later ++ now.filter (·.bar) }
  (arrivalOrder (now.filter fun u => !u.bar)).foldl (fun s u => s.updateAt p u) s

/-- BARRIER_ARRIVAL: the arrivals at places `ks` reach their barriers (R217). -/
def Block.barrierArrival (s : Block) (p : Nat) (ks : List Nat) : Block :=
  let (now, later) := takeAt (s.syn p).inflight ks
  let s := s.modSyn p fun y => { y with inflight := later ++ now.filter fun u => !u.bar }
  (arrivalOrder (now.filter (·.bar))).foldl (fun s u => if s.updBound p u then s.arriveAt p u else s.dropUnbound p u.src) s

/-- An update or arrival sets out for its home. -/
def Block.sendUpd (s : Block) (p : Nat) (u : SyncUpd) : Block :=
  s.modSyn p fun y => { y with inflight := y.inflight ++ [u] }

/-- BAR.INIT and a management arming (R217): count, timeout, arrivals zero, the generation unchanged. -/
def Block.armBar (s : Block) (p b count timeout : Nat) : Block :=
  s.modSyn p fun y => { y with bars := smMod {} y.bars b fun z =>
    { z with state := .armed, count := count, timeout := timeout, arrived := 0, ticks := 0 } }

/-- What COUNT takes of a write (Table 8.11). -/
def barCount (v : Nat) : Nat := if v = 1 then 2 else v

/-- BARRIER_ARM_WRITE: a management write of SYNC_BAR[b] +0x0 (Table 8.11): TIMEOUT and COUNT; a nonzero COUNT arms the
barrier and zeroes ARRIVED, 0 disarms it, 1 clamps to 2. A TIMED_OUT barrier takes a nonzero COUNT and stays TIMED_OUT, since only
BAR.INIT rearms it (R218; DEDUCED, assumption log 193). -/
def Block.barWrite (s : Block) (p b count timeout : Nat) : Block :=
  if count ≠ 0 ∧ ((s.syn p).bar b).state = .timedOut then
    (if count = 1 then s.clamped (.sync p) (0x100 + 12 * b) else s).modSyn p fun y => { y with bars := smMod {} y.bars b fun z =>
      { z with count := Nat.max 2 count, timeout := timeout } }
  else if count = 0 then
    s.modSyn p fun y => { y with bars := smMod {} y.bars b fun z =>
      { z with state := .disarmed, count := 0, timeout := timeout, arrived := 0, ticks := 0 } }
  else if count = 1 then (s.clamped (.sync p) (0x100 + 12 * b)).armBar p b 2 timeout
  else s.armBar p b count timeout

/-- Wait code of a waiter entry (Table 8.9); `word` is the instruction that waits: a BAR.SYNC whose arrival has no verdict yet waits as a
BAR.SYNC. -/
def Wait.survey (x : Wait) (word : Nat) : Nat :=
  match x with
  | .none => 0
  | .ctr _ => 1
  | .bar _ => 2
  | .fence => 3
  | .verdict => if bits word 54 6 = 9 then 2 else 4
  | _ => 4

/-- One waiter entry of a survey (Table 8.9). -/
def Block.surveyEntry (s : Block) (p i sl : Nat) : List Nat :=
  let t := s.slot p i sl
  let y := s.syn p
  let held : Nat × Nat := match t.wait with
    | .ctr n => (n, (((smGet [] y.ctrWaits n).find? fun w => w.core = i && w.slot = sl).map (·.value)).getD 0)
    | .bar b => (b, (((smGet [] y.barWaits b).find? fun w => w.core = i && w.slot = sl).map (·.gen)).getD 0)
    | .verdict =>
      let b := (s.barNum p sl (bits t.waitWord 41 8)).getD 0
      if bits t.waitWord 54 6 = 9 then (b, (y.bar b).gen) else (0, 0)
    | _ => (0, 0)
  leBytes 2 i ++ [sl, t.wait.survey t.waitWord] ++ leBytes 2 held.1 ++ leBytes 2 t.lcore ++ leBytes 4 held.2 ++ leBytes 2 t.job ++
    [0, 0]

/-- SYNC_BAR words of a barrier (Table 8.11). -/
def Bar.word0 (z : Bar) : Nat := z.timeout * 65536 + z.count
def Bar.word4 (z : Bar) : Nat := z.gen * 65536 + z.arrived
def Bar.word8 (z : Bar) (slot : Nat) : Nat :=
  b2n z.relEn * 2 ^ 31 + z.relCtr * 2 ^ 16 + Nat.min z.ticks 0x1FFF * 8 + slot * 4 + z.state.code

/-- The survey record of a partition (Table 8.8), captured in one instant. `trigger`: 0 command, 1 barrier timeout. -/
def Block.surveyBytes (s : Block) (p trigger barrier : Nat) : List Nat :=
  let y := s.syn p
  let lp := ((s.part p).bindP.map (·.2)).getD 0
  leBytes 8 s.merid.count ++ leBytes 2 (lp % 16 + p * 16) ++ leBytes 2 (trigger + barrier * 256) ++ leBytes 4 y.seq ++
    leBytes 4 (s.reg (.sync p) 0x040) ++ List.replicate 44 0 ++
    (List.range 4096).flatMap (fun n => leBytes 4 (y.ctr n)) ++
    (List.range 256).flatMap (fun b => leBytes 4 (y.bar b).word0 ++ leBytes 4 (y.bar b).word4 ++
      leBytes 4 ((y.bar b).word8 (s.barSlot p b))) ++
    (List.range 153).flatMap (fun i => s.surveyEntry p i 0 ++ s.surveyEntry p i 1)

/-- SYNC_SURVEY: a survey begins by command or automatic trigger (R222); one in progress counts the new trigger. -/
def Block.surveyStart (s : Block) (p trigger barrier : Nat) : Block :=
  if (s.syn p).busy then s.log (.sync p) 7
  else
    let rec' := s.surveyBytes p trigger barrier
    (s.modSyn p fun y => { y with busy := true, survey := some rec', seq := (y.seq + 1) % 2 ^ 32 }).log (.sync p) 6

/-- SURVEY_COMPLETE: the captured record is written to SURVEY_BASE, GO clears, and SURVEY_DONE or, when the write is refused
or meets an uncorrectable error, SURVEY_FAIL is raised (R222). -/
def Block.surveyDone (s : Block) (p : Nat) (uncorrectable : Bool) : Block :=
  match (s.syn p).survey with
  | none => s
  | some bs =>
    let s := s.modSyn p fun y => { y with busy := false, survey := none }
    let a := s.pair (.sync p) 0x048 0x04C 15
    if uncorrectable || !s.canAccess a bs.length then (s.raise (.sync p) 3).log (.sync p) 8
    else (s.memWrite a bs).raise (.sync p) 2

/-- BARRIER_TIMEOUT: a generation still incomplete when TIMEOUT ticks have passed, and the tick in which they did is over (Table 8.7;
DEDUCED, assumption log 146), puts the barrier in TIMED_OUT, faults its
waiters and takes a survey if AUTO is 1 (R218). A partition whose job is pre-empted does not time out (R210). -/
def Block.barTimeout (s : Block) (p b : Nat) : Block :=
  let y := (s.syn p).bar b
  if y.state = .armed ∧ y.timeout ≠ 0 ∧ y.arrived ≠ 0 ∧ y.timeout < y.ticks then
    let s := s.modSyn p fun z => { z with bars := smPut {} z.bars b { y with state := .timedOut } }
    let s := (s.log (.sync p) 3).raise (.sync p) 1
    let ws := (smGet [] (s.syn p).barWaits b).filter fun w => decide ((s.slot p w.core w.slot).wait = .bar b)
    let s := s.modSyn p fun z => { z with barWaits := smPut [] z.barWaits b [] }
    let s := ws.foldl (fun s w => (s.log (.sync p) 4).coreFault p w.core w.slot .sync (4 * 4096 + s.barOwn p w.slot b)) s
    if bit (s.reg (.sync p) 0x044) 1 then s.surveyStart p 1 b else s
  else s

/-- A tick of the barriers of a partition but those that are `held`: TICKS counts from the first arrival of a generation (R218). -/
def Sync.tick (y : Sync) (held : Nat → Bool) : Sync :=
  { y with bars := smMapVals {} y.bars fun b z =>
      if z.state = .armed ∧ z.arrived ≠ 0 ∧ held b = false then { z with ticks := z.ticks + 1 } else z }

/-- A slot's share of sync objects is cleared when a job is bound to it (R210), with the waits of the job that left. The barriers keep GEN,
REL_EN and REL_CTR (DESIGN CHOICE, assumption log 211). -/
def Block.clearShare (s : Block) (p sl : Nat) : Block :=
  let nc := s.bfCtrs p
  let nb := s.bfBars p
  let mineC (n : Nat) : Bool := if sl = 0 then decide (n < 4096 - nc) else decide (4096 - nc ≤ n)
  let mineB (b : Nat) : Bool := if sl = 0 then decide (b < 256 - nb) else decide (256 - nb ≤ b)
  s.modSyn p fun y =>
    { y with ctrs := y.ctrs.filter fun e => !mineC e.1, ctrWaits := y.ctrWaits.filter fun e => !mineC e.1,
             barWaits := y.barWaits.filter fun e => !mineB e.1,
             bars := smMapVals {} y.bars fun b z =>
               if mineB b then { z with state := .disarmed, count := 0, timeout := 0, arrived := 0, ticks := 0 } else z }

/-- An update from another package, or from this package by logical partition, finds its partition or is dropped as unbound
(R221): the partition that carries logical partition `lp` for the job, unless it has been reset since (Table 14.9). -/
def Block.remoteSync (s : Block) (job lp : Nat) (sl : Option Nat := none) : Option (Nat × Nat) × Block :=
  let unbound (p : Nat) : Option (Nat × Nat) × Block := (none, (s.log (.sync p) 5).raise (.sync p) 4)
  match s.partOf job lp sl with
  | some q => if (s.part q.1).blank then unbound q.1 else (some q, s)
  | none => unbound ((s.anyPart lp).getD 0)

end Sys2Proof.Machine
end

