-- ==== Sys2Proof/Machine/Link.lean ====
section
/-! DEFINITION. Links, routes and the issuers' side of transactions (spec/09). What arrives for this package is put into
`xu.arrived`, what ends into `xu.ended`; Fabric.lean handles both. -/

namespace Sys2Proof.Machine

def Block.link (s : Block) (n : Nat) : Link := smGet {} s.links n
def Block.modLink (s : Block) (n : Nat) (f : Link → Link) : Block := { s with links := smMod {} s.links n f }

/-- The polynomial step of a CRC-8 with polynomial 0x07 over one byte (R48). -/
def crc8Bits : Nat → Nat → Nat
  | 0, c => c
  | k + 1, c => crc8Bits k (if 128 ≤ c then (c * 2 % 256) ^^^ 7 else c * 2)

/-- CRC-8 of a list of bytes (R48): polynomial 0x07, initial value 0. -/
def crc8 (bs : List Nat) : Nat := bs.foldl (fun c b => crc8Bits 8 ((c ^^^ b) % 256)) 0

/-- A control block with its CRC-8: bytes 0 to 14 as given (padded with zeros), byte 15 the CRC. -/
def ctlBlock (bs : List Nat) : Nat :=
  let b := (bs ++ List.replicate 15 0).take 15
  leNat (b ++ [crc8 b])

/-- Byte `i` of a control block. -/
def ctlByte (b i : Nat) : Nat := b / 2 ^ (8 * i) % 256

/-- A control block's CRC-8 is right. -/
def ctlGood (b : Nat) : Bool := crc8 (leBytes 15 b) = ctlByte b 15

/-- One bit step of the reflected CRC-32 of IEEE 802.3. -/
def crc32Bits : Nat → Nat → Nat
  | 0, c => c
  | k + 1, c => crc32Bits k (if c % 2 = 1 then (c / 2) ^^^ 0xEDB88320 else c / 2)

/-- CRC-32 of a list of bytes (R234). -/
def crc32 (bs : List Nat) : Nat :=
  (bs.foldl (fun c b => (c / 256) ^^^ crc32Bits 8 ((c ^^^ b) % 256)) 0xFFFFFFFF) ^^^ 0xFFFFFFFF

/-- A link is an O-link (R14). -/
def isOlink (n : Nat) : Bool := n % 3 = 2

/-- A link is licensed (R227): E-links always; O-links by the count in force, six being those of even partitions. -/
def Block.linkLicensed (s : Block) (n : Nat) : Bool :=
  !isOlink n || s.feat.olinks = 12 || (s.feat.olinks = 6 && n / 3 % 2 = 0)

def Block.modMerid (s : Block) (f : Merid → Merid) : Block := { s with merid := f s.merid }
def Block.mlink (s : Block) (n : Nat) : MLink := smGet ({} : MLink) s.merid.links n
def Block.modMlink (s : Block) (n : Nat) (f : MLink → MLink) : Block :=
  s.modMerid fun m => { m with links := smMod ({} : MLink) m.links n f }

/-- A control block goes out on a link (R236). -/
def Block.sendCtl (s : Block) (n : Nat) (bs : List Nat) : Block := s.emit (.ctl n (ctlBlock bs))

/-- The MASTER_ID symbol (Table 2.1). -/
def Block.masterBytes (s : Block) : List Nat := [10, s.merid.masterPrio] ++ leBytes 8 s.merid.masterPuid ++ [s.merid.epoch]

/-- A package in INIT, LISTEN or CLAIM sends no MASTER_ID (R58). -/
def Merid.sendsId (m : Merid) : Bool :=
  match m.state with
  | .init => false
  | .listen => false
  | .claim => false
  | _ => true

/-- The TID space of a packet kind (Table 9.10): 0 ordered, 1 read, 2 management. -/
def kindSpace (k : Nat) : Nat :=
  match k with
  | 0x02 => 0
  | 0x03 => 0
  | 0x04 => 0
  | 0x05 => 0
  | 0x08 => 0
  | 0x09 => 0
  | 0x01 => 1
  | 0x07 => 1
  | _ => 2

/-- The space a packet belongs to; a notice names the lost packet's in OPERAND [17:16]. -/
def Pkt.space (k : Pkt) : Nat := if k.kind = 0x0B ∨ k.kind = 0x0C then k.operand / 65536 % 4 else kindSpace k.kind

/-- The packet is a notice (DROP, NOROUTE). -/
def Pkt.isNotice (k : Pkt) : Bool := k.kind = 0x0B || k.kind = 0x0C

/-- The packet travels on the management tree (Table 9.8). -/
def Pkt.isMgmt (k : Pkt) : Bool := k.space = 2

/-- The packet is a request (Table 9.10). -/
def Pkt.isRequest (k : Pkt) : Bool := decide (1 ≤ k.kind) && decide (k.kind ≤ 6)

/-- The virtual channel of a packet (Tables 9.8, 9.10). -/
def Pkt.vc (k : Pkt) : Nat :=
  if k.isMgmt then (if k.kind = 0x06 then 0 else 1)
  else if k.isRequest then 2 + k.level else 5 + k.level

/-- The far-end package of a packet's transaction, seen from its OWNER; a notice carries it (R242). -/
def Pkt.farEnd (k : Pkt) : Nat :=
  if k.isNotice then k.operand % 65536 else if k.owner = k.src then k.dst else k.src

/-- The 32-byte header (Table 9.9). -/
def Pkt.header (k : Pkt) : List Nat :=
  [k.kind, b2n k.g + b2n k.resync * 2 + k.hint * 4 + k.level * 16, k.hops, k.lpart] ++ leBytes 2 k.dst ++
    leBytes 2 k.src ++ leBytes 2 k.job ++ leBytes 2 (if k.kind = 1 then k.len else k.data.length) ++ leBytes 8 k.addr ++ leBytes 8 k.operand ++
    leBytes 4 (k.op + k.size * 8 + k.status * 256)

/-- A packet from its payload bytes (header first), its OWNER, TID and poisoned flits. -/
def Pkt.parse (bs : List Nat) (owner tid pois : Nat) : Pkt :=
  let f (a n : Nat) : Nat := leNat ((bs.drop a).take n)
  let b1 := f 1 1
  let w := f 0x1C 4
  { kind := f 0 1, g := bit b1 0, resync := bit b1 1, hint := bits b1 2 2, level := bits b1 4 2, hops := f 2 1,
    lpart := f 3 1 % 16, dst := f 4 2, src := f 6 2, owner := owner, tid := tid, job := f 8 2, addr := f 0x0C 8,
    operand := f 0x14 8, op := bits w 0 3, size := bits w 3 2, status := bits w 8 8,
    data := if f 0 1 = 1 then [] else (bs.drop 32).take (f 0x0A 2), len := f 0x0A 2, pois := pois }

/-- Number of flits of a packet (R239). -/
def Pkt.flits (k : Pkt) : Nat := 1 + (k.data.length - 208 + 239) / 240

/-- The data bytes of a packet cut at its flits, each with its place and its poison. -/
def Pkt.segments (k : Pkt) : List (Nat × List Nat × Bool) :=
  (List.range k.flits).map fun f =>
    let lo := if f = 0 then 0 else 208 + 240 * (f - 1)
    let n := if f = 0 then 208 else 240
    (lo, (k.data.drop lo).take n, bit k.pois f)

/-- The data bytes that flit `f` of a packet of `n` data bytes carries, as a range of offsets. -/
def flitSpan (n f : Nat) : Nat × Nat :=
  if f = 0 then (0, Nat.min n 208) else (208 + 240 * (f - 1), Nat.min n (208 + 240 * f))

/-- The poison mask of the flits of `n` data bytes of which those in `ranges` are poisoned (R235). -/
def flitsOf (n : Nat) (ranges : List (Nat × Nat)) : Nat :=
  (List.range (1 + (n - 208 + 239) / 240)).foldl (fun m f =>
    let x := flitSpan n f
    if ranges.any fun r => decide (r.1 < x.2) && decide (x.1 < r.2) then m + 2 ^ f else m) 0

/-- The data bytes of the flits that a poison mask marks. -/
def flitRanges (n mask : Nat) : List (Nat × Nat) :=
  ((List.range (1 + (n - 208 + 239) / 240)).filter fun f => bit mask f).map (flitSpan n)

/-- The mask that marks every flit of the packet's data from byte `a`, `n` bytes, as poisoned. -/
def Pkt.allPois (k : Pkt) : Nat := 2 ^ k.flits - 1

/-! Flits out, credits (R234, R235, R237, R238). -/

/-- The flit ends its packet. -/
def Flit.eop (f : Flit) : Bool := decide (f.idx + 1 = f.pkt.flits)

/-- The flit starts its packet. -/
def Flit.sop (f : Flit) : Bool := decide (f.idx = 0)

/-- The share of the far side's receive buffer that the flit took: its virtual channel's, or 8, the pool. -/
def Flit.share (f : Flit) : Nat := if f.pool then 8 else f.pkt.vc

/-- The packets of some flits, each with its first SEQ. -/
def packetsOf (fs : List Flit) : List (Nat × Pkt) := (fs.map fun f => (f.first, f.pkt)).eraseDups

/-- Flits in a share of a link's receive buffer (Tables 9.1, 9.7): 0 to 7 reserved to the virtual channels, 8 the pool. -/
def shareSize (n c : Nat) : Nat :=
  if c = 8 then (if isOlink n then 9728 else 288)
  else if isOlink n then 64 else if c < 2 then 16 else 32

/-- Credits left of a share of the far side's receive buffer. -/
def Link.credit (l : Link) (n c : Nat) : Nat :=
  shareSize n c - (smGet 0 l.spent c + 65536 - smGet 0 l.credits c) % 65536

/-- The share a flit of virtual channel `v` spends a credit of: its own while it has one, else the pool, for VC 2 to 7 (R237). -/
def Link.shareFor (l : Link) (n v : Nat) : Option Nat :=
  if 0 < l.credit n v then some v else if 2 ≤ v ∧ 0 < l.credit n 8 then some 8 else none

/-- The 256 bytes of a flit (Table 9.5): byte 0, SEQ, ACK, byte 5, CR_TOTAL, OWNER, TID, the payload padded with zeros, the CRC-32. -/
def flitBytes (b0 seq ack b5 total owner tid : Nat) (pay : List Nat) : List Nat :=
  let b := ([b0] ++ leBytes 2 seq ++ leBytes 2 ack ++ [b5] ++ leBytes 2 total ++ leBytes 2 owner ++ leBytes 2 tid ++ pay ++
    List.replicate 240 0).take 252
  b ++ leBytes 4 (crc32 b)

/-- Byte 5 of a flit that reports share `c` and took a pool credit or not. -/
def creditByte (c : Nat) (pool : Bool) : Nat := (if c = 8 then 8 else c % 8) + b2n pool * 16

/-- A link carries flits in this state: it runs, drains, or is quarantined. -/
def LState.runs : LState → Bool
  | .quarantine => true
  | .linkup => true
  | .retry => true
  | .sparing => true
  | .drainDisable _ => true
  | .drainQuarantine => true
  | _ => false

/-- An IDLE flit: the SEQ of the next data flit, the acknowledgement, and share `c`'s freed credits (R235). When one is sent the spec
leaves open; here after each data flit accepted and after credits are freed (DESIGN CHOICE, assumption log 139). -/
def Block.sendIdle (s : Block) (n c : Nat) : Block :=
  let l := s.link n
  if l.state.runs then
    s.emit (.flit n (flitBytes 0 l.txSeq ((l.rxSeq + 65535) % 65536) (creditByte c false) (smGet 0 l.freed c) 0 0 []))
  else s

/-- A data flit goes out (Table 9.5); it reports its own virtual channel's share (assumption log 139). -/
def Block.sendFlit (s : Block) (n : Nat) (f : Flit) : Block :=
  let l := s.link n
  let k := f.pkt
  (s.modLink n fun l => { l with flitsTx := l.flitsTx + 1 }).emit (.flit n (flitBytes
    (k.vc + b2n f.sop * 8 + b2n f.eop * 16 + b2n (bit k.pois f.idx) * 32 + 64) f.seq ((l.rxSeq + 65535) % 65536)
    (creditByte k.vc f.pool) (smGet 0 l.freed k.vc) k.owner k.tid (((k.header ++ k.data).drop (240 * f.idx)).take 240)))

/-- A packet leaves a link's receive buffer: the credits of its flits return to their shares (R237). -/
def Block.giveCredit (s : Block) (n : Nat) (shares : List Nat) : Block :=
  if 36 ≤ n then s
  else
    let s := s.modLink n fun l => { l with freed := shares.foldl (fun m c => smMod 0 m c fun v => (v + 1) % 65536) l.freed }
    shares.eraseDups.foldl (fun s c => s.sendIdle n c) s

/-- The groups of virtual channels, the first with strict priority (R238). -/
def vcGroups : List (List Nat) := [[0, 1], [5, 6, 7], [2, 3, 4]]

/-- The packet that a virtual channel sends next. -/
def Link.headOf (l : Link) (v : Nat) : Option TxPkt := l.txq.find? fun t => t.pkt.vc = v

/-- The packet whose flit goes next, with the share it spends: by group; within one the channel in the middle of a packet, else round
robin. Only a packet already begun goes on when `new` is false. -/
def Link.nextFlit (l : Link) (n : Nat) (new : Bool) : Option (TxPkt × Nat) :=
  vcGroups.findSome? fun g =>
    let from' := smGet 0 l.turn (g.headD 0)
    let mid := g.filter fun v => (l.headOf v).any fun t => decide (0 < t.sent)
    (mid ++ g.filter (from' ≤ ·) ++ g.filter (· < from')).findSome? fun v =>
      match l.headOf v with
      | none => none
      | some t => if new || decide (0 < t.sent) then (l.shareFor n v).map fun c => (t, c) else none

/-- The flit just chosen takes the next SEQ, enters the retry buffer, whose oldest flits move to the in-flight log, and spends its
credit (R235, R237, R241). -/
def Link.takeFlit (l : Link) (t : TxPkt) (f : Flit) : Link :=
  let all := l.retry ++ [f]
  let ovf := all.length - 256
  { l with txSeq := (l.txSeq + 1) % 65536, retry := all.drop ovf,
           log := (l.log ++ all.take ovf).drop (l.log.length + ovf - 16128),
           spent := smMod 0 l.spent f.share fun v => (v + 1) % 65536,
           turn := if f.eop then (let g := (vcGroups.find? fun g => g.contains t.pkt.vc).getD []
                                  smPut 0 l.turn (g.headD 0) (t.pkt.vc + 1)) else l.turn,
           txq := if f.eop then l.txq.erase t else l.txq.replace t { t with sent := t.sent + 1, first := f.first } }

/-- Flits go out while packets wait, credits last, and at most `fuel` of them. -/
def Block.pumpN (s : Block) (n : Nat) (new : Bool) : Nat → Block
  | 0 => s
  | fuel + 1 =>
    match (s.link n).nextFlit n new with
    | none => s
    | some (t, c) =>
      let seq := (s.link n).txSeq
      let f : Flit := ⟨seq, if t.sent = 0 then seq else t.first, t.sent, c = 8, t.pkt⟩
      let s := (s.modLink n fun l => l.takeFlit t f).sendFlit n f
      (if f.eop then s.giveCredit t.src t.shares else s).pumpN n new fuel

/-- A link sends what it can: data flits in LINKUP and QUARANTINE, in a drain only the rest of packets already begun (Table 9.2). -/
def Block.pump (s : Block) (n : Nat) : Block :=
  let l := s.link n
  let fuel := (l.txq.map fun t => t.pkt.flits).sum
  match l.state with
  | .linkup => s.pumpN n true fuel
  | .quarantine => s.pumpN n true fuel
  | .drainDisable _ => s.pumpN n false fuel
  | .drainQuarantine => s.pumpN n false fuel
  | _ => s

/-- A packet joins those that leave on link `n`; `src` and `shares` name the receive buffer that holds it until then. -/
def Block.txPacket (s : Block) (n src : Nat) (k : Pkt) (shares : List Nat) : Block :=
  (s.modLink n fun l => { l with txq := l.txq ++ [{ pkt := k, src := src, shares := shares }] }).pump n

/-! Routes. -/

/-- The route entry of a destination (Table 9.13); span 2,048 acts as V = 0 at PKGN 2,048 and above (R415). -/
def Block.route (s : Block) (dst : Nat) : Nat :=
  let e := (smGet 0 s.routes dst ^^^ 0x3FFFFFFF).toNat
  if !s.feat.span && decide (2048 ≤ dst) then e % 2 ^ 31 else e

/-- A package can be named by an issue (R23): its route entry has V = 1. -/
def Block.reachable (s : Block) (g : Nat) : Bool := decide (g < 49152) && bit (s.route g) 31

/-- Link is in LINKUP. -/
def Block.up (s : Block) (n : Nat) : Bool := decide (n < 36) && decide ((s.link n).state = .linkup)

/-- The candidates of an entry: (number, link, level), those 36–61 and 63 naming no link (R250). -/
def candsOf (e : Nat) : List (Nat × Nat × Nat) :=
  [(0, bits e 16 6, bits e 22 2), (1, bits e 8 6, bits e 14 2), (2, bits e 0 6, bits e 6 2)]

/-- The candidate in use: the first whose link is in LINKUP, or that delivers locally (62). -/
def Block.cand (s : Block) (dst : Nat) : Option (Nat × Nat × Nat) :=
  (candsOf (s.route dst)).find? fun c => s.up c.2.1 || c.2.1 = 62

/-- What becomes of a packet that leaves this package at ROUTE page `r` (R250). -/
inductive Hop where
  | out (link : Nat) (k : Pkt) (cand : Nat)
  | here (k : Pkt)
  | lost (cause counter : Nat)
deriving Repr

/-- The route of a packet from here (R249 to R251). A packet whose DST is this package's own is delivered locally, and so is one whose
entry names link code 62, which this package takes as its own. A quarantined link carries only this package's own management packets
to the neighbour (R232). -/
def Block.hop (s : Block) (k : Pkt) : Hop :=
  if s.isSelf k.dst then .here k
  else if 12 < k.hops + 1 then .lost 2 3
  else
    let e := s.route k.dst
    if !bit e 31 then .lost 1 2
    else if k.isMgmt then
      let m := bits e 24 6
      if m = 62 then .here { k with dst := s.pkgn }
      else if s.up m || (decide (m < 36) && decide ((s.link m).state = .quarantine) && s.isSelf k.src &&
          decide (((s.link m).peer.map (·.1)) = some k.dst)) then .out m { k with hops := k.hops + 1 } 0
      else .lost 3 4
    else match s.cand k.dst with
      | some (c, l, lv) =>
        if l = 62 then .here { k with dst := s.pkgn }
        else .out l { k with hops := k.hops + 1, level := Nat.max k.level lv } c
      | none => .lost 1 2

/-- The link a request of this package departs on is noted for its transaction (R259). -/
def Block.noteVia (s : Block) (l : Nat) (k : Pkt) : Block :=
  if k.isRequest ∧ k.owner = s.pkgn then
    { s with xu := { s.xu with outs := s.xu.outs.map fun t =>
        if t.space = k.space && t.pkt.dst = k.dst && t.pkt.tid = k.tid then { t with via := some l } else t } }
  else s

/-- A packet leaves through ROUTE page `r`, without a notice if it is lost; the result says whether it was lost. `from'` and `shares`
name the receive buffer that holds it. -/
def Block.routeOut (s : Block) (r from' : Nat) (k : Pkt) (shares : List Nat) : Bool × Block :=
  match s.hop k with
  | .out l k c =>
    let s := if c = 0 then s else ((s.raise (.route r) 0).log (.route r) (c - 1))
    (false, (s.noteVia l k).txPacket l from' k shares)
  | .here k => (false, { s with xu := { s.xu with arrived := s.xu.arrived ++ [(from', k, shares)] } })
  | .lost cause counter => (true, ((s.raise (.route r) cause).log (.route r) counter).giveCredit from' shares)

/-- A notice about a lost packet to its OWNER: kind 0x0B DROP or 0x0C NOROUTE (R242, R250). -/
def Pkt.notice (k : Pkt) (kind self : Nat) : Pkt :=
  { kind := kind, dst := k.owner, src := self, owner := k.owner, tid := k.tid, job := k.job, g := k.g,
    operand := k.farEnd + k.space * 65536 }

/-- A packet leaves; if it is lost and is no notice, a NOROUTE notice goes to its OWNER (R250). -/
def Block.send (s : Block) (r from' : Nat) (k : Pkt) (shares : List Nat := []) : Block :=
  let (lost, s) := s.routeOut r from' k shares
  if lost && !k.isNotice then (s.routeOut r 36 (k.notice 0x0C s.pkgn) []).2 else s

/-- A DROP notice for a lost packet, counted at the link (R242); a lost notice is named by the packet that it was about. -/
def Block.sendDrop (s : Block) (n : Nat) (k : Pkt) : Block := (s.log (.lnk n) 5).send n 36 (k.notice 0x0B s.pkgn)

/-! The issuer's side of transactions (R253 to R256). -/

/-- Key of a TID space of a package. -/
def spaceKey (g space : Nat) : Nat := g * 4 + space

/-- Outstanding transactions to a target in a space, and in all. -/
def Xu.outCount (x : Xu) (g space : Nat) : Nat :=
  (x.outs.filter fun t => t.pkt.dst = g && t.space = space).length

/-- An issue has room under the limits of R253. -/
def Block.xRoom (s : Block) (g space : Nat) : Bool :=
  decide (s.xu.outCount g space < 4096) && decide (s.xu.outs.length < 65536)

/-- A transaction is issued (R253): the next TID of its space, RESYNC after a REMOTE_FAIL (R256) and with the first ordered or
management request to a target since the package reset (R400), the packet sent from the
interface of partition `p`. The caller has tested `xRoom` and `reachable`. -/
def Block.xIssue (s : Block) (p : Nat) (k : Pkt) (origin : XOrigin) : Block :=
  let sp := kindSpace k.kind
  let key := spaceKey k.dst sp
  let first := sp ≠ 1 && !smGet false s.xu.synced key
  let due := smGet false s.xu.resyncDue key
  let re := first || due
  let last := smGet 0 s.xu.nextTid key
  let tid := if due then (last + 4095) % 65536 else last
  let k := { k with tid := tid, resync := re, src := s.pkgn, owner := s.pkgn, g := false, hops := 0, level := 0 }
  let s := { s with xu := { s.xu with nextTid := smPut 0 s.xu.nextTid key ((tid + 1) % 65536),
                                      resyncDue := smPut false s.xu.resyncDue key false,
                                      synced := smPut false s.xu.synced key true,
                                      outs := s.xu.outs ++ [({ pkt := k, space := sp, origin := origin, sentUs := s.timeUs } : Xact)] } }
  s.send (3 * p) 36 k

/-- A transaction is sent again with G toggled and its timer restarted (R255). -/
def Block.xReissue (s : Block) (x : Xact) (counts : Bool) : Block :=
  let k := { x.pkt with g := !x.pkt.g }
  let y : Xact := { x with pkt := k, sentUs := s.timeUs, reissues := x.reissues + b2n counts }
  let s := { s with xu := { s.xu with outs := s.xu.outs.map fun t => if t = x then y else t } }
  s.send 0 36 k

/-- A transaction ends with a response, which has come on link `n`. -/
def Block.xEnd (s : Block) (x : Xact) (n : Nat) (rsp : Pkt) : Block :=
  { s with xu := { s.xu with outs := s.xu.outs.filter (· ≠ x), ended := s.xu.ended ++ [({ x with via := some n }, rsp)] } }

/-- A transaction ends with REMOTE_FAIL (R256): so does every other of its space and target, and the next request there
carries RESYNC. `n` is the link that counts it. -/
def Block.xFail (s : Block) (x : Xact) (n : Nat) : Block :=
  let g := x.pkt.dst
  let all := s.xu.outs.filter fun t => t.pkt.dst = g && t.space = x.space
  let s := { s with xu := { s.xu with
    outs := s.xu.outs.filter (fun t => !(t.pkt.dst = g && t.space = x.space)),
    resyncDue := smPut false s.xu.resyncDue (spaceKey g x.space) true,
    ended := s.xu.ended ++ all.map fun t => (t, ({} : Pkt)) } }
  (s.raise (.lnk n) 7).logN (.lnk n) 21 all.length

/-- The outstanding transaction a response or notice names. -/
def Block.xFind (s : Block) (space target tid : Nat) : Option Xact :=
  s.xu.outs.find? fun t => t.space = space && t.pkt.dst = target && t.pkt.tid = tid

/-- RESPONSE_RECEIVE: a response reaches its issuer (R255). Late ones and those of no outstanding transaction are discarded
and counted. RESULT_LOST and reserved statuses are REMOTE_FAIL (Table 9.11, R256). -/
def Block.responseIn (s : Block) (n : Nat) (k : Pkt) : Block :=
  let n := n % 36
  match s.xFind k.space k.src k.tid with
  | none => s.log (.lnk n) 23
  | some x =>
    if k.g ≠ x.pkt.g then s.log (.lnk n) 18
    else if 4 ≤ k.status then s.xFail x n
    else s.xEnd x n k

/-- The link that counts a notice for a transaction: the one it came on, or, for one made inside the package (36), the one the request last
departed on (R259). -/
def Xact.noticeLink (x : Xact) (n : Nat) : Nat := if n < 36 then n else x.via.getD 0

/-- DROP_RECEIVE: an immediate reissue that does not count towards REISSUE_MAX (R255). -/
def Block.dropIn (s : Block) (n : Nat) (k : Pkt) : Block :=
  match s.xFind (k.operand / 65536 % 4) (k.operand % 65536) k.tid with
  | none => s.log (.lnk (n % 36)) 23
  | some x => (s.log (.lnk (x.noticeLink n)) 20).xReissue x false

/-- NOROUTE_RECEIVE: the transaction ends with REMOTE_FAIL without reissue (R250). -/
def Block.norouteIn (s : Block) (n : Nat) (k : Pkt) : Block :=
  match s.xFind (k.operand / 65536 % 4) (k.operand % 65536) k.tid with
  | none => s.log (.lnk (n % 36)) 23
  | some x => s.xFail x (x.noticeLink n)

/-- TRANSACTION_TIMEOUT of transaction `tid` of a space to a target: a reissue, or REMOTE_FAIL after REISSUE_MAX reissues
(R255), counted at the link that its request last departed on (R259); at link 0 where it never departed (assumption log 67). -/
def Block.xTimeout (s : Block) (space target tid : Nat) : Block :=
  match s.xFind space target tid with
  | none => s
  | some x =>
    let n := x.via.getD 0 % 36
    let s := s.log (.lnk n) 19
    if x.reissues < s.fld (.lnk 0) 0x068 16 4 then s.xReissue x true else s.xFail x n

/-! Link states (Table 9.3). -/

/-- A link starts afresh: sequences, buffers and credits. -/
def Link.fresh (l : Link) : Link :=
  { l with txSeq := 0, rxSeq := 0, acked := 0xFFFF, retry := [], log := [], parts := [], txq := [], turn := [], episode := false,
           replayTo := none, credits := [], spent := [], freed := [], peerDg := [],
           rxSw := [], txSw := [], periodDue := false }

/-- Link `n` starts afresh: what waited to leave on it is gone, and packets elsewhere that arrived on it hold nothing of its receive
buffer any more. -/
def Block.freshLink (s : Block) (n : Nat) : Block :=
  let ts := (s.link n).txq
  let s := s.modLink n Link.fresh
  let s : Block := { s with links := smMapVals {} s.links fun _ l =>
      { l with txq := l.txq.map fun t => if t.src = n then { t with shares := [] } else t } }
  ts.foldl (fun s t => s.giveCredit t.src t.shares) s

/-- The firmware's digest fields of this package for link `n` (Table 9.4). -/
def Block.digest (s : Block) (n : Nat) : List Nat :=
  [6, 1] ++ leBytes 4 s.bundle ++ [s.merid.period] ++ leBytes 4 (s.reg (.lnk 0) 0x064) ++
    [b2n s.alm.mapped + b2n s.feat.span * 2 + b2n (bit (s.reg (.lnk n) 0x040) 0) * 4] ++ leBytes 2 s.pkgn ++ [n]

/-- The disagreeing fields of two digests, as QUAR bits 0–6 (Table 9.4). -/
def quarBits (a b : List Nat) : Nat :=
  let d (i n : Nat) : Bool := (a.drop i).take n ≠ (b.drop i).take n
  b2n (d 1 1) + b2n (d 2 4) * 2 + b2n (d 6 1) * 4 + b2n (d 7 4) * 8 +
    b2n (bit (a.getD 11 0) 0 ≠ bit (b.getD 11 0) 0) * 16 + b2n (bit (a.getD 11 0) 1 ≠ bit (b.getD 11 0) 1) * 32 +
    b2n (!d 12 2) * 64

/-- The digests agree (R231): no disagreeing field, or the firmware bundle alone while FW_OVERRIDE is 1 on either side. -/
def digestsAgree (a b : List Nat) : Bool :=
  let q := quarBits a b
  q = 0 || (q = 2 && (bit (a.getD 11 0) 2 || bit (b.getD 11 0) 2))

/-- The package's digest agrees with the far side's last one, if one has come. -/
def Block.linkAgrees (s : Block) (n : Nat) : Bool :=
  (s.link n).peerDg = [] || digestsAgree (s.digest n) (s.link n).peerDg

/-- The compensation for a round trip in ns: half of it and the fixed symbol pipeline delay (assumption log 58). -/
def compOf (rtt : Nat) : Int := (rtt / 2 + (Config.perPart 1001).toNat % 2 ^ 16 : Nat)

/-- The jobs bound to the package's partitions. -/
def Block.boundJobs (s : Block) : List Nat :=
  ((List.range 12).flatMap fun p => ([(s.part p).bindP, (s.part p).bindB] : List (Option (Nat × Nat))).filterMap fun e => e.map (·.1)).eraseDups

/-- Meridian goes to another state (R52, R67); the jobs bound while it was OUT_OF_STEP stay out of tick-bound collectives until their
step boundary (R59). -/
def Block.setMerid (s : Block) (st : MState) : Block :=
  let old := s.merid.state
  let s := s.modMerid fun m =>
    { m with state := st, stateTicks := 0, lockStreak := 0, refLast := none, refExpired := false,
             epochKnown := false, adopted := false, idTaken := false,
             refState := if st = .master then .freeRun else .notMaster }
  let s := (s.raise .merid 0).trace 5 (Page.merid.addr 0) [old.code, st.code]
  let s : Block := if old = .outOfStep then { s with coll := { s.coll with absentJobs := (s.coll.absentJobs ++ s.boundJobs).eraseDups } } else s
  let s : Block := match st with
    | .locked => { s with coll := { s.coll with back := true } }
    | .master => { s with coll := { s.coll with back := true } }
    | .outOfStep => { s with coll := { s.coll with back := false } }
    | _ => s
  if st = .outOfStep then (s.raise .merid 2).log .merid 4 else s

/-- A link enters LINKUP: it is unconfirmed again, and MASTER_ID goes out on it (R58). After its training (`trained`) its compensation
is the measured one, and INIT ends (R50, R52). -/
def Block.linkUp (s : Block) (n : Nat) (trained : Bool) : Block :=
  let s := if trained then s.modMlink n fun _ => { comp := compOf (s.link n).rtt } else s.modMlink n fun l => { l with mid := none }
  let s := if s.merid.sendsId then s.sendCtl n s.masterBytes else s
  if trained ∧ s.merid.state = .init then s.setMerid .listen else s

/-- The digests differ in the tick period alone, and one side is known to switch to the other's: this one has switched and waits for the
far side's block, or its armed switch is to the period that the far side has come to (R258, assumption log 176). -/
def Block.periodWaits (s : Block) (n : Nat) : Bool :=
  let l := s.link n
  let mine := s.digest n
  digestsAgree (mine.set 6 (l.peerDg.getD 6 0)) l.peerDg &&
    (l.periodDue || (bit (s.reg .merid 0x04C) 31 && decide (l.peerDg.getD 6 0 = s.fld .merid 0x044 16 8)))

/-- A LINKUP link stays up. -/
def Block.linkKeeps (s : Block) (n : Nat) : Bool := s.linkAgrees n || s.periodWaits n

/-- A link's state changes: STATE_CHANGE, and the Eyepiece's source 7 (R228, R437). -/
def Block.enterLink (s : Block) (n : Nat) (st : LState) : Block :=
  let old := (s.link n).state
  ((s.modLink n fun l => { l with state := st, nakAt := if st = .sparing then none else l.nakAt }).raise (.lnk n) 0).trace 7 ((Page.lnk n).addr 0) [old.code, st.code]

/-- Packets that wait to leave on link `n` and have not begun are routed again (R246, R248). -/
def Block.requeue (s : Block) (n : Nat) : Block :=
  let ts := (s.link n).txq.filter fun t => decide (t.sent = 0)
  let s := s.modLink n fun l => { l with txq := l.txq.filter fun t => decide (t.sent ≠ 0) }
  ts.foldl (fun s t => s.send n t.src { t.pkt with hops := t.pkt.hops - 1 } t.shares) s

/-- A link goes to another state. LINKUP with a digest that has ceased to agree is drained at once (R232). -/
def Block.setLink (s : Block) (n : Nat) (st : LState) : Block :=
  let old := (s.link n).state
  if old = st then s
  else
    let s := s.enterLink n st
    match st with
    | .linkup =>
      if s.linkKeeps n then (s.linkUp n (old = .digest || old = .quarantine)).pump n
      else (s.enterLink n .drainQuarantine).requeue n
    | .drainDisable _ => s.requeue n
    | .drainQuarantine => s.requeue n
    | _ => s

/-- A field of Table 9.4 has changed for link `n` (R230): at or beyond DIGEST the block goes out; a LINKUP link that no longer agrees is
drained to QUARANTINE, a quarantined one that agrees comes up (R228, R232). -/
def Block.digestAt (s : Block) (n : Nat) : Block :=
  let st := (s.link n).state
  if st.code < 4 ∨ 9 < st.code then s
  else
    let s := s.sendCtl n (s.digest n)
    if (s.link n).peerDg = [] then s
    else
      let s := s.modLink n fun l => { l with quar := quarBits (s.digest n) l.peerDg }
      match st with
      | .linkup => if s.linkKeeps n then s else s.setLink n .drainQuarantine
      | .quarantine => if s.linkAgrees n then s.setLink n .linkup else s
      | _ => s

/-- A package-wide field of Table 9.4 has changed (R230). -/
def Block.digestChanged (s : Block) : Block := (List.range 36).foldl (fun s n => s.digestAt n) s

/-- Flits that a link leaves behind (R246): whole packets still in the retry buffer go out again on their new routes, and so do those
that had not begun; every other packet in the in-flight log is noticed, and so is one of which only a part was sent (assumption log 140);
partial packets received are discarded and their credits freed (R237). -/
def Block.failover (s : Block) (n : Nat) : Block :=
  let l := s.link n
  let whole (x : Nat × Pkt) : Bool :=
    (l.retry.any fun f => f.first = x.1 && f.sop) && l.retry.any fun f => f.first = x.1 && f.eop
  let ps := packetsOf (l.log ++ l.retry)
  let begun := l.txq.filter fun t => decide (t.sent ≠ 0)
  let lost := (ps.filter (fun x => !whole x) ++ begun.map fun t => (t.first, t.pkt)).eraseDups
  let s := s.modLink n fun l => { l with retry := [], log := [], parts := [], episode := false, replayTo := none,
                                         txq := l.txq.filter fun t => decide (t.sent = 0) }
  let s := s.logN (.lnk n) 13 l.parts.length
  let s := s.giveCredit n (l.parts.map fun e => e.2.shares).flatten
  let s := begun.foldl (fun s t => s.giveCredit t.src t.shares) s
  let s := lost.foldl (fun s x => s.sendDrop n x.2) s
  let s := (ps.filter whole).foldl (fun s x => s.send n 36 { x.2 with hops := x.2.hops - 1 }) s
  s.requeue n

/-- A link fails (R245, R246). `reason` is the LINK_DOWN reason, none when the far side reported it. -/
def Block.linkFail (s : Block) (n : Nat) (reason : Option Nat) : Block :=
  let s := s.setLink n .failed
  let s := s.modLink n fun l => { l with failUs := s.timeUs }
  let s := (s.raise (.lnk n) 3).log (.lnk n) 9
  let s := match reason with
    | some r => s.sendCtl n [9, r]
    | none => s
  s.failover n

/-- A link is in LINKUP, RETRY or SPARING. -/
def LState.live : LState → Bool
  | .linkup => true
  | .retry => true
  | .sparing => true
  | _ => false

/-- LINK_ENABLE: HDR_CTL.ENABLE written 1 (R227, R228). -/
def Block.linkEnable (s : Block) (n : Nat) : Block :=
  if !s.linkLicensed n then
    if (s.hdr (.lnk n)).enaW = some true then s else s.clamped (.lnk n) 0x00C
  else
    let s := s.modHdr (.lnk n) fun h => { h with enaW := some true }
    match (s.link n).state with
    | .disabled => (s.freshLink n).setLink n .detect
    | .drainDisable _ => s.modLink n fun l => { l with state := .drainDisable true }
    | _ => s

/-- LINK_DISABLE: HDR_CTL.ENABLE written 0 (R228, R248). A drain to QUARANTINE is cut short: the link is DISABLED at once. -/
def Block.linkDisable (s : Block) (n : Nat) : Block :=
  let s := s.modHdr (.lnk n) fun h => { h with enaW := some false }
  match (s.link n).state with
  | .linkup => s.setLink n (.drainDisable false)
  | .retry => s.setLink n (.drainDisable false)
  | .sparing => s.setLink n (.drainDisable false)
  | .drainQuarantine => (s.setLink n .disabled).failover n
  | .drainDisable _ => s.modLink n fun l => { l with state := .drainDisable false }
  | _ => s.setLink n .disabled

/-- VREG[p][r] is number 4p + r, VREG[r] number 48 + r. -/
def Block.vrg (s : Block) (k : Nat) : Vreg := smGet {} s.vregs k
def Block.modVreg (s : Block) (k : Nat) (f : Vreg → Vreg) : Block := { s with vregs := smMod {} s.vregs k f }

/-- While a park waits for its links: once none drains, VCORE, VHBM, VCAP, VLINK_E and VLINK_O are turned off; VHUB stays on until the
record is written, and the data plane acts no more (Table 13.5). -/
def Block.parkRails (s : Block) : Block :=
  if s.helio.gauge ≠ .parking || (List.range 36).any fun n => (match (s.link n).state with
      | .drainDisable _ => true
      | .drainQuarantine => true
      | _ => false) then s
  else
    let s := (List.range 52).foldl (fun s k => s.modVreg k fun x => { x with on := false }) s
    { s with boot := { s.boot with power := .parked } }

/-- LINK_DRAIN_END: the drain's wait is over; unacknowledged flits are handled as in R246 (R248). In a park LINK_DOWN with reason 3
follows the drain (Table 13.5). -/
def Block.linkDrainEnd (s : Block) (n : Nat) : Block :=
  match (s.link n).state with
  | .drainDisable re =>
    let s := if s.helio.gauge = .parking then s.sendCtl n [9, 3] else s
    let s := (((s.setLink n .disabled).failover n).raise (.lnk n) 6).parkRails
    if re && s.helio.gauge ≠ .parking then (s.freshLink n).setLink n .detect else s
  | .drainQuarantine => (((s.setLink n .quarantine).failover n).raise (.lnk n) 4).log (.lnk n) 11
  | _ => s

/-- A link's failure shows (R245): in LINKUP, RETRY and SPARING it fails; a drain ends at once (R258), in DISABLED where ENABLE was
written 0, else in FAILED, as a failed link can carry no management packet (DEDUCED, assumption log 141). -/
def Block.linkLost (s : Block) (n : Nat) (reason : Option Nat) : Block :=
  match (s.link n).state with
  | .drainDisable _ => s.linkDrainEnd n
  | .drainQuarantine => s.linkFail n reason
  | st => if st.live then s.linkFail n reason else s

/-- LINK_SIGNAL_DETECT: signal on the receive lanes of `mask` (Table 9.3). -/
def Block.linkSignal (s : Block) (n mask : Nat) : Block :=
  if (s.link n).state = .detect ∧ 16 ≤ popcount mask 18 then s.setLink n .train else s

/-- Spares of a direction after training: each untrained lane 0–15 takes the next trained spare, 16 first (R226). -/
def trainSpares (mask : Nat) : SMap Nat :=
  let bad := (List.range 16).filter fun l => !bit mask l
  let free := ([16, 17] : List Nat).filter fun l => bit mask l
  (bad.zip free).foldl (fun m e => smPut 0 m e.2 (e.1 + 1)) []

/-- LINK_TRAIN_DONE: the lanes trained in each direction (Table 9.3, R229). -/
def Block.linkTrained (s : Block) (n rx tx : Nat) : Block :=
  if (s.link n).state ≠ .train then s
  else if popcount rx 18 < 16 ∨ popcount tx 18 < 16 then
    let s := ((s.setLink n .failed).raise (.lnk n) 5).log (.lnk n) 10
    s.modLink n fun l => { l with failUs := s.timeUs }
  else
    let s := s.modLink n fun l => { l with
      rxBad := 0x3FFFF - rx % 2 ^ 18, txBad := 0x3FFFF - tx % 2 ^ 18, rxLane := trainSpares rx, txLane := trainSpares tx }
    let s := if rx % 2 ^ 18 = 0x3FFFF ∧ tx % 2 ^ 18 = 0x3FFFF then s
      else s.almDue (.lanes n (0x3FFFF - rx % 2 ^ 18) (0x3FFFF - tx % 2 ^ 18))
    s.setLink n .align

/-- LINK_TRAIN_TIMEOUT: TRAIN, ALIGN with LNK_PKGN assigned, or DIGEST ran beyond its limit (R229). -/
def Block.linkTrainTimeout (s : Block) (n : Nat) : Block :=
  match (s.link n).state with
  | .train => (((s.setLink n .failed).raise (.lnk n) 5).log (.lnk n) 10).modLink n fun l => { l with failUs := s.timeUs }
  | .align =>
    if s.pkgn = 0xFFFF then s
    else ((s.setLink n .failed).log (.lnk n) 10).modLink n fun l => { l with failUs := s.timeUs }
  | .digest => ((s.setLink n .failed).log (.lnk n) 10).modLink n fun l => { l with failUs := s.timeUs }
  | _ => s

/-- LINK_ALIGN_DONE: deskew done and the round trip measured; the link leaves ALIGN once LNK_PKGN is assigned (R228). -/
def Block.linkAligned (s : Block) (n rtt : Nat) : Block :=
  if (s.link n).state ≠ .align then s
  else
    let s := s.modLink n fun l => { l with rtt := Nat.min rtt 65535 }
    if s.pkgn = 0xFFFF then s
    else
      let s := (s.freshLink n).setLink n .digest
      s.sendCtl n (s.digest n)

/-- DIGEST_RECEIVE: a DIGEST control block arrives (R231). -/
def Block.digestIn (s : Block) (n b : Nat) : Block :=
  if !ctlGood b || ctlByte b 0 ≠ 6 then s.log (.lnk n) 12
  else
    let bs := leBytes 15 b
    let mine := s.digest n
    let f (i k : Nat) : Nat := leNat ((bs.drop i).take k)
    let agree := digestsAgree mine bs
    let s := s.modLink n fun l => { l with
      peer := some (f 12 2, bs.getD 14 0 % 64, f 2 4, f 7 4), quar := quarBits mine bs, peerDg := bs, periodDue := false }
    match (s.link n).state with
    | .digest =>
      if agree then s.setLink n .linkup
      else ((s.setLink n .quarantine).raise (.lnk n) 4).log (.lnk n) 11
    | .quarantine => if agree then s.setLink n .linkup else s
    | .linkup => if s.linkKeeps n then s else s.setLink n .drainQuarantine
    | _ => s

/-- PKGN_WRITE: a management write of LNK_PKGN (`sysid` false) or LNK_SYSID through page `n` (R233, R415). -/
def Block.pkgnWrite (s : Block) (n : Nat) (sysid : Bool) (v : Nat) : Block :=
  let o := if sysid then 0x064 else 0x060
  let old := s.reg (.lnk 0) o
  let beyond := (List.range 36).any fun k => decide (4 ≤ (s.link k).state.code) && decide ((s.link k).state.code ≤ 9)
  let bad := !sysid && decide (0xC000 ≤ v % 65536) && decide (v % 65536 ≤ 0xFFFE)
  let v' := if sysid then v % 2 ^ 32 else if bad then 0xBFFF else v % 65536
  let span := !sysid && !s.feat.span && decide (2048 ≤ v') && decide (v' ≤ 49151)
  if beyond || span then (if v' = old then s else s.clamped (.lnk n) o)
  else
    let s := if bad then s.clamped (.lnk n) o else s
    if v' = old then s else (s.setReg (.lnk 0) o v').digestChanged

/-! Flits, retry and sparing. -/

/-- A receiver asks for a replay from the SEQ it expects (R241). -/
def Block.sendNak (s : Block) (n : Nat) : Block :=
  let s := s.modLink n fun l => { l with episode := true }
  let s := if (s.link n).state = .linkup then s.setLink n .retry else s
  (s.log (.lnk n) 2).sendCtl n ([3] ++ leBytes 2 (s.link n).rxSeq)

/-- A link leaves RETRY once neither its receive path has an episode open nor its transmit path a replay (Table 9.3). -/
def Block.retryDone (s : Block) (n : Nat) : Block :=
  let l := s.link n
  if l.state = .retry ∧ l.episode = false ∧ l.replayTo = none then s.setLink n .linkup else s

/-- An acknowledgement reaches the sender (R235): flits up to `ack` leave the buffers, and a replay that it covers ends. -/
def Block.ackIn (s : Block) (n ack : Nat) : Block :=
  let l := s.link n
  let dropTo (fs : List Flit) : List Flit :=
    if fs.any (fun f => f.seq = ack) then (fs.dropWhile fun f => f.seq ≠ ack).drop 1 else fs
  let inRetry := l.retry.any fun f => f.seq = ack
  let s := s.modLink n fun l =>
    { l with acked := ack, log := if inRetry then [] else dropTo l.log, retry := dropTo l.retry }
  match l.replayTo with
  | some t =>
    if (s.link n).retry.any (fun f => f.seq = t) then s
    else (s.modLink n fun l => { l with replayTo := none }).retryDone n
  | none => s

/-- A data flit accepted in order on virtual channel `v`, of share `c`, joins its channel's packet (R239); a whole packet joins
`xu.arrived`, and a flit of no packet leaves the buffer at once. -/
def Block.flitData (s : Block) (n v c owner tid : Nat) (sop eop pois : Bool) (pay : List Nat) : Block :=
  let l := s.link n
  let old := smGet {} l.parts v
  let s := if sop && decide (old.flits ≠ 0) then (s.log (.lnk n) 13).giveCredit n old.shares else s
  if !sop && decide (old.flits = 0) then s.giveCredit n [c]
  else
    let x : Partial := if sop then ⟨pay, b2n pois, 1, [c]⟩
      else ⟨old.bytes ++ pay, old.pois + b2n pois * 2 ^ old.flits, old.flits + 1, old.shares ++ [c]⟩
    let s := s.modLink n fun l => { l with parts := smPut {} l.parts v (if eop then {} else x) }
    if eop then { s with xu := { s.xu with arrived := s.xu.arrived ++ [(n, Pkt.parse x.bytes owner tid x.pois, x.shares)] } } else s

/-- The physical lane a logical lane runs on in a direction's map. -/
def physLane (m : SMap Nat) (l : Nat) : Nat :=
  if smGet 0 m 16 = l + 1 then 16 else if smGet 0 m 17 = l + 1 then 17 else l

/-- A direction's map once the spares of `sw` are switched in. -/
def lanesAfter (m : SMap Nat) (sw : List (Nat × Nat × Nat)) : SMap Nat :=
  sw.foldl (fun m e =>
    let ph := physLane m e.2.1
    smPut 0 (if ph = e.2.1 then m else smPut 0 m ph 0) e.2.2 (e.2.1 + 1)) m

/-- Both directions of a link switch the spares that SPARE named (R244). -/
def Link.switchLanes (k : Link) : Link :=
  { k with rxLane := lanesAfter k.rxLane k.rxSw, txLane := lanesAfter k.txLane k.txSw, rxSw := [], txSw := [] }

/-- Flits go out again from a SEQ (R242). -/
def Block.replay (s : Block) (n : Nat) (fs : List Flit) : Block :=
  let s := fs.foldl (fun s f => s.sendFlit n f) (s.log (.lnk n) 3)
  s.modLink n fun l => { l with replayTo := (fs.getLast?).map (·.seq) }

/-- Packets with a flit among `gone` are lost (R242): what is left of them to send goes too, the credits of the skipped flits, which the
far side never took, are the sender's again (DEDUCED, assumption log 143), and a DROP notice goes to each OWNER. -/
def Block.skipLost (s : Block) (n : Nat) (gone : List Flit) : Block :=
  let ks := packetsOf gone
  let cut := (s.link n).txq.filter fun t => t.sent ≠ 0 && ks.contains (t.first, t.pkt)
  let s := s.modLink n fun l =>
    { l with txq := l.txq.filter fun t => !cut.contains t,
             spent := gone.foldl (fun m f => smMod 0 m f.share fun v => (v + 65535) % 65536) l.spent }
  let s := cut.foldl (fun s t => s.giveCredit t.src t.shares) s
  ks.foldl (fun s k => s.sendDrop n k.2) s

/-- The far side expects SEQ `q`: a replay from there, or a SKIP (R242). A NAK of the next new SEQ asks for nothing. -/
def Block.nakDo (s : Block) (n q : Nat) : Block :=
  let l := s.link n
  if l.retry.any (fun f => f.seq = q) then s.replay n (l.retry.dropWhile fun f => f.seq ≠ q)
  else if q = l.txSeq then s.retryDone n
  else
    let kept := l.retry.dropWhile fun f => !f.sop
    let r := match kept.head? with
      | some f => f.seq
      | none => l.txSeq
    let gone := l.log.dropWhile (fun f => f.seq ≠ q) ++ l.retry.takeWhile fun f => !f.sop
    let s := (s.log (.lnk n) 4).sendCtl n ([4] ++ leBytes 2 q ++ leBytes 2 r)
    let s := s.modLink n fun l => { l with log := [], retry := kept }
    let s := s.skipLost n gone
    if kept.isEmpty then s.retryDone n else s.replay n kept

/-- NAK_RECEIVE: the far side expects SEQ `q` (R242). A link in SPARING replays once the spare is switched (Table 9.3). -/
def Block.nakIn (s : Block) (n q : Nat) : Block :=
  let st := (s.link n).state
  if !st.runs then s
  else if st = .sparing then s.modLink n fun l => { l with nakAt := some q }
  else (if st = .linkup then s.setLink n .retry else s).nakDo n q

/-- The spare of a link in SPARING is switched: both maps change, and the link goes to RETRY, replaying from the flit that a NAK named
(Table 9.3, R244). -/
def Block.switched (s : Block) (n : Nat) : Block :=
  let nak := (s.link n).nakAt
  let s := (s.modLink n fun l => { l.switchLanes with nakAt := none }).setLink n .retry
  match nak with
  | some q => s.nakDo n q
  | none => s

/-- FLIT_RECEIVE: a 256-byte flit arrives on link `n`, or an uncorrectable codeword in its place (R234, R235, R241). A good flit on a
link in SPARING, where no new data flit moves SEQ on, shows that the spare is in use: both maps switch then, but not at a data flit whose
SEQ lies before the switch SEQ, which was in flight (assumption log 56). An IDLE flit with the SEQ expected ends an episode too, as nothing is missing
(DEDUCED, assumption log 142). -/
def Block.flitIn (s : Block) (n : Nat) (bs : List Nat) (badCodeword : Bool) : Block :=
  let st := (s.link n).state
  if !st.runs then s
  else
    let f (a k : Nat) : Nat := leNat ((bs.drop a).take k)
    if badCodeword || crc32 (bs.take 252) ≠ f 252 4 then
      (s.log (.lnk n) (if badCodeword then 1 else 0)).sendNak n
    else
      let early := bits (f 0 1) 6 2 = 1 && (s.link n).rxSw.any fun e => decide (2 ^ 15 ≤ (f 1 2 + 2 ^ 16 - e.1) % 2 ^ 16)
      let s := if st = .sparing && !early then s.switched n else s
      let b0 := f 0 1
      let b5 := f 5 1
      let s := s.modLink n fun l => { l with credits := smPut 0 l.credits (if bit b5 3 then 8 else b5 % 8) (f 6 2) }
      let s := s.ackIn n (f 3 2)
      let expected := decide (f 1 2 = (s.link n).rxSeq)
      if bits b0 6 2 ≠ 1 then
        (if expected && decide (bits b0 6 2 = 0) then (s.modLink n fun l => { l with episode := false }).retryDone n else s).pump n
      else if !expected then (if (s.link n).episode then s else s.sendNak n)
      else
        let s := s.modLink n fun l =>
          { l with rxSeq := (l.rxSeq + 1) % 65536, episode := false, flitsRx := l.flitsRx + 1 }
        let s := s.retryDone n
        let s := if bit b0 5 then s.observePoison (.lnk n) else s
        let c := if bit b5 4 then 8 else b0 % 8
        let s := s.flitData n (b0 % 8) c (f 8 2) (f 10 2) (bit b0 3) (bit b0 4) (bit b0 5) ((bs.drop 12).take 240)
        (s.sendIdle n c).pump n

/-- SKIP_RECEIVE: the sender resumes at SEQ `r`; every partial packet is discarded, and its credits are freed (R242). -/
def Block.skipIn (s : Block) (n r : Nat) : Block :=
  if !(s.link n).state.runs then s
  else
    let ps := (s.link n).parts
    let s := s.logN (.lnk n) 13 ps.length
    let s := s.modLink n fun l => { l with parts := [], rxSeq := r % 65536 }
    s.giveCredit n (ps.map fun e => e.2.shares).flatten

/-- The receiver spares logical lane `l` of link `n` (R244): the lowest free good spare takes it, or the link fails. -/
def Block.spareLane (s : Block) (n l counter : Nat) : Block :=
  let k := s.link n
  let map := lanesAfter k.rxLane k.rxSw
  let bad := setBit1 k.rxBad (physLane map l)
  let free := ([16, 17] : List Nat).find? fun x => smGet 0 map x = 0 && !bit bad x
  let s := s.modLink n fun k => { k with rxBad := bad }
  let s := s.almDue (.lanes n bad (s.link n).txBad)
  match free with
  | none => ((s.setLink n .sparing).raise (.lnk n) 2).linkFail n (some 2)
  | some x =>
    let (fr, s) := s.fresh
    let sw := ((s.link n).rxSeq + (s.link n).rtt * 25 / 16 + 1 + fr % 256) % 65536
    let s := s.modLink n fun k => { k with rxSw := k.rxSw ++ [(sw, l, x)] }
    let s := ((s.setLink n .sparing).raise (.lnk n) 1).log (.lnk n) counter
    s.sendCtl n ([5, 0, l, x] ++ leBytes 2 sw)

/-- RETRY_EPISODE_TIMEOUT: an episode exceeded its budget; `lane` had the most uncorrectable codewords, if any lane is named
(R243, R245). -/
def Block.episodeTimeout (s : Block) (n : Nat) (lane : Option Nat) : Block :=
  if (s.link n).state ≠ .retry ∨ !(s.link n).episode then s
  else
    let s := s.log (.lnk n) 6
    match lane with
    | some l => s.spareLane n (l % 16) 7
    | none => (s.setLink n .sparing).linkFail n (some 1)

/-- LANE_LOCK_LOST: logical lanes of the receive path lose lock, or had 4 of their last 8 codewords uncorrectable, which the FEC decoder
alone sees (assumption log 144) (R244, R245): one or two are spared and replay follows, more fail the link. -/
def Block.lockLost (s : Block) (n : Nat) (lanes : List Nat) : Block :=
  if 2 < lanes.length then s.linkLost n (some 1)
  else if !(s.link n).state.live then s
  else
    let s := lanes.foldl (fun s l => if (s.link n).state.live then s.spareLane n (l % 16) 7 else s) s
    if (s.link n).state.live then
      (s.modLink n fun l => { l with episode := true }).log (.lnk n) 2 |>.sendCtl n ([3] ++ leBytes 2 (s.link n).rxSeq)
    else s

/-- LANE_PROACTIVE_SPARE: a lane corrected more than 65,535 symbols in a 1,024-tick period while PRE_SPARE is 1 (R244). -/
def Block.proactive (s : Block) (n l : Nat) : Block :=
  let st := (s.link n).state
  if bit (s.reg (.lnk n) 0x040) 2 && (st = .linkup || st = .retry) then s.spareLane n (l % 16) 8 else s

/-- SPARE_RECEIVE: the far side's receive path spares a lane of this transmit path (R244). -/
def Block.spareIn (s : Block) (n b : Nat) : Block :=
  if !ctlGood b || ctlByte b 0 ≠ 5 then s.log (.lnk n) 12
  else if !(s.link n).state.live then s
  else
    let l := ctlByte b 2 % 16
    let x := if ctlByte b 3 = 17 then 17 else 16
    let s := s.modLink n fun k =>
      { k with txBad := setBit1 k.txBad (physLane (lanesAfter k.txLane k.txSw) l),
               txSw := k.txSw ++ [(ctlByte b 4 + ctlByte b 5 * 256, l, x)] }
    (s.setLink n .sparing).raise (.lnk n) 1

/-- LINK_DOWN_RECEIVE (R245). -/
def Block.linkDownIn (s : Block) (n : Nat) : Block :=
  s.linkLost n none

/-- LINK_RETRAIN and LINK_RETRAIN_TIMER: a failed link goes to DETECT (Table 9.3). -/
def Block.linkRetrain (s : Block) (n : Nat) : Block :=
  if (s.link n).state = .failed then (s.freshLink n).setLink n .detect else s

/-- LINK_RETRAIN_TIMER: RETRAIN_S seconds in FAILED have passed; 0 never retrains. -/
def Block.linkRetrainTimer (s : Block) (n : Nat) : Block :=
  if s.fld (.lnk n) 0x040 8 8 = 0 then s else s.linkRetrain n

/-- ROUTE_ENTRY with codes 36–61 taken as 63 and level 3 as 2 (Table 9.22); bit 30 is reserved. -/
def cleanRoute (v : Nat) : Nat :=
  let lk (x : Nat) : Nat := if 36 ≤ x ∧ x ≤ 61 then 63 else x
  let lv (x : Nat) : Nat := if x = 3 then 2 else x
  bits v 31 1 * 2 ^ 31 + lk (bits v 24 6) * 2 ^ 24 + lv (bits v 22 2) * 2 ^ 22 + lk (bits v 16 6) * 2 ^ 16 +
    lv (bits v 14 2) * 2 ^ 14 + lk (bits v 8 6) * 2 ^ 8 + lv (bits v 6 2) * 2 ^ 6 + lk (bits v 0 6)

/-- AUTOINC after an access to ROUTE_ENTRY of page `n` (Table 9.22). -/
def Block.routeInc (s : Block) (n : Nat) : Block :=
  if s.fld (.route n) 0x040 31 1 = 1 then
    s.setFld (.route n) 0x040 0 16 (Nat.min (s.fld (.route n) 0x040 0 16 + 1) 49151)
  else s

/-- ROUTE_ENTRY_WRITE: the entry that ROUTE_IDX of page `n` selects is written in every copy (R249, R260). -/
def Block.routeWrite (s : Block) (n v : Nat) : Block :=
  let d := s.fld (.route n) 0x040 0 16
  let c := cleanRoute v
  let s := if c = v % 2 ^ 30 + v / 2 ^ 31 % 2 * 2 ^ 31 then s else s.clamped (.route n) 0x044
  let s := { s with routes := smPut 0 s.routes d (BitVec.ofNat 32 c ^^^ 0x3FFFFFFF) }
  (s.log (.route n) 5).routeInc n

end Sys2Proof.Machine
end

