-- ==== Sys2Proof/Machine/Dma.lean ====
section
/-! DEFINITION. DMA engines, descriptors, translation faults and their queue (spec/07, R172 to R180). -/

namespace Sys2Proof.Machine

def Block.eng (s : Block) (p j : Nat) : Engine := smGet {} s.engs (engKey p j)
def Block.modEng (s : Block) (p j : Nat) (f : Engine → Engine) : Block :=
  { s with engs := smMod {} s.engs (engKey p j) f }

/-- A channel of an engine: 0 primary, 1 backfill. -/
def Engine.chan (e : Engine) (ch : Nat) : Chan := if ch = 0 then e.pri else e.bf
def Engine.setChan (e : Engine) (ch : Nat) (c : Chan) : Engine := if ch = 0 then { e with pri := c } else { e with bf := c }
def Block.chan (s : Block) (p j ch : Nat) : Chan := (s.eng p j).chan ch
def Block.modChan (s : Block) (p j ch : Nat) (f : Chan → Chan) : Block :=
  s.modEng p j fun e => e.setChan ch (f (e.chan ch))

/-- Descriptor `k` of those that lists hold and that have not completed, oldest first: its list, `next` being its index. -/
def descAt : List XList → Nat → Option XList
  | [], _ => none
  | l :: _, 0 => some l
  | l :: t, k + 1 => if l.next + (k + 1) < l.count then some { l with next := l.next + (k + 1) } else descAt t (k + 1 - (l.count - l.next))

/-- Lists with their first `k` uncompleted descriptors alone. -/
def keepLists : List XList → Nat → List XList
  | [], _ => []
  | l :: t, k =>
    if k = 0 then [] else if l.count - l.next ≤ k then l :: keepLists t (k - (l.count - l.next)) else [{ l with count := l.next + k }]

/-- The started descriptors of a channel, oldest first. -/
def Chan.started (c : Chan) : List Desc := c.out ++ c.cur.toList

/-- The list of the current descriptor, `next` being its index; with none under way, that of the descriptor to start next. -/
def Chan.curList (c : Chan) : Option XList := descAt c.lists c.out.length

/-- The place among the started descriptors of the one with number `id`. -/
def Chan.pos (c : Chan) (id : Nat) : Option Nat := c.started.findIdx? fun d => decide (d.id = id)

/-- A change of the started descriptor with number `id`. -/
def Chan.modDesc (c : Chan) (id : Nat) (f : Desc → Desc) : Chan :=
  let g (d : Desc) : Desc := if d.id = id then f d else d
  { c with out := c.out.map g, cur := c.cur.map g }

def Block.modDesc (s : Block) (p j ch id : Nat) (f : Desc → Desc) : Block := s.modChan p j ch fun c => c.modDesc id f

/-- HDR_CTL.ENABLE of a DMA page; it resets to 1. -/
def Block.engOn (s : Block) (p j : Nat) : Bool := (s.hdr (.dma p j)).enaW ≠ some false

/-- The channel status word (Table 7.8). -/
def Block.chanWord (s : Block) (p j ch : Nat) : Nat :=
  let c := s.chan p j ch
  let st := match c.state with
    | .parked => 2
    | .stopped => 3
    | .saved => 5
    | .normal => if c.lists.isEmpty then 0 else if (s.hdr (.dma p j)).draining then 4 else 1
  st * 2 ^ 29 + c.lists.length * 2 ^ 24 + c.lastStatus * 2 ^ 16 + c.done % 65536

/-- Lists of a slot that are outstanding on a channel (R187). -/
def Chan.listsOf (c : Chan) (core : Nat) : Nat := (c.lists.filter fun l => l.core = core).length

/-! Descriptors (Table 7.2). -/

/-- `n` bytes of a descriptor at `a`, as a number. -/
def dF (b : List Nat) (a n : Nat) : Nat := leNat ((b.drop a).take n)

/-- A 32-bit number as a signed value. -/
def signed32 (n : Nat) : Int := if n < 2 ^ 31 then n else (n : Int) - 2 ^ 32

def dOp (b : List Nat) : Nat := dF b 0 1
def dSrcKind (b : List Nat) : Nat := dF b 1 1 % 16
def dDstKind (b : List Nat) : Nat := dF b 1 1 / 16
def dSrcHint (b : List Nat) : Nat := dF b 2 1 % 4
def dDstHint (b : List Nat) : Nat := dF b 2 1 / 4 % 4
def dEsz (b : List Nat) : Nat := 2 ^ (dF b 2 1 / 16 % 8)
def dFence (b : List Nat) : Bool := bit (dF b 2 1) 7
def dPost (b : List Nat) : Bool := bit (dF b 4 1) 7
def dBatch (b : List Nat) : Nat := dF b 4 1 % 64
def dRowBytes (b : List Nat) : Nat := dF b 0x0C 4
def dRows (b : List Nat) : Nat := if dOp b = 0 then 0 else dF b 0x20 4
def dMask (b : List Nat) : Nat := dF b 0x30 12
def dSig (b : List Nat) (a : Nat) : Option Nat := if bit (dF b a 2) 15 then some (dF b a 2 % 4096) else none

/-- Half × half offset of a buffer pair in a capture (R191, R193); pair 0 adds nothing. -/
def pairAdd (pairs : List Nat) (n : Nat) : Nat := if n = 0 then 0 else pairs.getD (n - 1) 0

/-- Source and destination base addresses, the pair added (R193). A SRC_PAIR is legal in a FILL and adds nothing to its pattern (DESIGN
CHOICE, assumption log 189). -/
def dSrc (b : List Nat) (l : XList) : Nat := dF b 0x10 8 + (if dSrcKind b = 5 then 0 else pairAdd l.pairs (dF b 3 1 % 16))
def dDst (b : List Nat) (l : XList) : Nat := dF b 0x18 8 + pairAdd l.pairs (dF b 3 1 / 16)

/-- The extent of an address over all rows (R194): first byte and first byte beyond, as integers. -/
def extentOf (off stride : Int) (rows rowBytes : Nat) : Int × Int :=
  let last := off + (rows - 1 : Int) * stride
  (min off last, max off last + rowBytes)

/-- The part of an address that moves with the rows, by kind (Table 7.4). -/
def kindOff (kind a : Nat) : Nat :=
  match kind with
  | 1 => a % 2 ^ 19 + a / 2 ^ 19 * 2 ^ 19
  | 2 => a % 2 ^ 32
  | 3 => a % 2 ^ 32
  | _ => a

/-- Reserved fields and combinations that make a descriptor BAD_DESC before its names are looked at (R192, R194). -/
def badDesc (b : List Nat) : Bool :=
  let sk := dSrcKind b
  let dk := dDstKind b
  let f := dF b
  let sigBad (a inc : Nat) : Bool := f a 2 / 4096 % 8 ≠ 0 || (bit (f a 2) 15 && f inc 1 = 0)
  let common := 3 < dOp b || f 7 1 ≠ 0 || sigBad 8 5 || sigBad 10 6 || f 0x2C 4 ≠ 0 || f 0x3C 4 ≠ 0
  if common then true
  else if dOp b = 0 then
    f 1 1 ≠ 0 || f 2 1 % 128 ≠ 0 || f 3 1 ≠ 0 || f 4 1 ≠ 0 || f 0x0C 4 ≠ 0 || f 0x10 8 ≠ 0 || f 0x18 8 ≠ 0 ||
      f 0x20 4 ≠ 0 || f 0x24 4 ≠ 0 || f 0x28 4 ≠ 0 || f 0x30 12 ≠ 0 || bit (f 10 2) 15
  else
    let kinds := match dOp b with
      | 1 => decide (sk ≤ 3) && decide (dk ≤ 3)
      | 2 => decide (sk ≤ 3) && dk = 4
      | _ => sk = 5 && decide (dk ≤ 4)
    let zero (k a : Nat) : Bool := match k with
      | 1 => bits a 19 45 = 0
      | 2 => bits a 39 9 = 0 && bits a 23 9 = 0 && decide (bits a 32 7 < 96)
      | 3 => bits a 43 5 = 0 && bits a 19 13 = 0 && decide (bits a 32 11 < 1536)
      | 4 => bits a 23 41 = 0
      | _ => true
    !kinds || f 2 1 / 16 % 8 = 7 || 8 < f 3 1 % 16 || 8 < f 3 1 / 16 || bit (f 4 1) 6 || 47 < dBatch b ||
      dRowBytes b = 0 || 16777216 < dRowBytes b || f 0x20 4 = 0 || 1048576 < f 0x20 4 ||
      !zero sk (f 0x10 8) || !zero dk (f 0x18 8) || ((dMask b ≠ 0) ≠ (dk = 4)) ||
      (bit (f 10 2) 15 && !(dk = 2 || dk = 3 || dk = 4))

/-- Physical place of a descriptor's core or cluster name in this package for a job: partition, and the base address. -/
def Block.nameBase (s : Block) (job kind a : Nat) (sl : Option Nat := none) : Option (Nat × Nat) :=
  if kind = 2 then (s.clusterOf job (bits a 32 7) sl).map fun q => (q.1, clusterBase q.1 q.2)
  else (s.coreOf job (bits a 32 11) sl).map fun q => (q.1, coreBase q.1 q.2.1)

/-- The logical clusters that MASK names. -/
def maskClusters (m : Nat) : List Nat := (List.range 96).filter fun i => bit m i

/-- The row-post rules of R195 hold. -/
def Block.postOk (s : Block) (l : XList) (b : List Nat) : Bool :=
  let a := dDst b l
  dOp b = 1 && dDstKind b = 3 && s.isSelf (bits a 48 16) && dRows b = 1 &&
    match s.coreOf l.job (bits a 32 11) (some l.slot) with
    | some (q, i, 0) =>
      let area := s.reg (.mxe q i) 0x084
      let stride := bits area 6 13 * 64
      a % 2 ^ 32 = bits area 19 13 * 64 + dBatch b * stride && decide (dRowBytes b ≤ stride)
    | _ => false

/-- The checks of R194 in their order: the status of the first failure (Table 7.5), none when the descriptor may move. A signal to another
package must lie in the issuing slot's share, one inside this package in that of the job at the destination (R209; assumption log 48). -/
def Block.checkDesc (s : Block) (p ch : Nat) (l : XList) (b : List Nat) : Option Nat :=
  let sk := dSrcKind b
  let dk := dDstKind b
  let e : Int := dEsz b
  let ss := signed32 (dF b 0x24 4)
  let ds := signed32 (dF b 0x28 4)
  let rows := dRows b
  let rb := dRowBytes b
  let src := dSrc b l
  let dst := dDst b l
  let nop := dOp b = 0
  let named (k a : Nat) : Bool := (k = 2 || k = 3) && s.isSelf (bits a 48 16)
  let badName (k a : Nat) : Bool := named k a && (s.nameBase l.job k a (some l.slot)).isNone
  let share := match dSig b 8 with
    | some n => (s.ctrNum p ch n).isNone
    | none => false
  let rshare (q : Nat) : Bool := match dSig b 10 with
    | some n => (s.ctrNum q (l.slot) n).isNone
    | none => false
  let maskBad := dk = 4 && (maskClusters (dMask b)).any fun c => match s.clusterOf l.job c (some l.slot) with
    | some q => rshare q.1
    | none => true
  let dstShare := match s.nameBase l.job dk dst (some l.slot) with
    | some q => named dk dst && rshare q.1
    | none => false
  let farShare := (dk = 2 || dk = 3) && !s.isSelf (bits dst 48 16) && (match dSig b 10 with
    | some n => (s.ctrNum p ch n).isNone
    | none => false)
  let sx := extentOf (kindOff sk src) ss rows rb
  let dx := extentOf (kindOff dk dst) ds rows rb
  let leaves (k a : Nat) (x : Int × Int) : Bool :=
    if k = 1 then x.1 < 0 || 0x80000 < x.2 || (s.outside p l.core ch x.1.toNat (x.2 - x.1).toNat).isSome
    else if k = 3 then
      x.1 < 0 || 0x80000 < x.2 ||
        (s.isSelf (bits a 48 16) && match s.coreOf l.job (bits a 32 11) (some l.slot) with
          | some (q, i, sl) => (s.outside q i sl x.1.toNat (x.2 - x.1).toNat).isSome
          | none => false)
    else false
  let badAddr (k a : Nat) (x : Int × Int) : Bool :=
    match k with
    | 0 => x.1 < 0 || (2 ^ 57 : Int) < x.2
    | 2 => x.1 < 0 || 0x800000 < x.2 || (!s.isSelf (bits a 48 16) && !s.reachable (bits a 48 16))
    | 3 => !s.isSelf (bits a 48 16) && !s.reachable (bits a 48 16)
    | 4 => x.1 < 0 || 0x800000 < x.2
    | _ => false
  if badDesc b || (dPost b && !s.postOk l b) then some 2
  else if !nop && (ss % e ≠ 0 || ds % e ≠ 0 || (rb : Int) % e ≠ 0 ||
      (sk ≠ 5 && (src : Int) % e ≠ 0) || (dst : Int) % e ≠ 0) then some 9
  else if share || (!nop && (badName sk src || badName dk dst || maskBad || dstShare || farShare)) then some 4
  else if nop then none
  else if leaves sk src sx || leaves dk dst dx then some 5
  else if badAddr sk src sx || badAddr dk dst dx then some 3
  else none

/-! Ends of descriptors. -/

/-- The Logbook counter of a failing status (R207). -/
def statusCounter (st : Nat) : Nat :=
  match st with
  | 6 => 2
  | 2 => 3
  | 9 => 3
  | 0x0A => 5
  | _ => 4

/-- The engine of a partition raises DRAINED when its accepted work has ended while ENABLE is 0 (R205). -/
def Block.drainCheck (s : Block) (p j : Nat) : Block :=
  if (s.hdr (.dma p j)).draining && (s.eng p j).pri.lists.isEmpty && (s.eng p j).bf.lists.isEmpty then
    (s.modHdr (.dma p j) fun h => { h with draining := false }).raise (.dma p j) 4
  else s

/-- A slot that waits in XF.WAIT or for room is tested again when its instruction is issued again; nothing is stored here. -/
def Chan.left (c : Chan) : Nat := (c.lists.map fun l => l.count - l.next).sum

/-- The port that a place in the server's memory is reached through. -/
def Dst.port : Dst → Option Nat
  | .host x _ _ _ _ => some x
  | _ => none

/-- A place uses a translation of VF `v` for `n` pages from `page` on port `x` that has been invalidated (R425). -/
def Dst.stale (x v page n : Nat) : Dst → Bool
  | .host y w iova _ old => old && y = x && w = v && decide (page ≤ iova / 4096) && decide (iova / 4096 < page + n)
  | _ => false

/-- A place's translation, of VF `v` for `n` pages from `page` on port `x`, is invalidated. -/
def Dst.invalid (x v page n : Nat) (d : Dst) : Dst :=
  match d with
  | .host y w iova a _ => if Dst.stale x v page n (.host y w iova a true) then .host y w iova a true else d
  | _ => d

/-- Where the writes go that wait for data or room: of each, its partition, engine, channel and descriptor, and its places. -/
def Block.dstsWaiting (s : Block) : List ((Nat × Nat × Nat × Nat) × List Dst) :=
  (s.engs.flatMap fun e => [(0, e.2.pri), (1, e.2.bf)].flatMap fun c =>
    c.2.started.flatMap fun d => d.held.map fun h => ((e.1 / 36, e.1 % 36, c.1, d.id), h.dsts)) ++
  (s.xu.outs.filterMap fun t => match t.origin with
    | .descRead p j ch id _ ds _ => some ((p, j, ch, id), ds)
    | _ => none) ++
  ([0, 1] : List Nat).flatMap fun x => (s.port x).reqs.filterMap fun e => match e.2 with
    | some (.read p j ch id _ _ _ ds _ _) => some ((p, j, ch, id), ds)
    | _ => none

/-- The places of such writes, changed by `f`. -/
def Block.mapDsts (s : Block) (f : Dst → Dst) : Block :=
  let desc (d : Desc) : Desc := { d with held := d.held.map fun h => { h with dsts := h.dsts.map f } }
  let chan (c : Chan) : Chan := { c with out := c.out.map desc, cur := c.cur.map desc }
  let s := { s with
    engs := smMapVals {} s.engs fun _ e => { e with pri := chan e.pri, bf := chan e.bf }
    xu := { s.xu with outs := s.xu.outs.map fun t => match t.origin with
      | .descRead p j ch id n ds par => { t with origin := .descRead p j ch id n (ds.map f) par }
      | _ => t } }
  ([0, 1] : List Nat).foldl (fun s x => s.modPort x fun y => { y with reqs := smMapVals none y.reqs fun _ r => match r with
    | some (.read a j ch id num pg n ds par old) => some (.read a j ch id num pg n (ds.map f) par old)
    | r => r }) s

/-- The port's invalidations forget the requests that are over; one with none left, and no write that waits with its translation, is
completed (R425). -/
def Block.invalsOut (s : Block) (x : Nat) : Block :=
  let out (t : Nat) : Bool := (smGet none (s.port x).reqs t).isSome
  let done (e : Nat × Nat × Nat × List Nat) : Bool :=
    e.2.2.2.isEmpty && !s.dstsWaiting.any fun w => w.2.any (Dst.stale x e.1 e.2.1 e.2.2.1)
  let left := (s.port x).invals.map fun e => (e.1, e.2.1, e.2.2.1, e.2.2.2.filter out)
  (left.filter done).foldl (fun s e => s.emit (.tlp x 6 [e.1, e.2.1, e.2.2.1]))
    (s.modPort x fun y => { y with invals := left.filter fun e => !done e })

/-- Writes that waited are gone: the invalidations of both ports look again. -/
def Block.invalsAll (s : Block) : Block :=
  ([0, 1] : List Nat).foldl (fun s x => if (s.port x).invals = [] then s else s.invalsOut x) s

/-- Fault records and waiting faults of a channel go: what they stand for has ended. Those of a pre-empted job stay. -/
def Block.dropRecs (s : Block) (p j ch : Nat) : Block :=
  s.modMmu p fun m => { m with recs := m.recs.filter (fun r => r.held || !(r.engine = j && r.chan = ch)),
                               waiting := m.waiting.filter (fun r => r.held || !(r.engine = j && r.chan = ch)) }

/-- Descriptor `k` of a channel's uncompleted ones ends in failure: the descriptors before it run on, those after it are DISCARDED, the
channel stops, a job fault is reported (R202, R206, Table 14.3). LAST_STATUS keeps the failing status (DESIGN CHOICE, assumption log
168). -/
def Block.chanStopAt (s : Block) (p j ch k status : Nat) : Block :=
  let c := s.chan p j ch
  let l := descAt c.lists k
  let gone := c.left - k - 1
  let s := ((s.log (.dma p j) (statusCounter status)).logN (.dma p j) 6 gone).dropRecs p j ch
  let s := s.modChan p j ch fun c =>
    { c with state := .stopped, lists := keepLists c.lists k, out := c.out.take k, cur := none, lastStatus := status }
  let s := s.raise (.dma p j) (1 + ch)
  let s := if status = 4 then (s.raise (.ephP p) 2).log (.ephP p) 2 else s
  let s := s.jobFault p 2 ((l.map (·.job)).getD 0) (status + j * 256) ((l.map (·.lcore)).getD 0x7FF)
  (s.drainCheck p j).invalsAll

/-- The current descriptor ends in failure. -/
def Block.chanStop (s : Block) (p j ch status : Nat) : Block := s.chanStopAt p j ch (s.chan p j ch).out.length status

/-- Descriptor `id` of a channel ends in failure, if it is still there. -/
def Block.descFail (s : Block) (p j ch id status : Nat) : Block :=
  match (s.chan p j ch).pos id with
  | some k => s.chanStopAt p j ch k status
  | none => s

/-- All lists of a channel end DISCARDED, unsignalled (R369, R381); a stopped channel stays stopped while its job is bound (R202). -/
def Block.chanDiscard (s : Block) (p j ch : Nat) : Block :=
  let c := s.chan p j ch
  let s := (s.logN (.dma p j) 6 c.left).dropRecs p j ch
  (s.modChan p j ch fun c =>
    { c with lists := [], out := [], cur := none, state := if c.state = .stopped then .stopped else .normal,
             lastStatus := if c.lists.isEmpty then c.lastStatus else 7 }).drainCheck p j |>.invalsAll

/-! Translation faults of transfers (R179, R201). -/

/-- The 32 bytes of a fault record (Table 6.11). -/
def FaultRec.bytes (r : FaultRec) : List Nat :=
  leBytes 8 (r.va % 2 ^ 57) ++ leBytes 2 r.job ++ [r.cause + b2n r.write * 16 + r.slot * 32, r.engine] ++ leBytes 4 r.id ++
    leBytes 8 r.count ++ leBytes 8 r.entry

/-- The fault queue of a partition is full (Table 6.20). -/
def Block.fqFull (s : Block) (p : Nat) : Bool := ((s.mmu p).prod + 1) % 256 = s.fld (.mmu p) 0x068 0 8

/-- A record is written to the next free slot of the fault queue, at its home (R149). A refused write is treated as FAIL at once, and so
is one after which the slot still delivers poison (R179; DEDUCED, assumption log 203). -/
def Block.fqWrite (s : Block) (p : Nat) (r : FaultRec) : Block :=
  let m := s.mmu p
  let r := { r with id := m.nextId }
  let a := s.pair (.mmu p) 0x05C 0x060 13 + 32 * m.prod
  let s := s.modMmu p fun m => { m with nextId := (m.nextId + 1) % 2 ^ 32 }
  let s := if s.canAccess a 32 then s.memWrite a r.bytes else s
  if !s.canAccess a 32 || s.memPoisoned a 32 then
    ((s.raise (.mmu p) 5).log (.mmu p) 13).chanStop p r.engine r.chan 6
  else
    let s := s.modMmu p fun m => { m with prod := (m.prod + 1) % 256, recs := m.recs ++ [r] }
    s.raise (.mmu p) 0

/-- Where a channel stands (Table 7.9): logical core, descriptor, row and byte of the current descriptor; the last one's when none is
under way. -/
def Chan.progNow (c : Chan) : Nat × Nat × Nat × Nat :=
  match c.curList, c.cur with
  | some l, some d => (l.lcore, l.next, d.row, d.off)
  | _, _ => c.prog

/-- A channel parks at its boundary and its fault is queued, or waits for a free slot of the queue (R179, R201). -/
def Block.park (s : Block) (p j ch va : Nat) (write : Bool) (cause entry : Nat) : Block :=
  let c := s.chan p j ch
  let l := c.curList
  let s := s.modChan p j ch fun c => { c with state := .parked, prog := c.progNow }
  let s := ((s.log (.dma p j) 0).raise (.dma p j) 0).log (.mmu p) (cause - 1)
  let r : FaultRec := { id := 0, va := va, job := (l.map (·.job)).getD 0, cause := cause, write := write, slot := ch,
                        engine := j, chan := ch, count := s.merid.count, entry := entry }
  if s.fqFull p then
    ((s.modMmu p fun m => { m with waiting := m.waiting ++ [r] }).log (.mmu p) 12).raise (.mmu p) 3
  else s.fqWrite p r

/-- The current descriptor of a channel met a translation fault: the channel parks once the data of the descriptor's earlier reads has
been written (R201). -/
def Block.parkAt (s : Block) (p j ch va : Nat) (write : Bool) (cause entry : Nat) : Block :=
  match (s.chan p j ch).cur with
  | some d =>
    if d.given = d.asked then s.park p j ch va write cause entry
    else s.modDesc p j ch d.id fun d => { d with hold := .park va write cause entry }
  | none => s

/-- A fault that waited for that data parks the channel. -/
def Block.parkDue (s : Block) (p j ch : Nat) : Block :=
  match (s.chan p j ch).cur with
  | some d => match d.hold with
    | .park va write cause entry =>
      if (s.chan p j ch).state = .normal ∧ d.given = d.asked then
        (s.modDesc p j ch d.id fun d => { d with hold := .free }).park p j ch va write cause entry else s
    | _ => s
  | none => s

/-! Moving data (R193, R196 to R203). -/

/-- What a side of a piece turns out to be. -/
inductive Side where
  | bytes (bs : List Nat)
  | place (d : Dst)
  /-- the channel parks: cause and entry -/
  | fault (va cause entry : Nat)
  /-- a host page whose translation the port's cache does not hold -/
  | hostMiss (port va page : Nat)
  /-- the descriptor ends with this status -/
  | fail (status : Nat)
deriving Repr

/-- A port is up: trained and its reset not asserted. -/
def Pcie.up (x : Pcie) : Bool := x.gen ≠ 0 && !x.perst

/-- The port's cached translation of an IOVA page for a partition's VF: writes allowed, the translated address of the page. -/
def Pcie.atsFind (x : Pcie) (p page : Nat) : Option (Bool × Nat) := (x.ats.find? fun e => e.1 = p && e.2.1 = page).map (·.2.2)

/-- A tag for the port's next non-posted request, of which 1,024 can be outstanding (Table 16.1). -/
def Pcie.freeTag (x : Pcie) : Option Nat :=
  ((List.range 1024).map fun i => (x.nextTag + i) % 1024).find? fun t => (smGet none x.reqs t).isNone

/-- A non-posted request goes out under a free tag. -/
def Block.hostAsk (s : Block) (port : Nat) (r : PcieReq) (kind : Nat) (fields : List Nat) : Block :=
  match (s.port port).freeTag with
  | some t => (s.modPort port fun x => { x with nextTag := (t + 1) % 1024, reqs := smPut none x.reqs t (some r) }).emit
      (.tlp port kind (t :: fields))
  | none => s

/-- The remote form of an address: PKGN, logical partition, the address (form in bits [63:62]: 0 package physical address,
1 CLUSTER, 2 CORE; assumption log 16). -/
def remoteForm (kind a : Nat) : Nat × Nat × Nat :=
  if kind = 2 then (bits a 48 16, bits a 32 7 / 8, 2 ^ 62 + a % 2 ^ 48)
  else (bits a 48 16, bits a 32 11 / 128, 2 * 2 ^ 62 + a % 2 ^ 48)

/-- One side of a piece: the place of byte address `a` of a kind (Table 7.4), `w` for a destination. -/
def Block.sideOf (s : Block) (p j ch : Nat) (l : XList) (kind a hint : Nat) (w : Bool) : Side × Block :=
  match kind with
  | 0 =>
    let (leaf, s) := s.translate p ch (some j) a w false
    match leaf with
    | .fault c e => (.fault a c e, s)
    | .package g base n _ _ =>
      let pa := base + a % n
      if s.isSelf g then (if s.canAccess pa 1 then (.place (.here pa hint), s) else (.fail 3, s))
      else if s.reachable g then (.place (.remote g 0 pa hint), s)
      else (.fail 3, s)
    | .host port iova n _ =>
      let x := s.port port
      let page := (iova + a % n) / 4096
      if !x.up then (.fail 0x0A, s)
      else if s.fld (.pcie port) 0x040 2 1 = 0 then (.fault a 6 0, s)
      else match x.atsFind p page with
        | some (ok, ta) =>
          if w && !ok then (.hostMiss port a page, s) else (.place (.host port (p + 1) (iova + a % n) (ta + (iova + a % n) % 4096) false), s)
        | none => (.hostMiss port a page, s)
  | 1 => (.place (.here (coreBase p l.core + a % 2 ^ 19) hint), s)
  | _ =>
    let g := bits a 48 16
    if s.isSelf g then
      match s.nameBase l.job kind a (some l.slot) with
      | some (_, base) => (.place (.here (base + a % 2 ^ 32) hint), s)
      | none => (.fail 4, s)
    else
      let r := remoteForm kind a
      (.place (.remote r.1 r.2.1 r.2.2 hint), s)

/-- The write TLPs that carry `bs` to translated address `addr` for a VF: at most 512 bytes each (Table 16.1), AT 2, translated (R425). -/
def tlpFields (vf addr : Nat) (bs : List Nat) : List (List Nat) :=
  (List.range ((bs.length + 511) / 512)).map fun i => [vf, 2, addr + 512 * i] ++ (bs.drop (512 * i)).take 512

/-- Device-initiated write TLPs, or their hold while the poison latch is set; poisoned data is not sent (R378). -/
def Block.tlpWrite (s : Block) (port vf addr : Nat) (bs : List Nat) (pois : Bool) : Block :=
  let ts := tlpFields vf addr bs
  if pois then (s.raise (.pcie port) 7).log (.pcie port) 7
  else if s.poisonLatch then s.modPort port fun x => { x with held := x.held ++ ts }
  else (ts.foldl (fun s f => s.emit (.tlp port 1 f)) s).modPort port fun x => { x with devWr := x.devWr + bs.length }

/-- Bytes written to one place, those of the ranges `pois` with poison (R203): at home, as a WRITE transaction, or as a write TLP. -/
def Block.putAt (s : Block) (p j ch id job : Nat) (d : Dst) (bs : List Nat) (pois : List (Nat × Nat)) : Block :=
  match d with
  | .here pa hint => s.memWriteMarked pa bs pois (hintOf hint)
  | .remote g lp a hint =>
    let k : Pkt := { kind := 2, hint := hint, lpart := lp, dst := g, job := job, addr := a % 2 ^ 62, op := a / 2 ^ 62,
                     data := bs, pois := flitsOf bs.length pois }
    s.xIssue p k (.desc p j ch id)
  | .host port vf _ addr _ => s.tlpWrite port vf addr bs (pois ≠ [])

/-- What a piece waits for before it can move: room for its packets (R253), a tag for a host read (Table 16.1), or the data of earlier reads of its descriptor, where its own
comes at once (R198). -/
def Block.holdOf (s : Block) (d : Desc) (src : Side) (ds : List Dst) : DHold :=
  let one (x : Dst) (sp : Nat) : Option (Nat × Nat) := match x with
    | .remote g _ _ _ => if s.xRoom g sp then none else some (g, sp)
    | _ => none
  let early : Bool := match src with
    | .place (.remote ..) => true
    | .place (.host ..) => true
    | _ => false
  let lack := match ds.findSome? (fun x => one x 0), src with
    | some x, _ => some x
    | none, .place x => one x 1
    | none, _ => none
  match lack with
  | some (g, sp) => .room g sp
  | none => match src with
    | .place (.host port _ _ _ _) => if (s.port port).freeTag.isNone then .tag port else .free
    | _ => if !early && d.given ≠ d.asked then .reads else .free

/-- Data of a channel's descriptor goes to its destinations; poison is carried (R203). `rd` counts the bytes read for it: none by a
FILL. MCAST_SAVED counts a FILL to several clusters too (DESIGN CHOICE, assumption log 191). -/
def Block.deliver (s : Block) (p j ch id job : Nat) (ds : List Dst) (bs : List Nat) (pois : List (Nat × Nat)) (rd : Nat := bs.length) :
    Block :=
  let s := ds.foldl (fun s d => s.putAt p j ch id job d bs pois) s
  let s := s.modEng p j fun e =>
    { e with bytesRd := e.bytesRd + rd, bytesWr := e.bytesWr + bs.length * ds.length,
             mcastSaved := e.mcastSaved + bs.length * (ds.length - 1) }
  if pois ≠ [] then
    ((s.modDesc p j ch id fun d => { d with poison := true }).observePoison (.dma p j)).raise (.dma p j) 3
  else s

/-- The destinations of a piece at offset `a` (Table 7.4); a set names one place per cluster of MASK. -/
def Block.destsOf (s : Block) (p j ch : Nat) (l : XList) (b : List Nat) (a : Nat) : List Side × Block :=
  if dDstKind b = 4 then
    ((maskClusters (dMask b)).map fun c => match s.clusterOf l.job c (some l.slot) with
      | some q => Side.place (.here (clusterBase q.1 q.2 + a) (dDstHint b))
      | none => Side.fail 4, s)
  else
    let (d, s) := s.sideOf p j ch l (dDstKind b) a (dDstHint b) true
    ([d], s)

/-- One piece of a row: at most `n` bytes, cut at 64 KiB pages and 2,048-byte boundaries of both addresses, so that no piece
crosses a page, a host page or a packet boundary. A piece is what LAST_USE judges a read by (DESIGN CHOICE, assumption log 166). -/
def pieceLen (n a c : Nat) : Nat := Nat.min n (Nat.min (2048 - a % 2048) (2048 - c % 2048))

/-- The first destination that stops a piece. -/
def sideStop (x : List Side) : Option Side := x.find? fun q => match q with
  | .place _ => false
  | .bytes _ => false
  | _ => true

/-- The places among sides. -/
def sidePlaces (x : List Side) : List Dst := x.filterMap fun q => match q with
  | .place d => some d
  | _ => none

/-- The current descriptor advances to the element after `n` bytes. -/
def Desc.step (d : Desc) (n : Nat) : Desc :=
  if d.off + n < dRowBytes d.bytes then { d with off := d.off + n }
  else { d with row := d.row + 1, off := 0, moved := decide (d.row + 1 = dRows d.bytes) }

/-- A host page that misses asks the port for its translation (R177); the descriptor waits, where no tag is free for one. -/
def Block.atsAsk (s : Block) (p j ch id port va page : Nat) (write retried : Bool) : Block :=
  if (s.port port).freeTag.isNone then s.modDesc p j ch id fun d => { d with hold := .tag port }
  else
    (s.modDesc p j ch id fun d => { d with hostWait := true, hold := .free }).hostAsk port (.ats p j ch id va page write retried) 2
      [p + 1, page, b2n write]

/-- The error that an access of memory meets. -/
def MoveEvent.atMem : MoveEvent → MemEvent
  | .mem ev => ev
  | _ => .none

/-- The path parity error of a piece marks its first 32 bits (R203; DESIGN CHOICE, assumption log 167). -/
def parityMark (parity : Bool) (pois : List (Nat × Nat)) : List (Nat × Nat) := if parity then (0, 4) :: pois else pois

/-- The source and destination addresses of a descriptor's next element (R193). -/
def Desc.addrs (d : Desc) (l : XList) : Nat × Nat :=
  let addr (base : Nat) (stride : Int) : Nat := ((base : Int) + d.row * stride + d.off).toNat
  (addr (dSrc d.bytes l) (signed32 (dF d.bytes 0x24 4)), addr (dDst d.bytes l) (signed32 (dF d.bytes 0x28 4)))

/-- Pieces of the current descriptor move in transfer order until it has moved, parks, fails or must wait (R198, R201).
The first piece meets the event: a path parity error (R203), or an error at its first access of memory (R167). Where an element's source
and destination both fault, the source's is recorded (DESIGN CHOICE, assumption log 190). -/
def Block.moveRows (s : Block) (p j ch : Nat) (ev : MoveEvent) : Nat → Block
  | 0 => s
  | f + 1 =>
    let c := s.chan p j ch
    match c.curList, c.cur with
    | some l, some d =>
      if d.moved || d.hostWait || d.hold.parks || c.state ≠ .normal then s
      else
        let b := d.bytes
        let sa := (d.addrs l).1
        let da := (d.addrs l).2
        let isFill := dSrcKind b = 5
        let n := pieceLen (dRowBytes b - d.off) (if isFill then 0 else sa) da
        let (src, s1) := if isFill then
            (Side.bytes ((List.range n).map fun i => dF b (0x10 + (d.off + i) % 8) 1), s)
          else s.sideOf p j ch l (dSrcKind b) sa (dSrcHint b) false
        let (ds, s2) := s1.destsOf p j ch l b da
        match sideStop (src :: ds) with
        | some (.fault va cause e) => s2.parkAt p j ch va (match src with
            | .fault .. => false
            | _ => true) cause e
        | some (.hostMiss port va page) => s2.atsAsk p j ch d.id port va page (match src with
            | .hostMiss .. => false
            | _ => true) false
        | some (.fail st) => s2.chanStop p j ch st
        | _ =>
          let places := sidePlaces ds
          let h := s2.holdOf d src places
          if h ≠ .free then s2.modDesc p j ch d.id fun d => { d with hold := h }
          else
            let parity := decide (ev = .parity)
            let s2 := if parity then s2.log (.dma p j) 9 else s2
            let (s3, far) := match src with
              | .bytes bs => (s2.deliver p j ch d.id l.job places bs (parityMark parity []) 0, 0)
              | .place (.here pa hint) =>
                let (bs, pois, s3) := s2.memReadMarked pa n (hintOf hint) ev.atMem
                (s3.deliver p j ch d.id l.job places bs (parityMark parity pois), 0)
              | .place (.remote g lp a hint) =>
                let k : Pkt := { kind := 1, hint := hint, lpart := lp, dst := g, job := l.job, addr := a % 2 ^ 62,
                                 op := a / 2 ^ 62, len := n }
                (s2.xIssue p k (.descRead p j ch d.id d.asked places parity), 1)
              | .place (.host port vf iova addr _) =>
                (s2.hostAsk port (.read p j ch d.id d.asked (iova / 4096) n places parity false) 0 [vf, 2, addr, n], 1)
              | _ => (s2, 0)
            let s3 := s3.modDesc p j ch d.id fun d => { d.step n with
              asked := d.asked + far, hold := .free, asks := if far = 0 then d.asks else d.asks ++ [(d.asked, da)] }
            s3.moveRows p j ch .none f
    | _, _ => s

/-- Pieces that a descriptor can have at most. -/
def dFuel (b : List Nat) : Nat := dRows b * (dRowBytes b / 1024 + 4) + 1

/-- Transactions or host reads of descriptor `id` of a channel are out. -/
def Block.descBusy (s : Block) (p j ch id : Nat) : Bool :=
  (s.xu.outs.any fun t => t.origin.descOf = some (p, j, ch, id)) ||
  (([0, 1] : List Nat).any fun x => (s.port x).reqs.any fun e => match e.2 with
    | some (.read a b c i _ _ _ _ _ _) => a = p && b = j && c = ch && i = id
    | _ => false)

/-- The channel and descriptor of a request. -/
def PcieReq.chan : PcieReq → Nat × Nat × Nat × Nat
  | .read p j ch id _ _ _ _ _ _ => (p, j, ch, id)
  | .ats p j ch id _ _ _ _ => (p, j, ch, id)
  | .pri p j ch id _ _ _ => (p, j, ch, id)

/-- The partitions in which RSIG is given, one for each destination (R197), and remote ones by PKGN and logical partition. -/
def Block.rsigTargets (s : Block) (l : XList) (b : List Nat) : List (Nat × Nat × Bool) :=
  let a := dDst b l
  match dDstKind b with
  | 4 => (maskClusters (dMask b)).filterMap fun c => (s.clusterOf l.job c (some l.slot)).map fun q => (q.1, 0, true)
  | 0 => []
  | 1 => []
  | k =>
    if s.isSelf (bits a 48 16) then match s.nameBase l.job k a (some l.slot) with
      | some (q, _) => [(q, 0, true)]
      | none => []
    else
      let r := remoteForm k a
      [(r.1, r.2.1, false)]

/-- The packets of a descriptor's signals have room; its signals wait for it (R253). -/
def Block.signalRoom (s : Block) (l : XList) (b : List Nat) : Bool :=
  (dSig b 10).isNone || (s.rsigTargets l b).all fun t => t.2.2 || s.xRoom t.1 0

/-- The signals of a descriptor (R197): LSIG once, RSIG once for each destination. -/
def Block.signalDesc (s : Block) (p j ch : Nat) (l : XList) (b : List Nat) : Block :=
  let src := SyncSrc.signal j l.lcore l.job
  let s := match dSig b 8 with
    | some n => match s.ctrNum p ch n with
      | some c => s.sendUpd p { num := c, amount := dF b 5 1, src := src }
      | none => s
    | none => s
  match dSig b 10 with
  | none => s
  | some n =>
    (s.rsigTargets l b).foldl (fun s t =>
      if t.2.2 then
        let sl := l.slot
        match s.ctrNum t.1 sl n with
        | some c => s.sendUpd t.1 { num := c, amount := dF b 6 1, src := src }
        | none => s
      else
        let k : Pkt := { kind := 4, lpart := t.2.1, dst := t.1, job := l.job, addr := n, operand := dF b 6 1 }
        s.xIssue p k (.signal p)) s

/-- The signals of a channel's unfenced descriptors whose last write has been issued, in descriptor order (R196, R197): a descriptor's
wait for the signals of those before it. At most `n` of them. -/
def Block.chanSignals (s : Block) (p j ch : Nat) : Nat → Block
  | 0 => s
  | n + 1 =>
    let c := s.chan p j ch
    match c.started.findIdx? fun d => !d.signalled with
    | none => s
    | some k => match c.started[k]?, descAt c.lists k with
      | some d, some l =>
        if !dFence d.bytes && d.moved && decide (d.given = d.asked) && s.signalRoom l d.bytes then
          ((s.modDesc p j ch d.id fun d => { d with signalled := true }).signalDesc p j ch l d.bytes).chanSignals p j ch n
        else s
      | _, _ => s

/-- The signals that are due on a channel. -/
def Block.signalsDue (s : Block) (p j ch : Nat) : Block := s.chanSignals p j ch (s.chan p j ch).started.length

/-- The assembler and batch slot of a row-post descriptor: the core, and whether the slot is valid. -/
def Block.postSlot (s : Block) (l : XList) (b : List Nat) : Option (Nat × Nat × Bool) :=
  if !dPost b then none
  else (s.coreOf l.job (bits (dDst b l) 32 11) (some l.slot)).map fun q => (q.1, q.2.1, bit (s.core q.1 q.2.1).batchValid (dBatch b))

/-- A row post must wait before it writes: the batch slot that it names is valid, or a launched MM.BATCH still reads the area (R195). -/
def Block.batchHeld (s : Block) (l : XList) (b : List Nat) : Bool :=
  match s.postSlot l b with
  | some (q, i, valid) => valid || ((s.slot q i 0).mq.any fun e => e.op = .batch && e.launched && !e.arrayDone)
  | none => false

/-- A descriptor waits as a row post; one that waits on a valid slot counts once (R207). -/
def Block.postWait (s : Block) (p j ch : Nat) (l : XList) (d : Desc) : Block :=
  if !d.batchWait && (s.postSlot l d.bytes).any (·.2.2) then
    (s.log (.dma p j) 10).modDesc p j ch d.id fun d => { d with batchWait := true }
  else s

/-- The places of a piece have room for its packets (R253). -/
def Block.dstsRoom (s : Block) (ds : List Dst) : Bool := ds.all fun x => match x with
  | .remote g _ _ _ => s.xRoom g 0
  | _ => true

/-- Held pieces of descriptor `id`, of list `l`, go on in the order of their reads (R198), a row post's while its slot lets it write
(R195), each when its packets have room (R253). At most `n` of them. -/
def Block.pieces (s : Block) (p j ch id : Nat) (l : XList) : Nat → Block
  | 0 => s
  | n + 1 =>
    match (s.chan p j ch).started.find? fun d => decide (d.id = id) with
    | none => s
    | some d => match d.held.find? fun x => decide (x.num = d.given) with
      | none => s
      | some x =>
        if s.batchHeld l d.bytes then s.postWait p j ch l d
        else if !s.dstsRoom x.dsts then s
        else
          let s := s.modDesc p j ch id fun d =>
            { d with given := d.given + 1, held := d.held.filter fun y => decide (y.num ≠ x.num)
                     asks := d.asks.filter fun y => decide (y.1 ≠ x.num) }
          let s := s.deliver p j ch id l.job x.dsts x.bytes x.pois
          let s := if x.old then
              { s with xu := { s.xu with outs := s.xu.outs.map fun t => if t.origin = .desc p j ch id then { t with old := true } else t } }
            else s
          s.invalsAll.pieces p j ch id l n

/-- Pieces that waited go on, over all started descriptors of a channel. -/
def Block.piecesAll (s : Block) (p j ch : Nat) : Block :=
  let c := s.chan p j ch
  c.started.zipIdx.foldl (fun s x => match descAt c.lists x.2 with
    | some l => s.pieces p j ch x.1.id l x.1.held.length
    | none => s) s

/-- The data of piece `num` of descriptor `id` has come (R198). Its writes carry its translation: `old` tells that it has been invalidated
(R176). -/
def Block.pieceIn (s : Block) (p j ch id num : Nat) (ds : List Dst) (bs : List Nat) (pois : List (Nat × Nat)) (old : Bool) : Block :=
  let c := s.chan p j ch
  match c.pos id with
  | none => s
  | some k =>
    let s := s.modDesc p j ch id fun d => { d with held := d.held ++ [⟨num, ds, bs, pois, old⟩] }
    let held := ((s.chan p j ch).started.find? fun d => decide (d.id = id)).map fun d => d.held.length
    let s := match descAt c.lists k with
      | some l => s.pieces p j ch id l (held.getD 0)
      | none => s
    (s.parkDue p j ch).signalsDue p j ch

/-- The data that waits in a channel whose job's places have changed goes where its descriptors now name (R204). -/
def Block.freshHeld (s : Block) (p j ch : Nat) : Block :=
  let c := s.chan p j ch
  c.started.zipIdx.foldl (fun s x => match descAt c.lists x.2 with
    | some l => x.1.held.foldl (fun s y => match x.1.asks.find? fun a => a.1 = y.num with
      | some a =>
        let (ds, s) := s.destsOf p j ch l x.1.bytes a.2
        match sideStop ds with
        | some (.fail st) => s.descFail p j ch x.1.id st
        | some _ => s
        | none => s.modDesc p j ch x.1.id fun d =>
            { d with held := d.held.map fun z => if z.num = y.num then { z with dsts := sidePlaces ds, old := false } else z }
      | none => s) s
    | none => s) s

/-- An engine serves the channels of engine `x`: its own, or a sibling's since it failed (R366). -/
def Engine.served (x : Engine) : Bool := !x.failed || x.substitute.isSome

/-- A channel has a descriptor able to proceed (R186). -/
def Block.canProceed (s : Block) (p j ch : Nat) : Bool :=
  let c := s.chan p j ch
  c.state = .normal && !s.frozen && (s.eng p j).served && match c.cur with
    | none => c.curList.isSome
    | some d =>
      if d.moved then (descAt c.lists (c.out.length + 1)).isSome
      else !d.hostWait && (match d.hold with
          | .free => true
          | .room g sp => s.xRoom g sp
          | .tag x => (s.port x).freeTag.isSome
          | _ => decide (d.given = d.asked)) &&
        match c.curList with
        | some l => !s.batchHeld l d.bytes
        | none => false

/-- Pieces that a channel moves in one command: the backfill channel pauses after each, so that the primary takes precedence (R186). -/
def moveFuel (ch : Nat) (b : List Nat) : Nat := if ch = 0 then dFuel b else 1

/-- A channel's next descriptor is fetched and checked (R192 to R195); it moves as far as it can. -/
def Block.descFetch (s : Block) (p j ch : Nat) (l : XList) (ev : MoveEvent) : Block :=
  let a := coreBase p l.core + l.base + 64 * l.next
  let (b, pois, s) := s.memRead a 64
  let s := s.modChan p j ch fun c =>
    { c with cur := some { id := c.nextId, bytes := b }, nextId := c.nextId + 1, prog := (l.lcore, l.next, 0, 0) }
  if pois then (s.observePoison (.dma p j)).chanStop p j ch 2
  else match s.checkDesc p ch l b with
    | some st => s.chanStop p j ch st
    | none =>
      if dOp b = 0 then
        (s.modChan p j ch fun c => { c with cur := c.cur.map fun d => { d with moved := true } }).signalsDue p j ch
      else if s.batchHeld l b then
        match (s.chan p j ch).cur with
        | some d => s.postWait p j ch l d
        | none => s
      else (s.moveRows p j ch ev (moveFuel ch b)).signalsDue p j ch

/-- DESCRIPTOR_START: data that waited goes on; the channel's current descriptor goes on, or its next one starts, once the last read of the one before has been
issued (R192 to R196). The backfill channel does nothing while the primary can proceed (R186). -/
def Block.descStart (s : Block) (p j ch : Nat) (ev : MoveEvent) : Block :=
  let c := s.chan p j ch
  if c.state ≠ .normal || s.frozen || !(s.eng p j).served || (ch ≠ 0 && s.canProceed p j 0) then s
  else
  let s := (s.piecesAll p j ch).parkDue p j ch
  let c := s.chan p j ch
  if c.state ≠ .normal then s
  else match c.curList, c.cur with
    | some l, some d =>
      if d.moved then
        match descAt c.lists (c.out.length + 1) with
        | some l => (s.modChan p j ch fun c => { c with out := c.started, cur := none }).descFetch p j ch l ev
        | none => s.signalsDue p j ch
      else if s.batchHeld l d.bytes then s.postWait p j ch l d
      else (s.moveRows p j ch ev (moveFuel ch d.bytes)).signalsDue p j ch
    | some l, none => s.descFetch p j ch l ev
    | none, _ => s

/-- The row a row-post descriptor wrote becomes valid in the batch assembler (R98, R195). -/
def Block.batchMark (s : Block) (l : XList) (b : List Nat) : Block :=
  match s.coreOf l.job (bits (dDst b l) 32 11) (some l.slot) with
  | some (q, i, _) => s.modCore q i fun k =>
      { k with batchValid := setBit1 k.batchValid (dBatch b), batchPost := some (k.batchPost.getD s.merid.count) }
  | none => s

/-- A channel without its oldest started descriptor, which has completed with status `st`: its list advances. -/
def Chan.finish (c : Chan) (l : XList) (d : Desc) (st : Nat) : Chan :=
  { c with out := c.out.drop 1, cur := if c.out.isEmpty then none else c.cur, done := (c.done + 1) % 65536,
           lastStatus := if c.state = .stopped then c.lastStatus else st,
           prog := if c.out.isEmpty then (l.lcore, l.next, d.row, d.off) else c.prog,
           lists := if l.next + 1 = l.count then c.lists.drop 1 else { l with next := l.next + 1 } :: c.lists.drop 1 }

/-- DESCRIPTOR_COMPLETE: the last write of the channel's oldest descriptor has been performed at its home; signals not yet sent are sent,
the list advances (R196, R197). -/
def Block.descComplete (s : Block) (p j ch : Nat) : Block :=
  let c := s.chan p j ch
  match c.lists.head?, c.started.head? with
  | some l, some d =>
    if !d.moved || d.given ≠ d.asked || s.descBusy p j ch d.id || s.frozen || !(s.eng p j).served ||
        !(d.signalled || s.signalRoom l d.bytes) || c.state = .saved then s
    else
      let st := if d.poison then 1 else 0
      let s := if d.poison then s.log (.dma p j) 8 else s
      let s := if dPost d.bytes then s.batchMark l d.bytes else s
      let s := if d.signalled then s else s.signalDesc p j ch l d.bytes
      let s := if l.next + 1 = l.count ∧ c.state ≠ .stopped then s.traceCore p l.core 2 (leBytes 2 l.next ++ [j, ch]) else s
      ((s.modChan p j ch fun c => c.finish l d st).signalsDue p j ch).drainCheck p j
  | _, _ => s

/-- XF.POST accepted or rejected (R189): the post status, and the block. A rejection is the channel's LAST_STATUS (Table 7.5). A disabled
engine answers 1 also where it is out of service or the channel is stopped (DESIGN CHOICE, assumption log 204). -/
def Block.xfPost (s : Block) (p j ch : Nat) (l : XList) : Nat × Block :=
  let e := s.eng p j
  let no (s : Block) : Block := ((s.raise (.dma p j) 5).log (.dma p j) 7).modChan p j ch fun c => { c with lastStatus := 8 }
  if !s.engOn p j then (1, no s)
  else if (e.chan ch).state = .stopped || (e.failed && e.substitute.isNone) then (2, no s)
  else (0, s.modChan p j ch fun c => { c with lists := c.lists ++ [l] })

/-- A parked channel goes on from its boundary with a fresh translation (R202). -/
def Block.chanResume (s : Block) (p j ch : Nat) : Block :=
  if (s.chan p j ch).state ≠ .parked then s
  else
    let s := (s.log (.dma p j) 1).modChan p j ch fun c => { c with state := .normal }
    s.descStart p j ch .none

/-- A response to record `id` (R179): action 1 RESUME, 2 FAIL. From the beginning of the partition's pre-emption on, and for a record
of a pre-empted job, it waits for the restore (R180, R206). -/
def Block.mmuRespond (s : Block) (p id act : Nat) : Block :=
  if act ≠ 1 ∧ act ≠ 2 then s
  else match (s.mmu p).recs.find? (fun r => r.id = id) with
    | none => (s.raise (.mmu p) 4).log (.mmu p) 11
    | some r =>
      if (s.part p).state = .saved ∨ (s.part p).state = .saving ∨ s.recHeld p r = true then s.modMmu p fun m => { m with deferred := m.deferred ++ [(id, act)] }
      else
        let s := s.modMmu p fun m => { m with recs := m.recs.filter fun q => q.id ≠ id }
        if act = 1 then s.chanResume p r.engine r.chan
        else (s.log (.mmu p) 10).chanStop p r.engine r.chan 6

/-- MMU_FAULT_TIMEOUT: a record unanswered for MMU_FAULT_TO ticks is treated as FAIL (R179). -/
def Block.mmuTimeout (s : Block) (p id : Nat) : Block :=
  match (s.mmu p).recs.find? (fun r => r.id = id) with
  | none => s
  | some r =>
    if r.age < s.fld (.mmu p) 0x074 0 16 ∨ s.recHeld p r = true then s
    else
      let s := s.modMmu p fun m => { m with recs := m.recs.filter fun q => q.id ≠ id }
      ((s.raise (.mmu p) 1).log (.mmu p) 9).chanStop p r.engine r.chan 6

/-- Waiting faults take freed slots of the fault queue (R179), those of a pre-empted job once it is restored (DESIGN CHOICE, assumption
log 205). -/
def Block.fqDrain (s : Block) (p : Nat) : Nat → Block
  | 0 => s
  | f + 1 =>
    match (s.mmu p).waiting.find? fun r => !s.recHeld p r with
    | none => s
    | some r =>
      if s.fqFull p then s
      else ((s.modMmu p fun m => { m with waiting := m.waiting.erase r }).fqWrite p r).fqDrain p f

/-- FAULT_QUEUE_CONSUME: MMU_FQ_CONS written (R179). -/
def Block.fqConsume (s : Block) (p v : Nat) : Block :=
  let s := s.setFld (.mmu p) 0x068 0 8 v
  s.fqDrain p (s.mmu p).waiting.length

/-- Accesses that partition `p` has out, and writes of its channels that wait, use translations that are being invalidated (R176). -/
def Block.staleOut (s : Block) (p : Nat) : Block :=
  let mark (t : Xact) : Xact := if t.origin.part = some p then { t with old := true } else t
  let wait (d : Desc) : Desc := { d with held := d.held.map fun h => { h with old := true } }
  let chan (c : Chan) : Chan := { c with out := c.out.map wait, cur := c.cur.map wait }
  let s := { s with
    xu := { s.xu with outs := s.xu.outs.map mark }
    engs := smMapVals {} s.engs fun k e => if k / 36 = p then { e with pri := chan e.pri, bf := chan e.bf } else e
    slots := smMapVals {} s.slots fun k t => if k / 306 = p then { t with amos := t.amos.map fun a => { a with old := true } } else t }
  ([0, 1] : List Nat).foldl (fun s x => s.modPort x fun y => { y with reqs := smMapVals none y.reqs fun _ r => match r with
    | some (.read a j ch id num pg n ds par old) => some (.read a j ch id num pg n ds par (old || decide (a = p)))
    | r => r }) s

/-- An access of partition `p` that uses an invalidated translation is out, or a write waits with one. -/
def Block.staleBusy (s : Block) (p : Nat) : Bool :=
  (s.xu.outs.any fun t => t.old && decide (t.origin.part = some p)) ||
  (([0, 1] : List Nat).any fun x => (s.port x).reqs.any fun e => match e.2 with
    | some (.read a _ _ _ _ _ _ _ _ old) => decide (a = p) && old
    | _ => false) ||
  (s.engs.any fun e => decide (e.1 / 36 = p) && (e.2.pri.started ++ e.2.bf.started).any fun d => d.held.any (·.old)) ||
  s.slots.any fun e => decide (e.1 / 306 = p) && e.2.amos.any (·.old)

/-- MMU_INVALIDATE: translations in the scope that MMU_INV gives leave the caches; GO reads 1 until INV_DONE (R176). -/
def Block.mmuInvalidate (s : Block) (p : Nat) : Block :=
  if (s.mmu p).invGo then s
  else
    let w := s.reg (.mmu p) 0x050
    let slot := bits w 28 1
    let scope := bits w 24 4
    let lo := s.reg (.mmu p) 0x054 / 65536 * 65536 + s.reg (.mmu p) 0x058 % 2 ^ 25 * 2 ^ 32
    let hi := lo + bits w 0 24 * 65536
    let gone (e : TcEntry) : Bool := match scope with
      | 2 => true
      | 1 => e.slot = slot && decide (e.base < hi) && decide (lo < e.base + e.leaf.size)
      | _ => e.slot = slot
    let s := s.staleOut p
    s.modMmu p fun m => { m with
      invGo := true, cache := m.cache.filter fun e => !gone e,
      engCache := smMapVals [] m.engCache fun _ c => c.filter fun e => !gone e }

/-- MMU_INV_DONE: once no access with an invalidated translation is out, GO reads 0 and INV_DONE is raised (R176). -/
def Block.mmuInvDone (s : Block) (p : Nat) : Block :=
  if (s.mmu p).invGo ∧ s.staleBusy p = false then (s.modMmu p fun m => { m with invGo := false }).raise (.mmu p) 2 else s

/-- The next element that channel (`j`, `ch`) reads, or writes (`w`), lies in the 64 KiB page of `va`. -/
def Block.reaches (s : Block) (p j ch va : Nat) (w : Bool) : Bool :=
  let c := s.chan p j ch
  match c.curList, c.cur with
  | some l, some d => decide (c.state = .normal) && !d.moved && !d.hostWait && !d.hold.parks &&
      decide ((if w then (d.addrs l).2 else (d.addrs l).1) / 65536 = va / 65536)
  | _, _ => false

/-- TRANSLATION_WALK: a transfer of channel (`j`, `slot`) or a fetch reaches an untranslated page (R173). A fault of the page that the
transfer has reached parks its channel (R179). -/
def Block.walkCmd (s : Block) (p slot : Nat) (j : Option Nat) (va : Nat) (w : Bool) (ev : MemEvent) : Block :=
  if 2 ^ 57 ≤ va then s
  else
    let (l, s) := s.translate p slot j va w j.isNone ev
    match l, j with
    | .fault c e, some j => if s.reaches p j slot va w then s.parkAt p j slot va w c e else s
    | _, _ => s

/-- DMA_ENGINE_FAULT: the engine's channels move to the sibling that holds the fewest lists (R366). The fourth failure of a
cluster is a cluster hard fault (Table 14.2), of each job bound there; its channels then have no engine. -/
def Block.engineFault (s : Block) (p j : Nat) : Block :=
  if (s.eng p j).failed then s
  else
    let c := j / 4
    let was := (s.part p).clusterOk c
    let s := s.outCount (((s.modEng p j fun e => { e with failed := true }).almDue (.engine p j)).modPart p fun q =>
      { q with failedEngines := smPut false q.failedEngines j true }) p
    let own (k : Nat) : Nat := (s.eng p k).pri.lists.length + (s.eng p k).bf.lists.length
    let held (k : Nat) : Nat := own k + ((((List.range 4).map (4 * c + ·)).filter fun e => (s.eng p e).substitute = some k).map own).sum
    let ks := ((List.range 4).map (4 * c + ·)).filter fun k => !(s.eng p k).failed
    let best := ks.foldl (fun (b : Option Nat) k => match b with
      | some x => if held k < held x then some k else some x
      | none => some k) none
    match best with
    | some k =>
      ((List.range 4).map (4 * c + ·)).foldl (fun s e =>
        if e = j || (s.eng p e).substitute = some j then s.modEng p e fun x => { x with substitute := some k } else s) s
    | none =>
      let s := ((List.range 4).map (4 * c + ·)).foldl (fun s e => s.modEng p e fun x => { x with substitute := none }) s
      let s := if was then s.spareCluster p else s
      (s.part p).jobs.foldl (fun s job => s.jobFault p 0x0D job c 0x7FF) s

/-- Transactions that a partition's channels and cores have issued are outstanding, those of an issuer that has been reset too (R257), or
atomics of its cores at their homes (R219), or updates are on their way to its own sync objects, which an image must hold (R210). -/
def Block.partBusyOut (s : Block) (p : Nat) : Bool :=
  (s.xu.outs.any fun t => decide (t.origin.part = some p)) || (s.coll.outbox.any fun e => e.1 = p) ||
  (s.slots.any fun e => decide (e.1 / 306 = p) && !e.2.amos.isEmpty) ||
  (([0, 1] : List Nat).any fun x => (s.port x).reqs.any fun e => e.2.any fun r => decide (r.chan.1 = p)) ||
  !(s.syn p).inflight.isEmpty || (List.range 12).any fun q => (s.syn q).inflight.any fun u => match u.src with
    | .instr a _ _ _ _ _ => a = p
    | _ => false

/-- The messages of function `f` that wait under PCIe's rules leave once MSI-X is enabled and their vectors are not masked (R427). -/
def Block.msixDue (s : Block) (x f : Nat) : Block :=
  let m := smGet ({} : Msix) (s.port x).msix f
  let due := if m.enabled then (List.range 32).filter fun v => bit m.pending v && !bit m.masked v else []
  due.foldl (fun s v => s.emit (.msix x f v)) (s.modPort x fun y =>
    { y with msix := smMod ({} : Msix) y.msix f fun z => { z with pending := due.foldl (fun n v => n - 2 ^ v) z.pending } })

/-- The configuration that the server gives a port's functions takes effect once READY is reached (R452). -/
def Block.portCfg (s : Block) (x : Nat) : Block :=
  match (s.port x).due with
  | some (vfs, cfg) =>
    if !s.boot.ready then s
    else
      let s := s.modPort x fun y =>
        { y with due := none, vfEn := vfs,
                 msix := cfg.foldl (fun m e => smMod ({} : Msix) m e.fn fun z => { z with enabled := true, masked := e.masked.toNat }) y.msix,
                 bars := cfg.foldl (fun m e => smPut (0, 0) m e.fn (e.bar0.toNat, e.bar2.toNat)) y.bars }
      cfg.foldl (fun s e => s.msixDue x e.fn) s
  | none => s

end Sys2Proof.Machine
end

