-- ==== Sys2Proof/Machine/Isa.lean ====
section
/-! DEFINITION. Instruction words of the core (spec/03 Tables 3.2, 3.3, 3.7 to 3.9, 3.22; spec/04 Table 4.11; spec/07
Table 7.1; spec/08 Table 8.2; spec/10 Table 10.3): fields, the fields that must be zero, reserved codes, and what an illegal
word's DETAIL names (R74, R470). -/

namespace Sys2Proof.Machine

/-- The class code of an instruction word (R73). -/
def iClass (w : Nat) : Nat := bits w 60 4

/-- The opcode of an instruction word (R73). -/
def iOp (w : Nat) : Nat := bits w 54 6

/-- The fields that opcode (`c`, `o`) requires to be zero, as (lowest bit, width), and the conditions on its other fields as
(lowest bit, is illegal). None for a reserved class or opcode. A run of bits that "all else zero" leaves together is one field,
named by its lowest bit (DESIGN CHOICE, assumption log 128). A field that a table lists under a condition, and that the instruction does
not use where the condition fails, may then hold anything, but where the table says zero (DESIGN CHOICE, assumption log 212). -/
def encRow (c o w : Nat) : Option (List (Nat × Nat) × List (Nat × Bool)) :=
  let f := bits w
  let alu (n : Nat) (a : Nat) : List (Nat × Bool) := [(a, decide (n ≤ f a (if a = 32 ∧ o ≠ 1 then 7 else 12)))]
  let vr (ets : List Nat) (fns : Nat) : Option (List (Nat × Nat) × List (Nat × Bool)) :=
    some ([(0, 24)], [(31, !ets.contains (f 31 3)), (24, decide (fns ≤ f 24 7))])
  let mmc (batch : Bool) : Option (List (Nat × Nat) × List (Nat × Bool)) :=
    some ([(16, 1), (0, 3)],
      [(38, f 26 1 = 0 && f 38 4 ≠ 0), (35, f 35 3 = 7), (32, f 32 3 = 7), (30, f 30 2 = 3), (28, decide (2 ≤ f 28 2)),
       (22, decide (2 ≤ f 22 2)), (17, f 28 2 = 0 && f 17 5 ≠ 0), (3, !batch && f 3 5 ≠ 0)])
  match c, o with
  | 0x0, 0x00 => some ([(0, 32)], alu 14 32)
  | 0x0, 0x01 => some ([], alu 14 32)
  | 0x0, 0x02 => some ([(0, 32)], alu 3 32)
  | 0x0, 0x03 => some ([(0, 32)], alu 4 32)
  | 0x0, 0x04 => some ([], [(49, f 48 1 = 1 && decide (16 ≤ f 49 5))])
  | 0x0, 0x05 => some ([(32, 10)], [(42, decide (5 ≤ f 42 3))])
  | 0x0, 0x06 => some ([(32, 10)], [(42, decide (5 ≤ f 42 3))])
  | 0x1, 0x00 => some ([(32, 8)], [(45, decide (6 ≤ f 45 4))])
  | 0x1, 0x01 => some ([(32, 8)], [(45, f 45 4 ≠ 5)])
  | 0x1, 0x02 => some ([(32, 8)], [(45, f 45 4 ≠ 5), (0, f 0 32 ≠ 0)])
  | 0x2, 0x00 => vr [0, 1, 2] 1
  | 0x2, 0x01 => vr [0, 1, 2] 1
  | 0x2, 0x02 => vr [0, 1, 2] 1
  | 0x2, 0x03 => vr [0, 1] 1
  | 0x2, 0x04 => vr [0, 1, 2] 1
  | 0x2, 0x05 => vr [0, 1, 2] 1
  | 0x2, 0x06 => vr [0, 1, 2] 1
  | 0x2, 0x07 => vr [0, 1, 2] 1
  | 0x2, 0x08 => vr [0, 1, 2] 4
  | 0x2, 0x09 => vr [0, 1, 2] 1
  | 0x2, 0x0A => vr [0, 1, 2] 1
  | 0x2, 0x0B => vr [0, 1, 2] 1
  | 0x2, 0x0C => vr [0, 1, 2] 1
  | 0x2, 0x0D => vr [2] 1
  | 0x2, 0x0E => vr [2] 2
  | 0x2, 0x0F => vr [0, 1, 2] 1
  | 0x2, 0x10 => vr [0, 1, 2] 1
  | 0x2, 0x11 => vr [0, 1, 2] 1
  | 0x2, 0x12 => vr [0, 1, 2] 1
  | 0x2, 0x13 => vr [0] 5
  | 0x2, 0x14 => vr [0, 1, 2] 1
  | 0x2, 0x15 => vr [0, 1, 2] (if f 31 3 = 1 then 64 else 32)
  | 0x2, 0x16 => vr [0, 1, 2] (if f 31 3 = 1 then 64 else 32)
  | 0x2, 0x30 => some ([(0, 24)], [(24, decide (0x0E ≤ f 24 7)),
      (31, decide (f 24 7 < 0x0E) && !(match f 24 7 with
        | 0x09 => decide (2 ≤ f 31 3)
        | 0x0A => decide (2 ≤ f 31 3) && decide (f 31 3 ≤ 6)
        | 0x0B => decide (2 ≤ f 31 3)
        | 0x0C => ([2, 3, 4, 5, 7] : List Nat).contains (f 31 3)
        | 0x0D => ([2, 3, 4, 5, 7] : List Nat).contains (f 31 3)
        | _ => f 31 3 = 0))])
  | 0x3, 0x00 => mmc false
  | 0x3, 0x01 => mmc false
  | 0x3, 0x02 => mmc false
  | 0x3, 0x03 => some ([(50, 4), (35, 11), (16, 16), (0, 8)], [(32, f 32 3 = 7)])
  | 0x3, 0x04 => some ([(0, 54)], [])
  | 0x3, 0x05 => some ([(0, 51)], [(51, decide (5 ≤ f 51 3))])
  | 0x3, 0x06 => mmc true
  | 0x3, 0x07 => some ([(32, 14)], [(0, f 0 32 % 16 ≠ 0)])
  | 0x3, 0x08 => some ([(32, 14)], [(0, f 0 32 % 16 ≠ 0)])
  | 0x4, 0x00 => some ([(32, 1)], [(0, f 0 32 % 64 ≠ 0)])
  | 0x4, 0x01 => some ([(0, 48)], [(48, decide (5 ≤ f 48 3)), (52, f 51 1 = 1 && f 52 2 ≠ 0)])
  | 0x4, 0x02 => some ([(0, 45)], [(50, f 50 4 = 0 || decide (9 ≤ f 50 4))])
  | 0x4, 0x03 => some ([(0, 46)], [])
  | 0x4, 0x04 => some ([(0, 47)], [])
  | 0x5, 0x00 => some ([(0, 52)], [])
  | 0x5, 0x01 => some ([(16, 20)], [(0, f 0 16 = 0)])
  | 0x5, 0x02 => some ([(16, 20)], [(0, f 0 16 = 0)])
  | 0x5, 0x03 => some ([(32, 3)], [])
  | 0x5, 0x04 => some ([(0, 37)], [])
  | 0x5, 0x05 => some ([(0, 37)], [])
  | 0x5, 0x06 => some ([(49, 5), (32, 9)], [(16, decide (f 16 16 < 2))])
  | 0x5, 0x07 => some ([(0, 35)], [(49, f 40 1 = 1 && f 49 5 ≠ 0)])
  | 0x5, 0x08 => some ([(0, 41)], [])
  | 0x5, 0x09 => some ([(49, 5), (0, 41)], [])
  | 0x5, 0x0A => some ([(24, 4)], [(30, decide (2 ≤ f 30 2)),
      (0, decide (f 30 2 < 2) && f 0 24 % (4 * 2 ^ f 30 2) ≠ 0)])
  | 0x5, 0x3F => some ([(0, 54)], [])
  | 0x6, 0x00 => some ([(32, 7)], [(0, f 0 32 % 64 ≠ 0)])
  | 0x6, 0x01 => some ([(32, 7)], [(0, f 0 32 % 64 ≠ 0)])
  | 0x6, 0x02 => some ([(39, 4), (0, 22)], [])
  | 0x6, 0x03 => some ([(19, 3)], [(0, f 0 19 % 64 ≠ 0)])
  | 0x6, 0x04 => some ([(49, 5), (39, 4), (0, 27)], [])
  | 0x6, 0x05 => some ([(0, 49)], [])
  | 0x6, 0x06 => some ([(49, 5), (0, 43)], [])
  | 0x6, 0x07 => some ([(0, 42)], [])
  | 0x6, 0x08 => some ([(0, 43)], [])
  | 0x7, 0x00 => some ([(49, 5), (32, 17), (0, 32)], [])
  | 0x7, 0x01 => some ([], [(32, decide (6 ≤ f 32 17))])
  | 0x7, 0x02 => some ([(32, 17), (0, 32)], [])
  | 0x7, 0x10 => some ([(32, 17), (0, 32)], [])
  | 0x7, 0x11 => some ([(32, 17), (11, 21)], [])
  | 0x7, 0x12 => some ([(32, 17), (0, 32)], [])
  | 0x7, 0x13 => some ([(32, 17), (0, 32)], [])
  | _, _ => none

/-- What makes a word illegal by its fields (R74): the DETAIL's bit number, the highest of the offending fields' lowest bits
(R470); none for a word whose fields are legal. -/
def illegalField (w : Nat) : Option Nat :=
  if 8 ≤ iClass w then some 60
  else match encRow (iClass w) (iOp w) w with
    | none => some 54
    | some (zs, cs) =>
      let offending := ((zs.filter fun z => bits w z.1 z.2 ≠ 0).map (·.1)) ++ ((cs.filter (·.2)).map (·.1))
      offending.foldl (fun m b => match m with
        | some x => some (Nat.max x b)
        | none => some b) none

/-- A wait that only another event ends: the slot issues nothing until it does. -/
def Wait.holds : Wait → Bool
  | .ctr _ => true
  | .bar _ => true
  | .verdict => true
  | .frameEnd => true
  | _ => false

/-- S registers whose value is still on its way: those of atomics, and of MM.BATCH masks before their launch (R78, R98). -/
def Slot.pendingRegs (t : Slot) : List Nat :=
  t.amos.map (·.reg) ++ (t.mq.filter fun e => e.op = .batch && !e.launched).map fun e => bits e.word 3 5

/-- The lowest bits of the five-bit fields by which a legal word names S registers that it reads (Tables 3.3, 3.8, 3.22, 4.10, 7.1, 8.2
and 10.3). -/
def sReads (w : Nat) : List Nat :=
  match iClass w, iOp w with
  | 0x0, 0x01 => [44]
  | 0x0, 0x04 => []
  | 0x0, 0x05 => []
  | 0x0, 0x06 => if bits w 42 3 = 4 then [] else [49]
  | 0x0, _ => [44, 39]
  | 0x1, 0x00 => if bits w 45 4 = 5 then [] else if bits w 45 4 = 4 then [49, 40] else [49]
  | 0x1, 0x02 => [49]
  | 0x2, 0x0F => [34]
  | 0x2, 0x16 => [34]
  | 0x2, 0x30 => if ([0x01, 0x0A, 0x0D] : List Nat).contains (bits w 24 7) then [34] else []
  | 0x3, o => if ([0, 1, 2, 6] : List Nat).contains o && decide (bits w 28 2 ≠ 0) then [17] else []
  | 0x4, 0x02 => [45]
  | 0x5, 0x01 => if bit w 36 then [49] else []
  | 0x5, 0x02 => if bit w 36 then [49] else []
  | 0x5, 0x03 => if bit w 35 then [49] else []
  | 0x5, 0x05 => [49]
  | 0x5, 0x07 => if bit w 40 then [35] else []
  | 0x5, 0x08 => [49]
  | 0x5, 0x0A => if bits w 32 3 = 7 then [40, 35] else [40]
  | 0x6, 0x02 => [49, 22]
  | 0x6, 0x03 => [49, 22]
  | 0x6, 0x07 => [49]
  | 0x7, 0x02 => [49]
  | 0x7, 0x12 => [49]
  | _, _ => []

/-- The lowest bits of the fields by which a legal word names S registers that it writes. -/
def sWrites (w : Nat) : List Nat :=
  match iClass w, iOp w with
  | 0x0, 0x04 => if bit w 48 then [] else [49]
  | 0x0, 0x05 => if bits w 42 3 = 4 then [] else [49]
  | 0x0, 0x06 => []
  | 0x0, _ => [49]
  | 0x1, 0x01 => [40]
  | 0x2, 0x15 => [34]
  | 0x2, 0x30 => if bits w 24 7 = 0x0C then [34] else []
  | 0x4, 0x00 => [33]
  | 0x4, 0x04 => [49]
  | 0x5, 0x04 => [49]
  | 0x5, 0x07 => if bit w 40 then [] else [49]
  | 0x5, 0x0A => [49]
  | 0x6, 0x00 => [39]
  | 0x6, 0x01 => [49]
  | 0x6, 0x05 => [49]
  | 0x6, 0x08 => [49]
  | 0x7, 0x02 => []
  | 0x7, 0x12 => []
  | 0x7, 0x00 => []
  | 0x7, _ => [49]
  | _, _ => []

/-- An instruction word waits for S register `r`: it reads it (R78), or writes it otherwise than at its own place in the matrix queue,
so that the younger value stays (DESIGN CHOICE, assumption log 31). S0 is never waited for. -/
def awaits (w r : Nat) : Bool :=
  r ≠ 0 && (sReads w ++ sWrites w).any fun b => bits w b 5 = r

/-- A patrol visit runs on the core (R373). -/
def Block.onPatrol (s : Block) (p i : Nat) : Bool :=
  smGet false (s.part p).patrolOn (i / 17) && decide (smGet 0 (s.part p).patrolNext (i / 17) = i % 17)

/-- Bubbles take all 256 cycles of each window from a slot: it issues nothing and its work in the matrix array holds, but a comm core's
primary slot is exempt (R342, R377). -/
def Block.bubbled (s : Block) (p i sl : Nat) : Bool :=
  decide (256 ≤ s.bubbles p) && !(sl = 0 && decide (15 - (s.slot p i sl).lcore % 16 < (s.part p).comm))

/-- A slot of a core can issue now: a job is bound, the slot runs, the core runs this context, and neither the core nor the
partition is stopped (R80, R204, R342, R382, R438). A core's backfill job does not run during a patrol visit (R373), nor with CORE_BF_CFG.EN at 0 (Table 3.14). -/
def Block.canIssue (s : Block) (p i sl : Nat) : Bool :=
  let t := s.slot p i sl
  let k := s.core p i
  t.bound && decide (t.stop = .running) && !t.wait.holds && !k.halted && !k.inReset &&
    (if sl = 0 then decide (k.ctx = .primary) else decide (k.ctx = .backfill) && s.bfOn p i) &&
    (match (s.part p).state with
      | .normal => true
      | .aborting => true
      | .preemptDeferred => true
      | _ => false) && !(s.part p).lost && !(sl = 1 && s.onPatrol p i) &&
    !s.bubbled p i sl

/-- The lowest frame boundary has passed for a partition once an instruction has issued in the frame (R47). -/
def Block.leaveBoundary (s : Block) (p : Nat) : Block :=
  if (s.part p).atBoundary then s.modPart p fun q => { q with atBoundary := false } else s

/-- An instruction word of row (`c`, `o`) comes to issue in a slot: an illegal word faults precisely (R74), a word of another
row or a slot that cannot issue changes nothing, else `body` is the instruction's effect. -/
def Block.issue (s : Block) (p i sl w c o : Nat) (body : Block → Block) : Block :=
  if !s.canIssue p i sl then s
  else match illegalField w with
    | some d => if iClass w = c ∧ iOp w = o ∨ d = 60 ∨ encRow (iClass w) (iOp w) w = none then
        (s.leaveBoundary p).coreFault p i sl .illegal d else s
    | none =>
      if iClass w = c ∧ iOp w = o then
        if (s.slot p i sl).pendingRegs.any (awaits w) then
          s.modSlot p i sl fun t => { t with wait := .operand, waitWord := w }
        else
          let s := s.leaveBoundary p
          body (if (s.slot p i sl).wait = .none ∨ (s.slot p i sl).wait = .operand then s.traceCore p i 0 (leBytes 8 (s.slot p i sl).pc) else s)
      else s

end Sys2Proof.Machine
end

