-- ==== Sys2Proof/Machine/Arith.lean ====
section
/-! DEFINITION. Arithmetic edition 1 (spec/04, R103 to R127, R469): element formats, decoding, rounding, overflow
modes, the stochastic generator, exact sums and products, group sums, narrowing of blocks, special functions. Every
function is exact integer arithmetic; a result comes with the flags of Table 4.9 that it raises. -/

namespace Sys2Proof.Machine

/-- Element formats (Tables 3.6 and 4.1, R105). -/
inductive NFmt where
  | fp32
  | bf16
  | fp16
  | e4m3
  | e5m2
  | e2m1
  | int8
  | uint8
  | int4
  | uint4
  | int32
  | idx16
deriving DecidableEq, Repr

/-- Overflow modes (Table 4.6). -/
inductive OvMode where
  | sat
  | ieee
  | wrap
deriving DecidableEq, Repr

/-- Rounding: to nearest even, or stochastic with 32 random bits (R116). -/
inductive Rnd where
  | rne
  | stoch (r : Nat)
deriving DecidableEq, Repr

/-- Flags of Table 4.9 as bits of a number. -/
def fNX : Nat := 1
/-- UF (Table 4.9). -/
def fUF : Nat := 2
/-- OF (Table 4.9). -/
def fOF : Nat := 4
/-- SATD (Table 4.9). -/
def fSATD : Nat := 8
/-- NV (Table 4.9). -/
def fNV : Nat := 16
/-- NAN_IN (Table 4.9). -/
def fNANIN : Nat := 32
/-- INF_IN (Table 4.9). -/
def fINFIN : Nat := 64
/-- NONFINITE (Table 4.9). -/
def fNONF : Nat := 128
/-- WRAPPED (Table 4.9). -/
def fWRAP : Nat := 256
/-- NARROW_SAT (Table 4.9). -/
def fNSAT : Nat := 512
/-- NARROW_FLUSH (Table 4.9). -/
def fNFLUSH : Nat := 1024

/-- Width of an element in bits. -/
def NFmt.bits : NFmt → Nat
  | .fp32 => 32
  | .bf16 => 16
  | .fp16 => 16
  | .e4m3 => 8
  | .e5m2 => 8
  | .e2m1 => 4
  | .int8 => 8
  | .uint8 => 8
  | .int4 => 4
  | .uint4 => 4
  | .int32 => 32
  | .idx16 => 16

/-- Whether the format is a float format. -/
def NFmt.isFloat : NFmt → Bool
  | .fp32 | .bf16 | .fp16 | .e4m3 | .e5m2 | .e2m1 => true
  | _ => false

/-- Whether an integer format is signed (R105). -/
def NFmt.signed : NFmt → Bool
  | .uint8 | .uint4 | .idx16 => false
  | _ => true

/-- Fraction bits (Table 4.1). -/
def NFmt.mant : NFmt → Nat
  | .fp32 => 23
  | .bf16 => 7
  | .fp16 => 10
  | .e4m3 => 3
  | .e5m2 => 2
  | .e2m1 => 1
  | _ => 0

/-- Exponent bias (Table 4.1). -/
def NFmt.bias : NFmt → Nat
  | .fp32 => 127
  | .bf16 => 127
  | .fp16 => 15
  | .e4m3 => 7
  | .e5m2 => 15
  | .e2m1 => 1
  | _ => 0

/-- The code of the largest finite value (Table 4.1). -/
def NFmt.maxCode : NFmt → Nat
  | .fp32 => 0x7F7FFFFF
  | .bf16 => 0x7F7F
  | .fp16 => 0x7BFF
  | .e4m3 => 0x7E
  | .e5m2 => 0x7B
  | .e2m1 => 0x7
  | .int8 => 127
  | .uint8 => 255
  | .int4 => 7
  | .uint4 => 15
  | .int32 => 0x7FFFFFFF
  | .idx16 => 0xFFFF

/-- Whether the format has infinities (Table 4.1). -/
def NFmt.hasInf : NFmt → Bool
  | .fp32 | .bf16 | .fp16 | .e5m2 => true
  | _ => false

/-- The canonical NaN of the format, none where it has no NaN (R108). -/
def NFmt.canonNan : NFmt → Option Nat
  | .fp32 => some 0x7FC00000
  | .bf16 => some 0x7FC0
  | .fp16 => some 0x7E00
  | .e4m3 => some 0x7F
  | .e5m2 => some 0x7E
  | _ => none

/-- The infinity code without its sign. -/
def NFmt.infCode (f : NFmt) : Nat := f.maxCode + 1

/-- An exact value: a NaN, an infinity, or sign and magnitude num / den (den is never 0 in use). -/
inductive XVal where
  | nan
  | inf (neg : Bool)
  | fin (neg : Bool) (num den : Nat)
deriving DecidableEq, Repr

/-- The exact value m × 2^q with a sign. -/
def xDyadic (neg : Bool) (m : Nat) (q : Int) : XVal :=
  if q < 0 then .fin neg m (2 ^ q.natAbs) else .fin neg (m * 2 ^ q.natAbs) 1

/-- The exact value of an integer. -/
def xInt (v : Int) : XVal := .fin (decide (v < 0)) v.natAbs 1

/-- Decoding of an element code (R103 to R106, R108). -/
def decodeElt (f : NFmt) (code0 : Nat) : XVal :=
  let code := code0 % 2 ^ f.bits
  if f.isFloat then
    let neg := decide (code / 2 ^ (f.bits - 1) = 1)
    let mag := code % 2 ^ (f.bits - 1)
    if mag > f.maxCode then
      (if f.hasInf && decide (mag = f.infCode) then .inf neg else .nan)
    else
      let e := mag / 2 ^ f.mant
      let fr := mag % 2 ^ f.mant
      if e = 0 then xDyadic neg fr (1 - (f.bias : Int) - f.mant)
      else xDyadic neg (2 ^ f.mant + fr) ((e : Int) - f.bias - f.mant)
  else if f.signed && decide (code ≥ 2 ^ (f.bits - 1)) then .fin true (2 ^ f.bits - code) 1
  else .fin false code 1

/-- The largest finite value of a format with a sign. -/
def xMax (f : NFmt) (neg : Bool) : XVal :=
  match decodeElt f f.maxCode with
  | .fin _ n d => .fin neg n d
  | v => v

/-- Floor of the base-2 logarithm of num / den, both positive. -/
def floorLog2 (num den : Nat) : Int :=
  let e : Int := (Nat.log2 num : Int) - Nat.log2 den
  if e < 0 then (if num * 2 ^ e.natAbs < den then e - 1 else e)
  else (if num < den * 2 ^ e.natAbs then e - 1 else e)

/-- num / den in units of 2^q: the quotient's numerator and denominator. -/
def scaleBy (num den : Nat) (q : Int) : Nat × Nat :=
  if q < 0 then (num * 2 ^ q.natAbs, den) else (num, den * 2 ^ q.natAbs)

/-- The kept integer after rounding n / d, and whether the rounding was inexact (R116). -/
def roundKept (n d : Nat) (sticky : Bool) (rnd : Rnd) : Nat × Bool :=
  let kept := n / d
  let rest := n % d
  let inexact := decide (rest ≠ 0) || sticky
  match rnd with
  | .rne =>
    if 2 * rest > d then (kept + 1, inexact)
    else if decide (2 * rest = d) && (sticky || decide (kept % 2 = 1)) then (kept + 1, inexact)
    else (kept, inexact)
  | .stoch r => if (rest * 2 ^ 32) / d + r ≥ 2 ^ 32 then (kept + 1, inexact) else (kept, inexact)

/-- A signed code of a format. -/
def withSign (f : NFmt) (neg : Bool) (mag : Nat) : Nat := if neg then 2 ^ (f.bits - 1) + mag else mag

/-- A rounded result beyond the largest finite value (Table 4.6, R119). -/
def overflowTo (f : NFmt) (neg : Bool) (mode : OvMode) : Nat × Nat :=
  let extra := if f = .fp32 then fNONF else 0
  if f = .e2m1 || decide (mode ≠ .ieee) then (withSign f neg f.maxCode, fOF ||| fSATD ||| extra)
  else if f = .e4m3 then (0x7F, fOF ||| fNV ||| fNONF)
  else (withSign f neg f.infCode, fOF ||| fNONF)

/-- Rounding of an exact finite value to a float format (R116): the code and the flags raised. -/
def roundTo (neg : Bool) (num den : Nat) (sticky : Bool) (f : NFmt) (rnd : Rnd) (mode : OvMode) : Nat × Nat :=
  if num = 0 then (withSign f neg 0, 0)
  else
    let emin : Int := 1 - (f.bias : Int)
    let e := floorLog2 num den
    let top := if e < emin then emin else e
    let (n, d) := scaleBy num den (top - f.mant)
    let (kept, inexact) := roundKept n d sticky rnd
    let fl := (if inexact then fNX else 0) ||| (if inexact && decide (e < emin) then fUF else 0)
    let code := (top + f.bias - 1).toNat * 2 ^ f.mant + kept
    if code > f.maxCode then
      let (c, fo) := overflowTo f neg mode
      (c, fl ||| fo)
    else (withSign f neg code, fl)

/-- Two's complement code of an integer in a width. -/
def twos (w : Nat) (v : Int) : Nat := (v % (2 ^ w : Nat)).toNat

/-- An exact integer written to an integer format (Table 4.6). -/
def encodeInt (f : NFmt) (mode : OvMode) (v : Int) : Nat × Nat :=
  let lo : Int := if f.signed then -(2 ^ (f.bits - 1) : Nat) else 0
  let hi : Int := f.maxCode
  if lo ≤ v ∧ v ≤ hi then (twos f.bits v, 0)
  else if mode = .wrap then (twos f.bits v, fWRAP)
  else if v < lo then (twos f.bits lo, fSATD) else (twos f.bits hi, fSATD)

/-- An exact value written to a format, rounding once (R116, R119, R120, R127, R469). -/
def encodeElt (f : NFmt) (v : XVal) (rnd : Rnd) (mode : OvMode) : Nat × Nat :=
  match v with
  | .nan =>
    match f.canonNan with
    | some c => (c, fNONF)
    | none => (0, fNV ||| fNONF)
  | .inf neg =>
    if !f.isFloat then
      (if neg then (twos f.bits (if f.signed then -(2 ^ (f.bits - 1) : Nat) else 0), fSATD) else (f.maxCode, fSATD))
    else if f = .e2m1 || decide (mode ≠ .ieee) then (withSign f neg f.maxCode, fSATD)
    else if f = .e4m3 then (0x7F, fNV ||| fNONF)
    else (withSign f neg f.infCode, fNONF)
  | .fin neg n d =>
    if f.isFloat then roundTo neg n d false f rnd mode
    else
      let (kept, inexact) := roundKept n d false rnd
      let (c, fl) := encodeInt f mode (if neg then -(kept : Int) else kept)
      (c, fl ||| (if inexact then fNX else 0))

/-- The replacement of an infinite input (first row of Table 4.6). -/
def satInput (v : XVal) (f : NFmt) (mode : OvMode) : XVal × Nat :=
  match v with
  | .inf neg => if mode = .ieee then (v, fINFIN ||| fNONF) else (xMax f neg, fINFIN ||| fSATD)
  | _ => (v, 0)

/-- Negation of an exact value. -/
def xNeg : XVal → XVal
  | .nan => .nan
  | .inf n => .inf (!n)
  | .fin n a b => .fin (!n) a b

/-- Exact product with IEEE specials (R109, R120). -/
def xMul (a b : XVal) : XVal × Nat :=
  match a, b with
  | .nan, _ => (.nan, fNANIN ||| fNONF)
  | _, .nan => (.nan, fNANIN ||| fNONF)
  | .inf x, .inf y => (.inf (x != y), 0)
  | .inf x, .fin y n _ => if n = 0 then (.nan, fNV ||| fNONF) else (.inf (x != y), 0)
  | .fin x n _, .inf y => if n = 0 then (.nan, fNV ||| fNONF) else (.inf (x != y), 0)
  | .fin x n d, .fin y m e => (.fin (x != y) (n * m) (d * e), 0)

/-- Exact sum of two finite values (R109: exact cancellation gives +0, −0 and −0 give −0). -/
def finAdd (x : Bool) (n d : Nat) (y : Bool) (m e : Nat) : XVal :=
  let s : Int := (if x then -((n * e : Nat) : Int) else (n * e : Nat)) + (if y then -((m * d : Nat) : Int) else (m * d : Nat))
  if s = 0 then .fin (x && y) 0 1 else .fin (decide (s < 0)) s.natAbs (d * e)

/-- Exact sum with IEEE specials (R109, R120, R122). -/
def xAdd (a b : XVal) : XVal × Nat :=
  match a, b with
  | .nan, _ => (.nan, fNANIN ||| fNONF)
  | _, .nan => (.nan, fNANIN ||| fNONF)
  | .inf x, .inf y => if x = y then (.inf x, 0) else (.nan, fNV ||| fNONF)
  | .inf x, .fin _ _ _ => (.inf x, 0)
  | .fin _ _ _, .inf y => (.inf y, 0)
  | .fin x n d, .fin y m e => (finAdd x n d y m e, 0)

/-- Whether an exact value is a zero. -/
def xIsZero : XVal → Bool
  | .fin _ n _ => decide (n = 0)
  | _ => false

/-- Comparison a < b of two values that are not NaN. -/
def xLt (a b : XVal) : Bool :=
  match a, b with
  | .inf true, .inf true => false
  | .inf true, _ => true
  | _, .inf true => false
  | .inf false, _ => false
  | _, .inf false => true
  | .fin x n d, .fin y m e =>
    decide ((if x then -((n * e : Nat) : Int) else (n * e : Nat)) < (if y then -((m * d : Nat) : Int) else (m * d : Nat)))
  | _, _ => false

/-- Equality of two values that are not NaN (zeros of either sign are equal). -/
def xEq (a b : XVal) : Bool :=
  match a, b with
  | .inf x, .inf y => x == y
  | .fin x n d, .fin y m e => decide (n * e = m * d) && (x == y || decide (n = 0))
  | _, _ => false

/-! ### The stochastic generator (R117) -/

/-- The mixing function of R117, modulo 2⁶⁴. -/
def srMix (x0 : Nat) : Nat :=
  let x1 := x0 ^^^ (x0 >>> 30)
  let x2 := (x1 * 0xBF58476D1CE4E5B9) % 2 ^ 64
  let x3 := x2 ^^^ (x2 >>> 27)
  let x4 := (x3 * 0x94D049BB133111EB) % 2 ^ 64
  x4 ^^^ (x4 >>> 31)

/-- The 32 random bits of a seed, a stream identifier and an element index (R117). -/
def srBits (seed stream index : Nat) : Nat :=
  let k := srMix ((seed % 2 ^ 32) * 2 ^ 32 + stream % 2 ^ 32)
  let x := srMix (k ^^^ (index % 2 ^ 64))
  srMix ((x + k) % 2 ^ 64) >>> 32

/-! ### Group sums (R121) -/

/-- The magnitude of a finite value truncated to a multiple of 2^q, in units of 2^q, and whether bits were lost. -/
def truncUnits (n d : Nat) (q : Int) : Nat × Bool :=
  let (a, b) := scaleBy n d q
  (a / b, decide (a % b ≠ 0))

/-- The signed sum in units of 2^q of a list of finite values, with the sticky bit. -/
def sumUnits (q : Int) : List XVal → Int × Bool
  | [] => (0, false)
  | .fin neg n d :: t =>
    let (s, st) := sumUnits q t
    let (u, lost) := truncUnits n d q
    ((if neg then s - u else s + u), st || lost)
  | _ :: t => sumUnits q t

/-- The largest binary exponent among the nonzero values. -/
def maxExp : List XVal → Option Int
  | [] => none
  | .fin _ n d :: t =>
    if n = 0 then maxExp t
    else
      let e := floorLog2 n d
      match maxExp t with
      | none => some e
      | some m => some (if e < m then m else e)
  | _ :: t => maxExp t

/-- Whether a value is a negative zero or any zero with its sign set. -/
def xIsNegZero : XVal → Bool
  | .fin neg n _ => neg && decide (n = 0)
  | _ => false

/-- An infinity of the list with the given sign. -/
def hasInfSign (neg : Bool) (l : List XVal) : Bool := l.any (fun v => decide (v = .inf neg))

/-- group_sum of R121 over one group of products, rounded to FP32: the value and its flags. -/
def groupSum (p : List XVal) (mode : OvMode) : XVal × Nat :=
  if p.any (fun v => decide (v = .nan)) then (.nan, fNONF)
  else if hasInfSign false p || hasInfSign true p then
    (if hasInfSign false p && hasInfSign true p then (.nan, fNV ||| fNONF) else (.inf (hasInfSign true p), 0))
  else
    match maxExp p with
    | none => (.fin (p.all xIsNegZero) 0 1, 0)
    | some e =>
      let (s, sticky) := sumUnits (e - 63) p
      match xDyadic (decide (s < 0)) s.natAbs (e - 63) with
      | .fin neg n d =>
        let (c, fl) := roundTo neg n d sticky .fp32 .rne mode
        (decodeElt .fp32 c, fl)
      | v => (v, 0)

/-- An FP32 addition with one RNE rounding (R122). -/
def accAdd (a b : XVal) (mode : OvMode) : XVal × Nat :=
  let (v, f1) := xAdd a b
  let (c, f2) := encodeElt .fp32 v .rne mode
  (decodeElt .fp32 c, f1 ||| f2)

/-- An addition to the INT32 accumulator with SAT or WRAP (R123). -/
def accAddInt (a b : Int) (mode : OvMode) : Int × Nat :=
  let (c, fl) := encodeInt .int32 mode (a + b)
  ((if c ≥ 2 ^ 31 then (c : Int) - 2 ^ 32 else c), fl)

/-- Rounding of an exact finite value to an integer by RNE (R123). -/
def roundInt (v : XVal) (rnd : Rnd) : Int × Nat :=
  match v with
  | .fin neg n d =>
    let (k, ix) := roundKept n d false rnd
    ((if neg then -(k : Int) else k), if ix then fNX else 0)
  | _ => (0, 0)

/-! ### Block scales and narrowing (R110, R115) -/

/-- The value of a block-scale code (Table 4.3). -/
def scaleVal (e4m3Scale : Bool) (code : Nat) : XVal :=
  if e4m3Scale then (if code ≥ 0x7F then .nan else decodeElt .e4m3 code)
  else if code = 0xFF then .nan else xDyadic false 1 ((code : Int) - 127)

/-- The NaN scale code of a scale format (R115 writes it for a NaN block). -/
def scaleNan (e4m3Scale : Bool) : Nat := if e4m3Scale then 0x7F else 0xFF

/-- emax of Table 4.5. -/
def NFmt.emax : NFmt → Nat
  | .e4m3 => 8
  | .e5m2 => 15
  | .e2m1 => 2
  | .int8 => 6
  | .int4 => 2
  | _ => 0

/-- maxval of Table 4.5. -/
def NFmt.maxVal : NFmt → Nat
  | .e4m3 => 448
  | .e5m2 => 57344
  | .e2m1 => 6
  | .int8 => 127
  | .int4 => 7
  | _ => 1

/-- A value over a positive scale, as a step of a conversion: −0 stays −0 (R109, R115). -/
def xUnscale (a : XVal) (m e : Nat) : XVal :=
  match a with
  | .fin x n d => .fin x (n * e) (d * m)
  | w => w

/-- Division of exact values by a finite nonzero value; an exact zero is +0, for R109 excepts no quotient. -/
def xDivFin (a : XVal) (neg : Bool) (m e : Nat) : XVal :=
  match a with
  | .fin x n d => .fin (decide (n ≠ 0) && (x != neg)) (n * e) (d * m)
  | .inf x => .inf (x != neg)
  | .nan => .nan

/-- The larger magnitude of a list of finite values, as numerator and denominator. -/
def amaxOf : List XVal → Nat × Nat
  | [] => (0, 1)
  | .fin _ n d :: t =>
    let (m, e) := amaxOf t
    if m * d < n * e then (n, d) else (m, e)
  | _ :: t => amaxOf t

/-- The smallest E4M3 code from `c` on, within `fuel` codes, whose value is at least n / d. -/
def smallestE4m3 (n d : Nat) : Nat → Nat → Nat
  | 0, _ => 0x7E
  | fuel + 1, c =>
    match decodeElt .e4m3 c with
    | .fin _ m e => if n * e ≤ m * d then c else smallestE4m3 n d fuel (c + 1)
    | _ => 0x7E

/-- The scale code that narrow_block chooses for a nonzero amax = n / d. -/
def chooseScale (f : NFmt) (e4m3Scale : Bool) (n d : Nat) : Nat :=
  if e4m3Scale then smallestE4m3 n (d * f.maxVal) 0x7E 1
  else
    let c := floorLog2 n d - f.emax + 127
    if c < 0 then 0 else if c > 254 then 254 else c.toNat

/-- One narrowed element: its code, its flags, whether it was flushed, whether it saturated. -/
structure NarrowElt where
  code : Nat
  flags : Nat
  flush : Bool
  satd : Bool
deriving DecidableEq, Repr

/-- Narrowing of one scaled value v of a block whose source (after TSCALE) is y (R115). -/
def narrowElt (f : NFmt) (y v : XVal) (rnd : Rnd) : NarrowElt :=
  match v with
  | .fin neg n d =>
    if f.isFloat then
      let (c, fl) := roundTo neg n d false f rnd .sat
      let z := decide (c % 2 ^ (f.bits - 1) = 0) && !xIsZero y
      let ovr := decide (fl &&& fOF ≠ 0)
      ⟨c, fl ||| (if ovr then fNSAT else 0) ||| (if z then fNFLUSH else 0), z, ovr⟩
    else
      let (k, ix) := roundKept n d false rnd
      let ovr := decide (k > f.maxVal)
      let m := if ovr then f.maxVal else k
      let z := decide (m = 0) && !xIsZero y
      ⟨twos f.bits (if neg then -(m : Int) else m),
        (if ix then fNX else 0) ||| (if ovr then fNSAT ||| fSATD else 0) ||| (if z then fNFLUSH else 0), z, ovr⟩
  | _ => ⟨0, 0, false, false⟩

/-- A narrowed block: scale code, element codes, flags, counts of flushed and saturated elements, NaN scale. -/
structure NarrowBlock where
  scale : Nat
  elts : List Nat
  flags : Nat
  flushes : Nat
  sats : Nat
  nanScale : Bool
deriving DecidableEq, Repr

/-- A block whose scale is the NaN code and whose elements are +0. -/
def nanBlock (n : Nat) (e4m3Scale : Bool) (flags : Nat) : NarrowBlock :=
  ⟨scaleNan e4m3Scale, List.replicate n 0, flags, 0, 0, true⟩

/-- The rounding of each element of a block, from a list of per-element random bits. -/
def rndAt (rs : List Nat) (i : Nat) : Rnd :=
  match rs[i]? with
  | some r => .stoch r
  | none => .rne

/-- narrow_block of R115. `src` is the source format (for the SAT replacement), `ts` the TSCALE when enabled, `rs`
the random bits of the elements (empty for RNE). A zero that the division by TSCALE gives is +0 (R109; assumption log 134). -/
def narrowBlock (xs : List XVal) (src f : NFmt) (e4m3Scale : Bool) (mode : OvMode) (ts : Option XVal) (rs : List Nat) : NarrowBlock :=
  let n := xs.length
  if xs.any (fun v => decide (v = .nan)) then nanBlock n e4m3Scale (fNANIN ||| fNONF)
  else
    let anyInf := hasInfSign false xs || hasInfSign true xs
    if anyInf && decide (mode = .ieee) then nanBlock n e4m3Scale (fINFIN ||| fNV ||| fNONF)
    else
      let xs1 := xs.map (fun v => (satInput v src .sat).1)
      let f1 := if anyInf then fINFIN ||| fSATD else 0
      let tf : Option XVal × Nat := match ts with
        | some (.inf neg) => if mode = .ieee then (ts, 0) else (some (xMax .fp32 neg), fINFIN ||| fSATD)
        | _ => (ts, 0)
      let ts1 := tf.1
      let f2 := tf.2
      let bad := match ts1 with
        | some (.fin _ m _) => decide (m = 0)
        | some _ => true
        | none => false
      if bad then nanBlock n e4m3Scale (f1 ||| f2 ||| fNV ||| fNONF)
      else
        let ys : List XVal := match ts1 with
          | some (.fin neg m e) => xs1.map (fun v => xDivFin v neg m e)
          | _ => xs1
        let (an, ad) := amaxOf ys
        if an = 0 then
          let elts := ys.map (fun y => match y with
            | .fin neg _ _ => if f.isFloat then withSign f neg 0 else 0
            | _ => 0)
          ⟨0, elts, f1 ||| f2, 0, 0, false⟩
        else
          let code := chooseScale f e4m3Scale an ad
          let q : List NarrowElt := (List.range n).map (fun i =>
            match ys[i]?, scaleVal e4m3Scale code with
            | some y, .fin _ sm se => narrowElt f y (xUnscale y sm se) (rndAt rs i)
            | _, _ => ⟨0, 0, false, false⟩)
          ⟨code, q.map NarrowElt.code, q.foldl (fun a e => a ||| e.flags) (f1 ||| f2),
            q.countP NarrowElt.flush, q.countP NarrowElt.satd, false⟩

end Sys2Proof.Machine
end

