-- ==== Sys2Proof/Machine/Special.lean ====
section
/-! DEFINITION. The FP32 special functions of R83 and R126: the exact mathematical value rounded once. Each function
encloses its value between two fractions in integer arithmetic and rounds both; where they differ it repeats with more
bits. Assumption log 20 says why two precisions settle every FP32 input. -/

namespace Sys2Proof.Machine

/-- Integer square root of `n` by bits: the largest r' ≥ r with r' ≤ r + 2^b − 1 and r'² ≤ n. -/
def isqrtBits (n : Nat) : Nat → Nat → Nat
  | 0, r => r
  | b + 1, r => if (r + 2 ^ b) * (r + 2 ^ b) ≤ n then isqrtBits n b (r + 2 ^ b) else isqrtBits n b r

/-- Lower bound of ln 2 × 2^p by its series Σ 1/(k 2^k), `k` terms. -/
def ln2Sum (p : Nat) : Nat → Nat
  | 0 => 0
  | k + 1 => ln2Sum p k + 2 ^ p / ((k + 1) * 2 ^ (k + 1))

/-- Bounds of ln 2 × 2^p. -/
def ln2Bounds (p : Nat) : Nat × Nat :=
  let s := ln2Sum p (p + 8)
  (s, s + p + 10)

/-- Partial sum of the exponential series at t × 2^-p, each term rounded down plus `up`; the last term is returned too. -/
def expTerms (p t up : Nat) : Nat → Nat → Nat → Nat → Nat × Nat
  | 0, _, term, acc => (acc, term)
  | fuel + 1, n, term, acc =>
    let next := term * t / (2 ^ p * n) + up
    expTerms p t up fuel (n + 1) next (acc + next)

/-- Bounds of exp(t) × 2^p for tlo ≤ t × 2^p ≤ thi, with t below 1. -/
def expBounds (p tlo thi : Nat) : Nat × Nat :=
  let n := p / 4 + 12
  let (a, _) := expTerms p tlo 0 n 1 (2 ^ p) (2 ^ p)
  let (b, last) := expTerms p thi 1 n 1 (2 ^ p) (2 ^ p)
  (a, b + 2 * last + 2)

/-- Partial sum of the atanh series, terms z^(2k+1)/(2k+1), each term rounded down plus `up`. -/
def atanhTerms (p z2 up : Nat) : Nat → Nat → Nat → Nat → Nat × Nat
  | 0, _, term, acc => (acc, term)
  | fuel + 1, k, term, acc => atanhTerms p z2 up fuel (k + 1) (term * z2 / 2 ^ p + up) (acc + term / (2 * k + 1) + up)

/-- Bounds of ln(a/b) × 2^p for 1 ≤ a/b ≤ 2. -/
def lnBounds (p a b : Nat) : Nat × Nat :=
  let zlo := (a - b) * 2 ^ p / (a + b)
  let zhi := zlo + 1
  let n := p / 3 + 6
  let (s, _) := atanhTerms p (zlo * zlo / 2 ^ p) 0 n 0 zlo 0
  let (t, last) := atanhTerms p (zhi * zhi / 2 ^ p + 1) 1 n 0 zhi 0
  (2 * s, 2 * (t + 2 * last + 2))

/-- The common rounding of two bounds of a magnitude, none where they round differently. -/
def agree (neg : Bool) (lo hi : Nat × Nat) (mode : OvMode) : Option (Nat × Nat) :=
  let a := roundTo neg lo.1 lo.2 false .fp32 .rne mode
  if a = roundTo neg hi.1 hi.2 false .fp32 .rne mode then some a else none

/-- Rounding by bounds at 128 bits, then at 448 bits; the bounds function gives the bounds at a precision. -/
def zivRound (neg : Bool) (bounds : Nat → (Nat × Nat) × (Nat × Nat)) (mode : OvMode) : Nat × Nat :=
  match agree neg (bounds 128).1 (bounds 128).2 mode with
  | some r => r
  | none => roundTo neg (bounds 448).1.1 (bounds 448).1.2 false .fp32 .rne mode

/-- A fraction num / den times 2^k. -/
def fracShift (num den : Nat) (k : Int) : Nat × Nat :=
  if k < 0 then (num, den * 2 ^ k.natAbs) else (num * 2 ^ k.natAbs, den)

/-- exp2 of a finite value (R83, R126). -/
def sfExp2 (neg : Bool) (n d : Nat) (mode : OvMode) : Nat × Nat :=
  let k : Int := if neg then -(((n + d - 1) / d : Nat) : Int) else ((n / d : Nat) : Int)
  let fn : Nat := if neg then (d - n % d) % d else n % d
  if k ≥ 129 then roundTo false (if fn = 0 then 2 ^ 129 else 2 ^ 130 + 1) (if fn = 0 then 1 else 2) false .fp32 .rne mode
  else if k ≤ -152 then roundTo false 1 (2 ^ 152) false .fp32 .rne mode
  else if fn = 0 then
    let (a, b) := fracShift 1 1 k
    roundTo false a b false .fp32 .rne mode
  else
    zivRound false (fun p =>
      let (l, h) := ln2Bounds p
      let (a, b) := expBounds p (fn * l / d) (fn * h / d + 1)
      (fracShift a (2 ^ p) k, fracShift b (2 ^ p) k)) mode

/-- log2 of a positive finite value n / d (R83, R126). -/
def sfLog2 (n d : Nat) (mode : OvMode) : Nat × Nat :=
  let e := floorLog2 n d
  let (a, b) := fracShift n d (-e)
  if a = b then
    (match xInt e with
    | .fin neg m _ => roundTo neg m 1 false .fp32 .rne mode
    | _ => (0, 0))
  else
    zivRound (decide (e < 0)) (fun p =>
      let (l2lo, l2hi) := ln2Bounds p
      let (llo, lhi) := lnBounds p a b
      if e < 0 then
        ((e.natAbs * l2lo - lhi, l2lo), (e.natAbs * l2hi - llo, l2hi))
      else ((e.natAbs * l2hi + llo, l2hi), (e.natAbs * l2lo + lhi, l2lo))) mode

/-- Six squarings of a fixed-point bound. -/
def squareUp (p up : Nat) : Nat → Nat → Nat
  | 0, x => x
  | k + 1, x => squareUp p up k (x * x / 2 ^ p + up)

/-- tanh of a finite nonzero magnitude n / d (R83, R126). -/
def sfTanh (neg : Bool) (n d : Nat) (mode : OvMode) : Nat × Nat :=
  if n ≥ 20 * d then roundTo neg (2 ^ 60 - 1) (2 ^ 60) false .fp32 .rne mode
  else if n * 1024 ≤ d then
    zivRound neg (fun _ =>
      ((315 * n * d ^ 6 + 42 * n ^ 5 * d ^ 2 - 105 * n ^ 3 * d ^ 4 - 17 * n ^ 7, 315 * d ^ 7),
       (15 * n * d ^ 4 + 2 * n ^ 5 - 5 * n ^ 3 * d ^ 2, 15 * d ^ 5))) mode
  else
    zivRound neg (fun p =>
      let t := 2 * n * 2 ^ p / (64 * d)
      let (a, b) := expBounds p t (t + 1)
      let elo := squareUp p 0 6 a
      let ehi := squareUp p 1 6 b
      ((elo - 2 ^ p, elo + 2 ^ p), (ehi - 2 ^ p, ehi + 2 ^ p))) mode

/-- Reciprocal square root of a positive finite value n / d (R83, R126). -/
def sfRsqrt (n d : Nat) (mode : OvMode) : Nat × Nat :=
  let m := d * 4 ^ 256 / n
  let r := isqrtBits m 400 0
  roundTo false r (2 ^ 256) (decide (r * r * n ≠ d * 4 ^ 256)) .fp32 .rne mode

/-- VSF of one FP32 element (R83, R126): the function codes of Table 3.22, 0 exp2 to 4 tanh. -/
def specialElt (fn : Nat) (code : Nat) (mode : OvMode) : Nat × Nat :=
  let (x, f0) := satInput (decodeElt .fp32 code) .fp32 mode
  let r : Nat × Nat := match x with
    | .nan => (0x7FC00000, fNANIN ||| fNONF)
    | .inf neg =>
      if fn = 0 then (if neg then (0, 0) else (0x7F800000, fNONF))
      else if fn = 1 then (if neg then (0x7FC00000, fNV ||| fNONF) else (0x7F800000, fNONF))
      else if fn = 2 then (0, 0)
      else if fn = 3 then (if neg then (0x7FC00000, fNV ||| fNONF) else (0, 0))
      else (withSign .fp32 neg 0x3F800000, 0)
    | .fin neg n d =>
      if fn = 0 then sfExp2 neg n d mode
      else if fn = 1 then
        (if n = 0 then (0xFF800000, fNONF) else if neg then (0x7FC00000, fNV ||| fNONF) else sfLog2 n d mode)
      else if fn = 2 then (if n = 0 then (withSign .fp32 neg 0x7F800000, fNONF) else roundTo neg d n false .fp32 .rne mode)
      else if fn = 3 then
        (if n = 0 then (withSign .fp32 neg 0x7F800000, fNONF) else if neg then (0x7FC00000, fNV ||| fNONF) else sfRsqrt n d mode)
      else if n = 0 then (withSign .fp32 neg 0, 0) else sfTanh neg n d mode
  (r.1, f0 ||| r.2)

end Sys2Proof.Machine
end

