-- ==== Sys2Proof/Machine/VecArith.lean ====
section
/-! DEFINITION. Vector arithmetic on 1,024-bit registers (R75, R83, R86, R125 to R127): element-wise operations,
reductions, moves and conversions, each giving the register's bits and the flags raised. -/

namespace Sys2Proof.Machine

/-- The element of width `w` at index `i` of a register's bits. -/
def vElt (v w i : Nat) : Nat := (v >>> (w * i)) % 2 ^ w

/-- Elements packed from index 0 on. -/
def vPack (w : Nat) : List Nat → Nat
  | [] => 0
  | e :: t => (e % 2 ^ w) + (vPack w t) * 2 ^ w

/-- The element format of a VR element-type code (R86). -/
def vFmt : Nat → Option NFmt
  | 0 => some .fp32
  | 1 => some .bf16
  | 2 => some .int32
  | _ => none

/-- The number of elements of a format in a register. -/
def vCount (f : NFmt) : Nat := 1024 / f.bits

/-- Values with flags. -/
abbrev WithFlags := Nat × Nat

/-- A list of flagged elements packed, flags merged. -/
def packFlags (w : Nat) (l : List WithFlags) : WithFlags :=
  (vPack w (l.map Prod.fst), l.foldl (fun a e => a ||| e.2) 0)

/-- The binary element operations with an arithmetic result. -/
inductive VBin where
  | add
  | sub
  | mul
  | min
  | max
deriving DecidableEq, Repr

/-- The signed value of an INT32 code. -/
def int32Val (c : Nat) : Int := if c ≥ 2 ^ 31 then (c : Int) - 2 ^ 32 else c

/-- a is below b in the order of IEEE 754-2019 minimum and maximum, −0 below +0 (R125). -/
def xBelow (a b : XVal) : Bool := xLt a b || (xEq a b && xIsNegZero a && !xIsNegZero b)

/-- Minimum (or maximum) of two float values (R125). -/
def xMinMax (isMax : Bool) (a b : XVal) : XVal × Nat :=
  if a = .nan || b = .nan then (.nan, fNANIN ||| fNONF)
  else if isMax then (if xBelow a b then b else a, 0)
  else (if xBelow b a then b else a, 0)

/-- One float element operation with a single rounding (R125). -/
def binFloat (op : VBin) (f : NFmt) (mode : OvMode) (a b : Nat) : WithFlags :=
  let (x, f1) := satInput (decodeElt f a) f mode
  let (y, f2) := satInput (decodeElt f b) f mode
  let (v, f3) := match op with
    | .add => xAdd x y
    | .sub => xAdd x (xNeg y)
    | .mul => xMul x y
    | .min => xMinMax false x y
    | .max => xMinMax true x y
  let (c, f4) := encodeElt f v .rne mode
  (c, f1 ||| f2 ||| f3 ||| f4)

/-- One INT32 element operation (Table 4.6). -/
def binInt (op : VBin) (mode : OvMode) (a b : Nat) : WithFlags :=
  let x := int32Val a
  let y := int32Val b
  let v := match op with
    | .add => x + y
    | .sub => x - y
    | .mul => x * y
    | .min => if y < x then y else x
    | .max => if x < y then y else x
  encodeInt .int32 mode v

/-- One element operation in the element type. -/
def binElt (op : VBin) (f : NFmt) (fm im : OvMode) (a b : Nat) : WithFlags :=
  if f = .int32 then binInt op im a b else binFloat op f fm a b

/-- VADD, VSUB, VMUL, VMIN, VMAX over a register (Table 3.22). -/
def vBin (op : VBin) (f : NFmt) (fm im : OvMode) (va vb : Nat) : WithFlags :=
  packFlags f.bits ((List.range (vCount f)).map (fun i => binElt op f fm im (vElt va f.bits i) (vElt vb f.bits i)))

/-- VFMA of one element: rounded once (R125). An invalid product is no NaN operand (R120). -/
def fmaElt (f : NFmt) (mode : OvMode) (a b c : Nat) : WithFlags :=
  let (x, f1) := satInput (decodeElt f a) f mode
  let (y, f2) := satInput (decodeElt f b) f mode
  let (z, f3) := satInput (decodeElt f c) f mode
  let (p, f4) := xMul x y
  let (v, f5) := if p = .nan && x ≠ .nan && y ≠ .nan && z ≠ .nan then (XVal.nan, 0) else xAdd p z
  let (r, f6) := encodeElt f v .rne mode
  (r, f1 ||| f2 ||| f3 ||| f4 ||| f5 ||| f6)

/-- VFMA over a register. -/
def vFma (f : NFmt) (mode : OvMode) (va vb vc : Nat) : WithFlags :=
  packFlags f.bits ((List.range (vCount f)).map
    (fun i => fmaElt f mode (vElt va f.bits i) (vElt vb f.bits i) (vElt vc f.bits i)))

/-- VABS (neg = false) or VNEG (neg = true) of one element: the sign bit is cleared or inverted, that of a zero too (R125; DEDUCED against
R109, assumption log 134). -/
def signElt (isNeg : Bool) (f : NFmt) (fm im : OvMode) (a : Nat) : WithFlags :=
  if f = .int32 then
    let x := int32Val a
    encodeInt .int32 im (if isNeg then -x else (x.natAbs : Int))
  else
    let (x, f1) := satInput (decodeElt f a) f fm
    match x with
    | .nan => (f.canonNan.getD 0, f1 ||| fNANIN ||| fNONF)
    | .inf n =>
      let (c, f2) := encodeElt f (.inf (isNeg && !n)) .rne fm
      (c, f1 ||| f2)
    | .fin n m d =>
      let (c, f2) := encodeElt f (.fin (isNeg && !n) m d) .rne fm
      (c, f1 ||| f2)

/-- VABS or VNEG over a register. -/
def vSign (isNeg : Bool) (f : NFmt) (fm im : OvMode) (va : Nat) : WithFlags :=
  packFlags f.bits ((List.range (vCount f)).map (fun i => signElt isNeg f fm im (vElt va f.bits i)))

/-- VCMP of one element: 0 EQ, 1 NE, 2 LT, 3 LE (Table 3.22, R125). An infinity compared with a NaN keeps the flags that Table 4.6 gives
it, beside NAN_IN (DEDUCED, assumption log 36). -/
def cmpElt (fn : Nat) (f : NFmt) (fm : OvMode) (a b : Nat) : WithFlags :=
  let ones := 2 ^ f.bits - 1
  let pick (p : Bool) : Nat := if p then ones else 0
  if f = .int32 then
    let x := int32Val a
    let y := int32Val b
    (pick (if fn = 0 then decide (x = y) else if fn = 1 then decide (x ≠ y) else if fn = 2 then decide (x < y) else decide (x ≤ y)), 0)
  else
    let (x, f1) := satInput (decodeElt f a) f fm
    let (y, f2) := satInput (decodeElt f b) f fm
    if x = .nan || y = .nan then (pick (decide (fn = 1)), f1 ||| f2 ||| fNANIN)
    else
      (pick (if fn = 0 then xEq x y else if fn = 1 then !xEq x y else if fn = 2 then xLt x y else xLt x y || xEq x y), f1 ||| f2)

/-- VCMP over a register. -/
def vCmp (fn : Nat) (f : NFmt) (fm : OvMode) (va vb : Nat) : WithFlags :=
  packFlags f.bits ((List.range (vCount f)).map (fun i => cmpElt fn f fm (vElt va f.bits i) (vElt vb f.bits i)))

/-- VSEL: from Va where the matching element of Vc is nonzero, from Vb otherwise. -/
def vSel (f : NFmt) (va vb vc : Nat) : Nat :=
  vPack f.bits ((List.range (vCount f)).map
    (fun i => if vElt vc f.bits i ≠ 0 then vElt va f.bits i else vElt vb f.bits i))

/-- Arithmetic right shift of a 32-bit code. -/
def sra32 (a n : Nat) : Nat := twos 32 (int32Val a / (2 ^ n : Nat))

/-- VSHL, VSHR over a register of INT32 elements; counts from bits [4:0] of Vb's elements. -/
def vShift (left arith : Bool) (va vb : Nat) : Nat :=
  vPack 32 ((List.range 32).map (fun i =>
    let a := vElt va 32 i
    let n := vElt vb 32 i % 32
    if left then a * 2 ^ n else if arith then sra32 a n else a >>> n))

/-- VBCAST: every element takes the low bits of the scalar. -/
def vBcast (f : NFmt) (x : Nat) : Nat := vPack f.bits (List.replicate (vCount f) (x % 2 ^ f.bits))

/-- One step of a float reduction. The running result `r` is no vector operand: the replacement of infinite operands and its
flags (Table 4.6) are for element `e` alone. -/
def redFloat (op : VBin) (f : NFmt) (mode : OvMode) (r e : Nat) : WithFlags :=
  let x := decodeElt f r
  let (y, f2) := satInput (decodeElt f e) f mode
  let (v, f3) := match op with
    | .max => xMinMax true x y
    | .min => xMinMax false x y
    | _ => xAdd x y
  let (c, f4) := encodeElt f v .rne mode
  (c, f2 ||| f3 ||| f4)

/-- Element 0 as the first running result: an operand of the reduction. -/
def redFirst (f : NFmt) (mode : OvMode) (e : Nat) : WithFlags :=
  if f = .int32 then (e, 0)
  else
    let (x, f1) := satInput (decodeElt f e) f mode
    ((encodeElt f x .rne mode).1, f1)

/-- VRSUM, VRMAX, VRMIN: element 0 takes the reduction in ascending order, the others zero. -/
def vReduce (op : VBin) (f : NFmt) (fm im : OvMode) (va : Nat) : WithFlags :=
  ((List.range (vCount f)).drop 1).foldl (fun acc i =>
    let (c, fl) := if f = .int32 then binInt op im acc.1 (vElt va f.bits i) else redFloat op f fm acc.1 (vElt va f.bits i)
    (c, acc.2 ||| fl)) (redFirst f fm (vElt va f.bits 0))

/-- VSF over a register of FP32 elements. -/
def vSpecial (fn : Nat) (mode : OvMode) (va : Nat) : WithFlags :=
  packFlags 32 ((List.range 32).map (fun i => specialElt fn (vElt va 32 i) mode))

/-- VPERM: element i takes the element of Va that Vb's element i names, modulo the element count. -/
def vPerm (f : NFmt) (va vb : Nat) : Nat :=
  vPack f.bits ((List.range (vCount f)).map (fun i => vElt va f.bits (vElt vb f.bits i % vCount f)))

/-- VINS: one element replaced. -/
def vIns (f : NFmt) (vd idx x : Nat) : Nat :=
  vPack f.bits ((List.range (vCount f)).map (fun i => if i = idx then x % 2 ^ f.bits else vElt vd f.bits i))

/-! ### Conversions (R127, Table 4.8) -/

/-- The narrow side T of a conversion (Table 4.7). -/
def cvtT : Nat → Option NFmt
  | 2 => some .e4m3
  | 3 => some .e5m2
  | 4 => some .e2m1
  | 5 => some .int8
  | 6 => some .uint8
  | 7 => some .int4
  | _ => none

/-- The legal element-type codes of a conversion function (Table 4.8, R127). -/
def cvtLegal (fn ty : Nat) : Bool :=
  if fn ≤ 8 then decide (ty = 0)
  else if fn = 9 || fn = 11 then decide (2 ≤ ty ∧ ty ≤ 7)
  else if fn = 10 then decide (2 ≤ ty ∧ ty ≤ 6)
  else if fn = 12 || fn = 13 then (decide (2 ≤ ty ∧ ty ≤ 5) || decide (ty = 7))
  else false

/-- One element converted from a wide to a narrow format, or the other way, with the SAT replacement, NaN flags and one
rounding. -/
def cvtElt (src dst : NFmt) (rnd : Rnd) (mode : OvMode) (a : Nat) : WithFlags :=
  let (x, f1) := satInput (decodeElt src a) src mode
  let fn := if x = .nan then fNANIN ||| fNONF else 0
  let (c, f2) := encodeElt dst x rnd mode
  (c, f1 ||| fn ||| f2)

/-- The rounding of element i for an optional seed and stream word. -/
def cvtRnd (seed : Option Nat) (i : Nat) : Rnd :=
  match seed with
  | some s => .stoch (srBits (s >>> 32) (s % 2 ^ 32) i)
  | none => .rne

/-- FP32 registers Va and Vb converted to 64 sixteen-bit elements (functions 0x00, 0x01, 0x04). -/
def cvt16 (dst : NFmt) (seed : Option Nat) (mode : OvMode) (va vb : Nat) : WithFlags :=
  packFlags 16 ((List.range 64).map (fun i =>
    cvtElt .fp32 dst (cvtRnd seed i) mode (if i < 32 then vElt va 32 i else vElt vb 32 (i - 32))))

/-- Sixteen-bit elements widened to FP32 (functions 0x02, 0x03, 0x05, 0x06). -/
def cvtWiden (src : NFmt) (hi : Bool) (mode : OvMode) (va : Nat) : WithFlags :=
  packFlags 32 ((List.range 32).map (fun i => cvtElt src .fp32 .rne mode (vElt va 16 (if hi then i + 32 else i))))

/-- 32 elements converted one by one between formats, packed from bit 0. -/
def cvtEach (src dst : NFmt) (seed : Option Nat) (mode : OvMode) (va : Nat) : WithFlags :=
  packFlags dst.bits ((List.range 32).map (fun i => cvtElt src dst (cvtRnd seed i) mode (vElt va src.bits i)))

/-- One block of lanes narrowed under R115. -/
def cvtBlock (t : NFmt) (e4 : Bool) (mode : OvMode) (va lo n : Nat) : NarrowBlock :=
  narrowBlock ((List.range n).map (fun i => decodeElt .fp32 (vElt va 32 (lo + i)))) .fp32 t e4 mode none []

/-- Function 0x0C: the destination, the scales word and the flags. -/
def cvtNarrow (t : NFmt) (e4 : Bool) (blk : Nat) (mode : OvMode) (va : Nat) : Nat × Nat × Nat :=
  let bs := (List.range (32 / blk)).map (fun b => cvtBlock t e4 mode va (b * blk) blk)
  (vPack t.bits (bs.flatMap (fun b => b.elts)), vPack 8 (bs.map (fun b => b.scale)), bs.foldl (fun a b => a ||| b.flags) 0)

/-- One element of function 0x0D: the exact product of element and scale, rounded to FP32; a NaN scale gives NaN. -/
def cvtScaledElt (t : NFmt) (e4 : Bool) (mode : OvMode) (a scale : Nat) : WithFlags :=
  let (x, f1) := satInput (decodeElt t a) t mode
  match x, scaleVal e4 scale with
  | .nan, _ => (0x7FC00000, f1 ||| fNANIN ||| fNONF)
  | _, .nan => (0x7FC00000, f1 ||| fNANIN ||| fNONF)
  | y, s =>
    let (v, f2) := xMul y s
    let (c, f3) := encodeElt .fp32 v .rne mode
    (c, f1 ||| f2 ||| f3)

/-- Function 0x0D over a register. -/
def cvtWidenScaled (t : NFmt) (e4 : Bool) (blk : Nat) (mode : OvMode) (va scales : Nat) : WithFlags :=
  packFlags 32 ((List.range 32).map (fun i => cvtScaledElt t e4 mode (vElt va t.bits i) (vElt scales 8 (i / blk))))

/-- CVT (R127): the destination register, the scalar written if any, and the flags. `fm` is the mode of ACTL.FOVF,
`blk` and `e4` those of ACTL.CVT_BLK and CVT_SFMT, `sc` the scalar operand. -/
def cvt (fn ty : Nat) (fm : OvMode) (blk : Nat) (e4 : Bool) (va vb sc : Nat) : Nat × Option Nat × Nat :=
  let t := (cvtT ty).getD .e4m3
  let one (r : WithFlags) : Nat × Option Nat × Nat := (r.1, none, r.2)
  match fn with
  | 0 => one (cvt16 .bf16 none fm va vb)
  | 1 => one (cvt16 .bf16 (some sc) fm va vb)
  | 2 => one (cvtWiden .bf16 false fm va)
  | 3 => one (cvtWiden .bf16 true fm va)
  | 4 => one (cvt16 .fp16 none fm va vb)
  | 5 => one (cvtWiden .fp16 false fm va)
  | 6 => one (cvtWiden .fp16 true fm va)
  | 7 => one (cvtEach .fp32 .int32 none fm va)
  | 8 => one (cvtEach .int32 .fp32 none fm va)
  | 9 => one (cvtEach .fp32 t none fm va)
  | 10 => one (cvtEach .fp32 t (some sc) fm va)
  | 11 => one (cvtEach t .fp32 none fm va)
  | 12 =>
    let (d, s, f) := cvtNarrow t e4 blk fm va
    (d, some s, f)
  | _ => one (cvtWidenScaled t e4 blk fm va sc)

end Sys2Proof.Machine
end

