-- ==== Sys2Proof/Machine/Tile.lean ====
section
/-! DEFINITION. Tile descriptors, tiles in core memory and operand lines (R85 to R87, R92, R100, R105, R110 to R114,
R136, R139): what the feeders deliver to a dot product. A tile is read through a byte function of core-memory offsets
and a poison function of the same offsets. -/

namespace Sys2Proof.Machine

/-- Bits hi to lo of a number. -/
def bitsOf (w hi lo : Nat) : Nat := (w >>> lo) % 2 ^ (hi + 1 - lo)

/-- Bit i of a number. -/
def bitOf (w i : Nat) : Bool := decide ((w >>> i) % 2 = 1)

/-- ⌈a / b⌉. -/
def ceilDiv (a b : Nat) : Nat := (a + b - 1) / b

/-- The fields of a tile descriptor (Table 3.5). -/
structure TileD where
  tscale : Nat
  tsEn : Bool
  sfmt : Bool
  bdir : Bool
  blk : Nat
  scaled : Bool
  fmt : Nat
  cols : Nat
  rows : Nat
  stride : Nat
  base : Nat
  zero : Nat
deriving DecidableEq, Repr

/-- The fields of a descriptor word (Table 3.5). -/
def tileOf (w : Nat) : TileD where
  tscale := bitsOf w 127 96
  tsEn := bitOf w 74
  sfmt := bitOf w 73
  bdir := bitOf w 72
  blk := 2 ^ (bitsOf w 71 69 + 3)
  scaled := bitOf w 68
  fmt := bitsOf w 67 64
  cols := bitsOf w 63 51
  rows := bitsOf w 50 38
  stride := bitsOf w 37 19
  base := bitsOf w 18 0
  zero := bitsOf w 95 75

/-- The stored format of an FMT code (Table 3.6). -/
def storedFmt : Nat → Option NFmt
  | 0 => some .fp32
  | 1 => some .bf16
  | 2 => some .e4m3
  | 3 => some .e5m2
  | 4 => some .e2m1
  | 5 => some .int8
  | 6 => some .uint8
  | 7 => some .int4
  | 8 => some .uint4
  | 9 => some .int32
  | 10 => some .idx16
  | _ => none

/-- The compute format of a CF code above 0 (Table 3.6). -/
def computeFmt : Nat → Option NFmt
  | 1 => some .bf16
  | 2 => some .e4m3
  | 3 => some .e5m2
  | 4 => some .e2m1
  | 5 => some .int8
  | 6 => some .int4
  | _ => none

/-- Compute format `c` is an exact widening of stored format `sf` (R87): it has more bits and holds every value of `sf`. -/
def NFmt.widensTo (sf c : NFmt) : Bool :=
  decide (sf.bits < c.bits) && (if c.isFloat then !(sf = .uint4 && c = .e5m2) else !sf.isFloat && c.signed)

/-- The resolved compute format of a stored format under a CF code, and whether the feeder narrows to it with block
scaling (R87); none where R87 is broken. FP32 used as BF16 is the one rounding of R139's BF16 rung. A widening that is not
exact is refused, and so is another format of the stored width (DEDUCED, assumption log 129). -/
def resolveFmt (fmtCode cf : Nat) : Option (NFmt × Bool) :=
  match storedFmt fmtCode with
  | none => none
  | some sf =>
    if sf = .int32 || sf = .idx16 then none
    else if cf = 0 then (if sf = .fp32 then none else some (sf, false))
    else
      match computeFmt cf with
      | none => none
      | some c =>
        if sf = .fp32 || sf = .bf16 then some (c, decide (c ≠ .bf16 ∨ sf = .fp32))
        else if sf = c then some (c, false)
        else if sf.widensTo c then some (c, false)
        else none

/-- Products per cycle of a compute format (R84). -/
def prodPerCycle (f : NFmt) : Nat := if f.bits = 16 then 1 else if f.bits = 8 then 2 else 4

/-- Element width of a stored format code, 8 for a reserved code. -/
def fmtBits (code : Nat) : Nat := ((storedFmt code).map NFmt.bits).getD 8

/-- Elements of a scaled burst's payload (R114). For a format that is neither 8 nor 4 bits wide the spec gives none, though TILE_BOUNDS and
WINDOW are tested before FORMAT_PAIR refuses it: the extent is then that of 512 (DESIGN CHOICE, assumption log 199). -/
def perBurst (code : Nat) : Nat := if fmtBits code = 4 then 1024 else 512

/-- Row bytes of a tile (R85). -/
def rowBytes (t : TileD) : Nat :=
  if t.scaled then ceilDiv t.cols (perBurst t.fmt) * 576
  else ceilDiv (ceilDiv (t.cols * fmtBits t.fmt) 8) 64 * 64

/-- First byte beyond a tile's extent (R85). -/
def tileEnd (t : TileD) : Nat := t.base + (t.rows - 1) * t.stride + rowBytes t

/-- Byte offset within a row, and nibble, of element i (R105, R114). -/
def eltPos (t : TileD) (i : Nat) : Nat × Nat :=
  let w := fmtBits t.fmt
  let b := if t.scaled then (i / perBurst t.fmt) * 576 + 64 else 0
  let j := if t.scaled then i % perBurst t.fmt else i
  if w = 4 then (b + j / 2, j % 2) else (b + j * (w / 8), 0)

/-- Byte offset within a row of the scale of element i (R114). -/
def scalePos (t : TileD) (i : Nat) : Nat :=
  let first := (i / t.blk) * t.blk
  (first / perBurst t.fmt) * 576 + (first % perBurst t.fmt) / t.blk

/-- A little-endian number of n bytes at offset a. -/
def leRead (rd : Nat → Nat) (a : Nat) : Nat → Nat
  | 0 => 0
  | n + 1 => rd a % 256 + 256 * leRead rd (a + 1) n

/-- The code of the element at a row and a column (R105, R114). -/
def eltCode (rd : Nat → Nat) (t : TileD) (row col : Nat) : Nat :=
  let (pos, nib) := eltPos t col
  let a := t.base + row * t.stride + pos
  let w := fmtBits t.fmt
  if w = 4 then (rd a / 16 ^ nib) % 16 else leRead rd a (w / 8)

/-- Whether the element, or the scale it uses, is poisoned (R91, R111). -/
def eltPoison (pz : Nat → Bool) (t : TileD) (row col : Nat) : Bool :=
  let a := t.base + row * t.stride
  pz (a + (eltPos t col).1) || (t.scaled && pz (a + scalePos t col))

/-- An operand of a dot product as the feeder sees it: descriptor, stored format, whether the feeder narrows it,
whether its lines are stored columns, and the row picks under GATHER (none: a row of zeros; the flag: a poisoned
index). -/
structure Operand where
  d : TileD
  sf : NFmt
  narrowed : Bool
  trans : Bool
  picks : Option (List (Option Nat × Bool))
deriving DecidableEq, Repr

/-- The stored row that a logical row stands for (R100). -/
def Operand.pick (o : Operand) (row : Nat) : Option Nat × Bool :=
  match o.picks with
  | none => (some row, false)
  | some l => (l[row]?).getD (none, false)

/-- Stored value of the element on line `l` at reduction position `k`. -/
def Operand.val (o : Operand) (rd : Nat → Nat) (l k : Nat) : XVal :=
  let row := if o.trans then k else l
  let col := if o.trans then l else k
  match o.pick row with
  | (some r, _) => decodeElt o.sf (eltCode rd o.d r col)
  | (none, _) => .fin false 0 1

/-- Block scale of the same element, 1 where the operand has none (R111). -/
def Operand.scale (o : Operand) (rd : Nat → Nat) (l k : Nat) : XVal :=
  let row := if o.trans then k else l
  let col := if o.trans then l else k
  if o.d.scaled then
    match o.pick row with
    | (some r, _) => scaleVal o.d.sfmt (rd (o.d.base + r * o.d.stride + scalePos o.d col))
    | (none, _) => .fin false 1 1
  else .fin false 1 1

/-- Whether an element is poisoned (R91, R100). -/
def Operand.poison (o : Operand) (pz : Nat → Bool) (l k : Nat) : Bool :=
  let row := if o.trans then k else l
  let col := if o.trans then l else k
  match o.pick row with
  | (some r, _) => eltPoison pz o.d r col
  | (none, p) => p

/-- Whether the operand's blocks lie along the reduction, or it has none (R112, R132). -/
def Operand.along (o : Operand) : Bool :=
  if o.narrowed then !o.d.bdir else !o.d.scaled || !o.trans

/-- One operand element of a line: value, block scale, block number along the reduction (R111, R133). -/
structure LElt where
  v : XVal
  sc : XVal
  bid : Nat
deriving DecidableEq, Repr

/-- A line of an operand, with its element format and whether one of its blocks is over threshold (R136, R141). -/
structure FLine where
  elts : List LElt
  fmt : NFmt
  ts : XVal
  ovr : Bool
  poison : Bool
deriving DecidableEq, Repr

/-- What a feeder narrows by: target format, mode, threshold, and whether this is a rung above 0 (R139). -/
structure FeedCfg where
  fmt : NFmt
  mode : OvMode
  thresh : Nat
  esc : Bool
deriving DecidableEq, Repr

/-- TSCALE of a descriptor when enabled. -/
def TileD.ts (t : TileD) : Option XVal := if t.tsEn then some (decodeElt .fp32 t.tscale) else none

/-- The block of an operand at block position `b` that holds line `l`: along the reduction it covers reduction indices
b × size on of line l; across, it covers the lines of l's group at reduction index b (R112). -/
def feedBlock (o : Operand) (c : FeedCfg) (rd : Nat → Nat) (nl kr l b : Nat) : NarrowBlock :=
  let sz := o.d.blk
  let xs : List XVal :=
    if o.along then (List.range (min sz (kr - b * sz))).map (fun i => o.val rd l (b * sz + i))
    else
      let g := (l / sz) * sz
      (List.range (min sz (nl - g))).map (fun i => o.val rd (g + i) b)
  narrowBlock xs o.sf c.fmt o.d.sfmt c.mode o.d.ts []

/-- Number of elements of the block of `feedBlock`. -/
def feedBlockLen (o : Operand) (nl kr l b : Nat) : Nat :=
  if o.along then min o.d.blk (kr - b * o.d.blk) else min o.d.blk (nl - (l / o.d.blk) * o.d.blk)

/-- Number of block positions that a line meets. -/
def feedBlockCount (o : Operand) (kr : Nat) : Nat := if o.along then ceilDiv kr o.d.blk else kr

/-- Whether a measured block is over threshold (R136). -/
def blockOver (thresh n : Nat) (b : NarrowBlock) : Bool :=
  !b.nanScale && decide (256 * (b.flushes + b.sats) > thresh * n)

/-- A source value rounded once to BF16 (R139), with its flags. -/
def toBf16 (sf : NFmt) (mode : OvMode) (v : XVal) : XVal × Nat :=
  let (x, f1) := satInput v sf mode
  let (c, f2) := encodeElt .bf16 x .rne mode
  (decodeElt .bf16 c, f1 ||| f2 ||| (if x = .nan then fNANIN else 0))

/-- The line `l` of an operand at a rung: narrowed blocks, a BF16 rounding, or the stored elements. TSCALE applies but at the BF16
rung of the ladder (R111, R139). -/
def feedLine (o : Operand) (c : FeedCfg) (rd : Nat → Nat) (pz : Nat → Bool) (nl kr l : Nat) : FLine :=
  let p := (List.range kr).any (fun k => o.poison pz l k)
  if !o.narrowed then
    let n := o.d.blk
    ⟨(List.range kr).map (fun k => ⟨o.val rd l k, o.scale rd l k,
        if !o.d.scaled then 0 else if o.trans then k else k / n⟩), o.sf, o.d.ts.getD (.fin false 1 1), false, p⟩
  else if c.fmt = .bf16 then
    ⟨(List.range kr).map (fun k => ⟨(toBf16 o.sf c.mode (o.val rd l k)).1, .fin false 1 1, 0⟩), .bf16,
      if c.esc then .fin false 1 1 else o.d.ts.getD (.fin false 1 1), false, p⟩
  else
    let bs := (List.range (feedBlockCount o kr)).map (fun b => feedBlock o c rd nl kr l b)
    let pos := l % o.d.blk
    let elts : List LElt := (List.range kr).map (fun k =>
      let bi := if o.along then k / o.d.blk else k
      match bs[bi]? with
      | some b => ⟨decodeElt c.fmt ((b.elts[if o.along then k % o.d.blk else pos]?).getD 0), scaleVal o.d.sfmt b.scale, bi⟩
      | none => ⟨.fin false 0 1, .fin false 1 1, 0⟩)
    let ov := (List.range bs.length).any (fun bi =>
      match bs[bi]? with
      | some b => blockOver c.thresh (feedBlockLen o nl kr l bi) b
      | none => false)
    ⟨elts, c.fmt, o.d.ts.getD (.fin false 1 1), ov, p⟩

/-- The measured blocks of one operand in an attempt, each by its number: over threshold with flushes ≥ saturations, over
threshold with more saturations, not measured for a NaN scale; and the flags the feeder raised (R136, R145, R147). -/
structure FeedStats where
  flushOver : List Nat := []
  satOver : List Nat := []
  nanScale : List Nat := []
  flags : Nat := 0
deriving DecidableEq, Repr

/-- Block number `k` added. -/
def FeedStats.addBlock (s : FeedStats) (thresh n k : Nat) (b : NarrowBlock) : FeedStats :=
  let o := blockOver thresh n b
  { flushOver := if o && decide (b.flushes ≥ b.sats) then k :: s.flushOver else s.flushOver
    satOver := if o && decide (b.flushes < b.sats) then k :: s.satOver else s.satOver
    nanScale := if b.nanScale then k :: s.nanScale else s.nanScale
    flags := s.flags ||| b.flags }

/-- The counts of the blocks that a pass's lines meet, each block once (R147). -/
def feedStats (o : Operand) (c : FeedCfg) (rd : Nat → Nat) (nl kr : Nat) (lines : List Nat) : FeedStats :=
  if !o.narrowed then {}
  else if c.fmt = .bf16 then
    { flags := lines.foldl (fun a l => (List.range kr).foldl (fun a k => a ||| (toBf16 o.sf c.mode (o.val rd l k)).2) a) 0 }
  else
    let heads := if o.along then lines else (lines.map (fun l => (l / o.d.blk) * o.d.blk)).eraseDups
    heads.foldl (fun st l => (List.range (feedBlockCount o kr)).foldl
      (fun st b => st.addBlock c.thresh (feedBlockLen o nl kr l b) (8192 * l + b) (feedBlock o c rd nl kr l b)) st) {}

/-! ### Dot products (R121 to R123, R132 to R135) -/

/-- A list cut into pieces of n, the last holding the remainder. -/
def chunksOf {α : Type} (n : Nat) : Nat → List α → List (List α)
  | 0, _ => []
  | _, [] => []
  | fuel + 1, l => l.take n :: chunksOf n fuel (l.drop n)

/-- TSCALE after the replacement of Table 4.6. -/
def tsIn (t : XVal) (mode : OvMode) : XVal × Nat := satInput t .fp32 mode

/-- The full R111 value of an operand element with its flags. An element that the BF16 rounding took to infinity raises INF_IN as
an infinite input does (DESIGN CHOICE, assumption log 161). -/
def fullVal (fmt : NFmt) (mode : OvMode) (ts : XVal) (e : LElt) : XVal × Nat :=
  let (x, f1) := satInput e.v fmt mode
  let (y, f2) := xMul x e.sc
  let (z, f3) := xMul y ts
  (z, f1 ||| f2 ||| f3)

/-- The exact product of two operand elements (R121). -/
def fullProd (fa fb : NFmt) (mode : OvMode) (ta tb : XVal) (a b : LElt) : XVal × Nat :=
  let (x, f1) := fullVal fa mode ta a
  let (y, f2) := fullVal fb mode tb b
  let (p, f3) := xMul x y
  (p, f1 ||| f2 ||| f3)

/-- Float dot product by groups of 16 (R121, R122), from an accumulator. -/
def dotGroups (a b : FLine) (mode : OvMode) (acc0 : XVal × Nat) : XVal × Nat :=
  let (ta, f1) := tsIn a.ts mode
  let (tb, f2) := tsIn b.ts mode
  let ps := List.zipWith (fullProd a.fmt b.fmt mode ta tb) a.elts b.elts
  (chunksOf 16 ps.length ps).foldl (fun acc g =>
    let (s, fs) := groupSum (g.map Prod.fst) mode
    let (v, fv) := accAdd acc.1 s mode
    (v, acc.2 ||| fs ||| fv ||| g.foldl (fun x p => x ||| p.2) 0)) (acc0.1, acc0.2 ||| f1 ||| f2)

/-- A pair of operand elements of one reduction index. -/
abbrev EltPair := LElt × LElt

/-- The first run of a list of pairs and the rest (R133): at most `lim` pairs, ending at a block boundary. -/
def takeRun : Nat → List EltPair → List EltPair × List EltPair
  | 0, l => ([], l)
  | _, [] => ([], [])
  | _, [p] => ([p], [])
  | n + 1, p :: q :: t =>
    if p.1.bid = q.1.bid ∧ p.2.bid = q.2.bid then
      (if n = 0 then ([p], q :: t) else
        let (r, rest) := takeRun n (q :: t)
        (p :: r, rest))
    else ([p], q :: t)

/-- The runs of a reduction (R133). -/
def runsOf (lim : Nat) : Nat → List EltPair → List (List EltPair)
  | 0, _ => []
  | _, [] => []
  | fuel + 1, l =>
    let (r, rest) := takeRun lim l
    r :: runsOf lim fuel rest

/-- An element in the run adder's units: halves for E2M1, ones for integers (R134). -/
def runUnit (f : NFmt) (v : XVal) : Int :=
  match v with
  | .fin neg n d =>
    let m := if f = .e2m1 then 2 * n / d else n / d
    if neg then -(m : Int) else m
  | _ => 0

/-- The run sum S (R134). -/
def runSum (fa fb : NFmt) (r : List EltPair) : Int :=
  r.foldl (fun s p => s + runUnit fa p.1.v * runUnit fb p.2.v) 0

/-- Float dot product by runs (R135). A run with S = 0 is a zero unless a scale or TSCALE is a NaN, with an infinite TSCALE of IEEE mode
too (DEDUCED, assumption log 162). -/
def dotRuns (a b : FLine) (runLen : Nat) (mode : OvMode) (acc0 : XVal × Nat) : XVal × Nat :=
  let (ta, f1) := tsIn a.ts mode
  let (tb, f2) := tsIn b.ts mode
  let pairs := List.zip a.elts b.elts
  (runsOf (16 * runLen) pairs.length pairs).foldl (fun acc r =>
    let s := runSum a.fmt b.fmt r
    let sa := ((r.head?).map (fun p => p.1.sc)).getD (.fin false 1 1)
    let sb := ((r.head?).map (fun p => p.2.sc)).getD (.fin false 1 1)
    let (v1, g1) := xMul (.fin (decide (s < 0)) s.natAbs 4) sa
    let (v2, g2) := xMul v1 sb
    let (v3, g3) := xMul v2 ta
    let (v4, g4) := xMul v3 tb
    let negz := r.all (fun p => xIsNegZero (fullProd a.fmt b.fmt mode ta tb p.1 p.2).1)
    let zero := decide (s = 0) && !([sa, sb, ta, tb].contains XVal.nan)
    let (v, g) := if zero then (.fin negz 0 1, 0) else (v4, g1 ||| g2 ||| g3 ||| g4)
    let (w, g5) := accAdd acc.1 v mode
    (w, acc.2 ||| g ||| g5)) (acc0.1, acc0.2 ||| f1 ||| f2)

/-- One integer product with its E8M0 scales; a NaN scale makes it zero with NV and NONFINITE (R123), and the scale decoded sets
NAN_IN (Table 4.9). -/
def intProd (p : EltPair) : XVal × Nat :=
  if p.1.sc = .nan || p.2.sc = .nan then (.fin false 0 1, fNANIN ||| fNV ||| fNONF)
  else
    let (x, _) := xMul p.1.v p.1.sc
    let (y, _) := xMul p.2.v p.2.sc
    ((xMul x y).1, 0)

/-- Exact sum of finite values. -/
def xSum (l : List XVal) : XVal := l.foldl (fun a v => (xAdd a v).1) (.fin false 0 1)

/-- Integer dot product by groups of 16, or by runs when `runLen` is above 0 (R123, R135). -/
def dotInt (a b : FLine) (runLen : Nat) (mode : OvMode) (acc0 : Int × Nat) : Int × Nat :=
  let pairs := List.zip a.elts b.elts
  let parts := if runLen = 0 then chunksOf 16 pairs.length pairs else runsOf (16 * runLen) pairs.length pairs
  parts.foldl (fun acc g =>
    let ps := g.map intProd
    let (k, f1) := roundInt (xSum (ps.map Prod.fst)) .rne
    let (v, f2) := accAddInt acc.1 k mode
    (v, acc.2 ||| f1 ||| f2 ||| ps.foldl (fun x p => x ||| p.2) 0)) acc0

/-- Whether a format takes the four-bit path (R132). -/
def NFmt.isFourBit (f : NFmt) : Bool := f = .e2m1 || f = .int4 || f = .uint4

/-! ### The escalation ladder (R139, R140) -/

/-- The pairs of formats of the ladder, rung 0 first (Table 5.1). -/
def ladderOf (fa fb : NFmt) : List (NFmt × NFmt) :=
  if fa = .e2m1 ∧ fb = .e2m1 then [(.e2m1, .e2m1), (.e4m3, .e4m3), (.bf16, .bf16)]
  else if (fa = .e4m3 ∨ fa = .e5m2) ∧ (fb = .e4m3 ∨ fb = .e5m2) then [(fa, fb), (.bf16, .bf16)]
  else if fa = .int4 ∧ fb = .int4 then [(.int4, .int4), (.int8, .int8)]
  else [(fa, fb)]

/-! ### The drain (R124) -/

/-- The quotient accumulator ÷ TSCALE of an unscaled float destination, the accumulator itself without TSCALE (R124). A NaN
is written under R120. -/
def drainQuot (v : XVal) (ts : Option XVal) (mode : OvMode) : XVal × Nat :=
  if v = .nan then (.nan, fNANIN ||| fNONF)
  else match ts with
    | none => (v, 0)
    | some t0 =>
      let (t, f) : XVal × Nat := match t0 with
        | .inf neg => if mode = .ieee then (t0, fINFIN) else (xMax .fp32 neg, fINFIN ||| fSATD)
        | _ => (t0, 0)
      match t with
      | .fin neg m e => if m = 0 then (.nan, f ||| fNV ||| fNONF) else (xDivFin v neg m e, f)
      | _ => (.nan, f ||| fNV ||| fNONF)

/-- The code written to a plain destination for an FP32 or INT32 accumulator code (R124). -/
def drainPlain (isInt : Bool) (dst : NFmt) (acc : Nat) (ts : Option XVal) (rnd : Rnd) (mode : OvMode) : Nat × Nat :=
  if isInt then
    (if dst = .int32 then (acc, 0) else encodeInt dst mode (int32Val acc))
  else
    let (v, f1) := drainQuot (decodeElt .fp32 acc) ts mode
    let (c, f2) := encodeElt dst v rnd mode
    (c, f1 ||| f2)

/-- The accumulator of code `acc` as an exact value (R124: the x of narrow_block). -/
def accVal (isInt : Bool) (acc : Nat) : XVal := if isInt then xInt (int32Val acc) else decodeElt .fp32 acc

end Sys2Proof.Machine
end

