-- ==== Sys2Proof/Machine/CoreExec.lean ====
section
/-! DEFINITION. Scalar, branch, vector and system instructions of a core, instruction fetch, and the switch between the two
context slots (spec/03, R69 to R83; spec/04, R128 to R130). -/

namespace Sys2Proof.Machine

/-- The instruction takes effect on the slot's registers and the slot goes on (R75). -/
def Block.ret (s : Block) (p i sl : Nat) (f : Slot → Slot) : Block := s.modSlot p i sl fun t => (f t).resume

/-- The Eyepiece traces that a slot begins to wait on synchronisation (R437). -/
def Block.syncTrace (s : Block) (p i sl : Nat) : Block := s.traceCore p i 3 (leBytes 8 (s.slot p i sl).pc)

/-- The instruction stalls: the slot waits and tests its word again when it comes to issue again (R80). A new stall on an
interlock is counted (R101), one on synchronisation is traced (R437). -/
def Block.stall (s : Block) (p i sl w : Nat) (x : Wait) (interlock : Bool := false) : Block :=
  let again := decide ((s.slot p i sl).wait = x)
  let s := if interlock && !again then s.log (.core p i) 7 else s
  let s := if x.code = 1 ∧ again = false then s.syncTrace p i sl else s
  s.modSlot p i sl fun t => { t with wait := x, waitWord := w }

/-- A sign-extended immediate of `n` bits, modulo 2 ^ 64. -/
def sext (n v : Nat) : Nat := if bit v (n - 1) then 2 ^ 64 - 2 ^ n + v % 2 ^ n else v % 2 ^ n

/-- A 64-bit value as a signed integer. -/
def int64 (v : Nat) : Int := if v < 2 ^ 63 then v else (v : Int) - 2 ^ 64

/-- The scalar ALU functions (Table 3.22). -/
def aluFn (fn a b : Nat) : Nat :=
  match fn with
  | 0x0 => (a + b) % 2 ^ 64
  | 0x1 => (a + 2 ^ 64 - b) % 2 ^ 64
  | 0x2 => a &&& b
  | 0x3 => a ||| b
  | 0x4 => a ^^^ b
  | 0x5 => a * 2 ^ (b % 64) % 2 ^ 64
  | 0x6 => a / 2 ^ (b % 64)
  | 0x7 => twos 64 (int64 a / (2 ^ (b % 64) : Nat))
  | 0x8 => b2n (decide (int64 a < int64 b))
  | 0x9 => b2n (decide (a < b))
  | 0xA => if int64 a ≤ int64 b then a else b
  | 0xB => if int64 a ≤ int64 b then b else a
  | 0xC => Nat.min a b
  | _ => Nat.max a b

/-- The multiply functions (Table 3.22). -/
def mulFn (fn a b : Nat) : Nat :=
  match fn with
  | 0 => a * b % 2 ^ 64
  | 1 => twos 64 (int64 a * int64 b / (2 ^ 64 : Nat))
  | _ => a * b / 2 ^ 64

/-- The divide functions (Table 3.22): division by zero and the one signed overflow do not fault. -/
def divFn (fn a b : Nat) : Nat :=
  match fn with
  | 0 => if b = 0 then 2 ^ 64 - 1 else twos 64 (Int.tdiv (int64 a) (int64 b))
  | 1 => if b = 0 then 2 ^ 64 - 1 else a / b
  | 2 => if b = 0 then a else twos 64 (Int.tmod (int64 a) (int64 b))
  | _ => if b = 0 then a else a % b

/-- The condition of a branch (Table 3.3, BR). -/
def branchTaken (cond a b : Nat) : Bool :=
  match cond with
  | 0 => a = 0
  | 1 => a ≠ 0
  | 2 => decide (2 ^ 63 ≤ a)
  | 3 => decide (a < 2 ^ 63)
  | 4 => a = b
  | _ => true

/-- The target of a branch: its own address and the displacement in instructions (assumption log 21). -/
def branchTarget (pc w : Nat) : Nat := (pc + 8 * (sext 32 w % 2 ^ 57)) % 2 ^ 57

/-- ALU. -/
def Block.alu (s : Block) (p i sl w : Nat) : Block :=
  s.ret p i sl fun t => t.setS (bits w 49 5) (aluFn (bits w 32 7) (t.s (bits w 44 5)) (t.s (bits w 39 5)))

/-- ALU with a sign-extended immediate. -/
def Block.aluImm (s : Block) (p i sl w : Nat) : Block :=
  s.ret p i sl fun t => t.setS (bits w 49 5) (aluFn (bits w 32 12) (t.s (bits w 44 5)) (sext 32 w))

/-- Multiply. -/
def Block.multiply (s : Block) (p i sl w : Nat) : Block :=
  s.ret p i sl fun t => t.setS (bits w 49 5) (mulFn (bits w 32 7) (t.s (bits w 44 5)) (t.s (bits w 39 5)))

/-- Divide. -/
def Block.divide (s : Block) (p i sl w : Nat) : Block :=
  s.ret p i sl fun t => t.setS (bits w 49 5) (divFn (bits w 32 7) (t.s (bits w 44 5)) (t.s (bits w 39 5)))

/-- Load 48-bit constant, into an S or an A register. -/
def Block.loadConst (s : Block) (p i sl w : Nat) : Block :=
  s.ret p i sl fun t =>
    if bit w 48 then { t with aregs := smPut 0 t.aregs (bits w 49 5) (sext 48 w) } else t.setS (bits w 49 5) (sext 48 w)

/-- The core-memory address of an SM access, or of another base and offset: modulo 2 ^ 64. -/
def Slot.addr (t : Slot) (base w : Nat) : Nat := (t.a base + sext 32 w) % 2 ^ 64

/-- A read of core memory by core `i` meets a physical event at physical address `a`: counted; uncorrectable data is marked
poison and POISON_CREATED raised (R101, R168). An uncorrectable error in a register file is an observation of poison and a core hard
fault (R376, Table 14.2). -/
def Block.coreSram (s : Block) (p i a : Nat) (ev : SramEvent) : Block :=
  match ev with
  | .none => s
  | .corrected => s.log (.core p i) 8
  | .regFile => (s.observePoison (.core p i)).coreHard p i
  | .uncorrectable => { (s.log (.core p i) 9) with ram := s.ram.mark (a / 8 * 8) }.raise (.core p i) 2

/-- Byte extents in core memory of a matrix-queue entry: those of its result if `results`, else of every operand too
(R90). -/
def MEntry.extents (e : MEntry) (results : Bool) : List (Nat × Nat) :=
  let ext (d : Nat) : Nat × Nat := ((tileOf d).base, tileEnd (tileOf d) - (tileOf d).base)
  match e.op with
  | .prel => []
  | .pld => if results then [] else [ext e.tdb]
  | _ =>
    if results then [ext e.tdc]
    else [ext e.tda, ext e.tdb, ext e.tdc] ++ (if bit e.word 26 then [ext e.tdi] else [])

/-- [a, a + n) meets [b, b + m). -/
def meets (a n : Nat) (x : Nat × Nat) : Bool := decide (a < x.1 + x.2) && decide (x.1 < a + n)

/-- The lists that a slot has outstanding, with their engines (R187). -/
def Block.listsOf (s : Block) (p i sl : Nat) : List XList :=
  ((List.range 4).flatMap fun e => (s.chan p (i / 17 * 4 + e) sl).lists).filter fun l => l.core = i

/-- A scalar or vector access of a slot must wait (R90, R191). -/
def Block.interlocked (s : Block) (p i sl a n : Nat) (store : Bool) : Bool :=
  ((s.slot p i sl).mq.any fun e => (e.extents (!store)).any (meets a n)) ||
    (store && (s.listsOf p i sl).any fun l => meets a n (l.base, 64 * l.count))

/-- A vector register of a core, 1,024 bits (R69). -/
def Core.v (k : Core) (n : Nat) : Nat := smGet 0 k.vregs n % 2 ^ 1024

/-- LOAD: a scalar or vector load from core memory within the slot's window (R71, R79, R471). -/
def Block.load (s : Block) (p i sl w : Nat) (ev : SramEvent) : Block :=
  let t := s.slot p i sl
  let n := if bits w 42 3 = 4 then 128 else 2 ^ bits w 42 3
  let a := t.addr (bits w 45 4) w
  match s.outside p i sl a n with
  | some b => s.coreFault p i sl .window (bits b 3 16)
  | none =>
    if s.interlocked p i sl a n false then s.stall p i sl w .issue true
    else
      let pa := coreBase p i + a
      let s := s.coreSram p i pa ev
      let bs := s.memBytes pa n
      let s := if s.memPoisoned pa n then s.observePoison (.core p i) else s
      if n = 128 then (s.modCore p i fun k => { k with vregs := smPut 0 k.vregs (bits w 49 5) (leNat bs) }).ret p i sl id
      else s.ret p i sl fun t => t.setS (bits w 49 5) (leNat bs)

/-- STORE: a scalar or vector store to core memory within the slot's window (R71, R79, R90). -/
def Block.store (s : Block) (p i sl w : Nat) : Block :=
  let t := s.slot p i sl
  let n := if bits w 42 3 = 4 then 128 else 2 ^ bits w 42 3
  let a := t.addr (bits w 45 4) w
  match s.outside p i sl a n with
  | some b => s.coreFault p i sl .window (bits b 3 16)
  | none =>
    if s.interlocked p i sl a n true then s.stall p i sl w .issue true
    else
      let v := if n = 128 then (s.core p i).v (bits w 49 5) else t.s (bits w 49 5)
      (s.poke (coreBase p i + a) (leBytes n v)).ret p i sl id

/-- BRANCH. -/
def Block.branch (s : Block) (p i sl w : Nat) : Block :=
  s.modSlot p i sl fun t =>
    if branchTaken (bits w 45 4) (t.s (bits w 49 5)) (t.s (bits w 40 5)) then
      { t with pc := branchTarget t.pc w, wait := .none }
    else t.resume

/-- BRANCH_AND_LINK: the next instruction's address goes to S[44:40]. -/
def Block.branchLink (s : Block) (p i sl w : Nat) : Block :=
  s.modSlot p i sl fun t =>
    { (t.setS (bits w 40 5) ((t.pc + 8) % 2 ^ 57)) with pc := branchTarget t.pc w, wait := .none }

/-- JUMP: bits [56:0] of S[53:49] become the program counter (assumption log 22). -/
def Block.jump (s : Block) (p i sl w : Nat) : Block :=
  s.modSlot p i sl fun t => { t with pc := t.s (bits w 49 5) % 2 ^ 57, wait := .none }

/-! Vector instructions. -/

/-- Float overflow mode of ACTL (Table 4.10). -/
def Slot.fovf (t : Slot) : OvMode := if bits t.actl 0 2 = 1 then .ieee else .sat

/-- INT32 overflow mode of ACTL (Table 4.10). -/
def Slot.iovf (t : Slot) : OvMode := if bits t.actl 2 2 = 1 then .wrap else .sat

/-- The element format of a VR word (R86). -/
def vrFmt (w : Nat) : NFmt := (vFmt (bits w 31 3)).getD .fp32

/-- A vector result: the destination register, the flags merged into the slot's flag word (R128). -/
def Block.vput (s : Block) (p i sl w : Nat) (r : Nat × Nat) : Block :=
  (s.modCore p i fun k => { k with vregs := smPut 0 k.vregs (bits w 49 5) (r.1 % 2 ^ 1024) }).ret p i sl
    fun t => { t with flags := t.flags ||| r.2 }

def Block.va (s : Block) (p i w : Nat) : Nat := (s.core p i).v (bits w 44 5)
def Block.vb (s : Block) (p i w : Nat) : Nat := (s.core p i).v (bits w 39 5)
def Block.vc (s : Block) (p i w : Nat) : Nat := (s.core p i).v (bits w 34 5)

/-- VADD, VSUB, VMUL, VMIN, VMAX. -/
def Block.vbin (s : Block) (p i sl w : Nat) (op : VBin) : Block :=
  let t := s.slot p i sl
  s.vput p i sl w (vBin op (vrFmt w) t.fovf t.iovf (s.va p i w) (s.vb p i w))

/-- VFMA. -/
def Block.vfma (s : Block) (p i sl w : Nat) : Block :=
  s.vput p i sl w (vFma (vrFmt w) (s.slot p i sl).fovf (s.va p i w) (s.vb p i w) (s.vc p i w))

/-- VABS, VNEG. -/
def Block.vsign (s : Block) (p i sl w : Nat) (neg : Bool) : Block :=
  let t := s.slot p i sl
  s.vput p i sl w (vSign neg (vrFmt w) t.fovf t.iovf (s.va p i w))

/-- VCMP. -/
def Block.vcmp (s : Block) (p i sl w : Nat) : Block :=
  s.vput p i sl w (vCmp (bits w 24 7) (vrFmt w) (s.slot p i sl).fovf (s.va p i w) (s.vb p i w))

/-- VSEL. -/
def Block.vsel (s : Block) (p i sl w : Nat) : Block :=
  s.vput p i sl w (vSel (vrFmt w) (s.va p i w) (s.vb p i w) (s.vc p i w), 0)

/-- VAND, VOR, VXOR. -/
def Block.vlogic (s : Block) (p i sl w : Nat) (f : Nat → Nat → Nat) : Block :=
  s.vput p i sl w (f (s.va p i w) (s.vb p i w), 0)

/-- VSHL, VSHR. -/
def Block.vshift (s : Block) (p i sl w : Nat) (left : Bool) : Block :=
  s.vput p i sl w (vShift left (!left && bit w 24) (s.va p i w) (s.vb p i w), 0)

/-- VBCAST. -/
def Block.vbcast (s : Block) (p i sl w : Nat) : Block :=
  s.vput p i sl w (vBcast (vrFmt w) ((s.slot p i sl).s (bits w 34 5)), 0)

/-- VRSUM, VRMAX, VRMIN. -/
def Block.vreduce (s : Block) (p i sl w : Nat) (op : VBin) : Block :=
  let t := s.slot p i sl
  s.vput p i sl w (vReduce op (vrFmt w) t.fovf t.iovf (s.va p i w))

/-- VSF. -/
def Block.vsf (s : Block) (p i sl w : Nat) : Block :=
  s.vput p i sl w (vSpecial (bits w 24 7) (s.slot p i sl).fovf (s.va p i w))

/-- VPERM. -/
def Block.vperm (s : Block) (p i sl w : Nat) : Block :=
  s.vput p i sl w (vPerm (vrFmt w) (s.va p i w) (s.vb p i w), 0)

/-- VEXT. -/
def Block.vext (s : Block) (p i sl w : Nat) : Block :=
  let x := vElt (s.va p i w) (vrFmt w).bits (bits w 24 7)
  s.ret p i sl fun t => t.setS (bits w 34 5) x

/-- VINS. -/
def Block.vins (s : Block) (p i sl w : Nat) : Block :=
  s.vput p i sl w (vIns (vrFmt w) ((s.core p i).v (bits w 49 5)) (bits w 24 7) ((s.slot p i sl).s (bits w 34 5)), 0)

/-- CVT (R127). -/
def Block.cvt (s : Block) (p i sl w : Nat) : Block :=
  let t := s.slot p i sl
  let r := Machine.cvt (bits w 24 7) (bits w 31 3) t.fovf (8 * 2 ^ bits t.actl 5 2) (bit t.actl 7) (s.va p i w) (s.vb p i w)
    (t.s (bits w 34 5))
  let s := match r.2.1 with
    | some x => s.modSlot p i sl fun t => t.setS (bits w 34 5) x
    | none => s
  s.vput p i sl w (r.1, r.2.2)

/-! System instructions. -/

/-- A core or array cycle counter read while it runs: a value the spec's timing fixes and the model leaves free. -/
def Block.timing (s : Block) : Nat × Block := s.fresh

/-- The BUSY counter of a core's array: exact while no pass is under way (Table 3.21). -/
def Block.busyOf (s : Block) (p i : Nat) : Nat × Block :=
  if ((s.slot p i 0).mq ++ (s.slot p i 1).mq).any (·.inPass) then s.timing else ((s.core p i).busy, s)

/-- RDSYS (Table 3.22). -/
def Block.rdsys (s : Block) (p i sl w : Nat) : Block :=
  let t := s.slot p i sl
  let r : Nat × Block := match bits w 32 17 with
    | 0 => (t.lcore, s)
    | 1 => (t.job, s)
    | 2 => (sl, s)
    | 3 => (s.merid.count, s)
    | 4 => s.timing
    | _ => s.busyOf p i
  r.2.ret p i sl fun t => t.setS (bits w 49 5) r.1

/-- BPOST (R98). -/
def Block.bpost (s : Block) (p i sl w : Nat) : Block :=
  let r := bits w 49 5
  let x := (s.slot p i sl).s r % 64
  if sl ≠ 0 then s.coreFault p i sl .illegal 0x200
  else if 47 < x then s.coreFault p i sl .illegal (0x100 + r)
  else (s.modCore p i fun k => { k with batchValid := setBit1 k.batchValid x,
                                        batchPost := some (k.batchPost.getD s.merid.count) }).ret p i sl id

/-- FLG.READ: after every older matrix instruction has merged its flags (R130). -/
def Block.flgRead (s : Block) (p i sl w : Nat) : Block :=
  if (s.slot p i sl).mq ≠ [] then s.stall p i sl w .issue
  else s.ret p i sl fun t => t.setS (bits w 49 5) t.flags

/-- FLG.CLEAR (R130). -/
def Block.flgClear (s : Block) (p i sl w : Nat) : Block :=
  if (s.slot p i sl).mq ≠ [] then s.stall p i sl w .issue
  else s.ret p i sl fun t => { (t.setS (bits w 49 5) t.flags) with flags := clearMask t.flags (bits w 0 11) }

/-- The lowest bit of the most significant offending field of an ACTL value (R130). -/
def actlBad (v : Nat) : Option Nat :=
  if bits v 8 24 ≠ 0 then some 8
  else if bits v 5 2 = 3 then some 5
  else if bit v 4 then some 4
  else if 2 ≤ bits v 2 2 then some 2
  else if 2 ≤ bits v 0 2 then some 0
  else none

/-- ACTL.SET (R130). -/
def Block.actlSet (s : Block) (p i sl w : Nat) : Block :=
  let v := (s.slot p i sl).s (bits w 49 5) % 2 ^ 32
  match actlBad v with
  | some b => s.coreFault p i sl .illegal (0x300 + b)
  | none => s.ret p i sl fun t => { t with actl := v }

/-- ACTL.READ (R130). -/
def Block.actlRead (s : Block) (p i sl w : Nat) : Block := s.ret p i sl fun t => t.setS (bits w 49 5) t.actl

/-! Instruction fetch (R72). -/

/-- The instruction cache with a line of a slot, four ways a set of 128 sets, the oldest line of a full set replaced
(assumption log 23). -/
def icacheFill (c : List ILine) (x : ILine) : List ILine :=
  let same := c.filter fun y => y.line % 128 = x.line % 128 && !(y.slot = x.slot && y.line = x.line)
  let rest := c.filter fun y => y.line % 128 ≠ x.line % 128
  x :: same.take 3 ++ rest

/-- An instruction line has been read: poisoned it is FETCH, else the cache takes it. -/
def Block.lineIn (s : Block) (p i sl line : Nat) (bs : List Nat) (pois : Bool) : Block :=
  if pois then (s.observePoison (.core p i)).coreFault p i sl .fetch 0xF
  else s.modCore p i fun k => { k with icache := icacheFill k.icache ⟨sl, line, leNat bs⟩ }

/-- INSTRUCTION_FETCH_MISS: the line at the slot's program counter is read through the MMU; a translation fault, a host page or
uncorrectable data is FETCH, an address that R23 or R24 refuses is ADDRESS. A line of another package comes with the response to a
READ (R171). `parity`: the line was held with a parity error, a refetch. -/
def Block.fetchMiss (s : Block) (p i sl : Nat) (parity : Bool) (ev : MemEvent) : Block :=
  if !s.canIssue p i sl then s
  else
    let line := (s.slot p i sl).pc / 64
    let held := (s.core p i).icache.any fun y => y.slot = sl && y.line = line
    if held && !parity then s
    else
      let s := if parity then s.log (.core p i) 10 else s
      let (leaf, s) := s.translate p sl none (line * 64) false true
      match leaf with
      | .fault c _ => (s.log (.mmu p) (c - 1)).coreFault p i sl .fetch c
      | .host .. => (s.log (.mmu p) 2).coreFault p i sl .fetch 3
      | .package g base n _ _ =>
        let pa := base + line * 64 % n
        if s.isSelf g then
          if !s.canAccess pa 64 then s.coreFault p i sl .address 0xFFFF
          else
            let (bs, pois, s) := s.memRead pa 64 .normal ev
            s.lineIn p i sl line bs pois
        else if !s.reachable g then s.coreFault p i sl .address g
        else if s.xu.outs.any (fun x => x.origin = .fetch p i sl line) then s
        else if !s.xRoom g 1 then s.modSlot p i sl fun t => { t with wait := .room }
        else s.xIssue p { kind := 1, dst := g, job := (s.slot p i sl).job, addr := pa, len := 64 } (.fetch p i sl line)

/-! The two context slots (R80 to R82). -/

/-- The image of V0 to V31 of a slot in the save area (R79): primary first (assumption log 24). -/
def saveBase (p i sl : Nat) : Nat := coreBase p i + 0x7E000 + sl * 0x1000

/-- The vector registers are saved to a slot's image. -/
def Block.saveV (s : Block) (p i sl : Nat) : Block :=
  (List.range 32).foldl (fun s n => s.poke (saveBase p i sl + 128 * n) (leBytes 128 ((s.core p i).v n))) s

/-- The vector registers are restored from a slot's image. -/
def Block.restoreV (s : Block) (p i sl : Nat) : Block :=
  let s := if s.memPoisoned (saveBase p i sl) 4096 then s.observePoison (.core p i) else s
  s.modCore p i fun k =>
    { k with vregs := (List.range 32).foldl (fun m n => smPut 0 m n (leNat (s.memBytes (saveBase p i sl + 128 * n) 128))) [] }

/-- A slot that is bound and neither stopped nor waiting. -/
def Slot.ready (t : Slot) : Bool := t.bound && decide (t.stop = .running) && decide (t.wait = .none)

/-- The primary slot lets the backfill slot run: it runs and waits in one of R80's ways. A primary slot with no job, or a stopped one,
has no such wait (assumption log 25). -/
def Slot.yields (t : Slot) : Bool := t.bound && decide (t.stop = .running) && t.wait.code ≠ 0

/-- BACKFILL_SWITCH: the primary has stalled for SWITCH_AFTER cycles and the core begins its switch (R80). No backfill job
runs during a patrol visit of this core (R373). -/
def Block.bfSwitch (s : Block) (p i : Nat) : Block :=
  let k := s.core p i
  let b := s.slot p i 1
  let visited := smGet false (s.part p).patrolOn (i / 17) && smGet 0 (s.part p).patrolNext (i / 17) = i % 17
  if k.ctx = .primary && s.bfOn p i && b.bound && decide (b.stop = .running) && (s.slot p i 0).yields && !k.inReset &&
      !k.halted && !visited then
    (s.modCore p i fun k => { k with ctx := .switching true }).log (.core p i) 5
  else s

/-- The backfill slot stops at its boundary: between the attempts of a pass the held blocks are discarded and the pass will start
again at rung 0 (R146, Table 5.4); a started instruction with passes left is counted as stopped at a pass boundary (R102). -/
def Block.bfStop (s : Block) (p i : Nat) : Block :=
  match (s.slot p i 1).mq.find? (fun e => e.started && !e.arrayDone) with
  | none => s
  | some e =>
    let s := s.log (.mxe p i) 7
    let again := e.restart || !(decide (e.rung = 0) && e.held.isEmpty)
    s.modSlot p i 1 fun t => { t with mq := t.mq.map fun e =>
      if e.started && !e.arrayDone then { e with inPass := false, rung := 0, held := [], heldPois := [], pre := [], restart := again }
      else { e with pre := [] } }

/-- BACKFILL_SWITCH_BACK: the primary's wait has ended, or CORE_BF_CFG.EN is 0 (Table 3.14); at a boundary of the backfill slot, which between the attempts of a
pass is the end of an attempt, the core switches back (R81, Table 5.4). For a
wait that is tested at issue, the command itself says that it has ended (assumption log 13). -/
def Block.bfBack (s : Block) (p i : Nat) : Block :=
  let t := s.slot p i 0
  let busy := (s.slot p i 1).mq.any fun e => e.inPass && decide (e.held = [])
  let ended := match t.wait with
    | .ctr _ => false
    | .bar _ => false
    | .verdict => false
    | .frameEnd => false
    | _ => true
  if (s.core p i).ctx = .backfill && (!s.bfOn p i || (t.bound && decide (t.stop = .running) && ended)) && !busy then
    ((s.bfStop p i).modCore p i fun k => { k with ctx := .switching false }).log (.core p i) 6
  else s

/-- SWITCH_COMPLETE: vector registers are saved and restored and the incoming slot resumes issue (R80). -/
def Block.switchDone (s : Block) (p i : Nat) : Block :=
  match (s.core p i).ctx with
  | .switching true => ((s.saveV p i 0).restoreV p i 1).modCore p i fun k => { k with ctx := .backfill }
  | .switching false => ((s.saveV p i 1).restoreV p i 0).modCore p i fun k => { k with ctx := .primary }
  | _ => s

end Sys2Proof.Machine
end

