-- ==== Sys2Proof/Machine/SyncExec.lean ====
section
/-! DEFINITION. Sync and transfer instructions of a core (spec/08, R208 to R219; spec/07, R188 to R191). -/

namespace Sys2Proof.Machine

/-- The source of a slot's update: precise when the verdict is the instruction's own (R215). -/
def Slot.src (t : Slot) (p i sl : Nat) (precise : Bool) : SyncSrc := .instr p i sl precise t.lcore t.job

/-- A counter or barrier number beyond the slot's share (R209), counted in SYNC (R223). -/
def Block.rangeFault (s : Block) (p i sl num : Nat) : Block := (s.log (.sync p) 2).coreFault p i sl .sync (3 * 4096 + num)

/-- A sync instruction with R = 1 sends an update or arrival to logical partition S[3:0] of package S[63:48] (Table 8.2):
inside this package to the partition's home, else as a SIGNAL (R253). The slot goes on at once; FENCE waits for it (R212). The number
must lie in the slot's own share, and in that of the job at a target in this package (R209; assumption log 48). -/
def Block.farUpdate (s : Block) (p i sl w reg kind num amount : Nat) (bar : Bool) : Block :=
  let t := s.slot p i sl
  let v := t.s reg
  let g := bits v 48 16
  let lp := bits v 0 4
  if 12 ≤ lp then s.coreFault p i sl .illegal (0x100 + reg)
  else if (if bar then s.barNum p sl num else s.ctrNum p sl num).isNone then s.rangeFault p i sl num
  else if s.isSelf g then
    if (s.partOf t.job lp (some sl)).isNone then s.coreFault p i sl .binding lp
    else
      let u : SyncUpd := { bar := bar, op := if kind = 1 then .sub else .add, num := num, amount := amount,
                           src := t.src p i sl false }
      match s.remoteSync t.job lp (some sl) with
      | (some (q, k), s) =>
        match if bar then s.barNum q k num else s.ctrNum q k num with
        | some n => (s.sendUpd q { u with num := n }).ret p i sl fun t => { t with syncOut := t.syncOut + 1 }
        | none => s.rangeFault p i sl num
      | (none, s) => s.ret p i sl id
  else if !s.reachable g then s.coreFault p i sl .address g
  else if !s.xRoom g 0 then s.stall p i sl w .room
  else
    let k : Pkt := { kind := 4, lpart := lp, dst := g, job := t.job, addr := num, operand := amount, op := kind,
                     size := 0, owner := s.pkgn }
    (s.xIssue p k (.core p i sl)).ret p i sl fun t => { t with syncOut := t.syncOut + 1 }

/-- An update of the slot's own partition sets out; the slot waits for its home's verdict (R220). -/
def Block.nearUpdate (s : Block) (p i sl w num : Nat) (u : SyncUpd) : Block :=
  match if u.bar then s.barNum p sl num else s.ctrNum p sl num with
  | none => s.rangeFault p i sl num
  | some n => ((s.syncTrace p i sl).sendUpd p { u with num := n }).modSlot p i sl fun t => { t with wait := .verdict, waitWord := w }

/-- CTR.ADD and CTR.SUB. -/
def Block.ctrAddSub (s : Block) (p i sl w : Nat) (sub : Bool) : Block :=
  let num := bits w 37 12
  let amount := bits w 0 16
  if bit w 36 then s.farUpdate p i sl w (bits w 49 5) (b2n sub) num amount false
  else s.nearUpdate p i sl w num
    { op := if sub then .sub else .add, num := num, amount := amount, src := (s.slot p i sl).src p i sl true }

/-- CTR.SET. -/
def Block.ctrSet (s : Block) (p i sl w : Nat) : Block :=
  let t := s.slot p i sl
  let num := bits w 37 12
  s.nearUpdate p i sl w num { op := .set, num := num, amount := t.s (bits w 49 5) % 2 ^ 32, src := t.src p i sl true }

/-- CTR.READ: the counter's value when the read reaches it (R220; assumption log 26). -/
def Block.ctrRead (s : Block) (p i sl w : Nat) : Block :=
  let num := bits w 37 12
  match s.ctrNum p sl num with
  | none => s.rangeFault p i sl num
  | some n => s.ret p i sl fun t => t.setS (bits w 49 5) ((s.syn p).ctr n)

/-- CTR.WAIT: completes at once when the counter holds its value, consuming it when C = 1, else its wait is registered
(R216). -/
def Block.ctrWait (s : Block) (p i sl w : Nat) : Block :=
  let num := bits w 37 12
  let v := if bit w 35 then (s.slot p i sl).s (bits w 49 5) else bits w 0 32
  match s.ctrNum p sl num with
  | none => s.rangeFault p i sl num
  | some n =>
    let c := (s.syn p).ctr n
    if v ≤ c then
      let s := if bit w 36 then s.modSyn p fun y => { y with ctrs := smPut 0 y.ctrs n (c - v) } else s
      s.ret p i sl id
    else
      ((s.syncTrace p i sl).modSyn p fun y => { y with ctrWaits := smMod [] y.ctrWaits n fun l => l ++ [⟨i, sl, v, bit w 36⟩] }).modSlot p i sl
        fun t => { t with wait := .ctr n, waitWord := w }

/-- BAR.INIT (R217). -/
def Block.barInit (s : Block) (p i sl w : Nat) : Block :=
  let num := bits w 41 8
  match s.barNum p sl num with
  | none => s.rangeFault p i sl num
  | some b => (s.armBar p b (bits w 16 16) (bits w 0 16)).ret p i sl id

/-- BAR.ARRIVE (R217). -/
def Block.barArriveI (s : Block) (p i sl w : Nat) : Block :=
  let num := bits w 41 8
  if bit w 40 then s.farUpdate p i sl w (bits w 35 5) 2 num 0 true
  else s.nearUpdate p i sl w num
    { bar := true, num := num, src := (s.slot p i sl).src p i sl true, reg := bits w 49 5 }

/-- BAR.WAIT (R217, R218). -/
def Block.barWaitI (s : Block) (p i sl w : Nat) : Block :=
  let num := bits w 41 8
  let held := (s.slot p i sl).s (bits w 49 5) % 65536
  match s.barNum p sl num with
  | none => s.rangeFault p i sl num
  | some b =>
    let y := (s.syn p).bar b
    if y.state = .timedOut then (s.log (.sync p) 4).coreFault p i sl .sync (4 * 4096 + num)
    else if y.gen ≠ held then s.ret p i sl id
    else match y.state with
      | .armed =>
        ((s.syncTrace p i sl).modSyn p fun z => { z with barWaits := smMod [] z.barWaits b fun l => l ++ [⟨i, sl, held⟩] }).modSlot p i sl
          fun t => { t with wait := .bar b, waitWord := w }
      | _ => (s.log (.sync p) 4).coreFault p i sl .sync (5 * 4096 + num)

/-- BAR.SYNC: an arrival, then a wait on the generation it returns (R217). -/
def Block.barSyncI (s : Block) (p i sl w : Nat) : Block :=
  let num := bits w 41 8
  s.nearUpdate p i sl w num { bar := true, num := num, src := (s.slot p i sl).src p i sl true, sync := true }

/-- FENCE completes when the older operations it names are performed (R212). -/
def Block.fence (s : Block) (p i sl w : Nat) : Block :=
  let t := s.slot p i sl
  let open' := t.syncOut ≠ 0 || t.amos ≠ [] || (bit w 53 && t.mq ≠ []) ||
    (bit w 52 && s.listsOf p i sl ≠ [])
  if open' then
    s.stall p i sl w .fence
  else s.ret p i sl id

/-- A core fault of an AMO, counted (Table 8.3, R223): kind 6 address, 7 alignment. -/
def Block.amoFault (s : Block) (p i sl kind : Nat) : Block := (s.log (.sync p) 9).coreFault p i sl .sync (kind * 4096)

/-- AMO issues: alignment, then translation and addresses (R219). An atomic of this package sets out for its home, one of
another package becomes an ATOMIC transaction. The register of the first waits for the old value (R78); the slot of the second does,
since a home that refuses the address makes a fault, which is precise (R74; DEDUCED, assumption log 194). -/
def Block.amo (s : Block) (p i sl w : Nat) : Block :=
  let t := s.slot p i sl
  let off := bits w 0 24
  let va := (t.a (bits w 45 4) + sext 24 off) % 2 ^ 64
  let n := 4 * 2 ^ bits w 30 2
  let op := bits w 32 3
  let data := t.s (bits w 40 5) % 2 ^ (8 * n)
  let cmp := t.s (bits w 35 5) % 2 ^ (8 * n)
  let reg := bits w 49 5
  if va % n ≠ 0 then s.amoFault p i sl 7
  else if 2 ^ 57 ≤ va then s.amoFault p i sl 6
  else
    let (leaf, s) := s.translate p sl none va true false
    match leaf with
    | .package g base size _ _ =>
      let pa := base + va % size
      if s.isSelf g then
        if s.canAccess pa n then
          s.ret p i sl fun t => { t with amos := t.amos ++ [⟨pa, bits w 28 2, op, n, data, cmp, reg, false⟩] }
        else s.amoFault p i sl 6
      else if !s.reachable g then s.amoFault p i sl 6
      else if !s.xRoom g 0 then s.stall p i sl w .room
      else
        let k : Pkt := { kind := 3, hint := bits w 28 2, dst := g, job := t.job, addr := pa, operand := data, op := op,
                         size := bits w 30 2, data := if op = 7 then leBytes 8 cmp else [] }
        ((s.syncTrace p i sl).xIssue p k (.amo p i sl reg n)).modSlot p i sl fun t => { t with wait := .verdict, waitWord := w }
    | .fault c _ => (s.log (.mmu p) (c - 1)).amoFault p i sl 6
    | _ => s.amoFault p i sl 6

/-- A two's-complement value of `n` bytes. -/
def signedBytes (n v : Nat) : Int := if bit v (8 * n - 1) then (v : Int) - (2 ^ (8 * n) : Nat) else v

/-- The new value of an atomic (Table 8.4). -/
def amoNew (op n old data cmp : Nat) : Nat :=
  match op with
  | 0 => (old + data) % 2 ^ (8 * n)
  | 1 => old &&& data
  | 2 => old ||| data
  | 3 => old ^^^ data
  | 4 => if signedBytes n old < signedBytes n data then data else old
  | 5 => if signedBytes n data < signedBytes n old then data else old
  | 6 => data
  | _ => if old = cmp then data else old

/-- One indivisible read, modify and write at a home (R219): the old value, whether it met poison, the block. A location hit
by poison gives zero, and the result is stored with a marker. The access is one partial write, which meets the physical event `ev`
first (R157) and leaves the old bytes in place; the new ones then take their place. `bad`: the operands came poisoned (R235), so the
result is poison too, and the home writes its marker. -/
def Block.atomicAt (s : Block) (pa hint op n data cmp : Nat) (ev : MemEvent := .none) (bad : Bool := false) : Nat × Bool × Block :=
  let (s, ev) := s.arrayEvent pa ev
  let hit := s.memPoisoned pa n
  let read := s.memWrite pa (s.memBytes pa n) false (hintOf hint) ev
  let pois := hit || read.memPoisoned pa n
  let old := leNat (read.memBytes pa n)
  let s := if bad then s.memWrite pa (s.memBytes pa n) true (hintOf hint) ev else read
  (old, pois, s.poke pa (leBytes n (amoNew op n old data cmp)) (pois || bad))

/-- AMO_PERFORM: atomic `k` of those a slot has on their way is performed at its home and its old value returns. -/
def Block.amoPerform (s : Block) (p i sl k : Nat) (ev : MemEvent) : Block :=
  match (s.slot p i sl).amos[k]? with
  | none => s
  | some x =>
    let (old, pois, s) := s.atomicAt x.pa x.hint x.op x.size x.data x.cmp ev
    let s := if pois then (s.observePoison (.core p i)).raise (.core p i) 2 else s
    s.modSlot p i sl fun t => { (t.setS x.reg old) with amos := t.amos.eraseIdx k }

/-! Transfer instructions. -/

/-- The engine record that engine number `e` of a core's cluster names (R185). The channels of a failed engine keep their
record under its name; its substitute serves them (R366). -/
def engineOf (i e : Nat) : Nat := i / 17 * 4 + e

/-- Lists of a slot that are outstanding on an engine (R187). -/
def Block.listsOn (s : Block) (p i sl e : Nat) : Nat := (s.chan p (engineOf i e) sl).listsOf i

/-- The capture of a slot's buffer pairs (R191). -/
def Slot.pairCapture (t : Slot) : List Nat :=
  (List.range 8).map fun n => let x := smGet {} t.pairs (n + 1); if x.second then x.half else 0

/-- XF.POST (R188, R189). -/
def Block.xfPostI (s : Block) (p i sl w : Nat) : Block :=
  let t := s.slot p i sl
  let a := t.addr (bits w 48 4) w
  let count := bits w 38 10 + 1
  if a % 64 ≠ 0 ∨ 0x80000 < a + 64 * count then s.coreFault p i sl .tileBounds 0x6000
  else match s.outside p i sl a (64 * count) with
    | some b => s.coreFault p i sl .window (bits b 3 16)
    | none =>
      let j := engineOf i (bits w 52 2)
      let c := s.chan p j sl
      if 16 ≤ c.lists.length ∨ 4 ≤ c.listsOf i then s.stall p i sl w .transfer
      else
        let l : XList := { core := i, slot := sl, lcore := t.lcore, job := t.job, base := a, count := count,
                           pairs := t.pairCapture }
        let (st, s) := s.xfPost p j sl l
        s.ret p i sl fun t => t.setS (bits w 33 5) st

/-- XF.WAIT (R188). -/
def Block.xfWaitI (s : Block) (p i sl w : Nat) : Block :=
  let n := bits w 48 3
  let ok := if bit w 51 then (List.range 4).all fun e => decide (s.listsOn p i sl e ≤ n)
    else decide (s.listsOn p i sl (bits w 52 2) ≤ n)
  if ok then s.ret p i sl id else s.stall p i sl w .transfer

/-- XF.PAIR (R190). -/
def Block.xfPairI (s : Block) (p i sl w : Nat) : Block :=
  let r := bits w 45 5
  let v := (s.slot p i sl).s r
  if v = 0 ∨ v % 64 ≠ 0 ∨ 2 ^ 31 ≤ v then s.coreFault p i sl .illegal (0x100 + r)
  else s.ret p i sl fun t => { t with pairs := smPut {} t.pairs (bits w 50 4) { half := v } }

/-- XF.SWAP (R188). -/
def Block.xfSwapI (s : Block) (p i sl w : Nat) : Block :=
  s.ret p i sl fun t => { t with pairs := (List.range 8).foldl (fun m n =>
    if bit w (46 + n) then smMod {} m (n + 1) fun x => { x with second := !x.second } else m) t.pairs }

/-- XF.STAT (R188). -/
def Block.xfStatI (s : Block) (p i sl w : Nat) : Block :=
  s.ret p i sl fun t => t.setS (bits w 49 5) (s.chanWord p (engineOf i (bits w 47 2)) sl)

end Sys2Proof.Machine
end

