-- ==== Sys2Proof/Machine/Coll.lean ====
section
/-! DEFINITION. Collectives (spec/10): queues, launches, lanes, collective-step instructions, collective packets, votes. -/

namespace Sys2Proof.Machine

def queueKey (p q : Nat) : Nat := p * 64 + q
def Block.queue (s : Block) (p q : Nat) : CQueue := smGet {} s.queues (queueKey p q)
def Block.modQueue (s : Block) (p q : Nat) (f : CQueue → CQueue) : Block :=
  { s with queues := smMod {} s.queues (queueKey p q) f }
def CQueue.lane (c : CQueue) (l : Nat) : CLane := smGet {} c.lanes l
def Block.modLane (s : Block) (p q l : Nat) (f : CLane → CLane) : Block :=
  s.modQueue p q fun c => { c with lanes := smMod {} c.lanes l f }
def Block.modColl (s : Block) (f : Coll → Coll) : Block := { s with coll := f s.coll }

/-- Lanes of a partition (R262). -/
def Block.lanes (s : Block) (p : Nat) : Nat := 8 * (s.part p).comm

/-- The physical core of a lane. -/
def Part.laneCore (q : Part) (l : Nat) : Option Nat :=
  if q.comm = 0 then none else q.coreAt (l / q.comm) (15 - l % q.comm)

/-- Bytes of a window slot (R272). -/
def Block.winSlot (s : Block) (p q : Nat) : Nat := s.fld (.coll p q) 0x058 0 7 * 256

/-- The queue's current launch. -/
def CQueue.cur (c : CQueue) : Option CLaunch := c.pending.head?

def CLaunch.deadline (x : CLaunch) : Nat := dF x.rec' 2 2
def CLaunch.arrivalOrder (x : CLaunch) : Bool := bit (dF x.rec' 1 1) 0
def CLaunch.doneCtr (x : CLaunch) : Option Nat := if bit (dF x.rec' 8 2) 15 then some (dF x.rec' 8 2 % 4096) else none

/-- A launch record with the values the queue takes (R268); `arrival` says whether arrival order is allowed (R277). -/
def takenRecord (b : List Nat) (arrival : Bool) : List Nat :=
  let b1 := dF b 1 1
  let cls := if bits b1 1 2 = 3 then 0 else bits b1 1 2
  let b1 := setBits (setBits b1 1 2 cls) 0 1 (b2n (bit b1 0 && arrival))
  let d := dF b 2 2
  let d := if d = 0 then 0 else Nat.max 8 (Nat.min d 4095)
  let far := dF b 0x0A 1
  let j := if 4 ≤ far % 16 ∧ far % 16 ≤ 10 then far % 16 else 6
  let fb := if 8 ≤ far / 16 ∧ far / 16 ≤ 12 then far / 16 else 10
  [dF b 0 1, b1] ++ leBytes 2 d ++ (b.drop 4).take 6 ++ [j + 16 * fb] ++ b.drop 0x0B

/-- The partition's member table entry of rank `r`: PKGN and logical partition (R261). -/
def Block.member (s : Block) (p q r : Nat) : Nat × Nat :=
  let e := leNat (s.memBytes (s.pair (.coll p q) 0x050 0x054 12 + 4 * r) 4)
  (bits e 0 16, bits e 16 4)

/-- An access of a collective table is refused. Table 10.14 names no counter for it, so it counts where a refused packet does (R24;
DESIGN CHOICE, assumption log 215). -/
def Block.collDenied (s : Block) (p q : Nat) : Block := s.log (.coll p q) 6

/-- Reading that entry: an access at its home (R149), which observes the poison it meets (R376); a refused one is counted (R24). -/
def Block.memberRead (s : Block) (p q r : Nat) : Block :=
  let a := s.pair (.coll p q) 0x050 0x054 12 + 4 * r
  let x := s.memRead a 4
  if !s.canAccess a 4 then s.collDenied p q
  else if x.2.1 then x.2.2.observePoison (.coll p q) else x.2.2

/-! Collective packets (R276). -/

/-- A collective packet is issued, or waits for room among the outstanding transactions (R253), behind those to its own target only
(R266). To a package that cannot be named none is formed: its launch is told of a refusal, and ends with REMOTE_FAIL (R23, R250). What
belongs to no launch that runs is counted where it was issued (assumption log 170). -/
def Block.collSend (s : Block) (p : Nat) (k : Pkt) (o : XOrigin) : Block :=
  if !s.isSelf k.dst && !s.reachable k.dst then
    let told (s : Block) : Block :=
      { s with xu := { s.xu with ended := s.xu.ended ++ [({ pkt := k, space := 0, origin := o, sentUs := s.timeUs, refused := true }, { kind := 8, status := 1 })] } }
    match o with
    | .coll p q lane launch _ =>
      if (s.queue p q).cur.isSome && decide (launch = some (s.queue p q).ends) && (((s.queue p q).lane lane).ended).isNone then told s
      else s.log (.coll p q) 6
    | .vote p q => s.log (.coll p q) 6
    | .mirror _ _ => told (s.log .upd 7)
    | _ => s
  else if !(s.coll.outbox.any fun e => e.2.1.dst = k.dst) && s.xRoom k.dst 0 then s.xIssue p k o
  else s.modColl fun c => { c with outbox := c.outbox ++ [(p, k, o)] }

/-- Of `n` waiting collective packets each is issued whose target has room, those to one target in order; none waits for another
target's (R253, R266). -/
def Block.collPump (s : Block) : Nat → Block
  | 0 => s
  | _ + 1 => s.coll.outbox.foldl (fun s e => s.collSend e.1 e.2.1 e.2.2) (s.modColl fun c => { c with outbox := [] })

/-- The header fields of a collective packet (Table 10.5). -/
def collPkt (dst lpart job group sub lane rank step ordinal off status : Nat) (data : List Nat) (pois : Nat) : Pkt :=
  { kind := 5, lpart := lpart, dst := dst, job := job,
    addr := group % 2 ^ 24 + (sub + 8 * lane) * 2 ^ 24 + (rank + step * 2 ^ 20) * 2 ^ 32,
    operand := ordinal % 2 ^ 32 + off % 2 ^ 24 * 2 ^ 32 + status * 2 ^ 56, data := data, pois := pois }

def Pkt.group (k : Pkt) : Nat := bits k.addr 0 24
def Pkt.sub (k : Pkt) : Nat := bits k.addr 24 3
def Pkt.lane (k : Pkt) : Nat := bits k.addr 27 5
def Pkt.rank (k : Pkt) : Nat := bits k.addr 32 20
def Pkt.step (k : Pkt) : Nat := bits k.addr 52 12
def Pkt.ordinal (k : Pkt) : Nat := bits k.operand 0 32
def Pkt.off (k : Pkt) : Nat := bits k.operand 32 24
def Pkt.endStatus (k : Pkt) : Nat := bits k.operand 56 8

/-- A packet of a launch goes to the same lane of rank `r`. -/
def Block.toRank (s : Block) (p q l r sub step ordinal off status : Nat) (data : List Nat) (pois : Nat)
    (send : Option Nat) : Block :=
  let c := s.queue p q
  let g := match c.cur with
    | some x => x.group
    | none => c.group
  let m := s.member p q r
  (s.memberRead p q r).collSend p (collPkt m.1 m.2 c.job g sub l c.rank step ordinal off status data pois) (.coll p q l (some c.ends) send)

/-! Ends of launches (R269, R284). -/

/-- Tick-bound collectives run in this state (Table 2.3). -/
def Merid.tickBound (m : Merid) : Bool :=
  match m.state with
  | .locked => true
  | .holdover => true
  | .master => true
  | _ => false

/-- A job takes no part in tick-bound launches of the package: in a state in which none run (Table 2.3), and after OUT_OF_STEP until
its step boundary (R59, R285, R297). -/
def Block.isAbsent (s : Block) (job : Nat) : Bool :=
  !s.merid.tickBound || s.coll.absentJobs.contains job

/-- Ranks of a lane's unmet expectations and unsent sends, each once (R284). -/
def CLane.waitRanks (x : CLane) : List Nat :=
  (((x.exps.filter fun e => e.met.isNone).map (·.rank)) ++ ((x.sends.filter fun e => !e.sent).map (·.rank))).eraseDups

/-- ABORT goes to ranks `rs` of a lane's launch. -/
def Block.abortTo (s : Block) (p q l ordinal status : Nat) (rs : List Nat) : Block :=
  rs.foldl (fun s r => s.toRank p q l r 2 0 ordinal 0 status [] 0 none) s

/-- The lane's launch ends: its events are discarded but for END, which an ending by the queue delivers (R275). -/
def CLane.stop (x : CLane) (status : Nat) (byQueue : Bool) : CLane :=
  { x with taken := false, notified := true, ended := some status, endEv := if byQueue then some status else x.endEv,
           exps := [], sends := [], freed := [] }

/-- Cause of a COLL page under which a failing status keeps its fault record (R293). -/
def collCause (status : Nat) : Nat :=
  match status with
  | 1 => 3
  | 3 => 6
  | 5 => 2
  | _ => 1

/-- The fault record is written while its cause is clear, the cause raised (R293). -/
def Block.collFault (s : Block) (p q : Nat) (r : CRec) : Block :=
  let s := if s.causeSet (.coll p q) r.cause then s else s.modQueue p q fun c => { c with fault := some r }
  s.raise (.coll p q) r.cause

/-- When every lane has ended the current launch (R269): LAST_STATUS, DONE_CTR, the next launch; an unbinding queue that is
empty becomes unbound. Of the arrivals kept, those of later launches stay (R286). -/
def Block.launchDone (s : Block) (p q : Nat) : Block :=
  let c := s.queue p q
  match c.cur with
  | none => s
  | some x =>
    let n := s.lanes p
    if (List.range n).all fun l => (c.lane l).ended.isSome then
      let bad := (List.range n).findSome? fun l => match (c.lane l).ended with
        | some 0 => none
        | some 2 => none
        | st => st
      let st := match bad with
        | some b => b
        | none => if (List.range n).all fun l => (c.lane l).ended = some 0 then 0 else 2
      let rest := c.pending.drop 1
      let s := s.modQueue p q fun c =>
        { c with pending := rest, lastStatus := st, lastOrd := x.ordinal, bound := c.bound && !(c.draining && rest.isEmpty),
                 draining := c.draining && !rest.isEmpty,
                 slowNew := true,
                 ends := c.ends + 1,
                 absents := if !s.isAbsent c.job then []
                   else if x.deadline ≠ 0 then (x.group, x.ordinal % 2 ^ 32) :: c.absents else c.absents,
                 lanes := smMapVals {} c.lanes fun _ y =>
                   { endEv := y.endEv, lostCts := y.lostCts, store := y.store.filter fun k => !c.library && decide (x.ordinal % 2 ^ 32 < k.ordinal) } }
      let s := (s.log (.coll p q) st).raise (.coll p q) (if st = 0 then 0 else 1)
      match x.doneCtr with
      | some m => match s.ctrNum p 0 m with
        | some k => (s.ctrApply p .add k 1 (.release 0 c.job s.pkgn)).2
        | none => s.syncFault p 3 m 1 (.release 0 c.job s.pkgn)
      | none => s
    else s

/-- A lane of the partition has taken the queue's current launch, and may have ended it since. -/
def Block.launchTaken (s : Block) (p q : Nat) : Bool :=
  (List.range (s.lanes p)).any fun l => ((s.queue p q).lane l).taken || (((s.queue p q).lane l).ended).isSome

/-- A fault record that names the launch (R284). -/
def CLaunch.failed (x : CLaunch) (pkgn step rank : Nat) : CRec :=
  { cause := 0, status := 0, pkgn := pkgn, step := step, rank := rank, ordinal := x.ordinal, group := x.group }

/-- A fault record that names an arrival and its peer (R286). -/
def Pkt.failed (k : Pkt) : CRec :=
  { cause := 0, status := 0, pkgn := k.src, step := k.step, rank := k.rank, ordinal := k.ordinal, group := k.group }

/-- The job's tick-bound launches have failed: its next vote carries bit 63 (R281). -/
def Block.noteTrouble (s : Block) (job : Nat) (x : CLaunch) : Block :=
  if x.deadline ≠ 0 && !s.coll.trouble.contains job then s.modColl fun v => { v with trouble := v.trouble ++ [job] } else s

/-- The launch fails on lane `l` with `status`: the other lanes end ABORTED, those and a DEADLINE's lane pass ABORT to their
waiting peers, a job fault is reported (R269, R284). -/
def Block.launchFail (s : Block) (p q l status : Nat) (r : CRec) : Block :=
  let c := s.queue p q
  match c.cur with
  | none => s
  | some x =>
    let s := s.collFault p q { r with cause := collCause status, status := status }
    let s := (List.range (s.lanes p)).foldl (fun s k =>
      let y := (s.queue p q).lane k
      if y.ended.isSome then s
      else
        let mine := decide (k = l)
        let s := if (mine && (status = 1 || status = 2)) || !mine then s.abortTo p q k x.ordinal status y.waitRanks else s
        s.modLane p q k fun y => y.stop (if mine then status else 2) true) s
    let s := s.noteTrouble c.job x
    let s := s.jobFault p 4 c.job (status + q * 256) 0x7FF
    s.launchDone p q

/-! Progress of a lane. -/

/-- The poison mask of a packet's flits whose data are the bytes [a, a + n) of core memory. -/
def Block.flitPois (s : Block) (a n : Nat) : Nat := flitsOf n (s.poisonRanges a n)

/-- The launch fails on lane `l` at what it awaits of rank `r`, whose package the member table gives. -/
def Block.failAt (s : Block) (p q l status : Nat) (x : CLaunch) (step r : Nat) : Block :=
  (s.memberRead p q r).launchFail p q l status (x.failed (s.member p q r).1 step r)

/-- A send is transmitted as DATA packets of at most 2,048 bytes (R273, R276). -/
def Block.transmit (s : Block) (p q l ordinal : Nat) (x : CSnd) : Block :=
  match (s.part p).laneCore l with
  | none => s
  | some i =>
    let a := coreBase p i + x.src
    let n := (x.bytes + 2047) / 2048
    let s := s.modLane p q l fun y =>
      { y with sends := y.sends.map fun e => if e.seq = x.seq then { e with sent := true, out := n } else e }
    (List.range n).foldl (fun s k =>
      let off := 2048 * k
      let len := Nat.min 2048 (x.bytes - off)
      let pois := s.flitPois (a + off) len
      let (bs, bad, s) := s.memRead (a + off) len
      let s := if bad then s.observePoison (.coll p q) else s
      s.toRank p q l x.rank 0 x.step ordinal off 0 bs pois (some x.seq)) s

/-- A clear-to-send meets a send (R273): transmitted, or the launch ends with SIZE and ABORT goes to the peer. -/
def Block.meetCts (s : Block) (p q l : Nat) (x : CLaunch) (e : CSnd) (bytes : Nat) : Block :=
  if e.bytes = bytes then s.transmit p q l x.ordinal e
  else (s.abortTo p q l x.ordinal 4 [e.rank]).failAt p q l 4 x e.step e.rank

/-- An end that a peer sends (ABORT 2, ABSENT 3) reaches a lane of the current launch (R284, R285). -/
def Block.peerEnd (s : Block) (p q l : Nat) (k : Pkt) : Block :=
  if (((s.queue p q).lane l).ended).isSome then s.log (.coll p q) 9
  else s.launchFail p q l k.sub k.failed

/-- A DATA packet is written into the slot of its expectation (R274); the last byte meets it, and its lateness is recorded
(R288). -/
def Block.dataIn (s : Block) (p q l : Nat) (x : CLaunch) (k : Pkt) : Block :=
  let y := (s.queue p q).lane l
  match y.exps.find? (fun e => e.rank = k.rank && e.step = k.step && e.met.isNone &&
      decide (k.off + k.data.length ≤ e.bytes)), (s.part p).laneCore l with
  | some e, some i =>
    let a := coreBase p i + s.fld (.coll p q) 0x058 16 7 * 4096 + s.winSlot p q * (e.step % 16) + e.doff + k.off
    let s := k.segments.foldl (fun s g => s.memWrite (a + g.1) g.2.1 g.2.2) s
    let got := e.got + k.data.length
    let e' := { e with got := got, met := if e.bytes ≤ got then some y.occ else none }
    let s := s.modLane p q l fun y =>
      { y with exps := y.exps.map (fun z => if z = e then e' else z), occ := y.occ + 1 }
    if got < e.bytes then s
    else
      let (ns, s) := s.fresh
      let ns := ns % 2 ^ 32
      let c := s.queue p q
      let s := if c.slowNew || c.slowNs < ns then
          s.modQueue p q fun c => { c with slowRank := e.rank, slowNs := ns, slowOrd := x.ordinal, slowNew := false } else s
      if bit (s.reg (.coll p q) 0x068) 0 then
        let t := s.pair (.coll p q) 0x068 0x06C 12 + 4 * e.rank
        if s.canAccess t 4 then
          let (bs, pois, s) := s.memRead t 4
          let s := if pois then s.observePoison (.coll p q) else s
          s.memWrite t (leBytes 4 (Nat.min 0xFFFFFFFF (leNat bs + ns))) pois
        else s.collDenied p q
      else s
  | _, _ => s.log (.coll p q) 9

/-- ABSENT answers a clear-to-send or data of a tick-bound launch (R285). -/
def Block.answerAbsent (s : Block) (p q l : Nat) (k : Pkt) : Block :=
  let c := s.queue p q
  let m := s.member p q k.rank
  let mine := c.cur.any fun x => decide (x.group = k.group) && decide (x.ordinal % 2 ^ 32 = k.ordinal)
  (s.memberRead p q k.rank).collSend p (collPkt m.1 m.2 c.job k.group 3 l c.rank k.step k.ordinal 0 3 [] 0)
    (.coll p q l (if mine then some c.ends else none) none)

/-- A collective arrival for lane `l` of queue `q`, whose launch it names. -/
def Block.launchIn (s : Block) (p q l : Nat) (x : CLaunch) (k : Pkt) : Block :=
  let y := (s.queue p q).lane l
  if s.isAbsent (s.queue p q).job && x.deadline ≠ 0 && decide (k.sub ≤ 1) then s.answerAbsent p q l k
  else if y.ended.isSome then s.log (.coll p q) 9
  else match k.sub with
    | 0 => s.dataIn p q l x k
    | 1 =>
      match y.sends.find? fun e => e.rank = k.rank && e.step = k.step && !e.sent with
      | some e => s.meetCts p q l x e k.off
      | none =>
        if 256 ≤ y.store.length then
          s.launchFail p q l 7 (x.failed k.src k.step k.rank)
        else s.modLane p q l fun y => { y with store := y.store ++ [k] }
    | _ => s.peerEnd p q l k

/-- The ordinal below which arrivals of a device-launched queue are stale for a lane. -/
def CQueue.floor (c : CQueue) : Nat := match c.cur with
  | some x => x.ordinal
  | none => c.nextOrd

/-- The queue of partition `p` that an arrival of a job's group addresses: the device-launched queue of the group, or a
library-launched queue whose current launch it names. -/
def Block.queueFor (s : Block) (p job group ordinal : Nat) : Option Nat :=
  match (List.range 64).find? fun q =>
      let c := s.queue p q
      c.bound && c.job = job && !c.vote && !c.library && c.group = group with
  | some q => some q
  | none => (List.range 64).find? fun q =>
      let c := s.queue p q
      c.bound && c.job = job && !c.vote && c.library && (match c.cur with
        | some x => x.group = group && x.ordinal % 2 ^ 32 = ordinal
        | none => false)

/-- A library-launched queue of the partition bound to the job, the lowest. -/
def Block.libraryQueue (s : Block) (p job : Nat) : Option Nat :=
  (List.range 64).find? fun q =>
    let c := s.queue p q
    c.bound && c.job = job && !c.vote && c.library

/-- Library-launched launches in progress of a partition end with ORDER_MISMATCH; the record names the arrival (R286). With none in
progress the record and the cause stand in the lowest library-launched queue of the job (assumption log 147). -/
def Block.mismatch (s : Block) (p : Nat) (k : Pkt) : Block :=
  let busy := (List.range 64).filterMap fun q =>
    let c := s.queue p q
    if c.bound && c.library && c.cur.isSome then
      ((List.range (s.lanes p)).find? fun l => (c.lane l).ended.isNone).map fun l => (q, l)
    else none
  if busy.isEmpty then s.collFault p ((s.libraryQueue p k.job).getD 0) { k.failed with cause := 2, status := 5 }
  else busy.foldl (fun s x => s.launchFail p x.1 x.2 5 k.failed) s

/-- Lane `l` is absent at the partition: beyond its lanes, or its core or the whole partition has been reset and is not bound anew (R262,
Table 14.9). -/
def Block.laneGone (s : Block) (p l : Nat) : Bool :=
  decide (s.lanes p ≤ l) || (s.part p).blank || (match (s.part p).laneCore l with
    | some i => (s.core p i).inReset || !(s.slot p i 0).bound
    | none => true)

/-- A clear-to-send or data of a tick-bound launch that ended while the package is absent (R285). -/
def Block.wasAbsent (s : Block) (p q : Nat) (k : Pkt) : Bool :=
  let c := s.queue p q
  s.isAbsent c.job && decide (k.sub ≤ 1) && c.absents.contains (k.group, k.ordinal)

/-- A data-collective packet (SUB 0 to 3) is performed at partition `p` (R273, R274, R284 to R286): the response status, and
the block. -/
def Block.laneIn (s : Block) (p : Nat) (k : Pkt) : Nat × Block :=
  let l := k.lane
  let dev := s.queueFor p k.job k.group k.ordinal
  if s.laneGone p l then (0, s.log (.coll p (dev.getD 0)) 10)
  else match dev with
  | some q =>
    let c := s.queue p q
    let stale := if s.wasAbsent p q k then s.answerAbsent p q l k else s.log (.coll p q) 9
    if c.library then match c.cur with
      | some x => (0, s.launchIn p q l x k)
      | none => (0, s)
    else match c.cur with
      | some x =>
        if x.ordinal % 2 ^ 32 = k.ordinal then (0, s.launchIn p q l x k)
        else if k.ordinal < x.ordinal then (0, stale)
        else if 256 ≤ (c.lane l).store.length then (0, s.modLane p q l fun y => { y with lostCts := y.lostCts ++ [k] })
        else (0, s.modLane p q l fun y => { y with store := y.store ++ [k] })
      | none =>
        if k.ordinal < c.nextOrd then (0, stale)
        else if 256 ≤ (c.lane l).store.length then (0, s.modLane p q l fun y => { y with lostCts := y.lostCts ++ [k] })
        else (0, s.modLane p q l fun y => { y with store := y.store ++ [k] })
  | none =>
    match s.libraryQueue p k.job with
    | none => (2, s.log (.coll p 0) 9)
    | some q =>
      if let some a := (List.range 64).find? fun a => (s.queue p a).library && s.wasAbsent p a k then (0, s.answerAbsent p a l k)
      else if 256 ≤ (s.coll.mism.filter fun e => e.1 = p).length then (0, s.mismatch p k)
      else (0, (s.log (.coll p q) 8).modColl fun v => { v with mism := v.mism ++ [(p, s.merid.count, k)] })

/-- A DATA packet of a send has been answered DONE (R275): the last answer completes the send of the launch that runs still. -/
def Block.collDone (s : Block) (p q l : Nat) (launch send : Option Nat) : Block :=
  match send, (s.queue p q).cur with
  | some n, some _ =>
    if launch ≠ some (s.queue p q).ends then s
    else s.modLane p q l fun y =>
      { y with occ := y.occ + 1, sends := y.sends.map fun e =>
          if e.seq = n then { e with out := e.out - 1, done := if e.out = 1 then some y.occ else e.done } else e }
  | _, _ => s

/-- A collective transaction has ended in failure (R256): its launch ends with REMOTE_FAIL if it still runs. One refused at issue whose
launch has ended meanwhile is counted by itself (R23; assumption log 170). -/
def Block.collLost (s : Block) (p q l : Nat) (launch : Option Nat) (pkgn : Nat) (refused : Bool) : Block :=
  let gone : Block := if refused then s.log (.coll p q) 6 else s
  match (s.queue p q).cur with
  | some x =>
    if launch = some (s.queue p q).ends && (((s.queue p q).lane l).ended).isNone then
      s.launchFail p q l 6 (x.failed pkgn 0 0)
    else gone
  | none => gone

/-! Collective-step instructions (Table 10.3, R271). -/

/-- The core fault COLLECTIVE (R271). -/
def Block.collCore (s : Block) (p i sl kind q : Nat) : Block := s.coreFault p i sl .collective (kind * 4096 + q)

/-- A matrix instruction on a comm core raises COLLECTIVE with kind GATED (R264, R271). -/
def Block.gated (s : Block) (p i sl : Nat) (body : Block → Block) : Block :=
  if s.isComm p i then s.collCore p i sl 3 0 else body s

/-- A slot's queue holds a data queue bound to the slot's job (R271): none where not. -/
def Block.dataQueue (s : Block) (p i sl q : Nat) : Bool :=
  let c := s.queue p q
  c.bound && c.job = (s.slot p i sl).job && !c.vote

/-- A comm-core instruction on queue `q`: its lane, or the fault (R271). -/
def Block.commOn (s : Block) (p i sl q : Nat) (body : Nat → Block) : Block :=
  let t := s.slot p i sl
  match if sl = 0 then (s.part p).laneOf t.lcore else none with
  | none => s.collCore p i sl 1 q
  | some l => if s.dataQueue p i sl q then body l else s.collCore p i sl 2 q

/-- The 64 bytes of a launch record lie inside the slot's window, aligned (R271). -/
def Block.recordOk (s : Block) (p i sl a : Nat) : Bool :=
  a % 64 = 0 && decide (a + 64 ≤ 0x80000) && (s.outside p i sl a 64).isNone

/-- A launch joins a queue (R268, R277). -/
def Block.pushLaunch (s : Block) (p q ordinal group : Nat) (b : List Nat) : Block :=
  let arr := bit (s.reg (.coll p q) 0x040) 8
  let denied := bit (dF b 1 1) 0 && !arr
  let s := if denied then (s.raise (.coll p q) 7).log (.coll p q) 11 else s
  s.modQueue p q fun c =>
    { c with pending := c.pending ++ [⟨ordinal, group, takenRecord b arr⟩], lastOrd := if c.pending.isEmpty then ordinal else c.lastOrd }

/-- CS.LAUNCH (R266). -/
def Block.csLaunch (s : Block) (p i sl w : Nat) : Block :=
  let q := bits w 48 6
  let t := s.slot p i sl
  let a := t.addr (bits w 44 4) w
  let st := bits w 39 5
  let c := s.queue p q
  let mine := c.bound && c.job = t.job && !c.draining && (s.hdr (.coll p q)).enaW ≠ some false
  if sl ≠ 0 then s.collCore p i sl 1 q
  else if mine && c.vote then s.collCore p i sl 2 q
  else if !s.recordOk p i sl a then s.collCore p i sl 4 q
  else if !mine then s.ret p i sl fun t => t.setS st 1
  else if c.library then s.ret p i sl fun t => t.setS st 2
  else if 8 ≤ c.pending.length then s.stall p i sl w .coll
  else
    let (b, pois, s) := s.memRead (coreBase p i + a) 64
    let s := if pois then s.observePoison (.coll p q) else s
    let s := s.pushLaunch p q c.nextOrd c.group b
    let s := s.modQueue p q fun c => { c with nextOrd := (c.nextOrd + 1) % 2 ^ 32 }
    s.ret p i sl fun t => t.setS st 0

/-- Arrivals kept for a launch that has been taken act on it: ABORT and ABSENT end it, and while the package is absent each
clear-to-send is answered ABSENT (R285, R286). -/
def Block.replayStore (s : Block) (p q l : Nat) (x : CLaunch) : List Pkt → Block
  | [] => s
  | k :: t =>
    let here := k.ordinal = x.ordinal % 2 ^ 32 ∧ k.group = x.group
    let s := if here && (decide (2 ≤ k.sub) || (s.isAbsent (s.queue p q).job && x.deadline ≠ 0)) then
        (s.modLane p q l fun y => { y with store := y.store.erase k }).launchIn p q l x k else s
    s.replayStore p q l x t

/-- CS.TAKE (R269, R285). -/
def Block.csTake (s : Block) (p i sl w : Nat) : Block :=
  let q := bits w 43 6
  s.commOn p i sl q fun l =>
    let t := s.slot p i sl
    let a := t.addr (bits w 39 4) w
    let y := (s.queue p q).lane l
    if !s.recordOk p i sl a then s.collCore p i sl 4 q
    else match (s.queue p q).cur with
      | none => s.stall p i sl w .coll
      | some x =>
        if y.taken || y.ended.isSome then s.stall p i sl w .coll
        else
          let s := s.memWrite (coreBase p i + a) x.rec'
          let s := s.modLane p q l fun y =>
            { y with taken := true, notified := true, seq := 0, occ := 0,
                     lostCts := y.lostCts.filter fun k => decide (x.ordinal % 2 ^ 32 < k.ordinal) }
          let s := s.ret p i sl fun t => t.setS (bits w 49 5) (x.ordinal % 2 ^ 32)
          let s := s.replayStore p q l x y.store
          if (((s.queue p q).lane l).ended).isSome then s
          else if s.isAbsent (s.queue p q).job && x.deadline ≠ 0 then
            let s := (List.range (s.lanes p)).foldl (fun s k => s.replayStore p q k x ((s.queue p q).lane k).store) s
            s.launchFail p q l 3 (x.failed s.pkgn 0 (s.queue p q).rank)
          else match y.lostCts.find? fun k => k.ordinal = x.ordinal % 2 ^ 32 with
            | some k => s.launchFail p q l 7 (x.failed k.src k.step k.rank)
            | none => s

/-- An EXPECT, SEND or REL on a lane: with no launch taken the fault NO_LAUNCH, after an end not yet delivered no effect. -/
def Block.inLaunch (s : Block) (p i sl q l : Nat) (body : CLaunch → Block) : Block :=
  let y := (s.queue p q).lane l
  match y.taken, (s.queue p q).cur with
  | true, some x => body x
  | _, _ => if y.endEv.isSome then s.ret p i sl id else s.collCore p i sl 5 q

/-- CS.EXPECT (R272). -/
def Block.csExpect (s : Block) (p i sl w : Nat) : Block :=
  let q := bits w 43 6
  s.commOn p i sl q fun l => s.inLaunch p i sl q l fun x =>
    let t := s.slot p i sl
    let rank := t.s (bits w 49 5) % 2 ^ 20
    let sp := t.s (bits w 22 5)
    let n := bits sp 0 24
    let doff := bits sp 24 24
    let step := bits w 27 12
    let y := (s.queue p q).lane l
    let size := s.winSlot p q
    if n = 0 ∨ n % 64 ≠ 0 ∨ doff % 64 ≠ 0 ∨ size < doff + n then s.collCore p i sl 4 q
    else if s.reg (.coll p q) 0x04C ≤ rank ∨ rank = (s.queue p q).rank then s.collCore p i sl 7 q
    else if 64 ≤ y.exps.length || (y.exps.any fun e => e.step % 16 = step % 16 && e.step ≠ step) ||
        (s.part p).preempt || decide ((s.part p).state = .preemptDeferred) then s.stall p i sl w .coll
    else
      let s := s.modLane p q l fun y =>
        { y with seq := y.seq + 1,
                 exps := y.exps ++ [{ step := step, rank := rank, bytes := n, doff := doff, seq := y.seq, tick := s.merid.count }] }
      (s.toRank p q l rank 1 step x.ordinal n 0 [] 0 none).ret p i sl id

/-- CS.SEND (R273). -/
def Block.csSend (s : Block) (p i sl w : Nat) : Block :=
  let q := bits w 43 6
  s.commOn p i sl q fun l => s.inLaunch p i sl q l fun x =>
    let t := s.slot p i sl
    let rank := t.s (bits w 49 5) % 2 ^ 20
    let sp := t.s (bits w 22 5)
    let n := bits sp 0 24
    let a := (t.a (bits w 39 4) + bits w 0 19) % 2 ^ 64
    let step := bits w 27 12
    let y := (s.queue p q).lane l
    if bits sp 24 24 ≠ 0 then s.coreFault p i sl .illegal (0x100 + bits w 22 5)
    else if n = 0 ∨ n % 64 ≠ 0 ∨ s.winSlot p q < n ∨ 0x80000 < a + n then s.collCore p i sl 4 q
    else if s.reg (.coll p q) 0x04C ≤ rank ∨ rank = (s.queue p q).rank then s.collCore p i sl 7 q
    else if 64 ≤ y.sends.length then s.stall p i sl w .coll
    else
      let e : CSnd := { step := step, rank := rank, bytes := n, src := a, seq := y.seq }
      let s := s.modLane p q l fun y => { y with seq := y.seq + 1, sends := y.sends ++ [e] }
      let s := s.ret p i sl id
      match y.store.find? fun k => k.sub = 1 && k.ordinal = x.ordinal % 2 ^ 32 && k.group = x.group && k.rank = rank && k.step = step with
      | some k => (s.modLane p q l fun y => { y with store := y.store.erase k }).meetCts p q l x e k.off
      | none => s

/-- The slot of a step is free; the expectations whose ARRIVED is still to be delivered wait for that alone. -/
def CLane.release (y : CLane) (step : Nat) : CLane :=
  { y with exps := y.exps.filter fun e => e.step ≠ step, freed := y.freed ++ y.exps.filter fun e => decide (e.step = step) && !e.told }

/-- CS.REL (R274). -/
def Block.csRel (s : Block) (p i sl w : Nat) : Block :=
  let q := bits w 43 6
  let step := bits w 27 12
  s.commOn p i sl q fun l => s.inLaunch p i sl q l fun _ =>
    let es := ((s.queue p q).lane l).exps.filter fun e => e.step = step
    if es.isEmpty || es.any fun e => e.met.isNone then s.collCore p i sl 6 q
    else (s.modLane p q l fun y => y.release step).ret p i sl id

/-- An event of CS.NEXT: its code, step, rank, status, and the lane after its delivery. -/
abbrev CEvent := Nat × Nat × Nat × Nat × CLane

/-- A completed expectation or send among a lane's undelivered events: issue order, completion order, what it delivers. -/
def CLane.events (y : CLane) : List (Nat × Option Nat × CEvent) :=
  ((y.exps.filter fun e => !e.told).map fun e =>
    (e.seq, e.met, (2, e.step, e.rank, 0, { y with exps := y.exps.map fun z => if z = e then { z with told := true } else z }))) ++
  (y.freed.map fun e => (e.seq, e.met, (2, e.step, e.rank, 0, { y with freed := y.freed.filter (· ≠ e) }))) ++
  (y.sends.map fun e => (e.seq, e.done, (3, e.step, e.rank, 0, { y with sends := y.sends.filter (· ≠ e) })))

/-- The one of a list of events with the least key. -/
def leastEvent : List (Nat × CEvent) → Option CEvent
  | [] => none
  | (n, e) :: t => match (t.map (·.1)).min? with
    | some m => if n ≤ m then some e else leastEvent t
    | none => some e

/-- The next deliverable event of a lane (R275, R277). -/
def CQueue.event (c : CQueue) (l : Nat) : Option CEvent :=
  let y := c.lane l
  match y.endEv with
  | some st => some (4, 0, 0, st, { y with endEv := none })
  | none => match c.cur with
    | none => none
    | some x =>
      if y.ended.isSome then none
      else if !y.taken then (if y.notified then none else some (1, 0, 0, 0, { y with notified := true }))
      else if x.arrivalOrder then
        leastEvent (y.events.filterMap fun e => e.2.1.map fun n => (n, e.2.2))
      else match (y.events.map (·.1)).min? with
        | none => none
        | some m => (y.events.find? fun e => e.1 = m && e.2.1.isSome).map (·.2.2)

/-- ARRIVAL_EN has been cleared under a launch in arrival order: it runs deterministically from here on, and that is counted (R277). -/
def Block.denyArrival (s : Block) (p q : Nat) : Block :=
  if (s.queue p q).cur.any (·.arrivalOrder) && !bit (s.reg (.coll p q) 0x040) 8 then
    ((s.modQueue p q fun c => { c with pending := match c.pending with
        | x :: t => { x with rec' := takenRecord x.rec' false } :: t
        | [] => [] }).raise (.coll p q) 7).log (.coll p q) 11
  else s

/-- CS.NEXT (R275). -/
def Block.csNext (s : Block) (p i sl w : Nat) : Block :=
  let t := s.slot p i sl
  match if sl = 0 then (s.part p).laneOf t.lcore else none with
  | none => s.collCore p i sl 1 0
  | some l =>
    let qs := ((List.range 64).map fun n => (t.csLast + 1 + n) % 64).filter fun q => s.dataQueue p i sl q
    let s := qs.foldl (fun s q => s.denyArrival p q) s
    match qs.findSome? fun q => ((s.queue p q).event l).map fun e => (q, e) with
    | none => s.stall p i sl w .coll
    | some (q, ev, step, rank, st, y) =>
      let s := s.modLane p q l fun _ => y
      s.ret p i sl fun t =>
        { t.setS (bits w 49 5) (q + ev * 2 ^ 8 + step * 2 ^ 16 + rank * 2 ^ 32 + st * 2 ^ 52) with csLast := q }

/-- CS.END (R269). -/
def Block.csEnd (s : Block) (p i sl w : Nat) : Block :=
  let q := bits w 43 6
  s.commOn p i sl q fun l =>
    let y := (s.queue p q).lane l
    if !y.taken then s.ret p i sl id
    else if y.sends.any fun e => e.done.isNone then s.stall p i sl w .coll
    else ((s.modLane p q l fun y => y.stop 0 false).ret p i sl id).launchDone p q

/-! Votes (R280 to R282). -/

/-- The partitions of the package whose primary job is `job`, lowest logical partition first. -/
def Block.partsOf (s : Block) (job : Nat) : List Nat :=
  ((List.range 12).flatMap fun lp => (List.range 12).filter fun p => (s.part p).bindP = some (job, lp))

/-- The vote queue of partition `p` for a group. -/
def Block.voteQueue (s : Block) (p job group : Nat) : Option Nat :=
  (List.range 64).find? fun q =>
    let c := s.queue p q
    c.bound && c.vote && c.job = job && c.group = group

/-- The page whose COLL_VTREE and COLL_VDL a vote uses: the job's lowest logical partition's (R280). -/
def Block.votePage (s : Block) (job group : Nat) : Option (Nat × Nat) :=
  (s.partsOf job).findSome? fun p => (s.voteQueue p job group).map fun q => (p, q)

/-- Every primary slot of the job in the package. -/
def Block.jobSlots (s : Block) (job : Nat) : List (Nat × Nat) :=
  (s.partsOf job).flatMap fun p => ((List.range 153).filter fun i => (s.slot p i 0).bound && (s.slot p i 0).job = job).map fun i => (p, i)

/-- The vote of a job's group and ordinal. -/
def Coll.vote (c : Coll) (job group ordinal : Nat) : Option CVote :=
  c.votes.find? fun v => v.job = job && v.group = group && v.ordinal = ordinal

/-- The vote with key (job, group, ordinal) changed by `f`; it is opened where it is new. -/
def Coll.modVote (c : Coll) (job group ordinal : Nat) (f : CVote → CVote) : Coll :=
  match c.vote job group ordinal with
  | some v => { c with votes := c.votes.map fun x => if x = v then f v else x }
  | none => { c with votes := c.votes ++ [f { job := job, group := group, ordinal := ordinal }] }

/-- A vote's value on its way to package `g`: SUB 4 VOTE_UP or 5 VOTE_DOWN. One to a package that cannot be named is refused and
counted at the vote queue, in the counter of launches ended REMOTE_FAIL (R23, assumption log 170). -/
def Block.sendVote (s : Block) (p q : Nat) (v : CVote) (sub g value : Nat) : Block :=
  if !s.isSelf g && !s.reachable g then s.log (.coll p q) 6
  else s.collSend p (collPkt g 0 v.job v.group sub 0 0 0 v.ordinal 0 0 (leBytes 8 value) 0) (.vote p q)

/-- A vote's result is delivered in the package (R282): the latest result of its queues; the next tick is the job's step boundary
(R297). `lost`: the deadline's all ones. -/
def Block.voteResult (s : Block) (v : CVote) (value : Nat) (lost : Bool) : Block :=
  let s := (s.partsOf v.job).foldl (fun s p => match s.voteQueue p v.job v.group with
    | some q => s.modQueue p q fun c => { c with vres := value, lastOrd := v.ordinal }
    | none => s) s
  let s := s.modColl fun c => { c.modVote v.job v.group v.ordinal (fun v => { v with result := some value, lost := lost }) with
    stepDue := (c.stepDue ++ [v.job]).eraseDups }
  match s.votePage v.job v.group with
  | some (p, q) => if lost then s else s.log (.coll p q) 12
  | none => s

/-- A launched vote that has heard its children goes up, or is turned round at the root (R282). -/
def Block.voteAdvance (s : Block) (job group ordinal : Nat) : Block :=
  match s.coll.vote job group ordinal, s.votePage job group with
  | some v, some (p, q) =>
    let w := s.reg (.coll p q) 0x070
    if v.launch.isNone || v.upSent || decide (v.ups.length < bits w 16 8) then s
    else
      let s := s.modColl fun c => c.modVote job group ordinal fun v => { v with upSent := true }
      if bit w 31 then
        let s := v.ups.foldl (fun s g => s.sendVote p q v 5 g v.value) s
        if v.result.isSome then s.log (.coll p q) 14 else s.voteResult v v.value false
      else s.sendVote p q v 4 (bits w 0 16) v.value
  | _, _ => s

/-- At a tick, votes whose last contribution has been made are launched with bit 63 as the package sets it (R281, R282). -/
def Block.voteTick (s : Block) : Block :=
  (s.coll.votes.filter fun v => v.launch.isNone && v.slots ≠ [] &&
      (s.jobSlots v.job).all fun x => v.slots.contains x).foldl (fun s v =>
    let hot := s.coll.trouble.contains v.job || decide (s.merid.state = .outOfStep)
    let s := s.modColl fun c => { c.modVote v.job v.group v.ordinal (fun v =>
        { v with launch := some s.merid.count, value := if hot then setBit1 v.value 63 else v.value }) with
      trouble := c.trouble.filter (· ≠ v.job) }
    s.voteAdvance v.job v.group v.ordinal) s

/-- VOTE_DEADLINE: no VOTE_DOWN within COLL_VDL ticks of the launch tick (R282). In the tick of the deadline itself a result is still
delivered (Table 10.9), so the deadline acts after it. -/
def Block.voteDeadline (s : Block) (job group ordinal : Nat) : Block :=
  match s.coll.vote job group ordinal, s.votePage job group with
  | some v, some (p, q) =>
    match v.launch, v.result with
    | some t, none =>
      if s.merid.count ≤ t + s.fld (.coll p q) 0x074 0 8 then s
      else
        let s := s.voteResult v 0xFFFFFFFFFFFFFFFF true
        let s := (s.raise (.coll p q) 5).log (.coll p q) 13
        s.jobFault p 5 job q 0x7FF
    | _, _ => s
  | _, _ => s

/-- CS.VOTE (R281). -/
def Block.csVote (s : Block) (p i sl w : Nat) : Block :=
  let q := bits w 43 6
  let t := s.slot p i sl
  let c := s.queue p q
  if sl ≠ 0 then s.collCore p i sl 1 q
  else if !(c.bound && c.job = t.job && c.vote) then s.collCore p i sl 2 q
  else
    let nf := bit w 42 && bit t.flags 7
    let v := t.s (bits w 49 5) % 2 ^ 63 ||| b2n nf
    let o := smGet 0 c.votes i
    let s := s.modQueue p q fun c => { c with votes := smPut 0 c.votes i (o + 1) }
    let s := s.modColl fun x => x.modVote c.job c.group o fun y =>
      { y with value := y.value ||| v, slots := if y.slots.contains (p, i) then y.slots else y.slots ++ [(p, i)] }
    s.ret p i sl id

/-- CS.VWAIT (R282). A slot that has not voted on Q has no latest result: a free value. -/
def Block.csVwait (s : Block) (p i sl w : Nat) : Block :=
  let q := bits w 43 6
  let t := s.slot p i sl
  let c := s.queue p q
  if sl ≠ 0 then s.collCore p i sl 1 q
  else if !(c.bound && c.job = t.job && c.vote) then s.collCore p i sl 2 q
  else match smGet 0 c.votes i with
    | 0 =>
      let (v, s) := s.fresh
      s.ret p i sl fun t => t.setS (bits w 49 5) v
    | o + 1 => match (s.coll.vote c.job c.group o).bind (·.result) with
      | some r => s.ret p i sl fun t => t.setS (bits w 49 5) r
      | none => s.stall p i sl w .coll

/-- A VOTE_UP is performed (R282): ORed in once for each child; the vote goes on when the last child has been heard. -/
def Block.voteUpIn (s : Block) (k : Pkt) : Block :=
  let v := leNat (k.data.take 8)
  let seen := match s.coll.vote k.job k.group k.ordinal with
    | some x => x.ups.contains k.src
    | none => false
  if seen then s
  else (s.modColl fun c => c.modVote k.job k.group k.ordinal fun x =>
    { x with value := x.value ||| v, ups := x.ups ++ [k.src] }).voteAdvance k.job k.group k.ordinal

/-- A VOTE_DOWN is performed (R282): delivered and forwarded to the children heard, or late and discarded. -/
def Block.voteDownIn (s : Block) (k : Pkt) : Block :=
  let r := leNat (k.data.take 8)
  match s.coll.vote k.job k.group k.ordinal, s.votePage k.job k.group with
  | some v, some (p, q) =>
    if v.result.isSome then s.log (.coll p q) 14
    else
      let s := v.ups.foldl (fun s g => s.sendVote p q v 5 g r) s
      s.voteResult v r false
  | _, some (p, q) => s.log (.coll p q) 14
  | _, none => s

/-- A COLL packet is performed at this package (R276): the response status, and the block. -/
def Block.collIn (s : Block) (k : Pkt) : Nat × Block :=
  match k.sub with
  | 4 => (0, s.voteUpIn k)
  | 5 => (0, s.voteDownIn k)
  | 6 => (0, s.log (.coll (((s.partOf k.job k.lpart).map (·.1)).getD 0) 0) 10)
  | 7 => (0, s.log (.coll (((s.partOf k.job k.lpart).map (·.1)).getD 0) 0) 10)
  | _ =>
    match s.partOf k.job k.lpart with
    | some (p, 0) => s.laneIn p k
    | _ => (2, s)

/-! Binding, library launches, deadlines. -/

/-- The rank of a partition in a queue's member table, none where the binding is refused (R261, R266), and the block. -/
def Block.bindRank (s : Block) (p q : Nat) (device : Bool) : Option Nat × Block :=
  let n := s.reg (.coll p q) 0x04C
  let a := s.pair (.coll p q) 0x050 0x054 12
  match (s.part p).bindP with
  | none => (none, s)
  | some (_, lp) =>
    if !s.canAccess a (4 * n) then (none, s.collDenied p q)
    else
      let (bs, pois, s) := s.memRead a (4 * n)
      if pois then (none, s.observePoison (.coll p q))
      else
        let es := (List.range n).map fun r => leNat ((bs.drop (4 * r)).take 4)
        let ids := es.map fun e => (bits e 0 16, bits e 16 4)
        let bad := ids.any fun e => decide (0xC000 ≤ e.1) || decide (12 ≤ e.2) || (device && decide (2048 ≤ e.1))
        if bad || !decide ids.Nodup then (none, s)
        else (ids.findIdx? fun e => e.1 = s.pkgn && e.2 = lp, s)

/-- The votes of a job's group count from 0 again: any vote from now on follows the step that ended last (R389). -/
def Block.ordinalsAnew (s : Block) (job g : Nat) : Block :=
  let anew (r : Nat) (q : Ring) : Ring :=
    if q.voted.map (·.1) = some g ∧ s.fld .upd (0x10C + 32 * r) 0 16 = job then { q with voted := some (g, 2 ^ 32 - 1) } else q
  { s with upd := { s.upd with rings := smMapVals {} s.upd.rings anew } }

/-- QUEUE_BIND: COLL_BIND.BOUND written 1 with word `v` (R261, R265, R266). -/
def Block.queueBind (s : Block) (p q v : Nat) : Block :=
  let c := s.queue p q
  let fields := v % 2 ^ 24 + bits v 29 2 * 2 ^ 29
  if c.bound then (if fields = s.reg (.coll p q) 0x044 then s else s.clamped (.coll p q) 0x044)
  else
    let s := s.setReg (.coll p q) 0x044 fields
    let vote := bit v 30
    let lib := bit v 29
    match s.bindRank p q (!vote && !lib) with
    | (none, s) => s.raise (.coll p q) 4
    | (some r, s) =>
      let job := (((s.part p).bindP).map (·.1)).getD 0
      let first := (List.range 12).all fun x => (s.voteQueue x job (v % 2 ^ 24)).isNone
      let s := if vote && first then
          (s.modColl fun c => { c with votes := c.votes.filter fun x => !(x.job = job && x.group = v % 2 ^ 24) }).ordinalsAnew job (v % 2 ^ 24)
        else s
      (s.modQueue p q fun c =>
        { c with bound := true, job := job, vote := vote, library := lib && !vote, group := v % 2 ^ 24, rank := r,
                 draining := false, pending := [], binds := s.coll.binds + 1, nextOrd := 0, ring := 0, lanes := [], votes := [], slowNew := true, absents := [] }).modColl
        fun c => { c with binds := c.binds + 1 }

/-- QUEUE_UNBIND: COLL_BIND.BOUND written 0 with word `v`: the queue is unbound once its launches have ended (R265). -/
def Block.queueUnbind (s : Block) (p q v : Nat) : Block :=
  let c := s.queue p q
  let fields := v % 2 ^ 24 + bits v 29 2 * 2 ^ 29
  if !c.bound then s.setReg (.coll p q) 0x044 fields
  else
    let s := if fields = s.reg (.coll p q) 0x044 then s else s.clamped (.coll p q) 0x044
    if c.pending.isEmpty then s.modQueue p q fun c => { c with bound := false, draining := false, lanes := [], votes := [] }
    else s.modQueue p q fun c => { c with draining := true }

/-- HDR_CTL.ENABLE of a COLL page written 0: launches that no lane has taken are rejected (Table 10.9). -/
def Block.queueDisable (s : Block) (p q : Nat) : Block :=
  let taken := s.launchTaken p q
  s.modQueue p q fun c =>
    { c with pending := if taken then c.pending.take 1 else [],
             lanes := if taken then c.lanes else smMapVals {} c.lanes fun _ y => { y with notified := false } }

/-- LIBRARY_LAUNCH_TAKE: a library-launched queue with no launch in progress takes the next ring record when its launch
counter allows (R267); arrivals held for that launch are resolved (R286). -/
def Block.libraryTake (s : Block) (p q : Nat) : Block :=
  let c := s.queue p q
  if !c.bound || !c.library || c.draining || !c.pending.isEmpty || (s.hdr (.coll p q)).enaW = some false then s
  else match s.ctrNum p 0 (s.fld (.coll p q) 0x064 0 12) with
    | none => s
    | some n =>
      let v := (s.syn p).ctr n
      let a := s.pair (.coll p q) 0x05C 0x060 12 + 64 * (c.ring % 64)
      if v = 0 then s
      else if !s.canAccess a 64 then s.collDenied p q
      else
        let s := s.modSyn p fun y => { y with ctrs := smPut 0 y.ctrs n (v - 1) }
        let (b, pois, s) := s.memRead a 64
        let s := if pois then s.observePoison (.coll p q) else s
        let ord := dF b 4 4
        let grp := dF b 0x0C 3
        let s := s.pushLaunch p q ord grp b
        let s := s.modQueue p q fun c => { c with ring := c.ring + 1 }
        let mine := s.coll.mism.filter fun e => e.1 = p && e.2.2.group = grp && e.2.2.ordinal = ord
        let s := s.modColl fun v => { v with mism := v.mism.filter fun e => !(e.1 = p && e.2.2.group = grp && e.2.2.ordinal = ord) }
        mine.foldl (fun s e => match (s.queue p q).cur with
          | some x => s.launchIn p q e.2.2.lane x e.2.2
          | none => s) s

/-- COLL_DEADLINE: an expectation of lane `l` is unmet at the DEADLINE-th tick after its issue (R284). -/
def Block.collDeadline (s : Block) (p q l : Nat) : Block :=
  match (s.queue p q).cur with
  | none => s
  | some x =>
    let y := (s.queue p q).lane l
    match y.exps.find? fun e => e.met.isNone && x.deadline ≠ 0 && decide (e.tick + x.deadline ≤ s.merid.count) with
    | some e => s.failAt p q l 1 x e.step e.rank
    | none => s

/-- ORDER_MISMATCH: an arrival of the mismatch store of partition `p` is unresolved after ORDER_TICKS ticks (R286). -/
def Block.orderMismatch (s : Block) (p : Nat) : Block :=
  let lim := s.fld (.coll p 0) 0x040 16 8
  match s.coll.mism.find? fun e => e.1 = p && decide (e.2.1 + lim ≤ s.merid.count) with
  | none => s
  | some e => (s.modColl fun v => { v with mism := v.mism.erase e }).mismatch p e.2.2

/-- A lane has an unmet expectation or an unsent or unanswered send (R287). -/
def CLane.busy (y : CLane) : Bool := (y.exps.any fun e => e.met.isNone) || (y.sends.any fun e => e.done.isNone)

/-- A lane of the partition has an expectation or send outstanding (R287). -/
def Block.lanesBusy (s : Block) (p : Nat) : Bool :=
  (List.range 64).any fun q => (List.range (s.lanes p)).any fun l => ((s.queue p q).lane l).busy

/-- DEFER_TIMEOUT: a deferral reaches DEFER_TICKS; launches with an unmet expectation or an unsent send end with DEADLINE, and nothing
holds the pre-emption back any more (R287). -/
def Block.deferTimeout (s : Block) (p : Nat) : Block :=
  if (s.part p).state ≠ .preemptDeferred ∨ s.merid.count < (s.part p).preemptAt + s.fld (.coll p 0) 0x040 24 8 then s
  else
    let s := (s.log (.coll p 0) 16).modPart p fun z => { z with deferOver := true }
    (List.range 64).foldl (fun s q =>
      let c := s.queue p q
      match (List.range (s.lanes p)).find? (fun l => ((c.lane l).waitRanks ≠ [])), c.cur with
      | some l, some x =>
        let y := c.lane l
        match y.exps.find? fun e => e.met.isNone with
        | some e => s.failAt p q l 1 x e.step e.rank
        | none => match y.sends.find? fun e => !e.sent with
          | some e => s.failAt p q l 1 x e.step e.rank
          | none => s.launchFail p q l 1 (x.failed 0 0 0)
      | _, _ => s) s

/-- Taken launches of a partition end ABORTED, with ABORT to their peers (R369). -/
def Block.collAbort (s : Block) (p : Nat) : Block :=
  (List.range 64).foldl (fun s q =>
    let c := s.queue p q
    match (List.range (s.lanes p)).find? (fun l => (c.lane l).ended.isNone), c.cur with
    | some l, some x => if s.launchTaken p q then s.launchFail p q l 2 (x.failed s.pkgn 0 c.rank) else s
    | _, _ => s) s

/-- Taken launches of a partition end ABORTED at its reset; their lanes' state is lost, and no peer is told (Tables 10.9, 14.10). -/
def Block.collDrop (s : Block) (p : Nat) : Block :=
  (List.range 64).foldl (fun s q =>
    match (s.queue p q).cur with
    | some x =>
      if s.launchTaken p q then ((s.noteTrouble (s.queue p q).job x).log (.coll p q) 2).raise (.coll p q) 1 else s
    | none => s) s

end Sys2Proof.Machine
end

