-- ==== Sys2Proof/Machine/Upd.lean ====
section
/-! DEFINITION. The update engine and the resident host (spec/11). -/

namespace Sys2Proof.Machine

def Block.ring (s : Block) (r : Nat) : Ring := smGet {} s.upd.rings r
def Block.modRing (s : Block) (r : Nat) (f : Ring → Ring) : Block :=
  { s with upd := { s.upd with rings := smMod {} s.upd.rings r f } }
def Block.rhost (s : Block) (h : Nat) : RHost := smGet {} s.rhosts h
def Block.modRhost (s : Block) (h : Nat) (f : RHost → RHost) : Block := { s with rhosts := smMod {} s.rhosts h f }

/-! FP32 arithmetic of R305. -/

/-- rnd(x): FP32, RNE, IEEE (R305). -/
def rnd32 (v : XVal) : Nat := (encodeElt .fp32 v .rne .ieee).1

def fp (c : Nat) : XVal := decodeElt .fp32 c
def fMul (a b : Nat) : Nat := rnd32 (xMul (fp a) (fp b)).1
def fAdd (a b : Nat) : Nat := rnd32 (xAdd (fp a) (fp b)).1
def fSub (a b : Nat) : Nat := rnd32 (xAdd (fp a) (xNeg (fp b))).1

/-- Exact quotient with IEEE specials; an exact zero is +0 (R109; assumption log 134). -/
def xDiv (a b : XVal) : XVal :=
  match a, b with
  | .nan, _ => .nan
  | _, .nan => .nan
  | .inf _, .inf _ => .nan
  | .inf x, .fin y _ _ => .inf (x != y)
  | .fin _ _ _, .inf _ => .fin false 0 1
  | .fin x n d, .fin y m e => if m = 0 then (if n = 0 then .nan else .inf (x != y))
    else .fin (decide (n ≠ 0) && (x != y)) (n * e) (d * m)

def fDiv (a b : Nat) : Nat := rnd32 (xDiv (fp a) (fp b))

/-- The exact square root rounded by rnd; that of a zero is +0 (R109; assumption log 134). -/
def fSqrt (a : Nat) : Nat :=
  match fp a with
  | .fin neg n d =>
    if n = 0 then 0
    else if neg then 0x7FC00000
    else
      let m := n * d * 4 ^ 64
      let r := isqrtBits m 300 0
      (roundTo false r (d * 2 ^ 64) (decide (r * r ≠ m)) .fp32 .rne .ieee).1
  | .inf false => 0x7F800000
  | _ => 0x7FC00000

/-- An FP32 code is an infinity or a NaN. -/
def nonFinite (c : Nat) : Bool := decide (0x7F800000 ≤ c % 2 ^ 31)

/-- The fields of a hyperparameter set (Table 11.7). -/
structure Hyper where
  lr : Nat
  lrwd : Nat
  b1 : Nat
  omb1 : Nat
  b2 : Nat
  omb2 : Nat
  c1 : Nat
  c2 : Nat
  eps : Nat
  gscale : Nat
deriving DecidableEq, Repr

/-- A hyperparameter set from its bytes. -/
def hyperOf (b : List Nat) : Hyper :=
  ⟨dF b 0 4, dF b 4 4, dF b 8 4, dF b 12 4, dF b 16 4, dF b 20 4, dF b 24 4, dF b 28 4, dF b 32 4, dF b 36 4⟩

/-- update_element of R305 without the working copy: new master, MOM1, MOM2, and whether the element was guarded. `opt`:
1 ADAMW, 2 MSGD, 3 SIGNM. -/
def updateElement (opt : Nat) (h : Hyper) (grad w m v : Nat) : Nat × Nat × Nat × Bool :=
  let g := fMul h.gscale grad
  let wd := fSub w (fMul h.lrwd w)
  let r : Nat × Nat × Nat :=
    if opt = 1 then
      let m2 := fAdd (fMul h.b1 m) (fMul h.omb1 g)
      let v2 := fAdd (fMul h.b2 v) (fMul h.omb2 (fMul g g))
      let s := fSqrt (fMul v2 h.c2)
      (m2, v2, fDiv (fMul m2 h.c1) (fAdd s h.eps))
    else if opt = 2 then
      let m2 := fAdd (fMul h.b1 m) g
      (m2, v, m2)
    else
      let u := fp (fAdd (fMul h.b1 m) (fMul h.omb1 g))
      let d := match u with
        | .nan => 0
        | u => if xLt (.fin false 0 1) u then 0x3F800000 else if xLt u (.fin false 0 1) then 0xBF800000 else 0
      (fAdd (fMul h.b2 m) (fMul h.omb2 g), v, d)
  let w2 := fSub wd (fMul h.lr r.2.2)
  if nonFinite w2 || nonFinite r.1 || nonFinite r.2.1 then (w, m, v, true) else (w2, r.1, r.2.1, false)

/-- The working copy of a new master value (R305). -/
def workCopy (w2 seed step idx : Nat) (sr : Bool) : Nat :=
  (encodeElt .bf16 (fp w2) (if sr then .stoch (srBits seed (step % 2 ^ 32) idx) else .rne) .sat).1

/-! Step and region records. -/

/-- [a, a + n) lies in HBM. -/
def inHbm (a n : Nat) : Bool := decide (a + n ≤ 0x9000000000)

/-- [a, a + n) lies in the capacity tier. -/
def inCap (a n : Nat) : Bool := decide (0x10000000000 ≤ a) && decide (a + n ≤ 0x1F800000000)

/-- A region record is valid (R306, Table 11.4). -/
def Block.regionOk (s : Block) (b : List Nat) : Bool :=
  let f := dF b
  let n := f 4 4
  let work := bit (f 1 1) 0
  let at' (a sz : Nat) (cap : Bool) : Bool := a % 128 = 0 && (if cap then inCap a (sz * n) else inHbm a (sz * n)) && s.canAccess a (sz * n)
  decide (1 ≤ f 0 1) && decide (f 0 1 ≤ 3) && f 1 1 / 4 = 0 && f 2 2 = 0 && n ≠ 0 && at' (f 0x10 8) 4 true && at' (f 0x18 8) 4 true &&
    (if f 0 1 = 1 then at' (f 0x20 8) 4 true else f 0x20 8 = 0) && at' (f 0x28 8) 4 false &&
    (if work then at' (f 0x30 8) 2 false else f 0x30 8 = 0) &&
    f 0x38 8 % 64 = 0 && (inHbm (f 0x38 8) 64 || inCap (f 0x38 8) 64) && s.canAccess (f 0x38 8) 64

/-- A step record is valid, and its region list lies where it may (R306, Table 11.3). -/
def Block.stepOk (s : Block) (b : List Nat) : Bool :=
  let f := dF b
  let n := f 0x18 4
  let place (a k : Nat) : Bool := a % 64 = 0 && (inHbm a k || inCap a k) && s.canAccess a k
  decide (1 ≤ n) && decide (n ≤ 65536) && place (f 0x10 8) (64 * n) && place (f 0x20 8) 64 && f 0x28 1 / 64 = 0 && f 0x29 1 = 0 &&
    f 0x2A 2 / 4096 % 8 = 0 && f 0x34 12 = 0

/-- The `n` region records of a list as it was read are valid. -/
def Block.regionsOk (s : Block) (n : Nat) (ls : List Nat) : Bool := (List.range n).all fun k => s.regionOk ((ls.drop (64 * k)).take 64)

/-- PART and JOB of a ring. -/
def Block.ringPart (s : Block) (r : Nat) : Nat := s.fld .upd (0x10C + 32 * r) 16 4
def Block.ringJob (s : Block) (r : Nat) : Nat := s.fld .upd (0x10C + 32 * r) 0 16

/-- The physical partition of a ring's PART; partition 0 where none carries it. -/
def Block.ringHome (s : Block) (r : Nat) : Nat := ((s.partOf (s.ringJob r) (s.ringPart r)).map (·.1)).getD 0

/-- A step of ring `r` is finished with a status. -/
def Block.stepFinish (s : Block) (r status : Nat) : Block :=
  s.modRing r fun q => { q with step := q.step.map fun x => { x with phase := .finished, status := status } }

/-- DONE_CTR of a step receives one increment (R308); for an unbound job it is dropped (R221). -/
def Block.stepSignal (s : Block) (r : Nat) (x : UpdStep) : Block :=
  let d := dF x.rec' 0x2A 2
  if bit d 15 then
    match s.remoteSync (s.ringJob r) (s.ringPart r) with
    | (some (p, k), s) => match s.ctrNum p k (d % 4096) with
      | some n => (s.ctrApply p .add n 1 (.release 0 (s.ringJob r) s.pkgn)).2
      | none => s.syncFault p 3 (d % 4096) 1 (.release 0 (s.ringJob r) s.pkgn)
    | (none, s) => s
  else s

/-- The update engine is paused: the hub's 105 °C limit (Table 13.4), poison containment (R377), a park. -/
def Block.updPaused (s : Block) : Bool := s.frozen || s.helio.hubPause

/-- The update engine takes records: its page is enabled. -/
def Block.updOn (s : Block) : Bool := (s.hdr .upd).enaW ≠ some false

/-- RING_BIND: UPD_RING[r] +0x0C written with BOUND 1 and word `v` (Table 11.13). -/
def Block.ringBind (s : Block) (r v : Nat) : Block :=
  let o := 0x10C + 32 * r
  let part := Nat.min (bits v 16 4) 11
  let w := part * 2 ^ 16 + v % 65536
  if (s.ring r).bound then (if w = s.reg .upd o then s else s.clamped .upd o)
  else
    let s := if part = bits v 16 4 then s else s.clamped .upd o
    (s.setReg .upd o w).modRing r fun q => { q with bound := true, prod := q.cons, stopped := false }

/-- RING_UNBIND: BOUND written 0 (Table 11.10): the step in progress finishes, later records end DISABLED. -/
def Block.ringUnbind (s : Block) (r v : Nat) : Block :=
  let o := 0x10C + 32 * r
  if (s.ring r).bound then
    let s := if v % 2 ^ 20 = s.reg .upd o then s else s.clamped .upd o
    s.modRing r fun q => { q with bound := false }
  else
    let part := Nat.min (bits v 16 4) 11
    let s := if part = bits v 16 4 then s else s.clamped .upd o
    s.setReg .upd o (part * 2 ^ 16 + v % 65536)

/-- STEP_RECORD_POST: UPD_RING[r].PROD written (Table 11.13). -/
def Block.stepPost (s : Block) (r v : Nat) : Block :=
  let q := s.ring r
  if (v + 256 - q.cons) % 256 ≤ 4 then s.modRing r fun q => { q with prod := v % 256 }
  else (s.clamped .upd (0x108 + 32 * r)).modRing r fun q => { q with prod := (q.cons + 4) % 256 }

/-- A ring's step is a BAD_LIST (R306, Table 11.10). -/
def Block.badList (s : Block) (r : Nat) : Block :=
  let s := (((s.stepFinish r 3).raise .upd 3).log .upd 3).modRing r fun q => { q with stopped := true }
  s.jobFault (s.ringHome r) 8 (s.ringJob r) (3 + r * 256) 0x7FF

/-- UPDATE_STEP_START: the engine takes a ring's next step record and validates it with its region list (R304, R306). A
record of a disabled engine or an unbound ring ends DISABLED (Table 11.10). -/
def Block.stepStart (s : Block) (r : Nat) : Block :=
  let q := s.ring r
  if s.updPaused || q.step.isSome || q.prod = q.cons || (q.stopped && q.bound) then s
  else
    let a := s.pair .upd (0x100 + 32 * r) (0x104 + 32 * r) 8 + 64 * (q.cons % 4)
    let (b, pois, s) := if s.canAccess a 64 then s.memRead a 64 else (List.replicate 64 0, false, s)
    let s := if pois then s.observePoison .upd else s
    let s := (s.modRing r fun q => { q with step := some { rec' := b } })
    let s := { s with upd := { s.upd with cur := some r } }
    if !q.bound || !s.updOn then (s.stepFinish r 5).log .upd 6
    else if !s.stepOk b then s.badList r
    else
      let n := dF b 0x18 4
      let (ls, pois, s) := s.memRead (dF b 0x10 8) (64 * n)
      let s := if pois then s.observePoison .upd else s
      if s.regionsOk n ls then s else s.badList r

/-- The group of the queue that votes on a step. -/
def Block.stepGroup (s : Block) (r : Nat) (x : UpdStep) : Option Nat :=
  (s.partOf (s.ringJob r) (s.ringPart r)).map fun y => (s.queue y.1 (dF x.rec' 0x28 1 % 64)).group

/-- The vote of a step, once its result has been delivered (R304). -/
def Block.stepVoteOf (s : Block) (r : Nat) (x : UpdStep) : Option CVote :=
  match s.partOf (s.ringJob r) (s.ringPart r) with
  | some (p, _) =>
    let c := s.queue p (dF x.rec' 0x28 1 % 64)
    if c.bound && c.vote && c.job = s.ringJob r then
      match s.coll.vote c.job c.group (dF x.rec' 0x2C 4) with
      | some v => if v.result.isSome then some v else none
      | none => none
    else none
  | none => none

/-- UPDATE_STEP_VOTE: the vote result reaches the engine (R302, R303). Every region of a skipped step ends at once and signals (R308);
a VOTE_LOST step gives DONE_CTR no increment (R391). -/
def Block.stepVote (s : Block) (r : Nat) : Block :=
  match (s.ring r).step with
  | some x =>
    if x.phase ≠ .vote || s.updPaused then s
    else match s.stepVoteOf r x with
      | none => s
      | some v =>
        let val := v.result.getD 0
        let s := s.modRing r fun q => { q with step := some { x with vote := val } }
        if v.lost then (s.stepFinish r 2).jobFault (s.ringHome r) 5 (s.ringJob r) (dF x.rec' 0x28 1 % 64) 0x7FF
        else if val &&& (dF x.rec' 8 8 ||| (2 ^ 63 + 1)) ≠ 0 then
          let n := dF x.rec' 0x18 4
          let s := (List.range n).foldl (fun s _ => s.stepSignal r x) s
          (s.modRing r fun q => { q with step := q.step.map fun x => { x with regions := n } }).stepFinish r 1
        else s.modRing r fun q => { q with step := some { x with vote := val, phase := .regions } }
  | none => s

/-- CRC-32 register after bytes (R234). -/
def crc32Step (c : Nat) (bs : List Nat) : Nat := bs.foldl (fun c b => (c / 256) ^^^ crc32Bits 8 ((c ^^^ b) % 256)) c

/-- A region's element loop from element `i`, `n` more: the block, the step, MOM2's new bytes, and whether poison stopped it. -/
def Block.updElems (s : Block) (x : UpdStep) (rg : List Nat) (h : Hyper) : Nat → Nat → List Nat → Block × UpdStep × List Nat × Bool
  | 0, _, m2s => (s, x, m2s, false)
  | n + 1, i, m2s =>
    let f := dF rg
    let opt := f 0 1
    let (g, p1, s) := s.memNat (f 0x28 8 + 4 * i) 4
    let (w, p2, s) := s.memNat (f 0x10 8 + 4 * i) 4
    let (m, p3, s) := s.memNat (f 0x18 8 + 4 * i) 4
    let (v, p4, s) := if opt = 1 then s.memNat (f 0x20 8 + 4 * i) 4 else (0, false, s)
    if p1 || p2 || p3 || p4 then (s, x, m2s, true)
    else
      let (w2, m2, v2, gd) := updateElement opt h g w m v
      let s := (s.memWrite (f 0x10 8 + 4 * i) (leBytes 4 w2)).memWrite (f 0x18 8 + 4 * i) (leBytes 4 m2)
      let s := if opt = 1 then s.memWrite (f 0x20 8 + 4 * i) (leBytes 4 v2) else s
      let s := if bit (f 1 1) 0 then
          s.memWrite (f 0x30 8 + 2 * i)
            (leBytes 2 (workCopy w2 (dF x.rec' 0x1C 4) (dF x.rec' 0 8) (f 8 8 + i) (bit (f 1 1) 1)))
        else s
      let s := { s with upd := { s.upd with elements := s.upd.elements + b2n (!gd), guards := s.upd.guards + b2n gd,
                                            capBytes := s.upd.capBytes + (if opt = 1 then 24 else 16) } }
      let x := { x with updated := x.updated + b2n (!gd), guarded := x.guarded + b2n gd,
                        masterCrc := crc32Step x.masterCrc (leBytes 4 w2), momentCrc := crc32Step x.momentCrc (leBytes 4 m2) }
      s.updElems x rg h n (i + 1) (if opt = 1 then m2s ++ leBytes 4 v2 else m2s)

/-- Poison met by the engine: the step stops, nothing more is written (Table 11.10). -/
def Block.stepPoison (s : Block) (r : Nat) : Block :=
  let s := ((s.observePoison .upd).stepFinish r 4).raise .upd 4
  let s := (s.log .upd 4).modRing r fun q => { q with stopped := true }
  s.jobFault (s.ringHome r) 8 (s.ringJob r) (4 + r * 256) 0x7FF

/-- REGION_END: the step's next region has been updated, its last write acknowledged, and DONE_CTR receives 1 (R305, R308). -/
def Block.regionEnd (s : Block) (r : Nat) : Block :=
  match (s.ring r).step with
  | some x =>
    if x.phase ≠ .regions || s.updPaused then s
    else
      let (rg, p1, s) := s.memRead (dF x.rec' 0x10 8 + 64 * x.regions) 64
      let (hb, p2, s) := s.memRead (dF rg 0x38 8) 64
      if p1 || p2 then s.stepPoison r
      else
        let g0 := x.guarded
        let (s, x, m2s, pois) := s.updElems x rg (hyperOf hb) (dF rg 4 4) 0 []
        let x := { x with momentCrc := crc32Step x.momentCrc m2s }
        let s := if x.guarded ≠ g0 then (s.raise .upd 5).log .upd 5 else s
        let s := { s with upd := { s.upd with cur := some r } }
        if pois then (s.modRing r fun q => { q with step := some x }).stepPoison r
        else
          let last := decide (x.regions + 1 = dF x.rec' 0x18 4)
          let s := s.modRing r fun q => { q with step := some { x with
            regions := x.regions + 1, phase := if last then .finished else .regions } }
          s.stepSignal r x
  | none => s

/-- Energy attributed to a ring's job on this package so far, µJ (R353). -/
def Block.ringUj (s : Block) (r : Nat) : Nat := smGet 0 s.helio.jobUj (s.ringJob r)

/-- UPDATE_STEP_END: the result record is written, CONS advances and the step's cause is raised (R304, R310, R313). ENERGY is what was
attributed to the ring's job since the ring's last result. `unc`: the result write meets an uncorrectable error, which is counted. -/
def Block.stepEnd (s : Block) (r : Nat) (unc : Bool) : Block :=
  match (s.ring r).step with
  | some x =>
    if x.phase ≠ .finished || s.updPaused then s
    else
      let e := rnd32 (.fin false (s.ringUj r - smGet 0 (s.ring r).seenUj (s.ringJob r)) 1000000)
      let tok := dF x.rec' 0x30 4
      let jpt := if tok = 0 then 0 else rnd32 (xDiv (fp e) (.fin false tok 1))
      let upd := x.status = 0
      let crc (c : Nat) : Nat := if upd then c ^^^ 0xFFFFFFFF else 0
      let bs := leBytes 8 (dF x.rec' 0 8) ++ leBytes 8 x.vote ++ [x.status, 0, 0, 0] ++ leBytes 4 x.regions ++
        leBytes 8 x.updated ++ leBytes 8 x.guarded ++ leBytes 4 e ++ leBytes 4 jpt ++ leBytes 4 (crc x.masterCrc) ++
        leBytes 4 (crc x.momentCrc) ++ leBytes 8 s.merid.count
      let a := dF x.rec' 0x20 8
      let s := if a % 64 = 0 && (inHbm a 64 || inCap a 64) && s.canAccess a 64 then (if unc then (s.memWrite a bs).log .upd 7 else s.memWrite a bs) else s.log .upd 7
      let s := if x.status ≤ 2 then (s.raise .upd x.status).log .upd x.status else s
      let s := { s with upd := { s.upd with cur := none } }
      s.modRing r fun q => { q with
        step := none, seenUj := s.helio.jobUj, voted := s.stepGroup r x |>.map fun g => (g, dF x.rec' 0x2C 4), regions := dF x.rec' 0x18 4, cons := (q.cons + 1) % 256, lastStep := dF x.rec' 0 8, lastStatus := x.status, jpt := jpt }
  | none => s

/-! The resident host (R314 to R317). -/

/-- The partition whose PART page records a job fault of a resident-host core: RHOST_CFG.PART (R368). -/
def Block.hostPart (s : Block) (h : Nat) : Nat := s.fld (.rhost h) 0x040 16 4

/-- RHOST_OWNER_CHANGE: RHOST_CFG of core `h` written with `v`; the core stops at its next trap boundary (R315). A write that would move the core to or from firmware ownership,
by another requester, is ignored whole. -/
def Block.ownerChange (s : Block) (h : Nat) (req : Requester) (v : Nat) : Block :=
  let o := 0x040
  let old := s.reg (.rhost h) o
  let fw := match req with
    | .mgmtCtl => true
    | .rhostFw => true
    | .remoteFw => true
    | _ => false
  let own := bits v 30 2
  let was := bits old 30 2
  let part := Nat.min (bits v 16 4) 11
  if !fw && own ≠ was && (own = 0 || was = 0) then s.clamped (.rhost h) o
  else
    let s := if part ≠ bits v 16 4 then s.clamped (.rhost h) o else s
    let jobPart := s.hostPart h
    let jobId := bits old 0 16
    let s := s.setReg (.rhost h) o (own * 2 ^ 30 + part * 2 ^ 16 + v % 65536)
    if own = was then s
    else
      let s := (s.raise (.rhost h) 1).log (.rhost h) 3
      s.modRhost h fun x => { x with moveDue := true, ended := x.ended <|> (if was = 1 then some (jobPart, jobId) else none) }

/-- A trap boundary of core `h`: a change of owner that waits for it stops the core, and job code that ran there ends with a job fault
(R315). Boundaries come with each local tick and with a trap of job code (assumption log 158). -/
def Block.trapBoundary (s : Block) (h : Nat) : Block :=
  let x := s.rhost h
  if !x.moveDue then s
  else
    let own := s.fld (.rhost h) 0x040 30 2
    let s := s.modRhost h fun x => { x with moveDue := false, ended := none, state := if own = 3 then .offline else .stopped }
    match x.ended with
    | some (p, job) => (s.raise (.rhost h) 0).jobFault p 9 job h 0x7FF
    | none => s

/-- Trap boundaries at a local tick. -/
def Block.hostTick (s : Block) : Block := (s.rhosts.map (·.1)).foldl (fun s h => s.trapBoundary h) s

/-- RHOST_WATCHDOG: a firmware-owned core has not reported to the management controller for 1 s (R317). -/
def Block.hostWatchdog (s : Block) (h : Nat) : Block :=
  if s.fld (.rhost h) 0x040 30 2 = 0 then (s.raise (.rhost h) 2).log (.rhost h) 2
  else s

/-- JOB_TRAP: job code on core `h` traps with `cause` at `pc`; firmware takes it (R314, R317). A translation fault is counted
too. Job code that a change of owner ends ends here (R315), and job code that is paused does not trap (Table 13.4, R377). -/
def Block.jobTrap (s : Block) (h cause pc : Nat) (translation : Bool) : Block :=
  if s.updPaused then s
  else if (s.rhost h).moveDue then s.trapBoundary h
  else if s.fld (.rhost h) 0x040 30 2 ≠ 1 then s
  else
    let s := s.modRhost h fun x => { x with state := .stopped, cause := cause % 256, pc := pc % 2 ^ 57 }
    let s := s.log (.rhost h) 0
    let s := if translation then s.log (.rhost h) 1 else s
    let s := s.raise (.rhost h) 0
    s.jobFault (s.hostPart h) 9 (s.fld (.rhost h) 0x040 0 16) h 0x7FF

end Sys2Proof.Machine
end

