-- ==== Sys2Proof/Machine/Eph.lean ====
section
/-! DEFINITION. Ephemeris (spec/12): service of partitions, admission, binding, commits, repair, rebalancing, routes. -/

namespace Sys2Proof.Machine

/-- The first region of `cnt` whose bit is not set: regions are copied in list order (R389). -/
def Mirror.due (m : Mirror) (cnt : Nat) : Option Nat := (List.range cnt).find? fun n => !smGet false m.bitmap n

/-! Service (R409, R415). -/

/-- HDR_STAT.OUT_OF_SERVICE of a physical cluster. -/
def Block.clusterOos (s : Block) (p c : Nat) : Bool := !s.partIn p || !(s.part p).clusterOk c

/-- A physical core is out of service to Ephemeris (R409); one halted by the Eyepiece counts so (R438). -/
def Block.coreOos (s : Block) (p i : Nat) : Bool := !s.partIn p || !(s.part p).coreOk i || (s.core p i).halted

/-! Shadow maps and commits (R319, R320). -/

/-- EPH_PRI or EPH_BF of the shadow: job and logical partition where V = 1. -/
def Block.shadowBind (s : Block) (p sl : Nat) : Option (Nat × Nat) :=
  let w := s.reg (.ephP p) (if sl = 0 then 0x040 else 0x044)
  if bit w 31 then some (bits w 0 16, bits w 24 4) else none

/-- CMAP byte of the shadow. -/
def Block.shadowC (s : Block) (p c : Nat) : Nat := bits (s.reg (.ephP p) (0x050 + c / 4 * 4)) (c % 4 * 8) 8

/-- KMAP byte of the shadow. -/
def Block.shadowK (s : Block) (p c k : Nat) : Nat := bits (s.reg (.ephP p) (0x080 + 16 * c + k / 4 * 4)) (k % 4 * 8) 8

/-- The shadow is refused (R320). -/
def Block.shadowBad (s : Block) (p : Nat) : Bool :=
  let cs := (List.range 8).map fun c => s.shadowC p c
  let vc := (cs.filter fun b => bit b 7).map fun b => b % 16
  let ks (c : Nat) : List Nat := (List.range 16).map fun k => s.shadowK p c k
  let vk (c : Nat) : List Nat := ((ks c).filter fun b => bit b 7).map fun b => b % 32
  let bound := (s.shadowBind p 0).isSome || (s.shadowBind p 1).isSome
  !decide vc.Nodup || vc.any (s.clusterOos p) ||
    ((List.range 8).any fun c =>
      let b := s.shadowC p c
      !decide (vk c).Nodup || (bit b 7 && (vk c).any fun k => s.coreOos p (17 * (b % 16) + k)) ||
        (bound && (!bit b 7 || (vk c).length < 16))) ||
    ((s.hdr (.part p)).enaW = some false && ([0, 1] : List Nat).any fun sl =>
      (s.shadowBind p sl).isSome && s.shadowBind p sl ≠ s.bindOf p sl)

/-- The slots of a partition follow its active maps: a slot whose job and logical core stay keeps its state, another is bound
afresh or unbound. No backfill job is bound to a comm core (R264). -/
def Block.bindSlots (s : Block) (p : Nat) : Block :=
  let q := s.part p
  let want (sl i : Nat) : Option (Nat × Nat) :=
    match s.bindOf p sl with
    | none => none
    | some (job, lp) =>
      ((List.range 128).find? fun n => q.coreAt (n / 16) (n % 16) = some i).map fun n => (job, lp * 128 + n)
  (List.range 153).foldl (fun s i => ([0, 1] : List Nat).foldl (fun s sl =>
    let t := s.slot p i sl
    let w := match want sl i with
      | some (job, lc) => if sl = 1 && q.bindP.isSome && (q.laneOf lc).isSome then none else some (job, lc)
      | none => none
    match w with
    | some (job, lc) =>
      if t.bound && t.job = job && t.lcore = lc then s
      else s.modSlot p i sl fun _ => { bound := true, job := job, lcore := lc }
    | none => if t.bound then s.modSlot p i sl fun _ => {} else s) s) s

/-- A job has left slot `ch` of partition `p`: its stopped channels take posts again (R202), and its saved and parked ones are empty: the
image of a pre-empted job holds their lists (R204, R206). What the saved lists of a disabled engine leave behind is DRAINING at 1, with no DRAINED (DESIGN CHOICE,
assumption log 169). -/
def Block.freeChans (s : Block) (p ch : Nat) : Block :=
  (List.range 36).foldl (fun s j =>
    match (s.chan p j ch).state with
    | .stopped => s.modChan p j ch fun c => { c with state := .normal }
    | .saved => s.modChan p j ch fun c => { c with state := .normal, lists := [], out := [], cur := none }
    | .parked => (s.dropRecs p j ch).modChan p j ch fun c => { c with state := .normal, lists := [], out := [], cur := none }
    | _ => s) s

/-- The images of job `job` note whether an abort awaits it. -/
def Block.markImages (s : Block) (job : Nat) (b : Bool) : Block :=
  { s with images := s.images.map fun (e : Nat × Image) => if e.2.job = job then (e.1, { e.2 with abort := b }) else e }

/-- The pre-empted primary job has left partition `p`: another can run there, and an abort that is due waits with the image for the
restored job (Table 16.9). -/
def Block.leaveSaved (s : Block) (p : Nat) (job : Nat) : Block :=
  let q := s.part p
  if q.state ≠ .saved then s
  else
    (if q.abort then s.markImages job true else s).modPart p fun q => { q with state := .normal, abort := false }

/-- The shadow's maps as the active ones hold them (R319). -/
def Block.shadowMap (s : Block) (p : Nat) : SMap Nat :=
  (List.range 8).foldl (fun m c =>
    (List.range 16).foldl (fun m k => smPut 0 m (16 + 16 * c + k) (s.shadowK p c k)) (smPut 0 m c (s.shadowC p c))) []

/-- A commit of the shadow would change a binding or a map of partition `p`. -/
def Block.rebinds (s : Block) (p : Nat) : Bool :=
  let q := s.part p
  decide (s.shadowBind p 0 ≠ q.bindP) || decide (s.shadowBind p 1 ≠ q.bindB) || decide (s.shadowMap p ≠ q.amap)

/-- The channels `ch` of a job that stays bound go to the engines of its logical clusters under the new maps, with the cores of their
lists and their fault records; `old`: the partition before the commit (R204). -/
def Block.moveChans (s : Block) (p ch : Nat) (old : Part) : Block :=
  let q := s.part p
  let core (i : Nat) : Nat :=
    (((List.range 128).find? fun n => old.coreAt (n / 16) (n % 16) = some i).bind fun n => q.coreAt (n / 16) (n % 16)).getD i
  let ways := (List.range 32).filterMap fun n => match old.cluster (n / 4), q.cluster (n / 4) with
    | some a, some b => if a = b then none else some (4 * a + n % 4, 4 * b + n % 4)
    | _, _ => none
  let chans := ways.map fun e => (e.2, s.chan p e.1 ch)
  let s := ways.foldl (fun s e => s.modChan p e.1 ch fun _ => {}) s
  let s := chans.foldl (fun s e => s.modChan p e.1 ch fun _ => e.2) s
  let s := (List.range 36).foldl (fun s j =>
    s.modChan p j ch fun c => { c with lists := c.lists.map fun l => { l with core := core l.core } }) s
  let put (r : FaultRec) : FaultRec :=
    if r.chan = ch && !r.held then { r with engine := ((ways.find? fun e => e.1 = r.engine).map (·.2)).getD r.engine } else r
  let s := s.modMmu p fun m => { m with recs := m.recs.map put, waiting := m.waiting.map put }
  (List.range 36).foldl (fun s j => s.freshHeld p j ch) s

/-- The shadow of partition `p` becomes active (R320): maps and bindings change at once; a newly bound job finds its share of
the sync objects cleared (R210) and COMM latched (R264); a job that left frees its stopped channels, and one that stays takes its channels
to its clusters' new engines (R204). A recovery of its job ends here (R353). -/
def Block.applyShadow (s : Block) (p : Nat) : Block :=
  let old := s.part p
  let bp := s.shadowBind p 0
  let bb := s.shadowBind p 1
  let m := s.shadowMap p
  let s := s.modPart p fun q =>
    { q with bindP := bp, bindB := bb, amap := m, commit := false, commitDue := false, blank := false, actGen := (q.actGen + 1) % 65536 }
  let s := if (bp ≠ old.bindP || old.blank) && bp.isSome then
      (s.clearShare p 0).modPart p fun q => { q with comm := s.fld (.coll p 0) 0x040 0 3 } else s
  let s := if bb ≠ old.bindB || old.blank then (if bb.isSome then s.clearShare p 1 else s).modPart p fun q => { q with bfHeld := false } else s
  let left (a b : Option (Nat × Nat)) : Bool := a.isSome && a.map (·.1) ≠ b.map (·.1)
  let s := if left old.bindP bp then (s.freeChans p 0).leaveSaved p ((old.bindP.map (·.1)).getD 0) else s
  let s := if left old.bindB bb then s.freeChans p 1 else s
  let s := if old.amap = m then s
    else
      let s := if bp.isSome && !left old.bindP bp then s.moveChans p 0 old else s
      if bb.isSome && !left old.bindB bb then s.moveChans p 1 old else s
  let s := s.bindSlots p
  let s := { s with eph := { s.eph with gen := (s.eph.gen + 1) % 2 ^ 32 } }.modHp p fun h => { h with recov := false }
  (s.raise (.ephP p) 0).log (.ephP p) 0

/-- EPH_COMMIT: COMMIT written 1 (R320). -/
def Block.ephCommit (s : Block) (p : Nat) : Block := s.modPart p fun q => { q with commit := true }

/-- A frame boundary after the commit was asked for: nothing has issued in the frame that began there. While no frames run there is
nothing to wait for (R320). -/
def Block.commitNow (s : Block) (p : Nat) : Bool :=
  (s.part p).atBoundary && ((s.part p).commitDue || !s.merid.framesRun)

/-- The commit would give the primary job of the partition another COMM than it has: the layout of its groups changes (R263). -/
def Block.newLayout (s : Block) (p : Nat) : Bool :=
  let q := s.part p
  match q.jobOf 0, s.shadowBind p 0 with
  | some a, some (b, _) => decide (a = b) && decide (s.shadowBind p 0 ≠ q.bindP) && decide (s.fld (.coll p 0) 0x040 0 3 ≠ q.comm)
  | _, _ => false

/-- EPH_COMMIT_APPLY: at a frame boundary the shadow is checked, then applied or refused (R320); a rebinding waits, to a later frame
boundary, until every transaction of the partition has ended (R257), and one that changes the group layout until the job's step boundary
(R263, R297). -/
def Block.commitApply (s : Block) (p : Nat) : Block :=
  let q := s.part p
  if !q.commit || !s.commitNow p then s
  else if s.shadowBad p then ((s.modPart p fun q => { q with commit := false, commitDue := false }).raise (.ephP p) 1).log (.ephP p) 1
  else if s.rebinds p && s.partBusyOut p then s
  else if s.newLayout p && !s.coll.stepNow.contains ((q.jobOf 0).getD 0) then s
  else s.applyShadow p

/-! Admission (R322 to R326). -/

/-- Space of the tiers for one logical partition (R323): core memory, cluster memory, HBM. -/
def coreSpace : Nat := 128 * 0x80000
def clusterSpace : Nat := 8 * 0x800000
def hbmSpace : Nat := 48 * 2 ^ 30

/-- Demand of logical partition `lp`: core memory, cluster memory, HBM (reserve included), capacity tier (R323). -/
def JobImage.demand (j : JobImage) (res : Nat) (x : Spill) (lp : Nat) : Nat × Nat × Nat × Nat :=
  let a := j.asks.getD lp ⟨0, 0, 0, 0, 0⟩
  let quota := if x.s4.contains lp then 0 else 1
  let ts := j.tensors.zipIdx.filter fun t => t.1.part = lp
  let moved (n : Nat) : Bool := x.s1.contains n || x.s2.contains n
  let hbm := (ts.filter fun t => !t.1.inCap && !moved t.2 && !x.s3.contains t.2).map fun t => t.1.size
  let cap := (ts.filter fun t => t.1.inCap || moved t.2).map fun t => t.1.size
  (a.core + quota * a.quotaCore, a.cluster + quota * a.quotaCluster, hbm.sum + res + quota * a.quotaHbm, cap.sum)

/-- Shortfalls of each logical partition (R323). What the capacity tier lacks is shown at the partitions from which on the
running sum exceeds it (assumption log 55). -/
def JobImage.shortfalls (j : JobImage) (res capSpace : Nat) (x : Spill) : List (Nat × Nat × Nat × Nat) :=
  let ds := (List.range j.asks.length).map (j.demand res x)
  (List.range j.asks.length).map fun lp =>
    let d := ds.getD lp (0, 0, 0, 0)
    let upto := ((ds.take (lp + 1)).map fun e => e.2.2.2).sum
    (d.1 - coreSpace, d.2.1 - clusterSpace, d.2.2.1 - hbmSpace, Nat.min d.2.2.2 (upto - capSpace))

/-- The job fits: no shortfall. -/
def JobImage.fits (j : JobImage) (res cap : Nat) (x : Spill) : Bool :=
  (j.shortfalls res cap x).all fun d => d = (0, 0, 0, 0)

/-- Demand of the capacity tier in all. -/
def JobImage.capDemand (j : JobImage) (res : Nat) (x : Spill) : Nat :=
  ((List.range j.asks.length).map fun lp => (j.demand res x lp).2.2.2).sum

/-- One spill step over tensors `ns` in image order (R324): each eligible one is taken while the job does not fit, passed over
where the capacity tier would then be exceeded. -/
def JobImage.spillOver (j : JobImage) (res cap : Nat) (ok : Tensor → Bool) (put : Spill → Nat → Spill) (intoCap : Bool) :
    List Nat → Spill → Spill
  | [], x => x
  | n :: t, x =>
    if j.fits res cap x then x
    else match j.tensors[n]? with
      | some u =>
        if ok u && !u.inCap && !bit u.tag 3 && !(x.s1 ++ x.s2 ++ x.s3).contains n &&
            !(intoCap && decide (cap < j.capDemand res (put x n))) then
          j.spillOver res cap ok put intoCap t (put x n)
        else j.spillOver res cap ok put intoCap t x
      | none => j.spillOver res cap ok put intoCap t x

/-- The spill of Table 12.3, steps 1 to 4. -/
def JobImage.spill (j : JobImage) (res cap : Nat) : Spill :=
  let ns := List.range j.tensors.length
  let x := j.spillOver res cap (fun t => bit t.tag 0) (fun x n => { x with s1 := x.s1 ++ [n] }) true ns {}
  let x := j.spillOver res cap (fun t => bit t.tag 1) (fun x n => { x with s2 := x.s2 ++ [n] }) true ns x
  let x := j.spillOver res cap (fun t => bit t.tag 2) (fun x n => { x with s3 := x.s3 ++ [n] }) false ns x
  if j.fits res cap x then x
  else
    let sf := j.shortfalls res cap x
    { x with s4 := (List.range j.asks.length).filter fun lp =>
        let d := sf.getD lp (0, 0, 0, 0)
        let a := j.asks.getD lp ⟨0, 0, 0, 0, 0⟩
        (d.1 ≠ 0 || d.2.1 ≠ 0 || d.2.2.1 ≠ 0) && (a.quotaHbm ≠ 0 || a.quotaCore ≠ 0 || a.quotaCluster ≠ 0) }

/-- `r` places of a list in different cells on different feeds, none unknown (R329). -/
def pickPlaces : Nat → List (Nat × Nat) → List (Nat × Nat) → Bool
  | 0, _, _ => true
  | _ + 1, _, [] => false
  | r + 1, used, a :: t =>
    (a.1 ≠ 0xFFFF && a.2 ≠ 0xFFFF && used.all (fun u => u.1 ≠ a.1 && u.2 ≠ a.2) && pickPlaces r (a :: used) t) ||
      pickPlaces (r + 1) used t

/-- Bytes of tensors in a list. -/
def JobImage.sumOf (j : JobImage) (f : Tensor → Nat) (ns : List Nat) : Nat :=
  (ns.map fun n => ((j.tensors[n]?).map f).getD 0).sum

/-- The FP32 code of num / den, rounded once to nearest even. -/
def fp32Of (num den : Nat) : Nat := (roundTo false num den false .fp32 .rne .ieee).1

/-- The costs of steps 1 to 3 in µs, as numerators over 928000 × 1843000 × (dense rate in FLOP for each µs) (Table 12.3). -/
def JobImage.cost (j : JobImage) (rate : Nat) (x : Spill) : Nat × Nat × Nat × Nat :=
  let den := 928000 * 1843000 * rate
  (j.sumOf (·.moved) x.s1 * (1843000 - 928000) * rate, 2 * j.sumOf (·.size) x.s2 * 1843000 * rate,
    j.sumOf (·.flop) x.s3 * (928000 * 1843000), den)

/-- Dense BF16 rate of the job's compute cores at nominal clock, FLOP for each µs: 4,608 FLOP each cycle at 1,200 cycles each
µs (R264). COMM is that of the partition that carries a logical partition; of one not bound yet, that of the physical partition of its
number (DESIGN CHOICE, assumption log 86). -/
def Block.denseRate (s : Block) (j : JobImage) : Nat :=
  ((List.range j.asks.length).map fun lp =>
    128 - 8 * s.fld (.coll (((s.partOf j.job lp (some 0)).map (·.1)).getD lp) 0) 0x040 0 3).sum * 4608 * 1200

/-- HBM reserve of each partition, bytes (R323). -/
def Block.hbmReserve (s : Block) : Nat := s.fld .eph 0x040 0 13 * 2 ^ 20

/-- What the other jobs admitted leave of the capacity tier, which all share (R323). -/
def Block.capFree (s : Block) (job : Nat) : Nat :=
  s.tiers.capN * (62 * 2 ^ 30) - ((s.eph.jobs.filter fun e => e.1.job ≠ job).map fun e => e.1.capDemand s.hbmReserve e.2).sum

/-- Cell and feed of this package (EPH_LOC). -/
def Block.place (s : Block) : Nat × Nat := (s.fld .eph 0x044 0 16, s.fld .eph 0x044 16 16)

/-- Cell and feed of package `g`, as its EPH_LOC gives them; 0xFFFF where they are not known. -/
def Block.locOf (s : Block) (j : JobImage) (g : Nat) : Nat × Nat :=
  if s.isSelf g then s.place
  else ((j.locs.find? fun e => e.1 = g).map (·.2)).getD (0xFFFF, 0xFFFF)

/-- Every replica group has R members, whose packages lie in different cells on different feeds, all of them known (R329). A replicated job
whose member tables the planner has fixed has such groups among them. -/
def Block.partnersOk (s : Block) (j : JobImage) : Bool :=
  (j.replication ≤ 1 || j.tables.isEmpty || !j.replicas.isEmpty) && j.replicas.all fun n => match j.tables[n]? with
    | some t =>
      let ls := t.2.map fun e => s.locOf j e.1
      decide (ls.length = j.replication) && ls.all (fun a => a.1 ≠ 0xFFFF && a.2 ≠ 0xFFFF) && decide (ls.map (·.1)).Nodup && decide (ls.map (·.2)).Nodup
    | none => false

/-- The admission status (Table 12.5). The packages that may carry a partner are those the runtime names and this one. -/
def Block.admitStatus (s : Block) (j : JobImage) (x : Spill) : Nat :=
  let res := s.hbmReserve
  let cap := s.capFree j.job
  let n := if s.feat.parts12 then 12 else 6
  if (j.tensors.any fun t => 16 ≤ t.tag || j.asks.length ≤ t.part) || j.asks.isEmpty || 12 < j.asks.length ||
      !(j.replication = 1 || j.replication = 2 || j.replication = 3) then 6
  else if n < j.asks.length || (!s.feat.span && decide (2048 < j.packages)) || (j.sprint && !s.feat.sprint) then 4
  else if j.backfill && j.hosts.any fun p =>
      (List.range 153).any fun i => (s.slot p i 0).bound &&
        (s.fld (.mxe p i) 0x040 8 8 ≠ j.thresh || s.fld (.mxe p i) 0x040 0 4 ≠ j.runLen) then 5
  else if !pickPlaces j.replication [] (s.place :: j.places) || !s.partnersOk j then 3
  else if !j.fits res cap x then 2
  else if x.s1.isEmpty && x.s2.isEmpty && x.s3.isEmpty && x.s4.isEmpty then 0
  else 1

/-- The backfill job beside a primary that has no quota for it in partition `p` is pre-empted at the next frame boundary (R324). -/
def Block.stopQuota (s : Block) (p : Nat) : Block :=
  if (s.part p).bindB.isSome then s.modPart p fun q => { q with bfStopDue := true } else s

/-- An access of Ephemeris is refused. The table of its Logbook names no counter for it, so it counts as another refusal (R24; DESIGN
CHOICE, assumption log 215). -/
def Block.ephDenied (s : Block) : Block := s.log .eph 4

/-- ADMIT_JOB: the demand, the spill, the report and the decision (R323 to R326). -/
def Block.admitJob (s : Block) (j : JobImage) : Block :=
  let res := s.hbmReserve
  let cap := s.capFree j.job
  let x := j.spill res cap
  let st := s.admitStatus j x
  let x := if st = 2 ∨ st ≤ 1 then x else {}
  let steps := b2n (!x.s1.isEmpty) + 2 * b2n (!x.s2.isEmpty) + 4 * b2n (!x.s3.isEmpty) + 8 * b2n (!x.s4.isEmpty) + 16 * b2n (st = 2)
  let (c1, c2, c3, den) := j.cost (s.denseRate j) x
  let (lost, s) := s.fresh
  let step (n c : Nat) : List Nat := leBytes 4 n ++ leBytes 4 (if c = 0 then 0 else fp32Of c den)
  let sf := j.shortfalls res cap x
  let rep := leBytes 8 s.merid.count ++ leBytes 2 j.job ++ [st, steps] ++ leBytes 4 j.seq ++ step x.s1.length c1 ++
    step x.s2.length c2 ++ step x.s3.length c3 ++ (leBytes 4 0 ++ leBytes 4 (if x.s4.isEmpty then 0 else lost % 2 ^ 32)) ++ step 0 0 ++
    leBytes 4 (if c1 + c2 + c3 = 0 then 0 else fp32Of (c1 + c2 + c3) den) ++ leBytes 4 0 ++
    (List.range 12).flatMap (fun lp =>
      let d := sf.getD lp (0, 0, 0, 0)
      leBytes 8 d.1 ++ leBytes 8 d.2.1 ++ leBytes 8 d.2.2.1 ++ leBytes 8 d.2.2.2) ++ List.replicate 64 0
  let s := if s.canAccess j.report 512 then s.memWrite j.report rep else s.ephDenied
  let ok := decide (st ≤ 1)
  let adm := (s.eph.admitted.filter (· ≠ j.job)) ++ (if ok then [j.job] else [])
  let escs := if ok then smPut (32, 2) s.eph.escs j.job (j.thresh, j.runLen) else s.eph.escs
  let jobs := (s.eph.jobs.filter fun e => e.1.job ≠ j.job) ++ (if ok then [(j, x)] else [])
  let s := { s with eph := { s.eph with lastStatus := st, lastSteps := steps, lastJob := j.job, admitted := adm, escs := escs,
                                        jobs := jobs } }
  let s := if ok then s.raise .eph 0 else s.raise .eph 1
  let s := s.log .eph (match st with
    | 0 => 0
    | 1 => 1
    | 2 => 2
    | 3 => 3
    | _ => 4)
  if ok then x.s4.foldl (fun s lp => match s.partOf j.job lp with
    | some (p, 0) => s.stopQuota p
    | _ => s) s
  else s

/-! Binding (R327, R331). -/

/-- The shadow maps of partition `p` written for a load: in MAPPED mode the identity, in EXPOSED mode positions out of service
skipped (R327). -/
def Block.loadMaps (s : Block) (p : Nat) : Block :=
  let q := s.part p
  let cs := if s.alm.mapped then List.range 8 else ((List.range 9).filter q.clusterOk).take 8
  let ks (c : Nat) : List Nat := if s.alm.mapped then List.range 16 else (q.goodCores c).take 16
  let byte (l : List Nat) (n : Nat) : Nat := match l[n]? with
    | some v => 128 + v
    | none => 0
  let word (l : List Nat) (n : Nat) : Nat := leNat ((List.range 4).map fun k => byte l (n + k))
  let s := (s.setReg (.ephP p) 0x050 (word cs 0)).setReg (.ephP p) 0x054 (word cs 4)
  (List.range 8).foldl (fun s c => (List.range 4).foldl (fun s w =>
    s.setReg (.ephP p) (0x080 + 16 * c + 4 * w) (word (ks (cs.getD c 0)) (4 * w))) s) s

/-- EPH_PRI or EPH_BF of a shadow written valid. -/
def Block.putBind (s : Block) (p sl job lp : Nat) : Block :=
  s.setReg (.ephP p) (if sl = 0 then 0x040 else 0x044) (2 ^ 31 + lp * 2 ^ 24 + job)

/-- A physical partition can take a job's primary binding: licensed, in service, free (R327). -/
def Block.partFree (s : Block) (p : Nat) : Bool := s.partIn p && (s.shadowBind p 0).isNone && ((s.part p).jobOf 0).isNone

/-- An admission has left the primary job of partition `p`'s shadow without a backfill quota there (R324, step 4). -/
def Block.noQuota (s : Block) (p : Nat) : Bool :=
  match s.shadowBind p 0 with
  | some (j, lp) => s.eph.jobs.any fun e => e.1.job = j && e.2.s4.contains lp
  | none => false

/-- No link to a package of the job shows another configuration digest (R231, R328); of a package that is no neighbour this one knows
nothing (assumption log 171). -/
def Block.digestsAgree (s : Block) (job : Nat) : Bool :=
  s.eph.jobs.all fun e => e.1.job ≠ job || (List.range 36).all fun n =>
    match (s.link n).peer with
    | some (g, _) => !e.1.members.contains g || decide ((s.link n).peerDg = []) || s.linkAgrees n
    | none => true

/-- The job's update ring is busy (R321). -/
def Block.ringBusy (s : Block) (job : Nat) : Bool := (List.range 12).any fun r => s.ringJob r = job && (s.ring r).step.isSome

/-- A tensor's page goes to the capacity tier, or back to HBM (R324): its bytes are copied, with their poison, and its leaf entry names the
new place (R173). An entry that maps nothing yet is given the place alone. -/
def Block.movePage (s : Block) (g : TPage) (toCap : Bool) : Block :=
  let src := if toCap then g.home else g.cap
  let dest := if toCap then g.cap else g.home
  if !s.canAccess g.leaf 8 || !s.canAccess src g.size || !s.canAccess dest g.size then s.ephDenied
  else
    let (bs, pois, s) := s.memRead g.leaf 8
    let e := leNat bs
    if pois then s.observePoison (.rhost 0)
    else if bits e 12 36 * 4096 ≠ src then s
    else
      let s := if bit e 0 then
          let (d, marks, s) := s.memReadMarked src g.size .normal .none
          (if marks = [] then s else s.observePoison (.rhost 0)).memWriteMarked dest d marks
        else s
      s.memWrite g.leaf (leBytes 8 (setBits e 12 36 (dest / 4096)))

/-- The choice byte of a tensor written (R322): 0 KEEP, 1 OFFLOAD, 2 RECOMPUTE. -/
def Block.putChoice (s : Block) (u : Tensor) (v : Nat) : Block :=
  if u.choice = 0 then s else if s.canAccess u.choice 1 then s.memWrite u.choice [v] else s.ephDenied

/-- Tensor pages and choice bytes under the admitted spill (R324, R327), with the MMU caches invalidated (R176, R321). -/
def Block.placeTensors (s : Block) (job : Nat) : Block :=
  match s.eph.jobs.find? fun e => e.1.job = job with
  | none => s
  | some (j, x) =>
    let s := j.tensors.zipIdx.foldl (fun s t =>
      let s := if bit t.1.tag 0 && !t.1.inCap then t.1.pages.foldl (fun s g => s.movePage g (x.s1.contains t.2)) s else s
      if bit t.1.tag 1 || bit t.1.tag 2 then s.putChoice t.1 (if x.s2.contains t.2 then 1 else if x.s3.contains t.2 then 2 else 0) else s) s
    (List.range 12).foldl (fun s p => s.modMmu p fun m =>
      { m with cache := m.cache.filter (fun e => e.job ≠ job),
               engCache := smMapVals [] m.engCache fun _ l => l.filter fun e => e.job ≠ job }) s

/-- Partition `p` runs its primary job: it has been neither pre-empted nor reset (R321). -/
def Block.partRuns (s : Block) (p : Nat) : Bool := ((s.part p).jobOf 0).isSome && decide ((s.part p).state ≠ .saved)

/-- A survivor of the package copies a shard of the job, and regions of its last step's list are still to be copied (R389, R393). -/
def Block.mirrorOpen (s : Block) (job : Nat) : Bool :=
  s.mirrors.any fun m => decide (s.ringJob m.ring = job) && (m.due (s.ring m.ring).regions).isSome

/-- A job's tensors can move: its ring is idle (R321), no access of its partitions that may use the old translation is out (R176), and no
re-mirroring of it is unfinished (R393). -/
def Block.mayPlace (s : Block) (job : Nat) : Bool :=
  !s.ringBusy job && !s.mirrorOpen job && (s.partsOf job).all fun p => !s.partBusyOut p

/-- Those are made at once where the job runs nowhere in the package and its tensors can move, as at load and at a repair; else they wait
for a step boundary (R321, R333). -/
def Block.placeJob (s : Block) (job : Nat) : Block :=
  if s.mayPlace job && !(s.partsOf job).any s.partRuns then s.placeTensors job
  else { s with eph := { s.eph with placeDue := (s.eph.placeDue.erase job) ++ [job] } }

/-- The changes of a job that wait are made at its step boundary, or while it runs nowhere in the package, once its tensors can move (R321,
R333). -/
def Block.placeTick (s : Block) : Block :=
  let now := s.eph.placeDue.filter fun job => s.mayPlace job && (s.coll.stepNow.contains job || !(s.partsOf job).any s.partRuns)
  now.foldl (fun s job => s.placeTensors job) { s with eph := { s.eph with placeDue := s.eph.placeDue.filter fun j => !now.contains j } }

/-- A member table written at `a`: PKGN and logical partition of each rank (R261). -/
def Block.putTable (s : Block) (a : Nat) (es : List (Nat × Nat)) : Block :=
  let bs := es.flatMap fun e => leBytes 4 (e.1 % 65536 + e.2 % 16 * 65536)
  if s.canAccess a bs.length then s.memWrite a bs else s.ephDenied

/-- Ranks, replica partners and routes of a job (R327, items 4 and 5): the member tables that the planner has fixed, and entries of the
route table that do not yet reach a member. -/
def Block.placeRanks (s : Block) (job : Nat) : Block :=
  match s.eph.jobs.find? fun e => e.1.job = job with
  | none => s
  | some (j, _) =>
    let s := j.tables.foldl (fun s t => s.putTable t.1 t.2) s
    j.routes.foldl (fun s e =>
      if bit (s.route e.1) 31 then s
      else { s with routes := smPut 0 s.routes e.1 (BitVec.ofNat 32 (cleanRoute e.2) ^^^ 0x3FFFFFFF) }.log (.route 0) 5) s

/-- Backfill job `job` may run beside the primary job of partition `p`'s shadow: the images agree in THRESH and RUN_LEN (R137). A primary
that was not admitted here shows its values in the MXE_ESC_CFG of its cores. -/
def Block.escFits (s : Block) (job p : Nat) : Bool :=
  let want := smGet (32, 2) s.eph.escs job
  match s.shadowBind p 0 with
  | none => false
  | some (j, _) =>
    if s.eph.admitted.contains j then smGet (32, 2) s.eph.escs j = want
    else (List.range 153).all fun i => !(s.slot p i 0).bound || (s.fld (.mxe p i) 0x040 8 8, s.fld (.mxe p i) 0x040 0 4) = want

/-- The partitions of the package that carry the primary job of partition `p`, itself among them: a job is pre-empted in all of them
(R204). -/
def Block.kin (s : Block) (p : Nat) : List Nat :=
  match (s.part p).jobOf 0 with
  | none => [p]
  | some job => (List.range 12).filter fun q => q = p || (decide ((s.part q).jobOf 0 = some job) && (s.part q).usable)

/-- Pre-emption of partition `p`'s primary job is asked for, in every partition that runs it (R204, R385). -/
def Block.askPreempt (s : Block) (p : Nat) : Block :=
  (s.kin p).foldl (fun s q => s.modPart q fun x =>
    if x.preempt || (q ≠ p && x.state ≠ .normal) then x else { x with preempt := true, preemptAt := s.merid.count }) s

/-- Ephemeris asks for the pre-emption of partition `p`'s primary job, and changes a binding once it is saved (R321). -/
def Block.ephWait (s : Block) (p : Nat) (x : EphDue) : Block :=
  (s.askPreempt p).modPart p fun q => { q with ephDue := q.ephDue ++ [x] }

/-- An entry of partition `p`'s shadow is taken away, or written, and the commit asked for. -/
def Block.ephChange (s : Block) (p : Nat) : EphDue → Block
  | .unbind sl => (s.setFld (.ephP p) (if sl = 0 then 0x040 else 0x044) 31 1 0).ephCommit p
  | .bind sl job lp => (s.putBind p sl job lp).ephCommit p

/-- A primary job may be bound in partition `p` beside the backfill job that its shadow shows: the images agree in THRESH and RUN_LEN
(R137, R324). -/
def Block.primaryFits (s : Block) (job p : Nat) : Bool :=
  match s.shadowBind p 1 with
  | some (b, _) => decide (smGet (32, 2) s.eph.escs b = smGet (32, 2) s.eph.escs job)
  | none => true

/-- The partitions chosen for a job are as R327 requires: every logical partition of its image has one; a primary's is free, and its
THRESH and RUN_LEN are those of a backfill job bound there already (R137, R324). -/
def Block.mayBind (s : Block) (job sl : Nat) (ps : List (Nat × Nat)) : Bool :=
  s.eph.admitted.contains job && s.digestsAgree job && !s.ringBusy job && decide (ps.map (·.1)).Nodup && decide (ps.map (·.2)).Nodup &&
    (match s.eph.jobs.find? fun e => e.1.job = job with
      | some (j, _) => (List.range j.asks.length).all fun l => (ps.map (·.1)).contains l
      | none => true) &&
    ps.all (fun e => if sl = 0 then s.partFree e.2 && s.primaryFits job e.2
      else s.partIn e.2 && (s.shadowBind e.2 1).isNone && s.escFits job e.2 && !s.noQuota e.2) &&
    ps.all fun e => (List.range 12).all fun p =>
      s.shadowBind p 0 ≠ some (job, e.1) && s.shadowBind p 1 ≠ some (job, e.1)

/-- JOB_BIND: an admitted job's logical partitions are bound to the physical partitions that Ephemeris chose, the maps
written to the shadows and committed, its tensors, ranks and routes placed (R327); its first frame begins at the commit. A backfill job's
entry beside a primary that runs waits for the primary's pre-emption (R321). A choice that
R327 forbids, one that gives a pair a second entry (R319), a backfill job beside a primary with other THRESH or RUN_LEN (R137) or without
quota for it (R324), and a package whose digest disagrees (R328), changes nothing; nor does a binding while the job's update ring is busy,
since its tensors could not be placed (R321). -/
def Block.jobBind (s : Block) (job sl : Nat) (ps : List (Nat × Nat)) : Block :=
  if !s.mayBind job sl ps then s
  else
    let s := ps.foldl (fun s e =>
      let s := if sl = 0 then s.loadMaps e.2 else s
      let s := if s.partRuns e.2 then s.ephWait e.2 (.bind sl job e.1) else s.ephChange e.2 (.bind sl job e.1)
      if sl = 0 && s.noQuota e.2 then s.stopQuota e.2 else s) s
    (s.placeJob job).placeRanks job

/-- CMAP byte of the shadow replaced. -/
def Block.putC (s : Block) (p c v : Nat) : Block :=
  s.setFld (.ephP p) (0x050 + c / 4 * 4) (c % 4 * 8) 8 v

/-- KMAP byte of the shadow replaced. -/
def Block.putK (s : Block) (p c k v : Nat) : Block :=
  s.setFld (.ephP p) (0x080 + 16 * c + k / 4 * 4) (k % 4 * 8) 8 v

/-- The shadow of partition `p` without entries: the job that leaves it takes its maps away, failed places among them (R331). A backfill
job that runs under these maps is pre-empted and loses its partition too, which is reported. -/
def Block.clearMaps (s : Block) (p : Nat) : Block :=
  let s := match s.shadowBind p 1 with
    | some (job, lp) => ((s.stopQuota p).setFld (.ephP p) 0x044 31 1 0).emit (.notice 1 [job, lp, p])
    | none => s
  let s := (s.setFld (.ephP p) 0x040 31 1 0).setReg (.ephP p) 0x050 0 |>.setReg (.ephP p) 0x054 0
  (List.range 32).foldl (fun s w => s.setReg (.ephP p) (0x080 + 4 * w) 0) s

/-- The shadow of partition `p` takes the active bindings and maps again, which a partition reset leaves (Table 14.8). -/
def Block.shadowLoad (s : Block) (p : Nat) : Block :=
  let q := s.part p
  let word (k : Nat) : Nat := leNat ((List.range 4).map fun n => smGet 0 q.amap (k + n))
  let bind (s : Block) (sl : Nat) (b : Option (Nat × Nat)) : Block := match b with
    | some (job, lp) => s.putBind p sl job lp
    | none => s
  let s := bind (bind s 0 q.bindP) 1 q.bindB
  let s := (s.setReg (.ephP p) 0x050 (word 0)).setReg (.ephP p) 0x054 (word 4)
  (List.range 32).foldl (fun s w => s.setReg (.ephP p) (0x080 + 4 * w) (word (16 + 4 * w))) s

/-- A job ends: its bindings are taken out of the shadows and committed (R331), of a partition that runs it once it is pre-empted (R321).
A backfill job is pre-empted at the frame boundary of its commit. -/
def Block.endJob (s : Block) (job : Nat) : Block :=
  (List.range 12).foldl (fun s p => ([0, 1] : List Nat).foldl (fun s sl =>
    if (s.shadowBind p sl).map (·.1) = some job then
      if sl = 0 && s.partRuns p then s.ephWait p (.unbind 0)
      else (if sl = 1 then s.stopQuota p else s).ephChange p (.unbind sl)
    else s) s) s

/-- After a repair that moved the partition, or while a spill is in force, admission is rerun from the unspilled demand; a refusal ends
the job with the report (R331, R333). -/
def Block.readmit (s : Block) (job : Nat) (moved : Bool) : Block :=
  match s.eph.jobs.find? fun e => e.1.job = job with
  | some (j, x) =>
    if moved || x.taken then
      let s := s.admitJob j
      if s.eph.admitted.contains job then s.placeJob job else s.endJob job
    else s
  | none => s

/-- A logical cluster `c` of partition `p`, or its logical core `k`, is bound again (R331): the first binding that succeeds
among spare core, spare cluster, free partition, another package. After a reset of the partition the bindings are those that its active
maps still show. -/
def Block.rebind (s : Block) (p c : Nat) (k : Option Nat) : Block :=
  let s := if (s.shadowBind p 0).isNone && (s.part p).bindP.isSome && (s.part p).blank then s.shadowLoad p else s
  let q := s.part p
  let pc := s.shadowC p c % 16
  let fit (x : Nat) : List Nat := (q.goodCores x).filter fun n => !(s.core p (17 * x + n)).halted
  let used := (List.range 16).map fun n => s.shadowK p c n % 32
  let spareCore := (fit pc).find? fun x => !used.contains x
  let usedC := (List.range 8).map fun n => s.shadowC p n % 16
  let spareC := (List.range 9).find? fun x => q.clusterOk x && !usedC.contains x && decide (16 ≤ (fit x).length)
  match s.shadowBind p 0 with
  | none => s
  | some (job, lp) =>
    let s := { s with eph := { s.eph with imbalanced := smPut 0 s.eph.imbalanced job 0 } }
    match k, spareCore, q.clusterOk pc with
    | some k, some x, true =>
      ((((s.putK p c k (128 + x)).ephCommit p).log (.ephP p) 3).log .eph 7).readmit job false
    | _, _, _ => match spareC with
      | some x =>
        let gs := (fit x).take 16
        let s := (List.range 16).foldl (fun s n => s.putK p c n (128 + gs.getD n 0)) (s.putC p c (128 + x))
        (((s.ephCommit p).log (.ephP p) 4).log .eph 7).readmit job false
      | none => match (List.range 12).find? fun x => x ≠ p && s.partFree x && s.primaryFits job x with
        | some x =>
          let s := (s.clearMaps p).ephCommit p
          let s := ((((s.loadMaps x).putBind x 0 job lp).ephCommit x).log .eph 7).readmit job true
          if s.noQuota x then s.stopQuota x else s
        | none => s.emit (.notice 1 [job, lp, p])

/-- REPAIR_REBIND (R331). A partition that runs its job is pre-empted first (R321): the repair follows its image. -/
def Block.repair (s : Block) (p c : Nat) (k : Option Nat) : Block :=
  if s.partRuns p then
    let job := ((s.part p).bindP.map (·.1)).getD 0
    (({ s with eph := { s.eph with imbalanced := smPut 0 s.eph.imbalanced job 0 } } : Block).askPreempt p).modPart p fun q =>
      { q with repairs := q.repairs ++ [(c, k)] }
  else s.rebind p c k

/-- Repairs and changes of binding that waited for the partition's pre-emption or reset are made. -/
def Block.repairsDue (s : Block) (p : Nat) : Block :=
  let xs := (s.part p).ephDue
  let s := (s.part p).repairs.foldl (fun s e => s.rebind p e.1 e.2) (s.modPart p fun q => { q with repairs := [], ephDue := [] })
  xs.foldl (fun s x => s.ephChange p x) s

/-- Ephemeris commits again what a reset discarded (R333). -/
def Block.commitAgain (s : Block) (p : Nat) : Block :=
  let rs := (s.part p).recommit
  if rs.isEmpty then s
  else
    let s := { s with regs := rs.foldl (fun m (e : Nat × Word) => smPut 0 m e.1 e.2) s.regs }
    (s.modPart p fun q => { q with recommit := [] }).ephCommit p

/-! Routes and rebalancing (R330, R332). -/

/-- The links that a route entry selects: C0 to C2 and MLINK. -/
def routeLinks (e : Nat) : List Nat := [bits e 16 6, bits e 8 6, bits e 0 6, bits e 24 6].filter fun l => decide (l < 36)

/-- A link of a route entry that is not in service: the entry selects a lost resource (R330). -/
def Block.routeLost (s : Block) (e : Nat) : Bool := bit e 31 && (routeLinks e).any fun l => !(s.link l).state.live

/-- ROUTE_REWRITE: entries that select a lost link, or the link to a lost package, are rewritten with candidates that are in service, one
destination at a time (R330); others stay, and none is deleted. After a further loss the entries are tested against the links that are left. That the new entries
keep R251 is the planner's finding over every package's tables: the package does not check it (R251). -/
def Block.routeRewrite (s : Block) (es : List (Nat × Nat)) : Block :=
  let es := es.filter fun e => s.routeLost (s.route e.1) && bit (cleanRoute e.2) 31 && !s.routeLost (cleanRoute e.2)
  let s := es.foldl (fun s e =>
    ({ s with routes := smPut 0 s.routes e.1 (BitVec.ofNat 32 (cleanRoute e.2) ^^^ 0x3FFFFFFF) }.log (.route 0) 5).log .eph 8) s
  if es.isEmpty then s else s.raise .eph 3

/-- The place of the largest, or smallest, of a list of stage times; the first among equals. -/
def stageOf (better : Nat → Nat → Bool) (ts : List Nat) : Nat :=
  (ts.zipIdx.foldl (fun (b : Option (Nat × Nat)) e => match b with
    | some m => if better e.1 m.1 then some e else some m
    | none => some e) none).elim 0 (·.2)

/-- Admission on an image's layout needs no spill step (R332). -/
def Block.spillFree (s : Block) (j : JobImage) : Bool :=
  let x := j.spill s.hbmReserve (s.capFree j.job)
  !x.taken && decide (s.admitStatus j x = 0)

/-- A job's image permits rebalancing and marks these layers movable (R332). -/
def Block.mayMove (s : Block) (job : Nat) (layers : List (Nat × Nat)) : Bool :=
  match s.eph.jobs.find? fun e => e.1.job = job with
  | some (j, _) => j.rebalance && decide (j.layers = layers)
  | none => false

/-- Image `x` is image `j` but for its layers and for the tensors, whose demand the layout of the layers decides (R328, R332). -/
def JobImage.sameJob (x j : JobImage) : Bool := decide ({ x with tensors := j.tensors, layers := j.layers } = j)

/-- The layout that a move gives the job is its image with the layer moved. -/
def Block.mayStand (s : Block) (job : Nat) (layers : List (Nat × Nat)) (layout : JobImage) : Bool :=
  decide (layout.layers = layers) && (s.eph.jobs.find? fun e => e.1.job = job).any fun e => layout.sameJob e.1

/-- The layers with the first of stage `a` moved to stage `b`. -/
def moveLayer (a b : Nat) : List (Nat × Nat) → List (Nat × Nat)
  | [] => []
  | l :: t => if l.1 = a then (b, l.2) :: t else l :: moveLayer a b t

/-- STAGE_REBALANCE at a step boundary of a job, once (R297, R301, R332). `times` are the stage times of the step, which the planner forms
from the busy counters of every stage's package; `layers` the movable layers in image order, each with its stage and the address of its
choice byte; `layout` is the image with the layer moved, on which admission is rerun and which stands for the job after the move. A choice
byte that cannot be written, and a layout that is not that of the move, decline the move (assumption log 172). -/
def Block.rebalance (s : Block) (job : Nat) (permitted : Bool) (times : List Nat) (layers : List (Nat × Nat))
    (layout : JobImage) : Block :=
  if !permitted || !s.mayMove job layers || times.length < 2 || s.ringBusy job || !s.coll.stepNow.contains job then s
  else
    let s := s.modColl fun c => { c with stepNow := c.stepNow.erase job }
    let slow := stageOf (fun a b => decide (b < a)) times
    let fast := stageOf (fun a b => decide (a < b)) times
    let pct := s.fld .eph 0x040 16 8
    let hot := decide (times.getD fast 0 * (100 + pct) < times.getD slow 0 * 100)
    let n := if hot then smGet 0 s.eph.imbalanced job + 1 else 0
    let s := { s with eph := { s.eph with imbalanced := smPut 0 s.eph.imbalanced job n } }
    if n < s.fld .eph 0x040 24 8 || !hot then s
    else match layers.find? fun l => l.1 = slow with
      | none => s
      | some l =>
        let s := { s with eph := { s.eph with imbalanced := smPut 0 s.eph.imbalanced job 0 } }
        let dest := if slow < fast then slow + 1 else slow - 1
        if !s.spillFree layout || !s.canAccess l.2 1 || !s.mayStand job (moveLayer slow dest layers) layout then s.log .eph 6
        else
          let s := { s with eph := { s.eph with
            jobs := s.eph.jobs.map fun (e : JobImage × Spill) => if e.1.job = job then (layout, {}) else e } }
          ((s.memWrite l.2 [dest % 256]).log .eph 5).raise .eph 2

end Sys2Proof.Machine
end

