-- ==== Sys2Proof/Machine/Helio.lean ====
section
/-! DEFINITION. The Heliostat (spec/13): the 1 µs loop, caps and ramps, shed, clocks, temperature, energy, sense chains. -/

namespace Sys2Proof.Machine


/-- V(n) of partition `p`, mV: the part's own fused curve, within 500 to 800 (R336). -/
def vCurve (p n : Nat) : Nat := 500 + (Config.perPart (p * 45 + n)).toNat % 301

/-- The highest licensed step (R336). -/
def Block.topStep (s : Block) : Nat := if s.feat.sprint then 44 else 32

/-- VCORE of partition `p`, mV: where its slew has brought it (R337). -/
def HelioP.vNow (h : HelioP) (p : Nat) : Nat := h.volt.getD (vCurve p h.fNow)

/-- HELIO[p] F_STEP, limited by the licence (R415). -/
def Block.fStep (s : Block) (p : Nat) : Nat := Nat.min (s.fld (.helioP p) 0x040 0 6) s.topStep

/-- HELIO[p] MODE is FREE. -/
def Block.freeMode (s : Block) (p : Nat) : Bool := bit (s.reg (.helioP p) 0x040) 31

/-- Shed, its hold, or input loss keeps the package at the floor (R346, R354). -/
def Helio.atFloor (h : Helio) : Bool := h.pinLow || h.hold.isSome || decide (h.gauge ≠ .normal)

/-- HELIO_STAT.SHED. -/
def Helio.shedCode (h : Helio) : Nat :=
  if h.pinLow || decide (h.gauge ≠ .normal) then 1 else if h.hold.isSome then 2 else 0

/-- A(t): the mean of the last 1,000 samples, and of those there are (R343). -/
def meanOf (xs : List Nat) : Nat := if xs.isEmpty then 0 else xs.sum / xs.length
def Helio.avg (h : Helio) : Nat := meanOf (h.samples.take 1000)

/-- A(t − 1 ms), once the loop has run for longer than 1 ms. -/
def Helio.avgBefore (h : Helio) : Option Nat :=
  let xs := h.samples.drop 1000
  if xs.isEmpty then none else some (meanOf xs)

/-- HELIO fields. -/
def Block.ppl (s : Block) : Nat := s.fld .helio 0x040 0 12
def Block.shedFloor (s : Block) : Nat := s.fld .helio 0x040 16 12
def Block.target (s : Block) : Nat := s.fld .helio 0x04C 0 12
def Block.bmax (s : Block) : Nat := s.fld .helio 0x048 0 8
def Block.linkMin (s : Block) : Nat := s.fld .helio 0x048 16 7

/-- The ramp limits do not govern now (R343). -/
def Block.rampFree (s : Block) : Bool := s.helio.atFloor || (List.range 12).any fun p => (s.hp p).limit

/-- A fall is not governed now: as above, or the averages still hold the fall of a shed, a thermal limit, a reset or a loss. -/
def Block.fallFree (s : Block) : Bool := s.rampFree || decide (s.helio.exempt ≠ 0)

/-- The effective cap in mW, and the limit that sets it: 1 PPL, 2 target, 3 ramp, 4 shed, 6 park (R338, R345, R346,
Table 13.8). -/
def Block.effCap (s : Block) : Nat × Nat :=
  let h := s.helio
  if h.atFloor then
    let c := if s.target ≠ 0 then Nat.min s.shedFloor s.target else s.shedFloor
    (c * 1000, if h.gauge = .parking then 6 else 4)
  else
    let base := (h.soft, if s.target ≠ 0 ∧ s.target < s.ppl then 2 else 1)
    match h.avgBefore with
    | some a =>
      let r := (a + s.fld .helio 0x044 16 9) * 1000
      if !s.rampFree && decide (r < base.1) then (r, 3) else base
    | none => base

/-- The cap that PPL and target set comes down at RAMP_DOWN and up at once (the ramp ceiling then governs, R345). A loop of
1 µs moves it by RAMP_DOWN mW. -/
def Block.softNext (s : Block) : Nat :=
  let goal := (if s.target ≠ 0 then Nat.min s.ppl s.target else s.ppl) * 1000
  let cur := s.helio.soft
  if cur ≤ goal then goal else Nat.max goal (Nat.min cur (s.helio.pNow * 1000) - s.fld .helio 0x044 0 9)

/-- The new bubble count of R340 for power `pw` and cap `c` in mW, scalable power `sc` = Σ (Pv − Pi) in mW, present count
`f`, limit `lim`: ceil(256 × E0 ÷ Pc0) = f + ceil((P − C)(256 − f) ÷ Σ(Pv − Pi)), clamped. -/
def bubbleCount (pw c sc f lim : Nat) : Nat :=
  let e : Int := (pw : Int) - c
  if sc = 0 then (if 0 < e then lim else 0)
  else
    let n : Int := f - (-(e * (256 - f : Int))) / (sc : Int)
    Nat.min n.toNat lim

/-- Cause `n` of HELIO raised and Logbook counter `k` counted. -/
def Block.helioEvent (s : Block) (n k : Nat) : Block := (s.raise .helio n).log .helio k

/-- Trace source 6: Heliostat limit and actuator changes (R437). -/
def Block.helioTrace (s : Block) (old new : List Nat) : Block :=
  if old = new then s else s.trace 6 (Page.helio.addr 0x050) (new ++ old)

/-! Sense chains (R358). -/

/-- The reading of a point at a sample: reading in mV, and whether its timing margin is low. -/
abbrev Sense := Nat × Nat × Nat × Bool

/-- Readings of partition `p`'s point `i` among the samples of a loop; an unreported point is within tolerance. -/
def senseAt (xs : List Sense) (p i v : Nat) : Nat × Bool :=
  match xs.find? fun x => x.1 = p && x.2.1 = i with
  | some x => (x.2.2.1, x.2.2.2)
  | none => (v, false)

/-- The chain of partition `p` is open at point `i`: it and every later point read 0x3FF with normal margins. -/
def openAt (xs : List Sense) (p v i : Nat) : Bool :=
  (List.range 9).all fun j => decide (j < i) || ((senseAt xs p j v).1 = 0x3FF && !(senseAt xs p j v).2)

/-- Sense samples of partition `p`: departures are counted, four in a row classified as Table 13.7 gives; several departed points that
form no open have no class and stay unmasked (assumption log 175). -/
def Block.senseOf (s : Block) (p : Nat) (xs : List Sense) : Block :=
  let h := s.hp p
  let v := h.vNow p + h.trim
  let tol := s.fld (.helioP p) 0x04C 0 8
  let far (i : Nat) : Bool :=
    let r := (senseAt xs p i v).1
    decide (v + tol < r) || decide (r + tol < v)
  let s := s.modHp p fun h =>
    { h with departs := (List.range 9).foldl (fun m i => smPut 0 m i (if far i then Nat.min (smGet 0 h.departs i + 1) 4 else 0)) [] }
  let s := (List.range 9).foldl (fun s i =>
    let low := (senseAt xs p i v).2
    let on := bit (s.hp p).stretched i
    if low && !on then
      ((s.modHp p fun h => { h with stretched := setBit1 h.stretched i }).raise (.helioP p) 2).log (.helioP p) 2
    else if !low && on then s.modHp p fun h => { h with stretched := clearBit h.stretched i }
    else s) s
  let due (s : Block) (i : Nat) : Bool :=
    smGet 0 (s.hp p).departs i = 4 && !bit (s.hp p).mask i && !(senseAt xs p i v).2
  let s := match (List.range 9).find? fun i => due s i && openAt xs p v i with
    | some i =>
      ((s.modHp p fun h => { h with mask := (List.range 9).foldl (fun m j => if i ≤ j then setBit1 m j else m) h.mask, openAt := i }).raise
        (.helioP p) 0).log (.helioP p) 0
    | none => s
  let odd (i : Nat) : Bool := !bit (s.hp p).mask i && (far i || (senseAt xs p i v).2)
  let s : Block := match (List.range 9).filter odd with
    | [i] => if due s i then ((s.modHp p fun h => { h with mask := setBit1 h.mask i }).raise (.helioP p) 1).log (.helioP p) 1 else s
    | _ => s
  if (s.hp p).mask = 0x1FF then
    if (List.range 9).any fun i => (senseAt xs p i v).2 then
      s.modHp p fun h => { h with trim := Nat.min 50 (h.trim + 10), trimUs := 0 }
    else if (s.hp p).trimUs + 1 = 1000 then s.modHp p fun h => { h with trim := h.trim - 5, trimUs := 0 }
    else s.modHp p fun h => { h with trimUs := h.trimUs + 1 }
  else s

/-! The hold-up gauge (R355). -/

/-- The two estimates of a gauge sample, scaled by 2 × C_H × 10⁶ over mJ: by voltage, by charge. -/
def Block.gaugeEst (s : Block) (v q : Nat) : Nat × Nat :=
  let c := s.fld .helio 0x05C 0 11
  let w := s.helio.v0 * c - q
  (c * c * (v * v) - 81000000 * c * c, w * w - 81000000 * c * c)

/-- A gauge sample: voltage in mV, charge drawn since the loss in µC. -/
def Block.gaugeSample (s : Block) (v q : Nat) : Block :=
  if s.helio.gauge = .normal then s
  else
    let c := s.fld .helio 0x05C 0 11
    let (ev, eq) := s.gaugeEst v q
    let big := Nat.max ev eq
    let diff := big - Nat.min ev eq
    let bad := decide (big < 5 * diff)
    let pct := if big = 0 then 0 else diff * 100 / big
    let new := bad && !s.helio.recal
    let s := s.modHelio fun h =>
      { h with eLeft := Nat.min (Nat.min ev eq / (2 * c * 1000000)) 65535, disagree := Nat.max h.disagree (Nat.min pct 255),
               recal := h.recal || bad, charge := q, vmin := Nat.min h.vmin v }
    if new then s.helioEvent 13 12 else s

/-- An estimate has fallen to RESERVE. -/
def Block.reserveReached (s : Block) (v q : Nat) : Bool :=
  let c := s.fld .helio 0x05C 0 11
  let r := s.fld .helio 0x05C 16 9 * 10 * (2 * c * 1000000)
  let (ev, eq) := s.gaugeEst v q
  decide (ev ≤ r) || decide (eq ≤ r)

/-! The loop (R338 to R347). -/

/-- An array of partition `p` is idle: a core in service runs no matrix pass. -/
def Block.idleArrays (s : Block) (p : Nat) : Bool :=
  s.partIn p && (List.range 153).any fun i =>
    ([0, 1] : List Nat).all fun sl => (s.slot p i sl).mq.all fun e => !e.inPass

/-- Ballast for power `pw` in W under the cap `c` in mW, which it never lifts power above (R343, R344). -/
def Block.ballastStep (s : Block) (pw c : Nat) : Block :=
  let en := bit (s.reg .helio 0x044) 31
  let low := match s.helio.avgBefore with
    | some a => a - s.fld .helio 0x044 0 9
    | none => 0
  let want := en && !s.fallFree && decide (pw * 1000 < c)
  (List.range 12).foldl (fun s p =>
    let h := s.hp p
    let on := want && s.idleArrays p && (decide (pw < low) || (h.ballast && pw = low))
    let s := if on && !h.ballast then s.log (.helioP p) 7 else s
    if on = h.ballast then s else s.modHp p fun h => { h with ballast := on }) s

/-- Ramp misses (R343): the 1 ms average moves beyond its limit by more than 2 % of PPL. -/
def Block.rampCheck (s : Block) : Block :=
  let a := s.helio.avg * 100
  let tol := s.ppl * 2
  match s.helio.avgBefore with
  | some b =>
    let up := !s.rampFree && decide ((b + s.fld .helio 0x044 16 9) * 100 + tol < a)
    let down := !s.fallFree && decide (a + tol + s.fld .helio 0x044 0 9 * 100 < b * 100)
    let s := if up && !s.helio.rampUp then s.helioEvent 6 6 else s
    let s := if down && !s.helio.rampDown then s.helioEvent 6 7 else s
    s.modHelio fun h => { h with rampUp := up, rampDown := down }
  | none => s

/-- HELIO_STAT.ACTUATOR. -/
def Block.actuator (s : Block) : Nat :=
  if (List.range 12).any fun p => (s.hp p).down ≠ 0 then 4
  else if s.helio.act = 2 then 3
  else if s.helio.act = 1 then 2
  else if s.helio.f ≠ 0 then 1 else 0

/-- A partition enters or leaves the uncalibrated state (R353). -/
def Block.setUncal (s : Block) (p : Nat) (b : Bool) : Block :=
  let was := (s.hp p).uncal
  let s := s.modHp p fun h => { h with uncal := b }
  if b && !was then (s.raise (.helioP p) 5).log (.helioP p) 6 else s

/-- A flat-field test runs in the partition. -/
def Part.testing (q : Part) : Bool := q.fftGo

/-- Energy `n` µJ is attributed to slot `sl` of partition `p`, and to its job. -/
def Block.attribute (s : Block) (p sl n : Nat) : Block :=
  match if sl = 0 then (s.part p).bindP else (s.part p).bindB with
  | some z =>
    let s := s.modHp p fun h => if sl = 0 then { h with priUj := h.priUj + n } else { h with bfUj := h.bfUj + n }
    s.modHelio fun h => { h with jobUj := smMod 0 h.jobUj z.1 (· + n) }
  | none => s

/-- Energy of partition `p` over a loop of 1 µs that drew `uj` from VCORE (R352, R353): while it is calibrated the activity model
attributes, and ballast goes to the primary job; while it is not, the metered energy is split between the slots bound. What the model
attributes, the split, and the amount of ballast and bubbles are free values (assumption log 47). -/
def Block.energyPart (s : Block) (p uj : Nat) : Block :=
  let (a, s) := s.fresh
  let (b, s) := s.fresh
  let (c, s) := s.fresh
  let (d, s) := s.fresh
  let q := s.part p
  let f := s.bubbles p
  let on := (s.hp p).ballast
  let x := if !(s.hp p).uncal then (a % 65536, b % 65536)
    else if q.bindB.isNone then (uj, 0) else if q.bindP.isNone then (0, uj) else (a % (uj + 1), uj - a % (uj + 1))
  let bal := if on then d % 65536 else 0
  let s := (s.attribute p 0 (x.1 + (if (s.hp p).uncal then 0 else bal))).attribute p 1 x.2
  let s := s.modHelio fun h => { h with ballastUj := h.ballastUj + bal }
  s.modHp p fun h => { h with meterUj := h.meterUj + uj, bubbleCyc := h.bubbleCyc + (if f = 0 then 0 else c % 2 ^ 20) }

/-- A job of slot bindings in the package, each once. -/
def Block.jobsHere (s : Block) : List Nat := ((List.range 12).flatMap fun p => (s.part p).jobs).eraseDups

/-- Energy over a loop of 1 µs: the package meter adds the sample, each partition's meter its VCORE power (a free amount where the loop
did not list the partition), and each job gets its share of the package-wide rails, a free amount (R352, R353; assumption
log 47). A partition is uncalibrated once no recalibration has occurred in 2 s. -/
def Block.energyStep (s : Block) (pw : Nat) (parts : List (Nat × Nat × Nat)) : Block :=
  let s := s.modHelio fun h => { h with energyUj := h.energyUj + pw }
  let s := (List.range 12).foldl (fun s p =>
    let (a, s) := s.fresh
    let s := s.energyPart p (match parts.find? fun x => x.1 = p with
      | some x => x.2.1
      | none => a % 65536)
    if (s.hp p).calUs + 2000000 < s.timeUs then s.setUncal p true else s) s
  s.jobsHere.foldl (fun s j =>
    let (a, s) := s.fresh
    s.modHelio fun h => { h with jobUj := smMod 0 h.jobUj j (· + a % 65536) }) s

/-- Rated output of a regulator: current in 0.1 A, or power in W (Table 13.1). -/
def vregRated (k iout vout : Nat) : Bool :=
  if k < 48 then decide (1400 ≤ iout)
  else decide ((match k with
    | 48 => 600
    | 49 => 120
    | 50 => 320
    | 51 => 260
    | _ => 220) * 10000 ≤ iout * vout)

/-- The page of regulator `k`. -/
def vregPage (k : Nat) : Page := if k < 48 then .vregP (k / 4) (k % 4) else .vreg (k - 48)

/-- A regulator's readings in a loop: reaching its rating, and coming within 10 °C of its trip, are events (R364). The part's trip
temperature is its own, so the sensor says when it is near. -/
def Block.vregRead (s : Block) (x : VregRead) : Block :=
  let k := x.k.val
  let old := s.vrg k
  let top := vregRated k x.iout.toNat x.vout.toNat
  let s := s.modVreg k fun r =>
    { r with iout := x.iout.toNat, vout := x.vout.toNat, temp := x.temp.toNat, pin := x.pin.toNat, atRating := top, warm := x.warm }
  let s := if top && !old.atRating then (s.raise (vregPage k) 1).log (vregPage k) 1 else s
  if x.warm && !old.warm then s.log (vregPage k) 2 else s

/-- The gauge is not in its normal state, and the park has begun: nothing more follows the cap. -/
def Helio.parking (h : Helio) : Bool := decide (h.gauge = .parking)

/-- The clock step partition `p` is to run at (R336, R339, R348 to R350); a flat-field test sets its own (Table 14.6, Table 14.7). -/
def Block.stepGoal (s : Block) (p : Nat) : Nat :=
  let h := s.hp p
  if h.limit then 0
  else if (s.part p).testing then (if (s.part p).fftPass = 2 then s.topStep else 32)
  else (if s.freeMode p then Nat.min h.free (s.fStep p) else s.fStep p) - h.down

/-- The step of partition `p` from its next frame boundary on, where an F_STEP or MODE that waits for it is in force (R21). -/
def Block.stepComing (s : Block) (p : Nat) : Nat :=
  match s.frameBound.find? fun w => w.off = (Page.helioP p).addr 0x040 with
  | some w => (s.setReg (.helioP p) 0x040 w.value.toNat).stepGoal p
  | none => s.stepGoal p

/-- VCORE of partition `p` slews 10 mV in a loop: up to V of a higher step to come, before the boundary it takes effect at, and down to
V(F_NOW) after a fall (R337). -/
def Block.slew (s : Block) (p : Nat) : Block :=
  let h := s.hp p
  let goal := vCurve p (Nat.max h.fNow (s.stepComing p))
  let v := h.vNow p
  s.modHp p fun h => { h with volt := some (if v < goal then Nat.min goal (v + 10) else Nat.max goal (v - 10)) }

/-- The step in force of partition `p` becomes `n`; a change is counted (R363), and VCORE stays for its slew. -/
def Block.setStep (s : Block) (p n : Nat) : Block :=
  if (s.hp p).fNow = n then s else (s.modHp p fun h => { h with fNow := n, volt := some (h.vNow p) }).log (.helioP p) 5

/-- The partition goes to its step, at once where that falls, else once VCORE has reached V(n) (R337). -/
def Block.goStep (s : Block) (p : Nat) (slewed : Bool) : Block :=
  let n := s.stepGoal p
  if n ≤ (s.hp p).fNow || (slewed && decide (vCurve p n ≤ (s.hp p).vNow p)) then s.setStep p n else s

/-- HELIOSTAT_LOOP: one 1 µs loop on package power `pw` in W, (partition, Pv, Pi) of each partition with compute activity, sense
samples, a gauge sample during an episode, and regulators' readings. -/
def Block.helioLoop (s : Block) (pw : Nat) (parts : List (Nat × Nat × Nat)) (sense : List Sense) (reads : LoopReads) :
    Block :=
  let oldView := [s.helio.limitBy, s.actuator]
  let s := { s with timeUs := s.timeUs + 1 }
  let s := s.modHelio fun h =>
    { h with samples := (pw :: h.samples).take 2000, pNow := pw, peak := Nat.max h.peak pw, exempt := h.exempt - 1 }
  let s := s.modHelio fun h => { h with soft := s.softNext }
  let (c, by') := s.effCap
  let special := s.helio.atFloor || (List.range 12).any fun p => (s.hp p).limit
  let lim := if special then 256 else s.bmax
  let sc := (parts.map fun x => x.2.1 - x.2.2).sum * 1000
  let f0 := s.helio.f
  let high := decide (c < pw * 1000)
  let (f, s) :=
    if s.helio.parking then (256, s)
    else if f0 = 256 then
      let (x, s) := s.fresh
      (if high then lim else x % (lim + 1), s)
    else (bubbleCount (pw * 1000) c sc f0 lim, s)
  let s := if f0 = 0 && decide (f ≠ 0) then s.helioEvent 0 0 else s
  let full := decide (f0 = lim) && decide (f = lim)
  let act :=
    if high && full then
      (if s.helio.act = 0 then 1 else if s.linkMin < 100 then 2 else s.helio.act)
    else if high then s.helio.act
    else s.helio.act - 1
  let allOn := high && full && decide (s.helio.act ≠ 0) && (s.helio.act = 2 || s.linkMin = 100)
  let hot := (List.range 12).any fun p => (s.hp p).limit || decide (f < (s.hp p).therm)
  let s := s.modHelio fun h =>
    { h with f := f, act := act, limitBy := if h.parking then 6 else if h.atFloor then by' else if hot then 5 else if f = 0 then 0 else by' }
  let s := parts.foldl (fun s x =>
    let faults := ((List.range 4).filter fun r => (s.vrg (4 * x.1 + r)).failed).length
    if faults = 1 then
      let (n, s) := s.fresh
      s.modHp x.1 fun h => { h with own := n % 257 }
    else s) s
  let s := (List.range 12).foldl (fun s p =>
    s.modHp p fun h => { h with bubSum := h.bubSum + s.bubbles p, bubN := h.bubN + 1 }) s
  let within := decide (s.helio.avg * 1000 ≤ c)
  let s := s.modHelio fun h =>
    { h with overUs := if allOn && !within then h.overUs + 1 else 0,
             withinUs := if within && f = 0 then h.withinUs + 1 else 0,
             capLow := h.capLow && !within }
  let s := if s.helio.withinUs ≠ 0 && s.helio.withinUs % 1000 = 0 then
      (List.range 12).foldl (fun s p => s.modHp p fun h => { h with down := h.down - 1 }) s else s
  let s := if s.helio.atFloor && allOn && s.helio.short.isNone && !s.helio.parking then
      (s.modHelio fun h => { h with short := some pw }).helioEvent 5 5 else s
  let s := (s.ballastStep pw c).rampCheck
  let s := s.energyStep pw parts
  let s := (List.range 12).foldl (fun s p => s.slew p) s
  let s := reads.vregs.foldl (fun s x => s.vregRead x) s
  let s := (List.range 12).foldl (fun s p => s.senseOf p sense) s
  let s := match reads.gauge with
    | some (v, q) => s.gaugeSample v.toNat q.toNat
    | none => s
  s.helioTrace oldView [s.helio.limitBy, s.actuator]

/-- CAP_UNREACHABLE: 1 ms of full actuation has left the average above C (R339). -/
def Block.capUnreachable (s : Block) : Block :=
  if s.helio.overUs < 1000 || s.helio.capLow then s else (s.modHelio fun h => { h with capLow := true }).helioEvent 1 1

/-- The step from which FREE decisions go on: the one they had come to, never above the ceiling; in LOCKED mode F_STEP itself. -/
def Block.freeFrom (s : Block) (p : Nat) : Nat := if s.freeMode p then Nat.min (s.hp p).free (s.fStep p) else s.fStep p

/-- CLOCK_STEP_CHANGE: at a frame boundary; a rise needs its voltage slew finished, as the regulators report too (R337). -/
def Block.clockStep (s : Block) (p : Nat) (slewed : Bool) : Block :=
  if !(s.part p).atBoundary then s
  else
    let oldView := [s.helio.limitBy, s.actuator]
    let s := s.modHp p fun h => { h with free := s.freeFrom p }
    let s := if s.helio.capLow && ((s.part p).bindP.isSome || (s.part p).bindB.isSome) && decide (s.stepGoal p ≠ 0) then
        s.modHp p fun h => { h with down := h.down + 1 } else s
    let s := s.goStep p slewed
    s.helioTrace oldView [s.helio.limitBy, s.actuator]

/-- The step after a FREE decision (R349): one up, or one down, or as it was. -/
def Block.freeNext (s : Block) (p : Nat) : Nat :=
  let h := s.hp p
  let n := s.freeFrom p
  if !s.freeMode p then n
  else if h.bubSum = 0 && decide (h.tj < 90) then Nat.min (n + 1) (s.fStep p)
  else if 16 * h.bubN < h.bubSum then n - 1
  else n

/-- FREE_CLOCK_DECISION: every 1 ms (R349). -/
def Block.freeDecision (s : Block) (p : Nat) : Block :=
  s.modHp p fun h => { h with bubSum := 0, bubN := 0, free := s.freeNext p }

/-- The thermal rules of one partition with hottest sensor `t` (Table 13.4). -/
def Block.thermalPart (s : Block) (p t : Nat) : Block :=
  let h := s.hp p
  let s := s.modHp p fun h => { h with tj := t }
  let s := if 105 ≤ t && !h.limit then
      (((s.modHp p fun h => { h with limit := true }).raise .helio 9).raise (.helioP p) 4).log (.helioP p) 4
    else if t ≤ 100 && h.limit then (s.modHp p fun h => { h with limit := false }).modHelio Helio.exempted
    else s
  if 95 ≤ t then
    let s := if h.therm = 0 then s.log (.helioP p) 3 else s
    let s := (s.raise .helio 8).raise (.helioP p) 3
    s.modHp p fun h => { h with therm := Nat.min s.bmax (h.therm + 8),
                                free := if s.freeMode p then s.freeFrom p - 1 else h.free }
  else if t ≤ 93 then s.modHp p fun h => { h with therm := h.therm - 8 }
  else s

/-- THERMAL_UPDATE: every 1 ms, on each partition's hottest sensor, the hub's, and the HBM stacks' (R350). -/
def Block.thermalUpdate (s : Block) (tj : List Nat) (hub : Nat) (hbm : List Nat) : Block :=
  let s := (List.range 12).foldl (fun s p => s.thermalPart p (tj.getD p 0)) s
  let s := (List.range 12).foldl (fun s p =>
    let t := hbm.getD p 0
    let s := s.modHbmc p fun x => { x with temp := t }
    let s := if 85 < t then s.raise (.hbmc p) 2 else s
    if 95 ≤ t then s.raise .helio 14 else s) s
  s.modHelio fun h =>
    { h with hubTj := hub, hubHot := decide (95 ≤ hub), hubPause := decide (105 ≤ hub) || (h.hubPause && decide (100 < hub)) }

/-! Commands from the facility. -/

/-- A write of HELIO_TARGET (R345, Table 13.9): clamped, and the lease renewed. -/
def Block.targetWrite (s : Block) (v : Nat) : Block :=
  let t := bits v 0 12
  let t' := if t = 0 then 0 else if t < 1200 then 1200 else if 3600 < t then 3600 else t
  let lease := bits v 16 8
  let s := if t' ≠ t then s.clamped .helio 0x04C else s
  let s := s.setReg .helio 0x04C (lease * 65536 + t')
  s.modHelio fun h => { h with leaseEnd := if lease = 0 then none else some (s.timeUs + lease * 1000000) }

/-- TARGET_LEASE_EXPIRY (R345): the lease's time has passed. -/
def Block.leaseExpire (s : Block) : Block :=
  match s.helio.leaseEnd with
  | some t => if s.timeUs < t then s else ((s.setFld .helio 0x04C 0 12 0).modHelio fun h => { h with leaseEnd := none }).helioEvent 7 8
  | none => s

/-- LOCKCAP is computed anew (R348): another free value of the part. -/
def Block.lockcapNew (s : Block) : Block := { s with helio := { s.helio with lockIdx := s.fv }, fv := s.fv + 1 }

/-- HELIO_LOCKCAP: a step, never above the highest licensed one (R336, R348). -/
def Block.lockcap (s : Block) : Nat := (Config.freeWord s.helio.lockIdx).toNat % (s.topStep + 1)

/-- SHED_ASSERT: PWR_SHED_N low for `n` consecutive samples (R346). -/
def Block.shedAssert (s : Block) (n : Nat) : Block :=
  if n = 0 ∨ s.helio.pinLow then s
  else if n = 1 then s.log .helio 3
  else (s.modHelio fun h => { h with pinLow := true, shedUs := s.timeUs, stuck := false, hold := none, short := none }).helioEvent 2 2

/-- The shed is over at its cause: the floor holds until the fifth tick (R346). -/
def Helio.release (h : Helio) : Helio := { h with hold := some 5, short := none }

/-- SHED_DEASSERT: PWR_SHED_N high for two samples. -/
def Block.shedDeassert (s : Block) : Block :=
  if !s.helio.pinLow then s
  else s.modHelio fun h => if h.gauge = .normal then { h with pinLow := false }.release else { h with pinLow := false }

/-- A local tick of the hold (R346). -/
def Block.shedTick (s : Block) : Block := s.modHelio fun h => { h with hold := h.hold.map (· - 1) }

/-- SHED_HOLD_END: the fifth tick after recognition has passed. -/
def Block.shedHoldEnd (s : Block) : Block :=
  if s.helio.hold = some 0 then (s.modHelio fun h => { h with hold := none }.exempted).raise .helio 3 else s

/-- SHED_STUCK: PWR_SHED_N has been low for 1 s. -/
def Block.shedStuck (s : Block) : Block :=
  if s.helio.pinLow && !s.helio.stuck && decide (s.helio.shedUs + 1000000 ≤ s.timeUs) then
    (s.modHelio fun h => { h with stuck := true }).helioEvent 4 4
  else s

/-! Energy (R353). -/

/-- ENERGY_CALIBRATION: the ratio of metered to modelled energy of each partition over the last second, times 2 ^ 14; none where
none was formed (R353). -/
def Block.energyCal (s : Block) (rs : List (Option Nat)) : Block :=
  (List.range 12).foldl (fun s p =>
    match (rs[p]?).join with
    | some r =>
      let good := decide (4 * 16384 ≤ 5 * r) && decide (4 * r ≤ 5 * 16384) && !(s.part p).testing && !(s.hp p).recov && s.boot.ready
      (s.modHp p fun h => { h with cal := Nat.min r 65535, calUs := s.timeUs }).setUncal p (!good)
    | none => if (s.hp p).calUs + 2000000 < s.timeUs then s.setUncal p true else s) s

/-! Input loss (R354). -/

/-- An episode of the gauge is over: what a disagreeing one drew waits for the next full recharge (R355). -/
def Helio.endEpisode (h : Helio) : Helio :=
  { h with recal := false, adopt := if h.recal then some (h.charge, h.v0 - h.vmin) else h.adopt, gauge := .normal }

/-- A cold boot has not come to RAILS: its regulators are off. -/
def Block.beforeRails (s : Block) : Bool :=
  !s.boot.ready && decide (s.boot.path ≠ .warm) && (decide (s.boot.step < 3) || (s.boot.step = 3 && !s.boot.started))

/-- INPUT_LOSS: PWR_LOSS_N low, or VIN_MAIN below 10.5 V, at two samples; VIN_MAIN in mV at the loss. Before RAILS the boot waits for
VIN_MAIN anyway (R448, Table 17.11): with the regulators off nothing is lost. -/
def Block.inputLoss (s : Block) (pin vin : Bool) (v0 : Nat) : Block :=
  if s.helio.gauge ≠ .normal || s.boot.power ≠ .on || (!pin && (!vin || s.beforeRails)) then s
  else
    let s := s.modHelio fun h =>
      { h with gauge := .riding, lossPin := pin, lossVin := vin, v0 := v0, charge := 0, vmin := v0, eLeft := 0, disagree := 0,
               recal := false, short := none, lossCount := s.merid.count }
    s.helioEvent 11 9

/-- INPUT_RETURN: PWR_LOSS_N high and VIN_MAIN at least 11.0 V before the park begins. -/
def Block.inputReturn (s : Block) : Block :=
  if s.helio.gauge ≠ .riding then s
  else
    (s.modHelio fun h =>
      let h := h.endEpisode
      if h.pinLow then h else h.release).log .helio 10

/-- GAUGE_RECALIBRATE: after a disagreeing episode and a full recharge, C_H = Q_total ÷ (V0 − V_min), clamped (R355). -/
def Block.gaugeRecal (s : Block) : Block :=
  match s.helio.adopt with
  | some (q, dv) =>
    if s.helio.gauge ≠ .normal || dv = 0 then s
    else
      let c := q / dv
      let c := if c < 127 then 127 else if 2000 < c then 2000 else c
      ((s.setFld .helio 0x05C 0 11 c).modHelio fun h => { h with adopt := none }).log .helio 13
  | none => s

/-! What a block's ALERT_N shows (R453). -/

/-- ALERT_N is low; without VSTBY it is high-impedance (R446). -/
def Block.alert (s : Block) : Bool :=
  s.boot.power ≠ .dark && (([8, 9, 4, 1, 11, 13] : List Nat).any (s.causeSet .helio) || ([3, 4] : List Nat).any (s.causeSet .merid) || s.helio.overVolt)

end Sys2Proof.Machine
end

