-- ==== Sys2Proof/Machine/Matrix.lean ====
section
/-! DEFINITION. The matrix engine (spec/03, R84 to R100; spec/05): matrix instructions at issue, passes and attempts, the
drain, retained planes, the batch assembler. -/

namespace Sys2Proof.Machine

/-- Logical dimensions of a compute instruction (Table 3.10): Mo, No, Kr. -/
structure MDims where
  mo : Nat
  no : Nat
  kr : Nat
deriving DecidableEq, Repr

/-- Dimensions from the descriptors, with an index list where GATHER is 1 (R92). -/
def mDims (op : MOp) (a b : TileD) (gather : Option Nat) : MDims :=
  match op with
  | .wt => ⟨gather.getD a.rows, b.rows, a.cols⟩
  | .os => ⟨a.cols, b.cols, gather.getD a.rows⟩
  | _ => ⟨gather.getD a.rows, b.cols, a.cols⟩

/-- A compute instruction as its word and captured descriptors give it. -/
def MEntry.dims (e : MEntry) : MDims :=
  mDims e.op (tileOf e.tda) (tileOf e.tdb) (if bit e.word 26 then some (tileOf e.tdi).cols else none)

/-- Resolved compute formats of A and B, and whether the feeder narrows each (R87). -/
def MEntry.fmtA (e : MEntry) : Option (NFmt × Bool) := resolveFmt (tileOf e.tda).fmt (bits e.word 35 3)
def MEntry.fmtB (e : MEntry) : Option (NFmt × Bool) := resolveFmt (tileOf e.tdb).fmt (bits e.word 32 3)

/-- Overflow mode of the OVF field. -/
def MEntry.mode (e : MEntry) : OvMode :=
  match bits e.word 30 2 with
  | 0 => .sat
  | 1 => .ieee
  | _ => .wrap

/-- DETAIL of a tile fault (Table 3.23): role and descriptor register. -/
def tileDetail (w role : Nat) : Nat :=
  role * 4096 + (match role with
    | 0 => bits w 50 4
    | 1 => bits w 46 4
    | 2 => bits w 42 4
    | 3 => bits w 38 4
    | _ => 0)

/-- The conditions of R113 in its order, for work that is integer or not, each over a descriptor and whether its operand
is narrowed: a scaled FMT that takes no scales; a scaled 4-bit FMT with BLK = 0; E4M3 block scales in integer work;
TSCALE in integer work. -/
def scalingRules (isInt : Bool) : List (TileD × Bool → Bool) :=
  [fun x => x.1.scaled && (fmtBits x.1.fmt ≠ 8 && fmtBits x.1.fmt ≠ 4 || (storedFmt x.1.fmt).isNone),
   fun x => x.1.scaled && fmtBits x.1.fmt = 4 && x.1.blk = 8,
   fun x => isInt && (x.1.scaled || x.2) && x.1.sfmt,
   fun x => isInt && x.1.tsEn]

/-- The first of a list of (condition, answer) rows that applies. -/
def firstRow {α : Type} : List (Bool × α) → Option α
  | [] => none
  | (c, x) :: t => if c then some x else firstRow t

/-- A dimension of R92 is outside its limits. -/
def badDim (v step hi : Nat) : Bool := v % step ≠ 0 || decide (v < 16) || decide (hi < v)

/-- R113's conditions as rows, one for each condition and descriptor, the lower role first within a condition
(Table 3.23); a descriptor stands with its role and whether its operand is narrowed. -/
def scalingRows (w : Nat) (isInt : Bool) (ts : List (Nat × TileD × Bool)) : List (Bool × CoreFault × Nat) :=
  (scalingRules isInt).flatMap fun f => ts.map fun x => (f x.2, CoreFault.formatPair, tileDetail w x.1)

/-- Roles of the descriptors a compute instruction reads, with their tiles, A first. -/
def MEntry.tiles (e : MEntry) : List (Nat × TileD) :=
  [(0, tileOf e.tda), (1, tileOf e.tdb), (2, tileOf e.tdc)] ++ (if bit e.word 26 then [(3, tileOf e.tdi)] else [])

/-- One row for each tile: the condition, with the tile's own DETAIL. -/
def tileRows (w : Nat) (ts : List (Nat × TileD)) (c : CoreFault) (f : TileD → Bool) : List (Bool × CoreFault × Nat) :=
  ts.map fun x => (f x.2, c, tileDetail w x.1)

/-- One rule that several descriptors can break, each with its role: the lowest role is named (Table 3.23). -/
def roleRow (w : Nat) (c : CoreFault) (l : List (Bool × Nat)) : Bool × CoreFault × Nat :=
  match ((l.filter (·.1)).map (·.2)).min? with
  | some r => (true, c, tileDetail w r)
  | none => (false, c, 0)

/-- The faults of a compute instruction at issue, in the order of R89's table, R98's after the other TILE_SHAPE rows and
R113's after the FORMAT_PAIR rows (assumption log 27). -/
def Block.matrixFault (s : Block) (p i sl : Nat) (e : MEntry) : Option (CoreFault × Nat) :=
  let w := e.word
  let a := tileOf e.tda
  let b := tileOf e.tdb
  let c := tileOf e.tdc
  let x := tileOf e.tdi
  let gather := bit w 26
  let batch := decide (e.op = .batch)
  let d := e.dims
  let float := match e.fmtA with
    | some f => f.1.isFloat
    | none => false
  let int := match e.fmtA with
    | some f => !f.1.isFloat
    | none => false
  let four := match e.fmtA with
    | some f => f.1.isFourBit
    | none => false
  let ovf := bits w 30 2
  let area := s.reg (.mxe p i) 0x084
  let ts := e.tiles
  let windows := ts.map fun t => match s.outside p i sl t.2.base (tileEnd t.2 - t.2.base) with
    | some y => (true, CoreFault.window, bits y 3 16)
    | none => (false, CoreFault.window, 0)
  let bad (f : Option (NFmt × Bool)) : Bool := f.isNone
  let narrowA := match e.fmtA with
    | some f => f.2 || decide (f.1.bits < 16) || decide (fmtBits a.fmt < 16)
    | none => false
  let pairBad := match e.fmtA, e.fmtB with
    | some f, some g => f.1.bits ≠ g.1.bits || f.1.isFloat ≠ g.1.isFloat
    | _, _ => false
  let outBad := if float then !([0, 1, 2, 3] : List Nat).contains c.fmt else int && !([9, 5] : List Nat).contains c.fmt
  let narrowed (f : Option (NFmt × Bool)) : Bool := match f with
    | some g => g.2
    | none => false
  firstRow <|
    [(batch && sl ≠ 0, CoreFault.illegal, 0x200),
     (ovf = 2 && float, .illegal, 30), (ovf = 1 && int, .illegal, 30),
     (decide (e.op = .os) && (bit w 25 || bit w 24), .illegal, 25),
     (batch && gather, .illegal, 26), (batch && bits w 28 2 = 1, .illegal, 28),
     -- dimensions that disagree
     roleRow w .tileShape
       [(match e.op with
         | .wt => b.cols ≠ d.kr
         | .os => b.rows ≠ a.rows
         | _ => b.rows ≠ d.kr, 0),
        (c.rows ≠ d.mo, if gather && e.op ≠ .os then 2 else 0), (c.cols ≠ d.no, 1)],
     -- dimensions outside their limits
     roleRow w .tileShape
       ([(badDim d.mo 16 384, if gather && e.op ≠ .os then 3 else 0),
         (badDim d.kr (if four then 32 else 16) 4096, if gather && e.op = .os then 3 else 0), (badDim d.no 16 384, 1)] ++
        ts.map fun t => (t.2.rows = 0 || t.2.cols = 0 || decide (4096 < t.2.cols), t.1)),
     (gather && x.rows ≠ 1, .tileShape, tileDetail w 3)] ++
    tileRows w ts .tileShape (fun t => t.zero ≠ 0) ++
    [(batch && a.rows ≠ 48, .tileShape, tileDetail w 0),
     (batch && (a.base ≠ bits area 19 13 * 64 || a.stride ≠ bits area 6 13 * 64), .tileShape, 0x4000)] ++
    tileRows w ts .tileBounds (fun t => decide (0x80000 < tileEnd t)) ++
    tileRows w ts .tileBounds (fun t => t.base % 64 ≠ 0 || t.stride % 64 ≠ 0) ++ windows ++
    [(bad e.fmtA, .formatPair, tileDetail w 0), (bad e.fmtB, .formatPair, tileDetail w 1),
     (pairBad, .formatPair, tileDetail w 0), (outBad, .formatPair, tileDetail w 2),
     (gather && x.fmt ≠ 0xA, .formatPair, tileDetail w 3)] ++
    scalingRows w int (ts.map fun t => (t.1, t.2, match t.1 with
      | 0 => narrowed e.fmtA
      | 1 => narrowed e.fmtB
      | _ => false)) ++
    [(batch && a.bdir && narrowA, .batchShare, tileDetail w 0), (e.op ≠ .os && s.planesOf p i sl = 0, .plane, 0)]

/-- The faults of MM.PLD at issue: those of R89 that concern B and its planes (assumption log 28). -/
def Block.pldFault (s : Block) (p i sl : Nat) (e : MEntry) : Option (CoreFault × Nat) :=
  let w := e.word
  let b := tileOf e.tdb
  let four := match e.fmtB with
    | some f => f.1.isFourBit
    | none => false
  let int := match e.fmtB with
    | some f => !f.1.isFloat
    | none => false
  let narrowed := match e.fmtB with
    | some f => f.2
    | none => false
  firstRow <|
    ([(badDim b.rows (if four then 32 else 16) 4096 || badDim b.cols 16 384, CoreFault.tileShape, tileDetail w 1),
     (b.zero ≠ 0, .tileShape, tileDetail w 1), (decide (0x80000 < tileEnd b), .tileBounds, tileDetail w 1),
     (b.base % 64 ≠ 0 || b.stride % 64 ≠ 0, .tileBounds, tileDetail w 1),
     ((s.outside p i sl b.base (tileEnd b - b.base)).isSome, .window,
       bits ((s.outside p i sl b.base (tileEnd b - b.base)).getD 0) 3 16),
     (e.fmtB.isNone, .formatPair, tileDetail w 1)] : List (Bool × CoreFault × Nat)) ++ (scalingRows w int [(1, b, narrowed)] ++
    [(decide (s.planesOf p i sl = 0), CoreFault.plane, 0)])

/-- An operand's blocks lie along the reduction, or it has none (R132). -/
def MEntry.opA (e : MEntry) (picks : Option (List (Option Nat × Bool))) : Operand :=
  let d := tileOf e.tda
  { d := d, sf := (storedFmt d.fmt).getD .bf16, narrowed := (e.fmtA.map (·.2)).getD false, trans := decide (e.op = .os),
    picks := picks }

/-- B as an operand: its lines are columns but in MM.WT. -/
def MEntry.opB (e : MEntry) (picks : Option (List (Option Nat × Bool))) : Operand :=
  let d := tileOf e.tdb
  { d := d, sf := (storedFmt d.fmt).getD .bf16, narrowed := (e.fmtB.map (·.2)).getD false, trans := decide (e.op ≠ .wt),
    picks := if e.op = .os then picks else none }

/-- Both compute formats are four-bit, and whether the work takes runs (R132). -/
def MEntry.fourBit (e : MEntry) : Bool :=
  match e.fmtA, e.fmtB with
  | some f, some g => f.1.isFourBit && g.1.isFourBit
  | _, _ => false
def MEntry.runs (e : MEntry) : Bool := e.fourBit && (e.opA none).along && (e.opB none).along

/-- The head of a queue, when an MM.BATCH reaches it, takes the frame in which it did (R98). -/
def headMark (count : Nat) : List MEntry → List MEntry
  | [] => []
  | e :: t => if e.op = .batch && !e.launched && !e.started then { e with headFrame := count, started := true } :: t else e :: t

/-- The Eyepiece traces a matrix instruction that issues (R437). -/
def Block.matrixTrace (s : Block) (p i sl : Nat) : Block := s.traceCore p i 1 (leBytes 8 (s.slot p i sl).pc)

/-- A matrix instruction comes to issue: a full queue stalls it, a fault stops it, else it enters the queue (R89, R90). MM.PREL enters
the queue and acts at its turn there; MM.TDLD and MM.TDST act at issue (DESIGN CHOICE, assumption log 132). Counter 19 counts at
issue (DESIGN CHOICE, assumption log 188). -/
def Block.matrixIssue (s : Block) (p i sl w : Nat) (op : MOp) : Block :=
  let t := s.slot p i sl
  if 4 ≤ t.mq.length then s.stall p i sl w .mqFull
  else
    let td (k : Nat) : Nat := smGet 0 t.tds k
    let esc := s.reg (.mxe p i) 0x040
    let e : MEntry :=
      { op := op, word := w, tda := td (bits w 50 4), tdb := td (bits w 46 4), tdc := td (bits w 42 4),
        tdi := td (bits w 38 4), srs := t.s (bits w 17 5), thresh := bits esc 8 8, runLen := bits esc 0 4,
        planes := s.planesOf p i sl }
    let fault := match op with
      | .prel => none
      | .pld => s.pldFault p i sl e
      | _ => s.matrixFault p i sl e
    match fault with
    | some (c, d) => s.coreFault p i sl c d
    | none =>
      let s := if op ≠ .prel && op ≠ .pld && e.fourBit && !e.runs then s.log (.mxe p i) 19 else s
      (s.matrixTrace p i sl).ret p i sl fun t => { t with mq := headMark s.merid.count (t.mq ++ [e]) }

/-- MM.WAIT (R88). -/
def Block.mmWaitI (s : Block) (p i sl w : Nat) : Block :=
  if (s.slot p i sl).mq.length ≤ bits w 51 3 then (s.matrixTrace p i sl).ret p i sl id else s.stall p i sl w .mmWait

/-- The address of MM.TDLD and MM.TDST, or its fault (R88). -/
def Block.tdAddr (s : Block) (p i sl w : Nat) : (CoreFault × Nat) ⊕ Nat :=
  let a := (s.slot p i sl).addr (bits w 46 4) w
  if a % 16 ≠ 0 ∨ 0x80000 < a + 16 then .inl (.tileBounds, 0x5000)
  else match s.outside p i sl a 16 with
    | some b => .inl (.window, bits b 3 16)
    | none => .inr a

/-- MM.TDLD. -/
def Block.tdLoad (s : Block) (p i sl w : Nat) : Block :=
  match s.tdAddr p i sl w with
  | .inl f => s.coreFault p i sl f.1 f.2
  | .inr a =>
    let pa := coreBase p i + a
    let v := leNat (s.memBytes pa 16)
    let s := if s.memPoisoned pa 16 then s.observePoison (.core p i) else s
    (s.matrixTrace p i sl).ret p i sl fun t => { t with tds := smPut 0 t.tds (bits w 50 4) v }

/-- MM.TDST: a store of the slot, which waits for an outstanding list that it would change (R191). -/
def Block.tdStore (s : Block) (p i sl w : Nat) : Block :=
  match s.tdAddr p i sl w with
  | .inl f => s.coreFault p i sl f.1 f.2
  | .inr a =>
    if (s.listsOf p i sl).any fun l => meets a 16 (l.base, 64 * l.count) then s.stall p i sl w .issue true
    else ((s.matrixTrace p i sl).poke (coreBase p i + a) (leBytes 16 (smGet 0 (s.slot p i sl).tds (bits w 50 4)))).ret p i sl id

/-! Passes (R93, R94). -/

/-- Products per cycle of an instruction's compute format (R84). -/
def MEntry.pc (e : MEntry) : Nat := prodPerCycle ((e.fmtB.map (·.1)).getD .bf16)

/-- Column width of a pass's block (R93). -/
def MEntry.width (e : MEntry) : Nat := if e.op = .wt then 48 * e.pc else 48

/-- Number of passes. -/
def MEntry.passes (e : MEntry) : Nat := ceilDiv e.dims.mo 48 * ceilDiv e.dims.no e.width

/-- Rows and columns of a pass: first row, row count, first column, column count. Column blocks are outermost. -/
def MEntry.block (e : MEntry) (k : Nat) : Nat × Nat × Nat × Nat :=
  let rb := ceilDiv e.dims.mo 48
  let r := k % rb * 48
  let c := k / rb * e.width
  (r, Nat.min 48 (e.dims.mo - r), c, Nat.min e.width (e.dims.no - c))

/-- Planes that B takes (R94, R95). -/
def MEntry.bPlanes (e : MEntry) : Nat :=
  match e.op with
  | .wt => ceilDiv e.dims.no 48 * ceilDiv e.dims.kr 48
  | .pld => ceilDiv (tileOf e.tdb).cols 48 * ceilDiv (tileOf e.tdb).rows (48 * e.pc)
  | _ => ceilDiv e.dims.no 48 * ceilDiv e.dims.kr (48 * e.pc)

/-- The tag of retained planes (R95). -/
def MEntry.tag (e : MEntry) : List Nat :=
  let b := tileOf e.tdb
  let code := match e.fmtB with
    | some f => f.1.bits + (if f.1.isFloat then 64 else 0) + (if f.1 = .e5m2 then 128 else 0) + (if f.1.signed then 256 else 0)
    | none => 0
  [b.base, b.stride, b.rows, b.cols, b.fmt, b2n b.scaled, b.blk, b2n b.bdir, b2n b.sfmt, code]

/-- The escalation ladder of an instruction, rung 0 first; one rung where it is not escalable (R139, R140). -/
def MEntry.ladder (e : MEntry) : List (NFmt × NFmt) :=
  match e.fmtA, e.fmtB with
  | some f, some g =>
    let ok (x : NFmt × Bool) : Bool := x.2 || x.1.bits = 16
    if bits e.word 22 2 = 0 && ok f && ok g && f.1.bits < 16 then ladderOf f.1 g.1 else [(f.1, g.1)]
  | _, _ => [(.bf16, .bf16)]

/-- Array cycles of an attempt at rung `r` of pass `k` (Table 3.11, R143). -/
def MEntry.cycles (e : MEntry) (k r : Nat) : Nat :=
  let f := (e.ladder.getD r (.bf16, .bf16)).2
  let q := prodPerCycle f
  let per := if 2 ≤ e.planes then 48 else 96
  match e.op with
  | .pld => 48 * e.bPlanes
  | .os => Nat.max (ceilDiv e.dims.kr q) 48
  | .wt => per * ceilDiv e.dims.kr 48 * ceilDiv (e.block k).2.2.2 (48 * q)
  | _ => per * ceilDiv e.dims.kr (48 * q)

/-- B bytes that an attempt reads into planes. -/
def MEntry.bBytes (e : MEntry) (k : Nat) : Nat :=
  let w := fmtBits (tileOf e.tdb).fmt
  match e.op with
  | .os => 0
  | .pld => (tileOf e.tdb).rows * (tileOf e.tdb).cols * w / 8
  | _ => (e.block k).2.2.2 * e.dims.kr * w / 8

/-- An entry of a slot's queue changed. -/
def Block.modEntry (s : Block) (p i sl k : Nat) (f : MEntry → MEntry) : Block :=
  s.modSlot p i sl fun t => { t with mq := t.mq.zipIdx.map fun x => if x.2 = k then f x.1 else x.1 }

/-- The extents of `nc` elements of stored row `r` of a tile from column `c0` on, and of the header that holds their scales. -/
def TileD.rowPart (b : TileD) (c0 nc r : Nat) : List (Nat × Nat) :=
  let row := b.base + r * b.stride
  let lo := (eltPos b c0).1
  (row + lo, (eltPos b (c0 + nc - 1)).1 + (fmtBits b.fmt + 7) / 8 - lo) :: if b.scaled then [(row + lo / 576 * 576, 64)] else []

/-- Lines [c0, c0 + nc) of B, widened to whole groups where the feeder narrows B by blocks that lie across its lines: the scale
of such a block comes from all its lines (R112, R115; assumption log 159). -/
def MEntry.bLines (e : MEntry) (c0 nc : Nat) : Nat × Nat :=
  let o := e.opB none
  let z := o.d.blk
  if o.narrowed && !o.along then
    let lo := c0 / z * z
    (lo, Nat.min e.dims.no (ceilDiv (c0 + nc) z * z) - lo)
  else (c0, nc)

/-- The extents of B that the column block of pass `k` is loaded from, as offset and length: of MM.WT whole stored rows, else in each
stored row the elements of its columns and the header that holds their scales. MM.PLD loads all of B. -/
def MEntry.bExtents (e : MEntry) (k : Nat) : List (Nat × Nat) :=
  let b := tileOf e.tdb
  let (_, _, c, n) := e.block k
  let (c0, nc) := e.bLines c n
  match e.op with
  | .pld => [(b.base, tileEnd b - b.base)]
  | .wt => (List.range nc).map fun r => (b.base + (c0 + r) * b.stride, rowBytes b)
  | _ => (List.range b.rows).flatMap (b.rowPart c0 nc)

/-- The extents of the first plane of pass `k` (R93, R96): 48 elements of each line of the column block in MM.WT, else 48 × P
rows of its columns. MM.OS uses no planes. -/
def MEntry.firstPlane (e : MEntry) (k : Nat) : List (Nat × Nat) :=
  let b := tileOf e.tdb
  let (_, _, c0, nc) := e.block k
  match e.op with
  | .os => []
  | .prel => []
  | .wt => (List.range nc).flatMap fun r => b.rowPart 0 (Nat.min 48 b.cols) (c0 + r)
  | .pld => (List.range (Nat.min (48 * e.pc) b.rows)).flatMap (b.rowPart 0 (Nat.min 48 b.cols))
  | _ => (List.range (Nat.min (48 * e.pc) b.rows)).flatMap (b.rowPart c0 nc)

/-- An offset lies in one of a list of extents. -/
def inExtents (xs : List (Nat × Nat)) (o : Nat) : Bool := xs.any fun x => decide (x.1 ≤ o) && decide (o < x.1 + x.2)

/-- An extent of a copied part of core memory takes the bytes and markers that the maps hold for it, whose addresses stand `o` higher. -/
def fillPart (mem : SMap Byte) (pois : SMap Bool) (o : Nat) (d : SMap Byte × SMap Bool) (x : Nat × Nat) : SMap Byte × SMap Bool :=
  let old (k : Nat) : Bool := decide (x.1 ≤ k) && decide (k < x.1 + x.2)
  ((smRange mem (o + x.1) (o + x.1 + x.2)).foldl (fun m c => smPut 0 m (c.1 - o) c.2) (d.1.filter fun c => !old c.1),
   (smRange pois ((o + x.1) / 8 * 8) (o + x.1 + x.2)).foldl (fun m c => smPut false m (c.1 - o) c.2)
     (d.2.filter fun c => !old c.1))

/-- The first plane of pass `k` of an entry is read now (R96). -/
def Block.preRead (s : Block) (p i : Nat) (e : MEntry) (k : Nat) : MEntry :=
  let xs := e.firstPlane k
  let d := xs.foldl (fillPart s.ram.mem s.ram.poison (coreBase p i)) ([], [])
  { e with pre := xs, preBytes := d.1, prePois := d.2 }

/-- The slot's planes take the bytes and poison of extents of core memory as they are now, but of the plane that the entry has read
before as they were then (R95, R96). The planes hold the stored bytes: an instruction that uses them narrows them under its own OVF
(DESIGN CHOICE, assumption log 200). -/
def Block.loadPlanes (s : Block) (p i sl : Nat) (e : MEntry) (xs : List (Nat × Nat)) : Block :=
  s.modSlot p i sl fun t =>
    let d := xs.foldl (fillPart s.ram.mem s.ram.poison (coreBase p i)) (t.retBytes, t.retPois)
    let d := e.pre.foldl (fillPart e.preBytes e.prePois 0) d
    { t with retBytes := d.1, retPois := d.2 }

/-- The planes stay loaded after the instruction, under its tag (R95). -/
def Block.retain (s : Block) (p i sl : Nat) (e : MEntry) : Block :=
  s.modSlot p i sl fun t => { t with retTag := some e.tag, retPlanes := e.bPlanes }

/-- The planes loaded for B stay loaded from pass to pass: KEEPW, B fits, no pass has repeated, and
nothing has released them (R95, R144). -/
def MEntry.keeps (e : MEntry) : Bool :=
  e.op ≠ .os && e.op ≠ .pld && bit e.word 25 && decide (e.bPlanes ≤ e.planes) && !e.reuse && !e.repeated && !e.lost

/-- The first queue entry that the array has not finished, with its place. -/
def Slot.next (t : Slot) : Option (Nat × MEntry) :=
  (t.mq.zipIdx.find? fun x => !x.1.arrayDone).map fun x => (x.2, x.1)

/-- Entries at the array's turn that use no array: MM.PREL releases the planes, an MM.PLD whose B does not fit loads nothing
(R94, R95). -/
def Block.skipIdle (s : Block) (p i sl : Nat) : Nat → Block
  | 0 => s
  | f + 1 =>
    match (s.slot p i sl).next with
    | some (k, e) =>
      if e.op = .prel then
        ((s.modSlot p i sl Slot.release).modEntry p i sl k fun e => { e with arrayDone := true }).skipIdle p i sl f
      else if e.op = .pld && decide (e.planes < e.bPlanes) then
        (((s.log (.mxe p i) 3).modSlot p i sl Slot.release).modEntry p i sl k fun e => { e with arrayDone := true }).skipIdle
          p i sl f
      else s
    | none => s

/-- The first pass of an instruction decides on retained planes (R95): reuse under a matching tag, a counted miss, or a load of
new B data that releases what was retained. REUSEW with nothing retained is a miss too (DESIGN CHOICE, assumption log 130). A load that is not retained releases all planes of the
slot (DESIGN CHOICE, assumption log 186). -/
def Block.firstPass (s : Block) (p i sl k : Nat) (e : MEntry) : Block :=
  if e.op = .os then s
  else
    let t := s.slot p i sl
    let want := e.op ≠ .pld && bit e.word 24
    if want && t.retTag = some e.tag then s.modEntry p i sl k fun e => { e with reuse := true }
    else
      let s := if want then s.log (.mxe p i) 2 else s
      let s := if e.op ≠ .pld && bit e.word 25 && decide (e.planes < e.bPlanes) then s.log (.mxe p i) 3 else s
      s.modSlot p i sl Slot.release

/-- MATRIX_PASS_START: the array is free and takes the next pass of a slot's queue; a backfill pass needs the backfill slot
running and an empty primary queue (R81, R82). A pass that starts again after a stop is counted (R146). What the other slot's
entries had read ahead is gone: they start as in an idle engine (R81). -/
def Block.passStart (s : Block) (p i sl : Nat) : Block :=
  let busy := ((s.slot p i 0).mq ++ (s.slot p i 1).mq).any (·.inPass)
  let turn := sl = 0 || (decide ((s.core p i).ctx = .backfill) && s.bfOn p i && decide ((s.slot p i 0).mq = []))
  if busy || !turn || (s.core p i).inReset || s.bubbled p i sl then s
  else
    let s := s.skipIdle p i sl 4
    match (s.slot p i sl).next with
    | none => s
    | some (k, e) =>
      if e.op = .batch && !e.launched then s
      else
        let s := if e.pass = 0 && !e.started || (e.op = .batch && e.pass = 0) then s.firstPass p i sl k e else s
        let s := if e.restart && sl = 1 then s.log (.mxe p i) 21 else s
        let s := s.modSlot p i (1 - sl) fun t => { t with mq := t.mq.map fun e => { e with pre := [] } }
        s.modEntry p i sl k fun e =>
          let e := { e with started := true, inPass := true, rung := 0, held := [], heldPois := [], rungs := [] }
          if e.restart then { e with restart := false, pre := [] } else { e with tried := 0, seenA := [], seenB := [] }

/-! One attempt (R91, R121 to R124, R141, R142). -/

/-- The picks of an index list (R100): stored row or none, poisoned; `rd` and `pz` read core memory. -/
def MEntry.picks (e : MEntry) (rd : Nat → Nat) (pz : Nat → Bool) : Option (List (Option Nat × Bool)) :=
  if bit e.word 26 then
    let x := tileOf e.tdi
    some <| (List.range x.cols).map fun j =>
      let a := x.base + 2 * j
      let v := rd a % 256 + 256 * (rd (a + 1) % 256)
      if pz a then (none, true) else if v < (tileOf e.tda).rows then (some v, false) else (none, false)
  else none

/-- Index words out of range, not 0xFFFF, and poisoned index words, among the places [lo, lo + n) of the list. -/
def MEntry.badPicks (e : MEntry) (rd : Nat → Nat) (pz : Nat → Bool) (lo n : Nat) : Nat × Bool :=
  if bit e.word 26 then
    let x := tileOf e.tdi
    let at' (j : Nat) : Nat × Bool := (rd (x.base + 2 * (lo + j)) % 256 + 256 * (rd (x.base + 2 * (lo + j) + 1) % 256),
      pz (x.base + 2 * (lo + j)))
    (((List.range n).filter fun j => !(at' j).2 && (at' j).1 ≠ 0xFFFF && decide ((tileOf e.tda).rows ≤ (at' j).1)).length,
      (List.range n).any fun j => (at' j).2)
  else (0, false)

/-- C_in of a result element of float work, decoded and rounded to FP32 (R122), with flags and poison. -/
def MEntry.cinF (e : MEntry) (rd : Nat → Nat) (m n : Nat) : XVal × Nat :=
  if !bit e.word 27 then (.fin false 0 1, 0)
  else
    let c := tileOf e.tdc
    let sf := (storedFmt c.fmt).getD .fp32
    let (x, f1) := satInput (decodeElt sf (eltCode rd c m n)) sf e.mode
    let sc := if c.scaled then scaleVal c.sfmt (rd (c.base + m * c.stride + scalePos c n)) else .fin false 1 1
    let (y, f2) := xMul x sc
    let (ts, f3) := match c.ts with
      | some t => tsIn t e.mode
      | none => (.fin false 1 1, 0)
    let (z, f4) := xMul y ts
    let (code, f5) := encodeElt .fp32 z .rne e.mode
    (decodeElt .fp32 code, f1 ||| f2 ||| f3 ||| f4 ||| f5)

/-- C_in of a result element of integer work (R123). A scaled one beyond INT32 stays exact until the first group has been added
(DESIGN CHOICE, assumption log 133). -/
def MEntry.cinI (e : MEntry) (rd : Nat → Nat) (m n : Nat) : Int × Nat :=
  if !bit e.word 27 then (0, 0)
  else
    let c := tileOf e.tdc
    let sf := (storedFmt c.fmt).getD .int32
    match decodeElt sf (eltCode rd c m n) with
    | .fin neg a b =>
      if c.scaled then match scaleVal c.sfmt (rd (c.base + m * c.stride + scalePos c n)) with
        | .nan => (0, fNANIN ||| fNV ||| fNONF)
        | sc => roundInt (xMul (.fin neg a b) sc).1 .rne
      else ((if neg then -(a / b : Nat) else (a / b : Nat)), 0)
    | _ => (0, 0)

/-- One result element of an attempt: accumulator code and flags. -/
def MEntry.elt (e : MEntry) (rung : Nat) (rd : Nat → Nat) (la lb : FLine) (m n : Nat) : Nat × Nat :=
  let (fa, _) := e.ladder.getD rung (.bf16, .bf16)
  let runs := rung = 0 && e.runs
  if fa.isFloat then
    let acc := e.cinF rd m n
    let r := if runs then dotRuns la lb e.runLen e.mode acc else dotGroups la lb e.mode acc
    ((encodeElt .fp32 r.1 .rne .ieee).1, r.2)
  else
    let acc := e.cinI rd m n
    let r := dotInt la lb (if runs then e.runLen else 0) e.mode acc
    (twos 32 r.1, r.2)

/-- What an attempt of a pass yields. -/
structure Attempt where
  codes : List Nat
  ovr : List Bool
  pois : List Bool
  flags : Nat
  sa : FeedStats
  sb : FeedStats
deriving DecidableEq, Repr

/-- Rows of a batch tile that were taken, all rows of any other instruction (R98). -/
def MEntry.taken (e : MEntry) (row : Nat) : Bool := e.op ≠ .batch || bit e.mask row

/-- An attempt at rung `r` of pass `k`: `rd`, `pz` read core memory, `rdB`, `pzB` read B (memory or retained planes). -/
def MEntry.attempt (e : MEntry) (k r : Nat) (rd : Nat → Nat) (pz : Nat → Bool) (rdB : Nat → Nat) (pzB : Nat → Bool) :
    Attempt :=
  let (r0, nr, c0, nc) := e.block k
  let d := e.dims
  let (fa, fb) := e.ladder.getD r (.bf16, .bf16)
  let pk := e.picks rd pz
  let oa := e.opA pk
  let ob := e.opB pk
  let ca : FeedCfg := ⟨fa, e.mode, e.thresh, decide (r ≠ 0)⟩
  let cb : FeedCfg := ⟨fb, e.mode, e.thresh, decide (r ≠ 0)⟩
  let rows := (List.range nr).map (r0 + ·)
  let live := rows.filter e.taken
  let cols := (List.range nc).map (c0 + ·)
  let las := rows.map fun m => if e.taken m then feedLine oa ca rd pz d.mo d.kr m else ⟨[], fa, .fin false 1 1, false, false⟩
  let lbs := cols.map fun n => feedLine ob cb rdB pzB d.no d.kr n
  let cinPois (m n : Nat) : Bool := bit e.word 27 && eltPoison pz (tileOf e.tdc) m n
  let cells := (rows.zip las).flatMap fun x => (cols.zip lbs).map fun y =>
    if e.taken x.1 then
      let v := e.elt r rd x.2 y.2 x.1 y.1
      (v.1, v.2, x.2.ovr || y.2.ovr, x.2.poison || y.2.poison || cinPois x.1 y.1)
    else (0, 0, false, false)
  { codes := cells.map (·.1), ovr := cells.map (·.2.2.1), pois := cells.map (·.2.2.2),
    flags := cells.foldl (fun a x => a ||| x.2.1) 0,
    sa := feedStats oa ca rd d.mo d.kr live, sb := feedStats ob cb rdB d.no d.kr cols }

/-- Counters 14 to 18 of an attempt (Table 5.8): a block counts once in its pass, at the first attempt that finds it so (R147). -/
def Block.logStats (s : Block) (p i : Nat) (e : MEntry) (a : Attempt) : Block :=
  let na (l : List Nat) : Nat := (l.filter fun k => !e.seenA.contains k).length
  let nb (l : List Nat) : Nat := (l.filter fun k => !e.seenB.contains k).length
  let s := s.logN (.mxe p i) 14 (na a.sa.flushOver)
  let s := s.logN (.mxe p i) 15 (na a.sa.satOver)
  let s := s.logN (.mxe p i) 16 (nb a.sb.flushOver)
  let s := s.logN (.mxe p i) 17 (nb a.sb.satOver)
  s.logN (.mxe p i) 18 (na a.sa.nanScale + nb a.sb.nanScale)

/-- The blocks that an attempt has counted. -/
def FeedStats.blocks (f : FeedStats) : List Nat := f.flushOver ++ f.satOver ++ f.nanScale

/-- Rungs after an attempt at rung `r`: an element whose lines are not over threshold, or that stands at the top, is
settled (R141). -/
def settleRungs (rs : List (Option Nat)) (ov : List Bool) (r top : Nat) : List (Option Nat) :=
  let rs := if rs.isEmpty then ov.map fun _ => none else rs
  (rs.zip ov).map fun x => match x.1 with
    | some q => some q
    | none => if !x.2 || r = top then some r else none

/-- The rounding of a drained element (R97). -/
def MEntry.rnd (e : MEntry) (idx : Nat) : Rnd :=
  if bits e.word 28 2 = 1 then .stoch (srBits (e.srs / 2 ^ 32) (e.srs % 2 ^ 32) idx) else .rne

/-- Bytes of core memory written in whole 8-byte words from an aligned address, each byte with its poison: a word is written at once
and marked if any of its bytes is (R91, R97). -/
def Block.pokeWords (s : Block) (a : Nat) (xs : List (Nat × Bool)) : Block :=
  ((chunksOf 8 xs.length xs).zipIdx).foldl (fun s c => s.poke (a + 8 * c.2) (c.1.map (·.1)) (c.1.any (·.2))) s

/-- One row of a pass's block is drained to a plain result (R97, R124): columns `c0` on, each a code and its poison. Rows of a block
are whole words, for No and the block's columns are multiples of 16. -/
def Block.drainRow (s : Block) (p i : Nat) (e : MEntry) (isInt : Bool) (m c0 : Nat) (xs : List (Nat × Bool)) : Block × Nat :=
  let c := tileOf e.tdc
  let dst := (storedFmt c.fmt).getD .fp32
  let q := xs.zipIdx.map fun x =>
    let r := drainPlain isInt dst x.1.1 c.ts (e.rnd (m * e.dims.no + (c0 + x.2))) e.mode
    ((leBytes (dst.bits / 8) r.1).map fun y => (y, x.1.2), r.2)
  (s.pokeWords (coreBase p i + c.base + m * c.stride + (eltPos c c0).1) (q.flatMap (·.1)), q.foldl (fun a x => a ||| x.2) 0)

/-- Block `b` of scaled row `m` as narrowed (R124), from the finished accumulators of its elements, and which are poisoned. -/
def MEntry.scaledBlock (e : MEntry) (isInt : Bool) (m b : Nat) : NarrowBlock × List Bool :=
  let c := tileOf e.tdc
  let no := e.dims.no
  let n0 := b * c.blk
  let ns := (List.range (Nat.min c.blk (no - n0))).map (n0 + ·)
  let xs := ns.map fun n => accVal isInt (smGet 0 e.finals (m * no + n))
  let rs := if bits e.word 28 2 = 1 then ns.map fun n => srBits (e.srs / 2 ^ 32) (e.srs % 2 ^ 32) (m * no + n) else []
  (narrowBlock xs (if isInt then .int32 else .fp32) ((storedFmt c.fmt).getD .e4m3) c.sfmt e.mode c.ts rs,
    ns.map fun n => smGet false e.pois (m * no + n))

/-- Block `b` of scaled row `m` is drained: its elements, each with its poison (R91), and its scale, unmarked. The word of the header that
holds the scale is written anew with its last block. -/
def Block.drainBlock (s : Block) (p i : Nat) (e : MEntry) (isInt : Bool) (m b : Nat) : Block × Nat :=
  let c := tileOf e.tdc
  let (q, pois) := e.scaledBlock isInt m b
  let row := coreBase p i + c.base + m * c.stride
  let s := s.pokeWords (row + (eltPos c (b * c.blk)).1) (q.elts.zip pois)
  let last := b + 1 = ceilDiv e.dims.no c.blk
  let s := if b % 8 = 7 || last then
      s.poke (row + b / 8 * 8) ((List.range 8).map fun j =>
        let k := b / 8 * 8 + j
        if k ≤ b then (e.scaledBlock isInt m k).1.scale else 0)
    else s.poke (row + b) [q.scale]
  (s, q.flags)

/-- What a scaled row's last block leaves of its burst: header bytes beyond the last block are zero (Table 4.4), and so are the unused
payload bytes (R114; assumption log 29). -/
def Block.clearRest (s : Block) (p i : Nat) (c : TileD) (m : Nat) : Block :=
  let row := coreBase p i + c.base + m * c.stride
  let used := (ceilDiv c.cols c.blk + 7) / 8 * 8
  let last := (eltPos c (c.cols - 1)).1 + 1
  (s.poke (row + used) (List.replicate (64 - used) 0)).poke (row + last) (List.replicate (rowBytes c - last) 0)

/-- The blocks of scaled row `m` that end in columns [c0, c0 + nc) are drained: those whose last element this pass has finished (R96). -/
def Block.drainScaled (s : Block) (p i : Nat) (e : MEntry) (isInt : Bool) (m c0 nc : Nat) : Block × Nat :=
  let c := tileOf e.tdc
  let no := e.dims.no
  let done := (List.range (ceilDiv no c.blk)).filter fun b =>
    let hi := Nat.min ((b + 1) * c.blk) no
    decide (c0 < hi) && decide (hi ≤ c0 + nc)
  let r := done.foldl (fun acc b =>
    let r := acc.1.drainBlock p i e isInt m b
    (r.1, acc.2 ||| r.2)) (s, 0)
  (if c0 + nc = no then r.1.clearRest p i c m else r.1, r.2)

/-- The block of a pass is drained, row by row, each element and its poison from the attempt at its rung (R97, R142). Of a scaled result the
finished elements are kept until the block of their row that they belong to is complete. -/
def Block.drainPass (s : Block) (p i : Nat) (e : MEntry) (isInt : Bool) : Block × MEntry :=
  let (r0, nr, c0, nc) := e.block e.pass
  let c := tileOf e.tdc
  let no := e.dims.no
  let row (a : Nat) : List (Nat × Bool) := (List.range nc).map fun b =>
    let j := a * nc + b
    let r := (e.rungs.getD j none).getD 0
    ((e.held.getD r []).getD j 0, (e.heldPois.getD r []).getD j false)
  let rows := (List.range nr).filter fun a => e.taken (r0 + a)
  if c.scaled then
    let e := rows.foldl (fun e a => (row a).zipIdx.foldl (fun e x =>
      { e with finals := smPut 0 e.finals ((r0 + a) * no + c0 + x.2) x.1.1,
               pois := smPut false e.pois ((r0 + a) * no + c0 + x.2) x.1.2 }) e) e
    let r := rows.foldl (fun acc a =>
      let q := acc.1.drainScaled p i e isInt (r0 + a) c0 nc
      (q.1, acc.2 ||| q.2)) (s, 0)
    (r.1, { e with flags := e.flags ||| r.2 })
  else
    let r := rows.foldl (fun acc a =>
      let q := acc.1.drainRow p i e isInt (r0 + a) c0 (row a)
      (q.1, acc.2 ||| q.2)) (s, 0)
    (r.1, { e with flags := e.flags ||| r.2 })

/-- Core memory of core `i` as the feeders read it: bytes and markers by offset. -/
def Block.coreByte (s : Block) (p i off : Nat) : Nat := (smGet 0 s.ram.mem (coreBase p i + off)).toNat
def Block.corePois (s : Block) (p i off : Nat) : Bool := smGet false s.ram.poison ((coreBase p i + off) / 8 * 8)

/-- The attempt loads this column block of B into planes that it keeps (R95). -/
def MEntry.loadsKept (e : MEntry) : Bool := e.rung = 0 && e.keeps && decide (e.pass % ceilDiv e.dims.mo 48 = 0)

/-- B of the attempt comes from the planes: the instruction reuses them, or has loaded this column block in an earlier pass and keeps
it (R95, R144). -/
def MEntry.fromPlanes (e : MEntry) : Bool := e.rung = 0 && ((e.reuse && !e.repeated) || (e.keeps && !e.loadsKept))

/-- What the attempt under way of entry `e` of a slot yields, from core memory and the slot's planes as they are, and from the plane of B
that was read before its pass began (R96). -/
def Block.attemptOf (s : Block) (p i sl : Nat) (e : MEntry) : Attempt :=
  let t := s.slot p i sl
  let rd := s.coreByte p i
  let pz := s.corePois p i
  let pre := if e.rung = 0 then e.pre else []
  e.attempt e.pass e.rung rd pz
    (if e.fromPlanes then fun o => (smGet 0 t.retBytes o).toNat
     else fun o => if inExtents pre o then (smGet 0 e.preBytes o).toNat else rd o)
    (if e.fromPlanes then fun o => smGet false t.retPois (o / 8 * 8)
     else fun o => if inExtents pre o then smGet false e.prePois (o / 8 * 8) else pz o)

/-- What is read ahead during the last slice of a pass, before it drains: the first plane of the instruction's next pass, or of the next
instruction in the slot's queue that uses the array (R96). A pass that takes B from its planes ignores it. -/
def Block.readAhead (s : Block) (p i sl k : Nat) (e : MEntry) : Option (Nat × MEntry) :=
  if e.pass + 1 < e.passes then some (k, s.preRead p i e (e.pass + 1))
  else match (s.slot p i sl).mq.zipIdx.find? fun x => decide (k < x.2) && decide (x.1.op ≠ .prel) with
    | some (n, j) => if n.op = .batch && !n.launched then none else some (j, s.preRead p i n 0)
    | none => none

/-- MATRIX_ATTEMPT_END of a compute instruction: the attempt's results are held; the pass repeats at the next rung, or its
block is drained and the array is free (R142 to R144). A repeat is counted, and releases retained planes, when its attempt has run. An
index out of range counts once in an instruction (DESIGN CHOICE, assumption log 131). Which of counters 11 and 12 an element of
INT8 work counts in is the model's reading (assumption log 160). Counter 20 counts an instruction that repeats with retained planes or with
KEEPW, whose planes may carry no tag yet, and no other (DESIGN CHOICE, assumption log 202). A pass that runs again after a stop counts nothing twice (R147). -/
def Block.attemptEnd (s : Block) (p i sl k : Nat) (e : MEntry) : Block :=
  let rb := ceilDiv e.dims.mo 48
  let rd := s.coreByte p i
  let pz := s.corePois p i
  let a := s.attemptOf p i sl e
  let s := if e.loadsKept then s.loadPlanes p i sl e (e.bExtents e.pass) else s
  let top := e.ladder.length - 1
  let isInt := !(e.ladder.getD 0 (.bf16, .bf16)).1.isFloat
  let cyc := e.cycles e.pass e.rung
  let again := decide (e.rung < e.tried)
  let bad := if e.rung ≠ 0 || again then (0, false)
    else if e.op = .os then (if e.pass = 0 then e.badPicks rd pz 0 e.dims.kr else (0, false))
    else if e.pass < rb then e.badPicks rd pz (e.block e.pass).1 (e.block e.pass).2.1 else (0, false)
  let s := s.logStats p i e a
  -- an attempt above rung 0 was a repeat
  let s := if e.rung = 0 || again then s else s.log (.mxe p i) (7 + e.rung)
  let s := if e.rung = 0 || e.op = .os then s
    else (if !e.repeated && ((s.slot p i sl).retTag.isSome || e.keeps) then s.log (.mxe p i) 20 else s).modSlot p i sl Slot.release
  let e := if e.rung = 0 then e else { e with repeated := true }
  let s := if bad.1 = 0 then s else (s.logN (.mxe p i) 4 bad.1).raise (.mxe p i) 0
  let s := if bad.2 || a.pois.any id then s.observePoison (.mxe p i) else s
  let s := s.modCore p i fun c =>
    { c with busy := c.busy + cyc, repeatCyc := if e.rung = 0 then c.repeatCyc else c.repeatCyc + cyc,
             planeBytes := if e.fromPlanes then c.planeBytes else c.planeBytes + e.bBytes e.pass }
  let rungs := settleRungs e.rungs a.ovr e.rung top
  let overAny := a.ovr.any id
  let narrowAB := (e.fmtA.map (·.2)).getD false || (e.fmtB.map (·.2)).getD false
  let e := { e with flags := e.flags ||| a.flags ||| a.sa.flags ||| a.sb.flags, held := e.held ++ [a.codes],
                    heldPois := e.heldPois ++ [a.pois], rungs := rungs, tried := Nat.max e.tried (e.rung + 1),
                    seenA := e.seenA ++ a.sa.blocks, seenB := e.seenB ++ a.sb.blocks }
  let e := if e.rung = top && overAny && narrowAB then
      (if isInt && bits e.word 22 2 = 0 && (e.ladder.getD top (.bf16, .bf16)).1 = .int8 &&
          (e.fmtA.map (·.2)).getD false && (e.fmtB.map (·.2)).getD false then { e with topEv := true }
       else { e with overEv := true })
    else e
  if rungs.any (·.isNone) then
    s.modEntry p i sl k fun _ => { e with rung := e.rung + 1 }
  else
    let n8 := (rungs.filter fun r => match r with
      | some (q + 1) => decide ((e.ladder.getD (q + 1) (.bf16, .bf16)).1.bits = 8)
      | _ => false).length
    let n16 := (rungs.filter fun r => match r with
      | some (q + 1) => decide ((e.ladder.getD (q + 1) (.bf16, .bf16)).1.bits = 16)
      | _ => false).length
    let hi := rungs.foldl (fun m r => Nat.max m (r.getD 0)) 0
    let s := s.modCore p i fun c => { c with escElem8 := c.escElem8 + n8, escElem16 := c.escElem16 + n16 }
    let nxt := s.readAhead p i sl k e
    let (s, e) := s.drainPass p i e isInt
    let e := { e with maxRung := Nat.max e.maxRung hi, pass := e.pass + 1, inPass := false, rung := 0, held := [],
                      heldPois := [], rungs := [], pre := [] }
    let done := decide (e.pass = e.passes)
    let s := s.modEntry p i sl k fun _ => { e with arrayDone := done }
    let s := match nxt with
      | some (j, n) => s.modEntry p i sl j fun x => { x with pre := n.pre, preBytes := n.preBytes, prePois := n.prePois }
      | none => s
    if done && e.keeps then s.retain p i sl e else s

/-- The flags of the blocks of B that an MM.PLD narrows as it loads (R96, R115, R128). MM.PLD has no OVF: its mode is SAT (DESIGN CHOICE,
assumption log 200). -/
def Block.pldFlags (s : Block) (p i : Nat) (e : MEntry) : Nat :=
  let b := tileOf e.tdb
  let rd (o : Nat) : Nat := if inExtents e.pre o then (smGet 0 e.preBytes o).toNat else s.coreByte p i o
  (feedStats (e.opB none) ⟨(e.fmtB.map (·.1)).getD .bf16, .sat, e.thresh, false⟩ rd b.cols b.rows (List.range b.cols)).flags

/-- An MM.PLD has loaded B: its planes stay loaded, unless they were taken from the slot meanwhile; a number of planes that B no longer fits
is counted (R95). -/
def Block.pldRetain (s : Block) (p i sl : Nat) (e : MEntry) : Block :=
  if e.planes < e.bPlanes then (s.log (.mxe p i) 3).modSlot p i sl Slot.release
  else if e.lost then s
  else (s.loadPlanes p i sl e (e.bExtents 0)).retain p i sl e

/-- MATRIX_ATTEMPT_END: the attempt under way in the array of a core ends; at 256 bubbles the array holds (R342). The load cycles of an
MM.PLD count in BUSY (DEDUCED, assumption log 33). The flags of B that an MM.PLD narrows arise at the load, and again at each pass that
takes B from the retained planes (DESIGN CHOICE, assumption log 201). -/
def Block.attemptEndCmd (s : Block) (p i sl : Nat) : Block :=
  match (s.slot p i sl).mq.zipIdx.find? fun x => x.1.inPass with
  | none => s
  | some (e, k) =>
    if s.bubbled p i sl then s
    else if e.op = .pld then
      let s := s.modCore p i fun c => { c with busy := c.busy + e.cycles 0 0, planeBytes := c.planeBytes + e.bBytes 0 }
      let b := tileOf e.tdb
      let s := if s.memPoisoned (coreBase p i + b.base) (tileEnd b - b.base) then s.observePoison (.mxe p i) else s
      let fl := s.pldFlags p i e
      (s.pldRetain p i sl e).modEntry p i sl k fun e => { e with inPass := false, arrayDone := true, flags := e.flags ||| fl }
    else s.attemptEnd p i sl k e

/-- A saturating 32-bit counter of a map counts one. -/
def satInc (m : SMap Nat) (k : Nat) : SMap Nat := smMod 0 m k fun v => Nat.min (v + 1) 0xFFFFFFFF

/-- What a completed instruction adds to the page's counters and causes (Tables 5.6 to 5.8, R147). -/
def Block.escReport (s : Block) (p i sl : Nat) (e : MEntry) : Block :=
  if e.op = .prel ∨ e.op = .pld then s
  else
    let tag := bits e.word 8 8
    let narrow := decide ((e.ladder.getD 0 (.bf16, .bf16)).1.bits < 16)
    let pinned := bits e.word 22 2 = 1
    let s := if narrow then s.modCore p i fun c => { c with layerNarrow := satInc c.layerNarrow tag } else s
    let s := if narrow && decide (0 < e.maxRung) then s.modCore p i fun c => { c with layerEsc := satInc c.layerEsc tag } else s
    let s := if narrow && (e.overEv || e.topEv) then s.modCore p i fun c => { c with layerNoEsc := satInc c.layerNoEsc tag }
      else s
    let s := if e.repeated then
        let w := 2 ^ 31 + sl * 2 ^ 30 + e.maxRung * 2 ^ 28 + tag * 2 ^ 8
        ((s.modCore p i fun c => { c with escLast := w }).log (.mxe p i) 10).raise (.mxe p i) 2
      else s
    let s := if e.overEv && !pinned then (s.log (.mxe p i) 11).raise (.mxe p i) 3 else s
    let s := if e.topEv && !pinned then (s.log (.mxe p i) 12).raise (.mxe p i) 3 else s
    if pinned && (e.overEv || e.topEv) then s.log (.mxe p i) 13 else s

/-- MATRIX_COMPLETE: the oldest instruction of a slot, its array work done, is complete: its flags merge and its queue entry
frees (R90, R128). -/
def Block.matrixDone (s : Block) (p i sl : Nat) : Block :=
  let busy := ((s.slot p i 0).mq ++ (s.slot p i 1).mq).any (·.inPass)
  let s := if busy then s else s.skipIdle p i sl 1
  match (s.slot p i sl).mq with
  | [] => s
  | e :: t =>
    if !e.arrayDone || s.bubbled p i sl then s
    else
      let s := s.escReport p i sl e
      s.modSlot p i sl fun x => { x with flags := x.flags ||| e.flags, mq := headMark s.merid.count t }

/-! The batch assembler (R98). -/

/-- The MM.BATCH at the head of a core's primary queue takes the valid mask. -/
def Block.batchTake (s : Block) (p i : Nat) : Block :=
  match (s.slot p i 0).mq with
  | [] => s
  | e :: t =>
    if e.op ≠ .batch ∨ e.launched then s
    else
      let mask := (s.core p i).batchValid
      let s := s.modCore p i fun c => { c with batchValid := 0, batchPost := none }
      let e := { e with launched := true, mask := mask, arrayDone := decide (mask = 0) }
      s.modSlot p i 0 fun x => { (x.setS (bits e.word 3 5) mask) with mq := e :: t }

/-- BATCH_LAUNCH: all 48 slots are valid. -/
def Block.batchLaunch (s : Block) (p i : Nat) : Block :=
  if (s.core p i).batchValid = 2 ^ 48 - 1 then s.batchTake p i else s

/-- BATCH_DEADLINE: the tick that begins frame f + DEADLINE launches a partial batch; with nothing posted the instruction
completes empty (R98). -/
def Block.batchDeadline (s : Block) (p i : Nat) : Block :=
  match (s.slot p i 0).mq with
  | [] => s
  | e :: _ =>
    let c := s.core p i
    let f := Nat.max e.headFrame (c.batchPost.getD 0)
    if e.op ≠ .batch ∨ e.launched ∨ s.merid.count < f + s.fld (.mxe p i) 0x044 0 8 then s
    else if c.batchValid = 0 then (s.log (.mxe p i) 6).batchTake p i
    else if c.batchValid = 2 ^ 48 - 1 then s.batchTake p i
    else ((s.log (.mxe p i) 5).raise (.mxe p i) 1).batchTake p i

end Sys2Proof.Machine
end

