-- ==== Sys2Proof/Machine/Recov.lean ====
section
/-! DEFINITION. Faults and recovery (spec/14): aborts, patrol, the flat-field test, core, cluster and partition resets,
pre-emption and restore, Class B recovery. -/

namespace Sys2Proof.Machine

/-! Marks. -/

/-- A core is marked failed (R374, R383); where its cluster had a spare, the spare is consumed, and where it was the last that kept the
cluster working, the partition's spare cluster is (R420). -/
def Block.markCore (s : Block) (p i : Nat) : Block :=
  if !(s.part p).coreOk i then s
  else
    let n := ((s.part p).goodCores (i / 17)).length
    let s := if n = 17 then s.log .alm 4 else if n = 16 && (s.part p).clusterOk (i / 17) then s.spareCluster p else s
    s.outCount ((s.modPart p fun q => { q with failedCores := smPut false q.failedCores i true }).almDue (.core p i)) p

/-! Job abort (R369). -/

/-- PART_ABORT: PART_CTL.ABORT written 1. -/
def Block.partAbort (s : Block) (p : Nat) : Block := s.modPart p fun q => { q with abort := true }

/-- Slots of one context of a partition stop. A slot that an abort stops waits no more; the wait of one that a pre-emption holds is
resumed with it (R210, Table 8.7). -/
def Block.stopSlots (s : Block) (p sl : Nat) (x : Stop) : Block :=
  (List.range 153).foldl (fun s i =>
    if (s.slot p i sl).bound && decide ((s.slot p i sl).stop = .running) then
      s.modSlot p i sl fun t => { t with stop := x, wait := if x = .held then t.wait else .none }
    else s) s

/-- An abort acts at the frame boundary: primary slots stop, primary channels' lists end DISCARDED, a job fault ABORTED is reported,
taken launches end ABORTED. During a save and while the partition is saved it waits for the restored job (Table 16.9). -/
def Block.abortNow (s : Block) (p : Nat) : Block :=
  if !(s.part p).abort || (s.part p).state = .saving || (s.part p).state = .saved then s
  else
    let s := s.stopSlots p 0 .abort
    let s := (List.range 36).foldl (fun s j => s.chanDiscard p j 0) s
    let s := match (s.part p).jobOf 0 with
      | some job => (s.jobFault p 0x0A job 0 0x7FF).log (.part p) 1
      | none => s
    (s.collAbort p).modPart p fun q => { q with abort := false }

/-! Patrol (R373, R374). -/

/-- PART_CTL.PATROL of a partition. -/
def Block.patrolShare (s : Block) (p : Nat) : Nat := s.fld (.part p) 0x040 8 8

/-- The next in-service core of a cluster from position `k` on, wrapping. -/
def Block.patrolPick (s : Block) (p c k : Nat) : Option Nat :=
  ((List.range 17).map fun n => (k + n) % 17).find? fun n =>
    !s.coreOos p (17 * c + n) && !(s.core p (17 * c + n)).inReset && !(s.core p (17 * c + n)).halted

/-- Retention of the planes of a slot ends (R95). -/
def Block.dropPlanes (s : Block) (p i sl : Nat) : Block :=
  s.modSlot p i sl Slot.evict

/-- Plane 3 holds B that the slot, owning all four, has retained, is keeping or is loading to keep. -/
def Slot.lastPlane (t : Slot) : Bool :=
  decide (t.retPlanes = 4) || t.mq.any fun e => e.started && !e.arrayDone && (e.keeps || (e.op = .pld && !e.lost)) && decide (e.bPlanes = 4)

/-- PATROL_VISIT: the patrol core of cluster `c` begins a visit; it releases the retention of the plane that the suite uses,
except on a comm core (R373): the backfill slot's lowest plane, the first that it retains, or plane 3, the last that the primary
slot retains. -/
def Block.patrolVisit (s : Block) (p c : Nat) : Block :=
  if s.patrolShare p = 0 || smGet false (s.part p).patrolOn c || s.clusterOos p c then s
  else match s.patrolPick p c (smGet 0 (s.part p).patrolNext c) with
    | none => s
    | some k =>
      let i := 17 * c + k
      let s := s.modPart p fun q => { q with patrolOn := smPut false q.patrolOn c true, patrolNext := smPut 0 q.patrolNext c k }
      if s.isComm p i then s
      else if s.bfOn p i && s.fld (.core p i) 0x040 4 2 ≠ 0 then s.dropPlanes p i 1
      else if (s.slot p i 0).lastPlane then s.dropPlanes p i 0
      else s

/-- Forced cycles of a visit on core `i`: a count that timing decides, so a free amount (assumption log 59). A visit on a comm core takes
idle cycles only (R373). -/
def Block.patrolCycles (s : Block) (p i : Nat) : Block :=
  if s.isComm p i then s
  else
  let (n, s) := s.fresh
  s.modPart p fun q => { q with patrolCyc := q.patrolCyc + n % 2 ^ 25 }

/-- The rotation of a cluster goes on behind core `k`. -/
def Block.patrolOnward (s : Block) (p c k : Nat) : Block :=
  s.modPart p fun q => { q with patrolOn := smPut false q.patrolOn c false, patrolNext := smPut 0 q.patrolNext c ((k + 1) % 17) }

/-- PATROL_VISIT_END: the visit's CRC was right, or differed and names the unit that failed (R374). -/
def Block.patrolEnd (s : Block) (p c : Nat) (bad : Option Nat) : Block :=
  if !smGet false (s.part p).patrolOn c then s
  else
    let k := smGet 0 (s.part p).patrolNext c
    let i := 17 * c + k
    let s := ((s.patrolCycles p i).patrolOnward p c k).log (.part p) 7
    match bad with
    | none => s.modPart p fun q => { q with patrolClean := smPut 0 q.patrolClean i s.merid.count }
    | some u =>
      let clean := smGet 0 (s.part p).patrolClean i
      let s := if s.causeSet (.part p) 4 then s else s.modPart p fun q => { q with pFail := some (u % 16, i, clean) }
      (((s.markCore p i).raise (.part p) 4).log (.part p) 8).coreHard p i

/-- A visit on a core that is reset is abandoned (Table 14.15). -/
def Block.patrolAbandon (s : Block) (p i : Nat) : Block :=
  let c := i / 17
  if smGet false (s.part p).patrolOn c && smGet 0 (s.part p).patrolNext c = i % 17 then
    ((s.patrolCycles p i).patrolOnward p c (i % 17)).log (.part p) 9
  else s

/-! The flat-field test (R375). -/

/-- FLAT_FIELD_TEST: PART_FFT.GO written 1. -/
def Block.fftStart (s : Block) (p : Nat) : Block :=
  let q := s.part p
  if q.fftGo then s
  else if q.bindP.isSome || q.bindB.isSome then s.modPart p fun q => { q with fftStatus := 4 }
  else
    (s.modPart p fun q =>
      { q with fftGo := true, fftStatus := 1, fftUnit := 0, fftFmt := 0, fftCore := 0xFF, fftPass := 1, fftPkg := false }).log (.part p) 10
      |>.setUncal p true

/-- The package test (R375): every partition runs Table 14.6 at step 32, then at the highest licensed step (Table 14.7). -/
def Block.fftPackage (s : Block) : Block :=
  ((List.range 12).filter s.partIn).foldl (fun s p => (s.fftStart p).modPart p fun q => { q with fftPkg := q.fftGo }) s

/-- What the hub's tests of Table 14.7 found, at the end of a package test: it is marked in the Almanac, where a mark names it. -/
def Block.fftHub (s : Block) (p : Nat) (t : HubTest) : Block :=
  let s := (s.modPart p fun q => { q with fftStatus := 3, fftUnit := 0, fftFmt := 0, fftCore := 0xFF }).log (.part p) 11
  match t with
  | .rhostCore h => ({ s with boot := { s.boot with alm := { s.boot.alm with hosts := setBit1 s.boot.alm.hosts h } } }).almDue (.rhostCore h)
  | .updateEngine => ({ s with boot := { s.boot with alm := { s.boot.alm with updBad := true } } }).almDue .updateEngine
  | .voteEngine | .xactUnit | .dataPath => s

/-- What a pass of the test found: a failure names unit and format and, but for a DMA engine or a synchronisation object, the core, which
is marked failed and is a core hard fault (Table 14.2). -/
def Block.fftFound (s : Block) (p : Nat) (bad : Option ((Option Nat ⊕ HubTest) × Nat × Nat)) : Block :=
  match bad with
  | none => s
  | some (.inr t, _, _) => if (s.part p).fftPkg && (s.part p).fftPass = 2 then s.fftHub p t else s
  | some (.inl i, u, f) =>
    let s := (s.modPart p fun q =>
      { q with fftStatus := 3, fftUnit := u % 16, fftFmt := f % 16, fftCore := i.getD 0xFF }).log (.part p) 11
    match i with
    | some i => (s.markCore p i).coreHard p i
    | none => s

/-- FLAT_FIELD_END: a pass of the test has run. The first pass of a package test is followed by the second; after the last STATUS says
PASSED unless a pass failed, and FFT_DONE is raised. The hub's tests of Table 14.7 end with the second pass (assumption log 173). -/
def Block.fftEnd (s : Block) (p : Nat) (bad : Option ((Option Nat ⊕ HubTest) × Nat × Nat)) : Block :=
  if !(s.part p).fftGo then s
  else
    let s := s.fftFound p bad
    if (s.part p).fftPkg && (s.part p).fftPass = 1 then s.modPart p fun q => { q with fftPass := 2 }
    else
      (s.modPart p fun q => { q with fftGo := false, fftStatus := if q.fftStatus = 3 then 3 else 2 }).raise (.part p) 5

/-! Core, cluster and partition resets (R380 to R383). -/

/-- Base address of MMU_SAVE. -/
def Block.saveBase (s : Block) (p : Nat) : Nat := s.pair (.mmu p) 0x078 0x07C 21

/-- The logical cores and clusters of a partition with their physical places. -/
def Part.places (q : Part) : List (Nat × Nat × Nat) :=
  (List.range 128).filterMap fun n => (q.coreAt (n / 16) (n % 16)).map fun i => (n, i, i / 17)

/-! The image in the capacity tier (R180): the memories of logical cores from its first byte on, those of logical clusters from 64 MiB
on, and at 128 MiB the number of its other parts (assumption log 104). -/

/-- The core and cluster memories of partition `p` in its image: offset, length, SRAM address. -/
def Part.imageRanges (q : Part) (p : Nat) : List (Nat × Nat × Nat) :=
  q.places.map (fun e => (e.1 * 0x80000, 0x80000, coreBase p e.2.1)) ++
    (List.range 8).filterMap fun c => (q.cluster c).map fun pc => (2 ^ 26 + c * 0x800000, 0x800000, clusterBase p pc)

/-- The SRAM byte at offset `off` of an image under the present maps. -/
def Part.imageHome (q : Part) (p off : Nat) : Option Nat :=
  if off < 2 ^ 26 then (q.coreAt (off / 2 ^ 23) (off / 2 ^ 19 % 16)).map fun i => coreBase p i + off % 2 ^ 19
  else if off < 2 ^ 27 then (q.cluster ((off - 2 ^ 26) / 2 ^ 23)).map fun c => clusterBase p c + off % 2 ^ 23
  else none

/-- The package physical address of a byte of the capacity tier, by the number under which `Ram` lists it (R162); none for a byte of a
check block, and for one of another tier. -/
def Tiers.capPa (t : Tiers) (n : Nat) : Option Nat :=
  if n < 2 ^ 40 ∨ 2 ^ 40 + 2 ^ 40 ≤ n then none
  else
    let d := (n - 2 ^ 40) / 2 ^ 36
    let a := (n - 2 ^ 40) % 2 ^ 36
    match ((List.range 16).filter fun d => bit t.capIn d).findIdx? (· = d) with
    | some r =>
      if 31 ≤ a % 4096 / 128 then none
      else some (0x10000000000 + ((a / 4096 * 31 + a % 4096 / 128) * t.capN + r) * 128 + a % 128)
    | none => none

/-- Offset in the 129 MiB of the image at `base` of a byte of the capacity tier, by its number in `Ram`. -/
def Tiers.inImage (t : Tiers) (base n : Nat) : Option Nat :=
  match t.capPa n with
  | some pa => if base ≤ pa ∧ pa < base + 129 * 2 ^ 20 then some (pa - base) else none
  | none => none

/-- The number in `Ram` of byte `off` of the image at `base`. -/
def Block.imageByte (s : Block) (base off : Nat) : Option Nat :=
  match homeOf s.tiers (base + off) with
  | some (.cap d a) => some (Home.cap d a).num
  | _ => none

/-- Number `n` written where the image at `base` names its other parts, in a line of the image. -/
def Block.putSerial (s : Block) (base n : Nat) : Block :=
  if s.canAccess (base + 2 ^ 27) 8 then
    { s with ram := (leBytes 8 n).zipIdx.foldl (fun r b => match s.imageByte base (2 ^ 27 + b.2) with
        | some h => { r with mem := smPut 0 r.mem h (BitVec.ofNat 8 b.1) }
        | none => r) s.ram }
  else s

/-- A page is reset: its RW fields, causes, lock and clamp record return to their reset values; Logbook counters, the snapshot
enable, base and sequence stay (R41, R394). -/
def Block.resetPage (s : Block) (pg : Page) : Block :=
  let s := s.modHdr pg fun h => { snapEn := h.snapEn, logBase := h.logBase, snapSeq := h.snapSeq }
  { s with regs := smDropRange s.regs (pg.key * 4096) (pg.key * 4096 + 4096),
           frameBound := s.frameBound.filter fun w => w.off / 4096 ≠ pg.key }

/-- Transactions of a core's slots are orphaned: their responses are absorbed (Table 14.9). -/
def Block.orphan (s : Block) (mine : XOrigin → Bool) : Block :=
  let gone (t : Xact) : Xact := if mine t.origin then { t with origin := (t.origin.part.map XOrigin.orphan).getD .none } else t
  { s with xu := { s.xu with outs := s.xu.outs.map gone } }

/-- Lists of a channel that core `i` posted end DISCARDED, unsignalled (Table 14.9). -/
def Block.discardOf (s : Block) (p j ch i : Nat) : Block :=
  let c := s.chan p j ch
  let mine := c.lists.filter fun l => l.core = i
  if mine.isEmpty then s
  else
    let own (k : Nat) : Bool := (descAt c.lists k).any fun l => decide (l.core = i)
    let head := own c.out.length
    let s := s.logN (.dma p j) 6 ((mine.map fun l => l.count - l.next).sum)
    let s := if head && c.state = .parked then s.dropRecs p j ch else s
    let gone := ((c.out ++ c.cur.toList).zipIdx.filter fun e => own e.2).map fun e => e.1.id
    let s := s.orphan fun o => match o with
      | .desc q k h id => q = p && k = j && h = ch && gone.contains id
      | .descRead q k h id _ _ _ => q = p && k = j && h = ch && gone.contains id
      | _ => false
    (s.modChan p j ch fun c =>
      { c with lists := c.lists.filter (fun l => l.core ≠ i), out := (c.out.zipIdx.filter fun e => !own e.2).map (·.1),
               cur := if head then none else c.cur, lastStatus := 7,
               state := if head && c.state = .parked then .normal else c.state }).drainCheck p j

/-- Updates that a core's slots have sent go on without a slot to tell (Table 14.9). -/
def Block.goneUpds (s : Block) (p i : Nat) : Block :=
  let f (u : SyncUpd) : SyncUpd := match u.src with
    | .instr q c sl _ lc job => if q = p ∧ c = i then { u with src := .gone c sl lc job } else u
    | _ => u
  { s with syncs := smMapVals {} s.syncs fun _ y => { y with inflight := y.inflight.map f } }

/-- One core is reset: both slots with their bindings (CORE_BIND resets to 0, Table 3.16; assumption log 60), engine, memory. -/
def Block.resetCore (s : Block) (p i : Nat) : Block :=
  let s := (s.patrolAbandon p i).goneUpds p i
  let s := (s.modSlot p i 0 fun _ => {}).modSlot p i 1 fun _ => {}
  let s := s.modCore p i fun _ => { inReset := true }
  let s := { s with ram := s.ram.zero (coreBase p i) 0x80000 }
  let s := (List.range 4).foldl (fun s e => (s.discardOf p (i / 17 * 4 + e) 0 i).discardOf p (i / 17 * 4 + e) 1 i) s
  let s := s.modSyn p fun y =>
    { y with ctrWaits := smMapVals [] y.ctrWaits fun _ l => l.filter fun w => w.core ≠ i,
             barWaits := smMapVals [] y.barWaits fun _ l => l.filter fun w => w.core ≠ i }
  let s := s.orphan fun o => match o with
    | .core q c _ => q = p && c = i
    | .amo q c _ _ _ => q = p && c = i
    | .fetch q c _ _ => q = p && c = i
    | _ => false
  (s.resetPage (.core p i)).resetPage (.mxe p i)

/-- A cluster's memory and engines are reset with their channels. -/
def Block.resetCluster (s : Block) (p c : Nat) : Block :=
  let s := (List.range 17).foldl (fun s k => s.resetCore p (17 * c + k)) s
  let s := { s with ram := s.ram.zero (clusterBase p c) 0x800000 }
  let s := (List.range 4).foldl (fun s e =>
    let j := 4 * c + e
    let n := (s.eng p j).pri.left + (s.eng p j).bf.left
    let s := (s.logN (.dma p j) 6 n).modEng p j fun x => { failed := x.failed, substitute := x.substitute }
    s.resetPage (.dma p j)) s
  let s := s.modMmu p fun m =>
    { m with recs := m.recs.filter (fun r => r.held || r.engine / 4 ≠ c), waiting := m.waiting.filter (fun r => r.held || r.engine / 4 ≠ c) }
  let s := s.orphan fun o => match o with
    | .desc q j _ _ => q = p && j / 4 = c
    | .descRead q j _ _ _ _ _ => q = p && j / 4 = c
    | _ => false
  (s.resetPage (.clus p c)).invalsAll

/-- What of a partition's MMU belongs to its saved image: the records held with it and the responses that wait for its restore (R180). -/
def Mmu.imaged (m : Mmu) : Mmu :=
  let recs := m.recs.filter (·.held)
  { recs := recs, waiting := m.waiting.filter (·.held), deferred := m.deferred.filter fun e => recs.any fun r => r.id = e.1,
    nextId := m.nextId }

/-- The partition's compute is reset (Table 14.10). The active maps and PART_CTL stay (Table 14.8); nothing of the jobs bound runs on
(Table 14.9, assumption log 60). A save in progress leaves no image in its slot (Table 14.15); the records held with images stay pending
with them (R180). Barriers keep GEN (DESIGN CHOICE, assumption log 211). -/
def Block.resetPart (s : Block) (p : Nat) : Block :=
  let again := if (s.part p).commit then s.regs.filter fun e =>
    decide ((Page.ephP p).addr 0x040 ≤ e.1) && decide (e.1 < (Page.ephP p).addr 0x200) && decide (e.1 ≠ (Page.ephP p).addr 0x048) else []
  let s := if (s.part p).state = .saving ∧ (s.imageByte (s.saveBase p) (2 ^ 27)).isSome then
      s.tierWrite (s.saveBase p + 2 ^ 27) (leBytes 8 0) else s
  let s := s.collDrop p
  let s := (List.range 9).foldl (fun s c => s.resetCluster p c) s
  let s := (s.modMmu p Mmu.imaged).resetPage (.mmu p)
  let s := s.modSyn p fun y => { bars := smMapVals {} y.bars fun _ z => { gen := z.gen }, inflight := y.inflight }
  let s := (List.range 16).foldl (fun s j => s.resetPage (.ctr p j)) (s.resetPage (.sync p))
  let s := (List.range 64).foldl (fun s q => (s.modQueue p q fun _ => {}).resetPage (.coll p q)) s
  let s := s.resetPage (.ephP p)
  let s := s.orphan fun o => match o with
    | .signal q => q = p
    | .coll q _ _ _ _ => q = p
    | _ => false
  let s := s.modColl fun c => { c with outbox := c.outbox.filter fun e => e.1 ≠ p, mism := c.mism.filter fun e => e.1 ≠ p }
  let s := s.modPart p fun q =>
    { q with blank := true, commit := false, commitDue := false, state := .resetting, deferOver := false,
             recommit := again,
             bfStopDue := false, bfHeld := false, behind := 0, late := false, slipped := false, atBoundary := true }
  ((s.modHp p fun h => { h with mask := 0, openAt := 15, departs := [], trim := 0, trimUs := 0 }).setStep p 32
    |>.modHp p fun h => { h with volt := none }).setUncal p true

/-- PART_RESET's fields after a write of `v` (Table 14.16): LEVEL 3 takes the default, INDEX is clamped against the LEVEL
written. -/
def partResetFields (v : Nat) : Nat × Nat :=
  let l := if bits v 24 2 = 3 then 0 else bits v 24 2
  let i := bits v 0 8
  (l, if l = 0 then Nat.min i 152 else if l = 1 then Nat.min i 8 else i)

/-- PART_RESET's RW fields written with `v` (R382). -/
def Block.partResetPut (s : Block) (p v : Nat) : Block :=
  let (l, i) := partResetFields v
  let s := if (l, i) = (bits v 24 2, bits v 0 8) then s else s.clamped (.part p) 0x044
  s.setReg (.part p) 0x044 (l * 2 ^ 24 + i)

/-- PART_RESET.GO written 1 (R382): the reset starts at the LEVEL and INDEX that the register holds. A reset of something that carries
a bound job reports a job fault, for each job bound. -/
def Block.partResetGo (s : Block) (p : Nat) : Block :=
  let l := s.fld (.part p) 0x044 24 2
  let i := s.fld (.part p) 0x044 0 8
  if (s.part p).resetGo then s
  else
    let s := s.modPart p fun q => { q with resetGo := true, resetLvl := l }
    match l with
    | 0 =>
      let s := (s.jobsAt p i).foldl (fun s x => s.jobFault p 0x0B x.1 i x.2) s
      (s.resetCore p i).log (.part p) 4
    | 1 =>
      let jobs := ((List.range 17).flatMap fun k => (s.jobsAt p (17 * i + k)).map (·.1)).eraseDups
      let s := jobs.foldl (fun s job => s.jobFault p 0x0D job i 0x7FF) s
      (s.resetCluster p i).log (.part p) 5
    | _ =>
      let s := (s.part p).jobs.foldl (fun s job => s.jobFault p 0x0C job p 0x7FF) s
      (s.resetPart p).log (.part p) 6

/-- The word of a PART_RESET write that asks for a level and an index. -/
def resetWord (level idx : Nat) : Nat := 2 ^ 31 + level * 2 ^ 24 + idx

/-- The core-resident part of a compute-core image: at most 256 KiB, whose bytes, length and places are the image's own (R406; assumption
log 196). -/
def resident (img : SMap Nat) : List Nat :=
  (List.range ((Config.coreImage img 0).toNat % 262145)).map fun k => (Config.coreImage img (3 + k)).toNat % 256

/-- Partition `p` runs the compute-core image of bank `b`: its core-resident part lies in the memory of every working cluster and core
(R406, Table 15.5). -/
def Block.loadPartCores (s : Block) (p b : Nat) : Block :=
  let img := (if b = 0 then s.flash.bankA else s.flash.bankB).units
  let bs := resident img
  let inCore := (Config.coreImage img 1).toNat % (0x80000 - bs.length + 1)
  let inClus := (Config.coreImage img 2).toNat % (0x800000 - bs.length + 1)
  let r := ((List.range 9).filter (s.part p).clusterOk).foldl (fun r c => r.write (clusterBase p c + inClus) bs false) s.ram
  let r := ((List.range 153).filter (s.part p).coreOk).foldl (fun r i => r.write (coreBase p i + inCore) bs false) r
  { s with ram := r, boot := { s.boot with partBank := setBits s.boot.partBank p 1 b, runPart := smPut [] s.boot.runPart p img } }

/-- RESET_COMPLETE: the reset has finished, for a partition with the cores that its quick check failed (R383). Compute-core
firmware that awaits a partition reset is loaded (R413). -/
def Block.resetDone (s : Block) (p : Nat) (bad : List Nat) : Block :=
  if !(s.part p).resetGo then s
  else
    let whole := decide (2 ≤ (s.part p).resetLvl)
    let s := (List.range 153).foldl (fun s i =>
      if (s.core p i).inReset then s.modCore p i fun k => { k with inReset := false } else s) s
    let s := s.modPart p fun q => { q with resetGo := false, state := if whole then .normal else q.state }
    let s := if whole then
        let s := bad.foldl (fun s i => s.markCore p i) s
        let s := if decide (((List.range 9).filter (s.part p).clusterOk).length < 8) then s.partLost p else s
        let s := if bit s.boot.parts p then
            ({ s with boot := { s.boot with parts := clearBit s.boot.parts p } }.loadPartCores p s.boot.next).raise .boot 3
              |>.log .boot 5
          else s
        ((s.goStep p true).commitAgain p).repairsDue p
      else s
    s.raise (.part p) 3

/-! Pre-emption (R180, R204, R385). -/

/-- PART_PREEMPT: PART_CTL.PREEMPT written 1. Lanes with work outstanding defer it from the next frame boundary on (R287, R385). -/
def Block.partPreempt (s : Block) (p : Nat) : Block :=
  if (s.part p).preempt || (s.part p).state ≠ .normal then s
  else s.askPreempt p

/-- A core's backfill slot stops for good: its attempt is discarded, its vector registers saved, the primary's restored. -/
def Block.toPrimary (s : Block) (p i : Nat) : Block :=
  match (s.core p i).ctx with
  | .primary => s
  | .switching true => s.modCore p i fun k => { k with ctx := .primary }
  | .switching false => (((s.saveV p i 1).restoreV p i 0)).modCore p i fun k => { k with ctx := .primary }
  | .backfill => ((((s.bfStop p i).saveV p i 1).restoreV p i 0)).modCore p i fun k => { k with ctx := .primary }

/-- Channel `ch` of engine `j` stops at an element boundary to be saved: it counts if it holds lists and has not been saved or stopped
before (R204, R207). A parked one stays parked (R206). -/
def Block.saveChan (s : Block) (p j ch : Nat) : Block :=
  let c := s.chan p j ch
  let runs := c.state = .normal || (c.state = .parked && !(ch = 1 && (s.part p).bfHeld))
  let s := if runs && !c.lists.isEmpty then s.log (.dma p j) 11 else s
  if c.state = .normal then s.modChan p j ch fun c => { c with state := .saved } else s

/-- A partition's pre-emption begins: issue stops, attempts are discarded, channels stop at element boundaries (R146, R204). -/
def Block.preemptPart (s : Block) (p : Nat) : Block :=
  let s := s.abortNow p
  let s := (List.range 153).foldl (fun s i =>
    if (s.slot p i 0).bound || (s.slot p i 1).bound then
      (s.toPrimary p i).modSlot p i 0 fun t => { t with mq := t.mq.map fun e =>
        if e.started && !e.arrayDone then
          { e with inPass := false, rung := 0, held := [], heldPois := [], pre := [],
                   restart := e.restart || !(decide (e.rung = 0) && e.held.isEmpty) }
        else { e with pre := [] } }
    else s) s
  let s := (List.range 36).foldl (fun s j => (s.saveChan p j 0).saveChan p j 1) s
  s.modPart p fun q => { q with state := .saving, deferOver := false }

/-- The partitions whose pre-emption begins with that of partition `p`. -/
def Block.preempting (s : Block) (p : Nat) : List Nat :=
  (s.kin p).filter fun q => (s.part q).preempt && ((s.part q).state = .normal || (s.part q).state = .preemptDeferred)

/-- PREEMPT_BEGIN: at the frame boundary the job of partition `p` stops in all its partitions of the package (R204). A deferral lasts
while lanes of one of them are busy, at most DEFER_TICKS (R287). The reset of a poisoned package comes first (Table 14.15). -/
def Block.preemptBegin (s : Block) (p : Nat) : Block :=
  let ps := s.preempting p
  if !ps.contains p || s.poisonTick || s.warmDue || ps.any (fun x => !(s.part x).atBoundary || (s.part x).commit) then s
  else if ps.any fun x => s.lanesBusy x && !(s.part x).deferOver then
    ps.foldl (fun s x => if (s.part x).state = .preemptDeferred then s
      else (s.modPart x fun q => { q with state := .preemptDeferred }).log (.coll x 0) 15) s
  else ps.foldl Block.preemptPart s

/-- Waiters with their core numbers mapped. -/
def mapWaiters (f : Nat → Nat) (m : SMap (List CtrWaiter)) : SMap (List CtrWaiter) :=
  m.map fun e => (e.1, e.2.map fun w => { w with core := f w.core })
def mapBarWaiters (f : Nat → Nat) (m : SMap (List BarWaiter)) : SMap (List BarWaiter) :=
  m.map fun e => (e.1, e.2.map fun w => { w with core := f w.core })

/-- A channel with the cores of its lists mapped. -/
def Chan.mapCores (c : Chan) (f : Nat → Nat) : Chan := { c with lists := c.lists.map fun l => { l with core := f l.core } }

/-- The number that stands there; 0, which names nothing, where it cannot be read whole. -/
def Block.getSerial (s : Block) (base : Nat) : Nat :=
  if (s.imageByte base (2 ^ 27)).isSome && s.canAccess (base + 2 ^ 27) 8 && !s.memPoisoned (base + 2 ^ 27) 8 then leNat (s.memBytes (base + 2 ^ 27) 8) else 0

/-- The controller's copies after it has read, or written (`w`), the lines of `blocks` check blocks from block `first` on, in order: the
last 64 used stay (R163). -/
def Capc.sweep (c : Capc) (first blocks : Nat) (w : Bool) : Capc :=
  let last := (List.range (Nat.min 64 blocks)).map fun k => first + blocks - 1 - k
  let was (b : Nat) : Bool := c.checks.any fun e => decide (e.1 = b) && e.2
  { c with checks := (last.map (fun b => (b, w || was b)) ++ c.checks.filter fun e => !last.contains e.1).take 64 }

/-- Lines of the image at `base` written, or read, at each capacity controller in service: the lines, the markers among them (R168), and
the check blocks that miss in the controller's copies (R163). -/
def Block.imageLines (s : Block) (base : Nat) (w : Bool) : Block :=
  let n := s.tiers.capN
  if base < 0x10000000000 then s
  else (List.range n).foldl (fun s r =>
    let d := s.tiers.capDev r
    let lo := (base - 0x10000000000) / 128
    let upto (x : Nat) : Nat := (Nat.min x (n * 62 * 2 ^ 23) + n - 1 - r) / n
    let a := upto lo
    let z := upto (lo + 129 * 2 ^ 13)
    let marks := (s.ram.poison.filter fun e =>
      (s.tiers.inImage base e.1).isSome && decide (2 ^ 40 + d * 2 ^ 36 ≤ e.1) && decide (e.1 < 2 ^ 40 + (d + 1) * 2 ^ 36)).map (·.1)
    let first := a / 31
    let blocks := if a < z then (z - 1) / 31 + 1 - first else 0
    let held := ((s.capc d).checks.filter fun e => decide (first ≤ e.1) && decide (e.1 < first + blocks)).length
    let s := s.modCapc d fun c => c.sweep first blocks w
    let s := s.logN (.capc d) 5 (blocks - held)
    if w then (s.modCapc d fun c => { c with wrLines := c.wrLines + (z - a) }).logN (.capc d) 2 marks.length
    else marks.foldl (fun s m => (s.log (.capc d) 3).capErr d 2 0xFF (m - 2 ^ 40 - d * 2 ^ 36))
      (s.modCapc d fun c => { c with rdLines := c.rdLines + (z - a) })) s

/-- The core and cluster memories of the partition written to the image at `base`. A line that a poisoned SRAM word reaches is written
with its marker (R168), and the word is observed (R376). What of an image at `base` lies outside the capacity tier is not written (DESIGN
CHOICE, assumption log 207). -/
def Block.saveMem (s : Block) (p base : Nat) : Block :=
  let s := if ((s.part p).imageRanges p).any fun x => !(smRange s.ram.poison x.2.2 (x.2.2 + x.2.1)).isEmpty then
      s.observePoison (.part p) else s
  let out (n : Nat) : Bool := (s.tiers.inImage base n).isNone
  let r : Ram := { mem := s.ram.mem.filter fun e => out e.1, poison := s.ram.poison.filter fun e => out e.1 }
  let rs := (s.part p).imageRanges p
  let r := rs.foldl (fun r x => (smRange s.ram.mem x.2.2 (x.2.2 + x.2.1)).foldl (fun (r : Ram) e =>
    match s.imageByte base (x.1 + (e.1 - x.2.2)) with
    | some h => { r with mem := smPut 0 r.mem h e.2 }
    | none => r) r) r
  let r := rs.foldl (fun r x => (smRange s.ram.poison x.2.2 (x.2.2 + x.2.1)).foldl (fun (r : Ram) e =>
    match s.imageByte base (x.1 + (e.1 - x.2.2)) with
    | some h => r.mark (h / 128 * 128)
    | none => r) r) r
  { s with ram := r }.imageLines base true

/-- The memories of the image at `base` put back under the present maps of partition `p`. The words of a line that holds the marker are
poisoned, and observed (R376). -/
def Block.loadMem (s : Block) (p base : Nat) : Block :=
  let s := if s.ram.poison.any fun e => (s.tiers.inImage base e.1).isSome then s.observePoison (.part p) else s
  let q := s.part p
  let r := (q.imageRanges p).foldl (fun r x => r.zero x.2.2 x.2.1) s.ram
  let home (n : Nat) : Option Nat := (s.tiers.inImage base n).bind (q.imageHome p)
  let r := s.ram.mem.foldl (fun (r : Ram) e => match home e.1 with
    | some a => { r with mem := smPut 0 r.mem a e.2 }
    | none => r) r
  let r := s.ram.poison.foldl (fun (r : Ram) e => match home e.1 with
    | some a => (List.range 16).foldl (fun r k => r.mark (a + 8 * k)) r
    | none => r) r
  { s with ram := r }.imageLines base false

/-- Counter `n`, or barrier `n`, of a partition belongs to the share of slot `sl` (R209). -/
def Block.ctrMine (s : Block) (p sl n : Nat) : Bool := decide (n < 4096 - s.bfCtrs p) = decide (sl = 0)
def Block.barMine (s : Block) (p sl n : Nat) : Bool := decide (n < 256 - s.bfBars p) = decide (sl = 0)

/-- The image's side of the job `job` that slot `sl` of a partition has. -/
def Block.takeSide (s : Block) (p sl job : Nat) : ImageSide :=
  let q := s.part p
  let cores := q.places
  let y := s.syn p
  let logical (i : Nat) : Nat := ((cores.find? fun e => e.2.1 = i).map (·.1)).getD 0
  { job := job,
    slots := cores.map fun e => (e.1, s.slot p e.2.1 sl),
    chans := (List.range 32).filterMap fun n => (q.cluster (n / 4)).map fun pc => (n, (s.chan p (4 * pc + n % 4) sl).mapCores logical),
    ctrs := y.ctrs.filter fun e => s.ctrMine p sl e.1,
    bars := y.bars.filter fun e => s.barMine p sl e.1,
    ctrWaits := mapWaiters logical (y.ctrWaits.filter fun e => s.ctrMine p sl e.1),
    barWaits := mapBarWaiters logical (y.barWaits.filter fun e => s.barMine p sl e.1) }

/-- The other parts of the image of a partition. -/
def Block.takeImage (s : Block) (p : Nat) : Image :=
  let q := s.part p
  { s.takeSide p 0 ((q.bindP.map (·.1)).getD 0) with
    home := p,
    vregs := q.places.map fun e => (e.1, (s.core p e.2.1).vregs),
    queues := (List.range 64).map fun n => (n, s.queue p n),
    bf := (q.jobOf 1).map (s.takeSide p 1) }

/-- The fault records of the partition's jobs stay pending with the image (R180): held, their engine by its logical name. -/
def Block.holdRecs (s : Block) (p : Nat) : Block :=
  let q := s.part p
  let logical (j : Nat) : Nat := (((List.range 8).find? fun c => q.cluster c = some (j / 4)).getD (j / 4)) * 4 + j % 4
  let hold (r : FaultRec) : FaultRec := if !r.held then { r with held := true, engine := logical r.engine } else r
  s.modMmu p fun m => { m with recs := m.recs.map hold, waiting := m.waiting.map hold }

/-- The held records of job `job` and the responses that wait for them move from the MMU of partition `from'` to that of `p` (R180). A
record there that has the same ID stays too, and a response finds the older one (DESIGN CHOICE, assumption log 208). -/
def Block.moveRecs (s : Block) (from' p job : Nat) : Block :=
  if from' = p then s
  else
    let m := s.mmu from'
    let mine (r : FaultRec) : Bool := r.held && decide (r.job = job)
    let ids := (m.recs.filter mine).map (·.id)
    let s := s.modMmu from' fun m =>
      { m with recs := m.recs.filter (fun r => !mine r), waiting := m.waiting.filter (fun r => !mine r),
               deferred := m.deferred.filter fun e => !ids.contains e.1 }
    s.modMmu p fun z =>
      { z with recs := z.recs ++ m.recs.filter mine, waiting := z.waiting ++ m.waiting.filter mine,
               deferred := z.deferred ++ m.deferred.filter fun e => ids.contains e.1 }

/-- The held records of job `job` stand for channels again, by the present maps. -/
def Block.freeRecs (s : Block) (p job : Nat) : Block :=
  let q := s.part p
  let put (r : FaultRec) : FaultRec :=
    if r.held && decide (r.job = job) then
      { r with held := false, engine := ((q.cluster (r.engine / 4)).getD (r.engine / 4)) * 4 + r.engine % 4 } else r
  s.modMmu p fun m => { m with recs := m.recs.map put, waiting := m.waiting.map put }

/-- PREEMPT_DONE: every transaction has settled and the image is written; `late`: not within 40 ms (R385). The backfill job is held with
the primary until the restore (R204; assumption log 137). -/
def Block.preemptDone (s : Block) (p : Nat) (late : Bool) : Block :=
  if (s.part p).state ≠ .saving || s.partBusyOut p || s.poisonTick || s.warmDue then s
  else
    let n := s.images.length + 1
    let s := { (s.saveMem p (s.saveBase p)).putSerial (s.saveBase p) n with images := s.images ++ [(n, s.takeImage p)] }
    let s := ((s.stopSlots p 0 .held).stopSlots p 1 .held).holdRecs p
    let s := if ((s.part p).jobOf 1).isSome then s.modPart p fun q => { q with bfHeld := true } else s
    let s := (s.modPart p fun q => { q with state := .saved, preempt := false }).raise (.part p) 1
    let s := s.log (.part p) 2
    (if late then s.log (.part p) 13 else s).repairsDue p

/-- PART_RESTORE: PART_CTL.RESTORE written 1. -/
def Block.partRestore (s : Block) (p : Nat) : Block := s.modPart p fun q => { q with restore := true }

/-- A saved channel goes on from its boundary (R204); a parked one stays parked. -/
def Chan.wake (c : Chan) : Chan := if c.state = .saved then { c with state := .normal } else c

/-- A queue put back from an image (R287). What has come for the job while it was pre-empted in place stays: the queue that is still bound
to it is the one that was saved, with its arrivals. A queue bound anew since is the saved one again. -/
def Block.putQueue (s : Block) (p job : Nat) (e : Nat × CQueue) : Block :=
  s.modQueue p e.1 fun c => if c.bound && e.2.bound && decide (c.job = job) && decide (c.binds = e.2.binds) then c else e.2

/-- Entries of one slot's share put beside those of the other, `mine` telling which number is whose: the primary's are the lower ones. -/
def shareJoin {α : Type} (sl : Nat) (mine : Nat → Bool) (new old : List (Nat × α)) : List (Nat × α) :=
  let rest := old.filter fun e => !mine e.1
  if sl = 0 then new ++ rest else rest ++ new

/-- An image's side of a job put back into slot `sl` of partition `p` under its present maps. -/
def Block.putSide (s : Block) (p sl : Nat) (g : ImageSide) : Block :=
  let q := s.part p
  let physical (n : Nat) : Nat := (q.coreAt (n / 16) (n % 16)).getD 0
  let s := q.places.foldl (fun s e =>
    let t := smGet {} g.slots e.1
    s.modSlot p e.2.1 sl fun o =>
      { t with bound := o.bound, job := o.job, lcore := o.lcore, stop := if t.stop = .held then .running else t.stop }) s
  let s := g.chans.foldl (fun s e => match q.cluster (e.1 / 4) with
    | some pc => (s.modChan p (4 * pc + e.1 % 4) sl fun _ => e.2.wake.mapCores physical).freshHeld p (4 * pc + e.1 % 4) sl
    | none => s) s
  s.modSyn p fun y =>
    { y with ctrs := shareJoin sl (s.ctrMine p sl) g.ctrs y.ctrs, bars := shareJoin sl (s.barMine p sl) g.bars y.bars,
             ctrWaits := shareJoin sl (s.ctrMine p sl) (mapWaiters physical g.ctrWaits) y.ctrWaits,
             barWaits := shareJoin sl (s.barMine p sl) (mapBarWaiters physical g.barWaits) y.barWaits }

/-- The backfill job of an image, where it is bound beside the restored job. -/
def Block.sideBack (s : Block) (p : Nat) (g : Image) : Option ImageSide :=
  g.bf.filter fun b => decide ((s.part p).jobOf 1 = some b.job)

/-- Image `g`, whose memories lie at `base`, put back into partition `p` under its present maps. -/
def Block.putImage (s : Block) (p base : Nat) (g : Image) : Block :=
  let s := (s.loadMem p base).moveRecs g.home p g.job
  let s := s.putSide p 0 g.toImageSide
  let s := match s.sideBack p g with
    | some b => (s.moveRecs g.home p b.job).putSide p 1 b
    | none => s
  let s := (s.part p).places.foldl (fun s e => s.modCore p e.2.1 fun k => { k with vregs := smGet [] g.vregs e.1 }) s
  g.queues.foldl (fun s e => s.putQueue p g.job e) s

/-- The image at MMU_SAVE of partition `p`, if it is the bound job's. -/
def Block.imageAt (s : Block) (p : Nat) : Option Image :=
  (s.images.find? fun e => decide (e.1 = s.getSerial (s.saveBase p)) && decide ((s.part p).jobOf 0 = some e.2.job)).map (·.2)

/-- A restore that finds no image of its job at MMU_SAVE has read the number that stands there, if it lies in the capacity tier. -/
def Block.serialRead (s : Block) (p : Nat) : Block :=
  let a := s.saveBase p + 2 ^ 27
  if (s.imageByte (s.saveBase p) (2 ^ 27)).isSome && s.canAccess a 8 then
    let (_, pois, s) := s.memRead a 8
    if pois then s.observePoison (.part p) else s
  else s

/-- RESTORE_DONE: the image at MMU_SAVE is put back, responses that came meanwhile are applied (R180, R385). Without an image
of the bound job there, nothing is put back. -/
def Block.restoreDone (s : Block) (p : Nat) : Block :=
  if !(s.part p).restore then s
  else
    let g := s.imageAt p
    let s := match g with
      | some e => s.putImage p (s.saveBase p) e
      | none => s.serialRead p
    let s := ((List.range 36).foldl (fun s j => s.modChan p j 1 Chan.wake) s).modPart p fun q => { q with bfHeld := false }
    let s := (List.range 153).foldl (fun s i =>
      if (s.slot p i 1).stop = .held then s.modSlot p i 1 fun t => { t with stop := .running } else s) s
    let abort := g.any (·.abort)
    let s := match (s.part p).jobOf 0 with
      | some job => (s.markImages job false).freeRecs p job
      | none => s
    let s := match (s.part p).jobOf 1 with
      | some job => s.freeRecs p job
      | none => s
    let held (id : Nat) : Bool := (s.mmu p).recs.any fun r => r.id = id && r.held
    let due := (s.mmu p).deferred.filter fun e => !held e.1
    let s := (s.modPart p fun q => { q with state := .normal, restore := false, abort := q.abort || abort }).modMmu p fun m =>
      { m with deferred := m.deferred.filter fun e => held e.1 }
    let s := due.foldl (fun s e => s.mmuRespond p e.1 e.2) s
    ((s.fqDrain p (s.mmu p).waiting.length).raise (.part p) 2).log (.part p) 3

/-! Class B recovery (R387 to R390). -/

/-- A package follows the planner with the lowest PKGN that has sent it a plan for the job (R333), and another once that one's package is
lost (R387). -/
def Block.follows (s : Block) (job : Nat) (plan : RecoveryPlan) : Bool :=
  match plan.planner with
  | some g => smGet 0 s.eph.planners job = 0 || decide (g.toNat + 1 ≤ smGet 0 s.eph.planners job) ||
      plan.lost.any fun x => decide (x.toNat + 1 = smGet 0 s.eph.planners job)
  | none => true

/-- Another planner's plan for the job has been followed and is discarded for this one (R333). -/
def Block.otherPlan (s : Block) (job : Nat) (plan : RecoveryPlan) : Bool :=
  match plan.planner with
  | some g => decide (smGet 0 s.eph.planners job ≠ 0) && decide (g.toNat + 1 < smGet 0 s.eph.planners job)
  | none => false

/-- A member table of a plan names, beside the packages of the job's image, only replacements that R329 gives. -/
def Block.tableOk (s : Block) (job : Nat) (plan : RecoveryPlan) (t : List (BitVec 16 × Fin 12)) : Bool :=
  match s.eph.jobs.find? fun e => e.1.job = job with
  | some (j, _) => t.all fun e => s.isSelf e.1.toNat || j.members.contains e.1.toNat || plan.picks e.1.toNat
  | none => true

/-- The re-mirrorings under a plan that is followed: those of another planner's plan for the job are discarded, and the plan's own begins,
with a replacement that R329 allows. -/
def Block.keptMirrors (s : Block) (job : Nat) (plan : RecoveryPlan) : List Mirror :=
  let ms := if s.otherPlan job plan then s.mirrors.filter fun m => s.ringJob m.ring ≠ job else s.mirrors
  match plan.mirror with
  | some (r, g) => if plan.picks g.toNat then (ms.filter fun m => m.ring ≠ r.val) ++ [{ ring := r, target := g.toNat }] else ms
  | none => ms

/-- CLASS_B_RECOVERY: the planner has declared a loss; this package aborts its part of the job (R369), and where it is the
survivor of a shard, begins to mirror it with an empty bitmap (R388, R389). The planner counts each shard whose new partner shares a
feed, and raises PARTNER_DEGRADED (R329). The job's partitions are uncalibrated in the recovery (R353). The member tables take the ranks handed over (R263, R387); those that a discarded plan had written are the image's again first. A plan
that the package does not follow changes nothing (R333). -/
def Block.classB (s : Block) (job : Nat) (plan : RecoveryPlan) : Block :=
  if !s.follows job plan then s
  else
  let ms := s.keptMirrors job plan
  let old := if s.otherPlan job plan then ((s.eph.jobs.find? fun e => e.1.job = job).map (·.1.tables)).getD [] else []
  let new := plan.tables.filter fun t => s.tableOk job plan t.2
  let s := (s.partsOf job).foldl (fun s p => ((s.partAbort p).modHp p fun h => { h with recov := true }).setUncal p true) s
  let s := { s with mirrors := ms, eph := { s.eph with planners := match plan.planner with
    | some g => smPut 0 s.eph.planners job (g.toNat + 1)
    | none => s.eph.planners } }
  let n := (plan.shards.filter Reshard.degraded).length
  let s := if n = 0 then s else (s.logN .eph 9 n).raise .eph 4
  let s := old.foldl (fun s t => s.putTable t.1 t.2) s
  new.foldl (fun s t => s.putTable t.1.toNat (t.2.map fun e => (e.1.toNat, e.2.val))) s

/-- The copy window is open: a step of the ring has ended, no step is being updated, and no CS.VOTE has been given for a step after
the last one (R389). -/
def Block.copyWindow (s : Block) (r : Nat) : Bool :=
  (match (s.ring r).step with
    | none => true
    | some x => decide (x.phase = .vote)) &&
  match (s.ring r).voted with
  | none => false
  | some (g, o) => s.coll.votes.all fun v => v.job ≠ s.ringJob r || v.group ≠ g || (v.slots.isEmpty && v.launch.isNone) ||
      !(decide (0 < (v.ordinal + 2 ^ 32 - o) % 2 ^ 32) && decide ((v.ordinal + 2 ^ 32 - o) % 2 ^ 32 < 2 ^ 31))

/-- The writes of `bs` to package physical address `a` of package `g`, 2,048 bytes at most each, for the ring's copy `tag`. -/
def Block.mirrorWrite (s : Block) (g r tag : Nat) : Nat → Nat → List Nat → Block × Nat
  | 0, _, _ => (s, 0)
  | f + 1, a, bs =>
    if bs.isEmpty then (s, 0)
    else
      let n := pieceLen bs.length a 0
      let k : Pkt := { kind := 2, dst := g, addr := a, data := bs.take n }
      let (s, c) := (s.collSend 0 k (.mirror r tag)).mirrorWrite g r tag f (a + n) (bs.drop n)
      (s, c + 1)

/-- REMIRROR_REGION: region `n` of ring `r`'s list, the next in list order, is copied to the replacement's addresses (R389). Poison that
is read is observed, and the copy is discarded. A replacement that cannot be named is refused, and counted as a result write that failed
(R23, assumption log 170). -/
def Block.remirror (s : Block) (r n master mom1 mom2 work : Nat) : Block :=
  match s.mirrors.find? fun m => m.ring = r with
  | none => s
  | some m =>
    let q := s.ring r
    let (b, pois, s) := s.memRead (s.pair .upd (0x100 + 32 * r) (0x104 + 32 * r) 8 + 64 * ((q.cons + 3) % 4)) 64
    let s := if pois then s.observePoison (.rhost 0) else s
    if !s.copyWindow r || m.cur.isSome || pois || decide (m.due (dF b 0x18 4) ≠ some n) then s
    else if !s.isSelf m.target && !s.reachable m.target then s.log .upd 7
    else
      let (rg, p0, s) := s.memRead (dF b 0x10 8 + 64 * n) 64
      let f := dF rg
      let cnt := f 4 4
      let parts := [(f 0x10 8, 4 * cnt, master), (f 0x18 8, 4 * cnt, mom1)] ++
        (if f 0 1 = 1 then [(f 0x20 8, 4 * cnt, mom2)] else []) ++ (if bit (f 1 1) 0 then [(f 0x30 8, 2 * cnt, work)] else [])
      let (s, bad, got) := if p0 then (s, true, []) else
        parts.foldl (fun (acc : Block × Bool × List (Nat × List Nat)) e =>
          let (bs, bad, s) := acc.1.memRead e.1 e.2.1
          (s, acc.2.1 || bad, acc.2.2 ++ [(e.2.2, bs)])) (s, false, [])
      if bad then s.observePoison (.rhost 0)
      else
        let (s, sent) := got.foldl (fun (acc : Block × Nat) e =>
          let (s, c) := acc.1.mirrorWrite m.target r m.tag (e.2.length / 1024 + 2) e.1 e.2
          (s, acc.2 + c)) (s, 0)
        { s with mirrors := s.mirrors.map fun x =>
            if x.ring = r then { x with tag := m.tag + 1, cur := some (n, sent, false, q.cons) } else x }

/-- A write of ring `r`'s copy `tag` has been answered: when the last is, the region's bit is set if all went well and the copy window
has stayed open since the copy began (R389). -/
def Block.mirrorAck (s : Block) (r tag : Nat) (ok : Bool) : Block :=
  { s with mirrors := s.mirrors.map fun x => match x.cur with
    | some (n, k, bad, cons) =>
      if x.ring = r ∧ x.tag = tag + 1 then
        let bad := bad || !ok || !s.copyWindow x.ring || decide ((s.ring r).cons ≠ cons)
        if k ≤ 1 then { x with cur := none, bitmap := if bad then x.bitmap else smPut false x.bitmap n true }
        else { x with cur := some (n, k - 1, bad, cons) }
      else x
    | none => x }

end Sys2Proof.Machine
end

