-- ==== Sys2Proof/Machine/Boot.lean ====
section
/-! DEFINITION. Bring-up, boot flash, Almanac, licences, firmware banks (spec/15), power states, parks and package resets
(R351, R354 to R361, R377, R384, R446 to R454). -/

namespace Sys2Proof.Machine

/-- The part's unique number. -/
def puid : Nat := (Config.perPart 1000).toNat

def Block.modBoot (s : Block) (f : Boot → Boot) : Block := { s with boot := f s.boot }
def Block.modFlash (s : Block) (f : Flash → Flash) : Block := { s with flash := f s.flash }

/-! The journal (R401, R402). -/

/-- An entry of boot `n` is appended; the journal keeps the last 65,536. -/
def Block.jotAt (s : Block) (n step variant status kind idx detail : Nat) : Block :=
  let e : JEntry := ⟨n, step, variant, status, kind, idx, (s.timeUs - s.boot.bootUs) / 1000, detail, s.flash.jseq⟩
  s.modFlash fun f => { f with journal := (e :: f.journal).take 65536, jseq := (f.jseq + 1) % 2 ^ 32 }

/-- An entry of this boot is appended. -/
def Block.jot (s : Block) (step variant status kind idx detail : Nat) : Block := s.jotAt s.flash.bootNum step variant status kind idx detail

/-- An entry that is an event of R402. -/
def JEntry.event (e : JEntry) : Bool := (decide (0xF0 ≤ e.step) && decide (e.step ≤ 0xF4)) || e.step = 0xF7

/-- Closes a step left STARTED (R402): INTERRUPTED where an event is newer, else FAILED, for the resource that it names, in the boot that
it was started in; the failed step is raised and counted (R419). -/
def Block.closeStarted (s : Block) : Block :=
  let newer := s.flash.journal.takeWhile fun e => !(e.step < 0xF0)
  match s.flash.journal.find? fun e => decide (e.step < 0xF0) with
  | some e =>
    if e.status ≠ 0 then s
    else if newer.any JEntry.event then (s.jotAt e.boot e.step e.variant 5 e.kind e.idx 0).log .boot 1
    else (((s.jotAt e.boot e.step e.variant 2 e.kind e.idx 0).modBoot fun b => { b with failed := e.step }).raise .boot 0).log .boot 0
  | none => s

/-- Failures in a row of a step for a resource, newest outcomes first: a run of the step that names other resources or none ends
the row, as every other outcome does; after INTERRUPTED the step runs normally (R402). -/
def failRun (ok : JEntry → Bool) (step : Nat) (j : List JEntry) : Nat :=
  let xs := j.filter fun e => e.step = step && decide (e.status ≠ 0)
  ((xs.takeWhile fun e => e.status = 2 && xs.any fun x => x.boot = e.boot && x.status = 2 && ok x).filter ok).length

/-! Banks. -/

def Flash.bank (f : Flash) (b : Nat) : Bank := if b = 0 then f.bankA else f.bankB
def Flash.setBank (f : Flash) (b : Nat) (x : Bank) : Flash := if b = 0 then { f with bankA := x } else { f with bankB := x }

/-- Bank `b` is activated: its SVN counts to the highest ever activated, and a bank below that is no longer valid (R412). -/
def Flash.svnUsed (f : Flash) (b : Nat) : Flash :=
  let m := Nat.max f.maxSvn (f.bank b).svn
  let kept (x : Bank) : Bank := { x with valid := x.valid && decide (m ≤ x.svn) }
  { f with maxSvn := m, bankA := kept f.bankA, bankB := kept f.bankB }

/-! The Almanac (R408, R409). -/

/-- The silicon cluster and core index at an apparent position of a partition. -/
def Part.siC (q : Part) (c : Nat) : Nat := q.posC.getD c c
def Part.siK (q : Part) (i : Nat) : Nat := q.posK.getD i i

/-- What the Almanac would say of a partition now. -/
def Block.almPart (s : Block) (p : Nat) : AlmPart :=
  let q := s.part p
  let h := s.hbmc p
  { out := q.marked, memBad := bit s.tiers.stackBad p, conservative := h.conservative, refresh := h.refresh, ways := (s.msc p).retired,
    cores := (List.range 153).foldl (fun m i => smPut false m (q.siK i) (smGet false q.failedCores i)) [],
    mems := (List.range 9).foldl (fun m c => smPut false m (q.siC c) (smGet false q.failedClusters c)) [],
    engines := (List.range 36).foldl (fun m j => smPut false m (4 * q.siC (j / 4) + j % 4) (smGet false q.failedEngines j)) [],
    rows := (smGet ({} : AlmPart) s.boot.alm.parts p).rows }

/-- The lanes of link `n` last marked bad (Table 15.7): those of a mark not written yet, those that are bad now, else those that the Almanac
has. -/
def Block.almLanes (s : Block) (n : Nat) : Nat :=
  let now := (s.link n).rxBad + (s.link n).txBad * 2 ^ 18
  match (s.alm.due.filterMap fun r => match r with
      | .lanes k rx tx => if k = n then some (rx + tx * 2 ^ 18) else none
      | _ => none).getLast? with
  | some x => x
  | none => if now = 0 then smGet 0 s.boot.alm.links n else now

/-- What the Almanac would say now (Table 15.7). -/
def Block.almNow (s : Block) : AlmData :=
  { gen := s.boot.alm.gen + 1, mode := b2n s.alm.mapped, modeNext := s.reg .alm 0x040 % 2, imapNext := s.tiers.imapNext,
    imapCur := s.tiers.imapCur, fullBoot := s.boot.alm.fullBoot, parts := (List.range 12).map fun p => (p, s.almPart p),
    capIn := s.tiers.capIn,
    capSlow := ((List.range 16).filter fun d => (s.capc d).rate ≠ 8533).foldl setBit1 0,
    capRefresh := s.boot.alm.capRefresh,
    links := (List.range 36).map fun n => (n, s.almLanes n),
    hosts := s.boot.alm.hosts, updBad := s.boot.alm.updBad, train := s.boot.alm.train,
    capRows := s.boot.alm.capRows }

/-- Table 15.7 as bytes: copy `a` of the Almanac, with the part's PUID and VCORE curve. Its CRC-32 covers 0x040 to 0x93F. -/
def AlmData.bytes (a : AlmData) : List Nat :=
  let part (p : Nat) : List Nat :=
    let x := smGet ({} : AlmPart) a.parts p
    [b2n (!x.out) + 2 * b2n x.memBad + 4 * b2n x.conservative + 8 * x.refresh, 0] ++ leBytes 2 x.ways ++
      (List.range 9).flatMap (fun c => leBytes 4 (((List.range 17).filter fun k => smGet false x.cores (17 * c + k)).foldl setBit1 0 +
        b2n (smGet false x.mems c) * 2 ^ 17 + ((List.range 4).filter fun e => smGet false x.engines (4 * c + e)).foldl setBit1 0 * 2 ^ 18)) ++
      leBytes 2 x.rows ++ List.replicate 22 0
  let body := (List.range 12).flatMap part ++
    (List.range 16).flatMap (fun d => leBytes 8 (b2n (bit a.capIn d) + 2 * b2n (bit a.capSlow d) + 4 * smGet 0 a.capRefresh d +
      256 * Nat.min 255 (smGet 0 a.capRows d))) ++
    (List.range 36).flatMap (fun n => leBytes 8 (smGet 0 a.links n)) ++ leBytes 32 (a.hosts + b2n a.updBad * 2 ^ 32) ++
    (List.range 12).flatMap (fun p => (List.range 45).flatMap fun n => leBytes 2 (vCurve p n)) ++ List.replicate 8 0
  leBytes 4 0x00010001 ++ leBytes 4 a.gen ++ leBytes 8 puid ++ [a.mode, a.modeNext, a.imapNext, a.imapCur] ++ leBytes 4 (crc32 body) ++
    leBytes 4 a.fullBoot ++ List.replicate 36 0 ++ body

/-- ALMANAC_WRITE: a record is due, or ALM_CTL.WRITE asks: the older copy takes the next generation (R408). -/
def Block.almWrite (s : Block) : Block :=
  let a := s.almNow
  let older0 := match s.flash.alm0, s.flash.alm1 with
    | none, _ => true
    | _, none => false
    | some x, some y => decide (x.gen ≤ y.gen)
  let s := s.modFlash fun f => if older0 then { f with alm0 := some a } else { f with alm1 := some a }
  let s := s.modBoot fun b => { b with alm := a }
  let s := { s with alm := { s.alm with due := [] } }
  (s.raise .alm 1).log .alm 2

/-- The copy in force: valid, of the higher generation (R397). -/
def Flash.almInForce (f : Flash) : Option AlmData :=
  match f.alm0, f.alm1 with
  | some x, some y => if y.gen ≤ x.gen then some x else some y
  | some x, none => some x
  | none, y => y

/-- Indices below `n` with the good ones first, ascending (R409, MAPPED mode). -/
def goodFirst (ok : Nat → Bool) (n : Nat) : List Nat :=
  (List.range n).filter ok ++ (List.range n).filter fun k => !ok k

/-- A partition's marks and positions are set from the Almanac. -/
def Block.loadPart (s : Block) (p : Nat) (a : AlmPart) (mapped : Bool) : Block :=
  let okK (c k : Nat) : Bool := !smGet false a.cores (17 * c + k)
  let okC (c : Nat) : Bool := decide (16 ≤ ((List.range 17).filter (okK c)).length) && !smGet false a.mems c &&
    (List.range 4).any fun e => !smGet false a.engines (4 * c + e)
  let cs := if mapped then goodFirst okC 9 else List.range 9
  let ks := cs.flatMap fun c => (if mapped then goodFirst (okK c) 17 else List.range 17).map (17 * c + ·)
  let s := s.modPart p fun q => { q with
    posC := if cs = List.range 9 then [] else cs, posK := if ks = List.range 153 then [] else ks,
    failedCores := (List.range 153).foldl (fun m i => smPut false m i (smGet false a.cores (ks.getD i i))) [],
    failedClusters := (List.range 9).foldl (fun m c => smPut false m c (smGet false a.mems (cs.getD c c))) [],
    failedEngines := (List.range 36).foldl (fun m j => smPut false m j (smGet false a.engines (4 * cs.getD (j / 4) 0 + j % 4))) [],
    marked := a.out, lost := a.out }
  let s := (List.range 36).foldl (fun s j =>
    let bad := smGet false a.engines (4 * cs.getD (j / 4) 0 + j % 4)
    if bad = (s.eng p j).failed then s else s.modEng p j fun e => { e with failed := bad }) s
  let s := s.modHbmc p fun h => { h with conservative := a.conservative, refresh := a.refresh }
  s.modMsc p fun m => { m with retired := a.ways }

/-- Positions are assigned anew from the marks that CHECK has made at this reset, so that a spare is used (R409, Table 15.4); a partition
out for this boot stays out. -/
def Block.reassign (s : Block) : Block :=
  (List.range 12).foldl (fun s p =>
    let q := s.part p
    (s.loadPart p (s.almPart p) s.alm.mapped).modPart p fun x => { x with lost := q.lost }) s

/-- Stacks out of service: defective ones and those of partitions that are not licensed (R150); a licence for twelve partitions
licenses every one, in service or not. -/
def Block.setStacks (s : Block) : Block :=
  let lic := s.licensedParts
  { s with tiers := { s.tiers with stackOos :=
      ((List.range 12).filter fun p => bit s.tiers.stackBad p || (!s.feat.parts12 && !lic.contains p)).foldl setBit1 0 } }

/-- The O-links follow the licence in force (R227, Table 9.3): a licensed and enabled one leaves DISABLED, another enters it. -/
def Block.licLinks (s : Block) : Block :=
  (List.range 12).foldl (fun s p =>
    let n := 3 * p + 2
    if !s.linkLicensed n then s.setLink n .disabled
    else if (s.link n).state = .disabled ∧ (s.hdr (.lnk n)).enaW ≠ some false then (s.freshLink n).setLink n .detect
    else s) s

/-- The features a licence record grants (Table 15.10). -/
def Licence.feat (l : Licence) : Feat :=
  { olinks := (match l.bits % 4 with
      | 1 => 6
      | 2 => 12
      | _ => 0), span := bit l.bits 2, parts12 := bit l.bits 3, sprint := bit l.bits 4 }

/-- The licence slot in force: the higher serial. -/
def Flash.licInForce (f : Flash) : Option Licence :=
  match f.lic0, f.lic1 with
  | some x, some y => if y.serial ≤ x.serial then some x else some y
  | some x, none => some x
  | none, y => y

/-! Park records (R357, R403). -/

/-- Nonzero Logbook counters in management-offset order, at most 24,568, and how many were cut off. -/
def Block.parkLogs (s : Block) : List (Nat × Nat × Nat) × Nat :=
  let xs := s.logs.map fun e => (e.1 / 256, e.1 % 256, e.2)
  (xs.take 24568, xs.length - 24568)

/-- Outstanding transactions by target and space, at most 4,096 entries, and how many were cut off. -/
def Block.parkTrans (s : Block) : List (Nat × Nat × Nat × Nat × Nat) × Nat :=
  let ks := (s.xu.outs.map fun t => (t.pkt.dst, t.space)).eraseDups
  let xs := ks.map fun k =>
    let ts := s.xu.outs.filter fun t => t.pkt.dst = k.1 && t.space = k.2
    (k.1, k.2, (smGet 0 s.xu.nextTid (spaceKey k.1 k.2) + 65535) % 65536, ts.length, (ts.head?.map (·.pkt.tid)).getD 0)
  (xs.take 4096, xs.length - 4096)

/-- A link at PARK_BEGIN: one that carries data drains as in R248, another that is up is told reason 3 and disabled, and one that is not
up yet is disabled (Table 13.5; assumption log 195). -/
def Block.parkLink (s : Block) (n : Nat) : Block :=
  match (s.link n).state with
  | .linkup | .retry | .sparing | .drainDisable _ => s.setLink n (.drainDisable false)
  | .digest | .quarantine => (s.sendCtl n [9, 3]).setLink n .disabled
  | .drainQuarantine => ((s.sendCtl n [9, 3]).setLink n .disabled).failover n
  | .detect | .train | .align => s.setLink n .disabled
  | .failed | .disabled => s

/-- The park begins (R355, Table 13.5): bubbles, DMA stopped, links drained and told reason 3, then regulators off but VHUB's, the
record being written. -/
def Block.parkStart (s : Block) : Block :=
  let (ls, a) := s.parkLogs
  let (ts, b) := s.parkTrans
  let cause := b2n s.helio.lossPin + 2 * b2n s.helio.lossVin
  let oldView := [s.helio.limitBy, s.actuator]
  let s := (s.modHelio fun h => { h with gauge := .parking, f := 256, limitBy := 6 }).helioEvent 12 11
  let s := s.helioTrace oldView [s.helio.limitBy, s.actuator]
  let s := s.logN .helio 14 (Nat.min (a + b) 0xFFFF)
  let s := s.modBoot fun x => { x with ready := false, park := some { count := s.helio.lossCount, puid := puid, cause := cause, logs := ls, trans := ts, truncated := a + b } }
  ((List.range 36).foldl (fun s n => s.parkLink n) s).parkRails

/-- PARK_BEGIN: a gauge sample shows an estimate at RESERVE (R355). -/
def Block.parkBegin (s : Block) (v q : Nat) : Block :=
  if s.helio.gauge ≠ .riding || s.boot.power ≠ .on then s
  else
    let ok := s.reserveReached v q
    let s := s.gaugeSample v q
    if ok then s.parkStart else s

/-- The bytes of a park record (Table 13.6). -/
def ParkRec.bytes (r : ParkRec) : List Nat :=
  let logs := r.logs.flatMap fun e => leBytes 4 (e.1 * 4096) ++ leBytes 2 e.2.1 ++ leBytes 2 e.2.2
  let trans := r.trans.flatMap fun e => leBytes 2 e.1 ++ [e.2.1, 0] ++ leBytes 2 e.2.2.1 ++ leBytes 2 e.2.2.2.1 ++ leBytes 2 e.2.2.2.2 ++
    List.replicate 6 0
  let padTo (n : Nat) (xs : List Nat) : List Nat := xs ++ List.replicate (n - xs.length) 0
  padTo 0x40 (leBytes 8 r.count ++ leBytes 8 r.puid ++ leBytes 4 r.cause ++ leBytes 4 r.logs.length ++ leBytes 4 r.trans.length ++
    leBytes 4 r.truncated) ++ padTo 196544 logs ++ padTo 65536 trans

/-- A record with a valid commit block. -/
def ParkRec.valid (r : ParkRec) : Bool := r.commit.isSome && decide (r.crc = crc32 r.bytes)

/-- The park record goes to the area with the older commit block, its commit block numbered one above the newer and holding the CRC-32 of
the record (R357). -/
def Flash.putPark (f : Flash) (r : ParkRec) (commit : Bool) : Flash :=
  let seq (x : Option ParkRec) : Nat := match x with
    | some y => (y.commit.map (· + 1)).getD 0
    | none => 0
  let r := { r with commit := if commit then some (Nat.max (seq f.park0) (seq f.park1)) else none, crc := if commit then crc32 r.bytes else 0 }
  if seq f.park0 ≤ seq f.park1 then { f with park0 := some r } else { f with park1 := some r }

/-! Power and package resets. -/

/-- Pages of the always-on domain (R335): HELIO, HELIO[p], VREG, MERID, and the management domain. -/
def keptPage (key : Nat) : Bool :=
  let d := key / 65536
  let blk := key % 256
  d = 0xF || blk = 0x17 || blk = 0x0C || blk = 0x16

/-- A MODE_NEXT that the Almanac does not hold yet takes effect at the reset all the same (R410). -/
def Block.modeKept (s : Block) : Boot :=
  if s.alm.due.any fun r => match r with
    | .mode _ => true
    | _ => false then { s.boot with modeAsked := some (s.reg .alm 0x040 % 2) } else s.boot

/-- The data plane loses its state; the always-on domain, the Logbooks and the boot flash stay (Table 14.8). `mem`: HBM and the capacity
tier keep their contents through self-refresh. -/
def Block.dropData (s : Block) (mem : Bool) : Block :=
  let keepR (e : Nat × Word) : Bool := keptPage (e.1 / 4096) || e.1 = (Page.lnk 0).addr 0x060 || e.1 = (Page.lnk 0).addr 0x064
  { timeUs := s.timeUs,
    pages := (s.pages.map fun e => if keptPage e.1 then e else
      (e.1, { snapEn := e.2.snapEn, logBase := e.2.logBase, snapSeq := e.2.snapSeq })).filter fun e => decide (e.2 ≠ {}),
    regs := s.regs.filter keepR, logs := s.logs, frameBound := s.frameBound.filter fun w => keptPage (w.off / 4096),
    ram := if mem then { mem := smDropRange s.ram.mem (2 ^ 41) (2 ^ 60), poison := smDropRange s.ram.poison (2 ^ 41) (2 ^ 60) } else {},
    merid := s.merid, tiers := s.tiers, helio := s.helio, helioPs := s.helioPs, vregs := s.vregs,
    links := resetLinks.filter fun e => !s.linkLicensed e.1,
    pcie := smMapVals {} s.pcie fun _ x => { perst := x.perst, bars := x.bars }, mgmt := s.mgmt, eyep := { drops := s.eyep.drops },
    images := if mem then s.images else [], alm := { mapped := s.alm.mapped }, feat := s.feat, boot := s.modeKept, flash := s.flash,
    bundle := s.bundle, out := s.out, fv := s.fv }

/-- Every VIN_MAIN regulator is off until a package cold reset; `event` is journalled at the next boot (R351, R446, R447). A park in
progress leaves its record without a commit block (Table 13.8), and the gauge's episode is over: nothing parks any more (R355, R447). -/
def Block.powerOff (s : Block) (event : Option Nat) : Block :=
  let s := match s.boot.park with
    | some r => s.modFlash fun f => f.putPark r false
    | none => s
  let s := s.dropData false
  let s := s.modFlash fun f => { f with owed := f.owed ++ (match event with
    | some e => [e]
    | none => []) }
  let s := (List.range 53).foldl (fun s k => s.modVreg k fun x => { x with on := false }) s
  (s.modHelio fun h => h.endEpisode.exempted).modBoot fun b => { b with power := .off, ready := false, park := none, started := false }

/-- A package cold reset: everything returns to its reset value but the boot flash, its always-on records, and the pins
(Table 14.8). BOOT_CTL and ALM_CTL.RETEST are kept for the boot that R398 and R411 let them steer, and NEXT becomes the active bank (R413;
assumption log 61). -/
def Block.coldState (s : Block) : Block :=
  let kept (e : Nat × Word) : Bool := e.1 = Page.boot.addr 0x040
  { timeUs := s.timeUs, regs := s.regs.filter kept, flash := s.flash, out := s.out, fv := s.fv,
    pcie := smMapVals {} s.pcie fun _ x => { perst := x.perst },
    helio := { tripped := s.helio.tripped, pinLow := s.helio.pinLow },
    boot := { power := .reset, next := s.boot.next, active := if (s.flash.bank s.boot.next).valid then s.boot.next else s.boot.active,
              lastClean := s.boot.lastClean, modeAsked := s.modeKept.modeAsked,
              retest := s.boot.retest || bit (s.reg .alm 0x040) 30 } }

/-- PKG_RST_ASSERT: recognised asserted (R449, R451). A park in progress completes first. -/
def Block.rstAssert (s : Block) : Block :=
  match s.boot.power with
  | .reset => s
  | .on =>
    if s.helio.gauge = .parking then s.modBoot fun b => { b with rstDue := true, rstGone := none }
    else (s.modFlash fun f => { f with owed := f.owed ++ [0xF2] }).coldState
  | .parked => s.modBoot fun b => { b with rstDue := true, rstGone := none }
  | .off => s.coldState
  | .dark => s.coldState

/-- The regulators run, VHUB's alone in a park. -/
def Block.fed (s : Block) : Bool := decide (s.boot.power = .on) || decide (s.boot.power = .parked)

/-- PARK_COMPLETE: record and commit block are written; the package stays off until a cold reset (R357). -/
def Block.parkComplete (s : Block) : Block :=
  match s.boot.park with
  | some r => ((s.modFlash fun f => f.putPark r true).modBoot fun b => { b with park := none }).powerOff (some 0xF3)
  | none => s

/-- THERMTRIP: a sensor has reached 115 °C (R351). -/
def Block.thermtrip (s : Block) : Block :=
  if !s.fed then s
  else ((s.modHelio fun h => { h with tripped := true }).helioEvent 10 15).powerOff (some 0xF4)

/-- FINAL_CUTOFF: VIN_MAIN at or below 9.0 V (R355). -/
def Block.finalCutoff (s : Block) : Block := if s.fed then s.powerOff none else s

/-- VSTBY_LOSS: VSTBY below 3.0 V (R446): THERMTRIP_N and ALERT_N go high-impedance too, and nothing more happens until a cold
reset; one that PKG_RST_N already holds goes on being held. -/
def Block.vstbyLoss (s : Block) : Block :=
  let s := if s.fed then s.powerOff none else s
  let s := s.modHelio fun h => { h with tripped := false, overVolt := false }
  if s.boot.power = .reset then s else s.modBoot fun b => { b with power := .dark, rstDue := false, rstGone := none }

/-- VIN_OVERVOLTAGE: above 13.5 V at two samples (R447). With the regulators off already the always-on domain records it and drives
ALERT_N. -/
def Block.overVoltage (s : Block) : Block :=
  (if s.fed then s.powerOff (some 0xF7) else s.modFlash fun f => { f with owed := f.owed ++ [0xF7] }).modHelio fun h =>
    { h with overVolt := true }

/-- LINKREF_LOSS: the internal oscillator takes over and the package parks (R454); a park under way goes on, and after it the package
stays off where PKG_RST_N has been released already. VIN_MAIN in mV at that time. -/
def Block.linkrefLoss (s : Block) (v0 : Nat) : Block :=
  if s.boot.rstDue then s.modBoot fun b => { b with rstGone := b.rstGone.map fun x => (x.1, false) }
  else if s.boot.power ≠ .on || s.helio.gauge = .parking then s
  else if s.helio.gauge = .riding then s.parkStart
  else
    let s := s.modHelio fun h =>
      { h with gauge := .riding, v0 := v0, vmin := v0, charge := 0, eLeft := 0, disagree := 0, recal := false, lossPin := false,
               lossVin := false, lossCount := s.merid.count }
    (s.helioEvent 11 9).parkStart

/-- A link in this state needs its regulator: it fails with it (R360). -/
def LState.fed : LState → Bool
  | .disabled => false
  | .failed => false
  | _ => true

/-- REGULATOR_FAULT: regulator `k` (4p + r, or 48 + r) turns off and records its fault (R360). -/
def Block.vregFault (s : Block) (k kind : Nat) : Block :=
  if (s.vrg k).failed then s
  else
    let pg := vregPage k
    let s := ((s.modVreg k fun x => { x with on := false, failed := true, fault := some kind }).raise pg 0).log pg 0
    let s := s.modHelio Helio.exempted
    if k < 48 then
      let n := ((List.range 4).filter fun r => (s.vrg (k / 4 * 4 + r)).failed).length
      if n = 2 then s.partLost (k / 4) else s
    else match k - 48 with
      | 2 => (List.range 36).foldl (fun s n => if !isOlink n && (s.link n).state.fed then s.linkFail n none else s) s
      | 3 => (List.range 36).foldl (fun s n => if isOlink n && (s.link n).state.fed then s.linkFail n none else s) s
      | _ => s.powerOff none

/-- The management controller starts again (R359, R429): always-on latches stay, requests in progress and an update are lost. -/
def Block.mcRestart (s : Block) : Block :=
  let open' := match s.mgmt.upd with
    | .download _ _ => true
    | .verified _ => true
    | _ => false
  let s := { s with mgmt := { eid := s.mgmt.eid, i3cDa := s.mgmt.i3cDa,
                              restarts := sat16 s.mgmt.restarts, updBank := s.mgmt.updBank, jtagIr := s.mgmt.jtagIr,
                              jtagActs := s.mgmt.jtagActs, jtagChain := s.mgmt.jtagChain } }
  let s := { s with xu := { s.xu with outs := s.xu.outs.map fun (t : Xact) => match t.origin with
    | .mgmt _ => { t with origin := .none }
    | _ => t } }
  let s := if open' && s.mgmt.updBank ≠ s.boot.active then
      ((s.modFlash fun f => f.setBank s.mgmt.updBank { units := (f.bank s.mgmt.updBank).units }).log .mgmt 7).raise .mgmt 4
    else s
  s.raise .mgmt 2

/-- The SVN of a bank that is activated becomes the highest ever activated; a bank below it is valid no more (R412). -/
def Block.useSvn (s : Block) (b : Nat) : Block := s.modFlash fun f => f.svnUsed b

/-- Resident-host firmware restarts on the bank NEXT names (R413). -/
def Block.rhostTake (s : Block) : Block :=
  let s := s.modBoot fun b => { b with rhost := false, rhBank := b.next, runRh := (s.flash.bank b.next).units }
  let s := (List.range 32).foldl (fun s h =>
    if s.fld (.rhost h) 0x040 30 2 = 0 then s.modRhost h fun x => { x with state := .running, cause := 0 } else s) s
  (s.raise .boot 3).log .boot 5

/-- MGMT_CONTROLLER_RESET (R359): where BOOT_ACT.MC asked for it, on the new image (R413), with the digests exchanged anew (R414). -/
def Block.mcReset (s : Block) : Block :=
  let s := (s.mcRestart).log .helio 16
  if s.boot.mc then
    let s := s.modBoot fun b => { b with mc := false, mcBank := b.next, runMc := (s.flash.bank b.next).units }
    let s := { s with bundle := (s.flash.bank s.boot.mcBank).version }
    let s := ((s.raise .boot 3).log .boot 5).digestChanged
    if s.boot.rhost then s.rhostTake else s
  else s

/-- MGMT_WATCHDOG: the loop has not been serviced for WDOG_S seconds (R429). -/
def Block.mcWatchdog (s : Block) : Block := ((s.log .mgmt 2).mcRestart).log .helio 16

/-! Boot steps (R398 to R405). -/

/-- The package boots: the next number, the always-on events journalled, an open step closed; until READY it is no boot that reached
READY (R398). -/
def Block.bootBegin (s : Block) (path : Path) : Block :=
  let s := s.modFlash fun f =>
    { f with bootNum := (f.bootNum + 1) % 2 ^ 32, owed := [], coldSince := if path = .warm then f.coldSince else f.coldSince + 1 }
  s.modBoot fun b => { b with power := .on, path := path, step := 0, started := false, bootUs := s.timeUs, failed := 0,
                              anyFailed := false, ready := false, mc := false, rhost := false, lastClean := false }

/-- A stack or device marked out (Table 15.4, second column). -/
def Block.markMem (s : Block) (kind d : Nat) : Block :=
  if kind = 2 then s.outCount (({ s with tiers := { s.tiers with stackBad := setBit1 s.tiers.stackBad d } }.setStacks).almDue (.compute d)) d
  else ({ s with tiers := { s.tiers with capIn := clearBit s.tiers.capIn d } }).almDue (.capDev d)

/-- The boot tests every resource as though unmarked (R411). -/
def Block.retesting (s : Block) : Bool := s.boot.retest && decide (s.boot.path ≠ .warm)

/-- Before TRAIN: stacks and devices that failed it last time train conservatively, all of them where the failure names none
(assumption log 178), or are out after two failures in a row that name them (Table 15.4), but for a RETEST boot, which tests them too
(R411). Returns whether a variant runs. -/
def Block.trainPrep (s : Block) : Bool × Block :=
  let j := s.flash.journal
  let out (k d : Nat) : Bool := !s.retesting && decide (2 ≤ failRun (fun e => e.kind = k && e.idx = d) 6 j)
  let slow (k d : Nat) : Bool := !out k d && decide (1 ≤ failRun (fun e => e.kind = 0 || (e.kind = k && e.idx = d)) 6 j)
  let s := (List.range 12).foldl (fun s d =>
    if slow 2 d then s.modHbmc d fun h => { h with conservative := true }
    else if out 2 d then s.markMem 2 d else s) s
  let s := (List.range 16).foldl (fun s d =>
    if slow 3 d then s.modCapc d fun c => { c with rate := 7500 }
    else if out 3 d then s.markMem 3 d else s) s
  ((List.range 16).any (fun d => (d < 12 && slow 2 d) || slow 3 d), s)

/-- TRAIN has run but for the memories `bad`: each stack and device is trained, from defaults on the full path and where its stored results
are missing or failed, which gives new results, else from its stored results, which stay (R404). -/
def Block.trainDone (s : Block) (bad : List (Nat × Nat)) (retrained : List Nat) : Block :=
  let keys := ((List.range 12).filter fun d => !bad.contains (2, d)) ++ ((List.range 16).filter fun d => !bad.contains (3, d)).map (16 + ·)
  keys.foldl (fun s k =>
    let s := if k < 12 then s.modHbmc k fun h => { h with trained := true } else s
    if s.boot.path = .full || retrained.contains k || !(s.boot.alm.train.any fun e => e.1 = k) then
      let (r, s) := s.fresh
      s.modBoot fun b => { b with alm := { b.alm with train := smPut 0 b.alm.train k (r + 1) } }
    else s) s

/-- The other bank is used, where it is valid (Table 15.4). -/
def Block.otherBank (s : Block) : Block :=
  if (s.flash.bank (1 - s.boot.active)).valid then (s.modBoot fun b => { b with active := 1 - b.active, next := 1 - b.active }).log .boot 3 else s

/-- A bank is marked invalid. -/
def Block.dropBank (s : Block) (b : Nat) : Block := (s.modFlash fun f => f.setBank b { f.bank b with valid := false }).raise .boot 1

/-- With no valid bank left, the recovery path (Table 15.4). -/
def Block.orRecovery (s : Block) : Block :=
  if !s.flash.bankA.valid && !s.flash.bankB.valid && decide (s.boot.path ≠ .recovery) then (s.modBoot fun b => { b with path := .recovery }).log .boot 6 else s

/-- A boot after HUB has failed (Table 15.4): the other bank is used, and after the second failure in a row neither bank is left. -/
def Block.hubPrep (s : Block) : Block :=
  let hub := failRun (fun _ => true) 5 s.flash.journal
  if hub = 0 then s else (if 2 ≤ hub then (s.dropBank 0).dropBank 1 else s.otherBank).orRecovery

/-- Before VERIFY (Table 15.4): the bank that failed VERIFY last time is marked invalid and gives way to the other; else HUB's response.
Returns whether VERIFY runs on the other bank. -/
def Block.verifyPrep (s : Block) : Bool × Block :=
  let old := s.boot.active
  let s := if failRun (fun _ => true) 2 s.flash.journal ≠ 0 then (s.dropBank s.boot.active).otherBank.orRecovery else s.hubPrep.orRecovery
  (decide (s.boot.active ≠ old), s)

/-- A partition is marked out of service (Table 15.4). -/
def Block.markPart (s : Block) (p : Nat) : Block :=
  s.outCount ((s.modPart p fun q => { q with lost := true, marked := true }).almDue (.compute p)) p

/-- Before BCAST and MEMTEST: the second column of Table 15.4 for a run that was closed as FAILED and names a core, a stack or a device
(R401); a RETEST boot marks nothing before its test (R411). -/
def Block.closedPrep (s : Block) (n : Nat) : Block :=
  let j := s.flash.journal
  if s.retesting then s
  else if n = 7 then
    (List.range 12).foldl (fun s p =>
      if decide (2 ≤ failRun (fun e => e.kind = 4 && e.idx / 256 = p) 7 j) && !(s.part p).marked then s.markPart p else s) s
  else if n = 9 then match j.find? fun e => e.step = 9 && decide (e.status ≠ 0) with
    | some e => if e.status = 2 && ((e.kind = 2 && !bit s.tiers.stackBad e.idx) || (e.kind = 3 && bit s.tiers.capIn e.idx)) then s.markMem e.kind e.idx
      else s
    | none => s
  else s

/-- Step `n` starts as variant `var` (Table 15.3), its STARTED entry written: it names the resource whose failure of the step
it responds to. On the recovery path nothing starts. -/
def Block.stepOpen (s : Block) (n var : Nat) : Block :=
  let s := s.modBoot fun b => { b with step := n, variant := var, stepUs := s.timeUs, started := false }
  if s.boot.path = .recovery then s
  else
    let s := if var ≠ 0 then s.log .boot 2 else s
    let (k, i) := match s.flash.journal.find? fun e => e.step = n && decide (e.status ≠ 0) with
      | some e => if e.status = 2 then (e.kind, e.idx) else (0, 0)
      | none => (0, 0)
    (s.jot n var 0 k i 0).modBoot fun b => { b with started := true }

/-- The boot waits before RAILS, which runs as variant `var`, for VIN_MAIN, in every boot (R448; assumption log 214). -/
def Block.railsWait (s : Block) (var : Nat) : Block :=
  s.modBoot fun b => { b with step := 3, variant := var, stepUs := s.timeUs, started := false }

/-- Step `n` starts after what the journal says of its last runs (R401). -/
def Block.stepBegin (s : Block) (n : Nat) : Block :=
  if n = 3 then s.railsWait 0
  else
    let (v, s) := if n = 2 then s.verifyPrep else if n = 6 then s.trainPrep else (false, s.closedPrep n)
    s.stepOpen n (if !v then 0 else if n = 2 then 2 else 1)

/-- RAILS_START: VIN_MAIN has been at 11.0 V for 10 ms (R448): a boot that waits before RAILS begins it. -/
def Block.railsStart (s : Block) : Block :=
  if s.boot.power = .on && s.boot.step = 3 && !s.boot.started && s.boot.path ≠ .recovery && !s.boot.ready then s.stepOpen 3 s.boot.variant else s

/-- A release of PKG_RST_N with the package in reset, the hottest sensor at `tj` (R351): a cold boot on the full or the fast path
(R398), or with LINKREF_156 absent none: the package stays off until a cold reset with the clock (R454). -/
def Block.coldBoot (s : Block) (tj : Nat) (clock : Bool) : Block :=
  let s := if tj < 95 then s.modHelio fun h => { h with tripped := false } else s
  if !clock then s.modBoot fun b => { b with power := .off }
  else
    let fast := bit (s.reg .boot 0x040) 0 && s.flash.almInForce.isSome && s.boot.lastClean && !s.boot.retest &&
      decide (s.flash.coldSince < s.fld .boot 0x040 8 8)
    let owed := s.flash.owed
    let s := s.bootBegin (if fast then .fast else .full)
    (owed.foldl (fun s e => s.jot e 0 1 0 0 0) s).closeStarted.stepBegin 1

/-- PKG_RST_RELEASE: recognised released: a cold boot; in a park, after the reset that waits for the park's end. -/
def Block.rstRelease (s : Block) (tj : Nat) (clock : Bool) : Block :=
  if s.boot.rstDue then s.modBoot fun b => { b with rstGone := some (tj, clock) }
  else if s.boot.power ≠ .reset then s
  else s.coldBoot tj clock

/-- A park has ended, complete or cut short, in which PKG_RST_N was recognised: the reset acts now, and the boot of a release since
(R449, R451, Table 17.11). -/
def Block.parkOver (s : Block) : Block :=
  if !s.boot.rstDue || s.fed then s
  else
    let gone := s.boot.rstGone
    match gone with
    | some (tj, clock) => s.coldState.coldBoot tj clock
    | none => s.coldState

/-- The newer of two park records with commit blocks (R357). -/
def newerPark (a b : Option ParkRec) : Option ParkRec :=
  match a, b with
  | some x, some y => if y.commit.getD 0 ≤ x.commit.getD 0 then some x else some y
  | some x, none => some x
  | none, y => y

/-- A park record without a valid commit block is ignored, and the journal notes it once (R403; assumption log 153). -/
def Block.parkBad (s : Block) : Block :=
  let bad (x : Option ParkRec) : Bool := x.any fun r => !r.valid && !r.restored
  if bad s.flash.park0 || bad s.flash.park1 then
    let tag (x : Option ParkRec) : Option ParkRec := if bad x then x.map fun r => { r with restored := true } else x
    ((s.modFlash fun f => { f with park0 := tag f.park0, park1 := tag f.park1 }).log .boot 7).jot 0xF3 0 2 0 0 0
  else s

/-- The park record with the newer valid commit block is restored, once (R403): its counters, and the next TID to each target. -/
def Block.parkRestore (s : Block) : Block :=
  let s := s.parkBad
  match newerPark (s.flash.park0.filter ParkRec.valid) (s.flash.park1.filter ParkRec.valid) with
  | none => s
  | some r =>
    if r.restored then s
    else
      let s := { s with logs := r.logs.foldl (fun (m : SMap Nat) (e : Nat × Nat × Nat) =>
        smPut 0 m (e.1 * 256 + e.2.1) (Nat.min e.2.2 0xFFFF)) s.logs }
      let s := { s with xu := { s.xu with nextTid := r.trans.foldl (fun (m : SMap Nat) (e : Nat × Nat × Nat × Nat × Nat) =>
        smPut 0 m (spaceKey e.1 e.2.1) ((e.2.2.1 + 4096) % 65536)) s.xu.nextTid } }
      let tag (x : Option ParkRec) : Option ParkRec := x.map fun y => if y = r then { y with restored := true } else y
      (s.modFlash fun f => { f with park0 := tag f.park0, park1 := tag f.park1 }).raise .boot 5

/-- Almanac copies found bad; with both, the boot goes on by the full path (R401, R420). -/
def Block.almCheck (s : Block) : Block :=
  match s.flash.alm0, s.flash.alm1 with
  | none, none => ((((s.raise .alm 2).log .alm 3).log .alm 3).raise .alm 3).modBoot fun b => { b with path := .full }
  | some _, some _ => s
  | _, _ => (s.raise .alm 2).log .alm 3

/-- On a cold path the interleave mode in force is the Almanac's (R161). -/
def Block.imapLoad (s : Block) (mode : Nat) : Block :=
  if s.boot.path = .warm then s else { s with tiers := { s.tiers with imapCur := mode } }

/-- Flash copies whose CRC is bad hold nothing (R397). -/
def Flash.dropBad (f : Flash) (alm lic : List Nat) : Flash :=
  { f with alm0 := if alm.contains 0 then none else f.alm0, alm1 := if alm.contains 1 then none else f.alm1,
           lic0 := if lic.contains 0 then none else f.lic0, lic1 := if lic.contains 1 then none else f.lic1 }

/-- The warm sweep of MEMTEST has found the unit or line at home number `u` uncorrectable: the marker is written to it, and its controller
records and counts both, without an observation (R168, R182, R183, R405). -/
def Block.testMark (s : Block) (u : Nat) : Block :=
  let u := u / unitSize u * unitSize u
  let s : Block := { s with ram := s.ram.mark u }
  if u < 2 ^ 40 then
    let p := u / stackBytes
    ((((s.log (.hbmc p) 2).log (.hbmc p) 3).hbmErr p 1 0xFF (u - p * stackBytes)).raise (.hbmc p) 0)
  else if u < 2 ^ 41 then
    let d := (u - 2 ^ 40) / 2 ^ 36
    ((((s.log (.capc d) 1).log (.capc d) 2).capErr d 1 0xFF (u - 2 ^ 40 - d * 2 ^ 36)).raise (.capc d) 0)
  else s

/-- RECORDS: Almanac, licence and park areas take effect (R403, R408 to R410, R415, R416). -/
def Block.recordsLoad (s : Block) : Block :=
  let s := s.almCheck
  let a := (s.flash.almInForce).getD {}
  let a' := if s.retesting then { a with parts := smMapVals ({} : AlmPart) a.parts fun _ x => { rows := x.rows }, capIn := 0xFFFF, capSlow := 0, capRefresh := [], hosts := 0, updBad := false } else a
  let mode := s.boot.modeAsked.getD a.modeNext
  let mapped := decide (mode = 1)
  let s := { s with alm := { s.alm with mapped := mapped } }.setFld .alm 0x040 0 1 mode
  let s := s.modBoot fun b => { b with alm := { a' with mode := mode, modeNext := mode }, loaded := true, modeAsked := none }
  let s := (List.range 12).foldl (fun s p => s.loadPart p (smGet ({} : AlmPart) a'.parts p) mapped) s
  let s := { s with tiers := { s.tiers with
    stackBad := ((List.range 12).filter fun p => (smGet ({} : AlmPart) a'.parts p).memBad).foldl setBit1 0, capIn := a'.capIn,
    imapNext := a.imapNext } }
  let s := (List.range 16).foldl (fun s d => s.modCapc d fun c => { c with rate := if bit a'.capSlow d then 7500 else 8533 }) s
  let l := s.flash.licInForce
  let s := s.modBoot fun b => { b with lic := l, licPend := none }
  let s := { s with feat := (l.map Licence.feat).getD {} }
  let s := if l.isSome then s else s.log .lic 2
  let s := s.licLinks
  let s := s.setStacks
  (s.imapLoad a.imapCur).parkRestore

/-- At the end of step ALMANAC the next interleave mode comes into force; PKG12 with a stack out of service falls back to LINEAR
(R161). -/
def Block.imapApply (s : Block) : Block :=
  if s.tiers.imapNext = 2 ∧ s.tiers.stackOos ≠ 0 then
    (List.range 12).foldl (fun s p => s.raise (.hbmc p) 4) { s with tiers := { s.tiers with imapCur := 0, imapNext := 0 } }
  else { s with tiers := { s.tiers with imapCur := s.tiers.imapNext } }

/-- The resources that an Almanac marks: ways, cores, cluster memories, engines, memory domains, compute, capacity devices, resident-host
cores, the update engine, by kind, partition and index. -/
def AlmData.marks (a : AlmData) : List (Nat × Nat × Nat) :=
  let on (k p : Nat) (m : SMap Bool) : List (Nat × Nat × Nat) := (m.filter (·.2)).map fun e => (k, p, e.1)
  let bits' (k p w n : Nat) : List (Nat × Nat × Nat) := ((List.range n).filter fun i => bit w i).map fun i => (k, p, i)
  (a.parts.flatMap fun e => bits' 0 e.1 e.2.ways 16 ++ on 1 e.1 e.2.cores ++ on 2 e.1 e.2.mems ++ on 3 e.1 e.2.engines ++
    bits' 4 e.1 (b2n e.2.memBad) 1 ++ bits' 5 e.1 (b2n e.2.out) 1) ++
    bits' 6 0 (65535 - a.capIn % 65536) 16 ++ bits' 7 0 a.hosts 32 ++ bits' 8 0 (b2n a.updBad) 1

/-- READY: stacks out of service and the interleave mode are settled, the Almanac is written and Ephemeris starts (R150, R161, R398,
Table 15.2). RETEST clears after a cold boot (R411). Ports that trained take their configuration (R452). -/
def Block.bootReady (s : Block) : Block :=
  let kept := s.almNow.marks
  let gone := ((s.flash.almInForce.getD {}).marks.filter fun m => !kept.contains m).length
  let cold := decide (s.boot.path ≠ .warm)
  let s := if s.boot.retest && cold then s.logN .alm 1 gone else s
  let s := s.setStacks.imapApply.almWrite
  let s := (if cold then s.setFld .alm 0x040 30 1 0 else s).modBoot fun b =>
    { b with ready := true, bootMs := (s.timeUs - b.bootUs) / 1000, lastClean := !b.anyFailed, retest := b.retest && !cold, started := false }
  (s.portCfg 0).portCfg 1

/-- A boot test marks a resource (R157, R411, Table 15.4). -/
def Block.markRec (s : Block) (r : AlmRec) : Block :=
  match r with
  | .core p i => s.markCore p i
  | .way p w => (s.modMsc p fun m => { m with retired := setBit1 m.retired w }).almDue r
  | .clusterMem p c =>
    let s := if (s.part p).clusterOk c then s.spareCluster p else s
    s.outCount ((s.modPart p fun q => { q with failedClusters := smPut false q.failedClusters c true }).almDue r) p
  | .engine p j =>
    let q := { s.part p with failedEngines := smPut false (s.part p).failedEngines j true }
    let s := if (s.part p).clusterOk (j / 4) && !q.clusterOk (j / 4) then s.spareCluster p else s
    s.outCount (((s.modPart p fun _ => q).modEng p j fun e => { e with failed := true }).almDue r) p
  | .compute p => s.markPart p
  | .rhostCore h => (s.modBoot fun b => { b with alm := { b.alm with hosts := setBit1 b.alm.hosts h } }).almDue r
  | .updateEngine => (s.modBoot fun b => { b with alm := { b.alm with updBad := true } }).almDue r
  | _ => s

/-- The active bank passes R412 at VERIFY: it was found valid, and its SVN is at least the highest ever activated. -/
def Block.bankGood (s : Block) : Bool :=
  (s.flash.bank s.boot.active).valid && decide (s.flash.maxSvn ≤ (s.flash.bank s.boot.active).svn)

/-- RAILS has run: the regulators that have not failed, and of which no outcome says that its ramp missed the setpoint, have come up in
the order of Table 17.3, VHUB first and the partitions' VCORE last, each at V(20), at which step 20 is the one in force; the memory
rails are on already on the warm path (R448; assumption log 213). -/
def Block.railsUp (s : Block) (missed : List Nat) : Block :=
  let s := ([52, 48, 49, 50, 51] ++ List.range 48).foldl (fun s k =>
    s.modVreg k fun x => { x with on := !x.failed && !missed.contains k }) s
  (List.range 12).foldl (fun s p => s.modHp p fun h => { h with fNow := 20, volt := none }) s

/-- BCAST has run: the cores of every partition in service run the active bank's compute-core image (R406). -/
def Block.loadCores (s : Block) : Block :=
  ((List.range 12).filter s.partIn).foldl (fun s p => s.loadPartCores p s.boot.active) (s.modBoot fun b => { b with parts := 0, runPart := [] })

/-- Failing rows of a stack, or of a capacity device, have been mended (R405). -/
def Block.mended (s : Block) (kind d n : Nat) : Block :=
  s.modBoot fun b => { b with alm :=
    if kind = 2 then { b.alm with parts := smMod ({} : AlmPart) b.alm.parts d fun x => { x with rows := Nat.min 65535 (x.rows + n) } }
    else { b.alm with capRows := smMod 0 b.alm.capRows d fun x => Nat.min 255 (x + n) } }

/-- CHECK has run: what it found failed is marked, and the positions are assigned anew (R409, Table 15.4). -/
def Block.checked (s : Block) (x : StepOut) : Block :=
  (x.marks.foldl (fun s r => s.markRec r) (x.cores.foldl (fun s e => s.markCore e.1 e.2) s)).reassign

/-- MEMTEST has run: refresh multiples and repairs of the full test, markers of the warm sweep (R405). -/
def Block.memTested (s : Block) (x : StepOut) : Block :=
  match s.boot.path with
  | .full =>
    let s := x.slow.foldl (fun s e =>
      if e.1 = 2 then s.modHbmc e.2 fun h => { h with refresh := 1 }
      else s.modBoot fun b => { b with alm := { b.alm with capRefresh := smPut 0 b.alm.capRefresh e.2 1 } }) s
    let s := x.repairs.foldl (fun s e => s.mended e.1 e.2.1 e.2.2) s
    (s.modBoot fun b => { b with alm := { b.alm with fullBoot := s.flash.bootNum } }).modFlash fun f => { f with coldSince := 0 }
  | .warm => x.units.foldl (fun s u => s.testMark u) s
  | .fast => s
  | .recovery => s

/-- The effects of a step that has passed. VERIFY activates the active bank; HUB and BCAST start resident host and cores from the active bank (R406, Table 15.2). -/
def Block.stepEffect (s : Block) (n : Nat) (x : StepOut) : Block :=
  match n with
  | 2 => ({ s with bundle := (s.flash.bank s.boot.active).version }.useSvn s.boot.active).modBoot fun b =>
      { b with rhBank := b.active, mcBank := b.active, parts := 0, runMc := (s.flash.bank b.active).units }
  | 3 => s.railsUp []
  | 4 => (s.modFlash fun f => f.dropBad x.almBad x.licBad).recordsLoad
  | 5 => s.modBoot fun b => { b with rhBank := b.active, runRh := (s.flash.bank b.active).units, runHub := (s.flash.bank b.active).units }
  | 6 => s.trainDone [] x.retrained
  | 7 => s.loadCores
  | 8 => s.checked x
  | 9 => s.memTested x
  | 10 => s.bootReady
  | _ => s

/-- A core of BCAST did not report: its partition is out of service for this boot, and marked so at the second failure in a row (Table
15.4). -/
def Block.silent (s : Block) (p : Nat) : Block :=
  if 2 ≤ failRun (fun e => e.kind = 4 && e.idx / 256 = p) 7 s.flash.journal then s.markPart p
  else s.outCount (s.modPart p fun q => { q with lost := true }) p

/-- The effects of a step that has failed (Table 15.4), on the resources of its outcome, each further one with an entry of its own (assumption
log 178): RAILS starts the other regulators (R448), TRAIN leaves the other memories trained, BCAST takes partitions out, CHECK marks
cores and clusters, MEMTEST stacks and devices at once, beside what they found of the others. -/
def Block.failEffect (s : Block) (n : Nat) (x : StepOut) : Block :=
  let bads := x.bad.toList ++ x.others
  let s := x.others.foldl (fun s e => s.jot n s.boot.variant 2 e.1 e.2 0) s
  match n with
  | 3 => s.railsUp (bads.filterMap fun e => if e.1 = 8 && e.2 / 256 = 0x0C then some (e.2 % 256) else none)
  | 6 => if bads.isEmpty then s else s.trainDone bads x.retrained
  | 7 => (((bads.filter fun e => e.1 = 4).map (·.2 / 256)).eraseDups).foldl (fun s p => s.silent p) s.loadCores
  | 8 =>
    (bads.foldl (fun s e =>
      if e.1 = 4 then s.markCore (e.2 / 256) (e.2 % 256)
      else if e.1 = 5 then s.markRec (.clusterMem (e.2 / 256) (e.2 % 256)) else s) s).checked x
  | 9 => if bads.isEmpty then s else (bads.filter fun e => e.1 = 2 || e.1 = 3).foldl (fun s e => s.markMem e.1 e.2) (s.memTested x)
  | _ => s

/-- The current step ends. One that fails is journalled and raised; the sequence goes on, but for VERIFY and HUB, whose
response is another boot (assumption log 62). -/
def Block.stepOver (s : Block) (x : StepOut) : Block :=
  let b := s.boot
  if b.power ≠ .on || !b.started || b.ready then s
  else
    let n := b.step
    let ok := x.ok && (n ≠ 2 || s.bankGood)
    let (k, i) := x.bad.getD (0, 0)
    let s := s.modBoot fun b => { b with started := false }
    let s :=
      if ok then (s.stepEffect n x).jot n b.variant (if x.cores.isEmpty && x.units.isEmpty && x.marks.isEmpty then 1 else 3) k i 0
      else (((s.jot n b.variant 2 k i 0).modBoot fun b => { b with failed := n, anyFailed := true }).raise .boot 0).log .boot 0
    let s := if ok then s else s.failEffect n x
    if n = 10 then (if ok then s else s.bootReady)
    else if !ok && (n = 2 || n = 5) then s
    else s.stepBegin (n + 1)

/-- BOOT_STEP_COMPLETE. -/
def Block.stepComplete (s : Block) (x : StepOut) : Block := s.stepOver x

/-- BOOT_STEP_TIMEOUT: the step has not ended within its duration (R399). -/
def Block.stepTimeout (s : Block) : Block := s.stepOver { ok := false }

/-- PACKAGE_WARM_RESET, once requested: dirty lines and changed check blocks written back, marks that the Almanac owes written, the
data plane reset with its memories in self-refresh, the warm path begun (R152, R384, R398). A poison reset does not come while an input
loss is ridden (Table 14.15). NEXT becomes the active bank (R413), but a poison reset boots from the active bank and keeps NEXT
(Table 15.11). -/
def Block.warmReset (s : Block) : Block :=
  if !s.warmDue || s.boot.power ≠ .on || s.helio.gauge = .parking || (s.poisonTick && s.helio.gauge ≠ .normal) then s
  else
    let s := (List.range 36).foldl (fun s n =>
      if 4 ≤ (s.link n).state.code ∧ (s.link n).state.code ≤ 9 then s.sendCtl n [9, 3] else s) s
    let s := (List.range 12).foldl (fun s p => ((s.msc p).lines.map (·.1)).foldl (fun s k => (s.writeBack p k).dropLine p k) s) s
    let s := if s.alm.due.isEmpty then s else s.almWrite
    let s := s.checksOut
    let poison := s.poisonTick
    let s := s.dropData true
    let s := s.modBoot fun b =>
      { b with active := if poison || !(s.flash.bank b.next).valid then b.active else b.next, licPend := none, loaded := false }
    let s := s.useSvn s.boot.active
    let s := ((List.range 12).foldl (fun s p => s.setUncal p true) s).modHelio Helio.exempted
    let s := (s.bootBegin .warm).closeStarted
    let s' := s.hubPrep
    if s'.boot.path = .recovery then s' else s'.railsWait (if s'.boot.active = s.boot.active then 0 else 2)

/-- POISON_CONTAIN: at the tick after the first observation (R377), which the reset record names (Table 15.3). An input loss goes
first (Table 14.15). -/
def Block.poisonContain (s : Block) : Block :=
  if !s.poisonTick || s.warmDue || s.helio.gauge ≠ .normal || s.boot.power ≠ .on then s
  else
    let (b, i, c) := s.poisonFirst.getD (0, 0, 0)
    { (s.jot 0xF0 0 1 8 (b * 256 + i) c) with warmDue := true }

/-! Bundles and activations (R407, R412, R413). -/

/-- The bank that a bundle is written to: the inactive one. -/
def Block.inactive (s : Block) : Nat := 1 - s.boot.active

/-- BUNDLE_CHUNK_RECEIVE: 64 KiB chunk `k` of `n` of a bundle from `src` over link `l` (36: this package is the source): forwarded with its
contents on every tree link but that one, and kept by its source; the whole bundle is programmed into the inactive bank (R407). -/
def Block.chunkIn (s : Block) (l src k n : Nat) : Block :=
  let (v, s) := s.fresh
  let tree := (((List.range 49152).filterMap fun g => let e := s.route g; if bit e 31 then some (bits e 24 6) else none)).eraseDups
  let s := (tree.filter fun t => t ≠ l && decide (t < 36)).foldl (fun s t => s.emit (.notice 3 [t, src, k, v])) s
  let got := smGet [] s.boot.bcast src
  let got := if got.contains k then got else k :: got
  let us := (List.range 16).foldl (fun m u => smPut 0 m (16 * k + u) (v + u)) (smGet [] s.boot.bcastData src)
  let s := s.modBoot fun b => { b with bcast := smPut [] b.bcast src got, bcastData := smPut [] b.bcastData src us }
  let s := s.modFlash fun f => f.setBank s.inactive { f.bank s.inactive with valid := false }
  if got.length = n then
    ((s.modFlash fun f => f.setBank s.inactive { f.bank s.inactive with units := us }).modBoot fun b =>
      { b with bcast := smPut [] b.bcast src [], bcastData := smPut [] b.bcastData src [], bcastFrom := b.bcastFrom ++ [(l, src)] }).raise .boot 4
  else s

/-- The check of the broadcast bundle that was complete first is reported up the tree, on the link that it came by (R407). -/
def Block.bcastReport (s : Block) (ok : Bool) : Block :=
  match s.boot.bcastFrom with
  | (l, src) :: t => (s.emit (.notice 4 [l, src, b2n ok])).modBoot fun b => { b with bcastFrom := t }
  | [] => s

/-- BANK_PROGRAM_DONE: the inactive bank is checked under R412, and the check of a broadcast is reported. On the recovery path a valid bundle is booted (Table 15.4). -/
def Block.bankDone (s : Block) (x : BundleOut) : Block :=
  let ok := x.sound && x.edition = 1 && decide (s.flash.maxSvn ≤ x.svn)
  let b := s.inactive
  let s := s.modFlash fun f => f.setBank b (if ok then { f.bank b with valid := true, version := x.version, svn := x.svn }
    else { units := (f.bank b).units })
  let s := (s.jot 0xF5 0 (if ok then 1 else 2) 6 b 0).bcastReport ok
  if ok then
    let s := s.raise .boot 2
    if s.boot.path = .recovery then
      (s.modBoot fun y => { y with active := b, next := b, path := .full }).stepOpen 2 0
    else s
  else (s.raise .boot 1).log .boot 4

/-- ACTIVATE_MC: BOOT_ACT.MC written 1 (R413). Nothing is activated from a bank that is not valid (R412). -/
def Block.activateMc (s : Block) : Block :=
  if s.boot.mc || !(s.flash.bank s.boot.next).valid then s else ((s.useSvn s.boot.next).modBoot fun b => { b with mc := true }).jot 0xF5 0 1 6 s.boot.next 0

/-- ACTIVATE_RHOST: BOOT_ACT.RHOST written 1; it waits for an activation of the management controller (Table 15.11). -/
def Block.activateRhost (s : Block) : Block :=
  if s.boot.rhost || !(s.flash.bank s.boot.next).valid then s
  else
    let s := ((s.useSvn s.boot.next).modBoot fun b => { b with rhost := true }).jot 0xF5 0 1 6 s.boot.next 0
    if s.boot.mc then s else s.rhostTake

/-- ACTIVATE_PART: BOOT_ACT.PART written, which the journal notes (Table 15.3); the partitions named take the bank at their next reset (R413). -/
def Block.activatePart (s : Block) (mask : Nat) : Block :=
  if !(s.flash.bank s.boot.next).valid then s
  else ((s.useSvn s.boot.next).modBoot fun b => { b with parts := (b.parts ||| mask) % 4096 }).jot 0xF5 0 1 6 s.boot.next 0

/-- BOOT_BANK written: NEXT takes a bank that is valid; another is refused as a clamp (Table 15.12). -/
def Block.bankNext (s : Block) (v : Nat) : Block :=
  let n := bits v 2 1
  if n = s.boot.next then s
  else if (s.flash.bank n).valid then s.modBoot fun b => { b with next := n }
  else s.clamped .boot 0x050

/-! Licences (R415 to R417). -/

/-- LICENCE_CHECK: LIC GO written 1: the record at LIC_STAGE is checked; `sig` and `revoked` say whether its signature verifies and its
key is revoked. -/
def Block.licCheck (s : Block) (sig revoked : Bool) : Block :=
  let a := s.pair .lic 0x050 0x054 6
  let (b, pois, s) := if s.canAccess a 160 then s.memRead a 160 else (List.replicate 160 0, false, s)
  let s := if pois then s.observePoison .lic else s
  let b := if pois then List.replicate 160 0 else b
  let f := dF b
  let bad := f 0 2 ≠ 1 || decide (3 < f 2 1) || f 3 1 % 4 = 3 || f 3 1 / 32 ≠ 0 || (b.drop 0x1C).take 36 ≠ List.replicate 36 0
  let r := if bad then 5 else if revoked then 6 else if !sig then 2 else if f 8 8 ≠ puid then 3
    else if f 4 4 ≤ s.flash.maxSerial then 4 else 1
  let s := s.modBoot fun x => { x with licResult := r }
  if r = 1 then
    let l : Licence := ⟨f 4 4, f 3 1, f 0x10 8⟩
    let old0 := match s.flash.lic0, s.flash.lic1 with
      | none, _ => true
      | _, none => false
      | some x, some y => decide (x.serial ≤ y.serial)
    let s := s.modFlash fun g => if old0 then { g with lic0 := some l, maxSerial := l.serial } else { g with lic1 := some l, maxSerial := l.serial }
    let s := (s.modBoot fun x => { x with licPend := some l }).jot 0xF6 0 1 0 0 0
    (s.raise .lic 0).log .lic 0
  else (s.raise .lic 1).log .lic 1

end Sys2Proof.Machine
end

