-- ==== Sys2Proof/Machine/Merid.lean ====
section
/-! DEFINITION. Meridian: ticks, election, master identity, reference, frames (spec/02). -/

namespace Sys2Proof.Machine

/-- MERID_CTL fields in force. -/
def Block.prio (s : Block) : Nat := s.fld .merid 0x040 0 8
def Block.masterTo (s : Block) : Nat := s.fld .merid 0x040 12 4
def Block.alone (s : Block) : Bool := bit (s.reg .merid 0x040) 11
def Block.refEn (s : Block) : Bool := bit (s.reg .merid 0x040) 8
def Block.ovrLimit (s : Block) : Nat := s.fld .merid 0x040 16 4

/-- A claim or master (priority, PUID) is better than another (R53). -/
def better (a b : Nat × Nat) : Bool := decide (b.1 < a.1) || (decide (a.1 = b.1) && decide (a.2 < b.2))

/-- Links on which symbols go out. -/
def Block.upLinks (s : Block) : List Nat := (List.range 36).filter fun n => s.up n

/-- A control block goes out on each of some links. -/
def Block.toLinks (s : Block) (ns : List Nat) (bs : List Nat) : Block := ns.foldl (fun s n => s.sendCtl n bs) s

/-- The tick symbol of this tick (Table 2.1). The switch of R62 follows the tick, so the symbol of the tick SWITCH_AT still carries the
old period with the pending bit set (DESIGN CHOICE, assumption log 124). -/
def Block.tickBytes (s : Block) : List Nat :=
  let m := s.merid
  let hold : Bool := if m.state = .master then decide (m.refState = .holdover)
    else match m.inLink with
      | some n => (s.mlink n).sym.any (·.inHoldover)
      | none => false
  [1] ++ leBytes 6 m.count ++ [m.epoch, m.period, m.hops % 16 + b2n (bit (s.reg .merid 0x04C) 31) * 16 + b2n hold * 32, m.masterPrio]

/-- The claim symbol of claimant (priority, PUID) at a hop count (Table 2.1). -/
def claimBytes (c : Nat × Nat) (hops : Nat) : List Nat := [2, c.1] ++ leBytes 8 c.2 ++ [hops % 256]

/-- MASTER_ID on every link in LINKUP (R58). -/
def Block.sendMasterIds (s : Block) : Block :=
  if s.merid.sendsId then (s.toLinks s.upLinks s.masterBytes).modMerid fun m => { m with masterIdDue := false } else s

/-- The package follows a master (R57, R58): a change of PUID is counted, raised and told to every link. -/
def Block.newMaster (s : Block) (prio puid epoch : Nat) : Block :=
  let old := s.merid.masterPuid
  let s := s.modMerid fun m => { m with masterPrio := prio, masterPuid := puid, epoch := epoch }
  if puid = old then s
  else ((s.raise .merid 1).log .merid 2).modMerid fun m => { m with masterIdDue := true }

/-- The priority of the own master, as the upstream link names it (R58): a follower in step takes it over. -/
def Block.prioFrom (s : Block) (n prio : Nat) : Block :=
  let keeps : Bool := match s.merid.state with
    | .locked => true
    | .outOfStep => true
    | .holdover => true
    | _ => false
  if keeps && decide (s.merid.inLink = some n) then s.modMerid fun m => { m with masterPrio := prio } else s

/-- A link is confirmed: its MASTER_ID named the own master (R58). The last one counts: a later symbol that names another master ends
the confirmation (DESIGN CHOICE, assumption log 184). -/
def Block.confirmed (s : Block) (n : Nat) : Bool :=
  match (s.mlink n).mid with
  | some x => decide (x.2.1 = s.merid.masterPuid)
  | none => false

/-- The package may steer by a link's symbols: in LOCKING those of the link it follows and, once it has adopted a count, those of
links whose MASTER_ID names no other master (R49, R58); else those of confirmed links (R58). -/
def Block.steers (s : Block) (n : Nat) : Bool :=
  match s.merid.state with
  | .locking => decide (s.merid.followLink = some n) ||
      (s.merid.adopted && s.merid.epochKnown && (!s.merid.idTaken || (s.mlink n).mid.isNone || s.confirmed n))
  | .listen => false
  | .init => false
  | .claim => false
  | .master => false
  | _ => s.confirmed n

/-- The upstream link (R49): among links whose symbol of the current epoch arrived since the last tick, the least hops, then the
lowest number; and its hops. -/
def Block.upstream (s : Block) : Option (Nat × Nat) :=
  (List.range 36).foldl (fun best n =>
    let l := s.mlink n
    match l.sym with
    | some y =>
      if s.up n && l.fresh && s.steers n && decide (y.epoch = s.merid.epoch) then
        match best with
        | some (_, h) => if y.hops < h then some (n, y.hops) else best
        | none => some (n, y.hops)
      else best
    | none => best) none

/-! Frames (R47, R64, R65). -/

/-- Writes to frame-bound registers take effect (R21): those of partition `sel`, or those of package-wide pages. The clearing of
a core's CORE_BF_CFG.EN stops its backfill slot, at its next boundary (R81), and a change of plane ownership releases retained planes (R95). -/
def Block.applyFb (s : Block) (sel : Option Nat) : Block :=
  let now := s.frameBound.filter fun w => w.part = sel
  let s := { s with frameBound := s.frameBound.filter fun w => w.part ≠ sel }
  now.foldl (fun s w =>
    match pageOf (w.off / 4096) with
    | some pg =>
      let o := w.off % 4096
      match pg with
      | .core p i =>
        let before := s.planesOf p i 0
        let off : Bool := o = 0x040 && bit (s.reg pg o) 0 && !w.value.getLsbD 0
        let s := s.setReg pg o w.value.toNat
        let s := if off then s.bfBack p i else s
        if s.planesOf p i 0 = before then s
        else (s.modSlot p i 0 fun t => t.evict.owns (s.planesOf p i 0)).modSlot p i 1 fun t => t.evict.owns (s.planesOf p i 1)
      | _ => s.setReg pg o w.value.toNat
    | none => s) s

/-- The partition runs frames now: it is not being saved or reset. -/
def Part.frames (q : Part) : Bool :=
  match q.state with
  | .normal => true
  | .aborting => true
  | .preemptDeferred => true
  | _ => false

/-- A primary slot counts towards its partition's frame: one stopped by a fault never executes its frame-end instruction; one that
an abort or a reset stopped is out of the frame. -/
def Slot.inFrame (t : Slot) : Bool := t.bound && (decide (t.stop = .running) || decide (t.stop = .fault))

/-- Something waits for the partition's frame boundary that a slot stopped by a fault must not hold back (R17, R369, R385, R386;
assumption log 18). -/
def Block.boundaryDue (s : Block) (p : Nat) : Bool :=
  let q := s.part p
  q.abort || q.preempt || q.commit || q.bfStopDue || (s.hdr (.part p)).draining

/-- Cores of the partition that have not executed the frame-end instruction of the frame. -/
def Block.unfinished (s : Block) (p : Nat) : List Nat :=
  if (s.part p).frames then
    (List.range 153).filter fun i =>
      let t := s.slot p i 0
      t.inFrame && decide (t.wait ≠ .frameEnd) && !(s.boundaryDue p && decide (t.stop = .fault))
  else []

/-- The backfill job of a partition is pre-empted (R324, step 4): its slots, lists and sync objects stay where they are and nothing of
them advances (R210; assumption log 137). -/
def Block.stopBackfill (s : Block) (p : Nat) : Block :=
  let s := (List.range 153).foldl (fun s i => if (s.slot p i 1).bound then s.toPrimary p i else s) s
  let s := s.stopSlots p 1 .held
  let s := (List.range 36).foldl (fun s j =>
    let c := s.chan p j 1
    let s := if (c.state = .normal || c.state = .parked) && !c.lists.isEmpty then s.log (.dma p j) 11 else s
    if c.state = .normal ∧ c.lists ≠ [] then s.modChan p j 1 fun c => { c with state := .saved } else s) s
  s.modPart p fun q => { q with bfStopDue := false, bfHeld := true }

/-- A frame of partition `p` begins: its frame boundary. Frame-bound registers take effect, an abort and a drain of the partition
act (R21, R369, R386), and slots that waited go on. -/
def Block.frameStart (s : Block) (p : Nat) : Block :=
  let s := s.modPart p fun q =>
    { q with frame := s.merid.count + b2n (decide (q.behind ≠ 0)) - q.behind, late := decide (q.behind ≠ 0), atBoundary := true,
             commitDue := q.commit, poisonFrame := false, slipped := q.slipped && decide (q.behind ≠ 0) }
  let s := s.applyFb (some p)
  let s := if (s.hdr (.part p)).draining then
      (s.modHdr (.part p) fun h => { h with draining := false }).modPart p fun q => { q with abort := q.abort || (q.jobOf 0).isSome }
    else s
  let s := s.abortNow p
  let s := if (s.part p).bfStopDue then s.stopBackfill p else s
  (List.range 153).foldl (fun s i =>
    if (s.slot p i 0).wait = .frameEnd then s.modSlot p i 0 Slot.resume else s) s

/-- A tick finds the frame of partition `p` incomplete: an overrun, with the lowest logical core in arrears (R64, R67). -/
def Block.overrun (s : Block) (p : Nat) (left : List Nat) : Block :=
  let s := s.modPart p fun q => { q with behind := q.behind + 1 }
  let s := s.log .merid (8 + p)
  let least := left.foldl (fun (m : Option Nat) i =>
    match m with
    | some k => if (s.slot p i 0).lcore < (s.slot p k 0).lcore then some i else m
    | none => some i) none
  let s := match least with
    | some i =>
      if s.causeSet .merid 5 then s
      else s.modMerid fun m => { m with ovrValid := true, ovrCore := (s.slot p i 0).lcore, ovrPc := (s.slot p i 0).pc,
                                        ovrPart := ((s.part p).bindP.map (fun (e : Nat × Nat) => e.2)).getD 0, ovrBehind := Nat.min (s.part p).behind 15 }
    | none => s
  (s.raise .merid 5).trace 5 (Page.merid.addr 0) [5, p]

/-- The frames of partition `p` at a tick. -/
def Block.frameTick (s : Block) (p : Nat) : Block :=
  let left := s.unfinished p
  if left.isEmpty then (s.modPart p fun q => { q with behind := 0 }).frameStart p else s.overrun p left

/-- FRAME_END (R47, R64, R76): the slot waits for its partition's next frame. Where the partition is behind, the last core to
execute it begins the next frame at once. A frame that began at its tick leaves the partition as many frames behind as ticks were
crossed in it; one that began late makes one good, and with none left the partition has caught up and waits for its tick
(assumption log 125). A backfill slot raises ILLEGAL_INSTR. -/
def Block.frameEndI (s : Block) (p i sl w : Nat) : Block :=
  if sl ≠ 0 then s.coreFault p i sl .illegal 0x200
  else
    let s := s.modSlot p i 0 fun t => { t with wait := .frameEnd, waitWord := w }
    if s.merid.framesRun && decide ((s.part p).behind ≠ 0) && (s.unfinished p).isEmpty then
      let s := s.modPart p fun q => { q with behind := if q.late then q.behind - 1 else q.behind }
      if (s.part p).behind = 0 then s else s.frameStart p
    else s

/-- FRAME_SLIP: the partition is more than OVR_LIMIT frames behind (R65); told once until it has caught up. -/
def Block.frameSlip (s : Block) (p : Nat) : Block :=
  let q := s.part p
  if q.slipped || decide (q.behind ≤ s.ovrLimit) then s
  else
    let s := ((s.modPart p fun q => { q with slipped := true }).log .merid (20 + p)).raise .merid 6
    match q.bindP with
    | some (job, _) => s.jobFault p 7 job q.behind 0x7FF
    | none => s

/-! The tick. -/

/-- The state of Meridian at a tick (Table 2.4), and the phase error that the upstream symbol gives: it arrived `arrive` ns after
the tick instant (R49). With no upstream link IN_LINK reads none, and HOPS and ERROR keep their last values (DESIGN CHOICE,
assumption log 157). The own hop count holds at 15, the most that its field carries (DESIGN CHOICE, assumption log 120). -/
def Block.meridTick (s : Block) (arrive : Int) : Block :=
  let s := if s.merid.state = .init ∧ (s.alone ∨ s.upLinks ≠ []) then s.setMerid .listen else s
  let s := if s.merid.state = .master ∧ s.prio = 0 then s.setMerid .listen else s
  let s := if s.merid.state = .master ∧ !s.refEn then s.modMerid fun m => { m with refState := .freeRun, refLast := none, refExpired := false } else s
  let s := s.modMerid fun m =>
    { m with silentTicks := if m.heard then 0 else m.silentTicks + 1, heard := false, stateTicks := m.stateTicks + 1,
             followLink := m.followLink.filter fun n => s.up n }
  if s.merid.state = .master then
    s.modMerid fun m => { m with inLink := none, hops := 0, phaseErr := 0, lockStreak := 0, masterPrio := s.prio }
  else match s.upstream with
    | none => s.modMerid fun m => { m with inLink := none, lockStreak := 0 }
    | some (n, h) =>
      let e := arrive - (s.mlink n).comp
      let s := s.modMerid fun m =>
        { m with inLink := some n, followLink := if m.state = .locking then some n else m.followLink, hops := Nat.min (h + 1) 15, phaseErr := e, phasePeak := Nat.max m.phasePeak (Nat.min e.natAbs 0xFFFF),
                 lockStreak := if e.natAbs ≤ 25 then m.lockStreak + 1 else 0 }
      if s.merid.state = .locked ∧ 200 < e.natAbs then s.setMerid .outOfStep else s

/-- A package sends tick symbols once it has a master's time: in LOCKING from its adoption on, in CLAIM where it came from
HOLDOVER, and in every later state (R49, R52; DESIGN CHOICE, assumption log 121). -/
def Merid.sendsTicks (m : Merid) : Bool :=
  match m.state with
  | .init => false
  | .listen => false
  | .claim => m.claimFrames
  | .locking => m.adopted
  | _ => true

/-- The step boundary of every job whose vote result came since the last tick (R297): the package takes part again in the
tick-bound launches of such a job if it has been back in step since it was last OUT_OF_STEP (R59, R285). -/
def Block.stepBoundary (s : Block) : Block :=
  let c := s.coll
  let back : Bool := c.back
  { s with coll := { c with stepNow := c.stepDue, stepDue := [],
                            absentJobs := if back then c.absentJobs.filter fun j => !c.stepDue.contains j else c.absentJobs } }

/-- TICK: the local tick (R46, R47, R49), shown on TICK_OUT while MERID_CTL.TICK_OUT_EN is 1 (R51). -/
def Block.tick (s : Block) (arrive : Int) : Block :=
  let m := s.merid
  let t := Nat.max s.timeUs (m.tickUs + m.period)
  let s := { s with timeUs := t }.modMerid fun m =>
    { m with tickUs := t, count := ((m.adopt.getD m.count) + 1) % 2 ^ 48, adopt := none }
  let s := (s.applyFb none).meridTick arrive
  let s := if bit (s.reg .merid 0x040) 10 then s.emit .tickOut else s
  let s := if s.merid.sendsTicks then s.toLinks s.upLinks s.tickBytes else s
  let s := if s.merid.masterIdDue then s.sendMasterIds else s
  let s := s.modMerid fun m => { m with links := smMapVals ({} : MLink) m.links fun _ l => { l with fresh := false } }
  let s := if s.poisonLatch then { s with poisonTick := true } else s
  let s := s.stepBoundary.placeTick.hostTick.voteTick.shedTick
  let s := (List.range 12).foldl (fun s p =>
    if (s.part p).state = .saved ∨ (s.part p).state = .saving then s
    else
      let s := s.modSyn p fun y => y.tick fun b => (s.part p).bfHeld && decide (s.barSlot p b = 1)
      s.modMmu p fun u => { u with recs := u.recs.map fun r => if s.recHeld p r then r else { r with age := r.age + 1 } }) s
  if s.merid.framesRun then (List.range 12).foldl (fun s p => s.frameTick p) s else s

/-! Election and masters. -/

/-- Epoch `b` is later than `a`, compared modulo 256 (R57). -/
def laterEpoch (a b : Nat) : Bool := decide (0 < (b + 256 - a) % 256) && decide ((b + 256 - a) % 256 < 128)

/-- LOCK_ACHIEVED (Table 2.4). -/
def Block.lockAchieved (s : Block) : Block :=
  if (s.merid.state = .locking ∨ s.merid.state = .outOfStep) ∧ 8 ≤ s.merid.lockStreak then s.setMerid .locked else s

/-- The package begins to follow a link in LOCKING (R55, R58): its master is the one the link's MASTER_ID names, if it has come;
its count is that of the symbol at the next tick. Where it knows the current epoch, a symbol of an earlier one is not followed, and
a count of the current one that it has adopted stands. -/
def Block.follow (s : Block) (n : Nat) (y : TickSym) : Block :=
  let m := s.merid
  if m.epochKnown && y.epoch ≠ m.epoch && !laterEpoch m.epoch y.epoch then s
  else
    let kept := m.epochKnown && m.adopted && decide (y.epoch = m.epoch)
    let s := s.modMerid fun m =>
      { m with followLink := some n, inLink := none, epoch := y.epoch, masterPrio := y.prio,
               adopt := if kept then m.adopt else some y.count, epochKnown := true, adopted := true }
    match (s.mlink n).mid with
    | some (prio, puid, e) =>
      if e = y.epoch ∧ !(kept && m.idTaken) then (s.newMaster prio puid y.epoch).modMerid fun m => { m with idTaken := true } else s
    | none => s

/-- A tick symbol on the followed link in LOCKING (R55, R57): the count of the first symbol of the current epoch is adopted at the
next tick; a later epoch becomes the current one. -/
def Block.lockingSym (s : Block) (y : TickSym) : Block :=
  let m := s.merid
  if !m.epochKnown || laterEpoch m.epoch y.epoch then
    s.modMerid fun m => { m with adopt := some y.count, epoch := y.epoch, masterPrio := y.prio, epochKnown := true, adopted := true }
  else if y.epoch = m.epoch ∧ !m.adopted then
    s.modMerid fun m => { m with adopt := some y.count, adopted := true }
  else s

/-- A tick symbol from its block (Table 2.1). -/
def tickSym (b : Nat) : TickSym :=
  let f := ctlByte b 9
  ⟨b / 2 ^ 8 % 2 ^ 48, ctlByte b 7, ctlByte b 8, f % 16, bit f 4, bit f 5, ctlByte b 10⟩

/-- A tick symbol of another period: received (Table 2.4), and counted, but neither followed nor adopted, since it steers nothing (R63;
assumption log 122). -/
def Block.otherPeriod (s : Block) (y : TickSym) : Block :=
  let s := s.log .merid 7
  match s.merid.state with
  | .listen => (s.setMerid .locking).modMerid fun m => { m with followLink := none, inLink := none }
  | .claim => (s.setMerid .locking).modMerid fun m => { m with followLink := none, inLink := none, epochKnown := m.claimFrames }
  | .holdover => if y.epoch = s.merid.epoch then s.setMerid .locked else s
  | _ => s

/-- TICK_SYMBOL_RECEIVE (R48, R49, R52, R55, R57, R58, R63). In HOLDOVER, once a claim has been noted, the epoch after the own one is
the current epoch too (DESIGN CHOICE, assumption log 123). A symbol on a link in RETRY or SPARING is received (DESIGN CHOICE,
assumption log 183). -/
def Block.tickIn (s : Block) (n b : Nat) : Block :=
  if !ctlGood b || ctlByte b 0 ≠ 1 then (s.log .merid 5).log (.lnk n) 12
  else if !(s.link n).state.live then s
  else
    let y := tickSym b
    let s := s.modMerid fun m => { m with heard := true }
    if y.period ≠ s.merid.period then s.otherPeriod y
    else
      let s := s.modMlink n fun l => { l with sym := some y, fresh := true }
      let s := if s.confirmed n && decide (y.epoch = s.merid.epoch) then s.prioFrom n y.prio else s
      match s.merid.state with
      | .listen => (s.setMerid .locking).follow n y
      | .claim =>
        ((s.setMerid .locking).modMerid fun m => { m with followLink := none, inLink := none, epochKnown := m.claimFrames }).follow n y
      | .locking =>
        match s.merid.followLink.filter fun k => s.up k with
        | none => s.follow n y
        | some k => if k = n then s.lockingSym y else s
      | .holdover =>
        if y.epoch = s.merid.epoch then s.setMerid .locked
        else match s.merid.claimBest with
          | some (prio, puid) =>
            if y.epoch = (s.merid.epoch + 1) % 256 then
              ((s.newMaster prio puid y.epoch).modMerid fun m => { m with claimBest := none }).setMerid .locked
            else s
          | none => s
      | .locked =>
        if s.confirmed n ∧ y.count ≠ s.merid.count then
          let first := s.merid.adopt.isNone
          let s := (s.modMerid fun m => { m with adopt := some y.count }).raise .merid 9
          if first then s.log .merid 6 else s
        else s
      | _ => s

/-- The package changes side (R57): the link becomes its upstream and is followed, the count of its tick symbol adopted at the next tick, the new master told
on all links. A claim names no epoch (`none`): the first tick symbol of the link gives it. -/
def Block.changeSide (s : Block) (n prio puid : Nat) (epoch : Option Nat) : Block :=
  let s := if s.merid.state = .locking then s else s.setMerid .locking
  let s := s.newMaster prio puid (epoch.getD s.merid.epoch)
  let now := if (s.mlink n).fresh then (s.mlink n).sym.filter fun y => some y.epoch = epoch else none
  let s := s.modMerid fun m =>
    { m with followLink := some n, inLink := some n, lockStreak := 0, stateTicks := 0, idTaken := true, epochKnown := epoch.isSome,
             adopted := now.isSome, adopt := now.map (·.count) }
  ((s.raise .merid 9).log .merid 6).sendMasterIds

/-- CLAIM_RECEIVE (R53, R56, R57). A claimant that withdraws forwards the better claim, and remembers the best that it has seen.
A symbol on a link in RETRY or SPARING is received (DESIGN CHOICE, assumption log 183). -/
def Block.claimIn (s : Block) (n b : Nat) : Block :=
  if !ctlGood b || ctlByte b 0 ≠ 2 then (s.log .merid 5).log (.lnk n) 12
  else if !(s.link n).state.live then s
  else
    let c := (ctlByte b 1, b / 2 ^ 16 % 2 ^ 64)
    let best := match s.merid.claimBest with
      | some x => better c x
      | none => true
    let note (s : Block) : Block :=
      (s.modMerid fun m => { m with claimBest := some c }).toLinks (s.upLinks.filter (· ≠ n)) (claimBytes c (ctlByte b 10 + 1))
    match s.merid.state with
    | .claim =>
      if better c (s.prio, puid) then
        let won := if best then c else s.merid.claimBest.getD c
        ((((if best then note s else s).log .merid 3).setMerid .locking).newMaster won.1 won.2 s.merid.epoch).modMerid fun m =>
          { m with claimBest := some won, followLink := none, inLink := none, epochKnown := m.claimFrames }
      else s
    | .init => s
    | .listen => if best then note s else s
    | .holdover => if best then note s else s
    | _ =>
      if better c (s.merid.masterPrio, s.merid.masterPuid) then (if best then note s else s).changeSide n c.1 c.2 none else s

/-- MASTER_ID_RECEIVE (R57, R58). -/
def Block.masterIdIn (s : Block) (n b : Nat) : Block :=
  if !(s.link n).state.live then s
  else
    let x := (ctlByte b 1, b / 2 ^ 16 % 2 ^ 64)
    let e := ctlByte b 10
    let s := s.modMlink n fun l => { l with mid := some (x.1, x.2, e) }
    let own := (s.merid.masterPrio, s.merid.masterPuid)
    match s.merid.state with
    | .init => s
    | .listen => s
    | .claim => s
    | .locking =>
      if s.merid.followLink = some n ∧ (!s.merid.idTaken || laterEpoch s.merid.epoch e || (decide (x.2 ≠ own.2) && better x own)) then
        (s.newMaster x.1 x.2 e).modMerid fun m => { m with idTaken := true, epochKnown := true, adopted := m.adopted && decide (m.epoch = s.merid.epoch) }
      else s
    | _ =>
      if x.2 = own.2 then
        (if laterEpoch s.merid.epoch e then s.modMerid fun m => { m with epoch := e, masterPrio := x.1 }
         else if e = s.merid.epoch then s.prioFrom n x.1 else s)
      else if better x own then s.changeSide n x.1 x.2 (some e)
      else s

/-- A claim goes out on all links (R53). -/
def Block.claim (s : Block) (frames : Bool) : Block :=
  let s := (s.setMerid .claim).modMerid fun m => { m with claimFrames := frames }
  s.toLinks s.upLinks (claimBytes (s.prio, puid) 0)

/-- MASTER_TIMEOUT: LISTEN for MASTER_TO ticks (Table 2.4). -/
def Block.masterTimeout (s : Block) : Block :=
  if s.merid.state = .listen ∧ s.masterTo ≤ s.merid.stateTicks ∧ s.prio ≠ 0 then s.claim false else s

/-- HOLDOVER_ENTRY: no tick symbol on any link for 2 ticks (Table 2.4). -/
def Block.holdoverEntry (s : Block) : Block :=
  if (s.merid.state = .locked ∨ s.merid.state = .outOfStep) ∧ 2 ≤ s.merid.silentTicks then
    (s.setMerid .holdover).modMerid fun m => { m with claimBest := none }
  else s

/-- HOLDOVER_CLAIM: HOLDOVER for MASTER_TO ticks (Table 2.4). -/
def Block.holdoverClaim (s : Block) : Block :=
  if s.merid.state = .holdover ∧ s.masterTo ≤ s.merid.stateTicks ∧ s.prio ≠ 0 then s.claim true else s

/-- CLAIM_WON: no better claim within the convergence bound (R54, R56); one noted before the own claim of the same election counts
too (DESIGN CHOICE, assumption log 156). A package with PRIO 0 never becomes master (R53). -/
def Block.claimWon (s : Block) : Block :=
  let lost : Bool := match s.merid.claimBest with
    | some x => better x (s.prio, puid)
    | none => false
  if s.merid.state ≠ .claim ∨ lost = true ∨ s.prio = 0 then s
  else
    let e := (s.merid.epoch + 1) % 256
    let s := (s.setMerid .master).newMaster s.prio puid e
    s.modMerid fun m => { m with inLink := none, hops := 0, phaseErr := 0, claimBest := none, followLink := none, masterIdDue := true }

/-- MASTER_ID_BROADCAST: a tick whose count is a multiple of 1,024 (R58). -/
def Block.masterIdBroadcast (s : Block) : Block := if s.merid.count % 1024 = 0 then s.sendMasterIds else s

/-! TICK_REF (R60, R61). -/

/-- The programmed TICK_REF period in µs (R60). -/
def Block.refPeriod (s : Block) : Nat := s.fld .merid 0x050 0 16 * s.merid.period

/-- TICK_REF_EDGE: a rising edge `dt` ns after the last accepted one, of a pulse `high` ns wide; `residual` ns remain after it.
Table 17.5 gives the minimum width, 100 ns. REF_STATE leaves FREE_RUN, and HOLDOVER_EXPIRED's condition ends, only with an edge whose
residual is below 100 ns (DESIGN CHOICE, assumption log 185). -/
def Block.refEdge (s : Block) (dt high residual : Nat) : Block :=
  let m := s.merid
  if m.state ≠ .master ∨ !s.refEn ∨ high < 100 then s
  else if m.refLast.isSome ∧ 2 * dt < s.refPeriod * 1000 then (s.log .merid 0).raise .merid 7
  else
    s.modMerid fun m =>
      { m with refLast := some s.timeUs, refState := if residual < 100 then .refLocked else m.refState,
               refExpired := m.refExpired && !decide (residual < 100) }

/-- REF_HOLDOVER: no accepted edge for two programmed periods. -/
def Block.refHoldover (s : Block) : Block :=
  let past : Bool := match s.merid.refLast with
    | some t => decide (t + 2 * s.refPeriod ≤ s.timeUs)
    | none => false
  if s.merid.state = .master ∧ s.refEn ∧ past ∧ s.merid.refState ≠ .holdover then
    ((s.modMerid fun m => { m with refState := .holdover, refHoldUs := s.timeUs }).raise .merid 3).log .merid 1
  else s

/-- HOLDOVER_EXPIRED: reference holdover has lasted 10 minutes. -/
def Block.refExpire (s : Block) : Block :=
  if s.merid.state = .master ∧ s.merid.refState = .holdover ∧ !s.merid.refExpired ∧ s.merid.refHoldUs + 600000000 ≤ s.timeUs then
    (s.modMerid fun m => { m with refExpired := true }).raise .merid 4
  else s

/-! Period change (R62). -/

/-- The count at which an armed switch happens. -/
def Block.switchAt (s : Block) : Nat := s.fld .merid 0x04C 0 16 * 2 ^ 32 + s.reg .merid 0x048

/-- PERIOD_SWITCH_ARM: MERID_SWITCH_HI written with `v` (Table 2.11). -/
def Block.switchArm (s : Block) (v : Nat) : Block :=
  let s := s.setReg .merid 0x04C (bits v 31 1 * 2 ^ 31 + bits v 0 16)
  if bit v 31 ∧ s.switchAt < s.merid.count + 8 then
    let at' := s.merid.count + 8
    ((s.setReg .merid 0x048 (at' % 2 ^ 32)).setReg .merid 0x04C (2 ^ 31 + at' / 2 ^ 32 % 2 ^ 16)).clamped .merid 0x04C
  else s

/-- PERIOD_SWITCH: at the armed count the new period takes effect, ARM clears, digests are exchanged (R62). -/
def Block.periodSwitch (s : Block) : Block :=
  if bit (s.reg .merid 0x04C) 31 ∧ s.merid.count = s.switchAt then
    let s := (s.setFld .merid 0x04C 31 1 0).modMerid fun m => { m with period := s.fld .merid 0x044 16 8 }
    let s := { s with links := smMapVals {} s.links fun _ l => { l with periodDue := decide (l.peerDg ≠ []) && decide (l.peerDg.getD 6 0 ≠ s.merid.period) } }
    (s.digestChanged).raise .merid 8
  else s

/-! Round trips (R50). -/

/-- RTT_REMEASURE: an RTT_PROBE with the timing clock's value, in ns, on every up link (R50, R236). -/
def Block.rttRemeasure (s : Block) : Block := s.toLinks s.upLinks ([7] ++ leBytes 8 (s.timeUs * 1000))

/-- RTT_PROBE_RECEIVE: answered with the value received (R236). -/
def Block.rttProbeIn (s : Block) (n b : Nat) : Block := s.sendCtl n ([8] ++ leBytes 8 (b / 256 % 2 ^ 64))

/-- RTT_ECHO_RECEIVE: a round trip of `rtt` ns has been measured (R50). -/
def Block.rttEchoIn (s : Block) (n rtt : Nat) : Block :=
  (s.modLink n fun l => { l with rtt := Nat.min rtt 65535 }).modMlink n fun l => { l with comp := compOf rtt }

end Sys2Proof.Machine
end

