-- ==== Sys2Proof/Machine/Ports.lean ====
section
/-! DEFINITION. PCIe ports and the Eyepiece's halt (spec/16, R422 to R428, R438). -/

namespace Sys2Proof.Machine

/-- The partition of VF `v` answers requests: the VF is enabled on the port and the partition is in service (R423). -/
def Block.vfAnswers (s : Block) (x v : Nat) : Bool := (s.port x).up && bit (s.port x).vfEn (v - 1) && s.partIn (v - 1)

/-- A completion with status Unsupported Request (`kind` 4) or Completer Abort (5). -/
def Block.tlpStatus (s : Block) (x kind : Nat) : Block := s.emit (.tlp x kind [])

/-- AER reports a correctable error, or an uncorrectable one (Table 16.1, R440). -/
def Block.aerError (s : Block) (x : Nat) (corr : Bool) : Block :=
  if corr then (s.log (.pcie x) 2).raise (.pcie x) 3 else (s.log (.pcie x) 3).raise (.pcie x) 4

/-- A request of the server that is refused is an unsupported request (R24, R423). AER takes a write for an uncorrectable error, and a
read, whose completion tells the server, for an advisory and so a correctable one (PRESUMED, assumption log 182). -/
def Block.unsupported (s : Block) (x : Nat) (write : Bool) : Block := (s.aerError x (!write)).tlpStatus x 4

/-- A write of value `a` to the doorbell of counter `n` through VF `v` (R424). -/
def Block.doorbell (s : Block) (x v n a : Nat) : Block :=
  let p := v - 1
  let drop (s : Block) : Block := s.log (.pcie x) 6
  if a = 0 ∨ 65535 < a ∨ (s.part p).jobOf 0 = none then drop s
  else match s.ctrNum p 0 n with
    | some k => (s.ctrApply p .add k a .mgmt).2
    | none => drop s

/-- What a read of dword `n` of the BAR0 of VF `v` returns (Table 16.2): a counter's value (R424), a word of the MSI-X table, pending
bits, else zero. A doorbell of no counter reads zero (DESIGN CHOICE, assumption log 198). -/
def Block.vfWord (s : Block) (x v n : Nat) : Nat :=
  let m := smGet ({} : Msix) (s.port x).msix v
  if n < 4096 then match s.ctrNum (v - 1) 0 n with
    | some k => if (s.part (v - 1)).jobOf 0 = none then 0 else (s.syn (v - 1)).ctr k
    | none => 0
  else if 8192 ≤ n ∧ n < 8256 then
    if n % 4 = 3 then b2n (bit m.masked ((n - 8192) / 4)) else smGet 0 m.table (n - 8192)
  else if n = 9216 then m.pending % 65536
  else 0

/-- DOORBELL_WRITE: dword `n` of the BAR0 of VF `v` is written with `a`, or read (R423, R424): a doorbell, the MSI-X table, whose
unmasked vectors send what was pending (R427); the rest ignores writes. -/
def Block.vfAccess (s : Block) (x v n : Nat) (a : Option Nat) : Block :=
  if !(s.port x).up then s
  else if !s.vfAnswers x v then s.unsupported x a.isSome
  else match a with
    | none => s.emit (.tlp x 3 (leBytes 4 (s.vfWord x v n)))
    | some a =>
      if n < 4096 then s.doorbell x v n a
      else if 8192 ≤ n ∧ n < 8256 then
        let k := (n - 8192) / 4
        let put (m : Msix) : Msix :=
          if n % 4 = 3 then { m with masked := if bit m.masked k = bit a 0 then m.masked else if bit a 0 then m.masked + 2 ^ k else m.masked - 2 ^ k }
          else { m with table := smPut 0 m.table (n - 8192) (if n % 4 = 0 then a / 4 * 4 else a) }
        (s.modPort x fun y => { y with msix := smMod ({} : Msix) y.msix v put }).msixDue x v
      else s

/-- APERTURE_ACCESS: an access of the server through PF BAR2 at byte `off` (R423, R378). -/
def Block.aperture (s : Block) (x off n : Nat) (write : Bool) (data : List Nat) (pois : Bool) : Block :=
  let a := s.pair (.pcie x) 0x048 0x04C 30 + off
  if !(s.port x).up then s
  else if write && pois then s.log (.pcie x) 7
  else if n = 0 ∨ !(inHbm a n || inCap a n) ∨ !s.canAccess a n then s.unsupported x write
  else
    let count (s : Block) : Block := s.modPort x fun y => { y with hostBytes := y.hostBytes + n }
    if write then count (s.memWrite a ((data ++ List.replicate n 0).take n))
    else
      let (bs, poisoned, s) := s.memRead a n
      if poisoned then (s.observePoison (.pcie x)).tlpStatus x 5
      else (count s).emit (.tlp x 3 bs)

/-- ATS_INVALIDATION: entries of a VF for `n` pages from `page` leave the port's cache, and the completion is sent once no read that
uses them is out and no write waits with them (R425). -/
def Block.atsInvalidate (s : Block) (x v page n : Nat) : Block :=
  if !(s.port x).up then s
  else
    let uses (e : Nat × Option PcieReq) : Bool := match e.2 with
      | some (.read p _ _ _ _ pg _ _ _ _) => p + 1 = v && decide (page ≤ pg) && decide (pg < page + n)
      | _ => false
    let s := s.modPort x fun y =>
      { y with ats := y.ats.filter fun e => !(e.1 + 1 = v && decide (page ≤ e.2.1) && decide (e.2.1 < page + n)),
               invals := y.invals ++ [(v, page, n, (y.reqs.filter uses).map (·.1))] }
    ((s.mapDsts (Dst.invalid x v page n)).raise (.pcie x) 6).invalsOut x

/-- The request that a tag names is over. -/
def Block.reqDone (s : Block) (x tag : Nat) : Block :=
  (s.modPort x fun y => { y with reqs := smPut none y.reqs tag none }).invalsOut x

/-- A channel waits no more for the host. -/
def Block.hostDone (s : Block) (p j ch id : Nat) : Block := s.modDesc p j ch id fun d => { d with hostWait := false }

/-- A transfer's translation is denied or unanswered: the channel parks (R177, R179), once the data of earlier
reads has been written (R201). -/
def Block.hostDeny (s : Block) (p j ch id va : Nat) (write : Bool) (cause : Nat) : Block :=
  if ((s.chan p j ch).cur.map (·.id)) = some id then (s.hostDone p j ch id).parkAt p j ch va write cause 0 else s

/-- A PRI page request goes out (R177). -/
def Block.priAsk (s : Block) (x p j ch id va page : Nat) (write : Bool) : Block :=
  s.hostAsk x (.pri p j ch id va page write) 7 [p + 1, page, b2n write]

/-- A channel's descriptor whose host access is lost ends REMOTE_FAIL. -/
def Block.hostLost (s : Block) (p j ch id : Nat) : Block := s.descFail p j ch id 0x0A

/-- PCIE_COMPLETION: the server answers the request with tag `tag` (R177, R425). `ok`: successful; `perm`: an ATS translation allows
writes; `data`: a read's bytes, or the translated address of a translation, in its first 8 bytes (PRESUMED, assumption log 197). -/
def Block.pcieDone (s : Block) (x tag : Nat) (ok perm : Bool) (data : List Nat) : Block :=
  match smGet none (s.port x).reqs tag with
  | none => s
  | some r =>
    let s := s.reqDone x tag
    match r with
    | .read p j ch id num _ n dsts par old =>
      if ok then
        (s.modPort x fun y => { y with devRd := y.devRd + n }).pieceIn p j ch id num dsts ((data ++ List.replicate n 0).take n)
          (parityMark par []) old
      else s.hostLost p j ch id
    | .ats p j ch id va page write retried =>
      if ok && (!write || perm) then
        (s.modPort x fun y => { y with ats := (p, page, perm, leNat (data.take 8) / 4096 * 4096) :: y.ats.filter fun e => !(e.1 = p && e.2.1 = page) }).hostDone p j ch id
      else if !retried && bit (s.reg (.pcie x) 0x040) 3 then s.priAsk x p j ch id va page write
      else s.hostDeny p j ch id va write 6
    | .pri p j ch id va page write =>
      if ok then s.atsAsk p j ch id x va page write true else (s.log (.pcie x) 5).hostDeny p j ch id va write 6

/-- PCIE_COMPLETION_TIMEOUT: no answer within CTO_MS (R177, R425), which AER takes for an uncorrectable error (PRESUMED, assumption log
182). -/
def Block.pcieTimeout (s : Block) (x tag : Nat) : Block :=
  match smGet none (s.port x).reqs tag with
  | none => s
  | some r =>
    let s := (((s.reqDone x tag).raise (.pcie x) 5).log (.pcie x) 4).aerError x false
    match r with
    | .read p j ch id _ _ _ _ _ _ => s.hostLost p j ch id
    | .ats p j ch id va _ write _ => s.hostDeny p j ch id va write 7
    | .pri p j ch id va _ write => s.hostDeny p j ch id va write 7

/-- Requests of a port end under R425, those of one partition or all. -/
def Block.reqsEnd (s : Block) (x : Nat) (only : Option Nat) : Block :=
  let mine (e : Nat × Option PcieReq) : Bool := match e.2, only with
    | some r, some p => decide (r.chan.1 = p)
    | some _, none => true
    | none, _ => false
  let gone := (s.port x).reqs.filter mine
  let s := (s.modPort x fun y => { y with reqs := y.reqs.filter fun e => !mine e }).invalsOut x
  gone.foldl (fun s e => match e.2 with
    | some r => s.hostLost r.chan.1 r.chan.2.1 r.chan.2.2.1 r.chan.2.2.2
    | none => s) s

/-- A port goes down: its configuration, ATS cache and PRI state are reset, and its requests end, writes that wait for data among them
(R425, R428). -/
def Block.portDown (s : Block) (x : Nat) : Block :=
  let s := s.modPort x fun y => { y with gen := 0, width := 0, vfEn := 0, ats := [], invals := [], msix := [], bars := [], due := none }
  let s := s.reqsEnd x none
  let gone := s.dstsWaiting.filter fun w => w.2.any fun d => d.port = some x
  let s := gone.foldl (fun s w => s.hostLost w.1.1 w.1.2.1 w.1.2.2.1 w.1.2.2.2) s
  (s.raise (.pcie x) 0).log (.pcie x) 0

/-- PORT_RESET (R428): `pin`: PERST_N asserted, else a Hot Reset or link down. -/
def Block.portReset (s : Block) (x : Nat) (pin : Bool) : Block :=
  let s := if pin then (s.modPort x fun y => { y with perst := true }).raise (.pcie x) 1 else s
  s.portDown x

/-- PERST_N asserted while PKG_RST_N holds the package in reset: the pin alone shows (R451). -/
def Block.perstPin (s : Block) (x : Nat) (pin : Bool) : Block := if pin then s.modPort x fun y => { y with perst := true } else s

/-- PORT_TRAIN: PERST_N is recognised released (R451); with boot step HUB ended the port trains at generation `gen` and `width` lanes (R422, R452). The
server then enables the VFs `vfs` and configures functions, at once, or from READY on: until then its configuration request is answered
Request Retry Status. -/
def Block.portTrain (s : Block) (x gen width vfs : Nat) (cfg : List FnCfg) : Block :=
  let hub := s.boot.ready || decide (5 < s.boot.step)
  let cap := 6 - Nat.min (s.fld (.pcie x) 0x040 0 2) 2
  let s := s.modPort x fun y => { y with perst := false }
  if s.boot.power ≠ .on || !hub || gen = 0 || decide (cap < gen) || !([4, 8, 16] : List Nat).contains width then s
  else
    let old := (s.port x).gen
    let s := if old ≠ 0 ∧ gen < old then s.log (.pcie x) 1 else s
    let s := (s.modPort x fun y => { y with gen := gen, width := width, due := some (vfs, cfg) }).portCfg x
    if s.boot.ready then s else s.emit (.tlp x 8 [])

/-- A descriptor of a channel reads or writes through port `x`: the first or last element of a row, or the one that it has reached, lies in
a host leaf of that port. -/
def Block.throughPort (s : Block) (p j ch x : Nat) (l : XList) (d : Desc) : Bool :=
  let leaf (kind a : Nat) (w : Bool) : Bool := kind = 0 && match (s.translate p ch (some j) a w false).1 with
    | .host port _ _ _ => port = x
    | _ => false
  let at' (d : Desc) : Bool := leaf (dSrcKind d.bytes) (d.addrs l).1 false || leaf (dDstKind d.bytes) (d.addrs l).2 true
  (!d.moved && at' d) || (List.range (dRows d.bytes)).any fun r =>
    at' { d with row := r, off := 0 } || at' { d with row := r, off := dRowBytes d.bytes - 1 }

/-- The lists of partition `p` through port `x` end REMOTE_FAIL (Table 16.3), each channel's at its first such descriptor, started or
not. -/
def Block.listsEnd (s : Block) (x p : Nat) : Block :=
  (List.range 72).foldl (fun s k =>
    let c := s.chan p (k / 2) (k % 2)
    match (List.range c.left).find? fun n => match descAt c.lists n with
      | some l => s.throughPort p (k / 2) (k % 2) x l
          ((c.started[n]?).getD { bytes := s.memBytes (coreBase p l.core + l.base + 64 * l.next) 64 })
      | none => false with
    | some n => s.chanStopAt p (k / 2) (k % 2) n 0x0A
    | none => s) s

/-- A Function Level Reset of VF `v` (R428). -/
def Block.vfReset (s : Block) (x v : Nat) : Block :=
  let p := v - 1
  let s := (s.listsEnd x p).modPort x fun y => { y with ats := y.ats.filter fun e => e.1 ≠ p, msix := smPut ({} : Msix) y.msix v {} }
  let s := s.reqsEnd x (some p)
  if (s.part p).bindP.isSome then s.partAbort p else s

/-- VF_FLR. -/
def Block.vfFlr (s : Block) (x v : Nat) : Block :=
  if !(s.port x).up || !bit (s.port x).vfEn (v - 1) then s
  else ((s.vfReset x v).raise (.pcie x) 2).log (.pcie x) 9

/-- PF_FLR: PF configuration reset, every VF disabled (R428). -/
def Block.pfFlr (s : Block) (x : Nat) : Block :=
  if !(s.port x).up then s
  else
    let vs := (List.range 13).filter fun v => v ≠ 0 && bit (s.port x).vfEn (v - 1)
    let s := vs.foldl (fun s v => ((s.vfReset x v).raise (.pcie x) 2).log (.pcie x) 9) s
    ((s.modPort x fun y => { y with vfEn := 0, msix := [], bars := [], due := none }).raise (.pcie x) 2).log (.pcie x) 9

/-- MSIX_SEND: PCIE_MSIX_SEND written with `v` (R427, Table 16.10). -/
def Block.msixSend (s : Block) (x v : Nat) : Block :=
  let f := bits v 0 4
  let fn := if 12 < f then 0 else f
  let vec := bits v 8 5
  let lim := if fn = 0 then 31 else 15
  let s := if fn ≠ f ∨ lim < vec then s.clamped (.pcie x) 0x050 else s
  let vec := Nat.min vec lim
  if fn ≠ 0 ∧ !s.partIn (fn - 1) then s.log (.pcie x) 8
  else
    let m := smGet ({} : Msix) (s.port x).msix fn
    if m.enabled && !bit m.masked vec then s.emit (.msix x fn vec)
    else s.modPort x fun y => { y with msix := smMod ({} : Msix) y.msix fn fun z => { z with pending := setBit1 z.pending vec } }

/-- EYEP 0x054 written with `on` (R438): the core that EYEP_CORE names is halted, unless a job is bound to it or the
Eyepiece is locked, or it goes on. -/
def Block.eyepHalt (s : Block) (on : Bool) : Block :=
  let p := s.fld .eyep 0x050 16 4
  let i := s.fld .eyep 0x050 0 8
  if on then
    if (s.core p i).halted then s
    else if !s.eyep.unlocked || (s.slot p i 0).bound || (s.slot p i 1).bound then (s.clamped .eyep 0x054).log .eyep 3
    else (s.modCore p i fun k => { k with halted := true }).raise .eyep 3
  else s.modCore p i fun k => { k with halted := false }

/-- EYEP_HALT's access to a register of the named core or a byte of its core memory (R438): a write changes it, a read answers its
value, or for a poisoned byte 0 with an error response (R376, R378). The core must be halted and the Eyepiece unlocked, else the access is refused and counted as a halt is (DESIGN CHOICE, assumption
log 198). -/
def Block.eyepAccess (s : Block) (op : HaltOp) : Block :=
  let p := s.fld .eyep 0x050 16 4
  let i := s.fld .eyep 0x050 0 8
  let say (v : Nat) : Block := s.emit (.mgmtResp v false)
  let put (sl : Nat) (f : Slot → Slot) : Block := s.modSlot p i sl f
  if !s.eyep.unlocked || !(s.core p i).halted then s.log .eyep 3
  else match op with
    | .run _ => s
    | .sreg sl r none => say ((s.slot p i sl).s r)
    | .sreg sl r (some v) => put sl fun t => t.setS r v.toNat
    | .areg sl r none => say ((s.slot p i sl).a r)
    | .areg sl r (some v) => put sl fun t => { t with aregs := smPut 0 t.aregs r v.toNat }
    | .td sl r none => say (smGet 0 (s.slot p i sl).tds r)
    | .td sl r (some v) => put sl fun t => { t with tds := smPut 0 t.tds r v.toNat }
    | .pc sl none => say (s.slot p i sl).pc
    | .pc sl (some v) => put sl fun t => { t with pc := v.toNat }
    | .flags sl none => say (s.slot p i sl).flags
    | .flags sl (some v) => put sl fun t => { t with flags := v.toNat }
    | .actl sl none => say (s.slot p i sl).actl
    | .actl sl (some v) => if (actlBad v.toNat).isSome then s else put sl fun t => { t with actl := v.toNat }
    | .vreg r none => say ((s.core p i).v r)
    | .vreg r (some v) => s.modCore p i fun k => { k with vregs := smPut 0 k.vregs r v.toNat }
    | .mem off none =>
      let a := coreBase p i + off.toNat
      if s.memPoisoned a 1 then (s.observePoison .eyep).emit (.mgmtResp 0 true) else say (leNat (s.memBytes a 1))
    | .mem off (some v) => s.poke (coreBase p i + off.toNat) [v.toNat]

end Sys2Proof.Machine
end

