-- ==== Sys2Proof/Machine/Regs.lean ====
section
/-! DEFINITION. Management accesses: the page header, the Logbook, RW fields with their clamps, what every register reads as
(spec/01, R31 to R44, R468, and the register tables of each chapter). -/

namespace Sys2Proof.Machine

/-- OWNER code of a requester (Table 1.18). -/
def Requester.code : Requester → Nat
  | .mgmtCtl => 1
  | .rhostFw => 2
  | .pf0 => 3
  | .pf1 => 4
  | .remoteFw => 5
  | .job => 0

/-- HDR_LOCK keeps a requester from the page's RW fields (R35). -/
def Block.lockedOut (s : Block) (pg : Page) (req : Requester) : Bool := (s.hdr pg).lock && decide ((s.hdr pg).owner ≠ req.code)

/-- A write to RW fields of a page at offset `off`: an access for a job is refused (R26); one that HDR_LOCK refuses is a clamp if it
would have changed a value (R35, R39). -/
def Block.guard (s : Block) (pg : Page) (req : Requester) (off : Nat) (changes : Bool) (f : Block → Block) : Block :=
  if req = .job then s.emit (.memRefused (0x30000000000 + pg.addr off))
  else if s.lockedOut pg req then (if changes then s.clamped pg off else s)
  else f s

/-- A write to W1S, W1C or WO fields of a page: refused only for a job (R26). -/
def Block.guardW (s : Block) (req : Requester) (f : Block → Block) : Block :=
  if req = .job then s.emit (.memRefused 0x30000000000) else f s

/-! Frame-bound registers (R21). -/

/-- The word is frame-bound. -/
def Page.frameBound (pg : Page) (o : Nat) : Bool :=
  match pg with
  | .merid => o = 0x040 || o = 0x044
  | .core _ _ => o = 0x040
  | .mxe _ _ => o = 0x040 || o = 0x044 || o = 0x084
  | .sync _ => o = 0x040
  | .coll _ _ => o = 0x040
  | .eph => o = 0x040
  | .helioP _ => o = 0x040
  | .part _ => o = 0x040
  | _ => false

/-- The partition of a page in a partition domain. -/
def Page.fbPart (pg : Page) : Option Nat :=
  let d := pg.loc.1
  if 1 ≤ d ∧ d ≤ 12 then some (d - 1) else none

/-- The value written to a word: the one in force, or the one that waits for its frame boundary. -/
def Block.regNow (s : Block) (pg : Page) (o : Nat) : Nat :=
  match s.frameBound.find? fun w => w.off = (pg.home o).addr o with
  | some w => w.value.toNat
  | none => s.reg pg o

/-- A word stored, or put down for its frame boundary. -/
def Block.putReg (s : Block) (pg : Page) (o v : Nat) : Block :=
  if pg.frameBound o then
    let a := (pg.home o).addr o
    { s with frameBound := s.frameBound.filter (fun w => w.off ≠ a) ++ [⟨pg.fbPart, a, BitVec.ofNat 32 v⟩] }
  else s.setReg pg o v

/-! Clamps (R37). -/

/-- The nearest legal value of a field, given the whole word written. -/
def Block.clampTo (s : Block) (pg : Page) (f : RwField) (w v : Nat) : Nat :=
  match f.clamp with
  | .full => v
  | .range lo hi => if v < lo then lo else if hi < v then hi else v
  | .enum m d => if m < v then d else v
  | .special =>
    match pg, f.off with
    | .coll _ _, 0x058 =>
      let hi := 128 - bits w 16 7
      if v < 1 then 1 else if hi < v then hi else v
    | .helioP _, 0x040 => if s.topStep < v then s.topStep else v
    | .eph, 0x044 => if 1024 ≤ v ∧ v < 0xFFFF then 1023 else v
    | .ephP _, o =>
      if o = 0x040 ∨ o = 0x044 then (if 11 < v then 11 else v)
      else if o < 0x080 then (let b := v % 16 + v / 128 * 128; if 128 ≤ b ∧ 8 < b % 128 then 0 else b)
      else (let b := v % 32 + v / 128 * 128; if 128 ≤ b ∧ 16 < b % 128 then 0 else b)
    | .eyep, 0x040 => if s.eyep.unlocked then v else v / 16 * 16
    | .lnk _, 0x060 => if 0xC000 ≤ v ∧ v ≤ 0xFFFE then 0xBFFF else v
    | .helio, 0x04C => if v = 0 then 0 else if v < 1200 then 1200 else if 3600 < v then 3600 else v
    | .upd, o =>
      if 0x100 ≤ o ∧ (o - 0x100) % 32 = 0x08 then
        let c := (s.ring ((o - 0x100) / 32)).cons
        if 4 < (v + 256 - c) % 256 then (c + 4) % 256 else v
      else v
    | _, _ => v

/-- Bits of a map byte that are reserved are no part of the field. -/
def Page.fieldSees (pg : Page) (f : RwField) (v : Nat) : Nat :=
  match pg with
  | .ephP _ =>
    if 0x050 ≤ f.off ∧ f.off < 0x080 then v % 16 + v / 128 * 128
    else if 0x080 ≤ f.off then v % 32 + v / 128 * 128 else v
  | _ => v

/-- The nearest legal address, the lower on a tie (R37, R468): `n` = 2 ^ align is the alignment. -/
def nearestAddr (n a : Nat) (capOnly : Bool) : Nat :=
  let hb := 0x9000000000
  let clo := 0x10000000000
  let chi := 0x1F800000000
  if clo ≤ a ∧ a < chi then a
  else if chi ≤ a then chi - n
  else if capOnly then clo
  else if a < hb then a
  else if a - (hb - n) ≤ clo - a then hb - n else clo

/-- The address pair that a word belongs to. -/
def Page.pairOf (pg : Page) (o : Nat) : Option AddrPair := pg.pairs.find? fun q => q.lo = o || q.hi = o

/-- Bits of a word that an address pair holds. -/
def AddrPair.mask (q : AddrPair) (o : Nat) : Nat := if o = q.lo then 2 ^ 32 - 2 ^ q.align else 2 ^ 16 - 1

/-- Words whose RW fields live elsewhere than in the register store. -/
def Page.sharedRw (pg : Page) (o : Nat) : Bool :=
  match pg with
  | .sync _ => 0x100 ≤ o && o < 0xD00 && (o - 0x100) % 12 ≠ 4
  | .upd => 0x100 ≤ o && o < 0x280 && (o - 0x100) % 32 = 0x08
  | .boot => o = 0x050
  | .eyep => o = 0x054
  | _ => false

/-- The RW bits of words that one value of the package fills: SYNC counters, HBMC_IMAP.NEXT, ROUTE_ENTRY. -/
def Page.ownRw (pg : Page) (o : Nat) : Nat :=
  match pg with
  | .ctr _ _ => if 0x040 ≤ o ∧ o < 0x440 then 0xFFFFFFFF else 0
  | .hbmc _ => if o = 0x040 then 3 else 0
  | .route _ => if o = 0x044 then 0xBFFFFFFF else 0
  | _ => 0

/-- The RW bits of a word. -/
def Page.rwMask (pg : Page) (o : Nat) : Nat :=
  ((pg.fields o).map fun f => pg.fieldSees f (2 ^ f.width - 1) * 2 ^ f.lo).sum +
    match pg.pairOf o with
    | some q => q.mask o
    | none => pg.ownRw o

/-- The word that the fields of word `o` take from `v`, each clamped on its own, and whether one was (R37). -/
def Block.legal (s : Block) (pg : Page) (o v : Nat) : Nat × Bool :=
  (pg.fields o).foldl (fun (acc : Nat × Bool) f =>
    let x := pg.fieldSees f (bits v f.lo f.width)
    let y := s.clampTo pg f v x
    (acc.1 + y * 2 ^ f.lo, acc.2 || decide (y ≠ x)))
    (match pg.pairOf o with
    | some q => v &&& q.mask o
    | none => 0, false)

/-- The RW fields of a word take the values written, each clamped on its own; an address pair is checked as a whole (R37, R38,
R468). -/
def Block.rwWrite (s : Block) (pg : Page) (o v : Nat) : Block :=
  let (w, bad) := s.legal pg o v
  let s := s.putReg pg o w
  match pg.pairOf o with
  | some q =>
    let a := s.pair pg q.lo q.hi q.align
    let a' := nearestAddr (2 ^ q.align) a q.capOnly
    let s := if a' = a then s
      else
        let lo := s.reg pg q.lo
        let hi := s.reg pg q.hi
        (s.setReg pg q.lo (a' % 2 ^ 32 + lo % 2 ^ q.align)).setReg pg q.hi (a' / 2 ^ 32 + hi / 2 ^ 16 * 2 ^ 16)
    if bad || decide (a' ≠ a) then s.clamped pg o else s
  | none => if bad then s.clamped pg o else s

/-! The header. -/

/-- HDR_CTL.ENABLE is RO in the page (R466, Table 13.17). -/
def Page.enableRo : Page → Bool
  | .clus _ _ => true
  | .vreg _ => true
  | .vregP _ _ => true
  | _ => false


/-- HDR_CTL.ENABLE as it resets (R229, R466). -/
def Block.enableReset (s : Block) (pg : Page) : Bool :=
  match pg with
  | .lnk n => s.linkLicensed n
  | _ => true

/-- HDR_CTL.ENABLE. -/
def Block.enabled (s : Block) (pg : Page) : Bool := ((s.hdr pg).enaW).getD (s.enableReset pg)

/-- HDR_STAT.OUT_OF_SERVICE (R18, R19, R150, R227, R409, R466). -/
def Block.oos (s : Block) (pg : Page) : Bool :=
  match pg with
  | .core p i => !s.partIn p || !(s.part p).coreOk i
  | .mxe p i => !s.partIn p || !(s.part p).coreOk i
  | .clus p c => s.clusterOos p c
  | .dma p j => !s.partIn p || (s.eng p j).failed
  | .ctr p _ => !s.partIn p
  | .sync p => !s.partIn p
  | .coll p _ => !s.partIn p
  | .part p => !s.partIn p
  | .mmu p => !s.partIn p
  | .ephP p => !s.partIn p
  | .msc p => bit s.tiers.stackOos p
  | .hbmc p => bit s.tiers.stackOos p
  | .lnk n => !s.linkLicensed n
  | .capc d => !bit s.tiers.capIn d
  | .rhost h => bit s.boot.alm.hosts h
  | .upd => s.boot.alm.updBad
  | _ => false

/-- HDR_STAT.DRAINING (R386). -/
def Block.isDraining (s : Block) (pg : Page) : Bool :=
  match pg with
  | .dma _ _ => (s.hdr pg).draining
  | .part _ => (s.hdr pg).draining
  | .coll p q => !s.enabled pg && !(s.queue p q).pending.isEmpty
  | .upd => !s.enabled pg && (List.range 12).any fun r => (s.ring r).step.isSome
  | .lnk n => match (s.link n).state with
    | .drainDisable _ => true
    | _ => false
  | _ => false

/-- Fault records held under a cause that is cleared are free (R36). -/
def Block.freeRecord (s : Block) (pg : Page) (n : Nat) : Block :=
  match pg with
  | .core p i => s.modCore p i fun k => if k.faultValid && k.faultSlot = n then { k with faultValid := false } else k
  | .sync p => if n = 0 then s.modSyn p fun y => { y with fault := none } else s
  | .coll p q => s.modQueue p q fun c => match c.fault with
    | some r => if r.cause = n then { c with fault := none } else c
    | none => c
  | .part p => s.modPart p fun q =>
    if n = 0 then { q with jf := none } else if n = 4 then { q with pFail := none } else if n = 6 then { q with xrec := none } else q
  | .merid => if n = 5 then s.modMerid fun m => { m with ovrValid := false } else s
  | .hbmc p => s.modHbmc p fun h =>
    if (n = 0 ∧ h.err.kind = 1) ∨ (n = 1 ∧ h.err.kind = 3) then { h with err := { h.err with valid := false } } else h
  | .capc d => s.modCapc d fun h =>
    if (n = 0 ∧ h.err.kind = 1) ∨ (n = 1 ∧ h.err.kind = 3) then { h with err := { h.err with valid := false } } else h
  | .vregP p r => if n = 0 then s.modVreg (4 * p + r) fun x => { x with fault := none } else s
  | .vreg r => if n = 0 then s.modVreg (48 + r) fun x => { x with fault := none } else s
  | _ => s

/-- IRQ_CAUSE_CLEAR: the bits of `v` leave HDR_IRQ_STAT, and the records held under them are free (R36). -/
def Block.irqClear (s : Block) (pg : Page) (v : Nat) : Block :=
  let set := (List.range 30).filter fun n => bit v n && s.causeSet pg n
  let s := s.modHdr pg fun h => { h with irqStat := h.irqStat &&& ~~~ BitVec.ofNat 32 v }
  set.foldl (fun s n => s.freeRecord pg n) s

/-- BLOCK_DISABLE: HDR_CTL.ENABLE written 0 (R386). -/
def Block.disable (s : Block) (pg : Page) : Block :=
  if pg.enableRo then s else match pg with
  | .lnk n => s.linkDisable n
  | .dma p j =>
    let busy := !((s.eng p j).pri.lists.isEmpty && (s.eng p j).bf.lists.isEmpty)
    s.modHdr pg fun h => { h with enaW := some false, draining := busy }
  | .coll p q => (s.queueDisable p q).modHdr pg fun h => { h with enaW := some false }
  | .part _ => s.modHdr pg fun h => { h with enaW := some false, draining := h.draining || h.enaW ≠ some false }
  | pg => s.modHdr pg fun h => { h with enaW := some false }

/-- BLOCK_ENABLE: HDR_CTL.ENABLE written 1; a drain ends at once (R386). -/
def Block.enable (s : Block) (pg : Page) : Block :=
  if pg.enableRo then s else match pg with
  | .lnk n => s.linkEnable n
  | pg => s.modHdr pg fun h => { h with enaW := some true, draining := false }

/-- HDR_CTL written (Table 1.12). -/
def Block.ctlWrite (s : Block) (pg : Page) (v : Nat) : Block :=
  let s := s.modHdr pg fun h => { h with snapEn := bit v 2, freeze := bit v 1 }
  if bit v 0 = s.enabled pg then
    (if bit v 0 ∧ s.isDraining pg then s.enable pg else s)
  else if bit v 0 then s.enable pg else s.disable pg

/-- HDR_LOG_BASE: address bits [41:10] (Table 1.17). -/
def Block.logBaseWrite (s : Block) (pg : Page) (v : Nat) : Block :=
  let a := v % 2 ^ 32 * 1024
  let a' := nearestAddr 1024 a false
  let s := s.modHdr pg fun h => { h with logBase := BitVec.ofNat 32 (a' / 1024) }
  if a' = a then s else s.clamped pg 0x020

/-- HDR_LOCK_SET: LOCK written 1 makes the writer OWNER, if nobody is (R35). -/
def Block.lockSet (s : Block) (pg : Page) (req : Requester) : Block :=
  match pg with
  | .clus _ _ => s
  | pg => if (s.hdr pg).lock then s else s.modHdr pg fun h => { h with lock := true, owner := req.code }

/-- CLAMP_CNT_CLEAR: HDR_CLAMP_CNT written with `v`; a nonzero write is ignored (Table 1.16). -/
def Block.clampClear (s : Block) (pg : Page) (v : Nat) : Block :=
  if v % 65536 = 0 then s.modHdr pg fun h => { h with clampCnt := 0 } else s

/-- Logbook counter `n` of a page. -/
def Block.logOf (s : Block) (pg : Page) (n : Nat) : Nat := smGet 0 s.logs (pg.key * 256 + n)

/-- One Logbook counter written: zero clears it (R41). -/
def Block.logZero (s : Block) (pg : Page) (n v : Nat) : Block :=
  if v = 0 ∧ n < pg.logCount then { s with logs := smPut 0 s.logs (pg.key * 256 + n) 0 } else s

/-- LOGBOOK_CLEAR: the word at 0xE00 + 4m written (R40, R41). -/
def Block.logWrite (s : Block) (pg : Page) (m v : Nat) : Block :=
  (s.logZero pg (2 * m) (v % 65536)).logZero pg (2 * m + 1) (v / 65536 % 65536)

/-! What registers read as. -/

def lo32 (v : Nat) : Nat := v % 2 ^ 32
def hi32 (v : Nat) : Nat := v / 2 ^ 32 % 2 ^ 32

/-- A signed value held at ±32,767, as 16 bits. -/
def sat16s (e : Int) : Nat := (if 32767 < e then 32767 else if e < -32767 then 65536 - 32767 else (e % 65536)).toNat

/-- HDR_STAT (Table 1.13). -/
def Block.hdrStat (s : Block) (pg : Page) : Nat :=
  let h := s.hdr pg
  h.lastClampOff % 4096 * 2 ^ 16 + b2n (h.irqStat.toNat % 2 ^ 30 ≠ 0) * 16 + b2n h.lock * 8 + b2n (s.oos pg) * 4 +
    b2n (s.isDraining pg) * 2 + b2n (match pg with
      | .clus _ _ => !s.oos pg
      | _ => s.enabled pg)

/-- HDR_ID (Table 1.9). -/
def Page.hdrId (pg : Page) : Nat := pg.loc.1 * 2 ^ 28 + pg.loc.2.1 * 2 ^ 20 + pg.loc.2.2 * 2 ^ 12 + 0xA5

/-- HDR_CAPS (Table 1.11); no chapter but that of CLUS defines BLOCK_CAPS, so they read 0. -/
def Page.hdrCaps (pg : Page) : Nat :=
  match pg with
  | .clus _ _ => 0
  | pg => pg.logCount * 2 ^ 23 + b2n pg.irqCap * 2 ^ 22 + 2 ^ 21

/-- A header word (Tables 1.8 to 1.18). -/
def Block.hdrWord (s : Block) (pg : Page) (o : Nat) : Nat :=
  let h := s.hdr pg
  match o with
  | 0x000 => pg.hdrId
  | 0x004 => 0x0100B001
  | 0x008 => pg.hdrCaps
  | 0x00C => b2n h.snapEn * 4 + b2n h.freeze * 2 + b2n (s.enabled pg)
  | 0x010 => s.hdrStat pg
  | 0x014 => h.irqStat.toNat
  | 0x018 => h.irqEn.toNat
  | 0x01C => h.clampCnt
  | 0x020 => h.logBase.toNat
  | 0x024 => h.owner * 2 ^ 24 + b2n h.lock
  | _ => 0

/-- HBMC_STAT.REFRESH: the multiple that the Almanac records for the stack, doubled above 85 °C (R158, R165; assumption log 119). -/
def Hbmc.refreshNow (h : Hbmc) : Nat := Nat.min 2 (h.refresh + b2n (decide (85 < h.temp)))

/-- A fault record of an HBM or capacity controller: its low and high words. -/
def ErrRec.lo (e : ErrRec) : Nat := lo32 e.addr
def ErrRec.hi (e : ErrRec) : Nat := b2n e.valid * 2 ^ 31 + e.kind * 2 ^ 28 + e.symbol * 2 ^ 20 + e.addr / 2 ^ 32 % 16

/-- MGMT_STAT.BINDINGS (Table 16.11): I3C with a dynamic address, SMBus while enabled and the controller runs, PCIe VDM with a port
up (assumption log 154). -/
def Block.mgmtBindings (s : Block) : Nat :=
  b2n (s.mgmt.i3cDa ≠ 0) + b2n (bit (s.reg .mgmt 0x040) 16 && (s.boot.ready || decide (0 < s.boot.step))) * 2 +
    b2n ((s.port 0).up || (s.port 1).up) * 4

/-- CORE_STAT (Table 3.15). -/
def Block.coreStat (s : Block) (p i : Nat) : Nat :=
  let a := s.slot p i 0
  let b := s.slot p i 1
  let k := s.core p i
  let ctx := if k.halted then 3 else match k.ctx with
    | .switching _ => 2
    | .backfill => 1
    | .primary => if a.bound && a.stop = .running then 0 else 3
  ctx * 2 ^ 30 + a.wait.code * 2 ^ 24 + a.mq.length * 2 ^ 20 + b.mq.length * 2 ^ 16 + b2n (b.stop = .fault) * 2 + b2n (a.stop = .fault)

/-- CORE_BIND of slot `t` (Table 3.16); LCORE is the same in both registers, so an unbound slot shows its partner's, `u`. -/
def Slot.bindWord (t u : Slot) : Nat := b2n t.bound * 2 ^ 31 + (if t.bound then t.lcore else u.lcore) * 2 ^ 16 + t.job

/-- MXE_PLANE_STAT (Table 3.20): the backfill slot owns the highest BF_PLANES planes. -/
def Block.planeStat (s : Block) (p i : Nat) : Nat :=
  let nb := if s.bfOn p i then s.fld (.core p i) 0x040 4 2 else 0
  let one (k : Nat) : Nat :=
    if 4 - nb ≤ k then 0x80 + b2n (k - (4 - nb) < (s.slot p i 1).retPlanes) * 0x40
    else b2n (k < (s.slot p i 0).retPlanes) * 0x40
  one 0 + one 1 * 2 ^ 8 + one 2 * 2 ^ 16 + one 3 * 2 ^ 24

/-- LNK_STAT (Table 9.18). -/
def Block.lnkStat (s : Block) (n : Nat) : Nat :=
  let l := s.link n
  let left (m : SMap Nat) (bad : Nat) : Nat := (([16, 17] : List Nat).filter fun x => smGet 0 m x = 0 && !bit bad x).length
  l.state.code * 2 ^ 28 + b2n (isOlink n) * 2 ^ 27 + left (lanesAfter l.rxLane l.rxSw) l.rxBad * 2 ^ 25 + left (lanesAfter l.txLane l.txSw) l.txBad * 2 ^ 23 +
    l.quar * 2 ^ 16 + Nat.min l.rtt 65535

/-- A spare's logical lane, 31 none. -/
def spareOf (m : SMap Nat) (x : Nat) : Nat := if smGet 0 m x = 0 then 31 else smGet 0 m x - 1

/-- COLL status word 0x080 (Table 10.13). -/
def Block.collStat (s : Block) (p q : Nat) : Nat :=
  let c := s.queue p q
  let st := if c.draining then 4 else if !c.bound then 0
    else if (s.part p).state = .preemptDeferred ∧ !c.pending.isEmpty then 3
    else if c.pending.isEmpty then 1 else 2
  st * 2 ^ 29 + c.pending.length * 2 ^ 25 + c.lastStatus * 2 ^ 8

/-- PART_STAT (Table 14.17). -/
def Block.partStat (s : Block) (p : Nat) : Nat :=
  let q := s.part p
  let st := if !s.partIn p then 7 else match q.state with
    | .preemptDeferred => 3
    | .saving => 4
    | .saved => 5
    | .resetting => 6
    | .aborting => 2
    | .normal => if q.abort then 2 else if (q.jobOf 0).isSome then 1 else 0
  let core := if smGet false q.patrolOn 0 then smGet 0 q.patrolNext 0 else 0xFF
  st * 2 ^ 29 + b2n q.poisonFrame * 2 ^ 28 + core * 2 ^ 16 + (q.bindP.map (fun (e : Nat × Nat) => e.1)).getD 0

/-- The hottest partition and its sensor; 15 is the hub (Table 13.9). -/
def Block.hottest (s : Block) : Nat × Nat :=
  (List.range 12).foldl (fun (m : Nat × Nat) p => if m.2 < (s.hp p).tj then (p, (s.hp p).tj) else m) (15, s.helio.hubTj)

/-- HELIO_STAT (Table 13.9). -/
def Block.helioStat (s : Block) : Nat :=
  let h := s.helio
  h.limitBy * 2 ^ 28 + s.actuator * 2 ^ 24 + h.shedCode * 2 ^ 22 + h.gauge.code * 2 ^ 20 +
    b2n ((List.range 12).any fun p => (s.hp p).uncal) * 2 ^ 16 + (h.short.getD h.avg) % 65536

/-- HELIO[p] status 0x044 (Table 13.10). -/
def Block.helioPStat (s : Block) (p : Nat) : Nat :=
  let h := s.hp p
  h.fNow * 2 ^ 26 + (h.vNow p + h.trim) % 1024 * 2 ^ 16 + Nat.min (s.bubbles p) 256 * 2 ^ 7 +
    (if h.limit then 2 else if h.therm ≠ 0 then 1 else 0) * 16 + b2n h.uncal

/-- A word of a VREG page (Table 13.11). -/
def Vreg.regWord (r : Vreg) (o : Nat) : Nat :=
  match o with
  | 0x040 => r.iout * 2 ^ 16 + r.vout
  | 0x044 => r.temp * 2 ^ 24 + r.pin
  | 0x048 => match r.fault with
    | some k => 2 ^ 31 + k * 2 ^ 28
    | none => 0
  | _ => 0

/-- MERID_STAT (Table 2.13). -/
def Merid.statWord (m : Merid) : Nat :=
  m.masterPrio * 2 ^ 24 + m.epoch * 2 ^ 16 + m.inLink.getD 63 * 2 ^ 10 + m.hops % 16 * 2 ^ 6 + b2n m.refExpired * 32 +
    m.refState.code * 8 + m.state.code

/-- Partitions as a mask. -/
def maskOf (ps : List Nat) : Nat := ps.foldl (fun m p => setBit1 m p) 0

/-- The RO, RC, W1S and shared bits of a word; RW fields are added to them. Cycle counters and measured quantities are not here (see
`Block.freeReg`). -/
def Block.roWord (s : Block) (pg : Page) (o : Nat) : Nat :=
  match pg with
  | .core p i =>
    let k := s.core p i
    match o with
    | 0x044 => s.coreStat p i
    | 0x048 => (s.slot p i 0).bindWord (s.slot p i 1)
    | 0x04C => (s.slot p i 1).bindWord (s.slot p i 0)
    | 0x050 => lo32 (s.slot p i 0).pc
    | 0x054 => hi32 (s.slot p i 0).pc
    | 0x058 => lo32 (s.slot p i 1).pc
    | 0x05C => hi32 (s.slot p i 1).pc
    | 0x060 => b2n k.faultValid * 2 ^ 31 + k.faultSlot * 2 ^ 30 + k.faultCode * 2 ^ 16 + k.faultDetail
    | 0x064 => lo32 k.faultPc
    | 0x068 => hi32 k.faultPc
    | _ => 0
  | .mxe p i =>
    let k := s.core p i
    match o with
    | 0x048 => lo32 k.batchValid
    | 0x04C => hi32 k.batchValid
    | 0x050 => s.planeStat p i
    | 0x064 => lo32 (k.planeBytes / 64)
    | 0x068 => lo32 k.escElem8
    | 0x06C => hi32 k.escElem8
    | 0x070 => lo32 k.escElem16
    | 0x074 => hi32 k.escElem16
    | 0x078 => lo32 k.repeatCyc
    | 0x07C => hi32 k.repeatCyc
    | 0x080 => lo32 k.escLast
    | o =>
      if 0x100 ≤ o ∧ o < 0xD00 then
        let t := (o - 0x100) / 12
        match (o - 0x100) % 12 with
        | 0 => smGet 0 k.layerNarrow t
        | 4 => smGet 0 k.layerEsc t
        | _ => smGet 0 k.layerNoEsc t
      else 0
  | .clus _ _ => 0
  | .dma p j =>
    let e := s.eng p j
    let prog (c : Chan) (k : Nat) : Nat :=
      let g := c.progNow
      match k with
      | 0 => g.1 * 2 ^ 16 + g.2.1
      | 4 => lo32 g.2.2.1
      | _ => g.2.2.2 % 2 ^ 24
    match o with
    | 0x040 => s.chanWord p j 0
    | 0x044 => s.chanWord p j 1
    | 0x048 => prog e.pri 0
    | 0x04C => prog e.pri 4
    | 0x050 => prog e.pri 8
    | 0x054 => prog e.bf 0
    | 0x058 => prog e.bf 4
    | 0x05C => prog e.bf 8
    | 0x060 => lo32 e.bytesRd
    | 0x064 => hi32 e.bytesRd
    | 0x068 => lo32 e.bytesWr
    | 0x06C => hi32 e.bytesWr
    | 0x070 => lo32 e.mcastSaved
    | 0x074 => hi32 e.mcastSaved
    | _ => 0
  | .ctr p j => if 0x040 ≤ o ∧ o < 0x440 then (s.syn p).ctr (256 * j + (o - 0x040) / 4) else 0
  | .sync p =>
    let y := s.syn p
    let r := y.fault.getD ⟨0, 0, 0, 0, 0, 0, 0, 0⟩
    match o with
    | 0x044 => b2n y.busy * 5
    | 0x050 => b2n y.fault.isSome * 2 ^ 31 + r.source * 2 ^ 28 + r.kind * 2 ^ 26 + r.lcore * 2 ^ 12 + r.counter
    | 0x054 => r.pkgn * 2 ^ 16 + r.job
    | 0x058 => r.amount % 65536
    | 0x05C => lo32 r.value
    | o =>
      if 0x100 ≤ o ∧ o < 0xD00 then
        let b := (o - 0x100) / 12
        match (o - 0x100) % 12 with
        | 0 => (y.bar b).word0
        | 4 => (y.bar b).word4
        | _ => (y.bar b).word8 (s.barSlot p b)
      else 0
  | .msc p =>
    let m := s.msc p
    match o with
    | 0x040 => b2n m.flushing
    | 0x044 => m.retired
    | 0x048 => lo32 m.hits
    | 0x04C => hi32 m.hits
    | 0x050 => lo32 m.misses
    | 0x054 => hi32 m.misses
    | 0x058 => lo32 m.writebacks
    | 0x05C => hi32 m.writebacks
    | 0x060 => lo32 m.luDiscards
    | 0x064 => hi32 m.luDiscards
    | 0x068 => lo32 m.bypass
    | 0x06C => hi32 m.bypass
    | _ => 0
  | .hbmc p =>
    let h := s.hbmc p
    match o with
    | 0x040 => s.tiers.imapCur * 2 ^ 8 + s.tiers.imapNext
    | 0x048 => h.temp % 256 * 2 ^ 24 + h.refreshNow * 2 ^ 16 + b2n h.conservative * 2 + b2n (h.trained && !bit s.tiers.stackOos p)
    | 0x04C => h.err.lo
    | 0x050 => h.err.hi
    | 0x058 => lo32 h.rdUnits
    | 0x05C => hi32 h.rdUnits
    | 0x060 => lo32 h.wrUnits
    | 0x064 => hi32 h.wrUnits
    | _ => 0
  | .lnk n =>
    let l := s.link n
    let p := l.peer.getD (0, 0, 0, 0)
    match o with
    | 0x044 => s.lnkStat n
    | 0x048 => spareOf l.rxLane 17 * 2 ^ 24 + spareOf l.rxLane 16 * 2 ^ 16 + spareOf l.txLane 17 * 2 ^ 8 + spareOf l.txLane 16
    | 0x04C => l.rxBad
    | 0x050 => l.txBad
    | 0x054 => b2n l.peer.isSome * 2 ^ 31 + p.2.1 * 2 ^ 16 + p.1
    | 0x058 => p.2.2.1
    | 0x05C => p.2.2.2
    | 0x070 => lo32 l.flitsTx
    | 0x074 => hi32 l.flitsTx
    | 0x078 => lo32 l.flitsRx
    | 0x07C => hi32 l.flitsRx
    | 0x080 => lo32 l.fecSym
    | 0x084 => hi32 l.fecSym
    | _ => 0
  | .route n =>
    let d := s.fld (.route n) 0x040 0 16
    match o with
    | 0x044 => (smGet 0 s.routes d ^^^ 0x3FFFFFFF).toNat
    | 0x048 => match s.cand d with
      | some (c, l, _) => c * 64 + l
      | none => 3 * 64 + 63
    | _ => 0
  | .coll p q =>
    let c := s.queue p q
    let r := c.fault.getD ⟨0, 0, 0, 0, 0, 0, 0⟩
    match o with
    | 0x044 => b2n c.bound * 2 ^ 31
    | 0x048 => c.rank
    | 0x078 => lo32 c.vres
    | 0x07C => hi32 c.vres
    | 0x080 => s.collStat p q
    | 0x084 => lo32 (match c.cur with
      | some x => x.ordinal
      | none => c.lastOrd)
    | 0x088 => c.slowRank
    | 0x08C => Nat.min c.slowNs 0xFFFFFFFF
    | 0x090 => lo32 c.slowOrd
    | 0x094 => b2n c.fault.isSome * 2 ^ 31 + r.status * 2 ^ 16 + r.pkgn
    | 0x098 => r.step * 2 ^ 20 + r.rank
    | 0x09C => lo32 r.ordinal
    | 0x0A0 => r.group
    | _ => 0
  | .part p =>
    let q := s.part p
    let j := q.jf.getD ⟨0, 0, 0, 0x7FF, 0⟩
    let f := q.pFail.getD (0, 0, 0)
    let x := q.xrec.getD (0, 0, 0)
    match o with
    | 0x040 => b2n q.abort * 2 ^ 31 + b2n q.preempt * 2 ^ 30 + b2n q.restore * 2 ^ 29
    | 0x044 => b2n q.resetGo * 2 ^ 31
    | 0x048 => s.partStat p
    | 0x04C => b2n q.fftGo * 2 ^ 31 + q.fftStatus * 2 ^ 28 + q.fftUnit * 2 ^ 20 + q.fftFmt * 2 ^ 16 + q.fftCore
    | 0x050 => b2n q.jf.isSome * 2 ^ 31 + j.cause * 2 ^ 16 + j.job
    | 0x054 => j.detail * 2 ^ 16 + j.lcore
    | 0x058 => lo32 j.count
    | 0x05C => hi32 j.count
    | 0x060 => b2n q.pFail.isSome * 2 ^ 31 + f.1 * 2 ^ 16 + f.2.1
    | 0x064 => lo32 f.2.2
    | 0x068 => hi32 f.2.2
    | 0x06C => lo32 q.patrolCyc
    | 0x070 => hi32 q.patrolCyc
    | 0x074 => b2n q.xrec.isSome * 2 ^ 31 + x.1 * 2 ^ 16 + x.2.1
    | 0x078 => lo32 x.2.2
    | 0x07C => hi32 x.2.2
    | _ => 0
  | .vregP p r => (s.vrg (4 * p + r)).regWord o
  | .vreg r => (s.vrg (48 + r)).regWord o
  | .mmu p =>
    let m := s.mmu p
    match o with
    | 0x050 => b2n m.invGo * 2 ^ 31
    | 0x064 => m.prod
    | 0x080 => lo32 m.hits
    | 0x084 => hi32 m.hits
    | 0x088 => lo32 m.misses
    | 0x08C => hi32 m.misses
    | 0x090 => lo32 m.walkReads
    | 0x094 => hi32 m.walkReads
    | _ => 0
  | .eph => match o with
    | 0x048 => s.eph.lastStatus * 2 ^ 24 + s.eph.lastSteps * 2 ^ 16 + s.eph.lastJob
    | 0x04C => lo32 s.eph.gen
    | _ => 0
  | .ephP p => if o = 0x048 then b2n (s.part p).commit * 2 ^ 31 + (s.part p).actGen % 65536 else 0
  | .helio =>
    let h := s.helio
    match o with
    | 0x050 => s.helioStat
    | 0x054 => Nat.min h.peak 65535 * 2 ^ 16 + Nat.min h.pNow 65535
    | 0x058 => s.lockcap
    | 0x060 => Nat.min h.disagree 255 * 2 ^ 24 + Nat.min h.eLeft 65535
    | 0x064 =>
      let t := s.hottest
      ((List.range 12).foldl (fun m p => Nat.max m (s.hbmc p).temp) 0) % 256 * 2 ^ 24 + t.1 * 2 ^ 16 + t.2 % 256
    | 0x068 => lo32 (h.energyUj / 1000)
    | 0x06C => hi32 (h.energyUj / 1000)
    | 0x070 => lo32 (h.ballastUj / 1000)
    | 0x074 => hi32 (h.ballastUj / 1000)
    | _ => 0
  | .helioP p =>
    let h := s.hp p
    match o with
    | 0x044 => s.helioPStat p
    | 0x048 => h.tj % 256 * 2 ^ 24 + h.openAt * 2 ^ 12 + h.mask
    | 0x050 => lo32 (h.meterUj / 1000)
    | 0x054 => hi32 (h.meterUj / 1000)
    | 0x058 => lo32 (h.priUj / 1000)
    | 0x05C => hi32 (h.priUj / 1000)
    | 0x060 => lo32 (h.bfUj / 1000)
    | 0x064 => hi32 (h.bfUj / 1000)
    | 0x068 => lo32 h.bubbleCyc
    | 0x06C => hi32 h.bubbleCyc
    | 0x070 => h.cal % 65536
    | _ => 0
  | .merid =>
    let m := s.merid
    match o with
    | 0x044 => m.period
    | 0x054 => m.statWord
    | 0x058 => lo32 m.count
    | 0x05C => m.latchHi
    | 0x060 => lo32 m.masterPuid
    | 0x064 => hi32 m.masterPuid
    | 0x068 => Nat.min m.phasePeak 65535 * 2 ^ 16 + sat16s m.phaseErr
    | 0x06C => b2n m.ovrValid * 2 ^ 31 + m.ovrCore * 2 ^ 16 + m.ovrPart * 2 ^ 12 + m.ovrBehind
    | 0x070 => lo32 m.ovrPc
    | 0x074 => hi32 m.ovrPc
    | _ => 0
  | .capc d =>
    let c := s.capc d
    match o with
    | 0x044 => b2n (bit s.tiers.capIn d) * 2 ^ 31 + (if bit s.tiers.capIn d then popcount s.tiers.capIn d else 0) * 2 ^ 24 +
        s.tiers.capN * 2 ^ 16 + c.rate
    | 0x048 => c.err.lo
    | 0x04C => c.err.hi
    | 0x050 => lo32 c.rdLines
    | 0x054 => hi32 c.rdLines
    | 0x058 => lo32 c.wrLines
    | 0x05C => hi32 c.wrLines
    | _ => 0
  | .rhost h =>
    let x := s.rhost h
    match o with
    | 0x044 => x.state.code * 2 ^ 30 + x.cause % 256
    | 0x048 => lo32 x.pc
    | 0x04C => hi32 x.pc
    | _ => 0
  | .upd =>
    let cur := (List.range 12).find? fun r => (s.ring r).step.isSome
    match o with
    | 0x044 => b2n cur.isSome * 2 ^ 31 + cur.getD 15 * 2 ^ 24
    | 0x048 => lo32 s.upd.elements
    | 0x04C => hi32 s.upd.elements
    | 0x050 => lo32 s.upd.capBytes
    | 0x054 => hi32 s.upd.capBytes
    | 0x058 => lo32 s.upd.guards
    | 0x05C => hi32 s.upd.guards
    | o =>
      if 0x100 ≤ o ∧ o < 0x280 then
        let q := s.ring ((o - 0x100) / 32)
        match (o - 0x100) % 32 with
        | 0x08 => q.cons % 256 * 2 ^ 16 + q.prod % 256
        | 0x0C => b2n q.bound * 2 ^ 31
        | 0x10 => lo32 q.lastStep
        | 0x14 => hi32 q.lastStep
        | 0x18 => q.lastStatus
        | 0x1C => lo32 q.jpt
        | _ => 0
      else 0
  | .pcie x =>
    let y := s.port x
    match o with
    | 0x044 => y.gen * 2 ^ 28 + y.width * 2 ^ 23 + b2n y.perst * 2 ^ 22 + y.vfEn
    | 0x054 => lo32 (Config.perPart 1002).toNat
    | 0x058 => lo32 y.devRd
    | 0x05C => hi32 y.devRd
    | 0x060 => lo32 y.devWr
    | 0x064 => hi32 y.devWr
    | 0x068 => lo32 y.hostBytes
    | 0x06C => hi32 y.hostBytes
    | _ => 0
  | .mgmt => match o with
    | 0x044 => s.mgmt.eid * 2 ^ 24 + s.mgmt.i3cDa * 2 ^ 17 + s.mgmtBindings
    | 0x048 => Nat.min s.mgmt.restarts 65535 * 2 ^ 16
    | _ => 0
  | .alm => match o with
    | 0x044 => maskOf ((List.range 12).filter fun p => s.partIn p) * 2 ^ 20 + s.tiers.capN * 2 ^ 15 + b2n (!s.alm.due.isEmpty) * 2 +
        b2n s.alm.mapped
    | 0x048 => lo32 s.boot.alm.gen
    | 0x04C => lo32 s.boot.alm.fullBoot
    | _ => 0
  | .lic => match o with
    | 0x040 =>
      let l := s.boot.lic
      let olinks := if s.feat.olinks = 12 then 2 else if s.feat.olinks = 6 then 1 else 0
      maskOf s.licensedParts * 2 ^ 20 + olinks * 2 ^ 18 + b2n s.feat.span * 2 ^ 17 + b2n s.feat.sprint * 2 ^ 16 +
        b2n s.boot.licPend.isSome * 4 + b2n (l.any fun x => x.puidFrom ≠ 0) * 2 + b2n l.isSome
    | 0x044 => lo32 ((s.boot.lic.map (·.serial)).getD 0)
    | 0x048 => lo32 ((s.boot.licPend.map (·.serial)).getD 0)
    | 0x04C => s.boot.licResult
    | _ => 0
  | .boot =>
    let b := s.boot
    let f := s.flash
    match o with
    | 0x044 => b.path.code * 2 ^ 30 + b.step % 256 * 2 ^ 16 + b.failed % 256 * 2 ^ 8 + b.active * 2 + b2n b.ready
    | 0x048 => lo32 f.bootNum
    | 0x04C => lo32 b.bootMs
    | 0x050 => b.next * 4 + b2n f.bankB.valid * 2 + b2n f.bankA.valid
    | 0x054 => if f.bankA.valid then lo32 f.bankA.version else 0
    | 0x058 => if f.bankB.valid then lo32 f.bankB.version else 0
    | 0x05C => b2n b.mc * 2 ^ 31 + b2n b.rhost * 2 ^ 30 + b.parts
    | 0x060 => b.rhBank * 2 ^ 13 + b.mcBank * 2 ^ 12 + b.partBank
    | 0x064 => (f.journal.head?.map (·.seq)).getD 0
    | _ => 0
  | .eyep =>
    let e := s.eyep
    match o with
    | 0x044 => b2n e.unlocked * 2 ^ 31 + b2n e.wrapped * 2 ^ 30 + e.idx
    | 0x054 => b2n (s.core (s.fld .eyep 0x050 16 4) (s.fld .eyep 0x050 0 8)).halted * 2 ^ 31
    | 0x058 => e.drops
    | _ => 0

/-- Words whose value is a measurement or a count of cycles, which the spec's behaviour does not fix: free values (assumption log 1).
The word reads with a few defined bits in `some mask`. -/
def Page.freeReg (pg : Page) (o : Nat) : Option Nat :=
  match pg with
  | .core _ _ => if 0x06C ≤ o ∧ o < 0x07C then some 0xFFFFFFFF else none
  | .mxe _ _ => if o = 0x05C ∨ o = 0x060 then some 0xFFFFFFFF else none
  | .dma _ _ => if o = 0x078 ∨ o = 0x07C then some 0xFFFFFFFF else none
  | .lnk _ => if o = 0x088 then some 0xFFFFFFFF else none
  | .rhost _ => if 0x050 ≤ o ∧ o < 0x060 then some 0xFFFFFFFF else none
  | .mgmt => if o = 0x048 then some 0x0000FFFF else none
  | _ => none

/-- What a word of a page that exists reads as, without what the read does; a comm core's CORE_BF_CFG.EN reads 0 (R264). -/
def Block.word (s : Block) (pg : Page) (o : Nat) : Nat :=
  if o < 0x040 then s.hdrWord pg o
  else if 0xE00 ≤ o then
    let m := (o - 0xE00) / 4
    let one (n : Nat) : Nat := if n < pg.logCount then s.logOf pg n else 0
    one (2 * m) + one (2 * m + 1) * 2 ^ 16
  else s.roWord pg o + (if pg.sharedRw o then 0 else match pg, o with
    | .core p i, 0x040 => if s.isComm p i then clearBit (s.regNow pg o) 0 else s.regNow pg o
    | _, _ => s.regNow pg o)

/-- What the RW fields of a word take of a write of `v`, each clamped by its own rule (R37). -/
def Block.taken (s : Block) (pg : Page) (o v : Nat) : Nat :=
  match pg with
  | .hbmc _ => if o = 0x040 then s.imapTaken v else (s.legal pg o v).1
  | .route _ => if o = 0x044 then cleanRoute v else (s.legal pg o v).1
  | .ctr _ _ => if pg.ownRw o = 0 then (s.legal pg o v).1 else v
  | .part _ =>
    if o = 0x044 then let (l, i) := partResetFields v; l * 2 ^ 24 + i
    else (s.legal pg o v).1
  | .sync _ =>
    if 0x100 ≤ o ∧ o < 0xD00 ∧ (o - 0x100) % 12 = 0 then bits v 16 16 * 2 ^ 16 + barCount (bits v 0 16)
    else (s.legal pg o v).1
  | .boot =>
    let x := (s.legal pg o v).1
    if o = 0x050 ∧ (s.flash.bank (bits v 2 1)).valid = false then setBits x 2 1 s.boot.next else x
  | _ => (s.legal pg o v).1

/-- A write of `v` would change the RW fields of a word, each at the legal value that it would take (R37, R39). -/
def Block.rwChanges (s : Block) (pg : Page) (o v : Nat) : Bool :=
  let m := pg.rwMask o
  match pg.pairOf o with
  | some q =>
    let t := s.rwWrite pg o v
    decide (t.reg pg q.lo ≠ s.reg pg q.lo) || decide (t.reg pg q.hi ≠ s.reg pg q.hi)
  | none => decide (s.taken pg o v &&& m ≠ s.word pg o &&& m)

/-- REGISTER_READ_CLEAR: what a read does beyond returning the word: RC fields clear, COUNT_HI is latched, ROUTE_IDX steps (R7,
Tables 2.14, 9.22). -/
def Block.readEffect (s : Block) (pg : Page) (o : Nat) : Block :=
  match pg, o with
  | .merid, 0x058 => s.modMerid fun m => { m with latchHi := m.count / 2 ^ 32 % 65536 }
  | .merid, 0x068 => s.modMerid fun m => { m with phasePeak := 0 }
  | .mxe p i, o =>
    if o = 0x080 then s.modCore p i fun k => { k with escLast := 0 }
    else if 0x100 ≤ o ∧ o < 0xD00 then
      let t := (o - 0x100) / 12
      s.modCore p i fun k => match (o - 0x100) % 12 with
        | 0 => { k with layerNarrow := smPut 0 k.layerNarrow t 0 }
        | 4 => { k with layerEsc := smPut 0 k.layerEsc t 0 }
        | _ => { k with layerNoEsc := smPut 0 k.layerNoEsc t 0 }
    else s
  | .helio, 0x054 => s.modHelio fun h => { h with peak := 0 }
  | .eyep, 0x044 => { s with eyep := { s.eyep with wrapped := false } }
  | .route n, 0x044 => s.routeInc n
  | _, _ => s

/-- A 32-bit management read of an aligned offset (R30 to R32). -/
def Block.readWord (s : Block) (off : Nat) : Nat × Block :=
  match pageOf (off / 4096) with
  | none => (0, s)
  | some pg =>
    let o := off % 4096
    let busy : Option (Nat × Block) := match pg with
      | .mxe p i => if o = 0x054 ∨ o = 0x058 then some (s.busyOf p i) else none
      | _ => none
    match busy, pg.freeReg o with
    | some (v, s), _ => (if o = 0x054 then lo32 v else hi32 v, s)
    | none, some m =>
      let (v, s) := s.fresh
      ((v &&& m) + s.word pg o, s)
    | none, none => (s.word pg o, s.readEffect pg o)

/-! Writes. -/

/-- The write of a word whose register has a rule of its own, its RW fields being open to the requester: none where the word is an
ordinary one. -/
def Block.ownWrite (s : Block) (pg : Page) (o v : Nat) (req : Requester) : Option Block :=
  match pg with
  | .lnk n =>
    if o = 0x060 then some (s.pkgnWrite n false v)
    else if o = 0x064 then some (s.pkgnWrite n true v)
    else if o = 0x040 then
      let s' := s.rwWrite pg o v
      some (if bit (s'.reg pg o) 0 = bit (s.reg pg o) 0 then s' else s'.digestAt n)
    else none
  | .route n => if o = 0x044 then some (s.routeWrite n v) else none
  | .hbmc p => if o = 0x040 then some (s.imapNext p (v % 4)) else none
  | .ctr p j => if 0x040 ≤ o ∧ o < 0x440 then some (s.ctrApply p .set (256 * j + (o - 0x040) / 4) v .mgmt).2 else none
  | .sync p =>
    if 0x100 ≤ o ∧ o < 0xD00 then
      let b := (o - 0x100) / 12
      match (o - 0x100) % 12 with
      | 0 => some (s.barWrite p b (bits v 0 16) (bits v 16 16))
      | 8 => some (s.modSyn p fun y => { y with bars := smMod {} y.bars b fun z => { z with relEn := bit v 31, relCtr := bits v 16 12 } })
      | _ => some s
    else none
  | .coll p q =>
    let bound := (s.queue p q).bound
    if o = 0x044 then some (if bit v 31 then s.queueBind p q v else s.queueUnbind p q v)
    else if bound ∧ 0x04C ≤ o ∧ o < 0x068 then some (if s.rwChanges pg o v then s.clamped pg o else s)
    else none
  | .upd =>
    if 0x100 ≤ o ∧ o < 0x280 then
      let r := (o - 0x100) / 32
      match (o - 0x100) % 32 with
      | 0x08 => some (s.stepPost r (v % 256))
      | 0x0C => some (if bit v 31 then s.ringBind r v else s.ringUnbind r v)
      | k => if k < 8 ∧ (s.ring r).bound then some (if s.rwChanges pg o v then s.clamped pg o else s) else none
    else none
  | .rhost h => if o = 0x040 then some (s.ownerChange h req v) else none
  | .mmu p => if o = 0x068 then some (s.fqConsume p (v % 256)) else none
  | .helio =>
    if o = 0x04C then some (s.targetWrite v)
    else if o = 0x040 then
      let s' := s.rwWrite pg o v
      some (if s'.ppl = s.ppl then s' else s'.lockcapNew)
    else none
  | .ephP p =>
    if o = 0x040 ∨ o = 0x044 then
      let dup := bit v 31 && (List.range 12).any fun q => ([0x040, 0x044] : List Nat).any fun r =>
        !(q = p && r = o) && decide (s.reg (.ephP q) r = 2 ^ 31 + Nat.min (bits v 24 4) 11 * 2 ^ 24 + v % 65536)
      some (if dup then (if s.rwChanges pg o v then s.clamped pg o else s) else s.rwWrite pg o v)
    else none
  | .boot => if o = 0x050 then some (s.bankNext v) else none
  | .alm =>
    if o = 0x040 then
      let s' := s.rwWrite pg o v
      some (if bit (s'.reg pg o) 0 = bit (s.reg pg o) 0 then s' else s'.almDue (.mode (!bit (s'.reg pg o) 0)))
    else none
  | .eyep => if o = 0x054 then some (s.eyepHalt (bit v 31)) else none
  | .merid => if o = 0x04C then some (s.switchArm v) else none
  | .part p => if o = 0x044 then some (s.partResetPut p v) else none
  | _ => none

/-- The W1S, W1C and WO bits of a word act, whatever HDR_LOCK holds (assumption log 6). -/
def Block.actWrite (s : Block) (pg : Page) (o v : Nat) : Block :=
  match pg, o with
  | .msc p, 0x040 =>
    let s := if bit v 1 then s.keepRelease p else s
    if bit v 0 then s.mscFlush p else s
  | .mmu p, 0x050 => if bit v 31 then s.mmuInvalidate p else s
  | .mmu p, 0x070 =>
    let a := v % 4
    if a = 1 ∨ a = 2 then s.mmuRespond p (s.reg (.mmu p) 0x06C) a else if a = 3 then s.clamped pg o else s
  | .sync p, 0x044 => if bit v 0 then s.surveyStart p 0 0 else s
  | .lnk n, 0x040 => if bit v 1 then s.linkRetrain n else s
  | .ephP p, 0x048 => if bit v 31 then s.ephCommit p else s
  | .part p, 0x040 =>
    let s := if bit v 31 then s.partAbort p else s
    let s := if bit v 30 then s.partPreempt p else s
    if bit v 29 then s.partRestore p else s
  | .part p, 0x044 => if bit v 31 then s.partResetGo p else s
  | .part p, 0x04C => if bit v 31 then s.fftStart p else s
  | .boot, 0x05C =>
    let s := if bit v 31 then s.activateMc else s
    let s := if bit v 30 then s.activateRhost else s
    if v % 4096 = 0 then s else s.activatePart (v % 4096)
  | .alm, 0x040 => if bit v 31 then s.almWrite else s
  | .lic, 0x04C =>
    if bit v 31 then
      let (x, s) := s.fresh
      s.licCheck (bit x 0) (bit x 1)
    else s
  | .pcie x, 0x050 => s.msixSend x v
  | _, _ => s

/-- Header and Logbook words. -/
def Block.hdrWrite (s : Block) (pg : Page) (o v : Nat) (req : Requester) : Block :=
  if 0xE00 ≤ o then s.logWrite pg ((o - 0xE00) / 4) v
  else match o with
    | 0x00C => 
      let m := if pg.enableRo then 6 else 7
      s.guard pg req o (decide (v &&& m ≠ s.hdrWord pg 0x00C &&& m)) fun s => s.ctlWrite pg v
    | 0x014 => s.irqClear pg v
    | 0x018 =>
      let w := BitVec.ofNat 32 v &&& BitVec.ofNat 32 pg.causeMask
      s.guard pg req o (decide (w ≠ (s.hdr pg).irqEn)) fun s => s.modIrq pg fun h => { h with irqEn := w }
    | 0x01C => s.guard pg req o (decide (v % 65536 = 0 ∧ (s.hdr pg).clampCnt ≠ 0)) fun s => s.clampClear pg v
    | 0x020 => s.guard pg req o (decide (nearestAddr 1024 (v % 2 ^ 32 * 1024) false / 1024 ≠ (s.hdr pg).logBase.toNat)) fun s => s.logBaseWrite pg v
    | 0x024 => if bit v 0 then s.lockSet pg req else s
    | _ => s

/-- A write of a word that is neither header nor Logbook: its RW fields as the lock allows, then its W1S, W1C and WO bits. -/
def Block.blockWrite (s : Block) (pg : Page) (o v : Nat) (req : Requester) : Block :=
  let s := s.guard pg req o (s.rwChanges pg o v) fun s =>
    match s.ownWrite pg o v req with
    | some s => s
    | none => if pg.rwMask o = 0 then s else s.rwWrite pg o v
  s.actWrite pg o v

/-- A 32-bit management write of an aligned offset (R30 to R39). -/
def Block.writeWord (s : Block) (off v : Nat) (req : Requester) : Block :=
  match pageOf (off / 4096) with
  | none => s
  | some pg =>
    let o := off % 4096
    if o < 0x040 ∨ 0xE00 ≤ o then s.hdrWrite pg o v req else s.blockWrite pg o v req

/-- A management access of another width or alignment: an error response that changes nothing (R31). -/
def Block.badAccess (s : Block) : Block := ((s.log .mgmt 0).raise .mgmt 0).emit (.mgmtResp 0 true)

/-- A management write of `size` bytes (R31, R26, R378). -/
def Block.mgmtWrite (s : Block) (req : Requester) (off size v : Nat) (pois : Bool) : Block :=
  if req = .job then s.emit (.memRefused (0x30000000000 + off))
  else if pois || !((size = 4 || size = 8) && off % size = 0) then s.badAccess
  else
    let s := s.writeWord off (v % 2 ^ 32) req
    let s := if size = 8 then s.writeWord (off + 4) (v / 2 ^ 32) req else s
    s.emit (.mgmtResp 0 false)

/-- A management read that meets `ev` answers 0 with an error response: a poisoned word is observed at the hub (R376, R378), and a CORE
page that does not answer is a core hard fault (Table 14.2). -/
def Block.readFails (s : Block) (off : Nat) (ev : ReadEvent) : Block :=
  let s : Block := match ev, pageOf (off / 4096) with
    | .poisoned, _ => s.observePoison .mgmt
    | .silent, some (.core p i) => s.coreHard p i
    | _, _ => s
  s.emit (.mgmtResp 0 true)

/-- A management read of `size` bytes. -/
def Block.mgmtRead (s : Block) (req : Requester) (off size : Nat) (ev : ReadEvent) : Block :=
  if req = .job then s.emit (.memRefused (0x30000000000 + off))
  else if !((size = 4 || size = 8) && off % size = 0) then s.badAccess
  else if ev ≠ .none then s.readFails off ev
  else
    let (a, s) := s.readWord off
    if size = 8 then
      let (b, s) := s.readWord (off + 4)
      s.emit (.mgmtResp (a + b * 2 ^ 32) false)
    else s.emit (.mgmtResp a false)

/-- Writing HDR_CTL.ENABLE of a page by number; an absent page ignores it. -/
def Block.pageDo (s : Block) (key : Nat) (f : Page → Block) : Block :=
  match pageOf key with
  | some pg => f pg
  | none => s

/-- The block of a page is held in reset (R382, R394, Table 14.8). -/
def Block.heldInReset (s : Block) (pg : Page) : Bool :=
  let cluster (p c : Nat) : Bool := (List.range 17).all fun k => (s.core p (17 * c + k)).inReset
  let part (p : Nat) : Bool := decide ((s.part p).state = .resetting)
  match pg with
  | .core p i => (s.core p i).inReset
  | .mxe p i => (s.core p i).inReset
  | .clus p c => cluster p c
  | .dma p j => cluster p (j / 4)
  | .ctr p _ => part p
  | .sync p => part p
  | .coll p _ => part p
  | .mmu p => part p
  | _ => false

/-- LOGBOOK_SNAPSHOT: at a tick whose count is a multiple of 1,024 a page with LOG_SNAP_EN whose block is not held in reset writes its
record (R43, R44, R394). `unc`: the destination meets an uncorrectable error. DESIGN CHOICE (assumption log 118): the first record of a
page carries sequence number 0, and a record whose write fails has taken its number. -/
def Block.snapshot (s : Block) (pg : Page) (unc : Bool) : Block :=
  let h := s.hdr pg
  if !h.snapEn || decide (s.merid.count % 1024 ≠ 0) || s.heldInReset pg then s
  else
    let rec' := leBytes 8 s.merid.count ++ leBytes 4 pg.hdrId ++ leBytes 4 h.clampCnt ++ leBytes 4 (s.hdrStat pg) ++ leBytes 4 h.snapSeq ++
      List.replicate 40 0 ++ (List.range 128).flatMap fun m => leBytes 4 (s.word pg (0xE00 + 4 * m))
    let a := h.logBase.toNat * 1024
    let s := s.modHdr pg fun h => { h with snapSeq := (h.snapSeq + 1) % 2 ^ 32 }
    if unc || !s.canAccess a 576 then (s.log .mgmt 1).raise .mgmt 1
    else s.memWrite a rec'

/-- SCRUB_PASS of an HBM controller (`cap` false) or a capacity controller; an absent HBM controller does nothing. -/
def Block.scrubPass (s : Block) (cap : Bool) (n : Nat) (evs : List (Nat × MemEvent)) : Block :=
  if cap then s.capScrub n evs else if n < 12 then s.hbmScrub n evs else s

end Sys2Proof.Machine
end

