-- ==== Sys2Proof/Machine/Mgmt.lean ====
section
/-! DEFINITION. The management controller's commands (spec/16, R429 to R437): MCTP control, PLDM, vendor-defined, SPDM, and the
test access port. A response carries the MCTP message type, a completion code and data. -/

namespace Sys2Proof.Machine

def Block.modMgmt (s : Block) (f : Mgmt → Mgmt) : Block := { s with mgmt := f s.mgmt }

/-- A response leaves the management controller. -/
def Block.answer (s : Block) (mtype code : Nat) (data : List Nat) : Block := s.emit (.mctp mtype code data)

/-! MCTP control (R430, Table 16.4). -/

/-- SET_ENDPOINT_ID: the bus owner's assignment; 0 and 255 are no endpoint numbers (assumption log 64). -/
def Block.setEid (s : Block) (e : Nat) : Block :=
  if e = 0 ∨ e = 255 then s.answer 0 2 [] else (s.modMgmt fun m => { m with eid := e }).answer 0 0 [0, e, 0]

/-- GET_ENDPOINT_ID. -/
def Block.getEid (s : Block) : Block := s.answer 0 0 [s.mgmt.eid, 0, 0]

/-- GET_MCTP_VERSION_SUPPORT: DSP0236 1.3. -/
def Block.mctpVersions (s : Block) : Block := s.answer 0 0 [1, 0xF1, 0xF3, 0xFF, 0x00]

/-- GET_MESSAGE_TYPE_SUPPORT: PLDM, SPDM, vendor-defined. -/
def Block.mctpTypes (s : Block) : Block := s.answer 0 0 [3, 0x01, 0x05, 0x7E]

/-- GET_ENDPOINT_UUID: the PUID in the low 8 bytes; the others are the part's own. -/
def Block.mctpUuid (s : Block) : Block := s.answer 0 0 (leBytes 8 puid ++ leBytes 8 (Config.perPart 1003).toNat)

/-- MCTP_UNSUPPORTED_TYPE: ERROR_UNSUPPORTED_CMD, counted; a supported type is no business of this command. -/
def Block.mctpUnsupported (s : Block) (t : Nat) : Block :=
  if ([0x00, 0x01, 0x05, 0x7E] : List Nat).contains t then s else (s.log .mgmt 3).answer t 5 []

/-- I3C_DYNAMIC_ADDRESS: the bus controller's assignment, 0 none (R430). -/
def Block.i3cAddress (s : Block) (a : Nat) : Block := s.modMgmt fun m => { m with i3cDa := a % 128 }

/-! PLDM (R431 to R433). -/

/-- A value written into a field of HELIO as a register write is, clamped and counted there (R431). A value too wide for the field
is its largest, which counts as a clamp. -/
def Block.effWrite (s : Block) (o lo width v : Nat) : Block :=
  let top := 2 ^ width - 1
  let c := (s.hdr .helio).clampCnt
  let s := s.writeWord (Page.helio.addr o) (setBits (s.regNow .helio o) lo width (Nat.min v top)) .mgmtCtl
  if top < v ∧ (s.hdr .helio).clampCnt = c then s.clamped .helio o else s

/-- SET_NUMERIC_EFFECTER_VALUE: effecters 64 to 67 (Table 16.5); another one is a PLDM error. -/
def Block.setEffecter (s : Block) (id v : Nat) : Block :=
  match id with
  | 64 => (s.effWrite 0x040 0 12 v).answer 1 0 []
  | 65 => (s.effWrite 0x04C 0 12 v).answer 1 0 []
  | 66 => (s.effWrite 0x04C 16 8 v).answer 1 0 []
  | 67 => (s.effWrite 0x040 16 12 v).answer 1 0 []
  | _ => (s.log .mgmt 5).answer 1 0x80 []

/-- SET_EVENT_RECEIVER: who is sent platform events; none turns them off. -/
def Block.setReceiver (s : Block) (e : Option Nat) : Block := (s.modMgmt fun m => { m with eventRx := e }).answer 1 0 []

/-- An update is given up: the bank is left invalid, the active one untouched (R432). -/
def Block.updCancel (s : Block) : Block :=
  let s := if s.mgmt.updBank ≠ s.boot.active then s.modFlash fun f => f.setBank s.mgmt.updBank { units := (f.bank s.mgmt.updBank).units } else s
  ((s.modMgmt fun m => { m with upd := .idle }).log .mgmt 7).raise .mgmt 4

/-- PLDM_FIRMWARE_DATA: one unit of 4,096 bytes is programmed into the inactive bank, which is invalid from then on, and the next of the
24 MiB is asked for (R413, R432). The first unit has been asked for at the update's start, which no row of the command table is: the
request shows with the unit that answers it. -/
def Block.updData (s : Block) : Block :=
  let b := s.inactive
  let ask (off : Nat) (s : Block) : Block := s.emit (.pldmAsk 0x000A 1 off 4096)
  let (got, s) := match s.mgmt.upd with
    | .download n _ => (n, s)
    | _ => (0, ask 0 s)
  let (v, s) := s.fresh
  let s := s.modFlash fun f => f.setBank b { f.bank b with valid := false, units := smPut 0 (f.bank b).units (got / 4096) v }
  let s := (s.modMgmt fun m => { m with upd := .download (got + 4096) s.timeUs, updBank := b }).answer 1 0 []
  if got + 4096 < 0x1800000 then ask (got + 4096) s else s

/-- VERIFY_COMPLETE: the result of R412's check of the bank. -/
def Block.updVerify (s : Block) (x : BundleOut) : Block :=
  match s.mgmt.upd with
  | .download _ _ =>
    if s.mgmt.updBank ≠ s.inactive then s.updCancel.answer 1 1 []
    else
      let s := s.bankDone x
      if (s.flash.bank s.mgmt.updBank).valid then
        ((s.modMgmt fun m => { m with upd := .verified s.timeUs }).raise .mgmt 3).answer 1 0 []
      else ((s.modMgmt fun m => { m with upd := .idle }).raise .mgmt 4).answer 1 1 []
  | _ => (s.log .mgmt 5).answer 1 0x80 []

/-- ACTIVATE_FIRMWARE: with self-contained activation BOOT_ACT.MC and BOOT_ACT.RHOST are set (R432). -/
def Block.updActivate (s : Block) (selfContained : Bool) : Block :=
  match s.mgmt.upd with
  | .verified _ =>
    let s := s.modMgmt fun m => { m with upd := .activated }
    let s := if selfContained then s.activateMc.activateRhost else s
    s.answer 1 0 []
  | _ => (s.log .mgmt 5).answer 1 0x80 []

/-- CANCEL_UPDATE. -/
def Block.updCancelCmd (s : Block) : Block :=
  match s.mgmt.upd with
  | .idle => (s.log .mgmt 5).answer 1 0x80 []
  | .activated => (s.log .mgmt 5).answer 1 0x80 []
  | _ => s.updCancel.answer 1 0 []

/-- PLDM_UPDATE_TIMEOUT: an update that has stopped for 60 s. -/
def Block.updTimeout (s : Block) : Block :=
  match s.mgmt.upd with
  | .download _ t => if s.timeUs < t + 60000000 then s else s.updCancel
  | .verified t => if s.timeUs < t + 60000000 then s else s.updCancel
  | _ => s

/-- Compute-core firmware or hub microcode still runs from another bank than NEXT (R432). -/
def Boot.pendingAct (b : Boot) : Bool := decide (b.active ≠ b.next) || decide (b.partBank ≠ if b.next = 1 then 0xFFF else 0)

/-- GET_STATUS: the update's state, and whether an activation is pending. -/
def Block.updStatus (s : Block) : Block :=
  let st := match s.mgmt.upd with
    | .idle => 0
    | .download _ _ => 3
    | .verified _ => 4
    | .activated => 6
  s.answer 1 0 [st, b2n s.boot.pendingAct]

/-! Vendor-defined commands (R434, Table 16.7). -/

/-- Every job is unbound. -/
def Block.noJobs (s : Block) : Bool := (List.range 12).all fun p => (s.part p).bindP.isNone && (s.part p).bindB.isNone

/-- A refused command (completion code 0x01). -/
def Block.refuse (s : Block) : Nat × List Nat × Block := (1, [], s.log .mgmt 4)

/-- WARM_RESET accepted: event 0xF1, and the reset after the response (R382). -/
def Block.askWarm (s : Block) : Block := { (s.jot 0xF1 0 1 0 0 0) with warmDue := true }

/-- EYEP_NONCE: 16 bytes. -/
def Block.eyepNonce (s : Block) : Nat × List Nat × Block :=
  let (a, s) := s.fresh
  let (b, s) := s.fresh
  (0, leBytes 8 a ++ leBytes 8 b, { s with eyep := { s.eyep with nonce := some (a + b * 2 ^ 64) } })

/-- EYEP_UNLOCK: the token's PUID, nonce and zero bytes must be right and its signature verify (`sig`) (R437). -/
def Block.eyepUnlock (s : Block) (t : List Nat) (sig : Bool) : Nat × List Nat × Block :=
  let f (a n : Nat) : Nat := leNat ((t.drop a).take n)
  if f 0 8 = puid ∧ s.eyep.nonce = some (f 8 16) ∧ f 28 36 = 0 ∧ sig then
    let s := { s with eyep := { s.eyep with unlocked := true, nonce := none } }
    (0, [], (s.raise .eyep 0).log .eyep 0)
  else
    let s := ((s.raise .eyep 1).log .eyep 1)
    s.refuse

/-- A vendor-defined command other than FORWARD, performed here for `req`: completion code, response data, block. `sig`: the
signature of an EYEP_UNLOCK token verifies. -/
def Block.vendor (s : Block) (req : Requester) (cmd : Nat) (data : List Nat) (sig : Bool) : Nat × List Nat × Block :=
  let f (a n : Nat) : Nat := leNat ((data.drop a).take n)
  let wrEn := bit (s.reg .mgmt 0x040) 24
  match cmd with
  | 1 =>
    if data.length ≠ 4 then (2, [], s)
    else if f 0 4 % 4 ≠ 0 then (s.badAccess).refuse
    else
      let (v, s) := s.readWord (f 0 4)
      (0, leBytes 4 v, s)
  | 2 =>
    if data.length ≠ 8 then (2, [], s)
    else if !wrEn then s.refuse
    else if f 0 4 % 4 ≠ 0 then (s.badAccess).refuse
    else (0, [], s.writeWord (f 0 4) (f 4 4) req)
  | 3 =>
    if data.length ≠ 0 then (2, [], s) else if !wrEn then s.refuse else (0, [], s.askWarm)
  | 4 =>
    if data.length ≠ 0 then (2, [], s)
    else if !s.noJobs then s.refuse
    else if (List.range 12).any fun p => (s.part p).fftGo then (3, [], s)
    else (0, [], s.fftPackage)
  | 6 => if data.length ≠ 0 then (2, [], s) else s.eyepNonce
  | 7 => if data.length ≠ 160 then (2, [], s) else s.eyepUnlock data sig
  | _ => s.refuse

/-- A vendor-defined command by MCTP: its response. -/
def Block.vendorCmd (s : Block) (cmd : Nat) (data : List Nat) (sig : Bool) : Block :=
  let (code, d, s) := s.vendor .mgmtCtl cmd data sig
  s.answer 0x7E code d

/-- FORWARD: the inner command goes to another package's management controller as a management transaction (R434); the response
follows when that ends. -/
def Block.forwardCmd (s : Block) (g : Nat) (inner : List Nat) : Block :=
  if inner.isEmpty then s.answer 0x7E 2 []
  else if !s.isSelf g && !s.reachable g then (s.log .mgmt 9).answer 0x7E 4 []
  else if !s.xRoom g 2 then s.answer 0x7E 3 []
  else s.xIssue 0 { kind := 6, dst := g, data := inner.take 2048 } (.mgmt 0)

/-- A forwarded command has ended: the inner response, or unreachable (R434). -/
def Block.forwardDone (s : Block) (ok : Bool) (data : List Nat) : Block :=
  if ok then s.answer 0x7E (data.headD 1) (data.drop 1) else (s.log .mgmt 9).answer 0x7E 4 []

/-- A management request of another package is performed (R26, R434): command byte and data; the response bytes. A token's signature
is checked by what verifies it, a free value here. A FORWARD inside a FORWARD is refused (assumption log 65). -/
def Block.mreqDo (s : Block) (k : Pkt) : List Nat × Block :=
  let (x, s) := s.fresh
  let (code, d, s) := s.vendor .remoteFw (k.data.headD 0) (k.data.drop 1) (bit x 0)
  (code :: d, s)

/-! SPDM (R435). -/

/-- An SPDM response. -/
def Block.spdmSay (s : Block) (st : SpdmState) (code : Nat) (data : List Nat) : Block :=
  (s.modMgmt fun m => { m with spdm := st }).answer 5 code data

/-- An SPDM error, counted. -/
def Block.spdmErr (s : Block) : Block := (s.log .mgmt 6).answer 5 0x7F []

/-- GET_VERSION: 1.2, and the sequence begins afresh. -/
def Block.spdmVersion (s : Block) : Block := s.spdmSay .version 0x04 [0x12]

/-- GET_CAPABILITIES. -/
def Block.spdmCaps (s : Block) : Block := if s.mgmt.spdm = .version then s.spdmSay .caps 0x61 [] else s.spdmErr

/-- NEGOTIATE_ALGORITHMS: `offered`: ECDSA P-384 and SHA-384 are among those the requester offers. -/
def Block.spdmAlgs (s : Block) (offered : Bool) : Block :=
  if s.mgmt.spdm = .caps ∧ offered then s.spdmSay .negotiated 0x63 [] else s.spdmErr

/-- `n` words whose values only cryptography gives: free here. -/
def Block.freeWords (s : Block) : Nat → List Nat × Block
  | 0 => ([], s)
  | n + 1 =>
    let (a, s) := s.fresh
    let (l, s) := s.freeWords n
    (leBytes 8 a ++ l, s)

/-- An answer of SPDM once algorithms are agreed, with `n` words only cryptography gives. -/
def Block.spdmCrypto (s : Block) (ok : Bool) (code n : Nat) (head : List Nat) : Block :=
  if s.mgmt.spdm = .negotiated ∧ ok then
    let (d, s) := s.freeWords n
    s.answer 5 code (head ++ d)
  else s.spdmErr

/-- The part's certificate chain, of at most 4 KiB (R435). -/
def certChain : List Nat :=
  (List.range (Nat.min (Config.perPart 1007).toNat 4096)).map fun n => (Config.certByte (BitVec.ofNat 64 puid) n).toNat

/-- The 48 bytes of SHA-384 over words. -/
def sha384 (l : List Nat) : List Nat := leBytes 48 (Config.hash384 l).toNat

/-- GET_DIGESTS: slot 0 alone holds a chain; its SHA-384. -/
def Block.spdmDigests (s : Block) : Block := s.spdmCrypto true 0x01 0 (1 :: sha384 certChain)

/-- GET_CERTIFICATE: at most `n` bytes of slot 0's chain from byte `off`; another slot is empty. -/
def Block.spdmCert (s : Block) (slot off n : Nat) : Block :=
  if s.mgmt.spdm = .negotiated ∧ slot = 0 ∧ off < certChain.length then s.answer 5 0x02 (slot :: (certChain.drop off).take n)
  else s.spdmErr

/-- CHALLENGE: a signature by the device key of slot 0. -/
def Block.spdmChallenge (s : Block) (slot : Nat) : Block := s.spdmCrypto (decide (slot = 0)) 0x03 12 [slot]

/-- The words that name an image: kind and the contents of the bank's units as they were taken. -/
def imageWords (kind : Nat) (units : SMap Nat) : List Nat := kind :: units.flatMap fun e => [e.1, e.2]

/-- Measurement block `b` (R435): 1 to 4 the images that run, 5 the licence record in force or zeros, 6 the raw fields. -/
def Block.measurement (s : Block) (b : Nat) : List Nat :=
  match b with
  | 1 => sha384 (imageWords 1 s.boot.runMc)
  | 2 => sha384 (imageWords 2 s.boot.runRh)
  | 3 => sha384 (3 :: s.boot.runPart.flatMap fun e => imageWords e.1 e.2)
  | 4 => sha384 (imageWords 4 s.boot.runHub)
  | 5 => match s.boot.lic with
    | none => List.replicate 48 0
    | some r => sha384 [5, r.serial, r.bits, r.puidFrom]
  | _ => [1, 0xB0] ++ leBytes 8 puid ++ leBytes 4 (Config.perPart 1008).toNat ++ [s.boot.alm.mode]

/-- GET_MEASUREMENTS: block `b`, 0 the number of blocks, 255 all of them. -/
def Block.spdmMeasure (s : Block) (b : Nat) : Block :=
  if s.mgmt.spdm ≠ .negotiated then s.spdmErr
  else if b = 0 then s.answer 5 0x60 [6]
  else if b = 255 then s.answer 5 0x60 (([1, 2, 3, 4, 5, 6] : List Nat).flatMap s.measurement)
  else if b ≤ 6 then s.answer 5 0x60 (s.measurement b)
  else s.spdmErr

/-! JTAG (R436). -/

/-- The identity word (R436): version 0x1, part code, manufacturer, bit 0 one. -/
def idWord : Nat := 2 ^ 28 + (Config.perPart 1006).toNat % 2 ^ 16 * 2 ^ 12 + (Config.perPart 1005).toNat % 2 ^ 11 * 2 + 1

/-- What the TAP register holds: 0 bypass, 1 identity, 2 boundary. -/
def Block.jtagWord (s : Block) (reg : Nat) : Nat := if reg = 1 then idWord else if reg = 2 then s.mgmt.jtagChain else 0

/-- A TAP instruction of place `ir` that always acts on register `reg`. -/
def Block.jtag (s : Block) (ir reg : Nat) : Block :=
  (s.modMgmt fun m => { m with jtagIr := ir, jtagActs := true }).emit (.jtag reg (s.jtagWord reg))

/-- SAMPLE/PRELOAD: the boundary chain, which holds every pin but the O-link lanes and the wiring of HBM and the capacity tier (R436), takes what
the pins carry, which no command says: a free value (assumption log 112). -/
def Block.jtagSample (s : Block) : Block :=
  let (v, s) := s.fresh
  (s.modMgmt fun m => { m with jtagChain := v }).jtag 2 2

/-- A TAP instruction that acts only while PKG_RST_N is asserted and VIN_MAIN is present; else it loads, behaves as BYPASS and is
counted. -/
def Block.jtagPins (s : Block) (ir reg : Nat) (vin : Bool) : Block :=
  if s.boot.power = .reset ∧ vin then s.jtag ir reg
  else ((s.modMgmt fun m => { m with jtagIr := ir, jtagActs := false }).log .eyep 4).emit (.jtag 0 0)

end Sys2Proof.Machine
end

