-- ==== Sys2Proof/Machine/Fabric.lean ====
section
/-! DEFINITION. The transaction unit: what arrives for this package and what ends (spec/09, R249 to R257), and the settling of both
after a command. -/

namespace Sys2Proof.Machine

/-- A control block of type `t` arrives on a link: one with a bad CRC-8 or of another type is discarded and counted (R236). -/
def Block.ctlIn (s : Block) (n t b : Nat) (f : Block → Block) : Block :=
  if ctlGood b && decide (ctlByte b 0 = t) then f s else s.log (.lnk n) 12

/-! Performing requests (R254, R381). -/

/-- The memory at a package physical address belongs to a core or cluster in reset (Table 14.9). -/
def Block.inResetAt (s : Block) (pa : Nat) : Bool :=
  if pa < 0x20000000000 then false
  else if pa < 0x21000000000 then
    let p := pa / 2 ^ 27 % 32
    let c := pa / 2 ^ 23 % 16
    (List.range 17).all fun k => (s.core p (17 * c + k)).inReset
  else (s.core (pa / 2 ^ 27 % 32) (pa / 2 ^ 19 % 256)).inReset

/-- The place that a READ or WRITE packet names, `n` bytes of it: a package physical address, or the status that refuses it
(Table 9.11). A system address reaches HBM and the capacity tier only (R171). -/
def Block.packetPlace (s : Block) (k : Pkt) (n : Nat) : Nat ⊕ Nat :=
  match k.op with
  | 0 => if inTiers k.addr && inTiers (k.addr + n - 1) && s.canAccess k.addr n then .inr k.addr else .inl 1
  | 1 => match s.nameBase k.job 2 k.addr with
    | none => .inl 2
    | some (_, base) =>
      if 0x800000 < k.addr % 2 ^ 32 + n then .inl 1
      else if s.inResetAt base then .inl 2 else .inr (base + k.addr % 2 ^ 32)
  | 2 => match s.coreOf k.job (bits k.addr 32 11) with
    | none => .inl 2
    | some (p, i, sl) =>
      let off := k.addr % 2 ^ 32
      if (s.core p i).inReset then .inl 2
      else if 0x80000 < off + n ∨ (s.outside p i sl off n).isSome then .inl 3
      else .inr (coreBase p i + off)
  | _ => .inl 1

/-- The response to a request (Table 9.10). -/
def Block.answerOf (s : Block) (k : Pkt) (status old : Nat) (data : List Nat) (pois : Nat) : Pkt :=
  { kind := if k.kind = 1 then 7 else if k.kind = 3 then 9 else if k.kind = 6 then 0x0A else 8, g := k.g, dst := k.owner,
    src := s.pkgn, owner := k.owner, tid := k.tid, job := k.job, operand := old, status := status, data := data,
    len := data.length, pois := pois }

/-- A response leaves. -/
def Block.respond (s : Block) (n : Nat) (k : Pkt) (status old : Nat) (data : List Nat) (pois : Nat) : Block :=
  s.send (n % 36) 36 (s.answerOf k status old data pois)

/-- A READ is performed and answered, in whatever order it arrives (R254). -/
def Block.readIn (s : Block) (n : Nat) (k : Pkt) : Block :=
  match s.packetPlace k k.len with
  | .inl st => s.respond n k st 0 [] 0
  | .inr pa =>
    let po := s.flitPois pa k.len
    let (bs, _, s) := s.memRead pa k.len (hintOf k.hint)
    s.respond n k 0 0 bs po

/-- A WRITE is performed: its bytes are stored flit by flit, poisoned where the flit is (R235). -/
def Block.writeIn (s : Block) (k : Pkt) : Nat × Block :=
  match s.packetPlace k k.data.length with
  | .inl st => (st, s)
  | .inr pa => (0, k.segments.foldl (fun s x => s.memWrite (pa + x.1) x.2.1 x.2.2 (hintOf k.hint)) s)

/-- A SIGNAL is performed at the partition that carries the logical partition for the job, or dropped (R221, R240). -/
def Block.signalIn (s : Block) (n : Nat) (k : Pkt) : Block :=
  match s.remoteSync k.job k.lpart with
  | (none, s) => s
  | (some (p, sl), s) =>
    let num := k.addr % 4096
    let src := SyncSrc.link n 0x7FF k.job k.owner
    match k.op with
    | 2 => match s.barNum p sl num with
      | some b => s.arriveAt p { bar := true, num := b, src := src }
      | none => s.syncFault p 3 num 0 src
    | o =>
      if 2 < o then s
      else
        let amount := k.operand % 2 ^ 32
        match s.ctrNum p sl num with
        | some c => (s.ctrApply p (if o = 1 then .sub else .add) c amount src).2
        | none => s.syncFault p 3 num amount src

/-- Record of a management response: its bytes as one number. -/
def packBytes (d : List Nat) : Nat := leNat (d ++ [1])

/-- The bytes of such a record. -/
def unpackBytes (v : Nat) : List Nat :=
  let n := (v.log2) / 8
  leBytes n v

/-- An ordered or management request is performed and answered (R254): NEXT has been set by the caller. -/
def Block.performIn (s : Block) (n : Nat) (k : Pkt) : Block :=
  let key := spaceKey k.owner k.space
  match k.kind with
  | 2 =>
    let (st, s) := s.writeIn k
    s.respond n k st 0 [] 0
  | 3 =>
    let m := 4 * 2 ^ (k.size % 2)
    let keep (s : Block) (st old pois : Nat) : Block :=
      { s with xu := { s.xu with atoms := ((key, k.tid, st, old, pois) :: s.xu.atoms).take 131072 } }
    if k.addr % m ≠ 0 || !inTiers k.addr || !s.canAccess k.addr m then (keep s 1 0 0).respond n k 1 0 [] 0
    else
      let (old, pois, s) := s.atomicAt k.addr k.hint k.op m (k.operand % 2 ^ (8 * m)) (leNat (k.data.take m)) .none
        (decide (k.pois ≠ 0))
      let s := if pois then s.observePoison (.lnk (n % 36)) else s
      (keep s 0 old (b2n pois)).respond n k 0 old [] (b2n pois)
  | 4 => (s.signalIn n k).respond n k 0 0 [] 0
  | 5 =>
    let (st, s) := s.collIn k
    s.respond n k st 0 [] 0
  | _ =>
    let (d, s) := s.mreqDo k
    let mine := (((key, k.tid, 0, packBytes d) :: s.xu.mreqs).filter fun (e : Nat × Nat × Nat × Nat) => decide (e.1 = key)).take 64
    let s := { s with xu := { s.xu with mreqs := mine ++ s.xu.mreqs.filter fun (e : Nat × Nat × Nat × Nat) => decide (e.1 ≠ key) } }
    s.respond n k 0 0 d 0

/-- A duplicate is answered again without being performed (Table 9.15). -/
def Block.duplicate (s : Block) (n : Nat) (k : Pkt) : Block :=
  let key := spaceKey k.owner k.space
  let s := s.log (.lnk (n % 36)) 14
  match k.kind with
  | 3 => match s.xu.atoms.find? fun e => e.1 = key && e.2.1 = k.tid with
    | some e => s.respond n k e.2.2.1 e.2.2.2.1 [] e.2.2.2.2
    | none => (s.log (.lnk (n % 36)) 22).respond n k 4 0 [] 0
  | 6 => match s.xu.mreqs.find? fun e => e.1 = key && e.2.1 = k.tid with
    | some e => s.respond n k e.2.2.1 0 (unpackBytes e.2.2.2) 0
    | none => (s.log (.lnk (n % 36)) 22).respond n k 4 0 [] 0
  | _ => s.respond n k 0 0 [] 0

/-- NEXT of an issuer's space becomes `v`. -/
def Block.setNext (s : Block) (key v : Nat) : Block :=
  { s with xu := { s.xu with next := smPut 0 s.xu.next key (v % 65536), known := smPut false s.xu.known key true } }

/-- A held packet of space `key`. -/
def heldOf (key : Nat) (e : Nat × Pkt) : Bool := spaceKey e.2.owner e.2.space = key

/-- Held arrivals that are now in order are performed in TID order. -/
def Block.drainHold (s : Block) (key : Nat) : Nat → Block
  | 0 => s
  | f + 1 =>
    let next := smGet 0 s.xu.next key
    match s.xu.hold.find? fun e => heldOf key e && decide (e.2.tid = next) with
    | none => s
    | some e =>
      let s := { s with xu := { s.xu with hold := s.xu.hold.erase e } }
      ((s.setNext key (next + 1)).performIn e.1 e.2).drainHold key f

/-- An ordered or management request arrives (R254, Table 9.15). -/
def Block.orderedIn (s : Block) (n : Nat) (k : Pkt) : Block :=
  let key := spaceKey k.owner k.space
  let next := smGet 0 s.xu.next key
  let d := (k.tid + 65536 - next) % 65536
  let lg := Page.lnk (n % 36)
  if k.resync || !smGet false s.xu.known key then
    let s := { s with xu := { s.xu with hold := s.xu.hold.filter fun e => !heldOf key e } }
    (s.setNext key (k.tid + 1)).performIn n k
  else if d = 0 then ((s.setNext key (next + 1)).performIn n k).drainHold key s.xu.hold.length
  else if d ≤ 4095 then
    if s.xu.hold.any fun e => heldOf key e && decide (e.2.tid = k.tid) then s
    else if s.xu.hold.length < 2048 then
      ({ s with xu := { s.xu with hold := s.xu.hold ++ [(n, k)] } }).log lg 16
    else (s.log lg 17).sendDrop (n % 36) k
  else if 61440 ≤ d then s.duplicate n k
  else s.log lg 15

/-- A packet for this package is handled by its kind (Table 9.10). -/
def Block.kindIn (s : Block) (n : Nat) (k : Pkt) : Block :=
  match k.kind with
  | 0x01 => s.readIn n k
  | 0x02 => s.orderedIn n k
  | 0x03 => s.orderedIn n k
  | 0x04 => s.orderedIn n k
  | 0x05 => s.orderedIn n k
  | 0x06 => s.orderedIn n k
  | 0x07 => s.responseIn n k
  | 0x08 => s.responseIn n k
  | 0x09 => s.responseIn n k
  | 0x0A => s.responseIn n k
  | 0x0B => s.dropIn n k
  | 0x0C => s.norouteIn n k
  | _ => s.log (.lnk (n % 36)) 23

/-- A link carries a packet that arrives on it: any packet while it runs or drains; in QUARANTINE only a management packet of the
neighbour for this package (R232). -/
def Block.carries (s : Block) (n : Nat) (k : Pkt) : Bool :=
  match (s.link n).state with
  | .linkup => true
  | .retry => true
  | .sparing => true
  | .drainDisable _ => true
  | .drainQuarantine => true
  | .quarantine => k.isMgmt && s.isSelf k.dst && decide ((s.link n).peer.map (·.1) = some k.src)
  | _ => false

/-- A packet that a link has delivered: one of a reserved kind is discarded and counted (Table 9.10), another handled here, when it leaves the receive buffer, or forwarded on its route (R237, R239, R249,
R250). -/
def Block.packetIn (s : Block) (n : Nat) (k : Pkt) (shares : List Nat) : Block :=
  if n < 36 ∧ (s.link n).state = .quarantine ∧ s.carries n k = false then s.giveCredit n shares
  else if k.kind = 0 ∨ 12 < k.kind then (s.log (.lnk (n % 36)) 23).giveCredit n shares
  else if s.isSelf k.dst then (s.kindIn n k).giveCredit n shares
  else s.send (n % 36) n k shares

/-- A whole packet arrives on link `n`: poison in it is observed as it is accepted (R235, R376). -/
def Block.arrive (s : Block) (n : Nat) (k : Pkt) : Block :=
  if !s.carries n k then s
  else (if k.pois = 0 then s else s.observePoison (.lnk n)).packetIn n k []

/-! Ends of transactions (R255, R256). -/

/-- The descriptor status of a response status (Table 9.11). -/
def failStatus (st : Nat) : Nat :=
  match st with
  | 1 => 3
  | 2 => 4
  | 3 => 5
  | _ => 0x0A

/-- A transaction has ended; its issuer is told. A response of kind 0 stands for REMOTE_FAIL. -/
def Block.xDone (s : Block) (x : Xact) (r : Pkt) : Block :=
  let ok := r.kind ≠ 0 && r.status = 0
  let lost := r.kind = 0 || decide (4 ≤ r.status)
  let g := x.pkt.dst
  match x.origin with
  | .desc p j ch id => if ok then s else s.descFail p j ch id (if lost then 0x0A else failStatus r.status)
  | .descRead p j ch id num ds par =>
    if ok then s.pieceIn p j ch id num ds r.data (parityMark par (flitRanges r.data.length r.pois)) x.old
    else s.descFail p j ch id (if lost then 0x0A else failStatus r.status)
  | .signal p => if ok then s else s.jobFault p 6 x.pkt.job g 0x7FF
  | .core p i sl =>
    let s := if ok then s else s.jobFault p 6 x.pkt.job g (s.slot p i sl).lcore
    s.modSlot p i sl fun t => { t with syncOut := t.syncOut - 1 }
  | .amo p i sl reg n =>
    let give (s : Block) (v : Nat) : Block :=
      s.modSlot p i sl fun t => if t.wait = .verdict then (t.setS reg v).resume else t
    if ok then give (if r.pois = 0 then s else s.raise (.core p i) 2) (r.operand % 2 ^ (8 * n))
    else if lost then
      let (v, s) := s.fresh
      give (s.jobFault p 6 x.pkt.job g (s.slot p i sl).lcore) (v % 2 ^ (8 * n))
    else if (s.slot p i sl).wait ≠ .verdict then s
    else if r.status = 1 then s.amoFault p i sl 6
    else s.coreFault p i sl (if r.status = 2 then .binding else .window) g
  | .fetch p i sl line =>
    if ok then s.lineIn p i sl line r.data (r.pois ≠ 0)
    else if lost then s.jobFault p 6 x.pkt.job g (s.slot p i sl).lcore
    else s.coreFault p i sl .address g
  | .coll p q lane launch send =>
    if ok then s.collDone p q lane launch send
    else (if lost then s.jobFault p 6 x.pkt.job g 0x7FF else s).collLost p q lane launch g x.refused
  | .mgmt _ => s.forwardDone ok r.data
  | .vote p _ => if lost then s.jobFault p 6 x.pkt.job g 0x7FF else s
  | .mirror r tag => (if lost then s.jobFault (s.ringHome r) 6 (s.ringJob r) g 0x7FF else s).mirrorAck r tag ok
  | .orphan _ => if r.kind = 0 then s else s.log (.lnk (x.via.getD 0)) 23
  | .none => if r.kind = 0 then s else s.log (.lnk (x.via.getD 0)) 23

/-- Ended transactions are reported and arrivals of this package handled, one at a time, until none is left. -/
def Block.settle (s : Block) : Nat → Block
  | 0 => s
  | f + 1 =>
    match s.xu.ended with
    | (x, r) :: t => (({ s with xu := { s.xu with ended := t } }).xDone x r).settle f
    | [] => match s.xu.arrived with
      | (n, k, sh) :: t => (({ s with xu := { s.xu with arrived := t } }).packetIn n k sh).settle f
      | [] => s

/-- Most events that one command settles; what is left is settled after the next. -/
def settleFuel : Nat := 100000

/-- A command's own effect, then everything it lets happen inside the package at once. -/
def Block.settling (s : Block) (f : Block → Block) : Block :=
  let s := (f s).settle settleFuel
  let s := s.collPump s.coll.outbox.length
  s.settle settleFuel

/-! Power. -/

/-- The data plane acts only while the package is on (R351, R384). -/
def Block.live (s : Block) (f : Block → Block) : Block := if s.boot.power = .on then f s else s

/-- The always-on domain acts whenever VSTBY is present and PKG_RST_N is not asserted (R382, R446). -/
def Block.awake (s : Block) (f : Block → Block) : Block := if s.boot.power = .reset ∨ s.boot.power = .dark then s else f s

/-- What VSTBY alone powers acts while VSTBY is present (R436, R446). -/
def Block.powered (s : Block) (f : Block → Block) : Block := if s.boot.power = .dark then s else f s

/-- A command changes what the package holds and leaves the queue as it is; it always completes. -/
def State.onBlock (s : State) (f : Block → Block) : Host.Outcome State Fault Refusal := .next { s with blk := f s.blk }

end Sys2Proof.Machine
end

