-- ==== Sys2Proof/Machine/BringUpCmds.lean ====
section
/-! DEFINITION. Bring-up, banks and licences (spec/15). One meaning for each command. -/

namespace Sys2Proof.Machine

/-- RAILS_START (R448): VIN_MAIN at 11.0 V for 10 ms lets boot step RAILS sequence the regulators. -/
def execRailsStart (s : State) : Host.Outcome State Fault Refusal :=
  s.onBlock fun b => b.railsStart

/-- BOOT_STEP_COMPLETE (R401): A boot step ends, its outcome is journalled and the next step starts, READY rising after ALMANAC.
-/
def execBootStepComplete (x : StepOut) (s : State) : Host.Outcome State Fault Refusal :=
  s.onBlock fun b => b.live fun b => b.stepComplete x

/-- BOOT_STEP_TIMEOUT (R399): A boot step exceeding its maximum duration has failed and is journalled FAILED. -/
def execBootStepTimeout (s : State) : Host.Outcome State Fault Refusal :=
  s.onBlock fun b => b.live fun b => b.stepTimeout

/-- BUNDLE_CHUNK_RECEIVE (R407): A 64 KiB bundle chunk is forwarded down the management tree and programmed into the inactive
bank. -/
def execBundleChunkReceive (l : Fin 37) (src : BitVec 16) (k : Nat) (total : Nat) (s : State) :
    Host.Outcome State Fault Refusal :=
  s.onBlock fun b => b.live fun b => b.chunkIn l src.toNat k total

/-- BANK_PROGRAM_DONE (R413): Programming of the inactive bank ends and the bank is checked and marked valid or invalid. -/
def execBankProgramDone (x : BundleOut) (s : State) : Host.Outcome State Fault Refusal :=
  s.onBlock fun b => b.awake fun b => b.bankDone x

/-- ALMANAC_WRITE (R408): The Almanac is written to the older copy with an incremented generation, on ALM_CTL.WRITE or within 1 s
of a mark. -/
def execAlmanacWrite (s : State) : Host.Outcome State Fault Refusal :=
  s.onBlock fun b => b.live fun b => b.almWrite

/-- ACTIVATE_MC (R413): Writing BOOT_ACT.MC restarts the management controller on the new bank. -/
def execActivateMc (req : Requester) (s : State) : Host.Outcome State Fault Refusal :=
  s.onBlock fun b => b.awake fun b => b.guardW req fun b => b.activateMc

/-- ACTIVATE_RHOST (R413): Writing BOOT_ACT.RHOST restarts firmware-owned resident-host cores one at a time on the new bank. -/
def execActivateRhost (req : Requester) (s : State) : Host.Outcome State Fault Refusal :=
  s.onBlock fun b => b.awake fun b => b.guardW req fun b => b.activateRhost

/-- ACTIVATE_PART (R413): Writing BOOT_ACT.PART makes the named partitions load new compute-core firmware at their next reset. -/
def execActivatePart (req : Requester) (mask : BitVec 12) (s : State) : Host.Outcome State Fault Refusal :=
  s.onBlock fun b => b.awake fun b => b.guardW req fun b => if mask = 0 then b else b.activatePart mask.toNat

/-- LICENCE_CHECK (R415): Writing LIC GO checks the staged licence record and accepts it as pending or refuses it. -/
def execLicenceCheck (req : Requester) (sig : Bool) (revoked : Bool) (s : State) : Host.Outcome State Fault Refusal :=
  s.onBlock fun b => b.live fun b => b.guardW req fun b => b.licCheck sig revoked

end Sys2Proof.Machine
end

