-- ==== Sys2Proof/Machine/CollectivesCmds.lean ====
section
/-! DEFINITION. Collectives (spec/10). One meaning for each command. -/

namespace Sys2Proof.Machine

/-- QUEUE_BIND (R261): Writing COLL_BIND.BOUND as 1 binds a communication queue to a group after checking its member table. -/
def execQueueBind (p : Fin 12) (q : Fin 64) (req : Requester) (v : BitVec 32) (s : State) : Host.Outcome State Fault Refusal :=
  s.onBlock fun b => b.live fun b => b.guard (.coll p q) req 0x044 (b.rwChanges (.coll p q) 0x044 (v.toNat % 2 ^ 31 + 2 ^ 31)) fun b => b.queueBind p q v.toNat

/-- QUEUE_UNBIND (R265): Writing COLL_BIND.BOUND as 0 unbinds the queue after draining. -/
def execQueueUnbind (p : Fin 12) (q : Fin 64) (req : Requester) (v : BitVec 32) (s : State) :
    Host.Outcome State Fault Refusal :=
  s.onBlock fun b => b.live fun b => b.guard (.coll p q) req 0x044 (b.rwChanges (.coll p q) 0x044 (v.toNat % 2 ^ 31)) fun b => b.queueUnbind p q v.toNat

/-- CS_LAUNCH (R266): Posts a launch record to a device-launched queue and writes the status. -/
def execCsLaunch (p : Fin 12) (i : Fin 153) (sl : Fin 2) (w : BitVec 64) (s : State) : Host.Outcome State Fault Refusal :=
  s.onBlock fun b => b.live fun b => b.issue p i sl w.toNat 0x6 0x00 fun b => b.settling fun b => b.csLaunch p i sl w.toNat

/-- LIBRARY_LAUNCH_TAKE (R267): A library-launched queue takes the next ring record when its launch counter allows, consuming 1.
-/
def execLibraryLaunchTake (p : Fin 12) (q : Fin 64) (s : State) : Host.Outcome State Fault Refusal :=
  s.onBlock fun b => b.live fun b => b.settling fun b => b.libraryTake p q

/-- CS_TAKE (R269): A comm core waits for and copies the next launch record available to its lane. -/
def execCsTake (p : Fin 12) (i : Fin 153) (sl : Fin 2) (w : BitVec 64) (s : State) : Host.Outcome State Fault Refusal :=
  s.onBlock fun b => b.live fun b => b.issue p i sl w.toNat 0x6 0x01 fun b => b.settling fun b => b.csTake p i sl w.toNat

/-- CS_EXPECT (R272): Opens an expectation and sends a CTS to the peer lane. -/
def execCsExpect (p : Fin 12) (i : Fin 153) (sl : Fin 2) (w : BitVec 64) (s : State) : Host.Outcome State Fault Refusal :=
  s.onBlock fun b => b.live fun b => b.issue p i sl w.toNat 0x6 0x02 fun b => b.settling fun b => b.csExpect p i sl w.toNat

/-- CS_SEND (R273): Enters a send transmitted once the matching CTS is held. -/
def execCsSend (p : Fin 12) (i : Fin 153) (sl : Fin 2) (w : BitVec 64) (s : State) : Host.Outcome State Fault Refusal :=
  s.onBlock fun b => b.live fun b => b.issue p i sl w.toNat 0x6 0x03 fun b => b.settling fun b => b.csSend p i sl w.toNat

/-- CS_REL (R274): Releases the window slot of a step whose expectations are met. -/
def execCsRel (p : Fin 12) (i : Fin 153) (sl : Fin 2) (w : BitVec 64) (s : State) : Host.Outcome State Fault Refusal :=
  s.onBlock fun b => b.live fun b => b.issue p i sl w.toNat 0x6 0x04 fun b => b.settling fun b => b.csRel p i sl w.toNat

/-- CS_NEXT (R275): Waits for and returns the next deliverable collective event of the slot's queues. -/
def execCsNext (p : Fin 12) (i : Fin 153) (sl : Fin 2) (w : BitVec 64) (s : State) : Host.Outcome State Fault Refusal :=
  s.onBlock fun b => b.live fun b => b.issue p i sl w.toNat 0x6 0x05 fun b => b.settling fun b => b.csNext p i sl w.toNat

/-- CS_END (R269): Ends the lane's launch with OK once its sends have completed. -/
def execCsEnd (p : Fin 12) (i : Fin 153) (sl : Fin 2) (w : BitVec 64) (s : State) : Host.Outcome State Fault Refusal :=
  s.onBlock fun b => b.live fun b => b.issue p i sl w.toNat 0x6 0x06 fun b => b.settling fun b => b.csEnd p i sl w.toNat

/-- CS_VOTE (R281): Contributes a value, optionally ORing NONFINITE, to the package's vote. -/
def execCsVote (p : Fin 12) (i : Fin 153) (sl : Fin 2) (w : BitVec 64) (s : State) : Host.Outcome State Fault Refusal :=
  s.onBlock fun b => b.live fun b => b.issue p i sl w.toNat 0x6 0x07 fun b => b.settling fun b => b.csVote p i sl w.toNat

/-- CS_VWAIT (R282): Waits for the slot's latest vote result and returns it. -/
def execCsVwait (p : Fin 12) (i : Fin 153) (sl : Fin 2) (w : BitVec 64) (s : State) : Host.Outcome State Fault Refusal :=
  s.onBlock fun b => b.live fun b => b.issue p i sl w.toNat 0x6 0x08 fun b => b.settling fun b => b.csVwait p i sl w.toNat

/-- CTS_RECEIVE (R273): A CTS arrival releases a matching send or is kept in the CTS store, overflow ending the launch. -/
def execCtsReceive (n : Fin 36) (pkt : Pkt) (s : State) : Host.Outcome State Fault Refusal :=
  s.onBlock fun b => b.live fun b => b.settling fun b => b.arrive n pkt

/-- COLL_DATA_RECEIVE (R274): A DATA packet writes into the expecting lane's slot, meeting its expectation when complete. -/
def execCollDataReceive (n : Fin 36) (pkt : Pkt) (s : State) : Host.Outcome State Fault Refusal :=
  s.onBlock fun b => b.live fun b => b.settling fun b => b.arrive n pkt

/-- ABORT_RECEIVE (R284): A received ABORT ends the lane's launch with ABORTED and passes ABORT to its pending peers. -/
def execAbortReceive (n : Fin 36) (pkt : Pkt) (s : State) : Host.Outcome State Fault Refusal :=
  s.onBlock fun b => b.live fun b => b.settling fun b => b.arrive n pkt

/-- ABSENT_RECEIVE (R285): A received ABSENT ends the lane's launch with ABSENT. -/
def execAbsentReceive (n : Fin 36) (pkt : Pkt) (s : State) : Host.Outcome State Fault Refusal :=
  s.onBlock fun b => b.live fun b => b.settling fun b => b.arrive n pkt

/-- COLL_DEADLINE (R284): An expectation unmet at DEADLINE ticks ends the launch with DEADLINE and sends ABORT to peers. -/
def execCollDeadline (p : Fin 12) (q : Fin 64) (l : Fin 32) (s : State) : Host.Outcome State Fault Refusal :=
  s.onBlock fun b => b.live fun b => b.settling fun b => b.collDeadline p q l

/-- ORDER_MISMATCH (R286): A mismatched library-launched arrival unresolved within ORDER_TICKS ends the partition's launches with
ORDER_MISMATCH. -/
def execOrderMismatch (p : Fin 12) (s : State) : Host.Outcome State Fault Refusal :=
  s.onBlock fun b => b.live fun b => b.settling fun b => b.orderMismatch p

/-- VOTE_UP_RECEIVE (R282): A child's VOTE_UP is ORed in and, once all children have arrived, the result goes to the parent or is
turned round at the root. -/
def execVoteUpReceive (n : Fin 36) (pkt : Pkt) (s : State) : Host.Outcome State Fault Refusal :=
  s.onBlock fun b => b.live fun b => b.settling fun b => b.arrive n pkt

/-- VOTE_DOWN_RECEIVE (R282): A VOTE_DOWN delivers the result to contributing slots and is forwarded to children. -/
def execVoteDownReceive (n : Fin 36) (pkt : Pkt) (s : State) : Host.Outcome State Fault Refusal :=
  s.onBlock fun b => b.live fun b => b.settling fun b => b.arrive n pkt

/-- VOTE_DEADLINE (R282): No VOTE_DOWN within VDL ticks returns all ones to CS.VWAIT and reports a job fault. -/
def execVoteDeadline (job : BitVec 16) (group : BitVec 24) (ordinal : Nat) (s : State) : Host.Outcome State Fault Refusal :=
  s.onBlock fun b => b.live fun b => b.settling fun b => b.voteDeadline job.toNat group.toNat ordinal

/-- DEFER_TIMEOUT (R287): A pre-emption deferral reaching DEFER_TICKS ends outstanding launches with DEADLINE so pre-emption can
begin. -/
def execDeferTimeout (p : Fin 12) (s : State) : Host.Outcome State Fault Refusal :=
  s.onBlock fun b => b.live fun b => b.settling fun b => b.deferTimeout p

end Sys2Proof.Machine
end

