-- ==== Sys2Proof/Machine/ControllerCmds.lean ====
section
/-! DEFINITION. The management controller and the Eyepiece (spec/16). One meaning for each command. -/

namespace Sys2Proof.Machine

/-- SET_ENDPOINT_ID (R430): MCTP control Set Endpoint ID assigns the endpoint ID for all bindings. -/
def execSetEndpointId (e : BitVec 8) (s : State) : Host.Outcome State Fault Refusal :=
  s.onBlock fun b => b.awake fun b => b.setEid e.toNat

/-- GET_ENDPOINT_ID (R430): MCTP control Get Endpoint ID returns the endpoint ID. -/
def execGetEndpointId (s : State) : Host.Outcome State Fault Refusal :=
  s.onBlock fun b => b.awake fun b => b.getEid

/-- GET_MCTP_VERSION_SUPPORT (R430): MCTP control command returning supported versions. -/
def execGetMctpVersionSupport (s : State) : Host.Outcome State Fault Refusal :=
  s.onBlock fun b => b.awake fun b => b.mctpVersions

/-- GET_MESSAGE_TYPE_SUPPORT (R430): MCTP control command returning the supported message types. -/
def execGetMessageTypeSupport (s : State) : Host.Outcome State Fault Refusal :=
  s.onBlock fun b => b.awake fun b => b.mctpTypes

/-- GET_ENDPOINT_UUID (R430): MCTP control command returning a UUID carrying the PUID. -/
def execGetEndpointUuid (s : State) : Host.Outcome State Fault Refusal :=
  s.onBlock fun b => b.awake fun b => b.mctpUuid

/-- MCTP_UNSUPPORTED_TYPE (R430): A message of an unsupported MCTP type is answered ERROR_UNSUPPORTED_CMD and counted. -/
def execMctpUnsupportedType (t : BitVec 8) (s : State) : Host.Outcome State Fault Refusal :=
  s.onBlock fun b => b.awake fun b => b.mctpUnsupported t.toNat

/-- SET_NUMERIC_EFFECTER_VALUE (R431): PLDM command writing an effecter such as PPL or the facility target, clamped as a register
write. -/
def execSetNumericEffecterValue (id : BitVec 16) (v : BitVec 32) (s : State) : Host.Outcome State Fault Refusal :=
  s.onBlock fun b => b.awake fun b => b.setEffecter id.toNat v.toNat

/-- SET_EVENT_RECEIVER (R431): PLDM command naming the receiver of platform event messages. -/
def execSetEventReceiver (e : Option (BitVec 8)) (s : State) : Host.Outcome State Fault Refusal :=
  s.onBlock fun b => b.awake fun b => b.setReceiver (e.map (·.toNat))

/-- PLDM_FIRMWARE_DATA (R432): A 4,096-byte firmware data unit of a PLDM update is received and programmed into the inactive bank.
-/
def execPldmFirmwareData (s : State) : Host.Outcome State Fault Refusal :=
  s.onBlock fun b => b.awake fun b => b.updData

/-- VERIFY_COMPLETE (R432): PLDM VerifyComplete reports the bundle check of R412. -/
def execVerifyComplete (x : BundleOut) (s : State) : Host.Outcome State Fault Refusal :=
  s.onBlock fun b => b.awake fun b => b.updVerify x

/-- ACTIVATE_FIRMWARE (R432): PLDM ActivateFirmware sets BOOT_ACT.MC and BOOT_ACT.RHOST. -/
def execActivateFirmware (selfContained : Bool) (s : State) : Host.Outcome State Fault Refusal :=
  s.onBlock fun b => b.awake fun b => b.updActivate selfContained

/-- CANCEL_UPDATE (R432): PLDM CancelUpdate leaves the inactive bank invalid. -/
def execCancelUpdate (s : State) : Host.Outcome State Fault Refusal :=
  s.onBlock fun b => b.awake fun b => b.updCancelCmd

/-- GET_STATUS (R432): PLDM GetStatus reports update state including pending activations. -/
def execGetStatus (s : State) : Host.Outcome State Fault Refusal :=
  s.onBlock fun b => b.awake fun b => b.updStatus

/-- PLDM_UPDATE_TIMEOUT (R432): A firmware update stopped for 60 s is cancelled with the bank left invalid. -/
def execPldmUpdateTimeout (s : State) : Host.Outcome State Fault Refusal :=
  s.onBlock fun b => b.awake fun b => b.updTimeout

/-- READ32 (R434): Vendor command reading a management register. -/
def execRead32 (data : List Byte) (s : State) : Host.Outcome State Fault Refusal :=
  s.onBlock fun b => b.awake fun b => b.vendorCmd 1 (data.map (·.toNat)) false

/-- WRITE32 (R434): Vendor command writing a management register, refused while MCTP_WR_EN is 0. -/
def execWrite32 (data : List Byte) (s : State) : Host.Outcome State Fault Refusal :=
  s.onBlock fun b => b.awake fun b => b.settling fun b => b.vendorCmd 2 (data.map (·.toNat)) false

/-- WARM_RESET (R434): Vendor command that responds and then starts a package warm reset. -/
def execWarmReset (data : List Byte) (s : State) : Host.Outcome State Fault Refusal :=
  s.onBlock fun b => b.awake fun b => b.vendorCmd 3 (data.map (·.toNat)) false

/-- PKG_FFT (R375): Vendor command running the package flat-field test when every job is unbound. -/
def execPkgFft (data : List Byte) (s : State) : Host.Outcome State Fault Refusal :=
  s.onBlock fun b => b.awake fun b => b.vendorCmd 4 (data.map (·.toNat)) false

/-- FORWARD (R434): Vendor command carrying an inner command to another package's management controller. -/
def execForward (g : BitVec 16) (inner : List Byte) (s : State) : Host.Outcome State Fault Refusal :=
  s.onBlock fun b => b.awake fun b => b.settling fun b => b.forwardCmd g.toNat (inner.map (·.toNat))

/-- EYEP_NONCE (R437): Vendor command returning a 16-byte Eyepiece unlock nonce. -/
def execEyepNonce (data : List Byte) (s : State) : Host.Outcome State Fault Refusal :=
  s.onBlock fun b => b.awake fun b => b.vendorCmd 6 (data.map (·.toNat)) false

/-- EYEP_UNLOCK (R437): Vendor command verifying a signed token and unlocking the Eyepiece until the next package reset. -/
def execEyepUnlock (token : List Byte) (sig : Bool) (s : State) : Host.Outcome State Fault Refusal :=
  s.onBlock fun b => b.awake fun b => b.vendorCmd 7 (token.map (·.toNat)) sig

/-- GET_VERSION (R435): SPDM GET_VERSION request. -/
def execGetVersion (s : State) : Host.Outcome State Fault Refusal :=
  s.onBlock fun b => b.awake fun b => b.spdmVersion

/-- GET_CAPABILITIES (R435): SPDM GET_CAPABILITIES request. -/
def execGetCapabilities (s : State) : Host.Outcome State Fault Refusal :=
  s.onBlock fun b => b.awake fun b => b.spdmCaps

/-- NEGOTIATE_ALGORITHMS (R435): SPDM NEGOTIATE_ALGORITHMS request, ECDSA P-384 and SHA-384 only. -/
def execNegotiateAlgorithms (offered : Bool) (s : State) : Host.Outcome State Fault Refusal :=
  s.onBlock fun b => b.awake fun b => b.spdmAlgs offered

/-- GET_DIGESTS (R435): SPDM GET_DIGESTS request. -/
def execGetDigests (s : State) : Host.Outcome State Fault Refusal :=
  s.onBlock fun b => b.awake fun b => b.spdmDigests

/-- GET_CERTIFICATE (R435): SPDM GET_CERTIFICATE request returning the slot 0 chain. -/
def execGetCertificate (slot : Fin 8) (off : BitVec 16) (len : BitVec 16) (s : State) : Host.Outcome State Fault Refusal :=
  s.onBlock fun b => b.awake fun b => b.spdmCert slot off.toNat len.toNat

/-- CHALLENGE (R435): SPDM CHALLENGE request signed with the device key. -/
def execChallenge (slot : Fin 8) (s : State) : Host.Outcome State Fault Refusal :=
  s.onBlock fun b => b.awake fun b => b.spdmChallenge slot

/-- GET_MEASUREMENTS (R435): SPDM GET_MEASUREMENTS request returning image hashes, licence hash and raw fields. -/
def execGetMeasurements (block : BitVec 8) (s : State) : Host.Outcome State Fault Refusal :=
  s.onBlock fun b => b.awake fun b => b.spdmMeasure block.toNat

/-- EYEP_HALT (R438): Writing EYEP HALT halts or resumes the named core, refused where a job is bound, and reads and writes its registers
and core memory. -/
def execEyepHalt (req : Requester) (op : HaltOp) (s : State) : Host.Outcome State Fault Refusal :=
  s.onBlock fun b => b.awake fun b => match op with
    | .run on =>
      b.guard .eyep req 0x054 ((b.core (b.fld .eyep 0x050 16 4) (b.fld .eyep 0x050 0 8)).halted ≠ on) fun b => b.eyepHalt on
    | op => b.guardW req fun b => b.eyepAccess op

/-- I3C_DYNAMIC_ADDRESS (R430): The I3C bus controller assigns the management controller its dynamic address, which is held in
always-on latches and shown in MGMT_STAT.I3C_DA. -/
def execI3cDynamicAddress (a : BitVec 7) (s : State) : Host.Outcome State Fault Refusal :=
  s.onBlock fun b => b.awake fun b => b.i3cAddress a.toNat

end Sys2Proof.Machine
end

