-- ==== Sys2Proof/Machine/HeliostatCmds.lean ====
section
/-! DEFINITION. Power and thermal events (spec/13). One meaning for each command. -/

namespace Sys2Proof.Machine

/-- HELIOSTAT_LOOP (R340): Every 1 µs the fast loop reads power and sets the bubble count, ramp ceiling, ballast and secondary
throttles. -/
def execHeliostatLoop (pw : BitVec 16) (parts : List (Fin 12 × BitVec 16 × BitVec 16)) (sense : List (Fin 12 × Fin 9 × BitVec 10 × Bool)) (reads : LoopReads) (s : State) :
    Host.Outcome State Fault Refusal :=
  s.onBlock fun b =>
    b.awake fun b => b.helioLoop pw.toNat (parts.map fun e => (e.1.val, e.2.1.toNat, e.2.2.toNat)) (sense.map fun e => (e.1.val, e.2.1.val, e.2.2.1.toNat, e.2.2.2)) reads

/-- CAP_UNREACHABLE (R339): A 1 ms average above the cap after full actuation lowers clock steps and raises CAP_UNREACHABLE. -/
def execCapUnreachable (s : State) : Host.Outcome State Fault Refusal :=
  s.onBlock fun b => b.awake fun b => b.capUnreachable

/-- CLOCK_STEP_CHANGE (R337): A partition's clock step change takes effect at a frame boundary with voltage slewed first on a
rise. -/
def execClockStepChange (p : Fin 12) (slewed : Bool) (s : State) : Host.Outcome State Fault Refusal :=
  s.onBlock fun b => b.awake fun b => b.clockStep p slewed

/-- FREE_CLOCK_DECISION (R349): Every 1 ms a FREE partition's clock is raised or lowered one step by bubbles and temperature. -/
def execFreeClockDecision (p : Fin 12) (s : State) : Host.Outcome State Fault Refusal :=
  s.onBlock fun b => b.awake fun b => b.freeDecision p

/-- THERMAL_UPDATE (R350): Every 1 ms the thermal count and limits are set from each partition's hottest sensor. -/
def execThermalUpdate (tj : List (BitVec 8)) (hub : BitVec 8) (hbm : List (BitVec 8)) (s : State) :
    Host.Outcome State Fault Refusal :=
  s.onBlock fun b => b.awake fun b => b.thermalUpdate (tj.map (·.toNat)) hub.toNat (hbm.map (·.toNat))

/-- THERMTRIP (R351): A sensor at 115 °C turns off every VIN_MAIN regulator and drives THERMTRIP_N low without a park. -/
def execThermtrip (s : State) : Host.Outcome State Fault Refusal :=
  s.onBlock fun b => b.awake fun b => b.thermtrip.parkOver

/-- FACILITY_TARGET_WRITE (R345): Writing HELIO_TARGET sets a facility target followed at the ramp limits and renews its lease. -/
def execFacilityTargetWrite (req : Requester) (v : BitVec 32) (s : State) : Host.Outcome State Fault Refusal :=
  s.onBlock fun b => b.awake fun b => b.guard .helio req 0x04C (b.rwChanges .helio 0x04C v.toNat) fun b => b.targetWrite v.toNat

/-- TARGET_LEASE_EXPIRY (R345): An unrenewed lease expires, the target becomes none and TARGET_EXPIRED is raised. -/
def execTargetLeaseExpiry (s : State) : Host.Outcome State Fault Refusal :=
  s.onBlock fun b => b.awake fun b => b.leaseExpire

/-- SHED_ASSERT (R346): PWR_SHED_N recognised low sets the cap to the shed floor. -/
def execShedAssert (samples : Nat) (s : State) : Host.Outcome State Fault Refusal :=
  s.onBlock fun b => b.awake fun b => b.shedAssert samples

/-- SHED_DEASSERT (R346): PWR_SHED_N recognised high starts the floor hold until the fifth tick. -/
def execShedDeassert (s : State) : Host.Outcome State Fault Refusal :=
  s.onBlock fun b => b.awake fun b => b.shedDeassert

/-- SHED_HOLD_END (R346): The hold ends and power rises from the floor at RAMP_UP. -/
def execShedHoldEnd (s : State) : Host.Outcome State Fault Refusal :=
  s.onBlock fun b => b.awake fun b => b.shedHoldEnd

/-- SHED_STUCK (R346): PWR_SHED_N held low for 1 s raises SHED_STUCK. -/
def execShedStuck (s : State) : Host.Outcome State Fault Refusal :=
  s.onBlock fun b => b.awake fun b => b.shedStuck

/-- ENERGY_CALIBRATION (R353): Every second each partition's activity-model calibration factor is reset from metered energy. -/
def execEnergyCalibration (rs : List (Option (BitVec 32))) (s : State) : Host.Outcome State Fault Refusal :=
  s.onBlock fun b => b.awake fun b => b.energyCal (rs.map fun x => x.map (·.toNat))

/-- INPUT_LOSS (R354): PWR_LOSS_N low or VIN_MAIN below 10.5 V recognised sheds at once and starts the hold-up gauge. -/
def execInputLoss (pin : Bool) (vin : Bool) (v0 : BitVec 16) (s : State) : Host.Outcome State Fault Refusal :=
  s.onBlock fun b => b.awake fun b => b.inputLoss pin vin v0.toNat

/-- INPUT_RETURN (R354): Input restored before park ends the shed and counts a ride-through. -/
def execInputReturn (s : State) : Host.Outcome State Fault Refusal :=
  s.onBlock fun b => b.awake fun b => b.inputReturn

/-- PARK_BEGIN (R355): A gauge estimate reaching RESERVE begins the park: bubbles, link drain, regulators off and the park record
written. -/
def execParkBegin (v : BitVec 16) (q : BitVec 32) (s : State) : Host.Outcome State Fault Refusal :=
  s.onBlock fun b => b.awake fun b => b.parkBegin v.toNat q.toNat

/-- PARK_COMPLETE (R357): The park record and commit block are written and the package stays off until cold reset. -/
def execParkComplete (s : State) : Host.Outcome State Fault Refusal :=
  s.onBlock fun b => b.awake fun b => b.parkComplete.parkOver

/-- FINAL_CUTOFF (R355): VIN_MAIN at or below 9.0 V turns off every VIN_MAIN regulator within 1 µs. -/
def execFinalCutoff (s : State) : Host.Outcome State Fault Refusal :=
  s.onBlock fun b => b.awake fun b => b.finalCutoff.parkOver

/-- GAUGE_RECALIBRATE (R355): After a disagreeing episode and 10 s of full recharge, C_H is adopted from the episode. -/
def execGaugeRecalibrate (s : State) : Host.Outcome State Fault Refusal :=
  s.onBlock fun b => b.awake fun b => b.gaugeRecal

/-- REGULATOR_FAULT (R360): A faulted regulator turns off and records its fault, degrading a partition, the links or the package.
-/
def execRegulatorFault (k : Fin 53) (kind : BitVec 3) (s : State) : Host.Outcome State Fault Refusal :=
  s.onBlock fun b => b.awake fun b => (b.settling fun b => b.vregFault k kind.toNat).parkOver

/-- MGMT_CONTROLLER_RESET (R359): The management controller restarts with power state and always-on latches kept, then adopts the
state it reads. -/
def execMgmtControllerReset (s : State) : Host.Outcome State Fault Refusal :=
  s.onBlock fun b => b.awake fun b => b.mcReset

/-- MGMT_WATCHDOG (R429): The management loop unserviced for WDOG_S seconds restarts the management controller. -/
def execMgmtWatchdog (s : State) : Host.Outcome State Fault Refusal :=
  s.onBlock fun b => b.awake fun b => b.mcWatchdog

end Sys2Proof.Machine
end

