-- ==== Sys2Proof/Machine/HostPortCmds.lean ====
section
/-! DEFINITION. PCIe ports (spec/16). One meaning for each command. -/

namespace Sys2Proof.Machine

/-- DOORBELL_WRITE (R424): A 32-bit write to VF BAR0 adds its value to a counter of the partition's primary share. -/
def execDoorbellWrite (x : Fin 2) (v : Fin 12) (n : BitVec 14) (a : Option (BitVec 32)) (s : State) : Host.Outcome State Fault Refusal :=
  s.onBlock fun b => b.live fun b => b.vfAccess x (v.val + 1) n.toNat (a.map (·.toNat))

/-- APERTURE_ACCESS (R423): A server access through PF BAR2 is performed at its home or completes Unsupported Request. -/
def execApertureAccess (x : Fin 2) (off : BitVec 36) (len : BitVec 12) (write : Bool) (data : List Byte) (pois : Bool) (s : State) :
    Host.Outcome State Fault Refusal :=
  s.onBlock fun b => b.live fun b => b.aperture x off.toNat len.toNat write (data.map (·.toNat)) pois

/-- ATS_INVALIDATION (R425): A host ATS invalidation request invalidates matching port translations and is completed within 100
µs. -/
def execAtsInvalidation (x : Fin 2) (v : Fin 12) (page : BitVec 52) (count : Nat) (s : State) :
    Host.Outcome State Fault Refusal :=
  s.onBlock fun b => b.live fun b => b.atsInvalidate x (v.val + 1) page.toNat count

/-- PCIE_COMPLETION_TIMEOUT (R425): A device read without completion after CTO_MS ends its descriptor with REMOTE_FAIL. -/
def execPcieCompletionTimeout (x : Fin 2) (tag : BitVec 10) (s : State) : Host.Outcome State Fault Refusal :=
  s.onBlock fun b => b.live fun b => b.settling fun b => b.pcieTimeout x tag.toNat

/-- MSIX_SEND (R427): Writing PCIE_MSIX_SEND sends an MSI-X message to the named function and vector. -/
def execMsixSend (x : Fin 2) (req : Requester) (v : BitVec 32) (s : State) : Host.Outcome State Fault Refusal :=
  s.onBlock fun b => b.live fun b => b.guardW req fun b => b.msixSend x v.toNat

/-- PORT_RESET (R428): PERST_N, Hot Reset or link down resets the port's configuration, ATS and PRI state. -/
def execPortReset (x : Fin 2) (pin : Bool) (s : State) : Host.Outcome State Fault Refusal :=
  s.onBlock fun b => b.powered fun b => if b.boot.power = .reset then b.perstPin x pin else b.settling fun b => b.portReset x pin

/-- PORT_TRAIN (R452): A PCIe port trains after PERST_N release and the end of boot step HUB. -/
def execPortTrain (x : Fin 2) (gen : Fin 7) (width : BitVec 5) (vfs : BitVec 12) (cfg : List FnCfg) (s : State) :
    Host.Outcome State Fault Refusal :=
  s.onBlock fun b => b.powered fun b => b.portTrain x gen width.toNat vfs.toNat cfg

/-- VF_FLR (R428): A VF Function Level Reset invalidates its ATS entries and aborts the partition's primary job. -/
def execVfFlr (x : Fin 2) (v : Fin 12) (s : State) : Host.Outcome State Fault Refusal :=
  s.onBlock fun b => b.live fun b => b.settling fun b => b.vfFlr x (v.val + 1)

/-- PF_FLR (R428): A PF Function Level Reset resets PF configuration and disables every VF. -/
def execPfFlr (x : Fin 2) (s : State) : Host.Outcome State Fault Refusal :=
  s.onBlock fun b => b.live fun b => b.settling fun b => b.pfFlr x

/-- PCIE_COMPLETION (R425): A completion from the attached server for a device-initiated read, ATS translation request or PRI page
request arrives and lets the waiting transfer or table walk proceed or end HOST_DENIED. -/
def execPcieCompletion (x : Fin 2) (tag : BitVec 10) (ok : Bool) (perm : Bool) (data : List Byte) (s : State) :
    Host.Outcome State Fault Refusal :=
  s.onBlock fun b => b.live fun b => b.settling fun b => b.pcieDone x tag.toNat ok perm (data.map (·.toNat))

end Sys2Proof.Machine
end

