-- ==== Sys2Proof/Machine/LinksCmds.lean ====
section
/-! DEFINITION. Links, routes and transactions (spec/09). One meaning for each command. -/

namespace Sys2Proof.Machine

/-- LINK_ENABLE (R228): Writing a licensed link's HDR_CTL.ENABLE as 1 moves it from DISABLED to DETECT. -/
def execLinkEnable (n : Fin 36) (req : Requester) (s : State) : Host.Outcome State Fault Refusal :=
  s.onBlock fun b => b.live fun b => b.guard (.lnk n) req 0x00C (!b.enabled (.lnk n)) fun b => b.linkEnable n

/-- LINK_DISABLE (R248): Writing a link's HDR_CTL.ENABLE as 0 stops route selection and drains the link. -/
def execLinkDisable (n : Fin 36) (req : Requester) (s : State) : Host.Outcome State Fault Refusal :=
  s.onBlock fun b => b.live fun b => b.settling fun b => b.guard (.lnk n) req 0x00C (b.enabled (.lnk n)) fun b => b.linkDisable n

/-- LINK_DRAIN_END (R248): All sent data flits are acknowledged or the drain budget expires, and the link enters DISABLED or
QUARANTINE. -/
def execLinkDrainEnd (n : Fin 36) (s : State) : Host.Outcome State Fault Refusal :=
  s.onBlock fun b => b.live fun b => b.settling fun b => b.linkDrainEnd n

/-- LINK_SIGNAL_DETECT (R228): Signal on at least 16 receive lanes moves the link from DETECT to TRAIN. -/
def execLinkSignalDetect (n : Fin 36) (lanes : BitVec 18) (s : State) : Host.Outcome State Fault Refusal :=
  s.onBlock fun b => b.live fun b => b.linkSignal n lanes.toNat

/-- LINK_TRAIN_DONE (R229): At least 16 lanes trained per direction moves the link to ALIGN with untrained lanes spared. -/
def execLinkTrainDone (n : Fin 36) (rx : BitVec 18) (tx : BitVec 18) (s : State) : Host.Outcome State Fault Refusal :=
  s.onBlock fun b => b.live fun b => b.linkTrained n rx.toNat tx.toNat

/-- LINK_TRAIN_TIMEOUT (R229): TRAIN or ALIGN or DIGEST exceeding its limit moves the link to FAILED. -/
def execLinkTrainTimeout (n : Fin 36) (s : State) : Host.Outcome State Fault Refusal :=
  s.onBlock fun b => b.live fun b => b.linkTrainTimeout n

/-- LINK_ALIGN_DONE (R229): Deskew and round trip done with LNK_PKGN assigned moves the link to DIGEST and sends its digest. -/
def execLinkAlignDone (n : Fin 36) (rtt : BitVec 32) (s : State) : Host.Outcome State Fault Refusal :=
  s.onBlock fun b => b.live fun b => b.linkAligned n rtt.toNat

/-- DIGEST_RECEIVE (R231): A DIGEST block is compared with the local one, putting the link into LINKUP or QUARANTINE. -/
def execDigestReceive (n : Fin 36) (block : BitVec 128) (s : State) : Host.Outcome State Fault Refusal :=
  s.onBlock fun b => b.live fun b => b.settling fun b => b.digestIn n block.toNat

/-- PKGN_WRITE (R233): Writing LNK_PKGN while no link is beyond ALIGN assigns the package number in all LNK pages. -/
def execPkgnWrite (n : Fin 36) (req : Requester) (sysid : Bool) (v : BitVec 32) (s : State) :
    Host.Outcome State Fault Refusal :=
  s.onBlock fun b =>
    b.live fun b => b.settling fun b =>
      let o := if sysid then 0x064 else 0x060
      b.guard (.lnk n) req o (b.rwChanges (.lnk n) o v.toNat) fun b => b.pkgnWrite n sysid v.toNat

/-- FLIT_RECEIVE (R235): A flit is checked and accepted in SEQ order, carrying acknowledgement and credits, or causes a NAK. -/
def execFlitReceive (n : Fin 36) (bytes : List Byte) (badCodeword : Bool) (s : State) : Host.Outcome State Fault Refusal :=
  s.onBlock fun b => b.live fun b => b.settling fun b => b.flitIn n (bytes.map (·.toNat)) badCodeword

/-- NAK_RECEIVE (R242): A NAK makes the sender replay from the SEQ if covered, or send SKIP and DROP notices otherwise. -/
def execNakReceive (n : Fin 36) (block : BitVec 128) (s : State) : Host.Outcome State Fault Refusal :=
  s.onBlock fun b => b.live fun b => b.settling fun b => b.ctlIn n 3 block.toNat fun b => b.nakIn n (block.toNat / 256 % 65536)

/-- SKIP_RECEIVE (R242): A SKIP makes the receiver discard partial packets and resume at the given SEQ. -/
def execSkipReceive (n : Fin 36) (block : BitVec 128) (s : State) : Host.Outcome State Fault Refusal :=
  s.onBlock fun b => b.live fun b => b.ctlIn n 4 block.toNat fun b => b.skipIn n (block.toNat / 2 ^ 24 % 65536)

/-- RETRY_EPISODE_TIMEOUT (R243): A retry episode exceeding its budget moves the link to SPARING. -/
def execRetryEpisodeTimeout (n : Fin 36) (lane : Option (Fin 16)) (s : State) : Host.Outcome State Fault Refusal :=
  s.onBlock fun b => b.live fun b => b.settling fun b => b.episodeTimeout n (lane.map (·.val))

/-- LANE_LOCK_LOST (R244): Lock lost on lanes starts sparing, or fails the link when more than two lanes of a direction are lost.
-/
def execLaneLockLost (n : Fin 36) (lanes : List (Fin 16)) (s : State) : Host.Outcome State Fault Refusal :=
  s.onBlock fun b => b.live fun b => b.settling fun b => b.lockLost n (lanes.map (·.val))

/-- LANE_PROACTIVE_SPARE (R244): A lane correcting more than 65,535 symbols in a 1,024-tick period is spared proactively. -/
def execLaneProactiveSpare (n : Fin 36) (lane : Fin 16) (s : State) : Host.Outcome State Fault Refusal :=
  s.onBlock fun b => b.live fun b => b.settling fun b => b.proactive n lane

/-- SPARE_RECEIVE (R244): A SPARE block arranges both sides to switch a logical lane to a spare at the given SEQ. -/
def execSpareReceive (n : Fin 36) (block : BitVec 128) (s : State) : Host.Outcome State Fault Refusal :=
  s.onBlock fun b => b.live fun b => b.spareIn n block.toNat

/-- LINK_DOWN_RECEIVE (R245): A received LINK_DOWN moves the link to FAILED. -/
def execLinkDownReceive (n : Fin 36) (block : BitVec 128) (s : State) : Host.Outcome State Fault Refusal :=
  s.onBlock fun b => b.live fun b => b.settling fun b => b.ctlIn n 9 block.toNat fun b => b.linkDownIn n

/-- LINK_RETRAIN (R228): Writing LNK_CTL.RETRAIN moves a failed link to DETECT. -/
def execLinkRetrain (n : Fin 36) (req : Requester) (s : State) : Host.Outcome State Fault Refusal :=
  s.onBlock fun b => b.live fun b => b.guardW req fun b => b.linkRetrain n

/-- LINK_RETRAIN_TIMER (R228): RETRAIN_S seconds in FAILED move the link to DETECT. -/
def execLinkRetrainTimer (n : Fin 36) (s : State) : Host.Outcome State Fault Refusal :=
  s.onBlock fun b => b.live fun b => b.linkRetrainTimer n

/-- ROUTE_ENTRY_WRITE (R249): Writing ROUTE_ENTRY updates the destination entry in every copy of the route table. -/
def execRouteEntryWrite (n : Fin 36) (req : Requester) (v : BitVec 32) (s : State) : Host.Outcome State Fault Refusal :=
  s.onBlock fun b => b.live fun b => b.guard (.route n) req 0x044 (b.rwChanges (.route n) 0x044 v.toNat) fun b => b.routeWrite n v.toNat

/-- PACKET_FORWARD (R250): A whole packet at a hop leaves on the first LINKUP candidate at a non-decreasing level, or is discarded
with a NOROUTE notice. -/
def execPacketForward (n : Fin 36) (pkt : Pkt) (s : State) : Host.Outcome State Fault Refusal :=
  s.onBlock fun b => b.live fun b => b.settling fun b => b.arrive n pkt

/-- ORDERED_ARRIVAL (R254): An ordered or management request at its target is performed, held early, answered as duplicate or
discarded stale. -/
def execOrderedArrival (n : Fin 36) (pkt : Pkt) (s : State) : Host.Outcome State Fault Refusal :=
  s.onBlock fun b => b.live fun b => b.settling fun b => b.arrive n pkt

/-- READ_ARRIVAL (R254): A READ arrival is performed and answered without ordering. -/
def execReadArrival (n : Fin 36) (pkt : Pkt) (s : State) : Host.Outcome State Fault Refusal :=
  s.onBlock fun b => b.live fun b => b.settling fun b => b.arrive n pkt

/-- RESPONSE_RECEIVE (R255): A response ends its outstanding transaction, late or unmatched responses being discarded. -/
def execResponseReceive (n : Fin 36) (pkt : Pkt) (s : State) : Host.Outcome State Fault Refusal :=
  s.onBlock fun b => b.live fun b => b.settling fun b => b.arrive n pkt

/-- DROP_RECEIVE (R255): A DROP notice causes immediate reissue of the lost transaction with G toggled. -/
def execDropReceive (n : Fin 36) (pkt : Pkt) (s : State) : Host.Outcome State Fault Refusal :=
  s.onBlock fun b => b.live fun b => b.settling fun b => b.arrive n pkt

/-- NOROUTE_RECEIVE (R250): A NOROUTE notice ends the transaction with REMOTE_FAIL without reissue. -/
def execNorouteReceive (n : Fin 36) (pkt : Pkt) (s : State) : Host.Outcome State Fault Refusal :=
  s.onBlock fun b => b.live fun b => b.settling fun b => b.arrive n pkt

/-- TRANSACTION_TIMEOUT (R255): A transaction without response at TIMEOUT is reissued, or after REISSUE_MAX ends with REMOTE_FAIL.
-/
def execTransactionTimeout (space : Fin 3) (target : BitVec 16) (tid : BitVec 16) (s : State) :
    Host.Outcome State Fault Refusal :=
  s.onBlock fun b => b.live fun b => b.settling fun b => b.xTimeout space target.toNat tid.toNat

end Sys2Proof.Machine
end

