-- ==== Sys2Proof/Machine/MatrixOpsCmds.lean ====
section
/-! DEFINITION. Matrix instructions and passes (spec/03 to spec/05). One meaning for each command. -/

namespace Sys2Proof.Machine

/-- MM_WS (R88): Weight-stationary forward matrix multiply C = A · B queued after issue checks. -/
def execMmWs (p : Fin 12) (i : Fin 153) (sl : Fin 2) (w : BitVec 64) (s : State) : Host.Outcome State Fault Refusal :=
  s.onBlock fun b =>
    b.live fun b => b.issue p i sl w.toNat 0x3 0x00 fun b => b.gated p i sl fun b => b.matrixIssue p i sl w.toNat .ws

/-- MM_WT (R88): Weight-stationary transposed multiply C = A · Bᵀ reading planes along the other axis. -/
def execMmWt (p : Fin 12) (i : Fin 153) (sl : Fin 2) (w : BitVec 64) (s : State) : Host.Outcome State Fault Refusal :=
  s.onBlock fun b =>
    b.live fun b => b.issue p i sl w.toNat 0x3 0x01 fun b => b.gated p i sl fun b => b.matrixIssue p i sl w.toNat .wt

/-- MM_OS (R88): Output-stationary multiply C = Aᵀ · B over the rows of A and B. -/
def execMmOs (p : Fin 12) (i : Fin 153) (sl : Fin 2) (w : BitVec 64) (s : State) : Host.Outcome State Fault Refusal :=
  s.onBlock fun b =>
    b.live fun b => b.issue p i sl w.toNat 0x3 0x02 fun b => b.gated p i sl fun b => b.matrixIssue p i sl w.toNat .os

/-- MM_PLD (R94): Loads and retains planes for B without computing. -/
def execMmPld (p : Fin 12) (i : Fin 153) (sl : Fin 2) (w : BitVec 64) (s : State) : Host.Outcome State Fault Refusal :=
  s.onBlock fun b =>
    b.live fun b => b.issue p i sl w.toNat 0x3 0x03 fun b => b.gated p i sl fun b => b.matrixIssue p i sl w.toNat .pld

/-- MM_PREL (R95): Releases the slot's retained planes. -/
def execMmPrel (p : Fin 12) (i : Fin 153) (sl : Fin 2) (w : BitVec 64) (s : State) : Host.Outcome State Fault Refusal :=
  s.onBlock fun b =>
    b.live fun b => b.issue p i sl w.toNat 0x3 0x04 fun b => b.gated p i sl fun b => b.matrixIssue p i sl w.toNat .prel

/-- MM_WAIT (R88): Waits until at most COUNT matrix instructions of the slot are outstanding. -/
def execMmWait (p : Fin 12) (i : Fin 153) (sl : Fin 2) (w : BitVec 64) (s : State) : Host.Outcome State Fault Refusal :=
  s.onBlock fun b => b.live fun b => b.issue p i sl w.toNat 0x3 0x05 fun b => b.gated p i sl fun b => b.mmWaitI p i sl w.toNat

/-- MM_BATCH (R98): Queues a weight-stationary multiply on the rows gathered by the batch assembler. -/
def execMmBatch (p : Fin 12) (i : Fin 153) (sl : Fin 2) (w : BitVec 64) (s : State) : Host.Outcome State Fault Refusal :=
  s.onBlock fun b =>
    b.live fun b => b.issue p i sl w.toNat 0x3 0x06 fun b => b.gated p i sl fun b => b.matrixIssue p i sl w.toNat .batch

/-- MM_TDLD (R88): Loads a tile descriptor from core memory. -/
def execMmTdld (p : Fin 12) (i : Fin 153) (sl : Fin 2) (w : BitVec 64) (s : State) : Host.Outcome State Fault Refusal :=
  s.onBlock fun b => b.live fun b => b.issue p i sl w.toNat 0x3 0x07 fun b => b.gated p i sl fun b => b.tdLoad p i sl w.toNat

/-- MM_TDST (R88): Stores a tile descriptor to core memory. -/
def execMmTdst (p : Fin 12) (i : Fin 153) (sl : Fin 2) (w : BitVec 64) (s : State) : Host.Outcome State Fault Refusal :=
  s.onBlock fun b => b.live fun b => b.issue p i sl w.toNat 0x3 0x08 fun b => b.gated p i sl fun b => b.tdStore p i sl w.toNat

/-- MATRIX_PASS_START (R93): The array starts the next pass of a queued matrix instruction when it is free and queue precedence
allows. -/
def execMatrixPassStart (p : Fin 12) (i : Fin 153) (sl : Fin 2) (s : State) : Host.Outcome State Fault Refusal :=
  s.onBlock fun b => b.live fun b => b.passStart p i sl

/-- MATRIX_ATTEMPT_END (R142): An attempt of a pass ends and either repeats the pass at a higher rung or lets the drain write the
block. -/
def execMatrixAttemptEnd (p : Fin 12) (i : Fin 153) (sl : Fin 2) (s : State) : Host.Outcome State Fault Refusal :=
  s.onBlock fun b => b.live fun b => b.attemptEndCmd p i sl

/-- MATRIX_COMPLETE (R90): A matrix instruction's last result word is written, its flags merge and its queue entry frees. -/
def execMatrixComplete (p : Fin 12) (i : Fin 153) (sl : Fin 2) (s : State) : Host.Outcome State Fault Refusal :=
  s.onBlock fun b => b.live fun b => b.matrixDone p i sl

/-- BATCH_LAUNCH (R98): MM.BATCH launches when all 48 slots are valid, taking and clearing the valid mask. -/
def execBatchLaunch (p : Fin 12) (i : Fin 153) (s : State) : Host.Outcome State Fault Refusal :=
  s.onBlock fun b => b.live fun b => b.batchLaunch p i

/-- BATCH_DEADLINE (R98): At the tick beginning frame f + DEADLINE a partial batch launches, or completes empty if nothing was
posted. -/
def execBatchDeadline (p : Fin 12) (i : Fin 153) (s : State) : Host.Outcome State Fault Refusal :=
  s.onBlock fun b => b.live fun b => b.batchDeadline p i

end Sys2Proof.Machine
end

