-- ==== Sys2Proof/Machine/MemoryCmds.lean ====
section
/-! DEFINITION. Memory tiers and translation (spec/06). One meaning for each command. -/

namespace Sys2Proof.Machine

/-- MSC_ACCESS (R153): An access arrives at its home memory-side cache and is served under its hint with fill, keep and
replacement rules. -/
def execMscAccess (p : Fin 12) (loc : BitVec 36) (len : BitVec 12) (write : Bool) (hint : BitVec 2) (data : List Byte) (pois : Bool) (ev : MemEvent) (s : State) :
    Host.Outcome State Fault Refusal :=
  s.onBlock fun b => b.live fun b => b.mscAccess p loc.toNat len.toNat write (hintOf hint.toNat) (data.map (·.toNat)) pois ev

/-- CAPACITY_ACCESS (R163): A capacity controller reads or writes a line with its check block, merging partial writes. -/
def execCapacityAccess (d : Fin 16) (addr : BitVec 36) (len : BitVec 8) (write : Bool) (data : List Byte) (pois : Bool) (ev : MemEvent) (s : State) :
    Host.Outcome State Fault Refusal :=
  s.onBlock fun b => b.live fun b => b.capAccess d addr.toNat len.toNat write (data.map (·.toNat)) pois ev

/-- KEEP_RELEASE (R154): Writing MSC_CTL.KEEP_RELEASE clears every keep mark in the cache. -/
def execKeepRelease (p : Fin 12) (req : Requester) (s : State) : Host.Outcome State Fault Refusal :=
  s.onBlock fun b => b.live fun b => b.guardW req fun b => b.keepRelease p

/-- MSC_FLUSH (R156): Writing MSC_CTL.FLUSH starts writing back every dirty line. -/
def execMscFlush (p : Fin 12) (req : Requester) (s : State) : Host.Outcome State Fault Refusal :=
  s.onBlock fun b => b.live fun b => b.guardW req fun b => b.mscFlush p

/-- FLUSH_DONE (R156): The last write-back of a flush completes, FLUSH reads 0 and FLUSH_DONE is raised. -/
def execFlushDone (p : Fin 12) (s : State) : Host.Outcome State Fault Refusal :=
  s.onBlock fun b => b.live fun b => b.flushDone p

/-- SCRUB_PASS (R169): Each memory controller scrubs its memory every SCRUB_HOURS, correcting units and marking uncorrectables
with poison. -/
def execScrubPass (cap : Bool) (n : Fin 16) (evs : List (BitVec 36 × MemEvent)) (s : State) :
    Host.Outcome State Fault Refusal :=
  s.onBlock fun b => b.live fun b => b.scrubPass cap n (evs.map fun e => (e.1.toNat, e.2))

/-- IMAP_NEXT_WRITE (R161): Writing HBMC_IMAP.NEXT sets the interleave mode for the next package reset in all twelve pages and
schedules an Almanac write. -/
def execImapNextWrite (p : Fin 12) (req : Requester) (v : BitVec 2) (s : State) : Host.Outcome State Fault Refusal :=
  s.onBlock fun b => b.live fun b => b.guard (.hbmc p) req 0x040 (b.imapTaken v.toNat ≠ b.tiers.imapNext) fun b => b.imapNext p v.toNat

/-- TRANSLATION_WALK (R173): A transfer or fetch reaching an untranslated page walks the slot's page tables. -/
def execTranslationWalk (p : Fin 12) (slot : Fin 2) (eng : Option (Fin 36)) (va : BitVec 64) (k : WalkPick) (s : State) :
    Host.Outcome State Fault Refusal :=
  s.onBlock fun b => b.live fun b => (b.tagLost p k.tag).walkCmd p slot (eng.map (·.val)) va.toNat k.write k.ev

/-- MMU_RESUME (R179): An MMU_RESP action RESUME for a pending record retranslates and continues the parked channel. -/
def execMmuResume (p : Fin 12) (req : Requester) (s : State) : Host.Outcome State Fault Refusal :=
  s.onBlock fun b => b.live fun b => b.guardW req fun b => b.settling fun b => b.mmuRespond p (b.reg (.mmu p) 0x06C) 1

/-- MMU_FAIL (R179): An MMU_RESP action FAIL ends the faulted transfer with TRANSLATION_FAIL and a job fault. -/
def execMmuFail (p : Fin 12) (req : Requester) (s : State) : Host.Outcome State Fault Refusal :=
  s.onBlock fun b => b.live fun b => b.guardW req fun b => b.settling fun b => b.mmuRespond p (b.reg (.mmu p) 0x06C) 2

/-- MMU_FAULT_TIMEOUT (R179): A fault record unanswered for MMU_FAULT_TO ticks is treated as FAIL and raises FAULT_TIMEOUT. -/
def execMmuFaultTimeout (p : Fin 12) (id : BitVec 32) (s : State) : Host.Outcome State Fault Refusal :=
  s.onBlock fun b => b.live fun b => b.mmuTimeout p id.toNat

/-- FAULT_QUEUE_CONSUME (R179): Writing MMU_FQ_CONS frees queue slots so a channel waiting on a full queue writes its record. -/
def execFaultQueueConsume (p : Fin 12) (req : Requester) (v : BitVec 8) (s : State) : Host.Outcome State Fault Refusal :=
  s.onBlock fun b =>
    b.live fun b => b.guard (.mmu p) req 0x068 (v.toNat ≠ b.fld (.mmu p) 0x068 0 8) fun b => b.fqConsume p v.toNat

/-- MMU_INVALIDATE (R176): Writing MMU_INV.GO starts invalidation of cached translations in the scope given. -/
def execMmuInvalidate (p : Fin 12) (req : Requester) (s : State) : Host.Outcome State Fault Refusal :=
  s.onBlock fun b => b.live fun b => b.guardW req fun b => b.mmuInvalidate p

/-- MMU_INV_DONE (R176): Invalidation completes with no access using old translations outstanding; GO reads 0 and INV_DONE is
raised. -/
def execMmuInvDone (p : Fin 12) (s : State) : Host.Outcome State Fault Refusal :=
  s.onBlock fun b => b.live fun b => b.mmuInvDone p

end Sys2Proof.Machine
end

