-- ==== Sys2Proof/Machine/MeridianCmds.lean ====
section
/-! DEFINITION. Meridian: ticks, frames, election (spec/02). One meaning for each command. -/

namespace Sys2Proof.Machine

/-- TICK (R47): The local tick occurs: the sidereal count increments, frames begin, tick symbols are sent on every LINKUP link and
the phase error to the upstream is measured and slewed. -/
def execTick (arrive : Int) (s : State) : Host.Outcome State Fault Refusal :=
  s.onBlock fun b => b.awake fun b => b.settling fun b => b.tick arrive

/-- FRAME_SLIP (R65): A partition falls more than OVR_LIMIT frames behind, raising FRAME_SLIP and a job fault. -/
def execFrameSlip (p : Fin 12) (s : State) : Host.Outcome State Fault Refusal :=
  s.onBlock fun b => b.awake fun b => b.frameSlip p

/-- LOCK_ACHIEVED (R52): Eight consecutive ticks with phase error within 25 ns move a LOCKING or OUT_OF_STEP package to LOCKED. -/
def execLockAchieved (s : State) : Host.Outcome State Fault Refusal :=
  s.onBlock fun b => b.awake fun b => b.lockAchieved

/-- TICK_SYMBOL_RECEIVE (R49): A tick symbol received on a link is used for upstream selection, steering, count adoption and state
changes. -/
def execTickSymbolReceive (n : Fin 36) (block : BitVec 128) (s : State) : Host.Outcome State Fault Refusal :=
  s.onBlock fun b => b.awake fun b => b.tickIn n block.toNat

/-- CLAIM_RECEIVE (R53): A claim symbol is compared with the best seen, forwarded if better, and causes a weaker claimant to
withdraw into LOCKING. -/
def execClaimReceive (n : Fin 36) (block : BitVec 128) (s : State) : Host.Outcome State Fault Refusal :=
  s.onBlock fun b => b.awake fun b => b.claimIn n block.toNat

/-- MASTER_ID_RECEIVE (R57): A MASTER_ID symbol is compared against the own master and either confirms the link or makes the
package change side and raise TIME_MERGE. -/
def execMasterIdReceive (n : Fin 36) (block : BitVec 128) (s : State) : Host.Outcome State Fault Refusal :=
  s.onBlock fun b => b.awake fun b => b.ctlIn n 10 block.toNat fun b => b.masterIdIn n block.toNat

/-- MASTER_TIMEOUT (R52): No tick symbol for MASTER_TO ticks in LISTEN starts a claim by a package with nonzero PRIO. -/
def execMasterTimeout (s : State) : Host.Outcome State Fault Refusal :=
  s.onBlock fun b => b.awake fun b => b.masterTimeout

/-- CLAIM_WON (R54): No better claim within the convergence bound makes the claimant MASTER with an incremented epoch. -/
def execClaimWon (s : State) : Host.Outcome State Fault Refusal :=
  s.onBlock fun b => b.awake fun b => b.claimWon

/-- HOLDOVER_ENTRY (R52): No tick symbol on any link for 2 ticks moves the package to HOLDOVER. -/
def execHoldoverEntry (s : State) : Host.Outcome State Fault Refusal :=
  s.onBlock fun b => b.awake fun b => b.holdoverEntry

/-- HOLDOVER_CLAIM (R52): HOLDOVER lasting MASTER_TO ticks starts a claim with frames still running. -/
def execHoldoverClaim (s : State) : Host.Outcome State Fault Refusal :=
  s.onBlock fun b => b.awake fun b => b.holdoverClaim

/-- MASTER_RESIGN (R52): Writing MERID_CTL.PRIO as 0 at the master returns it to LISTEN and stops its ticks. -/
def execMasterResign (req : Requester) (s : State) : Host.Outcome State Fault Refusal :=
  s.onBlock fun b => b.awake fun b => b.writeWord (Page.merid.addr 0x040) (setBits (b.regNow .merid 0x040) 0 8 0) req

/-- MASTER_ID_BROADCAST (R58): At each tick whose count is a multiple of 1,024 the package sends MASTER_ID on every LINKUP link.
-/
def execMasterIdBroadcast (s : State) : Host.Outcome State Fault Refusal :=
  s.onBlock fun b => b.awake fun b => b.masterIdBroadcast

/-- TICK_REF_EDGE (R60): A TICK_REF rising edge at the master is accepted to discipline the tick or rejected and counted if too
early. -/
def execTickRefEdge (dt : Nat) (high : Nat) (residual : Nat) (s : State) : Host.Outcome State Fault Refusal :=
  s.onBlock fun b => b.awake fun b => b.refEdge dt high residual

/-- REF_HOLDOVER (R60): No accepted TICK_REF edge for two programmed periods puts the master's reference in HOLDOVER. -/
def execRefHoldover (s : State) : Host.Outcome State Fault Refusal :=
  s.onBlock fun b => b.awake fun b => b.refHoldover

/-- HOLDOVER_EXPIRED (R60): Reference holdover lasting 10 minutes raises HOLDOVER_EXPIRED. -/
def execHoldoverExpired (s : State) : Host.Outcome State Fault Refusal :=
  s.onBlock fun b => b.awake fun b => b.refExpire

/-- PERIOD_SWITCH_ARM (R62): Writing MERID_SWITCH_HI with ARM = 1 arms a tick-period change at SWITCH_AT, clamped to at least
current count plus 8. -/
def execPeriodSwitchArm (req : Requester) (v : BitVec 32) (s : State) : Host.Outcome State Fault Refusal :=
  s.onBlock fun b => b.awake fun b => b.guard .merid req 0x04C (b.rwChanges .merid 0x04C v.toNat) fun b => b.switchArm v.toNat

/-- PERIOD_SWITCH (R62): At the armed count the new period takes effect, ARM clears and every link re-exchanges its digest. -/
def execPeriodSwitch (s : State) : Host.Outcome State Fault Refusal :=
  s.onBlock fun b => b.awake fun b => b.periodSwitch

/-- RTT_REMEASURE (R50): Every 1,024 ticks each up link remeasures its round trip to update its tick compensation. -/
def execRttRemeasure (s : State) : Host.Outcome State Fault Refusal :=
  s.onBlock fun b => b.awake fun b => b.rttRemeasure

/-- RTT_PROBE_RECEIVE (R236): A received RTT_PROBE is answered with an RTT_ECHO carrying the value received. -/
def execRttProbeReceive (n : Fin 36) (block : BitVec 128) (s : State) : Host.Outcome State Fault Refusal :=
  s.onBlock fun b => b.awake fun b => b.ctlIn n 7 block.toNat fun b => b.rttProbeIn n block.toNat

/-- RTT_ECHO_RECEIVE (R50): A received RTT_ECHO completes a round-trip measurement and sets the link compensation. -/
def execRttEchoReceive (n : Fin 36) (block : BitVec 128) (rtt : BitVec 32) (s : State) : Host.Outcome State Fault Refusal :=
  s.onBlock fun b => b.awake fun b => b.ctlIn n 8 block.toNat fun b => b.rttEchoIn n rtt.toNat

end Sys2Proof.Machine
end

