-- ==== Sys2Proof/Machine/PlacementCmds.lean ====
section
/-! DEFINITION. Ephemeris (spec/12). One meaning for each command. -/

namespace Sys2Proof.Machine

/-- ADMIT_JOB (R324): Ephemeris computes a job's tier demand, spills in fixed order, and writes the admission report. -/
def execAdmitJob (j : JobImage) (s : State) : Host.Outcome State Fault Refusal :=
  s.onBlock fun b => b.live fun b => b.admitJob j

/-- JOB_BIND (R327): Ephemeris binds an admitted job's partitions, maps, pages, ranks and routes before its first frame. -/
def execJobBind (job : BitVec 16) (backfill : Bool) (ps : List (Fin 12 × Fin 12)) (s : State) :
    Host.Outcome State Fault Refusal :=
  s.onBlock fun b => b.live fun b => b.jobBind job.toNat (b2n backfill) (ps.map fun e => (e.1.val, e.2.val))

/-- EPH_COMMIT (R320): Writing EPH_COMMIT.COMMIT requests that the shadow maps be applied at the next frame boundary. -/
def execEphCommit (p : Fin 12) (req : Requester) (s : State) : Host.Outcome State Fault Refusal :=
  s.onBlock fun b => b.live fun b => b.guardW req fun b => b.ephCommit p

/-- EPH_COMMIT_APPLY (R320): At the frame boundary the shadow maps are checked and applied or refused. -/
def execEphCommitApply (p : Fin 12) (s : State) : Host.Outcome State Fault Refusal :=
  s.onBlock fun b => b.live fun b => b.commitApply p

/-- REPAIR_REBIND (R331): After a core or cluster fault Ephemeris rebinds to a spare core, cluster, partition or package. -/
def execRepairRebind (p : Fin 12) (c : Fin 8) (k : Option (Fin 16)) (s : State) : Host.Outcome State Fault Refusal :=
  s.onBlock fun b => b.live fun b => b.repair p c (k.map (·.val))

/-- ROUTE_REWRITE (R330): After a link or package loss Ephemeris rewrites the affected route entries within 10 s. -/
def execRouteRewrite (es : List (Fin 49152 × BitVec 32)) (s : State) : Host.Outcome State Fault Refusal :=
  s.onBlock fun b => b.live fun b => b.routeRewrite (es.map fun e => (e.1.val, e.2.toNat))

/-- STAGE_REBALANCE (R332): At a step boundary after REBAL_STEPS imbalanced steps one movable layer moves to a neighbouring stage.
-/
def execStageRebalance (job : BitVec 16) (permitted : Bool) (times : List Nat) (layers : List (Nat × BitVec 48)) (layout : JobImage) (s : State) :
    Host.Outcome State Fault Refusal :=
  s.onBlock fun b => b.live fun b => b.rebalance job.toNat permitted times (layers.map fun e => (e.1, e.2.toNat)) layout

end Sys2Proof.Machine
end

