-- ==== Sys2Proof/Machine/PowerPinsCmds.lean ====
section
/-! DEFINITION. Supply and reference loss (spec/17). One meaning for each command. -/

namespace Sys2Proof.Machine

/-- VSTBY_LOSS (R446): VSTBY below 3.0 V turns off every VIN_MAIN regulator within 10 µs with no park record. -/
def execVstbyLoss (s : State) : Host.Outcome State Fault Refusal :=
  s.onBlock fun b => b.powered fun b => b.vstbyLoss

/-- VIN_OVERVOLTAGE (R447): VIN_MAIN above 13.5 V at two samples turns off every regulator without park and drives ALERT_N low. -/
def execVinOvervoltage (s : State) : Host.Outcome State Fault Refusal :=
  s.onBlock fun b => b.awake fun b => b.overVoltage.parkOver

/-- LINKREF_LOSS (R454): LINKREF_156 absent for 1 µs switches the always-on domain to the internal oscillator and parks as for
input loss. -/
def execLinkrefLoss (v0 : BitVec 16) (s : State) : Host.Outcome State Fault Refusal :=
  s.onBlock fun b => b.awake fun b => b.linkrefLoss v0.toNat

end Sys2Proof.Machine
end

