-- ==== Sys2Proof/Machine/RecoveryCmds.lean ====
section
/-! DEFINITION. Faults, resets, pre-emption and recovery (spec/14). One meaning for each command. -/

namespace Sys2Proof.Machine

/-- PATROL_VISIT (R373): The patrol core of a cluster begins a visit running the patrol suite in its backfill context. -/
def execPatrolVisit (p : Fin 12) (c : Fin 9) (s : State) : Host.Outcome State Fault Refusal :=
  s.onBlock fun b => b.live fun b => b.patrolVisit p c

/-- PATROL_VISIT_END (R374): A visit's CRC is compared with the known answer, a mismatch marking the core failed and raising
PATROL_FAIL. -/
def execPatrolVisitEnd (p : Fin 12) (c : Fin 9) (bad : Option (Fin 16)) (s : State) : Host.Outcome State Fault Refusal :=
  s.onBlock fun b => b.live fun b => b.patrolEnd p c (bad.map (·.val))

/-- FLAT_FIELD_TEST (R375): Writing PART_FFT.GO runs the flat-field test on a partition with no job bound, or reports REFUSED. -/
def execFlatFieldTest (p : Fin 12) (req : Requester) (s : State) : Host.Outcome State Fault Refusal :=
  s.onBlock fun b => b.live fun b => b.guardW req fun b => b.fftStart p

/-- FLAT_FIELD_END (R375): The flat-field test ends with PASSED or FAILED, raising FFT_DONE. -/
def execFlatFieldEnd (p : Fin 12) (bad : Option ((Option (Fin 153) ⊕ HubTest) × BitVec 4 × BitVec 4)) (s : State) :
    Host.Outcome State Fault Refusal :=
  s.onBlock fun b => b.live fun b => b.fftEnd p (bad.map fun e => (e.1.map (·.map (·.val)) id, e.2.1.toNat, e.2.2.toNat))

/-- POISON_CONTAIN (R377): At the tick after the first observation the package halts issue and DMA, stops the update engine,
journals and warm-resets. -/
def execPoisonContain (s : State) : Host.Outcome State Fault Refusal :=
  s.onBlock fun b => b.live fun b => b.poisonContain

/-- PART_ABORT (R369): Writing PART_CTL.ABORT stops the partition's primary job at the next frame boundary. -/
def execPartAbort (p : Fin 12) (req : Requester) (s : State) : Host.Outcome State Fault Refusal :=
  s.onBlock fun b => b.live fun b => b.guardW req fun b => b.partAbort p

/-- PART_PREEMPT (R385): Writing PART_CTL.PREEMPT requests pre-emption at the next frame boundary or deferral end. -/
def execPartPreempt (p : Fin 12) (req : Requester) (s : State) : Host.Outcome State Fault Refusal :=
  s.onBlock fun b => b.live fun b => b.guardW req fun b => b.partPreempt p

/-- PREEMPT_BEGIN (R204): At the frame boundary issue stops, channels stop, transactions settle and the image is saved. -/
def execPreemptBegin (p : Fin 12) (s : State) : Host.Outcome State Fault Refusal :=
  s.onBlock fun b => b.live fun b => b.settling fun b => b.preemptBegin p

/-- PREEMPT_DONE (R385): The pre-emption image is written, PREEMPT reads 0 and PREEMPT_DONE is raised. -/
def execPreemptDone (p : Fin 12) (late : Bool) (s : State) : Host.Outcome State Fault Refusal :=
  s.onBlock fun b => b.live fun b => b.preemptDone p late

/-- PART_RESTORE (R385): Writing PART_CTL.RESTORE restores the image at MMU_SAVE. -/
def execPartRestore (p : Fin 12) (req : Requester) (s : State) : Host.Outcome State Fault Refusal :=
  s.onBlock fun b => b.live fun b => b.guardW req fun b => b.partRestore p

/-- RESTORE_DONE (R385): The restore completes and RESTORE_DONE is raised. -/
def execRestoreDone (p : Fin 12) (s : State) : Host.Outcome State Fault Refusal :=
  s.onBlock fun b => b.live fun b => b.settling fun b => b.restoreDone p

/-- CORE_RESET (R382): PART_RESET with LEVEL core resets one physical core's slots, state and memory. -/
def execCoreReset (p : Fin 12) (i : Fin 153) (req : Requester) (s : State) : Host.Outcome State Fault Refusal :=
  s.onBlock fun b =>
    b.live fun b => b.guardW req fun b => b.settling fun b => b.blockWrite (.part p) 0x044 (resetWord 0 i) req

/-- CLUSTER_RESET (R382): PART_RESET with LEVEL cluster resets a physical cluster's cores, memory and engines. -/
def execClusterReset (p : Fin 12) (c : Fin 9) (req : Requester) (s : State) : Host.Outcome State Fault Refusal :=
  s.onBlock fun b =>
    b.live fun b => b.guardW req fun b => b.settling fun b => b.blockWrite (.part p) 0x044 (resetWord 1 c) req

/-- PARTITION_RESET (R383): PART_RESET with LEVEL partition resets the partition's compute and ends with a quick check. -/
def execPartitionReset (p : Fin 12) (req : Requester) (s : State) : Host.Outcome State Fault Refusal :=
  s.onBlock fun b =>
    b.live fun b => b.guardW req fun b => b.settling fun b => b.blockWrite (.part p) 0x044 (resetWord 2 0) req

/-- RESET_COMPLETE (R382): A requested reset finishes, GO reads 0 and RESET_DONE is raised. -/
def execResetComplete (p : Fin 12) (bad : List (Fin 153)) (s : State) : Host.Outcome State Fault Refusal :=
  s.onBlock fun b => b.live fun b => b.resetDone p (bad.map (·.val))

/-- PACKAGE_WARM_RESET (R384): A package warm reset runs the warm boot path, keeping memory contents in self-refresh. -/
def execPackageWarmReset (s : State) : Host.Outcome State Fault Refusal :=
  s.onBlock fun b => b.live fun b => b.warmReset

/-- PKG_RST_ASSERT (R449): PKG_RST_N recognised asserted turns regulators off without park and holds the package in reset. -/
def execPkgRstAssert (s : State) : Host.Outcome State Fault Refusal :=
  s.onBlock fun b => b.rstAssert

/-- PKG_RST_RELEASE (R398): PKG_RST_N recognised released starts a cold boot on the full or fast path. -/
def execPkgRstRelease (x : Release) (s : State) : Host.Outcome State Fault Refusal :=
  s.onBlock fun b => b.rstRelease x.tj.toNat x.clock

/-- CLASS_B_RECOVERY (R387): The planner declares a loss and runs the recovery phases to resume the job on a replacement. -/
def execClassBRecovery (job : BitVec 16) (plan : RecoveryPlan) (s : State) : Host.Outcome State Fault Refusal :=
  s.onBlock fun b => b.live fun b => b.classB job.toNat plan

/-- REMIRROR_REGION (R389): In a copy window the survivor copies a region to the replacement and sets its commit bit when
acknowledged. -/
def execRemirrorRegion (r : Fin 12) (n : BitVec 32) (master : BitVec 48) (mom1 : BitVec 48) (mom2 : BitVec 48) (work : BitVec 48) (s : State) :
    Host.Outcome State Fault Refusal :=
  s.onBlock fun b => b.live fun b => b.settling fun b => b.remirror r n.toNat master.toNat mom1.toNat mom2.toNat work.toNat

end Sys2Proof.Machine
end

