-- ==== Sys2Proof/Machine/RegistersCmds.lean ====
section
/-! DEFINITION. Register commands (spec/01). One meaning for each command. -/

namespace Sys2Proof.Machine

/-- REGISTER_WRITE (R37): A management write to a register field with no row of its own, checked against width, lock and legal
range and silently clamped and counted where needed. -/
def execRegisterWrite (req : Requester) (off : BitVec 32) (size : BitVec 4) (v : BitVec 64) (pois : Bool) (s : State) :
    Host.Outcome State Fault Refusal :=
  s.onBlock fun b => b.awake fun b => b.settling fun b => b.mgmtWrite req off.toNat size.toNat v.toNat pois

/-- HDR_LOCK_SET (R35): Writing HDR_LOCK.LOCK as 1 makes the page's RW fields read-only to all but the recorded owner. -/
def execHdrLockSet (key : BitVec 20) (req : Requester) (s : State) : Host.Outcome State Fault Refusal :=
  s.onBlock fun b => b.awake fun b => b.guardW req fun b => b.pageDo key.toNat fun pg => b.lockSet pg req

/-- IRQ_CAUSE_CLEAR (R36): Writing 1 to a bit of HDR_IRQ_STAT clears that cause and frees any fault record held under it. -/
def execIrqCauseClear (key : BitVec 20) (req : Requester) (v : BitVec 32) (s : State) : Host.Outcome State Fault Refusal :=
  s.onBlock fun b => b.awake fun b => b.guardW req fun b => b.pageDo key.toNat fun pg => b.irqClear pg v.toNat

/-- CLAMP_CNT_CLEAR (R39): Writing zero to HDR_CLAMP_CNT clears it; a nonzero write is ignored. -/
def execClampCntClear (key : BitVec 20) (req : Requester) (v : BitVec 16) (s : State) : Host.Outcome State Fault Refusal :=
  s.onBlock fun b =>
    b.awake fun b => b.pageDo key.toNat fun pg => b.guard pg req 0x01C (v = 0 ∧ (b.hdr pg).clampCnt ≠ 0) fun b => b.clampClear pg v.toNat

/-- LOGBOOK_CLEAR (R41): Writing zero to a Logbook counter clears it, with a same-cycle event counted after the clear. -/
def execLogbookClear (key : BitVec 20) (req : Requester) (m : Fin 128) (v : BitVec 32) (s : State) :
    Host.Outcome State Fault Refusal :=
  s.onBlock fun b => b.awake fun b => b.guardW req fun b => b.pageDo key.toNat fun pg => b.logWrite pg m v.toNat

/-- BLOCK_DISABLE (R386): Writing HDR_CTL.ENABLE as 0 stops new work and drains accepted work with DRAINING set. -/
def execBlockDisable (key : BitVec 20) (req : Requester) (s : State) : Host.Outcome State Fault Refusal :=
  s.onBlock fun b =>
    b.awake fun b => b.settling fun b => b.pageDo key.toNat fun pg =>
      b.guard pg req 0x00C (b.enabled pg && !pg.enableRo) fun b => if b.enabled pg then b.disable pg else b

/-- BLOCK_ENABLE (R386): Writing HDR_CTL.ENABLE as 1 resumes acceptance of work and ends any drain at once. -/
def execBlockEnable (key : BitVec 20) (req : Requester) (s : State) : Host.Outcome State Fault Refusal :=
  s.onBlock fun b =>
    b.awake fun b => b.pageDo key.toNat fun pg =>
      b.guard pg req 0x00C (!b.enabled pg && !pg.enableRo) fun b => if b.enabled pg && !b.isDraining pg then b else b.enable pg

/-- LOGBOOK_SNAPSHOT (R43): At every tick whose count is a multiple of 1,024, a page with LOG_SNAP_EN writes its 576-byte snapshot
record to HDR_LOG_BASE. -/
def execLogbookSnapshot (key : BitVec 20) (unc : Bool) (s : State) : Host.Outcome State Fault Refusal :=
  s.onBlock fun b => b.awake fun b => b.pageDo key.toNat fun pg => b.snapshot pg unc

/-- REGISTER_READ_CLEAR (R7): A management read of an RC field returns its value and clears it in the same access; likewise a read
of MERID_COUNT_LO latches COUNT_HI. -/
def execRegisterReadClear (req : Requester) (off : BitVec 32) (size : ReadPick) (s : State) :
    Host.Outcome State Fault Refusal :=
  s.onBlock fun b => b.awake fun b => b.mgmtRead req off.toNat size.size.toNat size.ev

end Sys2Proof.Machine
end

