-- ==== Sys2Proof/Machine/ScalarCmds.lean ====
section
/-! DEFINITION. Scalar instructions (spec/03). One meaning for each command. -/

namespace Sys2Proof.Machine

/-- ALU (R75): Scalar ALU instruction in SR format performs the function selected on two S registers. -/
def execAlu (p : Fin 12) (i : Fin 153) (sl : Fin 2) (w : BitVec 64) (s : State) : Host.Outcome State Fault Refusal :=
  s.onBlock fun b => b.live fun b => b.issue p i sl w.toNat 0x0 0x00 fun b => b.alu p i sl w.toNat

/-- ALU_IMMEDIATE (R75): Scalar ALU instruction with a sign-extended immediate as second source. -/
def execAluImmediate (p : Fin 12) (i : Fin 153) (sl : Fin 2) (w : BitVec 64) (s : State) : Host.Outcome State Fault Refusal :=
  s.onBlock fun b => b.live fun b => b.issue p i sl w.toNat 0x0 0x01 fun b => b.aluImm p i sl w.toNat

/-- MULTIPLY (R75): Scalar multiply writing the low or high 64 bits of the product. -/
def execMultiply (p : Fin 12) (i : Fin 153) (sl : Fin 2) (w : BitVec 64) (s : State) : Host.Outcome State Fault Refusal :=
  s.onBlock fun b => b.live fun b => b.issue p i sl w.toNat 0x0 0x02 fun b => b.multiply p i sl w.toNat

/-- DIVIDE (R75): Scalar divide or remainder with defined results for division by zero and overflow. -/
def execDivide (p : Fin 12) (i : Fin 153) (sl : Fin 2) (w : BitVec 64) (s : State) : Host.Outcome State Fault Refusal :=
  s.onBlock fun b => b.live fun b => b.issue p i sl w.toNat 0x0 0x03 fun b => b.divide p i sl w.toNat

/-- LOAD_CONSTANT (R75): Loads a sign-extended 48-bit constant into an S or A register. -/
def execLoadConstant (p : Fin 12) (i : Fin 153) (sl : Fin 2) (w : BitVec 64) (s : State) : Host.Outcome State Fault Refusal :=
  s.onBlock fun b => b.live fun b => b.issue p i sl w.toNat 0x0 0x04 fun b => b.loadConst p i sl w.toNat

/-- LOAD (R71): SM-format scalar or vector load from core memory within the slot's window. -/
def execLoad (p : Fin 12) (i : Fin 153) (sl : Fin 2) (w : BitVec 64) (ev : SramEvent) (s : State) :
    Host.Outcome State Fault Refusal :=
  s.onBlock fun b => b.live fun b => b.issue p i sl w.toNat 0x0 0x05 fun b => b.load p i sl w.toNat ev

/-- STORE (R71): SM-format scalar or vector store to core memory, interlocked against outstanding matrix extents. -/
def execStore (p : Fin 12) (i : Fin 153) (sl : Fin 2) (w : BitVec 64) (s : State) : Host.Outcome State Fault Refusal :=
  s.onBlock fun b => b.live fun b => b.issue p i sl w.toNat 0x0 0x06 fun b => b.store p i sl w.toNat

/-- BRANCH (R75): Conditional branch by a signed displacement on the condition of the BR format. -/
def execBranch (p : Fin 12) (i : Fin 153) (sl : Fin 2) (w : BitVec 64) (s : State) : Host.Outcome State Fault Refusal :=
  s.onBlock fun b => b.live fun b => b.issue p i sl w.toNat 0x1 0x00 fun b => b.branch p i sl w.toNat

/-- BRANCH_AND_LINK (R75): Unconditional branch that writes the next instruction's address to an S register. -/
def execBranchAndLink (p : Fin 12) (i : Fin 153) (sl : Fin 2) (w : BitVec 64) (s : State) : Host.Outcome State Fault Refusal :=
  s.onBlock fun b => b.live fun b => b.issue p i sl w.toNat 0x1 0x01 fun b => b.branchLink p i sl w.toNat

/-- JUMP (R75): Jump to the address held in an S register. -/
def execJump (p : Fin 12) (i : Fin 153) (sl : Fin 2) (w : BitVec 64) (s : State) : Host.Outcome State Fault Refusal :=
  s.onBlock fun b => b.live fun b => b.issue p i sl w.toNat 0x1 0x02 fun b => b.jump p i sl w.toNat

end Sys2Proof.Machine
end

