-- ==== Sys2Proof/Machine/SyncCmds.lean ====
section
/-! DEFINITION. Synchronisation (spec/08). One meaning for each command. -/

namespace Sys2Proof.Machine

/-- FENCE (R212): Waits until older stores, sync updates and optionally matrix instructions and lists of the slot are performed.
-/
def execFence (p : Fin 12) (i : Fin 153) (sl : Fin 2) (w : BitVec 64) (s : State) : Host.Outcome State Fault Refusal :=
  s.onBlock fun b => b.live fun b => b.issue p i sl w.toNat 0x5 0x00 fun b => b.fence p i sl w.toNat

/-- CTR_ADD (R215): Adds AMOUNT to a local or remote sync counter, awaiting the home's verdict when local. -/
def execCtrAdd (p : Fin 12) (i : Fin 153) (sl : Fin 2) (w : BitVec 64) (s : State) : Host.Outcome State Fault Refusal :=
  s.onBlock fun b => b.live fun b => b.issue p i sl w.toNat 0x5 0x01 fun b => b.ctrAddSub p i sl w.toNat false

/-- CTR_SUB (R215): Subtracts AMOUNT from a local or remote sync counter. -/
def execCtrSub (p : Fin 12) (i : Fin 153) (sl : Fin 2) (w : BitVec 64) (s : State) : Host.Outcome State Fault Refusal :=
  s.onBlock fun b => b.live fun b => b.issue p i sl w.toNat 0x5 0x02 fun b => b.ctrAddSub p i sl w.toNat true

/-- CTR_WAIT (R216): Waits until a local counter holds at least a value, consuming it when C = 1. -/
def execCtrWait (p : Fin 12) (i : Fin 153) (sl : Fin 2) (w : BitVec 64) (s : State) : Host.Outcome State Fault Refusal :=
  s.onBlock fun b => b.live fun b => b.issue p i sl w.toNat 0x5 0x03 fun b => b.ctrWait p i sl w.toNat

/-- CTR_READ (R220): Reads a local counter into an S register. -/
def execCtrRead (p : Fin 12) (i : Fin 153) (sl : Fin 2) (w : BitVec 64) (s : State) : Host.Outcome State Fault Refusal :=
  s.onBlock fun b => b.live fun b => b.issue p i sl w.toNat 0x5 0x04 fun b => b.ctrRead p i sl w.toNat

/-- CTR_SET (R214): Sets a local counter from an S register. -/
def execCtrSet (p : Fin 12) (i : Fin 153) (sl : Fin 2) (w : BitVec 64) (s : State) : Host.Outcome State Fault Refusal :=
  s.onBlock fun b => b.live fun b => b.issue p i sl w.toNat 0x5 0x05 fun b => b.ctrSet p i sl w.toNat

/-- BAR_INIT (R217): Arms a local barrier with COUNT participants and TIMEOUT. -/
def execBarInit (p : Fin 12) (i : Fin 153) (sl : Fin 2) (w : BitVec 64) (s : State) : Host.Outcome State Fault Refusal :=
  s.onBlock fun b => b.live fun b => b.issue p i sl w.toNat 0x5 0x06 fun b => b.barInit p i sl w.toNat

/-- BAR_ARRIVE (R217): Arrives at a local or remote barrier. -/
def execBarArrive (p : Fin 12) (i : Fin 153) (sl : Fin 2) (w : BitVec 64) (s : State) : Host.Outcome State Fault Refusal :=
  s.onBlock fun b => b.live fun b => b.issue p i sl w.toNat 0x5 0x07 fun b => b.barArriveI p i sl w.toNat

/-- BAR_WAIT (R217): Waits for a local barrier's generation to differ from a held value. -/
def execBarWait (p : Fin 12) (i : Fin 153) (sl : Fin 2) (w : BitVec 64) (s : State) : Host.Outcome State Fault Refusal :=
  s.onBlock fun b => b.live fun b => b.issue p i sl w.toNat 0x5 0x08 fun b => b.barWaitI p i sl w.toNat

/-- BAR_SYNC (R217): Arrives at a local barrier and waits on the generation returned. -/
def execBarSync (p : Fin 12) (i : Fin 153) (sl : Fin 2) (w : BitVec 64) (s : State) : Host.Outcome State Fault Refusal :=
  s.onBlock fun b => b.live fun b => b.issue p i sl w.toNat 0x5 0x09 fun b => b.barSyncI p i sl w.toNat

/-- AMO (R219): Issues a memory atomic on a translated virtual address. -/
def execAmo (p : Fin 12) (i : Fin 153) (sl : Fin 2) (w : BitVec 64) (s : State) : Host.Outcome State Fault Refusal :=
  s.onBlock fun b => b.live fun b => b.issue p i sl w.toNat 0x5 0x0A fun b => b.amo p i sl w.toNat

/-- AMO_PERFORM (R219): An atomic is performed indivisibly at its location's home and its old value returned. -/
def execAmoPerform (p : Fin 12) (i : Fin 153) (sl : Fin 2) (x : AmoPick) (s : State) : Host.Outcome State Fault Refusal :=
  s.onBlock fun b => b.live fun b => b.amoPerform p i sl x.k x.ev

/-- COUNTER_UPDATE (R214): An update reaches a counter's home, is applied in order or refused on underflow or overflow, and
waiters are examined. -/
def execCounterUpdate (p : Fin 12) (which : List Nat) (s : State) : Host.Outcome State Fault Refusal :=
  s.onBlock fun b => b.live fun b => b.counterUpdate p which

/-- BARRIER_ARRIVAL (R217): An arrival reaches a barrier's home and completes the generation at COUNT, signalling REL_CTR if
enabled. -/
def execBarrierArrival (p : Fin 12) (which : List Nat) (s : State) : Host.Outcome State Fault Refusal :=
  s.onBlock fun b => b.live fun b => b.barrierArrival p which

/-- BARRIER_ARM_WRITE (R217): A management write of a nonzero SYNC_BAR COUNT arms the barrier and zeroes its arrivals. -/
def execBarrierArmWrite (p : Fin 12) (req : Requester) (bar : Fin 256) (count : BitVec 16) (timeout : BitVec 16) (s : State) :
    Host.Outcome State Fault Refusal :=
  s.onBlock fun b =>
    b.live fun b =>
      b.guard (.sync p) req (0x100 + 12 * bar.val) (((b.syn p).bar bar).word0 ≠ timeout.toNat * 65536 + barCount count.toNat) fun b =>
        b.barWrite p bar count.toNat timeout.toNat

/-- BARRIER_TIMEOUT (R218): A generation incomplete after TIMEOUT ticks puts the barrier in TIMED_OUT, faulting its waiters. -/
def execBarrierTimeout (p : Fin 12) (bar : Fin 256) (s : State) : Host.Outcome State Fault Refusal :=
  s.onBlock fun b => b.live fun b => b.barTimeout p bar

/-- SYNC_SURVEY (R222): Writing SURVEY_CTL.GO, or an automatic trigger, captures the partition's sync objects in one instant. -/
def execSyncSurvey (p : Fin 12) (req : Requester) (s : State) : Host.Outcome State Fault Refusal :=
  s.onBlock fun b => b.live fun b => b.guardW req fun b => b.surveyStart p 0 0

/-- SURVEY_COMPLETE (R222): The survey record is written, GO clears and SURVEY_DONE or SURVEY_FAIL is raised. -/
def execSurveyComplete (p : Fin 12) (uncorrectable : Bool) (s : State) : Host.Outcome State Fault Refusal :=
  s.onBlock fun b => b.live fun b => b.surveyDone p uncorrectable

end Sys2Proof.Machine
end

