-- ==== Sys2Proof/Machine/SystemCmds.lean ====
section
/-! DEFINITION. System instructions, fetch misses, backfill switches (spec/03). One meaning for each command. -/

namespace Sys2Proof.Machine

/-- NOP (R75): System no-operation. -/
def execNop (p : Fin 12) (i : Fin 153) (sl : Fin 2) (w : BitVec 64) (s : State) : Host.Outcome State Fault Refusal :=
  s.onBlock fun b => b.live fun b => b.issue p i sl w.toNat 0x7 0x00 fun b => b.ret p i sl id

/-- RDSYS (R75): Reads the system value named by the selector into an S register. -/
def execRdsys (p : Fin 12) (i : Fin 153) (sl : Fin 2) (w : BitVec 64) (s : State) : Host.Outcome State Fault Refusal :=
  s.onBlock fun b => b.live fun b => b.issue p i sl w.toNat 0x7 0x01 fun b => b.rdsys p i sl w.toNat

/-- BPOST (R98): Marks a batch slot valid after all older stores of the slot are written. -/
def execBpost (p : Fin 12) (i : Fin 153) (sl : Fin 2) (w : BitVec 64) (s : State) : Host.Outcome State Fault Refusal :=
  s.onBlock fun b => b.live fun b => b.issue p i sl w.toNat 0x7 0x02 fun b => b.bpost p i sl w.toNat

/-- FLG_READ (R130): Reads the slot's flag word after older matrix and vector instructions have merged their flags. -/
def execFlgRead (p : Fin 12) (i : Fin 153) (sl : Fin 2) (w : BitVec 64) (s : State) : Host.Outcome State Fault Refusal :=
  s.onBlock fun b => b.live fun b => b.issue p i sl w.toNat 0x7 0x10 fun b => b.flgRead p i sl w.toNat

/-- FLG_CLEAR (R130): Reads the flag word and clears the bits named in the immediate. -/
def execFlgClear (p : Fin 12) (i : Fin 153) (sl : Fin 2) (w : BitVec 64) (s : State) : Host.Outcome State Fault Refusal :=
  s.onBlock fun b => b.live fun b => b.issue p i sl w.toNat 0x7 0x11 fun b => b.flgClear p i sl w.toNat

/-- ACTL_SET (R130): Sets the arithmetic control word, faulting on any reserved code. -/
def execActlSet (p : Fin 12) (i : Fin 153) (sl : Fin 2) (w : BitVec 64) (s : State) : Host.Outcome State Fault Refusal :=
  s.onBlock fun b => b.live fun b => b.issue p i sl w.toNat 0x7 0x12 fun b => b.actlSet p i sl w.toNat

/-- ACTL_READ (R130): Reads ACTL into an S register. -/
def execActlRead (p : Fin 12) (i : Fin 153) (sl : Fin 2) (w : BitVec 64) (s : State) : Host.Outcome State Fault Refusal :=
  s.onBlock fun b => b.live fun b => b.issue p i sl w.toNat 0x7 0x13 fun b => b.actlRead p i sl w.toNat

/-- FRAME_END (R76): Ends the slot's current frame; the partition's frame completes when every core has executed it. -/
def execFrameEnd (p : Fin 12) (i : Fin 153) (sl : Fin 2) (w : BitVec 64) (s : State) : Host.Outcome State Fault Refusal :=
  s.onBlock fun b => b.live fun b => b.issue p i sl w.toNat 0x5 0x3F fun b => b.frameEndI p i sl w.toNat

/-- INSTRUCTION_FETCH_MISS (R72): An instruction-cache miss reads the line through the MMU, raising FETCH on a translation fault
or uncorrectable data. -/
def execInstructionFetchMiss (p : Fin 12) (i : Fin 153) (sl : Fin 2) (parity : Bool) (ev : MemEvent) (s : State) :
    Host.Outcome State Fault Refusal :=
  s.onBlock fun b => b.live fun b => b.fetchMiss p i sl parity ev

/-- BACKFILL_SWITCH (R80): After SWITCH_AFTER consecutive primary stall cycles the core switches to the backfill slot in 240
cycles. -/
def execBackfillSwitch (p : Fin 12) (i : Fin 153) (s : State) : Host.Outcome State Fault Refusal :=
  s.onBlock fun b => b.live fun b => b.bfSwitch p i

/-- BACKFILL_SWITCH_BACK (R81): The primary's wait condition ending stops the backfill slot at its next instruction or pass
boundary and switches back. -/
def execBackfillSwitchBack (p : Fin 12) (i : Fin 153) (s : State) : Host.Outcome State Fault Refusal :=
  s.onBlock fun b => b.live fun b => b.bfBack p i

/-- SWITCH_COMPLETE (R80): A context switch finishes saving and restoring vector registers and the incoming slot resumes issue. -/
def execSwitchComplete (p : Fin 12) (i : Fin 153) (s : State) : Host.Outcome State Fault Refusal :=
  s.onBlock fun b => b.live fun b => b.switchDone p i

end Sys2Proof.Machine
end

