-- ==== Sys2Proof/Machine/TestPortCmds.lean ====
section
/-! DEFINITION. The test access port (spec/16). One meaning for each command. -/

namespace Sys2Proof.Machine

/-- BYPASS (R436): JTAG BYPASS instruction. -/
def execBypass (s : State) : Host.Outcome State Fault Refusal :=
  s.onBlock fun b => b.powered fun b => b.jtag 0 0

/-- IDCODE (R436): JTAG IDCODE instruction returning the part identity. -/
def execIdcode (s : State) : Host.Outcome State Fault Refusal :=
  s.onBlock fun b => b.powered fun b => b.jtag 1 1

/-- SAMPLE_PRELOAD (R436): JTAG SAMPLE/PRELOAD instruction. -/
def execSamplePreload (s : State) : Host.Outcome State Fault Refusal :=
  s.onBlock fun b => b.powered fun b => b.jtagSample

/-- EXTEST (R436): JTAG EXTEST, acting only in reset with VIN_MAIN present, else as BYPASS. -/
def execExtest (vin : Bool) (s : State) : Host.Outcome State Fault Refusal :=
  s.onBlock fun b => b.powered fun b => b.jtagPins 3 2 vin

/-- EXTEST_PULSE (R436): IEEE 1149.6 EXTEST_PULSE on E-link and PCIe lanes, under the same conditions as EXTEST. -/
def execExtestPulse (vin : Bool) (s : State) : Host.Outcome State Fault Refusal :=
  s.onBlock fun b => b.powered fun b => b.jtagPins 4 2 vin

/-- EXTEST_TRAIN (R436): IEEE 1149.6 EXTEST_TRAIN on E-link and PCIe lanes, under the same conditions as EXTEST. -/
def execExtestTrain (vin : Bool) (s : State) : Host.Outcome State Fault Refusal :=
  s.onBlock fun b => b.powered fun b => b.jtagPins 5 2 vin

/-- CLAMP_INSTR (R436): JTAG CLAMP instruction, under the same conditions as EXTEST. -/
def execClampInstr (vin : Bool) (s : State) : Host.Outcome State Fault Refusal :=
  s.onBlock fun b => b.powered fun b => b.jtagPins 6 0 vin

/-- HIGHZ (R436): JTAG HIGHZ instruction, under the same conditions as EXTEST. -/
def execHighz (vin : Bool) (s : State) : Host.Outcome State Fault Refusal :=
  s.onBlock fun b => b.powered fun b => b.jtagPins 7 0 vin

end Sys2Proof.Machine
end

