-- ==== Sys2Proof/Machine/TransferCmds.lean ====
section
/-! DEFINITION. Transfers (spec/07): engines and the transfer instructions. One meaning for each command. -/

namespace Sys2Proof.Machine

/-- XF_POST (R189): Posts a list of descriptors to a DMA channel and writes the post status. -/
def execXfPost (p : Fin 12) (i : Fin 153) (sl : Fin 2) (w : BitVec 64) (s : State) : Host.Outcome State Fault Refusal :=
  s.onBlock fun b => b.live fun b => b.issue p i sl w.toNat 0x4 0x00 fun b => b.xfPostI p i sl w.toNat

/-- XF_WAIT (R188): Waits until at most COUNT lists of the slot are outstanding on one or all engines. -/
def execXfWait (p : Fin 12) (i : Fin 153) (sl : Fin 2) (w : BitVec 64) (s : State) : Host.Outcome State Fault Refusal :=
  s.onBlock fun b => b.live fun b => b.issue p i sl w.toNat 0x4 0x01 fun b => b.xfWaitI p i sl w.toNat

/-- XF_PAIR (R190): Sets a buffer pair's half offset and resets its half to 0. -/
def execXfPair (p : Fin 12) (i : Fin 153) (sl : Fin 2) (w : BitVec 64) (s : State) : Host.Outcome State Fault Refusal :=
  s.onBlock fun b => b.live fun b => b.issue p i sl w.toNat 0x4 0x02 fun b => b.xfPairI p i sl w.toNat

/-- XF_SWAP (R188): Toggles the half of each buffer pair named in MASK. -/
def execXfSwap (p : Fin 12) (i : Fin 153) (sl : Fin 2) (w : BitVec 64) (s : State) : Host.Outcome State Fault Refusal :=
  s.onBlock fun b => b.live fun b => b.issue p i sl w.toNat 0x4 0x03 fun b => b.xfSwapI p i sl w.toNat

/-- XF_STAT (R188): Reads the slot's channel status word of an engine into an S register. -/
def execXfStat (p : Fin 12) (i : Fin 153) (sl : Fin 2) (w : BitVec 64) (s : State) : Host.Outcome State Fault Refusal :=
  s.onBlock fun b => b.live fun b => b.issue p i sl w.toNat 0x4 0x04 fun b => b.xfStatI p i sl w.toNat

/-- DESCRIPTOR_START (R194): A channel starts its next descriptor after the previous one's last read, checking it and then moving
rows. -/
def execDescriptorStart (p : Fin 12) (eng : Fin 36) (ch : Fin 2) (ev : MoveEvent) (s : State) :
    Host.Outcome State Fault Refusal :=
  s.onBlock fun b => b.live fun b => b.settling fun b => b.descStart p eng ch ev

/-- DESCRIPTOR_COMPLETE (R197): A descriptor's last write is performed at its home and its local and remote signals are sent. -/
def execDescriptorComplete (p : Fin 12) (eng : Fin 36) (ch : Fin 2) (s : State) : Host.Outcome State Fault Refusal :=
  s.onBlock fun b => b.live fun b => b.settling fun b => b.descComplete p eng ch

/-- DMA_ENGINE_FAULT (R366): A parity error in an engine's own state moves both its channels to a sibling engine. -/
def execDmaEngineFault (p : Fin 12) (eng : Fin 36) (s : State) : Host.Outcome State Fault Refusal :=
  s.onBlock fun b => b.live fun b => b.engineFault p eng

end Sys2Proof.Machine
end

