-- ==== Sys2Proof/Machine/UpdateCmds.lean ====
section
/-! DEFINITION. The update engine and resident hosts (spec/11). One meaning for each command. -/

namespace Sys2Proof.Machine

/-- RING_BIND (R304): Writing UPD_RING.BOUND as 1 binds a step ring and sets PROD to CONS. -/
def execRingBind (r : Fin 12) (req : Requester) (v : BitVec 32) (s : State) : Host.Outcome State Fault Refusal :=
  s.onBlock fun b => b.live fun b =>
    let o := 0x10C + 32 * r.val
    b.guard .upd req o (b.rwChanges .upd o (v.toNat % 2 ^ 31 + 2 ^ 31)) fun b => b.ringBind r v.toNat

/-- RING_UNBIND (R304): Writing UPD_RING.BOUND as 0 lets the step in progress finish and ends later records DISABLED. -/
def execRingUnbind (r : Fin 12) (req : Requester) (v : BitVec 32) (s : State) : Host.Outcome State Fault Refusal :=
  s.onBlock fun b => b.live fun b =>
    let o := 0x10C + 32 * r.val
    b.guard .upd req o (b.rwChanges .upd o (v.toNat % 2 ^ 31)) fun b => b.ringUnbind r v.toNat

/-- STEP_RECORD_POST (R304): Writing UPD_RING.PROD posts step records, clamped to four ahead of CONS. -/
def execStepRecordPost (r : Fin 12) (req : Requester) (v : BitVec 8) (s : State) : Host.Outcome State Fault Refusal :=
  s.onBlock fun b =>
    b.live fun b => b.guard .upd req (0x108 + 32 * r.val) (b.rwChanges .upd (0x108 + 32 * r.val) v.toNat) fun b => b.stepPost r v.toNat

/-- UPDATE_STEP_START (R306): The update engine takes a step record, validates it and its region list, and waits for its vote. -/
def execUpdateStepStart (r : Fin 12) (s : State) : Host.Outcome State Fault Refusal :=
  s.onBlock fun b => b.live fun b => b.stepStart r

/-- UPDATE_STEP_VOTE (R302): The step's vote result reaches the engine, which skips, declares VOTE_LOST, or begins updating
regions. -/
def execUpdateStepVote (r : Fin 12) (s : State) : Host.Outcome State Fault Refusal :=
  s.onBlock fun b => b.live fun b => b.stepVote r

/-- REGION_END (R308): A region's last write is acknowledged and DONE_CTR receives 1. -/
def execRegionEnd (r : Fin 12) (s : State) : Host.Outcome State Fault Refusal :=
  s.onBlock fun b => b.live fun b => b.regionEnd r

/-- UPDATE_STEP_END (R313): The engine writes the result record with CRCs, energy and JPT, advances CONS and raises its cause. -/
def execUpdateStepEnd (x : StepEndPick) (s : State) : Host.Outcome State Fault Refusal :=
  s.onBlock fun b => b.live fun b => b.stepEnd x.r x.unc

/-- RHOST_OWNER_CHANGE (R315): Writing RHOST_CFG.OWNER stops the core at its next trap boundary and ends job code on it. -/
def execRhostOwnerChange (h : Fin 32) (req : Requester) (v : BitVec 32) (s : State) : Host.Outcome State Fault Refusal :=
  s.onBlock fun b =>
    b.live fun b => b.guard (.rhost h) req 0x040 (b.rwChanges (.rhost h) 0x040 v.toNat) fun b => b.ownerChange h req v.toNat

/-- RHOST_WATCHDOG (R317): A firmware-owned core silent for 1 s raises WATCHDOG. -/
def execRhostWatchdog (h : Fin 32) (s : State) : Host.Outcome State Fault Refusal :=
  s.onBlock fun b => b.live fun b => b.hostWatchdog h

/-- JOB_TRAP (R317): Job code on a resident-host core traps; firmware takes the fault, RHOST_STAT shows the core stopped on a
fault and JOB_FAULT is raised and counted. -/
def execJobTrap (h : Fin 32) (cause : BitVec 8) (pc : BitVec 57) (translation : Bool) (s : State) :
    Host.Outcome State Fault Refusal :=
  s.onBlock fun b => b.live fun b => b.jobTrap h cause.toNat pc.toNat translation

end Sys2Proof.Machine
end

