-- ==== Sys2Proof/Machine/VectorCmds.lean ====
section
/-! DEFINITION. Vector instructions (spec/03, spec/04). One meaning for each command. -/

namespace Sys2Proof.Machine

/-- VADD (R125): Element-wise vector addition. -/
def execVadd (p : Fin 12) (i : Fin 153) (sl : Fin 2) (w : BitVec 64) (s : State) : Host.Outcome State Fault Refusal :=
  s.onBlock fun b => b.live fun b => b.issue p i sl w.toNat 0x2 0x00 fun b => b.vbin p i sl w.toNat .add

/-- VSUB (R125): Element-wise vector subtraction. -/
def execVsub (p : Fin 12) (i : Fin 153) (sl : Fin 2) (w : BitVec 64) (s : State) : Host.Outcome State Fault Refusal :=
  s.onBlock fun b => b.live fun b => b.issue p i sl w.toNat 0x2 0x01 fun b => b.vbin p i sl w.toNat .sub

/-- VMUL (R125): Element-wise vector multiplication. -/
def execVmul (p : Fin 12) (i : Fin 153) (sl : Fin 2) (w : BitVec 64) (s : State) : Host.Outcome State Fault Refusal :=
  s.onBlock fun b => b.live fun b => b.issue p i sl w.toNat 0x2 0x02 fun b => b.vbin p i sl w.toNat .mul

/-- VFMA (R125): Fused multiply-add Va × Vb + Vc rounded once, FP32 and BF16 only. -/
def execVfma (p : Fin 12) (i : Fin 153) (sl : Fin 2) (w : BitVec 64) (s : State) : Host.Outcome State Fault Refusal :=
  s.onBlock fun b => b.live fun b => b.issue p i sl w.toNat 0x2 0x03 fun b => b.vfma p i sl w.toNat

/-- VMIN (R125): Element-wise minimum, canonical NaN if either operand is NaN. -/
def execVmin (p : Fin 12) (i : Fin 153) (sl : Fin 2) (w : BitVec 64) (s : State) : Host.Outcome State Fault Refusal :=
  s.onBlock fun b => b.live fun b => b.issue p i sl w.toNat 0x2 0x04 fun b => b.vbin p i sl w.toNat .min

/-- VMAX (R125): Element-wise maximum, canonical NaN if either operand is NaN. -/
def execVmax (p : Fin 12) (i : Fin 153) (sl : Fin 2) (w : BitVec 64) (s : State) : Host.Outcome State Fault Refusal :=
  s.onBlock fun b => b.live fun b => b.issue p i sl w.toNat 0x2 0x05 fun b => b.vbin p i sl w.toNat .max

/-- VABS (R125): Clears each element's sign bit, NaN giving the canonical NaN. -/
def execVabs (p : Fin 12) (i : Fin 153) (sl : Fin 2) (w : BitVec 64) (s : State) : Host.Outcome State Fault Refusal :=
  s.onBlock fun b => b.live fun b => b.issue p i sl w.toNat 0x2 0x06 fun b => b.vsign p i sl w.toNat false

/-- VNEG (R125): Inverts each element's sign bit, NaN giving the canonical NaN. -/
def execVneg (p : Fin 12) (i : Fin 153) (sl : Fin 2) (w : BitVec 64) (s : State) : Host.Outcome State Fault Refusal :=
  s.onBlock fun b => b.live fun b => b.issue p i sl w.toNat 0x2 0x07 fun b => b.vsign p i sl w.toNat true

/-- VCMP (R125): Element-wise comparison producing all-ones or zero masks. -/
def execVcmp (p : Fin 12) (i : Fin 153) (sl : Fin 2) (w : BitVec 64) (s : State) : Host.Outcome State Fault Refusal :=
  s.onBlock fun b => b.live fun b => b.issue p i sl w.toNat 0x2 0x08 fun b => b.vcmp p i sl w.toNat

/-- VSEL (R75): Selects each element from Va or Vb by the mask in Vc. -/
def execVsel (p : Fin 12) (i : Fin 153) (sl : Fin 2) (w : BitVec 64) (s : State) : Host.Outcome State Fault Refusal :=
  s.onBlock fun b => b.live fun b => b.issue p i sl w.toNat 0x2 0x09 fun b => b.vsel p i sl w.toNat

/-- VAND (R75): Bitwise AND over the whole vector register. -/
def execVand (p : Fin 12) (i : Fin 153) (sl : Fin 2) (w : BitVec 64) (s : State) : Host.Outcome State Fault Refusal :=
  s.onBlock fun b => b.live fun b => b.issue p i sl w.toNat 0x2 0x0A fun b => b.vlogic p i sl w.toNat (· &&& ·)

/-- VOR (R75): Bitwise OR over the whole vector register. -/
def execVor (p : Fin 12) (i : Fin 153) (sl : Fin 2) (w : BitVec 64) (s : State) : Host.Outcome State Fault Refusal :=
  s.onBlock fun b => b.live fun b => b.issue p i sl w.toNat 0x2 0x0B fun b => b.vlogic p i sl w.toNat (· ||| ·)

/-- VXOR (R75): Bitwise XOR over the whole vector register. -/
def execVxor (p : Fin 12) (i : Fin 153) (sl : Fin 2) (w : BitVec 64) (s : State) : Host.Outcome State Fault Refusal :=
  s.onBlock fun b => b.live fun b => b.issue p i sl w.toNat 0x2 0x0C fun b => b.vlogic p i sl w.toNat (· ^^^ ·)

/-- VSHL (R75): INT32 left shift of each element by a per-element count. -/
def execVshl (p : Fin 12) (i : Fin 153) (sl : Fin 2) (w : BitVec 64) (s : State) : Host.Outcome State Fault Refusal :=
  s.onBlock fun b => b.live fun b => b.issue p i sl w.toNat 0x2 0x0D fun b => b.vshift p i sl w.toNat true

/-- VSHR (R75): INT32 logical or arithmetic right shift of each element. -/
def execVshr (p : Fin 12) (i : Fin 153) (sl : Fin 2) (w : BitVec 64) (s : State) : Host.Outcome State Fault Refusal :=
  s.onBlock fun b => b.live fun b => b.issue p i sl w.toNat 0x2 0x0E fun b => b.vshift p i sl w.toNat false

/-- VBCAST (R75): Broadcasts the low bits of an S register to every element. -/
def execVbcast (p : Fin 12) (i : Fin 153) (sl : Fin 2) (w : BitVec 64) (s : State) : Host.Outcome State Fault Refusal :=
  s.onBlock fun b => b.live fun b => b.issue p i sl w.toNat 0x2 0x0F fun b => b.vbcast p i sl w.toNat

/-- VRSUM (R75): Sums Va's elements in ascending order into element 0. -/
def execVrsum (p : Fin 12) (i : Fin 153) (sl : Fin 2) (w : BitVec 64) (s : State) : Host.Outcome State Fault Refusal :=
  s.onBlock fun b => b.live fun b => b.issue p i sl w.toNat 0x2 0x10 fun b => b.vreduce p i sl w.toNat .add

/-- VRMAX (R75): Maximum of Va's elements into element 0. -/
def execVrmax (p : Fin 12) (i : Fin 153) (sl : Fin 2) (w : BitVec 64) (s : State) : Host.Outcome State Fault Refusal :=
  s.onBlock fun b => b.live fun b => b.issue p i sl w.toNat 0x2 0x11 fun b => b.vreduce p i sl w.toNat .max

/-- VRMIN (R75): Minimum of Va's elements into element 0. -/
def execVrmin (p : Fin 12) (i : Fin 153) (sl : Fin 2) (w : BitVec 64) (s : State) : Host.Outcome State Fault Refusal :=
  s.onBlock fun b => b.live fun b => b.issue p i sl w.toNat 0x2 0x12 fun b => b.vreduce p i sl w.toNat .min

/-- VSF (R126): FP32 special function exp2, log2, reciprocal, reciprocal square root or tanh, correctly rounded. -/
def execVsf (p : Fin 12) (i : Fin 153) (sl : Fin 2) (w : BitVec 64) (s : State) : Host.Outcome State Fault Refusal :=
  s.onBlock fun b => b.live fun b => b.issue p i sl w.toNat 0x2 0x13 fun b => b.vsf p i sl w.toNat

/-- VPERM (R75): Permutes Va's elements by the indices in Vb. -/
def execVperm (p : Fin 12) (i : Fin 153) (sl : Fin 2) (w : BitVec 64) (s : State) : Host.Outcome State Fault Refusal :=
  s.onBlock fun b => b.live fun b => b.issue p i sl w.toNat 0x2 0x14 fun b => b.vperm p i sl w.toNat

/-- VEXT (R75): Extracts one element of Va into an S register. -/
def execVext (p : Fin 12) (i : Fin 153) (sl : Fin 2) (w : BitVec 64) (s : State) : Host.Outcome State Fault Refusal :=
  s.onBlock fun b => b.live fun b => b.issue p i sl w.toNat 0x2 0x15 fun b => b.vext p i sl w.toNat

/-- VINS (R75): Inserts the low bits of an S register into one element of the destination. -/
def execVins (p : Fin 12) (i : Fin 153) (sl : Fin 2) (w : BitVec 64) (s : State) : Host.Outcome State Fault Refusal :=
  s.onBlock fun b => b.live fun b => b.issue p i sl w.toNat 0x2 0x16 fun b => b.vins p i sl w.toNat

/-- CVT (R127): Vector conversion between FP32, BF16, binary16, INT32 and the narrow formats, with optional block scaling or
stochastic rounding. -/
def execCvtVec (p : Fin 12) (i : Fin 153) (sl : Fin 2) (w : BitVec 64) (s : State) : Host.Outcome State Fault Refusal :=
  s.onBlock fun b => b.live fun b => b.issue p i sl w.toNat 0x2 0x30 fun b => b.cvt p i sl w.toNat

end Sys2Proof.Machine
end

