-- ==== Sys2Proof/Machine/Dispatch.lean ====
section
/-! DEFINITION. One arm for each command: a direct call of its meaning. -/

namespace Sys2Proof.Machine

/-- The effect of a command on everything but the queue. -/
def exec (i : Instr) (s : State) : Host.Outcome State Fault Refusal :=
  match i with
  | .registerWrite req off size v pois => Sys2Proof.Machine.execRegisterWrite req off size v pois s
  | .hdrLockSet key req => Sys2Proof.Machine.execHdrLockSet key req s
  | .irqCauseClear key req v => Sys2Proof.Machine.execIrqCauseClear key req v s
  | .clampCntClear key req v => Sys2Proof.Machine.execClampCntClear key req v s
  | .logbookClear key req m v => Sys2Proof.Machine.execLogbookClear key req m v s
  | .blockDisable key req => Sys2Proof.Machine.execBlockDisable key req s
  | .blockEnable key req => Sys2Proof.Machine.execBlockEnable key req s
  | .logbookSnapshot key unc => Sys2Proof.Machine.execLogbookSnapshot key unc s
  | .tick arrive => Sys2Proof.Machine.execTick arrive s
  | .frameSlip p => Sys2Proof.Machine.execFrameSlip p s
  | .lockAchieved => Sys2Proof.Machine.execLockAchieved s
  | .tickSymbolReceive n block => Sys2Proof.Machine.execTickSymbolReceive n block s
  | .claimReceive n block => Sys2Proof.Machine.execClaimReceive n block s
  | .masterIdReceive n block => Sys2Proof.Machine.execMasterIdReceive n block s
  | .masterTimeout => Sys2Proof.Machine.execMasterTimeout s
  | .claimWon => Sys2Proof.Machine.execClaimWon s
  | .holdoverEntry => Sys2Proof.Machine.execHoldoverEntry s
  | .holdoverClaim => Sys2Proof.Machine.execHoldoverClaim s
  | .masterResign req => Sys2Proof.Machine.execMasterResign req s
  | .masterIdBroadcast => Sys2Proof.Machine.execMasterIdBroadcast s
  | .tickRefEdge dt high residual => Sys2Proof.Machine.execTickRefEdge dt high residual s
  | .refHoldover => Sys2Proof.Machine.execRefHoldover s
  | .holdoverExpired => Sys2Proof.Machine.execHoldoverExpired s
  | .periodSwitchArm req v => Sys2Proof.Machine.execPeriodSwitchArm req v s
  | .periodSwitch => Sys2Proof.Machine.execPeriodSwitch s
  | .rttRemeasure => Sys2Proof.Machine.execRttRemeasure s
  | .rttProbeReceive n block => Sys2Proof.Machine.execRttProbeReceive n block s
  | .rttEchoReceive n block rtt => Sys2Proof.Machine.execRttEchoReceive n block rtt s
  | .alu p ci sl w => Sys2Proof.Machine.execAlu p ci sl w s
  | .aluImmediate p ci sl w => Sys2Proof.Machine.execAluImmediate p ci sl w s
  | .multiply p ci sl w => Sys2Proof.Machine.execMultiply p ci sl w s
  | .divide p ci sl w => Sys2Proof.Machine.execDivide p ci sl w s
  | .loadConstant p ci sl w => Sys2Proof.Machine.execLoadConstant p ci sl w s
  | .load p ci sl w ev => Sys2Proof.Machine.execLoad p ci sl w ev s
  | .store p ci sl w => Sys2Proof.Machine.execStore p ci sl w s
  | .branch p ci sl w => Sys2Proof.Machine.execBranch p ci sl w s
  | .branchAndLink p ci sl w => Sys2Proof.Machine.execBranchAndLink p ci sl w s
  | .jump p ci sl w => Sys2Proof.Machine.execJump p ci sl w s
  | .vadd p ci sl w => Sys2Proof.Machine.execVadd p ci sl w s
  | .vsub p ci sl w => Sys2Proof.Machine.execVsub p ci sl w s
  | .vmul p ci sl w => Sys2Proof.Machine.execVmul p ci sl w s
  | .vfma p ci sl w => Sys2Proof.Machine.execVfma p ci sl w s
  | .vmin p ci sl w => Sys2Proof.Machine.execVmin p ci sl w s
  | .vmax p ci sl w => Sys2Proof.Machine.execVmax p ci sl w s
  | .vabs p ci sl w => Sys2Proof.Machine.execVabs p ci sl w s
  | .vneg p ci sl w => Sys2Proof.Machine.execVneg p ci sl w s
  | .vcmp p ci sl w => Sys2Proof.Machine.execVcmp p ci sl w s
  | .vsel p ci sl w => Sys2Proof.Machine.execVsel p ci sl w s
  | .vand p ci sl w => Sys2Proof.Machine.execVand p ci sl w s
  | .vor p ci sl w => Sys2Proof.Machine.execVor p ci sl w s
  | .vxor p ci sl w => Sys2Proof.Machine.execVxor p ci sl w s
  | .vshl p ci sl w => Sys2Proof.Machine.execVshl p ci sl w s
  | .vshr p ci sl w => Sys2Proof.Machine.execVshr p ci sl w s
  | .vbcast p ci sl w => Sys2Proof.Machine.execVbcast p ci sl w s
  | .vrsum p ci sl w => Sys2Proof.Machine.execVrsum p ci sl w s
  | .vrmax p ci sl w => Sys2Proof.Machine.execVrmax p ci sl w s
  | .vrmin p ci sl w => Sys2Proof.Machine.execVrmin p ci sl w s
  | .vsf p ci sl w => Sys2Proof.Machine.execVsf p ci sl w s
  | .vperm p ci sl w => Sys2Proof.Machine.execVperm p ci sl w s
  | .vext p ci sl w => Sys2Proof.Machine.execVext p ci sl w s
  | .vins p ci sl w => Sys2Proof.Machine.execVins p ci sl w s
  | .cvtVec p ci sl w => Sys2Proof.Machine.execCvtVec p ci sl w s
  | .nop p ci sl w => Sys2Proof.Machine.execNop p ci sl w s
  | .rdsys p ci sl w => Sys2Proof.Machine.execRdsys p ci sl w s
  | .bpost p ci sl w => Sys2Proof.Machine.execBpost p ci sl w s
  | .flgRead p ci sl w => Sys2Proof.Machine.execFlgRead p ci sl w s
  | .flgClear p ci sl w => Sys2Proof.Machine.execFlgClear p ci sl w s
  | .actlSet p ci sl w => Sys2Proof.Machine.execActlSet p ci sl w s
  | .actlRead p ci sl w => Sys2Proof.Machine.execActlRead p ci sl w s
  | .frameEnd p ci sl w => Sys2Proof.Machine.execFrameEnd p ci sl w s
  | .instructionFetchMiss p ci sl parity ev => Sys2Proof.Machine.execInstructionFetchMiss p ci sl parity ev s
  | .backfillSwitch p ci => Sys2Proof.Machine.execBackfillSwitch p ci s
  | .backfillSwitchBack p ci => Sys2Proof.Machine.execBackfillSwitchBack p ci s
  | .switchComplete p ci => Sys2Proof.Machine.execSwitchComplete p ci s
  | .mmWs p ci sl w => Sys2Proof.Machine.execMmWs p ci sl w s
  | .mmWt p ci sl w => Sys2Proof.Machine.execMmWt p ci sl w s
  | .mmOs p ci sl w => Sys2Proof.Machine.execMmOs p ci sl w s
  | .mmPld p ci sl w => Sys2Proof.Machine.execMmPld p ci sl w s
  | .mmPrel p ci sl w => Sys2Proof.Machine.execMmPrel p ci sl w s
  | .mmWait p ci sl w => Sys2Proof.Machine.execMmWait p ci sl w s
  | .mmBatch p ci sl w => Sys2Proof.Machine.execMmBatch p ci sl w s
  | .mmTdld p ci sl w => Sys2Proof.Machine.execMmTdld p ci sl w s
  | .mmTdst p ci sl w => Sys2Proof.Machine.execMmTdst p ci sl w s
  | .matrixPassStart p ci sl => Sys2Proof.Machine.execMatrixPassStart p ci sl s
  | .matrixAttemptEnd p ci sl => Sys2Proof.Machine.execMatrixAttemptEnd p ci sl s
  | .matrixComplete p ci sl => Sys2Proof.Machine.execMatrixComplete p ci sl s
  | .batchLaunch p ci => Sys2Proof.Machine.execBatchLaunch p ci s
  | .batchDeadline p ci => Sys2Proof.Machine.execBatchDeadline p ci s
  | .mscAccess p loc len write hint data pois ev => Sys2Proof.Machine.execMscAccess p loc len write hint data pois ev s
  | .capacityAccess d addr len write data pois ev => Sys2Proof.Machine.execCapacityAccess d addr len write data pois ev s
  | .keepRelease p req => Sys2Proof.Machine.execKeepRelease p req s
  | .mscFlush p req => Sys2Proof.Machine.execMscFlush p req s
  | .flushDone p => Sys2Proof.Machine.execFlushDone p s
  | .scrubPass cap n evs => Sys2Proof.Machine.execScrubPass cap n evs s
  | .imapNextWrite p req v => Sys2Proof.Machine.execImapNextWrite p req v s
  | .translationWalk p slot eng va k => Sys2Proof.Machine.execTranslationWalk p slot eng va k s
  | .mmuResume p req => Sys2Proof.Machine.execMmuResume p req s
  | .mmuFail p req => Sys2Proof.Machine.execMmuFail p req s
  | .mmuFaultTimeout p id => Sys2Proof.Machine.execMmuFaultTimeout p id s
  | .faultQueueConsume p req v => Sys2Proof.Machine.execFaultQueueConsume p req v s
  | .mmuInvalidate p req => Sys2Proof.Machine.execMmuInvalidate p req s
  | .mmuInvDone p => Sys2Proof.Machine.execMmuInvDone p s
  | .xfPost p ci sl w => Sys2Proof.Machine.execXfPost p ci sl w s
  | .xfWait p ci sl w => Sys2Proof.Machine.execXfWait p ci sl w s
  | .xfPair p ci sl w => Sys2Proof.Machine.execXfPair p ci sl w s
  | .xfSwap p ci sl w => Sys2Proof.Machine.execXfSwap p ci sl w s
  | .xfStat p ci sl w => Sys2Proof.Machine.execXfStat p ci sl w s
  | .descriptorStart p eng ch ev => Sys2Proof.Machine.execDescriptorStart p eng ch ev s
  | .descriptorComplete p eng ch => Sys2Proof.Machine.execDescriptorComplete p eng ch s
  | .dmaEngineFault p eng => Sys2Proof.Machine.execDmaEngineFault p eng s
  | .fence p ci sl w => Sys2Proof.Machine.execFence p ci sl w s
  | .ctrAdd p ci sl w => Sys2Proof.Machine.execCtrAdd p ci sl w s
  | .ctrSub p ci sl w => Sys2Proof.Machine.execCtrSub p ci sl w s
  | .ctrWait p ci sl w => Sys2Proof.Machine.execCtrWait p ci sl w s
  | .ctrRead p ci sl w => Sys2Proof.Machine.execCtrRead p ci sl w s
  | .ctrSet p ci sl w => Sys2Proof.Machine.execCtrSet p ci sl w s
  | .barInit p ci sl w => Sys2Proof.Machine.execBarInit p ci sl w s
  | .barArrive p ci sl w => Sys2Proof.Machine.execBarArrive p ci sl w s
  | .barWait p ci sl w => Sys2Proof.Machine.execBarWait p ci sl w s
  | .barSync p ci sl w => Sys2Proof.Machine.execBarSync p ci sl w s
  | .amo p ci sl w => Sys2Proof.Machine.execAmo p ci sl w s
  | .amoPerform p ci sl x => Sys2Proof.Machine.execAmoPerform p ci sl x s
  | .counterUpdate p which => Sys2Proof.Machine.execCounterUpdate p which s
  | .barrierArrival p which => Sys2Proof.Machine.execBarrierArrival p which s
  | .barrierArmWrite p req bar count timeout => Sys2Proof.Machine.execBarrierArmWrite p req bar count timeout s
  | .barrierTimeout p bar => Sys2Proof.Machine.execBarrierTimeout p bar s
  | .syncSurvey p req => Sys2Proof.Machine.execSyncSurvey p req s
  | .surveyComplete p uncorrectable => Sys2Proof.Machine.execSurveyComplete p uncorrectable s
  | .linkEnable n req => Sys2Proof.Machine.execLinkEnable n req s
  | .linkDisable n req => Sys2Proof.Machine.execLinkDisable n req s
  | .linkDrainEnd n => Sys2Proof.Machine.execLinkDrainEnd n s
  | .linkSignalDetect n lanes => Sys2Proof.Machine.execLinkSignalDetect n lanes s
  | .linkTrainDone n rx tx => Sys2Proof.Machine.execLinkTrainDone n rx tx s
  | .linkTrainTimeout n => Sys2Proof.Machine.execLinkTrainTimeout n s
  | .linkAlignDone n rtt => Sys2Proof.Machine.execLinkAlignDone n rtt s
  | .digestReceive n block => Sys2Proof.Machine.execDigestReceive n block s
  | .pkgnWrite n req sysid v => Sys2Proof.Machine.execPkgnWrite n req sysid v s
  | .flitReceive n bytes badCodeword => Sys2Proof.Machine.execFlitReceive n bytes badCodeword s
  | .nakReceive n block => Sys2Proof.Machine.execNakReceive n block s
  | .skipReceive n block => Sys2Proof.Machine.execSkipReceive n block s
  | .retryEpisodeTimeout n lane => Sys2Proof.Machine.execRetryEpisodeTimeout n lane s
  | .laneLockLost n lanes => Sys2Proof.Machine.execLaneLockLost n lanes s
  | .laneProactiveSpare n lane => Sys2Proof.Machine.execLaneProactiveSpare n lane s
  | .spareReceive n block => Sys2Proof.Machine.execSpareReceive n block s
  | .linkDownReceive n block => Sys2Proof.Machine.execLinkDownReceive n block s
  | .linkRetrain n req => Sys2Proof.Machine.execLinkRetrain n req s
  | .linkRetrainTimer n => Sys2Proof.Machine.execLinkRetrainTimer n s
  | .routeEntryWrite n req v => Sys2Proof.Machine.execRouteEntryWrite n req v s
  | .packetForward n pkt => Sys2Proof.Machine.execPacketForward n pkt s
  | .orderedArrival n pkt => Sys2Proof.Machine.execOrderedArrival n pkt s
  | .readArrival n pkt => Sys2Proof.Machine.execReadArrival n pkt s
  | .responseReceive n pkt => Sys2Proof.Machine.execResponseReceive n pkt s
  | .dropReceive n pkt => Sys2Proof.Machine.execDropReceive n pkt s
  | .norouteReceive n pkt => Sys2Proof.Machine.execNorouteReceive n pkt s
  | .transactionTimeout space target tid => Sys2Proof.Machine.execTransactionTimeout space target tid s
  | .queueBind p q req v => Sys2Proof.Machine.execQueueBind p q req v s
  | .queueUnbind p q req v => Sys2Proof.Machine.execQueueUnbind p q req v s
  | .csLaunch p ci sl w => Sys2Proof.Machine.execCsLaunch p ci sl w s
  | .libraryLaunchTake p q => Sys2Proof.Machine.execLibraryLaunchTake p q s
  | .csTake p ci sl w => Sys2Proof.Machine.execCsTake p ci sl w s
  | .csExpect p ci sl w => Sys2Proof.Machine.execCsExpect p ci sl w s
  | .csSend p ci sl w => Sys2Proof.Machine.execCsSend p ci sl w s
  | .csRel p ci sl w => Sys2Proof.Machine.execCsRel p ci sl w s
  | .csNext p ci sl w => Sys2Proof.Machine.execCsNext p ci sl w s
  | .csEnd p ci sl w => Sys2Proof.Machine.execCsEnd p ci sl w s
  | .csVote p ci sl w => Sys2Proof.Machine.execCsVote p ci sl w s
  | .csVwait p ci sl w => Sys2Proof.Machine.execCsVwait p ci sl w s
  | .ctsReceive n pkt => Sys2Proof.Machine.execCtsReceive n pkt s
  | .collDataReceive n pkt => Sys2Proof.Machine.execCollDataReceive n pkt s
  | .abortReceive n pkt => Sys2Proof.Machine.execAbortReceive n pkt s
  | .absentReceive n pkt => Sys2Proof.Machine.execAbsentReceive n pkt s
  | .collDeadline p q l => Sys2Proof.Machine.execCollDeadline p q l s
  | .orderMismatch p => Sys2Proof.Machine.execOrderMismatch p s
  | .voteUpReceive n pkt => Sys2Proof.Machine.execVoteUpReceive n pkt s
  | .voteDownReceive n pkt => Sys2Proof.Machine.execVoteDownReceive n pkt s
  | .voteDeadline job group ordinal => Sys2Proof.Machine.execVoteDeadline job group ordinal s
  | .deferTimeout p => Sys2Proof.Machine.execDeferTimeout p s
  | .ringBind r req v => Sys2Proof.Machine.execRingBind r req v s
  | .ringUnbind r req v => Sys2Proof.Machine.execRingUnbind r req v s
  | .stepRecordPost r req v => Sys2Proof.Machine.execStepRecordPost r req v s
  | .updateStepStart r => Sys2Proof.Machine.execUpdateStepStart r s
  | .updateStepVote r => Sys2Proof.Machine.execUpdateStepVote r s
  | .regionEnd r => Sys2Proof.Machine.execRegionEnd r s
  | .updateStepEnd x => Sys2Proof.Machine.execUpdateStepEnd x s
  | .rhostOwnerChange h req v => Sys2Proof.Machine.execRhostOwnerChange h req v s
  | .rhostWatchdog h => Sys2Proof.Machine.execRhostWatchdog h s
  | .admitJob j => Sys2Proof.Machine.execAdmitJob j s
  | .jobBind job backfill ps => Sys2Proof.Machine.execJobBind job backfill ps s
  | .ephCommit p req => Sys2Proof.Machine.execEphCommit p req s
  | .ephCommitApply p => Sys2Proof.Machine.execEphCommitApply p s
  | .repairRebind p c k => Sys2Proof.Machine.execRepairRebind p c k s
  | .routeRewrite es => Sys2Proof.Machine.execRouteRewrite es s
  | .stageRebalance job permitted times layers layout => Sys2Proof.Machine.execStageRebalance job permitted times layers layout s
  | .heliostatLoop pw parts sense gs => Sys2Proof.Machine.execHeliostatLoop pw parts sense gs s
  | .capUnreachable => Sys2Proof.Machine.execCapUnreachable s
  | .clockStepChange p slewed => Sys2Proof.Machine.execClockStepChange p slewed s
  | .freeClockDecision p => Sys2Proof.Machine.execFreeClockDecision p s
  | .thermalUpdate tj hub hbm => Sys2Proof.Machine.execThermalUpdate tj hub hbm s
  | .thermtrip => Sys2Proof.Machine.execThermtrip s
  | .facilityTargetWrite req v => Sys2Proof.Machine.execFacilityTargetWrite req v s
  | .targetLeaseExpiry => Sys2Proof.Machine.execTargetLeaseExpiry s
  | .shedAssert samples => Sys2Proof.Machine.execShedAssert samples s
  | .shedDeassert => Sys2Proof.Machine.execShedDeassert s
  | .shedHoldEnd => Sys2Proof.Machine.execShedHoldEnd s
  | .shedStuck => Sys2Proof.Machine.execShedStuck s
  | .energyCalibration rs => Sys2Proof.Machine.execEnergyCalibration rs s
  | .inputLoss pin vin v0 => Sys2Proof.Machine.execInputLoss pin vin v0 s
  | .inputReturn => Sys2Proof.Machine.execInputReturn s
  | .parkBegin v q => Sys2Proof.Machine.execParkBegin v q s
  | .parkComplete => Sys2Proof.Machine.execParkComplete s
  | .finalCutoff => Sys2Proof.Machine.execFinalCutoff s
  | .gaugeRecalibrate => Sys2Proof.Machine.execGaugeRecalibrate s
  | .regulatorFault k kind => Sys2Proof.Machine.execRegulatorFault k kind s
  | .mgmtControllerReset => Sys2Proof.Machine.execMgmtControllerReset s
  | .mgmtWatchdog => Sys2Proof.Machine.execMgmtWatchdog s
  | .patrolVisit p c => Sys2Proof.Machine.execPatrolVisit p c s
  | .patrolVisitEnd p c bad => Sys2Proof.Machine.execPatrolVisitEnd p c bad s
  | .flatFieldTest p req => Sys2Proof.Machine.execFlatFieldTest p req s
  | .flatFieldEnd p bad => Sys2Proof.Machine.execFlatFieldEnd p bad s
  | .poisonContain => Sys2Proof.Machine.execPoisonContain s
  | .partAbort p req => Sys2Proof.Machine.execPartAbort p req s
  | .partPreempt p req => Sys2Proof.Machine.execPartPreempt p req s
  | .preemptBegin p => Sys2Proof.Machine.execPreemptBegin p s
  | .preemptDone p late => Sys2Proof.Machine.execPreemptDone p late s
  | .partRestore p req => Sys2Proof.Machine.execPartRestore p req s
  | .restoreDone p => Sys2Proof.Machine.execRestoreDone p s
  | .coreReset p ci req => Sys2Proof.Machine.execCoreReset p ci req s
  | .clusterReset p c req => Sys2Proof.Machine.execClusterReset p c req s
  | .partitionReset p req => Sys2Proof.Machine.execPartitionReset p req s
  | .resetComplete p bad => Sys2Proof.Machine.execResetComplete p bad s
  | .packageWarmReset => Sys2Proof.Machine.execPackageWarmReset s
  | .pkgRstAssert => Sys2Proof.Machine.execPkgRstAssert s
  | .pkgRstRelease tj => Sys2Proof.Machine.execPkgRstRelease tj s
  | .classBRecovery job plan => Sys2Proof.Machine.execClassBRecovery job plan s
  | .remirrorRegion r n master mom1 mom2 work => Sys2Proof.Machine.execRemirrorRegion r n master mom1 mom2 work s
  | .railsStart => Sys2Proof.Machine.execRailsStart s
  | .bootStepComplete x => Sys2Proof.Machine.execBootStepComplete x s
  | .bootStepTimeout => Sys2Proof.Machine.execBootStepTimeout s
  | .bundleChunkReceive l src k total => Sys2Proof.Machine.execBundleChunkReceive l src k total s
  | .bankProgramDone x => Sys2Proof.Machine.execBankProgramDone x s
  | .almanacWrite => Sys2Proof.Machine.execAlmanacWrite s
  | .activateMc req => Sys2Proof.Machine.execActivateMc req s
  | .activateRhost req => Sys2Proof.Machine.execActivateRhost req s
  | .activatePart req mask => Sys2Proof.Machine.execActivatePart req mask s
  | .licenceCheck req sig revoked => Sys2Proof.Machine.execLicenceCheck req sig revoked s
  | .doorbellWrite x v n a => Sys2Proof.Machine.execDoorbellWrite x v n a s
  | .apertureAccess x off len write data pois => Sys2Proof.Machine.execApertureAccess x off len write data pois s
  | .atsInvalidation x v page count => Sys2Proof.Machine.execAtsInvalidation x v page count s
  | .pcieCompletionTimeout x tag => Sys2Proof.Machine.execPcieCompletionTimeout x tag s
  | .msixSend x req v => Sys2Proof.Machine.execMsixSend x req v s
  | .portReset x pin => Sys2Proof.Machine.execPortReset x pin s
  | .portTrain x gen width vfs cfg => Sys2Proof.Machine.execPortTrain x gen width vfs cfg s
  | .vfFlr x v => Sys2Proof.Machine.execVfFlr x v s
  | .pfFlr x => Sys2Proof.Machine.execPfFlr x s
  | .setEndpointId e => Sys2Proof.Machine.execSetEndpointId e s
  | .getEndpointId => Sys2Proof.Machine.execGetEndpointId s
  | .getMctpVersionSupport => Sys2Proof.Machine.execGetMctpVersionSupport s
  | .getMessageTypeSupport => Sys2Proof.Machine.execGetMessageTypeSupport s
  | .getEndpointUuid => Sys2Proof.Machine.execGetEndpointUuid s
  | .mctpUnsupportedType t => Sys2Proof.Machine.execMctpUnsupportedType t s
  | .setNumericEffecterValue id v => Sys2Proof.Machine.execSetNumericEffecterValue id v s
  | .setEventReceiver e => Sys2Proof.Machine.execSetEventReceiver e s
  | .pldmFirmwareData => Sys2Proof.Machine.execPldmFirmwareData s
  | .verifyComplete x => Sys2Proof.Machine.execVerifyComplete x s
  | .activateFirmware selfContained => Sys2Proof.Machine.execActivateFirmware selfContained s
  | .cancelUpdate => Sys2Proof.Machine.execCancelUpdate s
  | .getStatus => Sys2Proof.Machine.execGetStatus s
  | .pldmUpdateTimeout => Sys2Proof.Machine.execPldmUpdateTimeout s
  | .read32 data => Sys2Proof.Machine.execRead32 data s
  | .write32 data => Sys2Proof.Machine.execWrite32 data s
  | .warmReset data => Sys2Proof.Machine.execWarmReset data s
  | .pkgFft data => Sys2Proof.Machine.execPkgFft data s
  | .forward g inner => Sys2Proof.Machine.execForward g inner s
  | .eyepNonce data => Sys2Proof.Machine.execEyepNonce data s
  | .eyepUnlock token sig => Sys2Proof.Machine.execEyepUnlock token sig s
  | .getVersion => Sys2Proof.Machine.execGetVersion s
  | .getCapabilities => Sys2Proof.Machine.execGetCapabilities s
  | .negotiateAlgorithms offered => Sys2Proof.Machine.execNegotiateAlgorithms offered s
  | .getDigests => Sys2Proof.Machine.execGetDigests s
  | .getCertificate slot off len => Sys2Proof.Machine.execGetCertificate slot off len s
  | .challenge slot => Sys2Proof.Machine.execChallenge slot s
  | .getMeasurements block => Sys2Proof.Machine.execGetMeasurements block s
  | .bypass => Sys2Proof.Machine.execBypass s
  | .idcode => Sys2Proof.Machine.execIdcode s
  | .samplePreload => Sys2Proof.Machine.execSamplePreload s
  | .extest vin => Sys2Proof.Machine.execExtest vin s
  | .extestPulse vin => Sys2Proof.Machine.execExtestPulse vin s
  | .extestTrain vin => Sys2Proof.Machine.execExtestTrain vin s
  | .clampInstr vin => Sys2Proof.Machine.execClampInstr vin s
  | .highz vin => Sys2Proof.Machine.execHighz vin s
  | .eyepHalt req op => Sys2Proof.Machine.execEyepHalt req op s
  | .vstbyLoss => Sys2Proof.Machine.execVstbyLoss s
  | .vinOvervoltage => Sys2Proof.Machine.execVinOvervoltage s
  | .linkrefLoss v0 => Sys2Proof.Machine.execLinkrefLoss v0 s
  | .registerReadClear req off size => Sys2Proof.Machine.execRegisterReadClear req off size s
  | .pcieCompletion x tag ok perm data => Sys2Proof.Machine.execPcieCompletion x tag ok perm data s
  | .jobTrap h cause pc translation => Sys2Proof.Machine.execJobTrap h cause pc translation s
  | .i3cDynamicAddress a => Sys2Proof.Machine.execI3cDynamicAddress a s

end Sys2Proof.Machine
end

