-- ==== Sys2Proof/Safety.lean ====
section
/-! DEFINITION. The terms claims are stated in: when an instruction comes to its own effect, what the package holds while its reset
pin is held, and the values of the scalar tables as arithmetic on words. -/

namespace Sys2Proof.Machine

/-! Core instructions. -/

/-- Instruction word `w` of row (`c`, `o`) comes to its own effect in a slot: the package is on, the slot can issue, the word is
legal and of that row, and no register it awaits is still on its way (R74, R78, R80). -/
abbrev Block.Runs (b : Block) (p i sl w c o : Nat) : Prop :=
  b.boot.power = .on ∧ b.canIssue p i sl = true ∧ illegalField w = none ∧ iClass w = c ∧ iOp w = o ∧
    (b.slot p i sl).pendingRegs.any (awaits w) = false

/-- What precedes an instruction's own effect: its partition has left the frame boundary, and an Eyepiece that traces the core has
its program counter (R47, R437). -/
def Block.entered (b : Block) (p i sl : Nat) : Block :=
  if ((b.leaveBoundary p).slot p i sl).wait = .none ∨ ((b.leaveBoundary p).slot p i sl).wait = .operand then
    (b.leaveBoundary p).traceCore p i 0 (leBytes 8 ((b.leaveBoundary p).slot p i sl).pc)
  else b.leaveBoundary p

/-- The state with another block and the same queue. -/
def State.withBlk (s : State) (b : Block) : State := { s with blk := b }

/-- Field [lo + n − 1 : lo] of an instruction word. -/
def wordField (w : BitVec 64) (lo n : Nat) : Nat := (w.extractLsb' lo n).toNat

/-- The slot has executed its instruction: it goes on at the next one with `t` as its registers (R75). -/
def Slot.executed (t : Slot) : Slot := { t with pc := (t.pc + 8) % 2 ^ 57, wait := .none }

/-- S register `n` as a word. -/
def Slot.word (t : Slot) (n : Nat) : BitVec 64 := BitVec.ofNat 64 (t.s n)

/-- Table 3.22, ALU functions 0x0 to 0xD. -/
def aluValue (fn : Nat) (a b : BitVec 64) : BitVec 64 :=
  match fn with
  | 0x0 => a + b
  | 0x1 => a - b
  | 0x2 => a &&& b
  | 0x3 => a ||| b
  | 0x4 => a ^^^ b
  | 0x5 => a <<< (b.toNat % 64)
  | 0x6 => a >>> (b.toNat % 64)
  | 0x7 => a.sshiftRight (b.toNat % 64)
  | 0x8 => if a.slt b then 1 else 0
  | 0x9 => if a.ult b then 1 else 0
  | 0xA => if b.slt a then b else a
  | 0xB => if a.slt b then b else a
  | 0xC => if b.ult a then b else a
  | _ => if a.ult b then b else a

/-- Table 3.22, multiply functions 0 to 2: the low word, the high word of the signed and of the unsigned product. -/
def mulValue (fn : Nat) (a b : BitVec 64) : BitVec 64 :=
  match fn with
  | 0 => a * b
  | 1 => ((a.signExtend 128 * b.signExtend 128).extractLsb' 64 64)
  | _ => ((a.zeroExtend 128 * b.zeroExtend 128).extractLsb' 64 64)

/-- Table 3.22, divide functions 0 to 3: signed and unsigned quotient, signed and unsigned remainder. Division by zero gives all
ones as a quotient and the dividend as a remainder. -/
def divValue (fn : Nat) (a b : BitVec 64) : BitVec 64 :=
  match fn with
  | 0 => if b = 0 then BitVec.allOnes 64 else a.sdiv b
  | 1 => if b = 0 then BitVec.allOnes 64 else a.udiv b
  | 2 => if b = 0 then a else a.srem b
  | _ => if b = 0 then a else a.umod b

/-- The condition of a branch (Table 3.3). -/
def branchHolds (cond : Nat) (a b : BitVec 64) : Bool :=
  match cond with
  | 0 => a == 0
  | 1 => a != 0
  | 2 => a.msb
  | 3 => !a.msb
  | 4 => a == b
  | _ => true

/-- The address a branch at `pc` goes to: the displacement counts instructions of 8 bytes (R75; assumption log 21). -/
def branchTo (pc : Nat) (w : BitVec 64) : Nat :=
  (BitVec.ofNat 57 pc + 8 * (w.extractLsb' 0 32).signExtend 57).toNat

/-- Nothing inside the package waits to be settled: no ended transaction, no arrived packet, no collective send. -/
abbrev Block.Settled (b : Block) : Prop := b.xu.ended = [] ∧ b.xu.arrived = [] ∧ b.coll.outbox = []

/-- Requester `req` may change RW fields of the page: it is no job, and HDR_LOCK does not shut it out (R26, R39). -/
abbrev Block.MayWrite (b : Block) (pg : Page) (req : Requester) : Prop := req ≠ .job ∧ b.lockedOut pg req = false

/-- Every cache line that is clean holds what its stack holds, so its end changes no byte of memory (R152, R155), and no word of a line is
lost; the caches are in
canonical form. -/
abbrev Block.CachesAgree (b : Block) : Prop :=
  smWf {} b.mscs = true ∧ ∀ p : Fin 12, smWf none (b.msc p).lines = true ∧
    ∀ e ∈ (b.msc p).lines, ∀ l, e.2 = some l → (l.dirty = false → l.stale = []) ∧ l.bad = 0

/-- Memory and every list of units are in canonical form, so that equal contents are equal data. -/
abbrev Block.ListsCanonical (b : Block) : Prop :=
  b.ram.wf = true ∧ smWf {} b.pages = true ∧ smWf 0 b.regs = true ∧ smWf 0 b.logs = true ∧ smWf {} b.parts = true ∧
  smWf {} b.cores = true ∧ smWf {} b.slots = true ∧ smWf {} b.mscs = true ∧ smWf {} b.hbmcs = true ∧ smWf {} b.capcs = true ∧
  smWf {} b.mmus = true ∧ smWf {} b.syncs = true ∧ smWf {} b.links = true ∧ smWf 0 b.routes = true ∧ smWf {} b.engs = true ∧
  smWf {} b.queues = true ∧ smWf {} b.rhosts = true ∧ smWf {} b.helioPs = true ∧ smWf {} b.vregs = true ∧ smWf {} b.pcie = true

/-! Links. -/

/-- Link `n` holds no packet or flit that waits to leave or to be acknowledged. -/
abbrev Block.LinkEmpty (b : Block) (n : Nat) : Prop := (b.link n).retry = [] ∧ (b.link n).log = [] ∧ (b.link n).txq = []

/-- Besides, no packet that arrived on it waits to leave on another link. -/
abbrev Block.LinkUnused (b : Block) (n : Nat) : Prop := b.LinkEmpty n ∧ ∀ e ∈ b.links, ∀ t ∈ e.2.txq, t.src ≠ n

/-- Bytes [a, a + k) of a flit as a number (Table 9.5). -/
def flitField (bs : List Byte) (a k : Nat) : Nat := leNat (((bs.map (·.toNat)).drop a).take k)

/-- The flit's CRC-32 is right (R234). -/
def flitGood (bs : List Byte) : Bool := crc32 ((bs.map (·.toNat)).take 252) = flitField bs 252 4

/-! Vector instructions. -/

/-- Vector register `n` of a core takes the low 1,024 bits of `v`, the slot's flag word takes the flags `fl` as well, and the slot
goes on (R75, R128). -/
def Block.wroteV (b : Block) (p i sl n v fl : Nat) : Block :=
  (b.modCore p i fun k => { k with vregs := smPut 0 k.vregs n (v % 2 ^ 1024) }).modSlot p i sl fun t =>
    { t with flags := t.flags ||| fl }.executed

/-- An operation on each lane of a register in format `f`: the lanes packed from lane 0 on, the flags of all lanes. -/
def lanesOf (f : NFmt) (op : Nat → Nat × Nat) : Nat × Nat :=
  (vPack f.bits ((List.range (1024 / f.bits)).map fun k => (op k).1),
    ((List.range (1024 / f.bits)).map fun k => (op k).2).foldl (· ||| ·) 0)

/-- Lane `k` of a register's bits in format `f`. -/
def laneOf (f : NFmt) (v k : Nat) : Nat := v / 2 ^ (f.bits * k) % 2 ^ f.bits

/-- The signed value of a 32-bit lane. -/
def int32Of (c : Nat) : Int := (BitVec.ofNat 32 c).toInt

/-- An exact integer written to an INT32 lane (Table 4.6): out of range it wraps and raises WRAP, or saturates and raises SATD. -/
def int32Result (mode : OvMode) (v : Int) : Nat × Nat :=
  if -2 ^ 31 ≤ v ∧ v ≤ 2 ^ 31 - 1 then ((BitVec.ofInt 32 v).toNat, 0)
  else if mode = .wrap then ((BitVec.ofInt 32 v).toNat, 0x100)
  else ((BitVec.ofInt 32 (if v < 0 then -2 ^ 31 else 2 ^ 31 - 1)).toNat, 0x8)

/-! Runs. -/

/-- The state after `k` steps; a step that stops leaves the state where it stopped. -/
def State.after (s : State) : Nat → State
  | 0 => s
  | k + 1 =>
    match step s with
    | .next t => t.after k
    | _ => s

end Sys2Proof.Machine
end

