-- ==== Sys2Proof/Certificates/Slice0/Obligations.lean ====
section
/-! DEFINITION. What is claimed of the model: the statements for the provers. -/

open Sys2Proof Sys2Proof.Machine

/-- For every command c, every list of waiting commands and every block, a step of the state whose queue has c in front is exec of
c on the state that keeps the rest of the queue. With an empty queue the block idles (the model's choice, assumption log 101: a
tick of the clock is the command TICK). (95_what_each_step_holds.md) -/
def Obligations.StepRunsFrontCommand : Prop :=
∀ (c : Instr) (rest : List Instr) (b : Block), step ⟨c :: rest, b⟩ = exec c ⟨rest, b⟩ ∧ step ⟨[], b⟩ = .next ⟨[], b⟩

/-- Every command of the table, in every state, answers a next state whose queue is the one it was given.
(95_what_each_step_holds.md, R74, R24) -/
def Obligations.EveryCommandCompletes : Prop :=
∀ (c : Instr) (s : State), ∃ b : Block, exec c s = .next (s.withBlk b)

/-- An ALU, ALU with immediate, multiply or divide instruction that comes to its effect writes to the S register of bits 53:49 the
value of Table 3.22 on the S registers of bits 48:44 and 43:39 (or the sign-extended immediate), as 64-bit arithmetic that wraps;
the slot goes on at the next instruction; nothing else changes beyond what issue itself did. A write of S0 is discarded
(Slot.setS). (R69, R73, R75, Table 3.22) -/
def Obligations.ScalarResults : Prop :=
∀ (s : State) (p : Fin 12) (i : Fin 153) (sl : Fin 2) (w : BitVec 64),
    let e := s.blk.entered p i sl
    let t := s.blk.slot p i sl
    let a := t.word (wordField w 44 5)
    let b := t.word (wordField w 39 5)
    let imm := (w.extractLsb' 0 32).signExtend 64
    let put (v : BitVec 64) : Block :=
      e.modSlot p i sl fun t => (t.setS (wordField w 49 5) v.toNat).executed
    (s.blk.Runs p i sl w.toNat 0 0 → exec (.alu p i sl w) s = .next (s.withBlk (put (aluValue (wordField w 32 7) a b)))) ∧
    (s.blk.Runs p i sl w.toNat 0 1 →
      exec (.aluImmediate p i sl w) s = .next (s.withBlk (put (aluValue (wordField w 32 12) a imm)))) ∧
    (s.blk.Runs p i sl w.toNat 0 2 → exec (.multiply p i sl w) s = .next (s.withBlk (put (mulValue (wordField w 32 7) a b)))) ∧
    (s.blk.Runs p i sl w.toNat 0 3 → exec (.divide p i sl w) s = .next (s.withBlk (put (divValue (wordField w 32 7) a b))))

/-- A LOAD_CONSTANT that comes to its effect sign-extends bits 47:0 to 64 bits and writes them to the S register of bits 53:49
when bit 48 is 0 and to the A register of that number when it is 1; the slot goes on at the next instruction; nothing else
changes. In a slot whose register list is in canonical form, a read of S0 is zero, a write of S0 changes nothing, a write of
another register is read back modulo 2^64 and leaves every other register as it was. (R69, R73, R75, Table 3.1, Table 3.22) -/
def Obligations.LoadConstantAndSRegisters : Prop :=
(∀ (s : State) (p : Fin 12) (i : Fin 153) (sl : Fin 2) (w : BitVec 64), s.blk.Runs p i sl w.toNat 0 4 →
    let v := ((w.extractLsb' 0 48).signExtend 64).toNat
    exec (.loadConstant p i sl w) s = .next (s.withBlk ((s.blk.entered p i sl).modSlot p i sl fun t =>
      if w.getLsbD 48 then { t with aregs := smPut 0 t.aregs (wordField w 49 5) v }.executed
      else (t.setS (wordField w 49 5) v).executed))) ∧
  ∀ (t : Slot) (n m : Fin 32) (v : Nat), smWf 0 t.sregs = true →
    t.s 0 = 0 ∧ t.setS 0 v = t ∧ (n ≠ 0 → (t.setS n v).s n = v % 2 ^ 64) ∧ (m ≠ n → (t.setS n v).s m = t.s m) ∧
      smWf 0 (t.setS n v).sregs = true

/-- A branch goes to its target when its condition holds and to the next instruction otherwise; branch and link goes to its target
and writes the next instruction's address to the S register of bits 44:40; a jump goes to the low 57 bits of its S register. The
displacement is counted in instructions from the branch's own address, and a jump takes 57 bits of its register: the model's
choices (assumption log 21, 22). (R73, R75, Table 3.3, Table 3.22) -/
def Obligations.BranchesSetProgramCounter : Prop :=
∀ (s : State) (p : Fin 12) (i : Fin 153) (sl : Fin 2) (w : BitVec 64),
    let e := s.blk.entered p i sl
    let t := s.blk.slot p i sl
    let next := (t.pc + 8) % 2 ^ 57
    (s.blk.Runs p i sl w.toNat 1 0 →
      exec (.branch p i sl w) s = .next (s.withBlk (e.modSlot p i sl fun t => { t with
        pc := if branchHolds (wordField w 45 4) (t.word (wordField w 49 5)) (t.word (wordField w 40 5)) then branchTo t.pc w
              else next, wait := .none }))) ∧
    (s.blk.Runs p i sl w.toNat 1 1 →
      exec (.branchAndLink p i sl w) s = .next (s.withBlk (e.modSlot p i sl fun t =>
        { t.setS (wordField w 40 5) next with pc := branchTo t.pc w, wait := .none }))) ∧
    (s.blk.Runs p i sl w.toNat 1 2 →
      exec (.jump p i sl w) s = .next (s.withBlk (e.modSlot p i sl fun t =>
        { t with pc := (t.word (wordField w 49 5)).toNat % 2 ^ 57, wait := .none })))

/-- A LOAD that meets no physical error, no outstanding matrix or transfer extent and no poison, with all its bytes in the slot's
window, writes the bytes at A base plus the sign-extended offset, little-endian, zero-extended: 1, 2, 4 or 8 bytes to an S
register, 128 bytes to a V register. A STORE with all its bytes in the window and no outstanding extent there stores the low bytes
of an S register, or a whole V register, there, and the slot goes on; no register changes. One that leaves the window faults
WINDOW, DETAIL naming the first byte outside over 8, and reads or stores nothing. (R71, R75, R79, R90, Table 3.3, Table 3.22) -/
def Obligations.LoadAndStoreAccessCoreMemory : Prop :=
∀ (s : State) (p : Fin 12) (i : Fin 153) (sl : Fin 2) (w : BitVec 64),
    let e := s.blk.entered p i sl
    let n := if wordField w 42 3 = 4 then 128 else 2 ^ wordField w 42 3
    let t := s.blk.slot p i sl
    let a := (BitVec.ofNat 64 (t.a (wordField w 45 4)) + (w.extractLsb' 0 32).signExtend 64).toNat
    let v := if n = 128 then (s.blk.core p i).v (wordField w 49 5) else t.s (wordField w 49 5)
    (s.blk.Runs p i sl w.toNat 0 5 →
      (∀ x, e.outside p i sl a n = some x →
        exec (.load p i sl w .none) s = .next (s.withBlk (e.coreFault p i sl .window (x / 8 % 65536)))) ∧
      (e.outside p i sl a n = none → e.interlocked p i sl a n false = false → e.memPoisoned (coreBase p i + a) n = false →
        exec (.load p i sl w .none) s = .next (s.withBlk
          (if n = 128 then
            (e.modCore p i fun k => { k with vregs := smPut 0 k.vregs (wordField w 49 5) (leNat (e.memBytes (coreBase p i + a) 128)) }).modSlot
              p i sl Slot.executed
          else e.modSlot p i sl fun t => (t.setS (wordField w 49 5) (leNat (e.memBytes (coreBase p i + a) n))).executed)))) ∧
    (s.blk.Runs p i sl w.toNat 0 6 →
      (∀ x, e.outside p i sl a n = some x →
        exec (.store p i sl w) s = .next (s.withBlk (e.coreFault p i sl .window (x / 8 % 65536)))) ∧
      (e.outside p i sl a n = none → e.interlocked p i sl a n true = false →
        exec (.store p i sl w) s = .next (s.withBlk
          ((e.poke (coreBase p i + a) (leBytes n v)).modSlot p i sl Slot.executed))))

/-- VADD, VSUB, VMUL, VMIN, VMAX, VFMA, VABS, VNEG, VCMP and VSF that come to their effect write to the V register of bits 53:49,
lane by lane in the element format, the result of the lane operation on the lanes of Va, Vb and Vc, under the slot's overflow
modes; the lanes' flags are added to the slot's flag word; the slot goes on; nothing else changes. A result written with flags
sets those bits of that slot's flag word and clears none; every other slot's flag word is as before (slots in canonical form). In INT32
lanes VADD, VSUB, VMUL, VMIN, VMAX, VABS and VNEG compute the exact integer result of the signed lanes; a result outside -2^31 to 2^31-1
wraps modulo 2^32 and raises WRAP in WRAP mode, and is replaced by the nearest bound with SATD otherwise.
(R75, R83, R86, R118, R125, R128, Table 3.22, Table 4.6, Table 4.9) -/
def Obligations.VectorElementResults : Prop :=
(∀ (s : State) (p : Fin 12) (i : Fin 153) (sl : Fin 2) (w : BitVec 64),
    let e := s.blk.entered p i sl
    let t := s.blk.slot p i sl
    let f := vrFmt w.toNat
    let a := laneOf f ((s.blk.core p i).v (wordField w 44 5))
    let b := laneOf f ((s.blk.core p i).v (wordField w 39 5))
    let c := laneOf f ((s.blk.core p i).v (wordField w 34 5))
    let put (op : Nat → Nat × Nat) : State :=
      s.withBlk (e.wroteV p i sl (wordField w 49 5) (lanesOf f op).1 (lanesOf f op).2)
    let two (op : VBin) : State := put fun k => binElt op f t.fovf t.iovf (a k) (b k)
    (s.blk.Runs p i sl w.toNat 2 0x00 → exec (.vadd p i sl w) s = .next (two .add)) ∧
    (s.blk.Runs p i sl w.toNat 2 0x01 → exec (.vsub p i sl w) s = .next (two .sub)) ∧
    (s.blk.Runs p i sl w.toNat 2 0x02 → exec (.vmul p i sl w) s = .next (two .mul)) ∧
    (s.blk.Runs p i sl w.toNat 2 0x04 → exec (.vmin p i sl w) s = .next (two .min)) ∧
    (s.blk.Runs p i sl w.toNat 2 0x05 → exec (.vmax p i sl w) s = .next (two .max)) ∧
    (s.blk.Runs p i sl w.toNat 2 0x03 → exec (.vfma p i sl w) s = .next (put fun k => fmaElt f t.fovf (a k) (b k) (c k))) ∧
    (s.blk.Runs p i sl w.toNat 2 0x06 → exec (.vabs p i sl w) s = .next (put fun k => signElt false f t.fovf t.iovf (a k))) ∧
    (s.blk.Runs p i sl w.toNat 2 0x07 → exec (.vneg p i sl w) s = .next (put fun k => signElt true f t.fovf t.iovf (a k))) ∧
    (s.blk.Runs p i sl w.toNat 2 0x08 →
      exec (.vcmp p i sl w) s = .next (put fun k => cmpElt (wordField w 24 7) f t.fovf (a k) (b k))) ∧
    (s.blk.Runs p i sl w.toNat 2 0x13 →
      exec (.vsf p i sl w) s = .next (put fun k => specialElt (wordField w 24 7) (a k) t.fovf))) ∧
  (∀ (b : Block) (p : Fin 12) (i : Fin 153) (sl : Fin 2) (d v fl n : Nat), smWf {} b.slots = true →
    ((b.wroteV p i sl d v fl).slot p i sl).flags.testBit n = ((b.slot p i sl).flags.testBit n || fl.testBit n) ∧
    ∀ (p' : Fin 12) (i' : Fin 153) (sl' : Fin 2), (p', i', sl') ≠ (p, i, sl) →
      (b.wroteV p i sl d v fl).slot p' i' sl' = b.slot p' i' sl') ∧
  ∀ (fm im : OvMode) (a b : BitVec 32),
    let x := a.toInt
    let y := b.toInt
    binElt .add .int32 fm im a.toNat b.toNat = int32Result im (x + y) ∧
    binElt .sub .int32 fm im a.toNat b.toNat = int32Result im (x - y) ∧
    binElt .mul .int32 fm im a.toNat b.toNat = int32Result im (x * y) ∧
    binElt .min .int32 fm im a.toNat b.toNat = int32Result im (min x y) ∧
    binElt .max .int32 fm im a.toNat b.toNat = int32Result im (max x y) ∧
    signElt false .int32 fm im a.toNat = int32Result im |x| ∧
    signElt true .int32 fm im a.toNat = int32Result im (-x)

/-- VAND, VOR and VXOR work on the whole register; VSEL, VSHL, VSHR, VBCAST, VPERM and VINS write each lane as Table 3.22 says;
VEXT writes the lane that the function field names, zero-extended, to S[38:34]. None raises a flag; the slot goes on; nothing else
changes. (R75, R86, Table 3.22) -/
def Obligations.VectorMovesAndLogic : Prop :=
∀ (s : State) (p : Fin 12) (i : Fin 153) (sl : Fin 2) (w : BitVec 64),
    let e := s.blk.entered p i sl
    let f := vrFmt w.toNat
    let va := (s.blk.core p i).v (wordField w 44 5)
    let vb := (s.blk.core p i).v (wordField w 39 5)
    let vd := (s.blk.core p i).v (wordField w 49 5)
    let a := laneOf f va
    let b := laneOf f vb
    let c := laneOf f ((s.blk.core p i).v (wordField w 34 5))
    let x := (s.blk.slot p i sl).s (wordField w 34 5)
    let fn := wordField w 24 7
    let put (v : Nat) : State := s.withBlk (e.wroteV p i sl (wordField w 49 5) v 0)
    let each (op : Nat → Nat) : State := put (lanesOf f fun k => (op k, 0)).1
    (s.blk.Runs p i sl w.toNat 2 0x0A → exec (.vand p i sl w) s = .next (put (va &&& vb))) ∧
    (s.blk.Runs p i sl w.toNat 2 0x0B → exec (.vor p i sl w) s = .next (put (va ||| vb))) ∧
    (s.blk.Runs p i sl w.toNat 2 0x0C → exec (.vxor p i sl w) s = .next (put (va ^^^ vb))) ∧
    (s.blk.Runs p i sl w.toNat 2 0x09 → exec (.vsel p i sl w) s = .next (each fun k => if c k ≠ 0 then a k else b k)) ∧
    (s.blk.Runs p i sl w.toNat 2 0x0D →
      exec (.vshl p i sl w) s = .next (each fun k => (BitVec.ofNat 32 (a k) <<< (b k % 32)).toNat)) ∧
    (s.blk.Runs p i sl w.toNat 2 0x0E → exec (.vshr p i sl w) s = .next (each fun k =>
      if fn = 1 then ((BitVec.ofNat 32 (a k)).sshiftRight (b k % 32)).toNat else (BitVec.ofNat 32 (a k) >>> (b k % 32)).toNat)) ∧
    (s.blk.Runs p i sl w.toNat 2 0x0F → exec (.vbcast p i sl w) s = .next (each fun _ => x % 2 ^ f.bits)) ∧
    (s.blk.Runs p i sl w.toNat 2 0x14 → exec (.vperm p i sl w) s = .next (each fun k => a (b k % (1024 / f.bits)))) ∧
    (s.blk.Runs p i sl w.toNat 2 0x16 →
      exec (.vins p i sl w) s = .next (each fun k => if k = fn then x % 2 ^ f.bits else laneOf f vd k)) ∧
    (s.blk.Runs p i sl w.toNat 2 0x15 → exec (.vext p i sl w) s = .next (s.withBlk
      (e.modSlot p i sl fun t => (t.setS (wordField w 34 5) (a fn)).executed)))

/-- A reduction starts from lane 0 of Va and takes lanes 1, 2, ... in order, one rounding each; the result goes to lane 0 of the
destination and the other lanes are zero; flags are merged. A CVT writes the register that its function gives from Va, Vb and
S[38:34] under ACTL.FOVF, CVT_BLK and CVT_SFMT; function 0x0C also writes its scales to S[38:34]. The slot goes on. (R75, R125,
R127, R128, Table 3.22, Table 4.8) -/
def Obligations.VectorReductionsAndConversions : Prop :=
∀ (s : State) (p : Fin 12) (i : Fin 153) (sl : Fin 2) (w : BitVec 64),
    let e := s.blk.entered p i sl
    let t := s.blk.slot p i sl
    let f := vrFmt w.toNat
    let va := (s.blk.core p i).v (wordField w 44 5)
    let vb := (s.blk.core p i).v (wordField w 39 5)
    let fold (op : VBin) : State :=
      let r := ((List.range (1024 / f.bits)).drop 1).foldl (fun (acc : Nat × Nat) k =>
        let r := if f = .int32 then binInt op t.iovf acc.1 (laneOf f va k) else redFloat op f t.fovf acc.1 (laneOf f va k)
        (r.1, acc.2 ||| r.2)) (redFirst f t.fovf (laneOf f va 0))
      s.withBlk (e.wroteV p i sl (wordField w 49 5) r.1 r.2)
    (s.blk.Runs p i sl w.toNat 2 0x10 → exec (.vrsum p i sl w) s = .next (fold .add)) ∧
    (s.blk.Runs p i sl w.toNat 2 0x11 → exec (.vrmax p i sl w) s = .next (fold .max)) ∧
    (s.blk.Runs p i sl w.toNat 2 0x12 → exec (.vrmin p i sl w) s = .next (fold .min)) ∧
    (s.blk.Runs p i sl w.toNat 2 0x30 →
      let r := cvt (wordField w 24 7) (wordField w 31 3) t.fovf (8 * 2 ^ bits t.actl 5 2) (bit t.actl 7) va vb (t.s (wordField w 34 5))
      (∀ d fl, r = (d, none, fl) → exec (.cvtVec p i sl w) s = .next (s.withBlk (e.wroteV p i sl (wordField w 49 5) d fl))) ∧
      (∀ d sc fl, r = (d, some sc, fl) → exec (.cvtVec p i sl w) s = .next (s.withBlk
        ((e.modSlot p i sl fun t => t.setS (wordField w 34 5) sc).wroteV p i sl (wordField w 49 5) d fl))))

/-- NOP only goes on. RDSYS writes the value its selector names (0 to 3: logical core, job, slot, sidereal count). BPOST of the
primary slot with slot number 0 to 47 marks that batch slot valid and keeps the time of the first post. FLG.READ and FLG.CLEAR,
with no matrix instruction queued, write the flag word to S[53:49], FLG.CLEAR then clearing the flags of bits 10:0. ACTL.SET
writes a legal value to ACTL, ACTL.READ reads it. FRAME_END of the primary slot waits for the next frame, unless it ends the frame
of a partition that is behind; in the backfill slot it is ILLEGAL_INSTR. (R75, R76, R98, R130, Table 3.22, Table 4.11) -/
def Obligations.SystemInstructionResults : Prop :=
∀ (s : State) (p : Fin 12) (i : Fin 153) (sl : Fin 2) (w : BitVec 64),
    let e := s.blk.entered p i sl
    let t := s.blk.slot p i sl
    let r := wordField w 49 5
    let put (v : Nat) : State := s.withBlk (e.modSlot p i sl fun t => (t.setS r v).executed)
    (s.blk.Runs p i sl w.toNat 7 0x00 → exec (.nop p i sl w) s = .next (s.withBlk (e.modSlot p i sl Slot.executed))) ∧
    (s.blk.Runs p i sl w.toNat 7 0x01 →
      (wordField w 32 17 = 0 → exec (.rdsys p i sl w) s = .next (put t.lcore)) ∧
      (wordField w 32 17 = 1 → exec (.rdsys p i sl w) s = .next (put t.job)) ∧
      (wordField w 32 17 = 2 → exec (.rdsys p i sl w) s = .next (put sl)) ∧
      (wordField w 32 17 = 3 → exec (.rdsys p i sl w) s = .next (put s.blk.merid.count))) ∧
    (s.blk.Runs p i sl w.toNat 7 0x02 → sl = 0 → t.s r % 64 ≤ 47 →
      exec (.bpost p i sl w) s = .next (s.withBlk ((e.modCore p i fun k => { k with
        batchValid := setBit1 k.batchValid (t.s r % 64), batchPost := some (k.batchPost.getD s.blk.merid.count) }).modSlot
          p i sl Slot.executed))) ∧
    (s.blk.Runs p i sl w.toNat 7 0x10 → t.mq = [] → exec (.flgRead p i sl w) s = .next (put t.flags)) ∧
    (s.blk.Runs p i sl w.toNat 7 0x11 → t.mq = [] →
      exec (.flgClear p i sl w) s = .next (s.withBlk (e.modSlot p i sl fun t =>
        { t.setS r t.flags with
          flags := (BitVec.ofNat 32 t.flags &&& ~~~ BitVec.ofNat 32 (wordField w 0 11)).toNat }.executed))) ∧
    (s.blk.Runs p i sl w.toNat 7 0x12 → actlBad (t.s r % 2 ^ 32) = none →
      exec (.actlSet p i sl w) s = .next (s.withBlk (e.modSlot p i sl fun u => { u with actl := t.s r % 2 ^ 32 }.executed))) ∧
    (s.blk.Runs p i sl w.toNat 7 0x13 → exec (.actlRead p i sl w) s = .next (put t.actl)) ∧
    (s.blk.Runs p i sl w.toNat 5 0x3F →
      (sl = 1 → exec (.frameEnd p i sl w) s = .next (s.withBlk (e.coreFault p i sl .illegal 0x200))) ∧
      (sl = 0 → s.blk.merid.framesRun = false ∨ (s.blk.part p).behind = 0 →
        exec (.frameEnd p i sl w) s = .next (s.withBlk (e.modSlot p i 0 fun t => { t with wait := .frameEnd, waitWord := w.toNat }))))

/-- A word of any instruction row whose fields are not legal, and a word of a reserved class or opcode, in a slot that can issue,
fault precisely: the slot stops where it is, with every register, its flags and its program counter as before, all of memory as
before when no Eyepiece traces, and the core's fault record (where none is held for the slot) names ILLEGAL_INSTR and the lowest
bit of the highest offending field. Which fields are named, what a run of zero bits counts as and which conditional fields must be
zero are the model's readings (assumption log 128, 212), and so is that a record held for the other slot alone gives way
(assumption log 187). (R74, R101, R470, Table 3.13) -/
def Obligations.IllegalWordFaultsPrecisely : Prop :=
∀ (s : State) (p : Fin 12) (i : Fin 153) (sl : Fin 2) (w : BitVec 64) (d : Nat) (ev : SramEvent) (c : Instr)
      (o : Nat × Nat), (c, o) ∈ ([(.alu p i sl w, (0, 0x00)), (.aluImmediate p i sl w, (0, 0x01)), (.multiply p i sl w, (0, 0x02)),
      (.divide p i sl w, (0, 0x03)), (.loadConstant p i sl w, (0, 0x04)), (.load p i sl w ev, (0, 0x05)),
      (.store p i sl w, (0, 0x06)), (.branch p i sl w, (1, 0x00)), (.branchAndLink p i sl w, (1, 0x01)), (.jump p i sl w, (1, 0x02)),
      (.vadd p i sl w, (2, 0x00)), (.vsub p i sl w, (2, 0x01)), (.vmul p i sl w, (2, 0x02)), (.vfma p i sl w, (2, 0x03)),
      (.vmin p i sl w, (2, 0x04)), (.vmax p i sl w, (2, 0x05)), (.vabs p i sl w, (2, 0x06)), (.vneg p i sl w, (2, 0x07)),
      (.vcmp p i sl w, (2, 0x08)), (.vsel p i sl w, (2, 0x09)), (.vand p i sl w, (2, 0x0A)), (.vor p i sl w, (2, 0x0B)),
      (.vxor p i sl w, (2, 0x0C)), (.vshl p i sl w, (2, 0x0D)), (.vshr p i sl w, (2, 0x0E)), (.vbcast p i sl w, (2, 0x0F)),
      (.vrsum p i sl w, (2, 0x10)), (.vrmax p i sl w, (2, 0x11)), (.vrmin p i sl w, (2, 0x12)), (.vsf p i sl w, (2, 0x13)),
      (.vperm p i sl w, (2, 0x14)), (.vext p i sl w, (2, 0x15)), (.vins p i sl w, (2, 0x16)), (.cvtVec p i sl w, (2, 0x30)),
      (.nop p i sl w, (7, 0x00)), (.rdsys p i sl w, (7, 0x01)), (.bpost p i sl w, (7, 0x02)), (.flgRead p i sl w, (7, 0x10)),
      (.flgClear p i sl w, (7, 0x11)), (.actlSet p i sl w, (7, 0x12)), (.actlRead p i sl w, (7, 0x13)),
      (.frameEnd p i sl w, (5, 0x3F)), (.mmWs p i sl w, (3, 0x00)), (.mmWt p i sl w, (3, 0x01)), (.mmOs p i sl w, (3, 0x02)),
      (.mmPld p i sl w, (3, 0x03)), (.mmPrel p i sl w, (3, 0x04)), (.mmWait p i sl w, (3, 0x05)), (.mmBatch p i sl w, (3, 0x06)),
      (.mmTdld p i sl w, (3, 0x07)), (.mmTdst p i sl w, (3, 0x08)), (.xfPost p i sl w, (4, 0x00)), (.xfWait p i sl w, (4, 0x01)),
      (.xfPair p i sl w, (4, 0x02)), (.xfSwap p i sl w, (4, 0x03)), (.xfStat p i sl w, (4, 0x04)), (.fence p i sl w, (5, 0x00)),
      (.ctrAdd p i sl w, (5, 0x01)), (.ctrSub p i sl w, (5, 0x02)), (.ctrWait p i sl w, (5, 0x03)), (.ctrRead p i sl w, (5, 0x04)),
      (.ctrSet p i sl w, (5, 0x05)), (.barInit p i sl w, (5, 0x06)), (.barArrive p i sl w, (5, 0x07)),
      (.barWait p i sl w, (5, 0x08)), (.barSync p i sl w, (5, 0x09)), (.amo p i sl w, (5, 0x0A)), (.csLaunch p i sl w, (6, 0x00)),
      (.csTake p i sl w, (6, 0x01)), (.csExpect p i sl w, (6, 0x02)), (.csSend p i sl w, (6, 0x03)), (.csRel p i sl w, (6, 0x04)),
      (.csNext p i sl w, (6, 0x05)), (.csEnd p i sl w, (6, 0x06)), (.csVote p i sl w, (6, 0x07)), (.csVwait p i sl w, (6, 0x08))] :
      List (Instr × Nat × Nat)) →
    s.blk.boot.power = .on → s.blk.canIssue p i sl = true → illegalField w.toNat = some d →
    iClass w.toNat = o.1 ∧ iOp w.toNat = o.2 ∨ 8 ≤ iClass w.toNat ∨ encRow (iClass w.toNat) (iOp w.toNat) w.toNat = none →
    smWf {} s.blk.slots = true → smWf {} s.blk.cores = true →
    ∃ b : Block, exec c s = .next (s.withBlk b) ∧
      b.slot p i sl = { s.blk.slot p i sl with stop := .fault, wait := .none } ∧
      (s.blk.causeSet (.core p i) sl = false → (b.core p i).faultCode = 1 ∧ (b.core p i).faultDetail = d % 65536 ∧
        (b.core p i).faultPc = (s.blk.slot p i sl).pc ∧ (b.core p i).faultSlot = sl) ∧
      (b.core p i).vregs = (s.blk.core p i).vregs ∧
      (bit (s.blk.reg .eyep 0x040) 0 = false → b.ram = s.blk.ram)

/-- ALU, ALU_IMMEDIATE, MULTIPLY, DIVIDE, LOAD_CONSTANT, BRANCH, BRANCH_AND_LINK, JUMP, NOP and ACTL_READ leave every other slot
of every core, every vector register, the slot's flags, ACTL, tile descriptors and queue, every sync object, transfer engine, link
and stored register word as they were; with no Eyepiece tracing, every byte of memory too. (R69, R75, R80) -/
def Obligations.RegisterInstructionsLeaveTheRest : Prop :=
∀ (s : State) (p : Fin 12) (i : Fin 153) (sl : Fin 2) (w : BitVec 64) (c : Instr) (o : Nat × Nat),
    (c, o) ∈ ([(.alu p i sl w, (0, 0)), (.aluImmediate p i sl w, (0, 1)), (.multiply p i sl w, (0, 2)), (.divide p i sl w, (0, 3)),
      (.loadConstant p i sl w, (0, 4)), (.branch p i sl w, (1, 0)), (.branchAndLink p i sl w, (1, 1)), (.jump p i sl w, (1, 2)),
      (.nop p i sl w, (7, 0)), (.actlRead p i sl w, (7, 0x13))] : List (Instr × Nat × Nat)) →
    s.blk.Runs p i sl w.toNat o.1 o.2 → smWf {} s.blk.slots = true →
    ∃ b : Block, exec c s = .next (s.withBlk b) ∧
      (∀ (p' : Fin 12) (i' : Fin 153) (sl' : Fin 2), (p', i', sl') ≠ (p, i, sl) → b.slot p' i' sl' = s.blk.slot p' i' sl') ∧
      (let t := s.blk.slot p i sl
       let t' := b.slot p i sl
       t'.flags = t.flags ∧ t'.actl = t.actl ∧ t'.tds = t.tds ∧ t'.mq = t.mq ∧ t'.pairs = t.pairs ∧ t'.amos = t.amos ∧
         t'.job = t.job ∧ t'.stop = t.stop) ∧
      b.cores = s.blk.cores ∧ b.syncs = s.blk.syncs ∧ b.regs = s.blk.regs ∧ b.engs = s.blk.engs ∧ b.links = s.blk.links ∧
      b.merid = s.blk.merid ∧
      (bit (s.blk.reg .eyep 0x040) 0 = false → ∀ a n, b.memBytes a n = s.blk.memBytes a n ∧ b.memPoisoned a n = s.blk.memPoisoned a n)

/-- A fetch miss of a slot that can issue, on a line not held, whose page is in this package, accessible and not poisoned, leaves
the line's 64 bytes in the instruction cache. BACKFILL_SWITCH starts a switch when R80's conditions hold and counts it;
BACKFILL_SWITCH_BACK, when the primary's wait can end and the backfill slot is at a boundary, starts the switch back;
SWITCH_COMPLETE saves the vector registers to the outgoing slot's image, restores the incoming slot's, and that slot runs. (R72,
R79, R80, R81, Table 3.13) -/
def Obligations.FetchAndSlotSwitch : Prop :=
∀ (s : State) (p : Fin 12) (i : Fin 153), s.blk.boot.power = .on →
    (∀ (sl : Fin 2) g base n wr x bs b b', s.blk.canIssue p i sl = true →
      ((s.blk.core p i).icache.any fun y => y.slot = sl.val && y.line = (s.blk.slot p i sl).pc / 64) = false →
      s.blk.translate p sl none ((s.blk.slot p i sl).pc / 64 * 64) false true = (.package g base n wr x, b) →
      b.isSelf g = true → b.canAccess (base + (s.blk.slot p i sl).pc / 64 * 64 % n) 64 = true →
      b.memRead (base + (s.blk.slot p i sl).pc / 64 * 64 % n) 64 .normal .none = (bs, false, b') →
      exec (.instructionFetchMiss p i sl false .none) s = .next (s.withBlk (b'.modCore p i fun k =>
        { k with icache := icacheFill k.icache ⟨sl, (s.blk.slot p i sl).pc / 64, leNat bs⟩ }))) ∧
    ((s.blk.core p i).ctx = .primary → s.blk.bfOn p i = true → (s.blk.slot p i 1).bound = true →
      (s.blk.slot p i 1).stop = .running → (s.blk.slot p i 0).yields = true → (s.blk.core p i).inReset = false →
      (s.blk.core p i).halted = false →
      (smGet false (s.blk.part p).patrolOn (i / 17) = true → smGet 0 (s.blk.part p).patrolNext (i / 17) ≠ i % 17) →
      exec (.backfillSwitch p i) s = .next (s.withBlk
        ((s.blk.modCore p i fun k => { k with ctx := .switching true }).log (.core p i) 5))) ∧
    ((s.blk.core p i).ctx = .backfill → (s.blk.slot p i 0).bound = true → (s.blk.slot p i 0).stop = .running →
      (s.blk.slot p i 0).wait = .none → ((s.blk.slot p i 1).mq.any fun e => e.inPass && decide (e.held = [])) = false →
      exec (.backfillSwitchBack p i) s = .next (s.withBlk
        (((s.blk.bfStop p i).modCore p i fun k => { k with ctx := .switching false }).log (.core p i) 6))) ∧
    ((s.blk.core p i).ctx = .switching true → exec (.switchComplete p i) s = .next (s.withBlk
      (((s.blk.saveV p i 0).restoreV p i 1).modCore p i fun k => { k with ctx := .backfill }))) ∧
    ((s.blk.core p i).ctx = .switching false → exec (.switchComplete p i) s = .next (s.withBlk
      (((s.blk.saveV p i 1).restoreV p i 0).modCore p i fun k => { k with ctx := .primary })))

/-- MM.WS, MM.WT, MM.OS, MM.PLD, MM.PREL and MM.BATCH on a core that is no comm core, with fewer than four entries queued and no
precise fault, enter the slot's queue as one entry that holds the word and the four tile descriptors as captured at issue, behind
what is queued, and the slot goes on. MM.WAIT goes on when no more entries are queued than its number and waits otherwise. MM.TDLD
loads a tile descriptor from 16 bytes of core memory and MM.TDST stores one there. That MM.PREL enters the queue and that MM.TDLD
and MM.TDST act at issue is the model's choice (assumption log 132), and so are the checks made of MM.PLD (log 28). (R69, R88, R89,
R90, R98, R264, Table 3.7) -/
def Obligations.MatrixInstructionsEnterTheQueue : Prop :=
∀ (s : State) (p : Fin 12) (i : Fin 153) (sl : Fin 2) (w : BitVec 64),
    s.blk.isComm p i = false →
    let e := s.blk.entered p i sl
    let t := s.blk.slot p i sl
    let td (lo : Nat) : Nat := smGet 0 t.tds (wordField w lo 4)
    let entry (op : MOp) : MEntry :=
      { op := op, word := w.toNat, tda := td 50, tdb := td 46, tdc := td 42, tdi := td 38, srs := t.s (wordField w 17 5),
        thresh := bits (s.blk.reg (.mxe p i) 0x040) 8 8, runLen := bits (s.blk.reg (.mxe p i) 0x040) 0 4,
        planes := s.blk.planesOf p i sl }
    let enters (c : Instr) (op : MOp) : Prop := ∃ b : Block, exec c s = .next (s.withBlk b) ∧
      b.slots = (e.modSlot p i sl fun t => { t with mq := headMark s.blk.merid.count (t.mq ++ [entry op]) }.executed).slots ∧
      b.cores = s.blk.cores ∧ b.regs = s.blk.regs ∧ b.syncs = s.blk.syncs
    (t.mq.length < 4 →
      (s.blk.Runs p i sl w.toNat 3 0x00 → e.matrixFault p i sl (entry .ws) = none → enters (.mmWs p i sl w) .ws) ∧
      (s.blk.Runs p i sl w.toNat 3 0x01 → e.matrixFault p i sl (entry .wt) = none → enters (.mmWt p i sl w) .wt) ∧
      (s.blk.Runs p i sl w.toNat 3 0x02 → e.matrixFault p i sl (entry .os) = none → enters (.mmOs p i sl w) .os) ∧
      (s.blk.Runs p i sl w.toNat 3 0x06 → e.matrixFault p i sl (entry .batch) = none → enters (.mmBatch p i sl w) .batch) ∧
      (s.blk.Runs p i sl w.toNat 3 0x03 → e.pldFault p i sl (entry .pld) = none → enters (.mmPld p i sl w) .pld) ∧
      (s.blk.Runs p i sl w.toNat 3 0x04 → enters (.mmPrel p i sl w) .prel)) ∧
    (s.blk.Runs p i sl w.toNat 3 0x05 → exec (.mmWait p i sl w) s = .next (s.withBlk
      (if t.mq.length ≤ wordField w 51 3 then (e.matrixTrace p i sl).modSlot p i sl Slot.executed
       else e.modSlot p i sl fun t => { t with wait := .mmWait, waitWord := w.toNat }))) ∧
    (let a := (BitVec.ofNat 64 (t.a (wordField w 46 4)) + (w.extractLsb' 0 32).signExtend 64).toNat
     a % 16 = 0 → a + 16 ≤ 0x80000 → e.outside p i sl a 16 = none →
      (s.blk.Runs p i sl w.toNat 3 0x07 → e.memPoisoned (coreBase p i + a) 16 = false →
        exec (.mmTdld p i sl w) s = .next (s.withBlk ((e.matrixTrace p i sl).modSlot p i sl fun t =>
          { t with tds := smPut 0 t.tds (wordField w 50 4) (leNat (e.memBytes (coreBase p i + a) 16)) }.executed))) ∧
      (s.blk.Runs p i sl w.toNat 3 0x08 → ((e.listsOf p i sl).any fun l => meets a 16 (l.base, 64 * l.count)) = false → exec (.mmTdst p i sl w) s = .next (s.withBlk
        (((e.matrixTrace p i sl).poke (coreBase p i + a) (leBytes 16 (smGet 0 t.tds (wordField w 50 4)))).modSlot p i sl Slot.executed))))

/-- With no pass under way and the core not in reset, a MATRIX_PASS_START of the primary slot, or of a running backfill slot while
the primary queue is empty, begins the next pass of the instruction at the head of the slot's queue at rung 0, deciding on retained
planes at an instruction's first pass, and the other slot's queue loses what it had read ahead; an MM.PREL alone there releases the
planes, and so does an MM.PLD whose B does not fit, which is counted. A MATRIX_ATTEMPT_END of a compute instruction holds what the
attempt yields and counts its cycles in the engine's BUSY counter: where an element is still over threshold below the ladder's top
the same pass goes on at the next rung, else the pass's block is drained and the next pass, if there is one, is due; of an MM.PLD it
retains the planes under its tag, but for planes taken or given up meanwhile, and ends its array work with the flags of the B that it
narrowed (the model's choice, assumption logs 200, 201). A MATRIX_COMPLETE of a slot whose oldest instruction has ended its array
work (an MM.PREL next in turn in a free array acts first) reports its escalation, merges its flags into the slot's flag word and
frees the entry. Where bubbles take every cycle of the slot, no pass starts and no attempt ends. That MM.PREL acts at its turn
(assumption log 132), that operands are read as an attempt ends and the other slot's read-ahead is lost (log 32), and that BUSY
counts by attempt, the load cycles of MM.PLD among them (log 33), are the model's readings. (R81, R82, R90, R93, R95, R96, R128,
R141, R142, R342) -/
def Obligations.MatrixEngineRunsPasses : Prop :=
∀ (s : State) (p : Fin 12) (i : Fin 153) (sl : Fin 2) (e : MEntry) (rest : List MEntry), s.blk.boot.power = .on →
    smWf {} s.blk.cores = true → smWf {} s.blk.slots = true →
    let b := s.blk
    let busy := ((b.slot p i 0).mq ++ (b.slot p i 1).mq).any (·.inPass)
    let b0 := if busy then b else b.skipIdle p i sl 1
    let released (b : Block) : Block :=
      (b.modSlot p i sl Slot.release).modEntry p i sl 0 fun e => { e with arrayDone := true }
    (b.bubbled p i sl = true → exec (.matrixPassStart p i sl) s = .next s ∧ exec (.matrixAttemptEnd p i sl) s = .next s) ∧
    (b.bubbled p i sl = false → busy = false → (b.core p i).inReset = false → sl = 0 ∨ ((b.core p i).ctx = .backfill ∧ b.bfOn p i = true ∧ (b.slot p i 0).mq = []) →
      (b.slot p i sl).mq = e :: rest → e.arrayDone = false →
      (e.op ≠ .prel → (e.op = .pld → e.bPlanes ≤ e.planes) → (e.op = .batch → e.launched = true) →
        let b1 := if e.pass = 0 ∧ (e.started = false ∨ e.op = .batch) then b.firstPass p i sl 0 e else b
        exec (.matrixPassStart p i sl) s = .next (s.withBlk
          (((if e.restart ∧ sl = 1 then b1.log (.mxe p i) 21 else b1).modSlot p i (1 - sl.val) fun t =>
            { t with mq := t.mq.map fun e => { e with pre := [] } }).modEntry p i sl 0 fun e =>
              let e := { e with started := true, inPass := true, rung := 0, held := [], heldPois := [], rungs := [] }
              if e.restart then { e with restart := false, pre := [] } else { e with tried := 0, seenA := [], seenB := [] }))) ∧
      (e.op = .prel → rest = [] → exec (.matrixPassStart p i sl) s = .next (s.withBlk (released b))) ∧
      (e.op = .pld → e.planes < e.bPlanes → rest = [] →
        exec (.matrixPassStart p i sl) s = .next (s.withBlk (released (b.log (.mxe p i) 3))))) ∧
    (b.bubbled p i sl = false → (b.slot p i sl).mq = e :: rest → e.inPass = true →
      (e.op ≠ .pld →
        let a := b.attemptOf p i sl e
        let top := e.ladder.length - 1
        let rungs := settleRungs e.rungs a.ovr e.rung top
        let unread (x : MEntry) : MEntry := { x with pre := [], preBytes := [], prePois := [] }
        ∃ (b' b1 : Block) (e0 e' : MEntry) (rest' : List MEntry), exec (.matrixAttemptEnd p i sl) s = .next (s.withBlk b') ∧
          (b'.core p i).busy = (b.core p i).busy + e.cycles e.pass e.rung ∧ (b'.slot p i sl).mq = e' :: rest' ∧
          rest'.map unread = rest.map unread ∧
          (∀ n, (e.flags ||| a.flags ||| a.sa.flags ||| a.sb.flags).testBit n = true → e'.flags.testBit n = true) ∧
          (rungs.any (·.isNone) = true → e'.inPass = true ∧ e'.pass = e.pass ∧ e'.rung = e.rung + 1 ∧
            e'.held = e.held ++ [a.codes] ∧ e'.rungs = rungs ∧ rest' = rest) ∧
          (rungs.any (·.isNone) = false → e'.inPass = false ∧ e'.pass = e.pass + 1 ∧ e'.rung = 0 ∧
            e'.arrayDone = decide (e.pass + 1 = e.passes) ∧
            e0 = { e with flags := e0.flags, repeated := e0.repeated, overEv := e0.overEv, topEv := e0.topEv, seenA := e0.seenA,
                          seenB := e0.seenB, tried := e0.tried, held := e.held ++ [a.codes], heldPois := e.heldPois ++ [a.pois],
                          rungs := rungs } ∧
            (bit (b.reg .eyep 0x040) 0 = false → b1.ram = b.ram) ∧ b1.tiers = b.tiers ∧
            b'.ram = (b1.drainPass p i e0 (!(e.ladder.getD 0 (.bf16, .bf16)).1.isFloat)).1.ram)) ∧
      (e.op = .pld → ∃ (b' : Block) (fl : Nat), exec (.matrixAttemptEnd p i sl) s = .next (s.withBlk b') ∧
        (b'.core p i).busy = (b.core p i).busy + 48 * e.bPlanes ∧ (bit (b.reg .eyep 0x040) 0 = false → fl = b.pldFlags p i e) ∧
        (b'.slot p i sl).mq = { e with inPass := false, arrayDone := true, flags := e.flags ||| fl } :: rest ∧
        (e.bPlanes ≤ e.planes → e.lost = false → (b'.slot p i sl).retTag = some e.tag ∧ (b'.slot p i sl).retPlanes = e.bPlanes) ∧
        (e.bPlanes ≤ e.planes → e.lost = true → (b'.slot p i sl).retTag = (b.slot p i sl).retTag) ∧
        (e.planes < e.bPlanes → (b'.slot p i sl).retTag = none))) ∧
    (b0.bubbled p i sl = false → (b0.slot p i sl).mq = e :: rest → e.arrayDone = true → exec (.matrixComplete p i sl) s = .next (s.withBlk
      ((b0.escReport p i sl e).modSlot p i sl fun x =>
        { x with flags := x.flags ||| e.flags, mq := headMark b.merid.count rest })))

/-- With an unlaunched MM.BATCH at the head of the primary queue, BATCH_LAUNCH with all 48 slots valid and BATCH_DEADLINE once the
count has reached the later of the head frame and the first post's frame plus DEADLINE take and clear the valid mask, write it to
the S register that MASKD names, and launch the instruction; a partial batch is counted and raises its cause first; with nothing
posted the instruction ends with mask 0 and is counted. (R98) -/
def Obligations.BatchAssemblerLaunches : Prop :=
∀ (s : State) (p : Fin 12) (i : Fin 153) (e : MEntry) (rest : List MEntry), s.blk.boot.power = .on →
    (s.blk.slot p i 0).mq = e :: rest → e.op = .batch → e.launched = false →
    let v := (s.blk.core p i).batchValid
    let take (b : Block) : Block :=
      (b.modCore p i fun c => { c with batchValid := 0, batchPost := none }).modSlot p i 0 fun x =>
        { x.setS (bits e.word 3 5) v with mq := { e with launched := true, mask := v, arrayDone := decide (v = 0) } :: rest }
    (v = 2 ^ 48 - 1 → exec (.batchLaunch p i) s = .next (s.withBlk (take s.blk))) ∧
    (Nat.max e.headFrame ((s.blk.core p i).batchPost.getD 0) + s.blk.fld (.mxe p i) 0x044 0 8 ≤ s.blk.merid.count →
      (v = 0 → exec (.batchDeadline p i) s = .next (s.withBlk (take (s.blk.log (.mxe p i) 6)))) ∧
      (v = 2 ^ 48 - 1 → exec (.batchDeadline p i) s = .next (s.withBlk (take s.blk))) ∧
      (v ≠ 0 → v ≠ 2 ^ 48 - 1 → exec (.batchDeadline p i) s = .next (s.withBlk
        (take ((s.blk.log (.mxe p i) 5).raise (.mxe p i) 1)))))

/-- An access of at most one 128-byte line that meets no physical error, at a stack in service or a capacity device in service, while
every clean cache line agrees with its stack, has the effect on memory of a plain write at its home whatever its cache hint and
whatever the cache holds; a read that meets no poison and is no LAST_USE read of a full line leaves memory as it was and delivers the
bytes at the home. (R149, R153, R155, R159, R163, R168, Table 6.2) -/
def Obligations.MemoryAccessesReachTheirHome : Prop :=
∀ (s : State) (p : Fin 12) (d : Fin 16) (loc : BitVec 36) (len : BitVec 12) (n : BitVec 8) (hint : BitVec 2) (data : List Byte)
      (pois : Bool), s.blk.boot.power = .on → s.blk.CachesAgree →
    let bs (k : Nat) : List Nat := (data.map BitVec.toNat ++ List.replicate k 0).take k
    (bit s.blk.tiers.stackOos p = false → 0 < len.toNat → loc.toNat % 128 + len.toNat ≤ 128 → loc.toNat + len.toNat ≤ stackBytes →
      (∃ b : Block, exec (.mscAccess p loc len true hint data pois .none) s = .next (s.withBlk b) ∧
        b.ram = s.blk.ram.write (p * stackBytes + loc.toNat) (bs len.toNat) pois) ∧
      (s.blk.ram.poisoned (p * stackBytes + loc.toNat) len.toNat = false → hint ≠ 3 ∨ len.toNat < 128 →
        ∃ b : Block, exec (.mscAccess p loc len false hint data pois .none) s = .next (s.withBlk b) ∧ b.ram = s.blk.ram ∧
          b.out.head? = some (.memData (p * stackBytes + loc.toNat) (s.blk.ram.bytes (p * stackBytes + loc.toNat) len.toNat) false))) ∧
    (bit s.blk.tiers.capIn d = true → loc.toNat % 4096 < 3968 → 0 < n.toNat → loc.toNat % 128 + n.toNat ≤ 128 →
      (∃ b : Block, exec (.capacityAccess d loc n true data pois .none) s = .next (s.withBlk b) ∧
        b.ram = s.blk.ram.write (2 ^ 40 + d * 2 ^ 36 + loc.toNat) (bs n.toNat) pois) ∧
      (s.blk.ram.poisoned (2 ^ 40 + d * 2 ^ 36 + loc.toNat) n.toNat = false →
        ∃ b : Block, exec (.capacityAccess d loc n false data pois .none) s = .next (s.withBlk b) ∧ b.ram = s.blk.ram ∧
          b.out.head? = some (.memData (2 ^ 40 + d * 2 ^ 36 + loc.toNat)
            (s.blk.ram.bytes (2 ^ 40 + d * 2 ^ 36 + loc.toNat) n.toNat) false)))

/-- For a write of bytes inside one protected unit of a memory in canonical form: an unpoisoned write to an unmarked unit, or one
that covers a marked unit, stores each byte, leaves every other byte and clears the unit's marker; an unpoisoned partial write to
a marked unit changes nothing; a poisoned write makes every byte of the unit read zero and marks it. The canonical form is kept
and no other unit's marker changes. (R168) -/
def Obligations.PoisonMarkersFollowWrites : Prop :=
∀ (r : Ram) (a u : Nat) (bs : List Nat) (pois : Bool), r.wf = true → 0 < bs.length → u % unitSize a = 0 → u ≤ a →
    a + bs.length ≤ u + unitSize a → unitSize u = unitSize a →
    let r' := r.write a bs pois
    let full := decide (u = a) && decide (bs.length = unitSize a)
    r'.wf = true ∧ (∀ v, v ≠ u → smGet false r'.poison v = smGet false r.poison v) ∧
    (pois = false → smGet false r.poison u = false ∨ full = true →
      (∀ k, k < bs.length → smGet 0 r'.mem (a + k) = BitVec.ofNat 8 (bs.getD k 0)) ∧
      (∀ x, x < a ∨ a + bs.length ≤ x → smGet 0 r'.mem x = smGet 0 r.mem x) ∧ smGet false r'.poison u = false) ∧
    (pois = false → smGet false r.poison u = true → full = false → r' = r) ∧
    (pois = true → smGet false r'.poison u = true ∧ (∀ x, u ≤ x → x < u + unitSize a → smGet 0 r'.mem x = 0) ∧
      (∀ x, x < u ∨ u + unitSize a ≤ x → smGet 0 r'.mem x = smGet 0 r.mem x))

/-- MSC_ACCESS, CAPACITY_ACCESS, KEEP_RELEASE, MSC_FLUSH, FLUSH_DONE, SCRUB_PASS and STORE, on every operand, with every physical
error and in every state whose memory list is in canonical form (addresses rising, no entry equal to what an unlisted address
reads as), answer a state whose memory is in canonical form. (R149, R163, R168, R169) -/
def Obligations.MemoryCommandsKeepCanonicalForm : Prop :=
∀ (s : State) (c : Instr), s.blk.ram.wf = true →
    ((∃ p loc len w h data po ev, c = .mscAccess p loc len w h data po ev) ∨
      (∃ d addr len w data po ev, c = .capacityAccess d addr len w data po ev) ∨ (∃ p r, c = .keepRelease p r) ∨
      (∃ p r, c = .mscFlush p r) ∨ (∃ p, c = .flushDone p) ∨ (∃ cap n evs, c = .scrubPass cap n evs) ∨
      (∃ p i sl w, c = .store p i sl w)) →
    ∃ b : Block, exec c s = .next (s.withBlk b) ∧ b.ram.wf = true

/-- From every state whose memory and lists of units are in canonical form (keys rising, no entry equal to what an unlisted key reads
as), a step answers a state in which they are so, whatever command is in front, with every operand and every physical error: the premise
of the statements about single commands is an invariant of the machine. (95_what_each_step_holds.md) -/
def Obligations.StepsKeepListsCanonical : Prop :=
∀ s : State, s.blk.ListsCanonical → ∃ t : State, step s = .next t ∧ t.blk.ListsCanonical

/-- KEEP_RELEASE clears the keep mark of every line and leaves the lines valid. MSC_FLUSH of an idle cache sets FLUSH and changes
no byte of memory. FLUSH_DONE of a flush under way clears FLUSH and raises its cause. SCRUB_PASS that meets nothing, with HOURS
not 0, is counted and raises SCRUB_DONE. IMAP_NEXT_WRITE of a legal new mode sets NEXT and owes the Almanac a record; a write of
mode 3, or of mode 2 with a stack out of service, clamps to 0. (R154, R156, R161, R169, R182, R183) -/
def Obligations.CacheAndScrubCommands : Prop :=
∀ (s : State) (p : Fin 12) (d : Fin 16) (req : Requester) (v : BitVec 2), s.blk.boot.power = .on → req ≠ .job →
    exec (.keepRelease p req) s = .next (s.withBlk (s.blk.modMsc p fun m =>
      { m with lines := smMapVals none m.lines fun _ l => l.map fun x => { x with keep := false } })) ∧
    (smWf {} s.blk.mscs = true → (s.blk.msc p).flushing = false → ∃ b : Block, exec (.mscFlush p req) s = .next (s.withBlk b) ∧
      (b.msc p).flushing = true ∧ b.ram = s.blk.ram) ∧
    ((s.blk.msc p).flushing = true →
      exec (.flushDone p) s = .next (s.withBlk ((s.blk.modMsc p fun m => { m with flushing := false }).raise (.msc p) 1))) ∧
    (s.blk.fld (.hbmc p) 0x044 0 8 ≠ 0 → exec (.scrubPass false ⟨p, by omega⟩ []) s =
      .next (s.withBlk ((s.blk.log (.hbmc p) 6).raise (.hbmc p) 3))) ∧
    (s.blk.fld (.capc d) 0x040 0 8 ≠ 0 → exec (.scrubPass true d []) s =
      .next (s.withBlk ((s.blk.log (.capc d) 6).raise (.capc d) 2))) ∧
    (s.blk.MayWrite (.hbmc p) req → v ≠ 3 → (v = 2 → s.blk.tiers.stackOos % 4096 = 0) → v.toNat ≠ s.blk.tiers.imapNext →
      exec (.imapNextWrite p req v) s = .next (s.withBlk
        ({ s.blk with tiers := { s.blk.tiers with imapNext := v.toNat } }.almDue (.imap v.toNat)))) ∧
    (s.blk.MayWrite (.hbmc p) req → v = 3 ∨ (v = 2 ∧ s.blk.tiers.stackOos % 4096 ≠ 0) →
      ∃ b : Block, exec (.imapNextWrite p req v) s = .next (s.withBlk b) ∧ b.tiers.imapNext = 0 ∧
        b.tiers.imapCur = s.blk.tiers.imapCur)

/-- With the slot's root valid, table entries at levels 0 and 1 that point to the next table and a well-formed package leaf at
level 2, all readable and free of poison, and every clean cache line agreeing with its stack, a walk of a virtual address answers the leaf's package, base, 1 GiB size and
permissions; a write through W = 0 is fault 2 and a fetch through X = 0 fault 3, naming the leaf; three entries are read. (R172,
R173, R174, Table 6.8, Table 6.9) -/
def Obligations.TableWalkFindsTheLeaf : Prop :=
∀ (b : Block) (p : Fin 12) (slot : Fin 2) (va : BitVec 57) (w x : Bool) (e0 e1 e2 : BitVec 64),
    let lo := if slot = 0 then 0x040 else 0x048
    let t0 := b.pair (.mmu p) lo (lo + 4) 12 + bits va.toNat 48 9 * 8
    let t1 := wordField e0 8 40 * 256 + bits va.toNat 39 9 * 8
    let t2 := wordField e1 8 40 * 256 + bits va.toNat 30 9 * 8
    let holds (a : Nat) (e : BitVec 64) : Prop :=
      b.canAccess a 8 = true ∧ leNat (b.memBytes a 8) = e.toNat ∧ b.memPoisoned a 8 = false ∧ a % 8 = 0
    bit (b.reg (.mmu p) lo) 0 = true → holds t0 e0 → holds t1 e1 → holds t2 e2 →
    e0.getLsbD 0 = true → wordField e0 1 2 = 0 → malformed 0 e0.toNat = false →
    e1.getLsbD 0 = true → wordField e1 1 2 = 0 → malformed 1 e1.toNat = false →
    e2.getLsbD 0 = true → wordField e2 1 2 = 1 → malformed 2 e2.toNat = false → smWf {} b.mmus = true →
    b.CachesAgree →
    let r := b.walk p slot va.toNat w x
    r.1 = (if w && !e2.getLsbD 3 then .fault 2 e2.toNat else if x && !e2.getLsbD 4 then .fault 3 e2.toNat
      else .package (wordField e2 48 16) (wordField e2 12 36 * 4096) (2 ^ 30) (e2.getLsbD 3) (e2.getLsbD 4)) ∧
    (r.2.mmu p).walkReads = (b.mmu p).walkReads + 3 ∧ r.2.ram = b.ram

/-- TRANSLATION_WALK for a transfer of an engine (its own cache first) or a fetch. An address of 2^57 or more does nothing. A usable
leaf in the engine's cache changes nothing; one in the partition's cache counts a hit and enters the engine's. With neither cache
covering the address a miss is counted and the slot's tables are walked: a leaf found enters the caches, which keep 8,192 and 64
entries; a fault of the page that the transfer has reached parks its channel. A cached leaf that denies the access is walked again.
A response RESUME or FAIL to
a pending record that no pre-emption holds takes the record away and resumes its channel, or stops it with status
6 and counts it; so does a timeout that has run out, raising its cause. A consume with no fault waiting stores the index. An
invalidation of scope ALL empties the partition's caches and reads GO as 1 until INV_DONE, which does nothing while an access that uses
an invalidated translation is out, and else clears GO and raises the cause.
(R173, R176, R179, R180, Table 6.10, Table 6.12) -/
def Obligations.MmuCommands : Prop :=
∀ (s : State) (p : Fin 12) (slot : Fin 2) (va : BitVec 64) (req : Requester) (id : BitVec 32) (v : BitVec 8) (e : TcEntry)
      (r : FaultRec) (j : Option (Fin 36)) (wr : Bool) (ev : MemEvent), s.blk.boot.power = .on → req ≠ .job →
    let b := s.blk
    let job := ((b.part p).jobOf slot).getD 0
    let own := match j with
      | some j => tcFind (smGet [] (b.mmu p).engCache j) job slot va.toNat
      | none => none
    let shared := tcFind (b.mmu p).cache job slot va.toNat
    let usable (e : TcEntry) : Prop := ∀ c n, e.leaf.check wr j.isNone ≠ .fault c n
    let learn (b : Block) (e : TcEntry) : Block := match j with
      | some j => b.modMmu p fun m => { m with engCache := smMod [] m.engCache j fun c => (e :: c).take 64 }
      | none => b
    let ended (x : Leaf × Block) : Block := match x.1, j with
      | .fault c n, some j => if x.2.reaches p j slot va.toNat wr then x.2.parkAt p j slot va.toNat wr c n else x.2
      | _, _ => x.2
    let hit : Block := b.modMmu p fun m => { m with hits := m.hits + 1 }
    let walked := (b.modMmu p fun m => { m with misses := m.misses + 1 }).walk p slot va.toNat wr j.isNone ev
    let run := exec (.translationWalk p slot j va ⟨wr, ev, false⟩) s
    let drop (n : Nat) : Block := b.modMmu p fun m => { m with recs := m.recs.filter fun q => q.id ≠ n }
    let given := b.reg (.mmu p) 0x06C
    (2 ^ 57 ≤ va.toNat → run = .next s) ∧
    (va.toNat < 2 ^ 57 →
      (own = some e → usable e → run = .next s) ∧
      (own = some e → ¬ usable e → run = .next (s.withBlk (ended (b.walk p slot va.toNat wr j.isNone ev)))) ∧
      (own = none → shared = some e → usable e → run = .next (s.withBlk (learn hit e))) ∧
      (own = none → shared = some e → ¬ usable e → run = .next (s.withBlk (ended (hit.walk p slot va.toNat wr j.isNone ev)))) ∧
      (own = none → shared = none → (∀ c n, walked.1 ≠ .fault c n) →
        let e : TcEntry := ⟨job, slot, va.toNat / walked.1.size * walked.1.size, walked.1⟩
        run = .next (s.withBlk (learn (walked.2.modMmu p fun m => { m with cache := (e :: m.cache).take 8192 }) e))) ∧
      (own = none → shared = none → (∃ c n, walked.1 = .fault c n) → run = .next (s.withBlk (ended walked)))) ∧
    ((b.mmu p).recs.find? (fun q => q.id = given) = some r → (b.part p).state ≠ .saved → (b.part p).state ≠ .saving → b.recHeld p r = false →
      exec (.mmuResume p req) s = .next (s.withBlk (b.settling fun _ => (drop given).chanResume p r.engine r.chan)) ∧
      exec (.mmuFail p req) s = .next (s.withBlk (b.settling fun _ => ((drop given).log (.mmu p) 10).chanStop p r.engine r.chan 6))) ∧
    ((b.mmu p).recs.find? (fun q => q.id = id.toNat) = some r → b.fld (.mmu p) 0x074 0 16 ≤ r.age → b.recHeld p r = false →
      exec (.mmuFaultTimeout p id) s = .next (s.withBlk
        ((((drop id.toNat).raise (.mmu p) 1).log (.mmu p) 9).chanStop p r.engine r.chan 6))) ∧
    (b.MayWrite (.mmu p) req → (b.mmu p).waiting = [] →
      exec (.faultQueueConsume p req v) s = .next (s.withBlk (b.setFld (.mmu p) 0x068 0 8 v.toNat))) ∧
    ((b.mmu p).invGo = false → bits (b.reg (.mmu p) 0x050) 24 4 = 2 → smWf {} b.mmus = true →
      ∃ b' : Block, exec (.mmuInvalidate p req) s = .next (s.withBlk b') ∧ (b'.mmu p).invGo = true ∧ (b'.mmu p).cache = [] ∧
        (∀ j, smGet [] (b'.mmu p).engCache j = []) ∧ (b'.mmu p).recs = (b.mmu p).recs) ∧
    ((b.mmu p).invGo = true →
      (b.staleBusy p = false →
        exec (.mmuInvDone p) s = .next (s.withBlk ((b.modMmu p fun m => { m with invGo := false }).raise (.mmu p) 2))) ∧
      (b.staleBusy p = true → exec (.mmuInvDone p) s = .next s))

/-- An XF.POST of an aligned list inside core memory and the slot's window, to an enabled engine that works and has room, appends
the list with its pair capture to the channel of the slot and writes post status 0 to S[37:33]. XF.WAIT goes on when the slot has
no more lists outstanding than its number on the engine named, or on every engine, and waits otherwise. XF.PAIR sets a pair's half
offset with its first half current; XF.SWAP exchanges the halves of the pairs of its mask; XF.STAT writes the channel's status
word to S[53:49]. (R187, R188, R189, R190, R191, Table 7.1) -/
def Obligations.TransferInstructionResults : Prop :=
∀ (s : State) (p : Fin 12) (i : Fin 153) (sl : Fin 2) (w : BitVec 64),
    let e := s.blk.entered p i sl
    let t := s.blk.slot p i sl
    let a := (BitVec.ofNat 64 (t.a (wordField w 48 4)) + (w.extractLsb' 0 32).signExtend 64).toNat
    let count := wordField w 38 10 + 1
    let j := 4 * (i.val / 17) + wordField w 52 2
    let c := s.blk.chan p j sl
    let list : XList := { core := i, slot := sl, lcore := t.lcore, job := t.job, base := a, count := count, pairs := t.pairCapture }
    (s.blk.Runs p i sl w.toNat 4 0 → a % 64 = 0 → a + 64 * count ≤ 0x80000 → e.outside p i sl a (64 * count) = none →
      c.lists.length < 16 → c.listsOf i < 4 → s.blk.engOn p j = true → c.state ≠ .stopped → (s.blk.eng p j).failed = false →
      exec (.xfPost p i sl w) s = .next (s.withBlk
        ((e.modChan p j sl fun c => { c with lists := c.lists ++ [list] }).modSlot p i sl fun t =>
          (t.setS (wordField w 33 5) 0).executed))) ∧
    (s.blk.Runs p i sl w.toNat 4 1 →
      let out (k : Nat) : Nat := (s.blk.chan p (4 * (i.val / 17) + k) sl).listsOf i
      exec (.xfWait p i sl w) s = .next (s.withBlk (e.modSlot p i sl fun t =>
        if (if w.getLsbD 51 then (List.range 4).all fun k => decide (out k ≤ wordField w 48 3)
            else decide (out (wordField w 52 2) ≤ wordField w 48 3)) then t.executed
        else { t with wait := .transfer, waitWord := w.toNat }))) ∧
    (s.blk.Runs p i sl w.toNat 4 2 →
      let v := t.s (wordField w 45 5)
      v ≠ 0 → v % 64 = 0 → v < 2 ^ 31 → exec (.xfPair p i sl w) s = .next (s.withBlk (e.modSlot p i sl fun t =>
        { t with pairs := smPut {} t.pairs (wordField w 50 4) ⟨v, false⟩ }.executed))) ∧
    (s.blk.Runs p i sl w.toNat 4 3 → smWf {} t.pairs = true → smWf {} s.blk.slots = true →
      ∃ b : Block, exec (.xfSwap p i sl w) s = .next (s.withBlk b) ∧
        (∀ n < 8, smGet {} (b.slot p i sl).pairs (n + 1) =
          ⟨(smGet {} t.pairs (n + 1)).half, (smGet {} t.pairs (n + 1)).second != w.getLsbD (46 + n)⟩) ∧
        (b.slot p i sl).pc = (t.pc + 8) % 2 ^ 57) ∧
    (s.blk.Runs p i sl w.toNat 4 4 → exec (.xfStat p i sl w) s = .next (s.withBlk (e.modSlot p i sl fun t =>
      (t.setS (wordField w 49 5) (s.blk.chanWord p (4 * (i.val / 17) + wordField w 47 2) sl)).executed)))

/-- When the current descriptor of a running channel of an engine that works or has a substitute, with no earlier one still out, is a fenced copy of one row of n bytes (one piece)
from the posting core's own memory to the same memory, with no poison on either side, DESCRIPTOR_START (of the backfill channel: while
the primary channel cannot proceed) leaves at the destination the bytes that stood at the source and marks the descriptor moved; every
memory byte outside the destination reads as before. That the bytes move at once, and what overlapping extents read, which R198 leaves
to timing, is the model's choice (assumption log 45). (R193, R196, R198,
Table 7.2, Table 7.4) -/
def Obligations.DescriptorCopiesCoreMemory : Prop :=
∀ (s : State) (p : Fin 12) (j : Fin 36) (ch : Fin 2) (l : XList) (rest : List XList) (d : Desc),
    let b := s.blk
    let c := b.chan p j ch
    let n := dRowBytes d.bytes
    let src := coreBase p l.core + dSrc d.bytes l
    let dst := coreBase p l.core + dDst d.bytes l
    b.boot.power = .on → b.Settled → b.frozen = false → (b.eng p j).served = true → c.state = .normal → c.lists = l :: rest → c.cur = some d →
    c.out = [] → d.held = [] → d.asked = d.given → d.hold.parks = false → (ch = 0 ∨ b.canProceed p j 0 = false) → d.moved = false → d.hostWait = false → d.row = 0 → d.off = 0 → dPost d.bytes = false → dFence d.bytes = true →
    dSrcKind d.bytes = 1 → dDstKind d.bytes = 1 → dRows d.bytes = 1 → 0 < n → l.core < 153 →
    dSrc d.bytes l + n ≤ 0x80000 → dDst d.bytes l + n ≤ 0x80000 → pieceLen n (dSrc d.bytes l) (dDst d.bytes l) = n →
    b.memPoisoned src n = false → b.memPoisoned dst n = false → b.ram.wf = true → smWf {} b.engs = true →
    ∃ b' : Block, exec (.descriptorStart p j ch .none) s = .next (s.withBlk b') ∧ b'.memBytes dst n = b.memBytes src n ∧
      (∀ x, x < dst ∨ dst + n ≤ x → smGet 0 b'.ram.mem x = smGet 0 b.ram.mem x) ∧
      (b'.chan p j ch).cur = some { d with row := 1, off := 0, moved := true, hold := .free } ∧ (b'.chan p j ch).lists = c.lists

/-- DESCRIPTOR_COMPLETE of the oldest descriptor of a channel whose engine works or has a substitute, moved, unposted, unpoisoned, signalled already or with no signal to give, with
nothing of it out, counts it done with status 0 and either goes on to the list's next descriptor place or ends the list; with no other
descriptor started, signals and slots stay as they are. DMA_ENGINE_FAULT marks a working engine failed, in the engine
and in its partition, and when a sibling still works names one as its substitute. (R196, R197, R202, R366, Table 7.8) -/
def Obligations.DescriptorEndsAndEngineFailures : Prop :=
∀ (s : State) (p : Fin 12) (j : Fin 36) (ch : Fin 2) (l : XList) (rest : List XList) (d : Desc), s.blk.boot.power = .on →
    let b := s.blk
    let c := b.chan p j ch
    (b.Settled → b.frozen = false → (b.eng p j).served = true → c.state = .normal → c.lists = l :: rest → c.out = [] → c.cur = some d → d.moved = true → d.poison = false →
      d.asked = d.given → dPost d.bytes = false → d.signalled = true ∨ (dSig d.bytes 8 = none ∧ dSig d.bytes 10 = none) →
      b.descBusy p j ch d.id = false → (b.hdr (.dma p j)).draining = false → smWf {} b.engs = true →
      ∃ b' : Block, exec (.descriptorComplete p j ch) s = .next (s.withBlk b') ∧
        (b'.chan p j ch).cur = none ∧ (b'.chan p j ch).done = (c.done + 1) % 65536 ∧ (b'.chan p j ch).lastStatus = 0 ∧
        (b'.chan p j ch).lists = (if l.next + 1 = l.count then rest else { l with next := l.next + 1 } :: rest) ∧
        b'.slots = b.slots ∧ b'.syncs = b.syncs) ∧
    ((b.eng p j).failed = false → (∃ k < 4, 4 * (j.val / 4) + k ≠ j ∧ (b.eng p (4 * (j.val / 4) + k)).failed = false) →
      smWf {} b.engs = true → smWf {} b.parts = true → smWf false (b.part p).failedEngines = true →
      ∃ b' : Block, exec (.dmaEngineFault p j) s = .next (s.withBlk b') ∧ (b'.eng p j).failed = true ∧
        smGet false (b'.part p).failedEngines j = true ∧
        ∃ k < 4, (b'.eng p j).substitute = some (4 * (j.val / 4) + k) ∧ (b.eng p (4 * (j.val / 4) + k)).failed = false)

/-- With the counter or barrier inside the slot's share: CTR.ADD, CTR.SUB and CTR.SET (R = 0) send one update to the home and wait
for its verdict; CTR.READ writes the counter's value; CTR.WAIT whose value is reached goes on, taking the value off when C = 1, and
otherwise registers its wait behind those waiting; BAR.INIT arms the barrier; BAR.ARRIVE (R = 0) and BAR.SYNC send an arrival;
BAR.WAIT faults SYNC at a barrier timed out; at any other it goes on when the generation differs from the one held and otherwise
waits at an armed barrier and faults SYNC at a disarmed one. A number outside the share is counted and faults SYNC with kind 3
(shown for CTR.READ). CTR.ADD and CTR.SUB with R = 1 to a partition of this package not reset since its job was bound, the number in
the slot's own share and in that of the job there, send the update and go on with one more update out. FENCE goes on when nothing it
names is outstanding and waits otherwise. That an update with R = 1 lets the slot go on (assumption log 49), that CTR.READ reads at
the command (log 26), that a number is checked against the slot's share and the target's (log 48) and that a refused wait counts in
Logbook counter 4 (log 50), and that DETAIL has the number as the program names it (log 192), are the model's readings. (R208, R209, R212, R214, R216, R217, R220, Table 8.2) -/
def Obligations.SyncInstructionResults : Prop :=
∀ (s : State) (p : Fin 12) (i : Fin 153) (sl : Fin 2) (w : BitVec 64) (n : Nat),
    let b := s.blk
    let e := b.entered p i sl
    let t := b.slot p i sl
    let num := wordField w 37 12
    let bar := wordField w 41 8
    let src : SyncSrc := .instr p i sl true t.lcore t.job
    let send (u : SyncUpd) : State := s.withBlk (((e.syncTrace p i sl).sendUpd p u).modSlot p i sl fun t => { t with wait := .verdict, waitWord := w.toNat })
    let goOn : State := s.withBlk (e.modSlot p i sl Slot.executed)
    (b.ctrNum p sl num = some n →
      (b.Runs p i sl w.toNat 5 1 → w.getLsbD 36 = false →
        exec (.ctrAdd p i sl w) s = .next (send { op := .add, num := n, amount := wordField w 0 16, src := src })) ∧
      (b.Runs p i sl w.toNat 5 2 → w.getLsbD 36 = false →
        exec (.ctrSub p i sl w) s = .next (send { op := .sub, num := n, amount := wordField w 0 16, src := src })) ∧
      (b.Runs p i sl w.toNat 5 5 → exec (.ctrSet p i sl w) s =
        .next (send { op := .set, num := n, amount := t.s (wordField w 49 5) % 2 ^ 32, src := src })) ∧
      (b.Runs p i sl w.toNat 5 4 → exec (.ctrRead p i sl w) s = .next (s.withBlk
        (e.modSlot p i sl fun t => (t.setS (wordField w 49 5) ((b.syn p).ctr n)).executed))) ∧
      (b.Runs p i sl w.toNat 5 3 →
        let v := if w.getLsbD 35 then t.s (wordField w 49 5) else wordField w 0 32
        (v ≤ (b.syn p).ctr n → exec (.ctrWait p i sl w) s = .next (s.withBlk
          ((if w.getLsbD 36 then e.modSyn p fun y => { y with ctrs := smPut 0 y.ctrs n ((b.syn p).ctr n - v) } else e).modSlot
            p i sl Slot.executed))) ∧
        ((b.syn p).ctr n < v → ∃ b' : Block, exec (.ctrWait p i sl w) s = .next (s.withBlk b') ∧
          b'.slots = (e.modSlot p i sl fun t => { t with wait := .ctr n, waitWord := w.toNat }).slots ∧
          b'.syncs = (e.modSyn p fun y =>
            { y with ctrWaits := smMod [] y.ctrWaits n fun l => l ++ [⟨i, sl, v, w.getLsbD 36⟩] }).syncs))) ∧
    (b.barNum p sl bar = some n →
      (b.Runs p i sl w.toNat 5 6 → exec (.barInit p i sl w) s = .next (s.withBlk
        ((e.armBar p n (wordField w 16 16) (wordField w 0 16)).modSlot p i sl Slot.executed))) ∧
      (b.Runs p i sl w.toNat 5 7 → w.getLsbD 40 = false → exec (.barArrive p i sl w) s =
        .next (send { bar := true, num := n, src := src, reg := wordField w 49 5 })) ∧
      (b.Runs p i sl w.toNat 5 9 → exec (.barSync p i sl w) s =
        .next (send { bar := true, num := n, src := src, sync := true })) ∧
      (b.Runs p i sl w.toNat 5 8 →
        let held := t.s (wordField w 49 5) % 65536
        (((b.syn p).bar n).state ≠ .timedOut → ((b.syn p).bar n).gen ≠ held → exec (.barWait p i sl w) s = .next goOn) ∧
        (((b.syn p).bar n).gen = held → ((b.syn p).bar n).state = .armed →
          ∃ b' : Block, exec (.barWait p i sl w) s = .next (s.withBlk b') ∧
          b'.slots = (e.modSlot p i sl fun t => { t with wait := .bar n, waitWord := w.toNat }).slots ∧
          b'.syncs = (e.modSyn p fun z => { z with barWaits := smMod [] z.barWaits n fun l => l ++ [⟨i, sl, held⟩] }).syncs) ∧
        (((b.syn p).bar n).state = .timedOut →
          exec (.barWait p i sl w) s = .next (s.withBlk ((e.log (.sync p) 4).coreFault p i sl .sync (0x4000 + bar)))) ∧
        (((b.syn p).bar n).gen = held → ((b.syn p).bar n).state = .disarmed →
          exec (.barWait p i sl w) s = .next (s.withBlk ((e.log (.sync p) 4).coreFault p i sl .sync (0x5000 + bar)))))) ∧
    (b.ctrNum p sl num = none → b.Runs p i sl w.toNat 5 4 →
      exec (.ctrRead p i sl w) s = .next (s.withBlk ((e.log (.sync p) 2).coreFault p i sl .sync (0x3000 + num)))) ∧
    (∀ q k : Nat, w.getLsbD 36 = true → let v := t.s (wordField w 49 5)
      v % 16 < 12 → b.ctrNum p sl num ≠ none → b.isSelf (v / 2 ^ 48) = true → b.partOf t.job (v % 16) (some sl) = some (q, k) → (b.part q).blank = false → b.ctrNum q k num = some n →
      let u (op : CtrOp) : SyncUpd :=
        { op := op, num := n, amount := wordField w 0 16, src := .instr p i sl false t.lcore t.job }
      let far (op : CtrOp) : State :=
        s.withBlk ((e.sendUpd q (u op)).modSlot p i sl fun t => { t with syncOut := t.syncOut + 1 }.executed)
      (b.Runs p i sl w.toNat 5 1 → exec (.ctrAdd p i sl w) s = .next (far .add)) ∧
      (b.Runs p i sl w.toNat 5 2 → exec (.ctrSub p i sl w) s = .next (far .sub))) ∧
    (b.Runs p i sl w.toNat 5 0 →
      let idle := t.syncOut = 0 ∧ t.amos = [] ∧ (w.getLsbD 53 = true → t.mq = []) ∧
        (w.getLsbD 52 = true → b.listsOf p i sl = [])
      (idle → exec (.fence p i sl w) s = .next goOn) ∧
      (¬ idle → ∃ b' : Block, exec (.fence p i sl w) s = .next (s.withBlk b') ∧
        b'.slots = (e.modSlot p i sl fun t => { t with wait := .fence, waitWord := w.toNat }).slots))

/-- When the one update in flight to a partition arrives from a waiting slot and no slot waits on the counter, an ADD that does
not pass 2^32-1, a SUB that does not pass zero and a SET are applied and the slot goes on. A SUB or ADD that would pass the bound leaves
the counter as it was, counts an underflow or an overflow, raises CTR_FAULT, writes the sync fault record where none is held (source,
kind, logical core, counter, PKGN, job, amount, value), and stops the slot with the core fault SYNC, whose record, where the core holds
none for the slot, has the kind and the counter's number in its share in DETAIL (the number as the program names it: assumption log 192; a record held for the other slot alone giving way: assumption log
187). (R214, R215, R216, R220, Table 8.3, Table 8.10) -/
def Obligations.CounterUpdatesApplyOrFault : Prop :=
∀ (s : State) (p : Fin 12) (i : Fin 153) (sl : Fin 2) (op : CtrOp) (n amount : Nat) (lc job : Nat),
    let b := s.blk
    let u : SyncUpd := { op := op, num := n, amount := amount, src := .instr p i sl true lc job }
    let v := (b.syn p).ctr n
    b.boot.power = .on → (b.syn p).inflight = [u] → smGet [] (b.syn p).ctrWaits n = [] → smWf {} b.syncs = true →
    smWf 0 (b.syn p).ctrs = true → smWf {} b.slots = true → smWf {} b.cores = true → smWf {} b.pages = true → smWf 0 b.logs = true →
    let kind := if op = .sub then 1 else 2
    let ok := match op with
      | .add => v + amount ≤ 0xFFFFFFFF
      | .sub => amount ≤ v
      | .set => True
    let new := match op with
      | .add => v + amount
      | .sub => v - amount
      | .set => amount % 2 ^ 32
    (ok → ∃ b' : Block, exec (.counterUpdate p [0]) s = .next (s.withBlk b') ∧ (b'.syn p).ctr n = new ∧
      (∀ m, m ≠ n → (b'.syn p).ctr m = (b.syn p).ctr m) ∧ (b'.syn p).inflight = [] ∧
      b'.slot p i sl = (b.slot p i sl).executed) ∧
    (¬ ok → ∃ b' : Block, exec (.counterUpdate p [0]) s = .next (s.withBlk b') ∧ (∀ m, (b'.syn p).ctr m = (b.syn p).ctr m) ∧
      b'.slot p i sl = { b.slot p i sl with stop := .fault, wait := .none } ∧ (b'.syn p).inflight = [] ∧
      ((b.hdr (.sync p)).freeze = false → b'.logOf (.sync p) (kind - 1) = sat16 (b.logOf (.sync p) (kind - 1))) ∧
      b'.causeSet (.sync p) 0 = true ∧ b'.causeSet (.core p i) sl = true ∧
      (b'.syn p).fault = (if (b.syn p).fault.isSome then (b.syn p).fault else some ⟨0, kind, lc, n, b.pkgn, job, amount, v⟩) ∧
      (b.causeSet (.core p i) sl = false → (b'.core p i).faultValid = true ∧ (b'.core p i).faultSlot = sl ∧ (b'.core p i).faultCode = 10 ∧
        (b'.core p i).faultDetail = (kind * 4096 + b.ctrOwn p sl n) % 65536 ∧ (b'.core p i).faultPc = (b.slot p i sl).pc))

/-- A BAR.ARRIVE reaching an armed barrier without release that lacks one arrival and has no waiters advances the generation,
zeroes the arrivals, and writes the old generation to the slot's register. An earlier arrival only counts. A management arming
with a COUNT of 2 or more arms the barrier with its timeout, no arrivals and its generation kept, but leaves a barrier TIMED_OUT (the
model's choice, assumption log 193); COUNT 0 disarms it. A BARRIER_TIMEOUT that has run out with no waiter and no automatic survey puts
the barrier in TIMED_OUT, counts it and raises its cause. SYNC_SURVEY captures a record when none is being taken; SURVEY_COMPLETE with
an accessible destination writes it to SURVEY_BASE (shown with no Eyepiece tracing) and raises SURVEY_DONE; with a refused one, or an
uncorrectable error, it raises SURVEY_FAIL and counts. (R217, R218, R222) -/
def Obligations.BarrierGenerationCompletes : Prop :=
∀ (s : State) (p : Fin 12) (i : Fin 153) (sl : Fin 2) (n : Fin 256) (r lc job : Nat) (req : Requester) (count timeout : BitVec 16),
    let b := s.blk
    let u : SyncUpd := { bar := true, num := n, src := .instr p i sl true lc job, reg := r }
    let y := (b.syn p).bar n
    let counted (b' : Block) (m : Nat) : Prop := (b.hdr (.sync p)).freeze = false → b'.logOf (.sync p) m = sat16 (b.logOf (.sync p) m)
    b.boot.power = .on → smWf {} b.syncs = true → smWf {} (b.syn p).bars = true → smWf {} b.slots = true → smWf {} b.pages = true →
    smWf 0 b.logs = true →
    ((b.syn p).inflight = [u] → smGet [] (b.syn p).barWaits n = [] → y.state = .armed → y.relEn = false →
      ∃ b' : Block, exec (.barrierArrival p [0]) s = .next (s.withBlk b') ∧
        (b'.syn p).bar n = (if y.arrived + 1 = y.count then { y with gen := (y.gen + 1) % 65536, arrived := 0, ticks := 0 }
          else { y with arrived := y.arrived + 1 }) ∧
        b'.slot p i sl = ((b.slot p i sl).setS r y.gen).executed) ∧
    (b.MayWrite (.sync p) req → 2 ≤ count.toNat →
      ∃ b' : Block, exec (.barrierArmWrite p req n count timeout) s = .next (s.withBlk b') ∧ (b'.syn p).bar n =
        if y.state = .timedOut then { y with count := count.toNat, timeout := timeout.toNat }
        else { y with state := .armed, count := count.toNat, timeout := timeout.toNat, arrived := 0, ticks := 0 }) ∧
    (b.MayWrite (.sync p) req → count = 0 →
      ∃ b' : Block, exec (.barrierArmWrite p req n count timeout) s = .next (s.withBlk b') ∧ (b'.syn p).bar n =
        { y with state := .disarmed, count := 0, timeout := timeout.toNat, arrived := 0, ticks := 0 }) ∧
    (y.state = .armed → y.timeout ≠ 0 → y.arrived ≠ 0 → y.timeout < y.ticks → smGet [] (b.syn p).barWaits n = [] →
      bit (b.reg (.sync p) 0x044) 1 = false →
      ∃ b' : Block, exec (.barrierTimeout p n) s = .next (s.withBlk b') ∧ (b'.syn p).bar n = { y with state := .timedOut } ∧
        b'.causeSet (.sync p) 1 = true ∧ counted b' 3) ∧
    (req ≠ .job → (b.syn p).busy = false → ∃ b' : Block, exec (.syncSurvey p req) s = .next (s.withBlk b') ∧
      (b'.syn p).busy = true ∧ (b'.syn p).survey = some (b.surveyBytes p 0 0) ∧ counted b' 6) ∧
    (∀ bs, (b.syn p).survey = some bs →
      let a := b.pair (.sync p) 0x048 0x04C 15
      let b1 := b.modSyn p fun z => { z with busy := false, survey := none }
      (b.canAccess a bs.length = true → ∃ b' : Block, exec (.surveyComplete p false) s = .next (s.withBlk b') ∧ b'.syncs = b1.syncs ∧
        (bit (b.reg .eyep 0x040) 0 = false → b'.ram = (b1.memWrite a bs).ram) ∧ b'.causeSet (.sync p) 2 = true) ∧
      (∀ unc, unc = true ∨ b.canAccess a bs.length = false → ∃ b' : Block, exec (.surveyComplete p unc) s = .next (s.withBlk b') ∧
        b'.syncs = b1.syncs ∧ b'.causeSet (.sync p) 3 = true ∧ counted b' 8))

/-- An AMO on an aligned address whose page is in this package and whose location is accessible sets out with its operands and the
slot goes on; one whose page is in a package that can be reached, with room for its transaction, leaves as an ATOMIC, and the slot
waits for the answer (the model's choice, assumption log 194). A misaligned AMO raises SYNC with kind 7, one beyond 57 bits or at a
location that is refused kind 6. AMO_PERFORM of an atomic on its way, meeting no physical error (memory in canonical form, clean
cache lines agreeing with their stacks), writes the register with the old value and leaves the list; a location free of poison takes
Table 8.4's new value, no other byte changes; one that poison has reached stays marked, and POISON_CREATED is raised. That alignment
is tested before the address, at every address (assumption log 51), and that the number in DETAIL is 0 (log 50) are the model's
readings. (R219, R223, Table 8.4) -/
def Obligations.AtomicsReturnTheOldValue : Prop :=
∀ (s : State) (p : Fin 12) (i : Fin 153) (sl : Fin 2) (w : BitVec 64),
    let b := s.blk
    let e := b.entered p i sl
    let t := b.slot p i sl
    let va := (BitVec.ofNat 64 (t.a (wordField w 45 4)) + (w.extractLsb' 0 24).signExtend 64).toNat
    let n := 4 * 2 ^ wordField w 30 2
    (b.Runs p i sl w.toNat 5 0x0A →
      (va % n ≠ 0 → exec (.amo p i sl w) s = .next (s.withBlk ((e.log (.sync p) 9).coreFault p i sl .sync 0x7000))) ∧
      (∀ g base size lw lx b', va % n = 0 → va < 2 ^ 57 → e.translate p sl none va true false = (.package g base size lw lx, b') →
        b'.isSelf g = true → b'.canAccess (base + va % size) n = true →
        exec (.amo p i sl w) s = .next (s.withBlk (b'.modSlot p i sl fun t => { t with
          amos := t.amos ++ [(⟨base + va % size, wordField w 28 2, wordField w 32 3, n, t.s (wordField w 40 5) % 2 ^ (8 * n),
            t.s (wordField w 35 5) % 2 ^ (8 * n), wordField w 49 5, false⟩ : Amo)] }.executed))) ∧
      (2 ^ 57 ≤ va → va % n = 0 →
        exec (.amo p i sl w) s = .next (s.withBlk ((e.log (.sync p) 9).coreFault p i sl .sync 0x6000))) ∧
      (∀ g base size lw lx b', va % n = 0 → va < 2 ^ 57 → e.translate p sl none va true false = (.package g base size lw lx, b') →
        (b'.isSelf g = true → b'.canAccess (base + va % size) n = false →
          exec (.amo p i sl w) s = .next (s.withBlk ((b'.log (.sync p) 9).coreFault p i sl .sync 0x6000))) ∧
        (b'.isSelf g = false → b'.reachable g = true → b'.xRoom g 0 = true →
          let k : Pkt := { kind := 3, hint := wordField w 28 2, dst := g, job := t.job, addr := base + va % size,
                           operand := t.s (wordField w 40 5) % 2 ^ (8 * n), op := wordField w 32 3, size := wordField w 30 2,
                           data := if wordField w 32 3 = 7 then leBytes 8 (t.s (wordField w 35 5) % 2 ^ (8 * n)) else [] }
          exec (.amo p i sl w) s = .next (s.withBlk (((b'.syncTrace p i sl).xIssue p k (.amo p i sl (wordField w 49 5) n)).modSlot p i sl fun t =>
            { t with wait := .verdict, waitWord := w.toNat }))))) ∧
    (∀ (k : Nat) (x : Amo) (h : Home), b.boot.power = .on → t.amos[k]? = some x → (x.size = 4 ∨ x.size = 8) → x.pa % x.size = 0 →
      homeOf b.tiers x.pa = some h → b.canAccess x.pa x.size = true →
      b.ram.wf = true → b.CachesAgree → smWf {} b.slots = true →
      let old := leNat (b.memBytes x.pa x.size)
      ∃ b' : Block, exec (.amoPerform p i sl ⟨k, .none⟩) s = .next (s.withBlk b') ∧
        b'.slot p i sl = { t.setS x.reg old with amos := t.amos.eraseIdx k } ∧
        (b.memPoisoned x.pa x.size = false →
          leNat (b'.memBytes x.pa x.size) = amoNew x.op x.size old x.data x.cmp % 2 ^ (8 * x.size) ∧
          ∀ a, a < h.num ∨ h.num + x.size ≤ a → smGet 0 b'.ram.mem a = smGet 0 b.ram.mem a) ∧
        (b.memPoisoned x.pa x.size = true → bit (b.reg .eyep 0x040) 0 = false →
          b'.memPoisoned x.pa x.size = true ∧ b'.causeSet (.core p i) 2 = true))

/-- A licensed DISABLED link that is enabled goes to DETECT; 16 or more lanes with signal take DETECT to TRAIN; 16 or more lanes
trained each way take TRAIN to ALIGN and fewer take it to FAILED; deskew with a package number assigned takes ALIGN to DIGEST and
sends this package's digest; a timeout takes TRAIN and DIGEST to FAILED; disabling takes LINKUP to DRAIN and a link not in service
to DISABLED; the end of a drain for a disable reaches DISABLED and, after a new enable and outside a park, DETECT; a retrain, or its timer when
RETRAIN_S is not 0, takes FAILED to DETECT. Slots and registers, and with no Eyepiece tracing memory, do not change by these, and with
nothing waiting on the link or from it no other link does. (R227, R228, R229, R230, R248, Table 9.3) -/
def Obligations.LinkStateTransitions : Prop :=
∀ (s : State) (n : Fin 36) (req : Requester) (lanes rx tx : BitVec 18) (rtt : BitVec 32), s.blk.boot.power = .on →
    smWf {} s.blk.links = true →
    let b := s.blk
    let st := (b.link n).state
    let goes (c : Instr) (x : LState) : Prop := ∃ b' : Block, exec c s = .next (s.withBlk b') ∧ (b'.link n).state = x ∧
      b'.slots = b.slots ∧ b'.regs = b.regs ∧ (∀ m, m ≠ n.val → b'.link m = b.link m) ∧
      (bit (b.reg .eyep 0x040) 0 = false → b'.ram = b.ram)
    b.LinkUnused n →
    (b.MayWrite (.lnk n) req →
      (b.linkLicensed n = true → st = .disabled → goes (.linkEnable n req) .detect) ∧
      (b.Settled → st = .linkup → goes (.linkDisable n req) (.drainDisable false)) ∧
      (b.Settled → st = .detect ∨ st = .failed → goes (.linkDisable n req) .disabled)) ∧
    (st = .detect → 16 ≤ popcount lanes.toNat 18 → goes (.linkSignalDetect n lanes) .train) ∧
    (st = .train →
      (16 ≤ popcount rx.toNat 18 → 16 ≤ popcount tx.toNat 18 → goes (.linkTrainDone n rx tx) .align) ∧
      (popcount rx.toNat 18 < 16 ∨ popcount tx.toNat 18 < 16 → goes (.linkTrainDone n rx tx) .failed) ∧
      goes (.linkTrainTimeout n) .failed) ∧
    (st = .digest → goes (.linkTrainTimeout n) .failed) ∧
    (st = .align → b.pkgn ≠ 0xFFFF → goes (.linkAlignDone n rtt) .digest ∧
      ∃ b' : Block, exec (.linkAlignDone n rtt) s = .next (s.withBlk b') ∧ b'.out.head? = some (.ctl n (ctlBlock (b.digest n)))) ∧
    (b.Settled →
      (st = .drainDisable false → goes (.linkDrainEnd n) .disabled) ∧
      (st = .drainDisable true → b.helio.gauge ≠ .parking → goes (.linkDrainEnd n) .detect)) ∧
    (st = .failed → (req ≠ .job → goes (.linkRetrain n req) .detect) ∧
      (b.fld (.lnk n) 0x040 8 8 ≠ 0 → goes (.linkRetrainTimer n) .detect))

/-- A DIGEST block with a good CRC-8 in DIGEST takes the link to LINKUP when the digests agree and to QUARANTINE otherwise; one
with a bad CRC-8 is only counted. With every link at or before ALIGN, PKGN_WRITE of a new system identity stores it.
ROUTE_ENTRY_WRITE stores the entry that ROUTE_IDX names. A good SKIP sets the expected sequence number and discards partial packets; a
good SPARE takes the link to SPARING; a good LINK_DOWN takes a link in LINKUP with nothing buffered to FAILED. (R230, R231, R233, R236, R249, Table
9.4, Table 9.22) -/
def Obligations.DigestsDecideLinkup : Prop :=
∀ (s : State) (n : Fin 36) (req : Requester) (block : BitVec 128) (v : BitVec 32), s.blk.boot.power = .on →
    s.blk.Settled → smWf {} s.blk.links = true →
    let b := s.blk
    let st := (b.link n).state
    let x := block.toNat
    let good (t : Nat) : Prop := ctlGood x = true ∧ ctlByte x 0 = t
    (good 6 → st = .digest → ∃ b' : Block, exec (.digestReceive n block) s = .next (s.withBlk b') ∧
      (b'.link n).state = (if digestsAgree (b.digest n) (leBytes 15 x) then .linkup else .quarantine) ∧
      (b'.link n).quar = quarBits (b.digest n) (leBytes 15 x)) ∧
    (ctlGood x = false → exec (.digestReceive n block) s = .next (s.withBlk (b.log (.lnk n) 12)) ∧
      exec (.skipReceive n block) s = .next (s.withBlk (b.log (.lnk n) 12)) ∧
      exec (.spareReceive n block) s = .next (s.withBlk (b.log (.lnk n) 12))) ∧
    (b.MayWrite (.lnk n) req → (∀ k < 36, (b.link k).state.code < 4 ∨ 9 < (b.link k).state.code) → v.toNat ≠ b.reg (.lnk 0) 0x064 →
      exec (.pkgnWrite n req true v) s = .next (s.withBlk ((b.setReg (.lnk 0) 0x064 v.toNat).digestChanged))) ∧
    (b.MayWrite (.route n) req → cleanRoute v.toNat = v.toNat → smWf 0 b.routes = true →
      ∃ b' : Block, exec (.routeEntryWrite n req v) s = .next (s.withBlk b') ∧
        (∀ d, (smGet 0 b'.routes d ^^^ 0x3FFFFFFF) = if d = b.fld (.route n) 0x040 0 16 then v else smGet 0 b.routes d ^^^ 0x3FFFFFFF)) ∧
    (good 4 → st.runs = true → ∃ b' : Block, exec (.skipReceive n block) s = .next (s.withBlk b') ∧
      (b'.link n).rxSeq = x / 2 ^ 24 % 65536 ∧ (b'.link n).parts = []) ∧
    (good 5 → st.live = true → ∃ b' : Block, exec (.spareReceive n block) s = .next (s.withBlk b') ∧ (b'.link n).state = .sparing) ∧
    (good 9 → st = .linkup → b.LinkEmpty n →
      ∃ b' : Block, exec (.linkDownReceive n block) s = .next (s.withBlk b') ∧ (b'.link n).state = .failed)

/-- On a link in LINKUP a data flit with a good CRC-32 and the SEQ expected is accepted: the SEQ expected next advances, its ACK is
taken, the episode is closed, and its payload joins the packet of its virtual channel (shown for a flit that does not end its packet);
an IDLE flit gives its ACK and changes no SEQ. A codeword that cannot be corrected opens the retry episode, takes the link to
RETRY and changes no sequence number. A NAK for a flit held in the retry buffer takes LINKUP to RETRY, keeps RETRY, and ends the replay at
the last flit held; in SPARING it waits for the switch. An episode that exceeds its budget with no lane named, and the loss of lock of three lanes or more, fail a
link with nothing buffered; a lane that a failed episode names, whose lock is lost alone, or that is spared ahead of failure, is given
the free spare 16, which both maps take at the switch, and the link goes to SPARING. (R234, R235, R241, R242, R243, R244, R245) -/
def Obligations.RetryAndSparing : Prop :=
∀ (s : State) (n : Fin 36) (bytes : List Byte) (block : BitVec 128) (lane l2 l3 : Fin 16), s.blk.boot.power = .on →
    s.blk.Settled → smWf {} s.blk.links = true →
    let b := s.blk
    let k := b.link n
    let whole : Prop := k.rxBad = 0 ∧ k.rxLane = [] ∧ k.rxSw = []
    (k.state = .linkup → ∃ b' : Block, exec (.flitReceive n bytes true) s = .next (s.withBlk b') ∧ (b'.link n).state = .retry ∧
      (b'.link n).episode = true ∧ (b'.link n).rxSeq = k.rxSeq ∧ b'.xu = b.xu ∧ b'.slots = b.slots) ∧
    (k.state = .linkup → k.replayTo = none → flitGood bytes = true →
      let b0 := flitField bytes 0 1
      let v := b0 % 8
      let c := if bit (flitField bytes 5 1) 4 then 8 else v
      let old := smGet {} k.parts v
      let pay := ((bytes.map (·.toNat)).drop 12).take 240
      (b0 / 64 = 1 → bit b0 4 = false → (bit b0 3 = true ∨ old.flits ≠ 0) → flitField bytes 1 2 = k.rxSeq →
        ∃ b' : Block, exec (.flitReceive n bytes false) s = .next (s.withBlk b') ∧ (b'.link n).state = .linkup ∧
          (b'.link n).rxSeq = (k.rxSeq + 1) % 65536 ∧ (b'.link n).flitsRx = k.flitsRx + 1 ∧
          (b'.link n).acked = flitField bytes 3 2 ∧ (b'.link n).episode = false ∧ b'.xu = b.xu ∧
          smGet {} (b'.link n).parts v = (if bit b0 3 then ⟨pay, b2n (bit b0 5), 1, [c]⟩
            else ⟨old.bytes ++ pay, old.pois + b2n (bit b0 5) * 2 ^ old.flits, old.flits + 1, old.shares ++ [c]⟩)) ∧
      (b0 / 64 = 0 → ∃ b' : Block, exec (.flitReceive n bytes false) s = .next (s.withBlk b') ∧ (b'.link n).state = .linkup ∧
        (b'.link n).rxSeq = k.rxSeq ∧ (b'.link n).acked = flitField bytes 3 2 ∧ b'.xu = b.xu)) ∧
    (ctlGood block.toNat = true → ctlByte block.toNat 0 = 3 → k.state = .sparing →
      exec (.nakReceive n block) s = .next (s.withBlk (b.settling fun b => b.modLink n fun l =>
        { l with nakAt := some (block.toNat / 256 % 65536) }))) ∧
    (ctlGood block.toNat = true → ctlByte block.toNat 0 = 3 → k.state = .linkup ∨ k.state = .retry →
      (k.retry.any fun f => f.seq = block.toNat / 256 % 65536) = true →
      ∃ b' : Block, exec (.nakReceive n block) s = .next (s.withBlk b') ∧ (b'.link n).state = .retry ∧
        (b'.link n).replayTo = (k.retry.getLast?).map (·.seq) ∧ (b'.link n).retry = k.retry) ∧
    (b.LinkEmpty n →
      (k.state = .retry → k.episode = true → ∃ b' : Block, exec (.retryEpisodeTimeout n none) s = .next (s.withBlk b') ∧
        (b'.link n).state = .failed) ∧
      (k.state.live = true → lane ≠ l2 → lane ≠ l3 → l2 ≠ l3 → ∃ b' : Block, exec (.laneLockLost n [lane, l2, l3]) s = .next (s.withBlk b') ∧
        (b'.link n).state = .failed)) ∧
    (k.state = .retry → k.episode = true → whole → ∃ b' : Block, exec (.retryEpisodeTimeout n (some lane)) s = .next (s.withBlk b') ∧
      (b'.link n).state = .sparing ∧ (b'.link n).rxSw.map (·.2) = [(lane.val, 16)] ∧ (b'.link n).rxLane = [] ∧
      (b'.link n).rxBad = 2 ^ lane.val) ∧
    (k.state = .linkup → whole →
      (∃ b' : Block, exec (.laneLockLost n [lane]) s = .next (s.withBlk b') ∧ (b'.link n).state = .sparing ∧
        (b'.link n).rxSw.map (·.2) = [(lane.val, 16)] ∧ (b'.link n).rxLane = [] ∧ smGet 0 (b'.link n).switchLanes.rxLane 16 = lane + 1 ∧
        (b'.link n).rxBad = 2 ^ lane.val ∧ (b'.link n).episode = true) ∧
      (bit (b.reg (.lnk n) 0x040) 2 = true → ∃ b' : Block, exec (.laneProactiveSpare n lane) s = .next (s.withBlk b') ∧
        (b'.link n).state = .sparing ∧ (b'.link n).rxSw.map (·.2) = [(lane.val, 16)] ∧ (b'.link n).rxLane = [] ∧
        (b'.link n).rxBad = 2 ^ lane.val))

/-- A packet for another package that a link in LINKUP delivers leaves on the first candidate of its route in LINKUP, one hop
later and at the higher level, a management packet on the link of its management tree; use of a candidate but the first is raised and
counted. A packet of a reserved kind is discarded and counted. A READ of this package is answered with the bytes at its place. A WRITE of the space's next TID
with nothing held is performed, NEXT advances, and it is answered; a duplicate within 4,096 of NEXT is counted and answered again
and is not performed. (R239, R249, R250, R254, Table 9.15) -/
def Obligations.PacketsForwardedAndPerformed : Prop :=
∀ (s : State) (n : Fin 36) (k : Pkt), s.blk.boot.power = .on → s.blk.Settled → (s.blk.link n).state = .linkup → k.pois = 0 →
    let b := s.blk
    let key := spaceKey k.owner k.space
    let d := (k.tid + 65536 - smGet 0 b.xu.next key) % 65536
    (k.kind = 0 ∨ 12 < k.kind → exec (.packetForward n k) s = .next (s.withBlk (b.settling fun b => (b.log (.lnk n) 23).giveCredit n []))) ∧
    (b.isSelf k.dst = false → 0 < k.kind → k.kind ≤ 12 → k.hops < 12 → bit (b.route k.dst) 31 = true →
      let leaves (b : Block) (l : Nat) (k' : Pkt) : State := s.withBlk ((b.noteVia l k').txPacket l n k' [])
      (∀ c l lv, k.isMgmt = false → b.cand k.dst = some (c, l, lv) → l ≠ 62 → exec (.packetForward n k) s =
        .next (leaves (if c = 0 then b else (b.raise (.route n) 0).log (.route n) (c - 1)) l
          { k with hops := k.hops + 1, level := Nat.max k.level lv })) ∧
      (k.isMgmt = true → b.up (bits (b.route k.dst) 24 6) = true → exec (.packetForward n k) s =
        .next (leaves b (bits (b.route k.dst) 24 6) { k with hops := k.hops + 1 }))) ∧
    (b.isSelf k.dst = true →
      (∀ bs po b' pa, k.kind = 1 → b.packetPlace k k.len = .inr pa → b.memRead pa k.len (hintOf k.hint) = (bs, po, b') →
        exec (.readArrival n k) s = .next (s.withBlk (b.settling fun _ =>
          (b'.respond n k 0 0 bs (b.flitPois pa k.len)).giveCredit n []))) ∧
      (k.kind = 2 → k.resync = false → smGet false b.xu.known key = true → b.xu.hold = [] →
        (d = 0 → exec (.orderedArrival n k) s = .next (s.withBlk (b.settling fun b =>
          (((b.setNext key (smGet 0 b.xu.next key + 1)).writeIn k).2.respond n k
            ((b.setNext key (smGet 0 b.xu.next key + 1)).writeIn k).1 0 [] 0).giveCredit n []))) ∧
        (61440 ≤ d → exec (.orderedArrival n k) s = .next (s.withBlk (b.settling fun b =>
          ((b.log (.lnk n) 14).respond n k 0 0 [] 0).giveCredit n [])))))

/-- For an outstanding transaction, its response with the same G ends it with that response, with REMOTE_FAIL where its status is
RESULT_LOST or reserved; a DROP notice sends it again with G toggled, not counted towards REISSUE_MAX; a NOROUTE notice ends every
transaction of its space and target with REMOTE_FAIL and makes the next request there a RESYNC. A timeout is counted at the link its
request last departed on and sends it again while reissues remain, and fails it after REISSUE_MAX. A response that names no
outstanding transaction is counted and discarded. An event counts at the link that the packet last departed on; one that never
departed counts at link 0 (the model's reading, assumption log 67). (R250, R253, R255, R256, Table 9.11, R259) -/
def Obligations.TransactionsEndOrAreReissued : Prop :=
∀ (s : State) (n : Fin 36) (k : Pkt) (x : Xact) (space : Fin 3) (target tid : BitVec 16), s.blk.boot.power = .on →
    (s.blk.link n).state = .linkup → k.pois = 0 → s.blk.isSelf k.dst = true → s.blk.Settled →
    let b := s.blk
    (k.kind = 8 ∨ k.kind = 7 ∨ k.kind = 9 ∨ k.kind = 0x0A →
      (b.xFind k.space k.src k.tid = some x → k.g = x.pkt.g → exec (.responseReceive n k) s =
        .next (s.withBlk (b.settling fun b => (if k.status < 4 then b.xEnd x n k else b.xFail x n).giveCredit n []))) ∧
      (b.xFind k.space k.src k.tid = none → exec (.responseReceive n k) s =
        .next (s.withBlk (b.settling fun b => (b.log (.lnk n) 23).giveCredit n [])))) ∧
    (b.xFind (k.operand / 65536 % 4) (k.operand % 65536) k.tid = some x →
      (k.kind = 0x0B → exec (.dropReceive n k) s = .next (s.withBlk (b.settling fun b =>
        ((b.log (.lnk n) 20).xReissue x false).giveCredit n []))) ∧
      (k.kind = 0x0C → exec (.norouteReceive n k) s = .next (s.withBlk (b.settling fun b => (b.xFail x n).giveCredit n [])) ∧
        (b.xFail x n).xu.outs = b.xu.outs.filter (fun t => !(t.pkt.dst = x.pkt.dst && t.space = x.space)) ∧
        (smWf false b.xu.resyncDue = true → smGet false (b.xFail x n).xu.resyncDue (spaceKey x.pkt.dst x.space) = true))) ∧
    (b.xFind space target.toNat tid.toNat = some x →
      let m := x.via.getD 0 % 36
      (x.reissues < b.fld (.lnk 0) 0x068 16 4 → exec (.transactionTimeout space target tid) s =
        .next (s.withBlk (b.settling fun b => (b.log (.lnk m) 19).xReissue x true))) ∧
      (b.fld (.lnk 0) 0x068 16 4 ≤ x.reissues → exec (.transactionTimeout space target tid) s =
        .next (s.withBlk (b.settling fun b => (b.log (.lnk m) 19).xFail x m))))

/-- On a comm core whose slot names a data queue of its own job: CS.TAKE of an untaken launch writes its record and ordinal when
nothing of it has arrived early and its job is not absent, or it has no deadline. Inside a taken launch CS.EXPECT opens an expectation and sends a
clear-to-send, CS.SEND with no clear-to-send held enters a send, CS.REL of a step whose expectations are all met frees them,
CS.END with no send open ends the lane with OK. CS.NEXT returns the only deliverable event of the slot's queues, arrival order being
enabled for those that use it. A core without a
lane takes COLLECTIVE with kind 1. (R269, R271, R272, R273, R274, R275, R284, Table 10.3) -/
def Obligations.CollectiveStepInstructions : Prop :=
∀ (s : State) (p : Fin 12) (i : Fin 153) (w : BitVec 64) (q : Fin 64) (l : Nat) (x : CLaunch),
    let b := s.blk
    let e := b.entered p i 0
    let t := b.slot p i 0
    let y := (b.queue p q).lane l
    let step := wordField w 27 12
    let rank := t.s (wordField w 49 5) % 2 ^ 20
    let len := wordField (t.word (wordField w 22 5)) 0 24
    let doff := wordField (t.word (wordField w 22 5)) 24 24
    let goOn (b : Block) : Block := b.modSlot p i 0 Slot.executed
    let rankOk : Prop := rank < b.reg (.coll p q) 0x04C ∧ rank ≠ (b.queue p q).rank
    b.Settled →
    ((b.part p).laneOf t.lcore = none → wordField w 43 6 = q → b.Runs p i 0 w.toNat 6 6 →
      exec (.csEnd p i 0 w) s = .next (s.withBlk (e.coreFault p i 0 .collective (0x1000 + q)))) ∧
    ((b.part p).laneOf t.lcore = some l →
      (b.Runs p i 0 w.toNat 6 5 → b.dataQueue p i 0 q = true → ∀ (ev st rk stat : Nat) (y' : CLane),
        (∀ k < 64, k ≠ q.val → b.dataQueue p i 0 k = true → (b.queue p k).event l = none) →
        (∀ k < 64, b.dataQueue p i 0 k = true → (b.queue p k).cur.any (·.arrivalOrder) = true → bit (b.reg (.coll p k) 0x040) 8 = true) →
        (b.queue p q).event l = some (ev, st, rk, stat, y') →
        exec (.csNext p i 0 w) s = .next (s.withBlk ((e.modLane p q l fun _ => y').modSlot p i 0 fun t =>
          { (t.setS (wordField w 49 5) (q + ev * 2 ^ 8 + st * 2 ^ 16 + rk * 2 ^ 32 + stat * 2 ^ 52)) with csLast := q }.executed))) ∧
      (wordField w 43 6 = q → b.dataQueue p i 0 q = true →
        (b.Runs p i 0 w.toNat 6 1 → b.recordOk p i 0 (t.addr (wordField w 39 4) w.toNat) = true → (b.queue p q).cur = some x →
          y.taken = false → y.ended = none → y.store = [] → y.lostCts = [] →
          b.isAbsent (b.queue p q).job = false ∨ x.deadline = 0 →
          ∃ b' : Block, exec (.csTake p i 0 w) s = .next (s.withBlk b') ∧
            b'.ram = (e.memWrite (coreBase p i + t.addr (wordField w 39 4) w.toNat) x.rec').ram ∧
            b'.slots = (e.modSlot p i 0 fun t => (t.setS (wordField w 49 5) (x.ordinal % 2 ^ 32)).executed).slots ∧
            b'.queues = (e.modLane p q l fun y => { y with taken := true, notified := true, seq := 0, occ := 0 }).queues) ∧
        (y.taken = true → (b.queue p q).cur = some x →
          (b.Runs p i 0 w.toNat 6 2 → rankOk → len ≠ 0 → len % 64 = 0 → doff % 64 = 0 → doff + len ≤ b.winSlot p q →
            y.exps.length < 64 → (∀ z ∈ y.exps, z.step % 16 = step % 16 → z.step = step) → (b.part p).preempt = false →
            (b.part p).state ≠ .preemptDeferred →
            exec (.csExpect p i 0 w) s = .next (s.withBlk (e.settling fun e => goOn ((e.modLane p q l fun y =>
              { y with seq := y.seq + 1, exps := y.exps ++ [{ step := step, rank := rank, bytes := len, doff := doff, seq := y.seq, tick := b.merid.count }] }).toRank
                p q l rank 1 step x.ordinal len 0 [] 0 none)))) ∧
          (let a := (t.a (wordField w 39 4) + wordField w 0 19) % 2 ^ 64
          b.Runs p i 0 w.toNat 6 3 → rankOk → doff = 0 → len ≠ 0 → len % 64 = 0 → len ≤ b.winSlot p q → a + len ≤ 0x80000 →
            y.sends.length < 64 → y.store = [] →
            exec (.csSend p i 0 w) s = .next (s.withBlk (goOn (e.modLane p q l fun y => { y with seq := y.seq + 1, sends :=
              y.sends ++ [{ step := step, rank := rank, bytes := len, src := a, seq := y.seq }] })))) ∧
          (b.Runs p i 0 w.toNat 6 4 → (∃ z ∈ y.exps, z.step = step) → (∀ z ∈ y.exps, z.step = step → z.met.isSome = true) →
            exec (.csRel p i 0 w) s = .next (s.withBlk (goOn (e.modLane p q l fun y =>
              { y with exps := y.exps.filter fun z => z.step ≠ step, freed := y.freed ++ y.exps.filter fun z => decide (z.step = step) && !z.told })))) ∧
          (b.Runs p i 0 w.toNat 6 6 → (∀ z ∈ y.sends, z.done.isSome = true) →
            (∃ k < b.lanes p, k ≠ l ∧ ((b.queue p q).lane k).ended = none) →
            exec (.csEnd p i 0 w) s = .next (s.withBlk (goOn (e.modLane p q l fun y =>
              { y with taken := false, notified := true, ended := some 0, exps := [], sends := [], freed := [] })))))))

/-- QUEUE_BIND of an unbound queue by an allowed requester writes the fields and, with a member table that gives a rank, binds the
queue to its job, group and rank with no launches; with none it raises BIND_ERR. QUEUE_UNBIND of an empty bound queue unbinds it.
CS.LAUNCH to a queue that is not the job's writes 1, to a library-launched one 2, and to its own queue with fewer than eight
launches it appends one and writes 0. CS.VOTE counts the contribution on the vote queue and goes on; CS.VWAIT writes the result of
the slot's latest vote and otherwise waits. A library-launched queue with no launch whose counter is 0 takes nothing, and with 1 or
more consumes 1 and takes the next ring record. How votes are numbered and when NF is sampled is the model's reading (assumption log
73), and so is what a write to a bound queue and an unbinding do (log 77). (R261, R265, R266, R267, R268, R280, R281, R282) -/
def Obligations.LaunchAndVoteInstructions : Prop :=
∀ (s : State) (p : Fin 12) (i : Fin 153) (w : BitVec 64) (q : Fin 64) (req : Requester) (v : BitVec 32),
    s.blk.boot.power = .on → s.blk.Settled →
    let b := s.blk
    let e := b.entered p i 0
    let t := b.slot p i 0
    let c := b.queue p q
    let word := wordField (v.zeroExtend 64) 0 24 + wordField (v.zeroExtend 64) 29 2 * 2 ^ 29
    let b1 := b.setReg (.coll p q) 0x044 word
    (b.MayWrite (.coll p q) req → c.bound = false →
      (∀ b2, b1.bindRank p q (!v.getLsbD 30 && !v.getLsbD 29) = (none, b2) →
        exec (.queueBind p q req v) s = .next (s.withBlk (b2.raise (.coll p q) 4))) ∧
      (∀ b2 r, b1.bindRank p q (!v.getLsbD 30 && !v.getLsbD 29) = (some r, b2) → v.getLsbD 30 = false →
        exec (.queueBind p q req v) s = .next (s.withBlk ((b2.modQueue p q fun c =>
          { c with bound := true, job := ((b2.part p).bindP.map (·.1)).getD 0, vote := false, library := v.getLsbD 29, group := wordField (v.zeroExtend 64) 0 24,
                   rank := r, draining := false, pending := [], binds := b2.coll.binds + 1, nextOrd := 0, ring := 0, lanes := [], votes := [],
                   slowNew := true, absents := [] }).modColl fun c => { c with binds := c.binds + 1 })))) ∧
    (b.MayWrite (.coll p q) req → c.bound = true → c.pending = [] → word = b.reg (.coll p q) 0x044 →
      exec (.queueUnbind p q req v) s = .next (s.withBlk (b.modQueue p q fun c =>
        { c with bound := false, draining := false, lanes := [], votes := [] }))) ∧
    (b.Runs p i 0 w.toNat 6 0 → wordField w 48 6 = q → b.recordOk p i 0 (t.addr (wordField w 44 4) w.toNat) = true →
      let told (n : Nat) : State := s.withBlk (e.modSlot p i 0 fun t => (t.setS (wordField w 39 5) n).executed)
      let mine := c.bound && c.job = t.job && !c.draining && (b.hdr (.coll p q)).enaW ≠ some false
      (mine = false → exec (.csLaunch p i 0 w) s = .next (told 1)) ∧
      (mine = true → c.vote = false →
        (c.library = true → exec (.csLaunch p i 0 w) s = .next (told 2)) ∧
        (c.library = false → c.pending.length < 8 → smWf {} b.queues = true → ∃ (b' : Block) (bs : List Nat),
          exec (.csLaunch p i 0 w) s = .next (s.withBlk b') ∧ (e.memRead (coreBase p i + t.addr (wordField w 44 4) w.toNat) 64).1 = bs ∧
          (b'.queue p q).pending = c.pending ++ [⟨c.nextOrd, c.group, takenRecord bs (bit (b.reg (.coll p q) 0x040) 8)⟩] ∧
          (b'.queue p q).nextOrd = (c.nextOrd + 1) % 2 ^ 32 ∧ b'.slots = (told 0).blk.slots))) ∧
    (wordField w 43 6 = q → c.bound = true → c.job = t.job → c.vote = true →
      let o := smGet 0 c.votes i
      (b.Runs p i 0 w.toNat 6 7 →
        let nf := if w.getLsbD 42 && t.flags.testBit 7 then 1 else 0
        exec (.csVote p i 0 w) s = .next (s.withBlk (((e.modQueue p q fun c => { c with votes := smPut 0 c.votes i (o + 1) }).modColl fun g =>
          g.modVote c.job c.group o fun y => { y with value := y.value ||| (t.s (wordField w 49 5) % 2 ^ 63 ||| nf),
                                                      slots := if y.slots.contains (p.val, i.val) then y.slots else y.slots ++ [(p.val, i.val)] }).modSlot p i 0 Slot.executed))) ∧
      (b.Runs p i 0 w.toNat 6 8 → o ≠ 0 →
        (∀ r, (b.coll.vote c.job c.group (o - 1)).bind (·.result) = some r →
          exec (.csVwait p i 0 w) s = .next (s.withBlk (e.modSlot p i 0 fun t => (t.setS (wordField w 49 5) r).executed))) ∧
        ((b.coll.vote c.job c.group (o - 1)).bind (·.result) = none →
          exec (.csVwait p i 0 w) s = .next (s.withBlk ((if t.wait = .coll then e else e.syncTrace p i 0).modSlot p i 0 fun t =>
            { t with wait := .coll, waitWord := w.toNat }))))) ∧
    (c.bound = true → c.library = true → c.draining = false → c.pending = [] → (b.hdr (.coll p q)).enaW ≠ some false →
      ∀ n, b.ctrNum p 0 (b.fld (.coll p q) 0x064 0 12) = some n →
        b.canAccess (b.pair (.coll p q) 0x05C 0x060 12 + 64 * (c.ring % 64)) 64 = true →
        ((b.syn p).ctr n = 0 → exec (.libraryLaunchTake p q) s = .next s) ∧
        ((b.syn p).ctr n ≠ 0 → b.coll.mism = [] → smWf {} b.syncs = true → smWf {} b.queues = true → smWf 0 (b.syn p).ctrs = true →
          ∃ b' : Block, exec (.libraryLaunchTake p q) s = .next (s.withBlk b') ∧ (b'.syn p).ctr n = (b.syn p).ctr n - 1 ∧
            (b'.queue p q).ring = c.ring + 1 ∧ (b'.queue p q).pending.length = 1 ∧ b'.slots = b.slots))

/-- The next packet in order of its issuer, for a device-launched queue whose current launch it names and a lane that has not ended,
is performed and answered: a clear-to-send starts the matching send or is kept; DATA that does not complete its expectation is
written in the slot and counted; ABORT and ABSENT end the launch, whose lane then shows that status. A VOTE_UP adds its value and
its sender once; a VOTE_DOWN with no child heard delivers its result. An expectation overdue at COLL_DEADLINE ends the launch with
DEADLINE and the cause 3; a vote overdue beyond its deadline's tick returns all ones and reports the job fault; an arrival overdue
in the mismatch store leaves it; a deferral that has run out is counted and holds the pre-emption back no more, one that has not
ends nothing. A vote's deadline acts once its tick is over (the model's reading, assumption log 146). (R273, R274, R276, R282, R284,
R285, R286, R287) -/
def Obligations.CollectiveArrivalsAndDeadlines : Prop :=
∀ (s : State) (n : Fin 36) (k : Pkt) (p : Fin 12) (q : Fin 64) (l : Fin 32) (x : CLaunch) (job : BitVec 16) (group : BitVec 24) (ordinal : Nat),
    let b := s.blk
    b.boot.power = .on → b.Settled → smWf {} b.queues = true →
    let key := spaceKey k.owner k.space
    let b1 := b.setNext key (k.tid + 1)
    let y := (b.queue p q).lane l
    let done (f : Block) : State := s.withBlk (b.settling fun _ => (f.respond n k 0 0 [] 0).giveCredit n [])
    let arrives : Prop := b.carries n k = true ∧ k.pois = 0 ∧ b.isSelf k.dst = true ∧ k.kind = 5 ∧ k.resync = false ∧
      smGet false b.xu.known key = true ∧ smGet 0 b.xu.next key = k.tid ∧ b.xu.hold = []
    let current : Prop := b.partOf k.job k.lpart = some (p.val, 0) ∧ b.queueFor p k.job k.group k.ordinal = some q.val ∧
      (b.queue p q).library = false ∧ (b.queue p q).cur = some x ∧ x.ordinal % 2 ^ 32 = k.ordinal ∧ k.lane = l ∧
      b.laneGone p l = false ∧ y.ended = none ∧ b.isAbsent (b.queue p q).job = false ∧ smWf {} (b.queue p q).lanes = true
    (arrives → current →
      (k.sub = 1 →
        (∀ z, (y.sends.find? fun z => z.rank = k.rank && z.step = k.step && !z.sent) = some z → z.bytes = k.off →
          exec (.ctsReceive n k) s = .next (done (b1.transmit p q l x.ordinal z))) ∧
        ((y.sends.find? fun z => z.rank = k.rank && z.step = k.step && !z.sent) = none → y.store.length < 256 →
          exec (.ctsReceive n k) s = .next (done (b1.modLane p q l fun y => { y with store := y.store ++ [k] })))) ∧
      (k.sub = 0 → ∀ z i, (y.exps.find? fun z => z.rank = k.rank && z.step = k.step && z.met.isNone && decide (k.off + k.data.length ≤ z.bytes)) = some z →
        (b.part p).laneCore l = some i → z.got + k.data.length < z.bytes →
        let a := coreBase p i + b.fld (.coll p q) 0x058 16 7 * 4096 + b.winSlot p q * (z.step % 16) + z.doff + k.off
        exec (.collDataReceive n k) s = .next (done ((k.segments.foldl (fun b g => b.memWrite (a + g.1) g.2.1 g.2.2) b1).modLane p q l fun y =>
          { y with exps := y.exps.map (fun u => if u = z then { z with got := z.got + k.data.length } else u), occ := y.occ + 1 }))) ∧
      (∀ f : Block, f = b1.launchFail p q l k.sub k.failed →
        (k.sub = 2 → exec (.abortReceive n k) s = .next (done f) ∧ (f.queue p q).pending = (b.queue p q).pending.drop 1 ∧
          ((f.queue p q).lane l).endEv = some 2) ∧
        (k.sub = 3 → exec (.absentReceive n k) s = .next (done f) ∧ (f.queue p q).pending = (b.queue p q).pending.drop 1 ∧
          ((f.queue p q).lane l).endEv = some 3))) ∧
    (arrives →
      (k.sub = 4 → (∀ z ∈ b.coll.votes, ¬ (z.job = k.job ∧ z.group = k.group ∧ z.ordinal = k.ordinal)) →
        exec (.voteUpReceive n k) s = .next (done (b1.modColl fun c => { c with votes := c.votes ++
          [{ job := k.job, group := k.group, ordinal := k.ordinal, value := leNat (k.data.take 8), ups := [k.src] }] }))) ∧
      (k.sub = 5 → ∀ z, b.coll.vote k.job k.group k.ordinal = some z → (b.votePage k.job k.group).isSome = true → z.result = none → z.ups = [] →
        exec (.voteDownReceive n k) s = .next (done (b1.voteResult z (leNat (k.data.take 8)) false)))) ∧
    ((b.queue p q).cur = some x → x.deadline ≠ 0 →
      (∀ z, y.exps = [z] → z.met = none →
        (b.merid.count < z.tick + x.deadline → exec (.collDeadline p q l) s = .next s) ∧
        (z.tick + x.deadline ≤ b.merid.count → exec (.collDeadline p q l) s = .next (s.withBlk (b.settling fun b => (b.memberRead p q z.rank).launchFail p q l 1
          (x.failed (b.member p q z.rank).1 z.step z.rank)))))) ∧
    (∀ z qv pv t, b.coll.vote job.toNat group.toNat ordinal = some z → b.votePage job.toNat group.toNat = some (pv, qv) → z.launch = some t →
      z.result = none → t + b.fld (.coll pv qv) 0x074 0 8 < b.merid.count →
      exec (.voteDeadline job group ordinal) s = .next (s.withBlk (((((b.voteResult z 0xFFFFFFFFFFFFFFFF true).raise (.coll pv qv) 5).log
        (.coll pv qv) 13).jobFault pv 5 job.toNat qv 0x7FF)))) ∧
    (∀ z, b.coll.mism = [z] → z.1 = p.val →
      (z.2.1 + b.fld (.coll p 0) 0x040 16 8 ≤ b.merid.count → exec (.orderMismatch p) s =
        .next (s.withBlk (b.settling fun b => (b.modColl fun v => { v with mism := [] }).mismatch p z.2.2))) ∧
      (b.merid.count < z.2.1 + b.fld (.coll p 0) 0x040 16 8 → exec (.orderMismatch p) s = .next s)) ∧
    ((b.part p).state = .preemptDeferred →
      (b.merid.count < (b.part p).preemptAt + b.fld (.coll p 0) 0x040 24 8 → exec (.deferTimeout p) s = .next s) ∧
      ((b.part p).preemptAt + b.fld (.coll p 0) 0x040 24 8 ≤ b.merid.count → (∀ q l, ((b.queue p q).lane l).waitRanks = []) →
        exec (.deferTimeout p) s = .next (s.withBlk ((b.log (.coll p 0) 16).modPart p fun z => { z with deferOver := true }))))

/-- RING_BIND of an unbound ring writes its job and partition and sets PROD to CONS; RING_UNBIND of a bound ring unbinds it and
leaves its step. STEP_RECORD_POST moves PROD at most four ahead of CONS. UPDATE_STEP_START takes a posted record, unpoisoned and
valid, with a region list unpoisoned and valid, into the vote phase, and a record or a list that is not valid ends with status 3 and
stops the ring. A result with none of the record's mask bits starts the regions; one with such a bit ends the step skipped, every
region ended. A lost vote ends it with status 2, no region ended and no counter of DONE_CTR moved. REGION_END of an unpoisoned
region writes element 0's new master value as R305 gives it when the region has one element; an element whose new values are not
finite is guarded and keeps all three words. UPDATE_STEP_END of a finished step advances CONS and keeps the step number, the status
and the energy counted so far; a step not finished, or whose engine is paused, stays. What becomes of the records of an unbound
ring, and PROD at a rebinding (assumption log 82), and that REGION_END reads and writes its region at one moment (assumption log 81)
are the model's readings. (R303, R304, R305, R306, R308, R310, R313, R391, Table
11.10, Table 11.13) -/
def Obligations.UpdateStepRunsThroughItsPhases : Prop :=
∀ (s : State) (r : Fin 12) (req : Requester) (v : BitVec 32) (n : BitVec 8) (x : UpdStep),
    let b := s.blk
    let q := b.ring r
    let o := 0x10C + 32 * r.val
    let part := wordField (v.zeroExtend 64) 16 4
    b.boot.power = .on → smWf {} b.upd.rings = true → smWf {} b.pages = true →
    (b.MayWrite .upd req →
      (q.bound = false → part < 12 → exec (.ringBind r req v) s = .next (s.withBlk ((b.setReg .upd o (part * 2 ^ 16 + v.toNat % 65536)).modRing r
        fun q => { q with bound := true, prod := q.cons, stopped := false }))) ∧
      (q.bound = true → v.toNat % 2 ^ 20 = b.reg .upd o →
        exec (.ringUnbind r req v) s = .next (s.withBlk (b.modRing r fun q => { q with bound := false }))) ∧
      ((n.toNat + 256 - q.cons) % 256 ≤ 4 →
        exec (.stepRecordPost r req n) s = .next (s.withBlk (b.modRing r fun q => { q with prod := n.toNat }))) ∧
      (4 < (n.toNat + 256 - q.cons) % 256 → ∃ b' : Block, exec (.stepRecordPost r req n) s = .next (s.withBlk b') ∧
        (b'.ring r).prod = (q.cons + 4) % 256 ∧ (b'.hdr .upd).clampCnt = sat16 (b.hdr .upd).clampCnt)) ∧
    (b.updPaused = false →
      (q.step = none → q.bound = true → q.stopped = false → q.prod ≠ q.cons → b.updOn = true →
        ∀ bs b2, b.canAccess (b.pair .upd (0x100 + 32 * r) (0x104 + 32 * r) 8 + 64 * (q.cons % 4)) 64 = true →
          b.memRead (b.pair .upd (0x100 + 32 * r) (0x104 + 32 * r) 8 + 64 * (q.cons % 4)) 64 = (bs, false, b2) →
          (b2.stepOk bs = true → ∀ ls b3, b2.memRead (dF bs 0x10 8) (64 * dF bs 0x18 4) = (ls, false, b3) →
            (b3.regionsOk (dF bs 0x18 4) ls = true → ∃ b' : Block, exec (.updateStepStart r) s = .next (s.withBlk b') ∧
              (b'.ring r).step = some { rec' := bs } ∧ b'.ram = b3.ram ∧ b'.upd.cur = some r.val) ∧
            (b3.regionsOk (dF bs 0x18 4) ls = false → smWf {} b3.pages = true → ∃ b' : Block, exec (.updateStepStart r) s = .next (s.withBlk b') ∧
              (b'.ring r).step = some { rec' := bs, phase := .finished, status := 3 } ∧ (b'.ring r).stopped = true ∧ b'.causeSet .upd 3 = true)) ∧
          (b2.stepOk bs = false → smWf {} b2.pages = true → ∃ b' : Block, exec (.updateStepStart r) s = .next (s.withBlk b') ∧
            (b'.ring r).step = some { rec' := bs, phase := .finished, status := 3 } ∧ (b'.ring r).stopped = true ∧ b'.causeSet .upd 3 = true)) ∧
      (q.step = some x → x.phase = .vote → ∀ z val, b.stepVoteOf r x = some z → z.result = some val →
        (z.lost = true → ∃ b' : Block, exec (.updateStepVote r) s = .next (s.withBlk b') ∧
          (b'.ring r).step = some { x with vote := val, phase := .finished, status := 2 } ∧ b'.syncs = b.syncs) ∧
        (z.lost = false → val &&& (dF x.rec' 8 8 ||| (2 ^ 63 + 1)) = 0 → exec (.updateStepVote r) s =
          .next (s.withBlk (b.modRing r fun q => { q with step := some { x with vote := val, phase := .regions } }))) ∧
        (z.lost = false → val &&& (dF x.rec' 8 8 ||| (2 ^ 63 + 1)) ≠ 0 → ∃ b' : Block, exec (.updateStepVote r) s = .next (s.withBlk b') ∧
          (b'.ring r).step = some { x with vote := val, regions := dF x.rec' 0x18 4, phase := .finished, status := 1 } ∧
          (bit (b.reg .eyep 0x040) 0 = false → b'.ram = b.ram))) ∧
      (q.step = some x → x.phase = .regions → ∀ rg hb b2 b3 b4, b.memRead (dF x.rec' 0x10 8 + 64 * x.regions) 64 = (rg, false, b2) →
        b2.memRead (dF rg 0x38 8) 64 = (hb, false, b3) → dF rg 0 1 = 2 → dF rg 1 1 = 0 → dF rg 4 4 = 1 →
        ∀ g w m b5 b6, b3.memNat (dF rg 0x28 8) 4 = (g, false, b5) → b5.memNat (dF rg 0x10 8) 4 = (w, false, b6) →
          b6.memNat (dF rg 0x18 8) 4 = (m, false, b4) →
          let u := updateElement 2 (hyperOf hb) g w m 0
          ∃ b' : Block, exec (.regionEnd r) s = .next (s.withBlk b') ∧ ((b'.ring r).step.map (·.regions)) = some (x.regions + 1) ∧
            (bit (b.reg .eyep 0x040) 0 = false → b'.ram = ((b4.memWrite (dF rg 0x10 8) (leBytes 4 u.1)).memWrite (dF rg 0x18 8) (leBytes 4 u.2.1)).ram) ∧
            b'.upd.elements = b.upd.elements + (if u.2.2.2 then 0 else 1) ∧ b'.upd.guards = b.upd.guards + (if u.2.2.2 then 1 else 0))) ∧
    (q.step = some x → ∀ unc : Bool,
      (x.phase = .finished → b.updPaused = false → ∃ b' : Block, exec (.updateStepEnd ⟨r, unc⟩) s = .next (s.withBlk b') ∧
        (b'.ring r).step = none ∧ (b'.ring r).cons = (q.cons + 1) % 256 ∧ (b'.ring r).lastStep = dF x.rec' 0 8 ∧
        (b'.ring r).lastStatus = x.status ∧ (b'.ring r).seenUj = b.helio.jobUj ∧ b'.upd.cur = none ∧ b'.slots = b.slots) ∧
      (x.phase ≠ .finished ∨ b.updPaused = true → exec (.updateStepEnd ⟨r, unc⟩) s = .next s)) ∧
    (∀ (opt : Nat) (h : Hyper) (g w m v : BitVec 32),
      let u := updateElement opt h g.toNat w.toNat m.toNat v.toNat
      (u.2.2.2 = true → u.1 = w.toNat ∧ u.2.1 = m.toNat ∧ u.2.2.1 = v.toNat) ∧
      (u.2.2.2 = false → nonFinite u.1 = false ∧ nonFinite u.2.1 = false ∧ nonFinite u.2.2.1 = false))

/-- A write of RHOST_CFG with another owner, by firmware or between owners other than firmware, stores it, raises the owner cause,
and waits for the core's next trap boundary, which a trap is (the model's choice of boundaries: assumption log 158): the core is then
offline for owner 3 and stopped otherwise, and job code that it takes the core from ends with its JOB_FAULT. A write by
other software to or from the firmware owner keeps the register and is a clamp. RHOST_WATCHDOG on a firmware-owned core raises
WATCHDOG and counts it, and does nothing on another. JOB_TRAP on a core that runs job code which is not paused, with no change of owner
waiting, stops it with its cause and pc and raises JOB_FAULT, and does nothing on another, or on one that is paused. Memory and slots do not change when no Eyepiece traces. (R314, R315, R317, R368,
Table 11.14) -/
def Obligations.ResidentHostOwnership : Prop :=
∀ (s : State) (h : Fin 32) (req : Requester) (v : BitVec 32) (cause : BitVec 8) (pc : BitVec 57) (translation : Bool),
    let b := s.blk
    let was := b.fld (.rhost h) 0x040 30 2
    let own := wordField (v.zeroExtend 64) 30 2
    let ends (c : Instr) (f : Block → Prop) : Prop := ∃ b' : Block, exec c s = .next (s.withBlk b') ∧ f b' ∧ b'.slots = b.slots ∧
      (bit (b.reg .eyep 0x040) 0 = false → b'.ram = b.ram)
    b.boot.power = .on → smWf {} b.pages = true → smWf {} b.rhosts = true → smWf 0 b.regs = true →
    (b.MayWrite (.rhost h) req → wordField (v.zeroExtend 64) 16 4 < 12 → own ≠ was →
      (req = .mgmtCtl ∨ req = .rhostFw ∨ req = .remoteFw ∨ (own ≠ 0 ∧ was ≠ 0) → ends (.rhostOwnerChange h req v) fun b' =>
        b'.reg (.rhost h) 0x040 = own * 2 ^ 30 + v.toNat % 2 ^ 20 ∧ b'.causeSet (.rhost h) 1 = true ∧
        (b'.rhost h).moveDue = true ∧ (b'.rhost h).state = (b.rhost h).state ∧
        ((b.rhost h).ended = none → ((b'.rhost h).ended.isSome = true ↔ was = 1))) ∧
      (req ≠ .mgmtCtl → req ≠ .rhostFw → req ≠ .remoteFw → own = 0 ∨ was = 0 → ends (.rhostOwnerChange h req v) fun b' =>
        b'.reg (.rhost h) 0x040 = b.reg (.rhost h) 0x040 ∧ (b'.hdr (.rhost h)).clampCnt = sat16 (b.hdr (.rhost h)).clampCnt ∧ b'.rhost h = b.rhost h)) ∧
    (was = 0 → ends (.rhostWatchdog h) fun b' => b'.causeSet (.rhost h) 2 = true ∧ b'.rhosts = b.rhosts ∧
      ((b.hdr (.rhost h)).freeze = false → smWf 0 b.logs = true → b'.logOf (.rhost h) 2 = sat16 (b.logOf (.rhost h) 2))) ∧
    (was ≠ 0 → exec (.rhostWatchdog h) s = .next s) ∧
    (b.updPaused = true → exec (.jobTrap h cause pc translation) s = .next s) ∧
    (b.updPaused = false → (b.rhost h).moveDue = true → ends (.jobTrap h cause pc translation) fun b' =>
      (b'.rhost h).moveDue = false ∧ (b'.rhost h).ended = none ∧ (b'.rhost h).state = (if was = 3 then .offline else .stopped) ∧
      ((b.rhost h).ended.isSome = true → b'.causeSet (.rhost h) 0 = true)) ∧
    (b.updPaused = false → (b.rhost h).moveDue = false →
      (was = 1 → ends (.jobTrap h cause pc translation) fun b' => (b'.rhost h).state = .stopped ∧ (b'.rhost h).cause = cause.toNat ∧
        (b'.rhost h).pc = pc.toNat ∧ b'.causeSet (.rhost h) 0 = true) ∧
      (was ≠ 1 → exec (.jobTrap h cause pc translation) s = .next s))

/-- ADMIT_JOB sets EPH_LAST, admits the job exactly for status 0 or 1, and moves no slot. JOB_BIND of an admitted job of one logical
partition, bound nowhere yet, to a free partition writes the shadow's binding and asks for a commit when no neighbour shows another
digest, its update ring is idle and a backfill job bound there has its THRESH and RUN_LEN; of a job not admitted, to a partition not
free or while its ring is busy it changes nothing, nor does a backfill job whose THRESH or RUN_LEN are not the primary's. EPH_COMMIT
asks for a commit. EPH_COMMIT_APPLY at a frame boundary refuses a bad shadow, waits while a rebinding's partition has a transaction
outstanding (R257) and for the step boundary where the group layout changes, else makes the shadow active and counts the generation;
with no commit asked it does nothing. REPAIR_REBIND takes the lowest spare core of a working cluster that is not halted; where the
partition runs its job it waits for the pre-emption it asks for and restarts the rebalance count. ROUTE_REWRITE writes an entry that
selects a link out of service with a valid one whose candidates are in service, and no other. STAGE_REBALANCE without permission, of
layers not movable, or away from the step boundary does nothing; it clears the count at a step not imbalanced; at one that is it
counts, and after REBAL_STEPS such steps writes the choice byte of the slowest stage's first movable layer with the neighbour towards
the fastest, raises its cause and keeps the new layout, or declines. The model's readings: operands that it tests (assumption logs 87,
90), slots that stay keep their state (89), a step boundary lasts until the next tick (151), neighbours' digests (171), what a decline
is (172), the capacity that admitted jobs take (180). (R137, R257, R318, R319, R320, R322, R326, R327, R330, R331, R332, Table 12.5) -/
def Obligations.PlacementCommands : Prop :=
∀ (s : State) (p lp : Fin 12) (c : Fin 8) (k : Fin 16) (x : Nat) (req : Requester) (j : JobImage) (job : BitVec 16) (d : Fin 49152) (w : BitVec 32)
    (times : List Nat) (layers : List (Nat × BitVec 48)) (sp : JobImage),
    let b := s.blk
    let q := b.part p
    let kept (b' : Block) : Prop := b'.slots = b.slots ∧ b'.syncs = b.syncs
    b.boot.power = .on → smWf {} b.parts = true → smWf 0 b.regs = true →
    (∀ st, st = b.admitStatus j (j.spill b.hbmReserve (b.capFree j.job)) →
      ∃ b' : Block, exec (.admitJob j) s = .next (s.withBlk b') ∧ kept b' ∧ b'.eph.lastStatus = st ∧ b'.eph.lastJob = j.job ∧
        (j.job ∈ b'.eph.admitted ↔ st ≤ 1) ∧ (∀ m, m ≠ j.job → (m ∈ b'.eph.admitted ↔ m ∈ b.eph.admitted))) ∧
    (job.toNat ∈ b.eph.admitted → b.digestsAgree job.toNat = true → b.partFree p = true → b.ringBusy job.toNat = false →
      (∀ j' x', (b.eph.jobs.find? fun e => e.1.job = job.toNat) = some (j', x') → j'.asks.length ≤ 1 ∧ (j'.asks = [] ∨ lp.val = 0)) →
      (∀ j' l', b.shadowBind p 1 = some (j', l') → smGet (32, 2) b.eph.escs j' = smGet (32, 2) b.eph.escs job.toNat) →
      (∀ n < 12, b.shadowBind n 0 ≠ some (job.toNat, lp.val) ∧ b.shadowBind n 1 ≠ some (job.toNat, lp.val)) → ∃ b' : Block,
      exec (.jobBind job false [(lp, p)]) s = .next (s.withBlk b') ∧ kept b' ∧ b'.shadowBind p 0 = some (job.toNat, lp.val) ∧
      (b'.part p).commit = true ∧ (b'.part p).bindP = q.bindP) ∧
    (job.toNat ∉ b.eph.admitted ∨ b.partFree p = false ∨ b.ringBusy job.toNat = true → exec (.jobBind job false [(lp, p)]) s = .next s) ∧
    (∀ j' l', b.shadowBind p 0 = some (j', l') → j' ∈ b.eph.admitted → smGet (32, 2) b.eph.escs j' ≠ smGet (32, 2) b.eph.escs job.toNat →
      exec (.jobBind job true [(lp, p)]) s = .next s) ∧
    (req ≠ .job → exec (.ephCommit p req) s = .next (s.withBlk (b.modPart p fun q => { q with commit := true }))) ∧
    (q.commit = false → exec (.ephCommitApply p) s = .next s) ∧
    (q.commit = true → b.commitNow p = true →
      (b.shadowBad p = true → ∃ b' : Block, exec (.ephCommitApply p) s = .next (s.withBlk b') ∧ kept b' ∧
        b'.part p = { q with commit := false, commitDue := false }) ∧
      (b.shadowBad p = false → b.rebinds p = true → b.partBusyOut p = true → exec (.ephCommitApply p) s = .next s) ∧
      (b.shadowBad p = false → b.newLayout p = true → b.coll.stepNow.contains ((q.jobOf 0).getD 0) = false →
        exec (.ephCommitApply p) s = .next s) ∧
      (b.shadowBad p = false → b.rebinds p = false ∨ b.partBusyOut p = false →
        b.newLayout p = false ∨ b.coll.stepNow.contains ((q.jobOf 0).getD 0) = true →
        ∃ b' : Block, exec (.ephCommitApply p) s = .next (s.withBlk b') ∧ (b'.part p).commit = false ∧
        (b'.part p).bindP = b.shadowBind p 0 ∧ (b'.part p).bindB = b.shadowBind p 1 ∧ (b'.part p).actGen = (q.actGen + 1) % 65536 ∧
        (∀ c < 8, ∀ k < 16, smGet 0 (b'.part p).amap c = b.shadowC p c ∧ smGet 0 (b'.part p).amap (16 + 16 * c + k) = b.shadowK p c k) ∧
        b'.eph.gen = (b.eph.gen + 1) % 2 ^ 32)) ∧
    (b.partRuns p = true → ∀ m, m = (q.bindP.map (·.1)).getD 0 → ∃ b' : Block, exec (.repairRebind p c (some k)) s = .next (s.withBlk b') ∧
      kept b' ∧ b'.eph = { b.eph with imbalanced := smPut 0 b.eph.imbalanced m 0 } ∧ b'.part p = { q with
        repairs := q.repairs ++ [(c.val, some k.val)], preempt := true, preemptAt := if q.preempt then q.preemptAt else b.merid.count } ∧
      ∀ p' : Fin 12, (b.part p').jobOf 0 ≠ q.jobOf 0 → b'.part p' = b.part p') ∧
    (b.partRuns p = false → ∀ pc, pc = b.shadowC p c % 16 → (b.shadowBind p 0).isSome = true → q.clusterOk pc = true →
      (((q.goodCores pc).filter fun n => !(b.core p (17 * pc + n)).halted).find? fun n =>
        !((List.range 16).map fun m => b.shadowK p c m % 32).contains n) = some x →
      ∃ b' : Block, exec (.repairRebind p c (some k)) s = .next (s.withBlk b') ∧ kept b' ∧ b'.shadowK p c k = 128 + x ∧
        (b'.part p).commit = true ∧ (∀ m < 16, m ≠ k.val → b'.shadowK p c m = b.shadowK p c m)) ∧
    exec (.routeRewrite []) s = .next s ∧
    (b.routeLost (b.route d) = false ∨ bit (cleanRoute w.toNat) 31 = false ∨ b.routeLost (cleanRoute w.toNat) = true → exec (.routeRewrite [(d, w)]) s = .next s) ∧
    (smWf 0 b.routes = true → b.routeLost (b.route d) = true → bit (cleanRoute w.toNat) 31 = true → b.routeLost (cleanRoute w.toNat) = false → ∃ b' : Block, exec (.routeRewrite [(d, w)]) s = .next (s.withBlk b') ∧ kept b' ∧
      (∀ n, (smGet 0 b'.routes n ^^^ 0x3FFFFFFF) = if n = d.val then BitVec.ofNat 32 (cleanRoute w.toNat) else smGet 0 b.routes n ^^^ 0x3FFFFFFF)) ∧
    exec (.stageRebalance job false times layers sp) s = .next s ∧
    let ls := layers.map fun e => (e.1, e.2.toNat)
    (b.coll.stepNow.contains job.toNat = false ∨ b.mayMove job.toNat ls = false →
      exec (.stageRebalance job true times layers sp) s = .next s) ∧
    (b.mayMove job.toNat ls = true → 2 ≤ times.length → (∀ t ∈ times, ∀ u ∈ times, t = u) → (∀ r < 12, (b.ring r).step = none) →
      b.coll.stepNow.contains job.toNat = true → exec (.stageRebalance job true times layers sp) s =
        .next (s.withBlk { b.modColl fun c => { c with stepNow := c.stepNow.erase job.toNat } with
          eph := { b.eph with imbalanced := smPut 0 b.eph.imbalanced job.toNat 0 } })) ∧
    (let slow := stageOf (fun a b => decide (b < a)) times
    let fast := stageOf (fun a b => decide (a < b)) times
    let n := smGet 0 b.eph.imbalanced job.toNat + 1
    b.mayMove job.toNat ls = true → 2 ≤ times.length → b.ringBusy job.toNat = false → b.coll.stepNow.contains job.toNat = true →
      times.getD fast 0 * (100 + b.fld .eph 0x040 16 8) < times.getD slow 0 * 100 →
      (n < b.fld .eph 0x040 24 8 → exec (.stageRebalance job true times layers sp) s =
        .next (s.withBlk { b.modColl fun c => { c with stepNow := c.stepNow.erase job.toNat } with
          eph := { b.eph with imbalanced := smPut 0 b.eph.imbalanced job.toNat n } })) ∧
      (b.fld .eph 0x040 24 8 ≤ n → smWf 0 b.eph.imbalanced = true → smWf {} b.pages = true → bit (b.reg .eyep 0x040) 0 = false →
        ∀ l, (layers.find? fun l => l.1 = slow) = some l → ∃ b' : Block,
          exec (.stageRebalance job true times layers sp) s = .next (s.withBlk b') ∧ kept b' ∧ smGet 0 b'.eph.imbalanced job.toNat = 0 ∧
          b'.coll.stepNow = b.coll.stepNow.erase job.toNat ∧
          (∀ to', to' = (if slow < fast then slow + 1 else slow - 1) →
          (b.spillFree sp = true → b.canAccess l.2.toNat 1 = true → b.mayStand job.toNat (moveLayer slow to' ls) sp = true →
            b'.ram = (b.memWrite l.2.toNat [to' % 256]).ram ∧ b'.causeSet .eph 2 = true ∧
            b'.eph.jobs = b.eph.jobs.map fun e => if e.1.job = job.toNat then (sp, {}) else e) ∧
          (b.spillFree sp = false ∨ b.canAccess l.2.toNat 1 = false ∨ b.mayStand job.toNat (moveLayer slow to' ls) sp = false →
            b'.ram = b.ram ∧ b'.eph.jobs = b.eph.jobs))))

/-- On a page that exists, with PKG_RST_N not held: HDR_LOCK_SET of an unlocked page locks it for the requester, and of a locked
one, and of a CLUS page, which has no lock, does nothing. IRQ_CAUSE_CLEAR clears exactly the causes written 1. CLAMP_CNT_CLEAR
clears on a write of 0 and ignores others. LOGBOOK_CLEAR clears each of the two counters whose half is 0 and no other. BLOCK_DISABLE
stores ENABLE 0 and BLOCK_ENABLE ENABLE 1, ending a drain (of a link, LinkStateTransitions says more). A locked page's ENABLE keeps
its value and counts the clamp; where ENABLE is RO, in CLUS and VREG pages, both do nothing. LOGBOOK_SNAPSHOT with the snapshot off,
at another count than a multiple of 1,024, or of a block held in reset, does nothing; otherwise it writes 576 bytes that begin with
the count (a failed write has taken its sequence number: the model's choice, assumption log 118). A page that does not exist ignores
all of them. That a refused write sets the clamp record (assumption log 7) and what ENABLE and LOCK are on each page (log 9) are the
model's readings. (R30, R35, R36, R39, R41, R43, R44, R386, R394, R466, Table 1.12, Table 1.16) -/
def Obligations.PageHeaderCommands : Prop :=
∀ (s : State) (key : BitVec 20) (req : Requester) (v : BitVec 32) (c : BitVec 16) (m : Fin 128) (pg : Page) (unc : Bool),
    let b := s.blk
    let h := b.hdr pg
    let same (b' : Block) : Prop := b'.ram = b.ram ∧ b'.regs = b.regs
    b.boot.power ≠ .reset → b.boot.power ≠ .dark → req ≠ .job → smWf {} b.pages = true →
    (pageOf key.toNat = none → exec (.hdrLockSet key req) s = .next s ∧ exec (.irqCauseClear key req v) s = .next s ∧
      exec (.clampCntClear key req c) s = .next s ∧ exec (.logbookClear key req m v) s = .next s ∧
      exec (.blockEnable key req) s = .next s ∧ exec (.logbookSnapshot key unc) s = .next s ∧
      (b.Settled → exec (.blockDisable key req) s = .next s)) ∧
    (pageOf key.toNat = some pg →
      (h.lock = true → exec (.hdrLockSet key req) s = .next s) ∧
      (h.lock = false → (∀ p c, pg ≠ .clus p c) → exec (.hdrLockSet key req) s =
        .next (s.withBlk (b.modHdr pg fun h => { h with lock := true, owner := req.code }))) ∧
      (∀ p c, pg = .clus p c → exec (.hdrLockSet key req) s = .next s) ∧
      (∃ b' : Block, exec (.irqCauseClear key req v) s = .next (s.withBlk b') ∧ same b' ∧ (b'.hdr pg) = { h with irqStat := h.irqStat &&& ~~~ v } ∧
        (∀ k, k ≠ pg.key → smGet {} b'.pages k = smGet {} b.pages k)) ∧
      (smWf 0 b.logs = true → ∃ b' : Block, exec (.logbookClear key req m v) s = .next (s.withBlk b') ∧ same b' ∧
        (∀ n, smGet 0 b'.logs n = if (n = pg.key * 256 + 2 * m ∧ v.toNat % 65536 = 0 ∧ 2 * m < pg.logCount) ∨
          (n = pg.key * 256 + 2 * m + 1 ∧ v.toNat / 65536 = 0 ∧ 2 * m + 1 < pg.logCount) then 0 else smGet 0 b.logs n)) ∧
      (b.MayWrite pg req →
        (c = 0 → exec (.clampCntClear key req c) s = .next (s.withBlk (b.modHdr pg fun h => { h with clampCnt := 0 }))) ∧
        (c ≠ 0 → exec (.clampCntClear key req c) s = .next s) ∧
        ((∀ n, pg ≠ .lnk n) → (∀ p c, pg ≠ .clus p c) → (∀ r, pg ≠ .vreg r) → (∀ p r, pg ≠ .vregP p r) → b.Settled →
          (b.enabled pg = true → ∃ b' : Block, exec (.blockDisable key req) s = .next (s.withBlk b') ∧ same b' ∧
            (b'.hdr pg).enaW = some false ∧ b'.enabled pg = false) ∧
          (b.enabled pg = false → ∃ b' : Block, exec (.blockEnable key req) s = .next (s.withBlk b') ∧ same b' ∧
            (b'.hdr pg).enaW = some true ∧ (b'.hdr pg).draining = false))) ∧
      (b.lockedOut pg req = true → b.enabled pg = true → pg.enableRo = false → b.Settled →
        exec (.blockDisable key req) s = .next (s.withBlk (b.clamped pg 0x00C)) ∧ exec (.blockEnable key req) s = .next s) ∧
      (pg.enableRo = true → exec (.blockEnable key req) s = .next s ∧ (b.Settled → exec (.blockDisable key req) s = .next s)) ∧
      (h.snapEn = false ∨ b.merid.count % 1024 ≠ 0 ∨ b.heldInReset pg = true → exec (.logbookSnapshot key unc) s = .next s) ∧
      (h.snapEn = true → b.merid.count % 1024 = 0 → b.heldInReset pg = false →
        let b1 := b.modHdr pg fun h => { h with snapSeq := (h.snapSeq + 1) % 2 ^ 32 }
        (unc = true ∨ b.canAccess (h.logBase.toNat * 1024) 576 = false →
          exec (.logbookSnapshot key unc) s = .next (s.withBlk ((b1.log .mgmt 1).raise .mgmt 1))) ∧
        (unc = false → b.canAccess (h.logBase.toNat * 1024) 576 = true → ∃ bs : List Nat, bs.length = 576 ∧
          bs.take 8 = leBytes 8 b.merid.count ∧
          exec (.logbookSnapshot key unc) s = .next (s.withBlk (b1.memWrite (h.logBase.toNat * 1024) bs)))))

/-- With PKG_RST_N not held and nothing to settle, REGISTER_WRITE by a job is refused; of a size other than 4 or 8, at an offset
that is no multiple of it, or with poison it changes nothing but MGMT's cause, counter and the error response; at an absent page it
only answers. By a requester the page admits, a write of any RW word with no rule of its own and no action bit set stores each field
clamped to its legal value, counts one clamp when a field was out of range, and keeps every other word; a frame-bound word waits; a
write of 8 bytes is the low word's and then the high word's; one that HDR_LOCK shuts out stores nothing and counts a clamp if it
would have changed the word. A write of EYEP_CORE by a requester the page admits stores each field, a partition above 11 as 11 and a core above 152
as 152, and counts one clamp exactly when a field was out of range; shut out by HDR_LOCK with other values it stores nothing and
counts one. A write of CORE_BF_CFG waits for its frame boundary: the register keeps its value. REGISTER_READ_CLEAR of
MERID_PHASE_PEAK, MERID_COUNT_LO and HELIO peak power, where the word is not poisoned, answers the word and, in turn, clears the
field, latches the high count, clears the field; a poisoned word is observed and answered as 0 with an error response. That a
refused write sets the clamp record (assumption log 7), that a frame-bound write waits where no frames run (log 12) and how a
refusal shows (log 8) are the model's readings. (R7, R21, R26, R30, R31, R35, R37, R38, R39, R378) -/
def Obligations.RegisterAccesses : Prop :=
∀ (s : State) (req : Requester) (off : BitVec 32) (size : BitVec 4) (v : BitVec 64) (pois : Bool) (p : Fin 12) (i : Fin 153),
    let b := s.blk
    let at' (pg : Page) (o : Nat) : BitVec 32 := BitVec.ofNat 32 (pg.addr o)
    let told (b : Block) (x : Nat) : State := s.withBlk (b.emit (.mgmtResp x false))
    b.boot.power ≠ .reset → b.boot.power ≠ .dark → b.Settled → smWf {} b.pages = true → smWf 0 b.regs = true →
    exec (.registerWrite .job off size v pois) s = .next (s.withBlk (b.emit (.memRefused (0x30000000000 + off.toNat)))) ∧
    (∀ x, exec (.registerReadClear .job off x) s = .next (s.withBlk (b.emit (.memRefused (0x30000000000 + off.toNat))))) ∧
    (req ≠ .job →
      (pois = true ∨ ¬ ((size = 4 ∨ size = 8) ∧ off.toNat % size.toNat = 0) →
        exec (.registerWrite req off size v pois) s = .next (s.withBlk b.badAccess)) ∧
      (¬ ((size = 4 ∨ size = 8) ∧ off.toNat % size.toNat = 0) →
        ∀ ev, exec (.registerReadClear req off ⟨size, ev⟩) s = .next (s.withBlk b.badAccess)) ∧
      (off.toNat % 4 = 0 → exec (.registerReadClear req off ⟨4, .poisoned⟩) s = .next (s.withBlk ((b.observePoison .mgmt).emit (.mgmtResp 0 true)))) ∧
      (off.toNat % 4 = 0 → pageOf (off.toNat / 4096) = none → exec (.registerWrite req off 4 v false) s = .next (told b 0) ∧
        exec (.registerReadClear req off ⟨4, .none⟩) s = .next (told b 0)) ∧
      (∀ (pg : Page) (o : Nat), off.toNat = pg.addr o → pageOf (off.toNat / 4096) = some pg → o % 4 = 0 → 0x040 ≤ o → o < 0xE00 →
        let lo := v.toNat % 2 ^ 32
        let hi := v.toNat / 2 ^ 32
        let seen (f : RwField) : Nat := pg.fieldSees f (bits lo f.lo f.width)
        let plain (b : Block) (o x : Nat) : Prop :=
          pg.rwMask o ≠ 0 ∧ b.ownWrite pg o x req = none ∧ ∀ b1 : Block, b1.actWrite pg o x = b1
        let b1 := b.rwWrite pg o lo
        (b.MayWrite pg req → plain b o lo →
          exec (.registerWrite req off 4 v false) s = .next (told b1 0) ∧
          (off.toNat % 8 = 0 → plain b1 (o + 4) hi →
            exec (.registerWrite req off 8 v false) s = .next (told (b1.rwWrite pg (o + 4) hi) 0)) ∧
          (pg.pairOf o = none → pg.frameBound o = false →
            b1.reg pg o = ((pg.fields o).map fun f => b.clampTo pg f lo (seen f) * 2 ^ f.lo).sum % 2 ^ 32 ∧
            (b1.hdr pg).clampCnt = (if (pg.fields o).any fun f => decide (b.clampTo pg f lo (seen f) ≠ seen f) then
              sat16 (b.hdr pg).clampCnt else (b.hdr pg).clampCnt) ∧
            b1.ram = b.ram ∧ b1.slots = b.slots ∧ (∀ n, n ≠ (pg.home o).addr o → smGet 0 b1.regs n = smGet 0 b.regs n)) ∧
          (pg.pairOf o = none → pg.frameBound o = true →
            b1.regs = b.regs ∧ (b1.frameBound.any fun w => w.off = (pg.home o).addr o) = true)) ∧
        (b.lockedOut pg req = true → (∀ b2 : Block, b2.actWrite pg o lo = b2) →
          exec (.registerWrite req off 4 v false) s = .next (told (if b.rwChanges pg o lo then b.clamped pg o else b) 0))) ∧
      (∀ f g, f = wordField v 16 4 → g = wordField v 0 8 →
        (b.MayWrite .eyep req → ∃ b' : Block, exec (.registerWrite req (at' .eyep 0x050) 4 v false) s = .next (told b' 0) ∧
          b'.reg .eyep 0x050 = Nat.min f 11 * 2 ^ 16 + Nat.min g 152 ∧
          (b'.hdr .eyep).clampCnt = (if 11 < f ∨ 152 < g then sat16 (b.hdr .eyep).clampCnt else (b.hdr .eyep).clampCnt) ∧
          b'.ram = b.ram ∧ b'.slots = b.slots ∧ (∀ n, n ≠ Page.eyep.addr 0x050 → smGet 0 b'.regs n = smGet 0 b.regs n)) ∧
        (b.lockedOut .eyep req = true → g + f * 2 ^ 16 ≠ b.reg .eyep 0x050 % 2 ^ 8 + b.fld .eyep 0x050 16 4 * 2 ^ 16 → b.frameBound = [] →
          exec (.registerWrite req (at' .eyep 0x050) 4 v false) s = .next (told (b.clamped .eyep 0x050) 0))) ∧
      (b.MayWrite (.core p i) req → ∃ b' : Block, exec (.registerWrite req (at' (.core p i) 0x040) 4 v false) s = .next (told b' 0) ∧
        b'.regs = b.regs ∧ (b'.frameBound.any fun w => w.off = (Page.core p i).addr 0x040 && w.part = some p.val) = true) ∧
      exec (.registerReadClear req (at' .merid 0x068) ⟨4, .none⟩) s = .next (told { b with merid := { b.merid with phasePeak := 0 } } (b.word .merid 0x068)) ∧
      exec (.registerReadClear req (at' .merid 0x058) ⟨4, .none⟩) s =
        .next (told { b with merid := { b.merid with latchHi := b.merid.count / 2 ^ 32 % 65536 } } (b.word .merid 0x058)) ∧
      exec (.registerReadClear req (at' .helio 0x054) ⟨4, .none⟩) s = .next (told { b with helio := { b.helio with peak := 0 } } (b.word .helio 0x054)))

/-- With PKG_RST_N not held: eight ticks in phase take LOCKING and OUT_OF_STEP to LOCKED; a good tick symbol of the current period
on a running link takes LISTEN and CLAIM to LOCKING, its count adopted next, and HOLDOVER to LOCKED when its epoch is current; a
better claim takes CLAIM to LOCKING, another does nothing; a MASTER_ID naming a better master takes the four running states to
LOCKING under that master, one naming a worse master keeps the state; MASTER_TO silent ticks take LISTEN to CLAIM and HOLDOVER to
CLAIM with frames; no better claim takes CLAIM with a nonzero PRIO to MASTER with the next epoch; two silent ticks take LOCKED and OUT_OF_STEP to
HOLDOVER. A symbol with a bad CRC-8 is only counted. A tick symbol of another period is counted, takes LISTEN and CLAIM to LOCKING
and with the current epoch HOLDOVER to LOCKED, but is not followed (the model's reading, assumption log 122). PRIO written 0 waits for the next tick, which takes MASTER to LISTEN.
MASTER_ID goes out at counts that are multiples of 1,024. That MASTER_TO counts from the entry of the state (assumption log 14), that
a better claim heard bars CLAIM_WON (log 156) and that symbols are taken in RETRY and SPARING (log 183) are the model's readings. (R48, R52, R53, R54, R55, R57, R58, Table 2.3, Table 2.4) -/
def Obligations.MeridianStateTransitions : Prop :=
∀ (s : State) (n : Fin 36) (x : BitVec 128) (req : Requester) (arrive : Int), s.blk.boot.power ≠ .reset → s.blk.boot.power ≠ .dark →
    let b := s.blk
    let m := b.merid
    let goes (c : Instr) (f : Merid → Prop) : Prop := ∃ b' : Block, exec c s = .next (s.withBlk b') ∧ f b'.merid ∧
      b'.slots = b.slots ∧ b'.regs = b.regs ∧ b'.merid.count = m.count
    let good (t : Nat) : Prop := ctlGood x.toNat = true ∧ ctlByte x.toNat 0 = t ∧ (b.link n).state.live = true
    let y := tickSym x.toNat
    let c := (ctlByte x.toNat 1, x.toNat / 2 ^ 16 % 2 ^ 64)
    (m.state = .locking ∨ m.state = .outOfStep →
      (8 ≤ m.lockStreak → goes .lockAchieved fun z => z.state = .locked) ∧ (m.lockStreak < 8 → exec .lockAchieved s = .next s)) ∧
    (ctlGood x.toNat = false → exec (.tickSymbolReceive n x) s = .next (s.withBlk ((b.log .merid 5).log (.lnk n) 12)) ∧
      exec (.claimReceive n x) s = .next (s.withBlk ((b.log .merid 5).log (.lnk n) 12)) ∧
      exec (.masterIdReceive n x) s = .next (s.withBlk (b.log (.lnk n) 12))) ∧
    (good 1 → y.period ≠ m.period → goes (.tickSymbolReceive n x) fun z => z.adopt = m.adopt ∧ z.heard = true ∧ z.state =
      (if m.state = .listen ∨ m.state = .claim then .locking else if m.state = .holdover ∧ y.epoch = m.epoch then .locked else m.state)) ∧
    (good 1 → y.period = m.period →
      (m.state = .listen ∨ (m.state = .claim ∧ (m.claimFrames = false ∨ y.epoch = m.epoch ∨ laterEpoch m.epoch y.epoch = true)) →
        goes (.tickSymbolReceive n x) fun z => z.state = .locking ∧ z.adopt = some y.count ∧ z.followLink = some n.val) ∧
      (m.state = .holdover → y.epoch = m.epoch → goes (.tickSymbolReceive n x) fun z => z.state = .locked)) ∧
    (good 2 → m.state = .claim →
      (better c (b.prio, puid) = true → goes (.claimReceive n x) fun z => z.state = .locking ∧
        z.claimBest = some (if (m.claimBest.all fun y => better c y) then c else m.claimBest.getD c)) ∧
      (better c (b.prio, puid) = false → exec (.claimReceive n x) s = .next s)) ∧
    (good 10 → m.state = .locked ∨ m.state = .outOfStep ∨ m.state = .holdover ∨ m.state = .master → c.2 ≠ m.masterPuid →
      (better c (m.masterPrio, m.masterPuid) = true → goes (.masterIdReceive n x) fun z =>
        z.state = .locking ∧ z.masterPrio = c.1 ∧ z.masterPuid = c.2 ∧ z.followLink = some n.val ∧ z.inLink = some n.val) ∧
      (better c (m.masterPrio, m.masterPuid) = false → goes (.masterIdReceive n x) fun z => z.state = m.state ∧ z.masterPuid = m.masterPuid)) ∧
    (m.state = .listen → b.masterTo ≤ m.stateTicks → b.prio ≠ 0 → goes .masterTimeout fun z => z.state = .claim ∧ z.claimFrames = false) ∧
    (m.state = .holdover → b.masterTo ≤ m.stateTicks → b.prio ≠ 0 → goes .holdoverClaim fun z => z.state = .claim ∧ z.claimFrames = true) ∧
    (m.state = .claim → b.prio ≠ 0 → (∀ x, m.claimBest = some x → better x (b.prio, puid) = false) → goes .claimWon fun z =>
      z.state = .master ∧ z.epoch = (m.epoch + 1) % 256 ∧ z.masterPrio = b.prio ∧ z.masterPuid = puid) ∧
    (m.state ≠ .claim ∨ b.prio = 0 → exec .claimWon s = .next s) ∧
    (m.state = .locked ∨ m.state = .outOfStep → 2 ≤ m.silentTicks → goes .holdoverEntry fun z => z.state = .holdover) ∧
    (b.MayWrite .merid req → ∃ b' : Block, exec (.masterResign req) s = .next (s.withBlk b') ∧ b'.merid = m ∧
      b'.regNow .merid 0x040 % 2 ^ 8 = 0 ∧ b'.regs = b.regs) ∧
    (m.state = .master → b.prio = 0 → b.frameBound = [] → b.coll.votes = [] → b.Settled →
      ∃ b' : Block, exec (.tick arrive) s = .next (s.withBlk b') ∧ b'.merid.state = .listen) ∧
    (m.count % 1024 = 0 → exec .masterIdBroadcast s = .next (s.withBlk b.sendMasterIds)) ∧
    (m.count % 1024 ≠ 0 → exec .masterIdBroadcast s = .next s)

/-- At the master a TICK adds 1 to the count, modulo 2^48; every partition whose frame is complete starts the frame of that count at
its boundary, and every other falls one frame further behind. FRAME_SLIP beyond OVR_LIMIT is told once. A reference edge under 100
ns wide is ignored, one too early is counted and raises its cause, another is accepted. REF_HOLDOVER two reference periods after the
last edge and HOLDOVER_EXPIRED 10 minutes later raise their causes, and before do nothing. A switch count too near is clamped to 8
ticks ahead; at the armed count the period becomes NEXT and ARM clears. Probes carry the time and are echoed; an echo sets the round
trip and the compensation. The count adopted (assumption log 17), one FRAME_SLIP for each time behind (log 19), the frames behind
while a late frame lasts (log 125) and the reference state that an accepted edge of residual 100 ns or more leaves (log 185) are the
model's readings. (R46, R47, R50, R60, R62, R64, R65, R236, Table 2.5) -/
def Obligations.MeridianKeepsTime : Prop :=
∀ (s : State) (p : Fin 12) (n : Fin 36) (x : BitVec 128) (v rtt : BitVec 32) (req : Requester) (arrive : Int) (dt high residual : Nat),
    s.blk.boot.power ≠ .reset → s.blk.boot.power ≠ .dark → smWf {} s.blk.parts = true → smWf 0 s.blk.regs = true → smWf {} s.blk.pages = true →
    let b := s.blk
    let m := b.merid
    let q := b.part p
    let early : Prop := m.refLast.isSome = true ∧ 2 * dt < b.fld .merid 0x050 0 16 * m.period * 1000
    (m.state = .master → b.prio ≠ 0 → b.frameBound = [] → b.coll.votes = [] → b.Settled →
      (∀ p < 12, (b.part p).abort = false ∧ (b.hdr (.part p)).draining = false ∧ (b.part p).bfStopDue = false) →
      ∃ b' : Block, exec (.tick arrive) s = .next (s.withBlk b') ∧ b'.merid.state = .master ∧
        b'.merid.count = (m.adopt.getD m.count + 1) % 2 ^ 48 ∧ b'.timeUs = Nat.max b.timeUs (m.tickUs + m.period) ∧
        (b.unfinished p = [] → (b'.part p).behind = 0 ∧ (b'.part p).atBoundary = true ∧ (b'.part p).frame = b'.merid.count) ∧
        (b.unfinished p ≠ [] → (b'.part p).behind = q.behind + 1 ∧ (b'.part p).frame = q.frame)) ∧
    (q.slipped = true ∨ q.behind ≤ b.ovrLimit → exec (.frameSlip p) s = .next s) ∧
    (q.slipped = false → b.ovrLimit < q.behind → ∃ b' : Block, exec (.frameSlip p) s = .next (s.withBlk b') ∧
      (b'.part p).slipped = true ∧ b'.causeSet .merid 6 = true ∧ b'.slots = b.slots) ∧
    (m.state ≠ .master ∨ b.refEn = false ∨ high < 100 → exec (.tickRefEdge dt high residual) s = .next s) ∧
    (m.state = .master → b.refEn = true → 100 ≤ high →
      (early → exec (.tickRefEdge dt high residual) s = .next (s.withBlk ((b.log .merid 0).raise .merid 7))) ∧
      (¬ early → ∃ b' : Block, exec (.tickRefEdge dt high residual) s = .next (s.withBlk b') ∧ b'.merid.refLast = some b.timeUs ∧
        b'.merid.refState = if residual < 100 then .refLocked else m.refState)) ∧
    (∀ t, m.refLast = some t → m.state = .master → b.refEn = true → m.refState ≠ .holdover →
      let two := 2 * (b.fld .merid 0x050 0 16 * m.period)
      (t + two ≤ b.timeUs → ∃ b' : Block, exec .refHoldover s = .next (s.withBlk b') ∧ b'.merid.refState = .holdover ∧
        b'.merid.refHoldUs = b.timeUs ∧ b'.causeSet .merid 3 = true) ∧
      (b.timeUs < t + two → exec .refHoldover s = .next s)) ∧
    (m.state = .master → m.refState = .holdover → m.refExpired = false →
      (m.refHoldUs + 600000000 ≤ b.timeUs → ∃ b' : Block, exec .holdoverExpired s = .next (s.withBlk b') ∧
        b'.merid.refExpired = true ∧ b'.causeSet .merid 4 = true) ∧
      (b.timeUs < m.refHoldUs + 600000000 → exec .holdoverExpired s = .next s)) ∧
    (b.MayWrite .merid req → v.getLsbD 31 = true → ∃ b' : Block, exec (.periodSwitchArm req v) s = .next (s.withBlk b') ∧
      b'.switchAt = (if wordField (v.zeroExtend 64) 0 16 * 2 ^ 32 + b.reg .merid 0x048 < m.count + 8 then (m.count + 8) % 2 ^ 48
        else wordField (v.zeroExtend 64) 0 16 * 2 ^ 32 + b.reg .merid 0x048) ∧ b'.merid = m) ∧
    (bit (b.reg .merid 0x04C) 31 = true → m.count = b.switchAt → ∃ b' : Block, exec .periodSwitch s = .next (s.withBlk b') ∧
      b'.merid.period = b.fld .merid 0x044 16 8 ∧ bit (b'.reg .merid 0x04C) 31 = false ∧ b'.causeSet .merid 8 = true) ∧
    (m.count ≠ b.switchAt → exec .periodSwitch s = .next s) ∧
    exec .rttRemeasure s = .next (s.withBlk (b.toLinks b.upLinks ([7] ++ leBytes 8 (b.timeUs * 1000)))) ∧
    (ctlGood x.toNat = true →
      (ctlByte x.toNat 0 = 7 → exec (.rttProbeReceive n x) s =
        .next (s.withBlk (b.sendCtl n ([8] ++ leBytes 8 (x.toNat / 256 % 2 ^ 64))))) ∧
      (ctlByte x.toNat 0 = 8 → smWf {} b.links = true → smWf {} m.links = true → ∃ b' : Block,
        exec (.rttEchoReceive n x rtt) s = .next (s.withBlk b') ∧ (b'.link n).rtt = Nat.min rtt.toNat 65535 ∧
        (b'.mlink n).comp = compOf rtt.toNat))

/-- With PKG_RST_N not held, a good tick symbol that arrives on a running link with a period byte other than the current period
counts a period mismatch (Logbook counter 7 of the MERID page) and steers nothing: the phase error and its peak, the count and the
count to be adopted, the master and its epoch, the period and what each link measured stay as they were, no link begins to be followed, and every link's state
stays. Two configuration digests whose periods differ never agree, so the link's digest check decides.
(R63) -/
def Obligations.OtherPeriodDoesNotSteer : Prop :=
∀ (s : State) (n : Fin 36) (x : BitVec 128) (far : Block) (m : Nat), s.blk.boot.power ≠ .reset → s.blk.boot.power ≠ .dark →
    (ctlGood x.toNat = true → ctlByte x.toNat 0 = 1 → (s.blk.link n).state.live = true → ctlByte x.toNat 8 ≠ s.blk.merid.period →
      ∃ b' : Block, exec (.tickSymbolReceive n x) s = .next (s.withBlk b') ∧ (smWf 0 s.blk.logs = true → smGet 0 b'.logs (Page.merid.key * 256 + 7) = smGet 0 (s.blk.log .merid 7).logs (Page.merid.key * 256 + 7)) ∧
        (let m := s.blk.merid
        let z := b'.merid
        z.phaseErr = m.phaseErr ∧ z.phasePeak = m.phasePeak ∧ z.count = m.count ∧ z.adopt = m.adopt ∧ z.links = m.links ∧ z.period = m.period ∧
          z.masterPrio = m.masterPrio ∧ z.masterPuid = m.masterPuid ∧ z.epoch = m.epoch ∧ (z.followLink = m.followLink ∨ z.followLink = none)) ∧
        b'.links = s.blk.links) ∧
    (s.blk.merid.period ≠ far.merid.period → digestsAgree (s.blk.digest n) (far.digest m) = false)

/-- A HELIOSTAT_LOOP outside a park with a count below 256 keeps the sample, raises the peak, meters the power and sets the bubble
count from power, effective cap and scalable power. CAP_UNREACHABLE after 1 ms of full actuation marks the cap low and raises its
cause. CLOCK_STEP_CHANGE acts only at a frame boundary: a fall at once, a rise once VCORE has slewed to its voltage; VCORE stays where
it is for its slew. FREE_CLOCK_DECISION moves a FREE clock's target one step, within F_STEP. THERMAL_UPDATE at 105 or more sets a partition's held limit and at 100 or less clears it. FACILITY_TARGET_WRITE stores
the nearest legal target and sets the lease, whose expiry, not before its time, clears the target. ENERGY_CALIBRATION within 4/5 to 5/4 in service leaves
the uncalibrated state. (R336, R337, R338, R339, R340, R345, R349, R350, R352, R353, Table 13.4) -/
def Obligations.HeliostatLoopClocksAndHeat : Prop :=
∀ (s : State) (p : Fin 12) (pw : BitVec 16) (parts : List (Fin 12 × BitVec 16 × BitVec 16)) (sense : List (Fin 12 × Fin 9 × BitVec 10 × Bool))
    (reads : LoopReads) (slewed : Bool) (tj hbm : List (BitVec 8)) (hub : BitVec 8) (req : Requester) (v : BitVec 32) (r : BitVec 32),
    s.blk.boot.power ≠ .reset → s.blk.boot.power ≠ .dark → smWf {} s.blk.helioPs = true → smWf 0 s.blk.regs = true → smWf {} s.blk.pages = true →
    let b := s.blk
    let h := b.helio
    let h0 : Helio := { h with samples := (pw.toNat :: h.samples).take 2000, pNow := pw.toNat, peak := Nat.max h.peak pw.toNat, exempt := h.exempt - 1 }
    let b0 : Block := { b with timeUs := b.timeUs + 1, helio := h0 }
    let b1 : Block := { b0 with helio := { h0 with soft := b0.softNext } }
    let lim := if h.atFloor || (List.range 12).any (fun p => (b.hp p).limit) then 256 else b.bmax
    let sc := (parts.map fun x => x.2.1.toNat - x.2.2.toNat).sum * 1000
    let t := tj.getD p 0
    let at' := if b.freeMode p = false then b.fStep p else Nat.min (b.hp p).free (b.fStep p)
    let freeTo := if b.freeMode p = false then at'
      else if (b.hp p).bubSum = 0 ∧ (b.hp p).tj < 90 then Nat.min (at' + 1) (b.fStep p)
      else if 16 * (b.hp p).bubN < (b.hp p).bubSum then at' - 1 else at'
    let goal := b.stepGoal p
    let want := wordField (v.zeroExtend 64) 0 12
    let legal := if want = 0 then 0 else Nat.max 1200 (Nat.min want 3600)
    (h.gauge ≠ .parking → h.f ≠ 256 → ∃ b' : Block, exec (.heliostatLoop pw parts sense reads) s = .next (s.withBlk b') ∧
      b'.helio.f = bubbleCount (pw.toNat * 1000) b1.effCap.1 sc h.f lim ∧ b'.helio.pNow = pw.toNat ∧ b'.helio.peak = Nat.max h.peak pw.toNat ∧
      b'.helio.samples = (pw.toNat :: h.samples).take 2000 ∧ b'.helio.energyUj = h.energyUj + pw.toNat ∧ b'.slots = b.slots ∧ b'.regs = b.regs) ∧
    (h.overUs < 1000 ∨ h.capLow = true → exec .capUnreachable s = .next s) ∧
    (1000 ≤ h.overUs → h.capLow = false → ∃ b' : Block, exec .capUnreachable s = .next (s.withBlk b') ∧ b'.helio = { h with capLow := true } ∧
      b'.causeSet .helio 1 = true) ∧
    ((b.part p).atBoundary = false → exec (.clockStepChange p slewed) s = .next s) ∧
    ((b.part p).atBoundary = true → h.capLow = false → ∃ b' : Block, exec (.clockStepChange p slewed) s = .next (s.withBlk b') ∧
      (b'.hp p).fNow = (if goal ≤ (b.hp p).fNow ∨ (slewed = true ∧ vCurve p goal ≤ (b.hp p).vNow p) then goal else (b.hp p).fNow) ∧
      (b'.hp p).vNow p = (b.hp p).vNow p ∧ b'.slots = b.slots) ∧
    (∃ b' : Block, exec (.freeClockDecision p) s = .next (s.withBlk b') ∧ b'.hp p = { b.hp p with bubSum := 0, bubN := 0, free := freeTo }) ∧
    (∃ b' : Block, exec (.thermalUpdate tj hub hbm) s = .next (s.withBlk b') ∧ (b'.hp p).tj = t.toNat ∧ b'.helio.hubTj = hub.toNat ∧
      (105 ≤ t.toNat → (b'.hp p).limit = true) ∧ (t.toNat ≤ 100 → (b'.hp p).limit = false) ∧
      (100 < t.toNat → t.toNat < 105 → (b'.hp p).limit = (b.hp p).limit) ∧
      (93 < t.toNat → t.toNat < 95 → (b'.hp p).therm = (b.hp p).therm) ∧ (t.toNat ≤ 93 → (b'.hp p).therm = (b.hp p).therm - 8)) ∧
    (b.MayWrite .helio req → ∃ b' : Block, exec (.facilityTargetWrite req v) s = .next (s.withBlk b') ∧ b'.target = legal ∧
      b'.fld .helio 0x04C 16 8 = wordField (v.zeroExtend 64) 16 8 ∧
      b'.helio.leaseEnd = (if wordField (v.zeroExtend 64) 16 8 = 0 then none else some (b.timeUs + wordField (v.zeroExtend 64) 16 8 * 1000000)) ∧
      (b'.hdr .helio).clampCnt = (if legal = want then (b.hdr .helio).clampCnt else sat16 (b.hdr .helio).clampCnt)) ∧
    (h.leaseEnd = none → exec .targetLeaseExpiry s = .next s) ∧
    (∀ t, h.leaseEnd = some t → (b.timeUs < t → exec .targetLeaseExpiry s = .next s) ∧
      (t ≤ b.timeUs → ∃ b' : Block, exec .targetLeaseExpiry s = .next (s.withBlk b') ∧ b'.target = 0 ∧ b'.helio.leaseEnd = none ∧
        b'.causeSet .helio 7 = true)) ∧
    (4 * 16384 ≤ 5 * r.toNat → 4 * r.toNat ≤ 5 * 16384 → (b.part p).fftGo = false → b.boot.ready = true → ∃ b' : Block,
      exec (.energyCalibration ((List.range 12).map fun n => if n = p.val then some r else none)) s = .next (s.withBlk b') ∧
      (b'.hp p).uncal = false ∧ (b'.hp p).cal = r.toNat ∧ (b'.hp p).calUs = b.timeUs)

/-- Two low samples of PWR_SHED_N begin a shed, one is only counted; its release starts a hold of five ticks, whose end raises its
cause; a second of low raises SHED_STUCK once. Input loss starts the gauge, but before RAILS a low VIN_MAIN alone loses nothing; a
return before the park ends it. A gauge sample at RESERVE, and LINKREF loss, begin the park: count 256, links that carry
data draining and the others down (those not up yet too: the model's reading, assumption log 195), the regulators but VHUB's off and
the data plane at rest where no link drains, the record held. PARK_COMPLETE, THERMTRIP, the 9.0 V cut-off, VSTBY loss, over-voltage
and a fault of a package-wide regulator turn the package off with every regulator off, and where PKG_RST_N was recognised during a
park hold it in reset; VSTBY loss releases THERMTRIP_N and ALERT_N too; over-voltage is remembered, THERMTRIP drives its latch. One
fault of a partition's regulator turns it off and keeps the package on; a second one loses the partition; the links of a faulted
link regulator fail. The end of a shed's hold leaves falls of power ungoverned for 2,000 loops (the model's choice, assumption log
174). A recalibration stores the clamped capacitance. A management-controller reset and watchdog keep the power state, the latches
and memory. The rounding of the estimates and of C_H (assumption log 97), what an input loss raises and counts (log 152) and that a
park takes links not yet up, DIGEST and QUARANTINE among them, to DISABLED (log 195) are the model's readings. (R346, R351, R354,
R355, R357, R359, R360, R429, R446, R447, R454, Table 13.5) -/
def Obligations.ShedLossParkAndPowerOff : Prop :=
∀ (s : State) (n : Nat) (pin vin : Bool) (v0 v : BitVec 16) (q : BitVec 32) (k : Fin 53) (kind : BitVec 3),
    let b := s.blk
    let h := b.helio
    let ends (c : Instr) (f : Block → Prop) : Prop := ∃ b' : Block, exec c s = .next (s.withBlk b') ∧ f b'
    let off (b' : Block) : Prop := b'.boot.power = .off ∧ b'.boot.ready = false ∧ (∀ k < 53, (b'.vrg k).on = false) ∧ b'.slots = []
    let parks (b' : Block) : Prop := b'.helio.gauge = .parking ∧ b'.helio.f = 256 ∧ b'.boot.park.isSome = true ∧
      (∀ n < 36, (b'.link n).state = match (b.link n).state with
        | .linkup | .retry | .sparing | .drainDisable _ => .drainDisable false
        | .detect | .train | .align | .digest | .quarantine | .drainQuarantine => .disabled
        | st => st) ∧
      ((∀ n < 36, (b'.link n).state ≠ .drainDisable false) → b'.boot.power = .parked ∧ ∀ k < 52, (b'.vrg k).on = false) ∧ (b'.vrg 52).on = (b.vrg 52).on ∧
      ((∃ n < 36, (b'.link n).state = .drainDisable false) → b'.boot.power = .on ∧ b'.vregs = b.vregs)
    b.boot.power = .on → smWf {} b.parts = true → smWf {} b.vregs = true → smWf {} b.links = true → smWf {} b.pages = true → smWf 0 b.regs = true →
    (h.pinLow = false → exec (.shedAssert 0) s = .next s ∧ exec (.shedAssert 1) s = .next (s.withBlk (b.log .helio 3)) ∧
      ends (.shedAssert (n + 2)) fun b' => b'.helio.pinLow = true ∧ b'.helio.hold = none ∧ b'.helio.atFloor = true ∧ b'.causeSet .helio 2 = true) ∧
    (h.pinLow = true → (h.gauge = .normal → ends .shedDeassert fun b' => b'.helio = { h with pinLow := false, hold := some 5, short := none }) ∧
      (h.stuck = false → h.shedUs + 1000000 ≤ b.timeUs → ends .shedStuck fun b' =>
        b'.helio = { h with stuck := true } ∧ b'.causeSet .helio 4 = true)) ∧
    (h.pinLow = false ∨ h.stuck = true ∨ b.timeUs < h.shedUs + 1000000 → exec .shedStuck s = .next s) ∧
    (h.pinLow = false → exec .shedDeassert s = .next s) ∧
    (h.hold = some 0 → ends .shedHoldEnd fun b' => b'.helio = { h with hold := none, exempt := 2000 } ∧ b'.causeSet .helio 3 = true) ∧
    (h.hold ≠ some 0 → exec .shedHoldEnd s = .next s) ∧
    (h.gauge = .normal → vin = true → pin = false → b.beforeRails = true → exec (.inputLoss pin vin v0) s = .next s) ∧
    (h.gauge = .normal → pin = true ∨ (vin = true ∧ b.beforeRails = false) → ends (.inputLoss pin vin v0) fun b' => b'.helio.gauge = .riding ∧ b'.helio.v0 = v0.toNat ∧
      b'.helio.atFloor = true ∧ b'.causeSet .helio 11 = true) ∧
    (h.gauge = .riding → (ends .inputReturn fun b' => b'.helio.gauge = .normal ∧ b'.helio.hold = if h.pinLow then h.hold else some 5) ∧
      (b.reserveReached v.toNat q.toNat = true → ends (.parkBegin v q) parks) ∧
      (b.reserveReached v.toNat q.toNat = false → ends (.parkBegin v q) fun b' => b'.helio.gauge = .riding ∧ b'.boot = b.boot)) ∧
    (h.gauge ≠ .riding → exec .inputReturn s = .next s ∧ exec (.parkBegin v q) s = .next s) ∧
    (h.gauge ≠ .parking → b.boot.rstDue = false → ends (.linkrefLoss v0) parks) ∧
    (b.boot.rstDue = true → exec (.linkrefLoss v0) s =
      .next (s.withBlk { b with boot := { b.boot with rstGone := b.boot.rstGone.map fun x => (x.1, false) } })) ∧
    (b.boot.park.isSome = true → b.boot.rstDue = false → ends .parkComplete off) ∧
    (b.boot.rstDue = false → ends .thermtrip fun b' => off b' ∧ b'.helio.tripped = true ∧ b'.flash.owed = b.flash.owed ++ [0xF4]) ∧
    (b.boot.rstDue = false → ends .finalCutoff off) ∧
    (b.boot.rstDue = true → b.boot.rstGone = none → let held (b' : Block) : Prop := b'.boot.power = .reset ∧ b'.slots = [] ∧ b'.vregs = []
      (b.boot.park.isSome = true → ends .parkComplete held) ∧ ends .finalCutoff held ∧ ends .vinOvervoltage held ∧
      ends .thermtrip fun b' => held b' ∧ b'.helio.tripped = true) ∧
    (ends .vstbyLoss fun b' => b'.boot.power = .dark ∧ b'.boot.ready = false ∧ (∀ k < 53, (b'.vrg k).on = false) ∧ b'.slots = [] ∧
      b'.alert = false ∧ b'.helio.tripped = false ∧ b'.flash.owed = b.flash.owed) ∧
    (b.boot.rstDue = false → ends .vinOvervoltage fun b' => off b' ∧ b'.helio.overVolt = true ∧ b'.alert = true ∧ b'.flash.owed = b.flash.owed ++ [0xF7]) ∧
    ((b.vrg k).failed = false → b.Settled → b.boot.rstDue = false →
      (48 ≤ k.val → k.val ≠ 50 → k.val ≠ 51 → ends (.regulatorFault k kind) off) ∧
      (k.val < 48 → (∀ r < 4, (b.vrg (k / 4 * 4 + r)).failed = false) → ends (.regulatorFault k kind) fun b' =>
        b'.vrg k = { b.vrg k with on := false, failed := true, fault := some kind.toNat } ∧ b'.boot = b.boot ∧ b'.slots = b.slots ∧
        (∀ r, r ≠ k.val → b'.vrg r = b.vrg r)) ∧
      (k.val < 48 → ((List.range 4).filter fun r => (b.vrg (k / 4 * 4 + r)).failed).length = 1 → ends (.regulatorFault k kind) fun b' =>
        (b'.vrg k).on = false ∧ (b'.vrg k).failed = true ∧ (b'.part (k / 4)).lost = true) ∧
      (k.val = 50 ∨ k.val = 51 → ends (.regulatorFault k kind) fun b' => (b'.vrg k).on = false ∧ ∀ n < 36,
        isOlink n = decide (k.val = 51) → (b.link n).state ≠ .disabled → (b'.link n).state = .failed)) ∧
    (∀ used dv, h.adopt = some (used, dv) → h.gauge = .normal → dv ≠ 0 → ends .gaugeRecalibrate fun b' => b'.helio = { h with adopt := none } ∧
      b'.fld .helio 0x05C 0 11 = Nat.max 127 (Nat.min 2000 (used / dv))) ∧
    (let keeps (b' : Block) : Prop := b'.helio = h ∧ b'.boot.power = .on ∧ b'.mgmt.restarts = sat16 b.mgmt.restarts ∧
      b'.mgmt.eventRx = none ∧ b'.causeSet .mgmt 2 = true ∧ b'.slots = b.slots ∧ b'.regs = b.regs
    ends .mgmtWatchdog keeps ∧ (b.boot.mc = false → ends .mgmtControllerReset keeps))

/-- A core, cluster or partition reset by a requester the page admits, none being under way, sets GO, empties both slots of every
core it names, zeroes their memories (and the cluster's, or all clusters') and leaves every other slot and, where it breaks off no
save, byte; where a job is bound it raises JOB_FAULT; a partition's reset keeps the active bindings with nothing of their jobs in it
(the model's reading, assumption log 60), empties its MMU and counters and keeps barrier generations. RESET_COMPLETE clears GO, ends
every core's reset, raises RESET_DONE and, for the level at which the reset began, marks the cores a quick check failed. A requested
warm reset drops the slots, keeps HBM and capacity memory and Meridian, and, HUB having neither failed nor stayed open, boots on the
warm path. PKG_RST_N asserted drops slots and memory and holds the package in reset, or waits for a park, as its release does then;
released with LINKREF_156 present, it boots, and without stays off. Containment journals and requests the warm reset. That all memory reads 0 after PKG_RST_N (assumption log 4), what it keeps for the next boot (log 61),
that a reset's effects happen when it is written (log 103), when poison resets the package (log 113) and what a warm reset keeps of
pages (log 114) are the model's readings. (R377, R380, R382, R383, R384, R398, R449, Table 14.8, Table 14.9, Table 14.10, Table
14.16) -/
def Obligations.ResetsEmptyWhatTheyName : Prop :=
∀ (s : State) (p : Fin 12) (i : Fin 153) (c : Fin 9) (req : Requester) (bad : List (Fin 153)) (rel : Release),
    let b := s.blk
    let ends (c : Instr) (f : Block → Prop) : Prop := ∃ b' : Block, exec c s = .next (s.withBlk b') ∧ f b'
    let gone (b' : Block) (k : Nat) : Prop := b'.slot p k 0 = {} ∧ b'.slot p k 1 = {} ∧ b'.core p k = { inReset := true }
    let zero (b' : Block) (x : Nat) : Prop := smGet 0 b'.ram.mem x = 0 ∧ smGet false b'.ram.poison x = false
    let kept (b' : Block) (x : Nat) : Prop := smGet 0 b'.ram.mem x = smGet 0 b.ram.mem x ∧ smGet false b'.ram.poison x = smGet false b.ram.poison x
    let inCore (k x : Nat) : Prop := coreBase p k ≤ x ∧ x < coreBase p k + 0x80000
    let inClus (k x : Nat) : Prop := clusterBase p k ≤ x ∧ x < clusterBase p k + 0x800000
    let quiet : Prop := bit (b.reg .eyep 0x040) 0 = false
    (b.boot.power = .on →
      (b.MayWrite (.part p) req → (b.part p).resetGo = false → b.Settled → smWf {} b.slots = true → smWf {} b.cores = true →
        smWf {} b.parts = true → smWf 0 b.regs = true → smWf {} b.pages = true →
        (ends (.coreReset p i req) fun b' => gone b' i ∧ (∀ (q : Fin 12) (k : Fin 153) (sl : Fin 2), (q, k) ≠ (p, i) → b'.slot q k sl = b.slot q k sl) ∧
          (b'.part p).resetGo = true ∧ b'.reg (.part p) 0x044 = i.val ∧ (b.jobsAt p i ≠ [] → b'.causeSet (.part p) 0 = true) ∧
          (quiet → ∀ x, (inCore i x → zero b' x) ∧ (¬ inCore i x → kept b' x))) ∧
        (ends (.clusterReset p c req) fun b' => (∀ k : Fin 153, k.val / 17 = c.val → gone b' k) ∧
          (∀ (q : Fin 12) (k : Fin 153) (sl : Fin 2), ¬ (q = p ∧ k.val / 17 = c.val) → b'.slot q k sl = b.slot q k sl) ∧
          (b'.part p).resetGo = true ∧ b'.reg (.part p) 0x044 = 2 ^ 24 + c.val ∧
          (∀ k : Fin 153, k.val / 17 = c.val → b.jobsAt p k ≠ [] → b'.causeSet (.part p) 0 = true) ∧
          (quiet → ∀ x, (inClus c x ∨ (∃ k : Fin 153, k.val / 17 = c.val ∧ inCore k x) → zero b' x) ∧
            (¬ inClus c x → (∀ k : Fin 153, k.val / 17 = c.val → ¬ inCore k x) → kept b' x))) ∧
        (smWf {} b.mmus = true → smWf {} b.syncs = true → smWf {} (b.syn p).bars = true →
          (ends (.partitionReset p req) fun b' => (∀ k : Fin 153, gone b' k) ∧
            (∀ (q : Fin 12) (k : Fin 153) (sl : Fin 2), q ≠ p → b'.slot q k sl = b.slot q k sl) ∧
            (b'.part p).resetGo = true ∧ (b'.part p).bindP = (b.part p).bindP ∧ (b'.part p).bindB = (b.part p).bindB ∧
            (b'.part p).blank = true ∧ (b'.part p).jobs = [] ∧ (b'.part p).state = .resetting ∧
            b'.reg (.part p) 0x044 = 2 * 2 ^ 24 ∧ ((b.part p).jobs ≠ [] → b'.causeSet (.part p) 0 = true) ∧
            b'.mmu p = (b.mmu p).imaged ∧
            (b'.syn p).ctrs = [] ∧ (∀ n, (smGet {} (b'.syn p).bars n) = { gen := (smGet {} (b.syn p).bars n).gen }) ∧
            (quiet → (b.part p).state ≠ .saving → ∀ x, ((∃ k : Fin 9, inClus k x) ∨ (∃ k : Fin 153, inCore k x) → zero b' x) ∧
              ((∀ k : Fin 9, ¬ inClus k x) → (∀ k : Fin 153, ¬ inCore k x) → kept b' x))))) ∧
      ((b.part p).resetGo = false → exec (.resetComplete p bad) s = .next s) ∧
      ((b.part p).resetGo = true → smWf {} b.parts = true → smWf {} b.cores = true → smWf {} b.pages = true →
        smWf false (b.part p).failedCores = true → (ends (.resetComplete p bad) fun b' => (b'.part p).resetGo = false ∧
          (∀ k : Fin 153, (b'.core p k).inReset = false) ∧ b'.causeSet (.part p) 3 = true ∧ b'.slots = b.slots ∧
          (2 ≤ (b.part p).resetLvl → (b'.part p).state = .normal ∧ ∀ k ∈ bad, (b'.part p).coreOk k = false))) ∧
      (b.warmDue = false → exec .packageWarmReset s = .next s) ∧
      (b.warmDue = true → b.helio.gauge = .normal ∨ (b.helio.gauge = .riding ∧ b.poisonTick = false) →
        (∀ e ∈ b.flash.journal, e.step = 5 → e.status ≠ 0 ∧ e.status ≠ 2) → (ends .packageWarmReset fun b' => b'.slots = [] ∧ b'.cores = [] ∧ b'.warmDue = false ∧
        b'.boot.power = .on ∧ b'.boot.path = .warm ∧ b'.boot.step = 3 ∧ b'.boot.ready = false ∧ b'.merid = b.merid ∧
        b'.boot.active = (if b.poisonTick || !(b.flash.bank b.boot.next).valid then b.boot.active else b.boot.next) ∧ b'.flash.bootNum = (b.flash.bootNum + 1) % 2 ^ 32 ∧
        (quiet → b.CachesAgree → ∀ x, (x < 2 ^ 41 → kept b' x) ∧ (2 ^ 41 ≤ x → x < 2 ^ 60 → zero b' x)))) ∧
      (b.helio.gauge ≠ .parking → (ends .pkgRstAssert fun b' => b'.boot.power = .reset ∧ b'.slots = [] ∧ b'.parts = [] ∧ b'.ram = {} ∧
        b'.flash = { b.flash with owed := b.flash.owed ++ [0xF2] } ∧ b'.boot.next = b.boot.next)) ∧
      (b.helio.gauge = .parking → exec .pkgRstAssert s = .next (s.withBlk { b with boot := { b.boot with rstDue := true, rstGone := none } })) ∧
      (b.poisonTick = false ∨ b.warmDue = true → exec .poisonContain s = .next s) ∧
      (b.poisonTick = true → b.warmDue = false → b.helio.gauge = .normal → (ends .poisonContain fun b' => b'.warmDue = true ∧
        (b'.flash.journal.head?.map (·.step)) = some 0xF0 ∧ b'.slots = b.slots ∧ b'.ram = b.ram))) ∧
    (b.boot.rstDue = true → exec (.pkgRstRelease rel) s =
      .next (s.withBlk { b with boot := { b.boot with rstGone := some (rel.tj.toNat, rel.clock) } })) ∧
    (b.boot.rstDue = false → b.boot.power ≠ .reset → exec (.pkgRstRelease rel) s = .next s) ∧
    (b.boot.rstDue = false → b.boot.power = .reset → rel.clock = false → (ends (.pkgRstRelease rel) fun b' =>
      b'.boot = { b.boot with power := .off } ∧ b'.flash = b.flash ∧ b'.slots = b.slots)) ∧
    (b.boot.rstDue = false → b.boot.power = .reset → rel.clock = true → (ends (.pkgRstRelease rel) fun b' => b'.boot.power = .on ∧ b'.boot.step = 1 ∧ b'.boot.started = true ∧
      b'.boot.ready = false ∧ b'.flash.bootNum = (b.flash.bootNum + 1) % 2 ^ 32 ∧ b'.flash.owed = [] ∧ b'.slots = b.slots))

/-- PART_ABORT sets ABORT. PART_PREEMPT of a partition in its normal state sets PREEMPT in every partition of its job that runs. At a
frame boundary PREEMPT_BEGIN defers all of them while lanes of one are busy and its deferral is not over, else saves their normal
channels; PREEMPT_DONE, once nothing is out, keeps the image and raises its cause; neither acts once poison resets the package. PART_RESTORE sets RESTORE; RESTORE_DONE puts the registers of the slots of the bound job's image back and raises its cause. A
patrol visit begins at the next core in service and leaves program counters; a clean end records the count, a mismatch marks the
core and raises PATROL_FAIL. A flat-field test is refused on a bound partition, else runs, ends PASSED or FAILED, and raises
FFT_DONE; the first pass of a package test is followed by the second; a failure that names no core marks none. CLASS_B_RECOVERY
of a plan that the package does not follow does nothing; of another it aborts the job's partitions, uncalibrated from then on,
raises PARTNER_DEGRADED for a new partner on a shared feed and begins the re-mirroring that R329 allows. REMIRROR_REGION copies the words of the first region not yet
copied and records two writes out. Each does nothing where its time has not come. The image's layout (assumption log 104), this
package's part of a recovery (log 105) and the planes that a patrol visit takes (log 111) are the model's readings. (R180, R204, R369, R373, R374, R375, R385, R387, R389, R329, R333, R353) -/
def Obligations.AbortsPatrolsAndPreemption : Prop :=
∀ (s : State) (p : Fin 12) (c : Fin 9) (i : Fin 153) (req : Requester) (late : Bool) (unit : Fin 16) (u f : BitVec 4) (job : BitVec 16)
    (plan : RecoveryPlan) (r : Fin 12) (n : BitVec 32) (master mom1 mom2 work : BitVec 48) (m : Mirror),
    let b := s.blk
    let q := b.part p
    let ends (c : Instr) (f : Block → Prop) : Prop := ∃ b' : Block, exec c s = .next (s.withBlk b') ∧ f b'
    let set (f : Part → Part) : State := s.withBlk (b.modPart p f)
    b.boot.power = .on → req ≠ .job → b.Settled → smWf {} b.parts = true → smWf {} b.pages = true → smWf {} b.engs = true → smWf {} b.slots = true →
    exec (.partAbort p req) s = .next (set fun q => { q with abort := true }) ∧
    (q.preempt = true ∨ q.state ≠ .normal → exec (.partPreempt p req) s = .next s) ∧
    (q.preempt = false → q.state = .normal → ends (.partPreempt p req) fun b' => b'.slots = b.slots ∧ ∀ p' : Fin 12, b'.part p' =
      if p' = p ∨ ((∃ job, q.jobOf 0 = some job ∧ (b.part p').jobOf 0 = some job) ∧ (b.part p').usable = true ∧ (b.part p').preempt = false ∧
        (b.part p').state = .normal) then { b.part p' with preempt := true, preemptAt := b.merid.count } else b.part p') ∧
    (q.preempt = false ∨ q.atBoundary = false ∨ b.poisonTick = true ∨ b.warmDue = true → exec (.preemptBegin p) s = .next s) ∧
    (q.preempt = true → q.state = .normal ∨ q.state = .preemptDeferred → b.poisonTick = false → b.warmDue = false →
      (∀ x ∈ b.preempting p, (b.part x).atBoundary = true ∧ (b.part x).commit = false) →
      ((∃ x ∈ b.preempting p, b.lanesBusy x = true ∧ (b.part x).deferOver = false) → ends (.preemptBegin p) fun b' => b'.slots = b.slots ∧
        ∀ p' : Fin 12, b'.part p' = if p'.val ∈ b.preempting p then { b.part p' with state := .preemptDeferred } else b.part p') ∧
      ((∀ x ∈ b.preempting p, (b.lanesBusy x = false ∨ (b.part x).deferOver = true) ∧ (b.part x).abort = false) →
        ends (.preemptBegin p) fun b' => ∀ p' : Fin 12, p'.val ∈ b.preempting p → (b'.part p').state = .saving ∧
        ∀ j : Fin 36, ∀ ch < 2, b'.chan p' j ch = if (b.chan p' j ch).state = .normal then { b.chan p' j ch with state := .saved } else b.chan p' j ch)) ∧
    (q.state ≠ .saving ∨ b.partBusyOut p = true ∨ b.poisonTick = true ∨ b.warmDue = true → exec (.preemptDone p late) s = .next s) ∧
    (q.state = .saving → b.partBusyOut p = false → b.poisonTick = false → b.warmDue = false → ends (.preemptDone p late) fun b' => (b'.part p).state = .saved ∧ (b'.part p).preempt = false ∧
      b'.causeSet (.part p) 1 = true ∧ ∃ n, (n, b.takeImage p) ∈ b'.images) ∧
    exec (.partRestore p req) s = .next (set fun q => { q with restore := true }) ∧
    (q.restore = false → exec (.restoreDone p) s = .next s) ∧
    (q.restore = true → (b.mmu p).deferred = [] → (∀ g, b.imageAt p = some g → (b.mmu g.home).deferred = []) →
      ends (.restoreDone p) fun b' => (b'.part p).state = .normal ∧ (b'.part p).restore = false ∧ b'.causeSet (.part p) 2 = true ∧
      ∀ g, b.imageAt p = some g →
        ∀ k < 128, q.coreAt (k / 16) (k % 16) = some i.val → (∀ k' < 128, k' ≠ k → q.coreAt (k' / 16) (k' % 16) ≠ some i.val) →
          (b'.slot p i 0).sregs = (smGet {} g.slots k).sregs ∧ (b'.slot p i 0).pc = (smGet {} g.slots k).pc ∧
          (b'.slot p i 0).flags = (smGet {} g.slots k).flags) ∧
    (b.patrolShare p = 0 ∨ smGet false q.patrolOn c = true ∨ b.clusterOos p c = true → exec (.patrolVisit p c) s = .next s) ∧
    (b.patrolShare p ≠ 0 → smGet false q.patrolOn c = false → b.clusterOos p c = false → smWf false q.patrolOn = true → smWf 0 q.patrolNext = true →
      ∀ k, b.patrolPick p c (smGet 0 q.patrolNext c) = some k → ends (.patrolVisit p c) fun b' => smGet false (b'.part p).patrolOn c = true ∧
        smGet 0 (b'.part p).patrolNext c = k ∧ b'.ram = b.ram ∧ ∀ (i : Fin 153) (sl : Fin 2), (b'.slot p i sl).pc = (b.slot p i sl).pc) ∧
    (smGet false q.patrolOn c = false → exec (.patrolVisitEnd p c none) s = .next s ∧ exec (.patrolVisitEnd p c (some unit)) s = .next s) ∧
    (smGet false q.patrolOn c = true → smWf false q.patrolOn = true → smWf 0 q.patrolClean = true → smWf false q.failedCores = true →
      let k := 17 * c.val + smGet 0 q.patrolNext c
      (ends (.patrolVisitEnd p c none) fun b' => smGet 0 (b'.part p).patrolClean k = b.merid.count ∧ smGet false (b'.part p).patrolOn c = false) ∧
      (ends (.patrolVisitEnd p c (some unit)) fun b' => (b'.part p).coreOk k = false ∧ smGet false (b'.part p).patrolOn c = false ∧
        b'.causeSet (.part p) 4 = true ∧ b'.causeSet (.part p) 7 = true)) ∧
    (q.fftGo = false →
      (q.bindP.isSome = true ∨ q.bindB.isSome = true → exec (.flatFieldTest p req) s = .next (set fun q => { q with fftStatus := 4 })) ∧
      (q.bindP = none → q.bindB = none → ends (.flatFieldTest p req) fun b' =>
        b'.part p = { q with fftGo := true, fftStatus := 1, fftUnit := 0, fftFmt := 0, fftCore := 0xFF, fftPass := 1, fftPkg := false }) ∧
      exec (.flatFieldEnd p none) s = .next s) ∧
    (q.fftGo = true → smWf false q.failedCores = true → exec (.flatFieldTest p req) s = .next s ∧
      (q.fftPkg = true → q.fftPass = 1 → exec (.flatFieldEnd p none) s = .next (set fun q => { q with fftPass := 2 })) ∧
      (q.fftPkg = false ∨ q.fftPass ≠ 1 → ends (.flatFieldEnd p none) fun b' =>
        b'.part p = { q with fftGo := false, fftStatus := if q.fftStatus = 3 then 3 else 2 } ∧ b'.causeSet (.part p) 5 = true) ∧
      (q.fftPkg = false ∨ q.fftPass ≠ 1 → ends (.flatFieldEnd p (some (.inl none, u, f))) fun b' => b'.part p = { q with
        fftGo := false, fftStatus := 3, fftUnit := u.toNat, fftFmt := f.toNat, fftCore := 0xFF } ∧ b'.causeSet (.part p) 5 = true) ∧
      (q.fftPkg = false ∨ q.fftPass ≠ 1 → ends (.flatFieldEnd p (some (.inl (some i), u, f))) fun b' => (b'.part p).fftGo = false ∧ (b'.part p).fftStatus = 3 ∧ (b'.part p).fftUnit = u.toNat ∧
        (b'.part p).fftFmt = f.toNat ∧ (b'.part p).fftCore = i.val ∧ (b'.part p).coreOk i = false ∧ b'.causeSet (.part p) 5 = true ∧
        b'.causeSet (.part p) 7 = true)) ∧
    (b.follows job.toNat plan = false → exec (.classBRecovery job plan) s = .next s) ∧
    (b.follows job.toNat plan = true → ends (.classBRecovery job plan) fun b' => (∀ p' : Fin 12, b'.part p' =
        if p'.val ∈ b.partsOf job.toNat then { b.part p' with abort := true } else b.part p') ∧
      (∀ p' : Fin 12, p'.val ∈ b.partsOf job.toNat → smWf {} b.helioPs = true → (b'.hp p').uncal = true) ∧
      (plan.shards.any Reshard.degraded = true → b'.causeSet .eph 4 = true) ∧ b'.mirrors = b.keptMirrors job.toNat plan) ∧
    ((b.mirrors.find? fun m => m.ring = r.val) = none → exec (.remirrorRegion r n master mom1 mom2 work) s = .next s) ∧
    ((b.mirrors.find? fun m => m.ring = r.val) = some m → m.cur = none →
      ∀ rec rg wb mb b1 b2 b3 b4 b5 b6,
        b.memRead (b.pair .upd (0x100 + 32 * r) (0x104 + 32 * r) 8 + 64 * (((b.ring r).cons + 3) % 4)) 64 = (rec, false, b1) →
        b1.copyWindow r = true → m.due (dF rec 0x18 4) = some n.toNat → b1.isSelf m.target = true ∨ b1.reachable m.target = true → b1.memRead (dF rec 0x10 8 + 64 * n.toNat) 64 = (rg, false, b2) →
        dF rg 0 1 = 2 → dF rg 1 1 = 0 → dF rg 4 4 = 1 →
        pieceLen 4 master.toNat 0 = 4 → pieceLen 4 mom1.toNat 0 = 4 →
        b2.memRead (dF rg 0x10 8) 4 = (wb, false, b3) → wb.length = 4 → b3.memRead (dF rg 0x18 8) 4 = (mb, false, b4) → mb.length = 4 →
        b4.collSend 0 { kind := 2, dst := m.target, addr := master.toNat, data := wb } (.mirror r m.tag) = b5 →
        b5.collSend 0 { kind := 2, dst := m.target, addr := mom1.toNat, data := mb } (.mirror r m.tag) = b6 →
        exec (.remirrorRegion r n master mom1 mom2 work) s = .next (s.withBlk (b.settling fun _ => { b6 with mirrors := b6.mirrors.map fun x =>
          if x.ring = r.val then { x with tag := m.tag + 1, cur := some (n.toNat, 2, false, (b.ring r).cons) } else x })))

/-- RAILS_START starts a RAILS step that waits, with its STARTED entry, and else does nothing. With no step started, or
after READY, the end and the timeout of a step do nothing. A step that passes leaves its entry, PASSED or with marks, and the next
step becomes current, or READY after step 10. A step that fails or times out is recorded as the failed one and raises BOOT_FAIL;
after VERIFY and HUB the sequence stops there (the model's choice, assumption log 62), else it goes on. (R398, R399, R401, R402,
R404, R412, R448, Table 15.2, Table 15.3, Table 15.4) -/
def Obligations.BootStepsRunInOrder : Prop :=
∀ (s : State) (x : StepOut),
    let b := s.blk
    let n := b.boot.step
    let ends (c : Instr) (f : Block → Prop) : Prop := ∃ b' : Block, exec c s = .next (s.withBlk b') ∧ f b'
    let pass : Prop := x.ok = true ∧ (n = 2 → (b.flash.bank b.boot.active).valid = true ∧ b.flash.maxSvn ≤ (b.flash.bank b.boot.active).svn)
    let failed (b' : Block) : Prop := b'.boot.failed = n ∧ b'.boot.anyFailed = true ∧ b'.causeSet .boot 0 = true ∧ b'.slots = b.slots ∧
      (∃ e ∈ b'.flash.journal, e.step = n ∧ e.status = 2) ∧ (n = 10 → b'.boot.ready = true) ∧
      (n = 2 ∨ n = 5 → b'.boot.step = n ∧ b'.boot.started = false) ∧ (n ≠ 2 → n ≠ 5 → n ≠ 10 → b'.boot.step = n + 1 ∧ b'.boot.ready = false)
    (b.boot.power ≠ .on ∨ n ≠ 3 ∨ b.boot.started = true ∨ b.boot.path = .recovery ∨ b.boot.ready = true → exec .railsStart s = .next s) ∧
    (b.boot.power = .on → n = 3 → b.boot.started = false → b.boot.path ≠ .recovery → b.boot.ready = false → ends .railsStart fun b' =>
      b'.boot.step = 3 ∧ b'.boot.started = true ∧ b'.boot.stepUs = b.timeUs ∧
      (b'.flash.journal.head?.map fun e => (e.step, e.status)) = some (3, 0) ∧ b'.slots = b.slots) ∧
    (b.boot.power = .on → b.boot.started = false ∨ b.boot.ready = true →
      exec (.bootStepComplete x) s = .next s ∧ exec .bootStepTimeout s = .next s) ∧
    (b.boot.power = .on → b.boot.started = true → b.boot.ready = false → smWf {} b.pages = true →
      (pass → ends (.bootStepComplete x) fun b' => b'.slots = b.slots ∧
        (∃ e ∈ b'.flash.journal, e.step = n ∧ e.boot = b.flash.bootNum ∧ 
          e.status = (if x.cores.isEmpty && x.units.isEmpty && x.marks.isEmpty then 1 else 3)) ∧
        (n = 10 → b'.boot.ready = true ∧ b'.boot.lastClean = !b.boot.anyFailed) ∧
        (n ≠ 10 → b'.boot.step = n + 1 ∧ b'.boot.ready = false ∧ b'.boot.stepUs = b.timeUs)) ∧
      (¬ pass → ends (.bootStepComplete x) failed) ∧ ends .bootStepTimeout failed)

/-- A bundle chunk makes the inactive bank invalid and is counted; the last raises its cause. BANK_PROGRAM_DONE of a bundle that
passes R412 makes the inactive bank valid with its version and SVN, raises its cause, and on the recovery path is booted at step
VERIFY; another leaves it invalid and raises BUNDLE_BAD; the active bank keeps its contents. ALMANAC_WRITE writes the older copy
with the next generation and keeps the newer. ACTIVATE_MC, RHOST and PART set what is to take the bank NEXT names, once, where that
bank is valid; RHOST with no MC pending takes it. LICENCE_CHECK of an unpoisoned record answers the first test that fails, changing
no flash, or accepts it as pending; the features in force stay. The form of a forwarded chunk (assumption log 106) and the order of
the licence tests (log 107) are the model's readings. (R407, R408, R412, R413, R415, R416, Table 15.10, Table 15.11, Table 15.12) -/
def Obligations.BanksAlmanacAndLicences : Prop :=
∀ (s : State) (l : Fin 37) (src : BitVec 16) (k total : Nat) (x : BundleOut) (req : Requester) (mask : BitVec 12) (sig revoked : Bool),
    let b := s.blk
    let ends (c : Instr) (f : Block → Prop) : Prop := ∃ b' : Block, exec c s = .next (s.withBlk b') ∧ f b'
    let act := b.boot.active
    let other := 1 - act
    let chunks := if (smGet [] b.boot.bcast src.toNat).contains k then smGet [] b.boot.bcast src.toNat else k :: smGet [] b.boot.bcast src.toNat
    let good : Prop := x.sound = true ∧ x.edition = 1 ∧ b.flash.maxSvn ≤ x.svn
    let svn := Nat.max b.flash.maxSvn (b.flash.bank b.boot.next).svn
    b.boot.power = .on → req ≠ .job → smWf {} b.pages = true → smWf [] b.boot.bcast = true → act ≤ 1 →
    (ends (.bundleChunkReceive l src k total) fun b' => (b'.flash.bank other).valid = false ∧ b'.flash.bank act = b.flash.bank act ∧ b'.slots = b.slots ∧
      (chunks.length = total → b'.causeSet .boot 4 = true ∧ smGet [] b'.boot.bcast src.toNat = []) ∧
      (chunks.length ≠ total → smGet [] b'.boot.bcast src.toNat = chunks)) ∧
    (good → b.boot.path = .recovery → ends (.bankProgramDone x) fun b' =>
      b'.flash.bank other = { b.flash.bank other with valid := true, version := x.version, svn := x.svn } ∧ b'.flash.bank act = b.flash.bank act ∧
      b'.boot.active = other ∧ b'.boot.next = other ∧ b'.boot.path = .full ∧ b'.boot.step = 2 ∧ b'.boot.started = true ∧
      b'.causeSet .boot 2 = true ∧ b'.slots = b.slots) ∧
    (good → b.boot.path ≠ .recovery → ends (.bankProgramDone x) fun b' =>
      b'.flash.bank other = { b.flash.bank other with valid := true, version := x.version, svn := x.svn } ∧ b'.flash.bank act = b.flash.bank act ∧
      b'.causeSet .boot 2 = true ∧ b'.boot = { b.boot with bcastFrom := b.boot.bcastFrom.tail } ∧ b'.slots = b.slots) ∧
    (¬ good → ends (.bankProgramDone x) fun b' => b'.flash.bank other = { units := (b.flash.bank other).units } ∧
      b'.flash.bank act = b.flash.bank act ∧ b'.causeSet .boot 1 = true ∧ b'.boot = { b.boot with bcastFrom := b.boot.bcastFrom.tail }) ∧
    (ends .almanacWrite fun b' => b'.alm.due = [] ∧ b'.causeSet .alm 1 = true ∧ b'.boot.alm = b.almNow ∧ b.almNow.gen = b.boot.alm.gen + 1 ∧
      (match b.flash.alm0, b.flash.alm1 with
        | none, y => b'.flash.alm0 = some b.almNow ∧ b'.flash.alm1 = y
        | some x, none => b'.flash.alm0 = some x ∧ b'.flash.alm1 = some b.almNow
        | some x, some y => if x.gen ≤ y.gen then b'.flash.alm0 = some b.almNow ∧ b'.flash.alm1 = some y
          else b'.flash.alm0 = some x ∧ b'.flash.alm1 = some b.almNow)) ∧
    let can := (b.flash.bank b.boot.next).valid
    (b.boot.mc = true ∨ can = false → exec (.activateMc req) s = .next s) ∧
    (b.boot.mc = false → can = true → ends (.activateMc req) fun b' => b'.boot = { b.boot with mc := true } ∧ b'.flash.maxSvn = svn) ∧
    (b.boot.rhost = true ∨ can = false → exec (.activateRhost req) s = .next s) ∧
    (b.boot.rhost = false → can = true →
      (b.boot.mc = true → ends (.activateRhost req) fun b' => b'.boot = { b.boot with rhost := true } ∧ b'.flash.maxSvn = svn) ∧
      (b.boot.mc = false → ends (.activateRhost req) fun b' => b'.boot = { b.boot with rhBank := b.boot.next, runRh := (b.flash.bank b.boot.next).units } ∧ b'.flash.maxSvn = svn ∧
        b'.causeSet .boot 3 = true)) ∧
    exec (.activatePart req 0) s = .next s ∧ (can = false → exec (.activatePart req mask) s = .next s) ∧
    (mask ≠ 0 → can = true → ends (.activatePart req mask) fun b' => b'.boot = { b.boot with parts := (b.boot.parts ||| mask.toNat) % 4096 } ∧
      b'.flash.maxSvn = svn ∧ (b'.flash.journal.head?.map fun e => (e.step, e.kind, e.idx)) = some (0xF5, 6, b.boot.next)) ∧
    (∀ bs b1, b.canAccess (b.pair .lic 0x050 0x054 6) 160 = true → b.memRead (b.pair .lic 0x050 0x054 6) 160 = (bs, false, b1) → smWf {} b1.pages = true →
      let f := dF bs
      let r := if f 0 2 ≠ 1 ∨ 3 < f 2 1 ∨ f 3 1 % 4 = 3 ∨ f 3 1 / 32 ≠ 0 ∨ (bs.drop 0x1C).take 36 ≠ List.replicate 36 0 then 5
        else if revoked = true then 6 else if sig = false then 2 else if f 8 8 ≠ puid then 3 else if f 4 4 ≤ b1.flash.maxSerial then 4 else 1
      ends (.licenceCheck req sig revoked) fun b' => b'.boot.licResult = r ∧ b'.feat = b1.feat ∧ (bit (b1.reg .eyep 0x040) 0 = false → b'.ram = b1.ram) ∧
        (r = 1 → b'.causeSet .lic 0 = true ∧ b'.boot.licPend = some ⟨f 4 4, f 3 1, f 0x10 8⟩ ∧ b'.flash.maxSerial = f 4 4) ∧
        (r ≠ 1 → b'.causeSet .lic 1 = true ∧ b'.flash = b1.flash))

/-- A doorbell to a VF that answers adds its value to a counter of the primary share, is dropped and counted when out of range, and
is Unsupported otherwise; a read answers the counter. The MSI-X table of the BAR is written; where nothing lies a read answers zero
and a write does nothing. The aperture reads or writes HBM and capacity memory, refuses other addresses (a refused write is counted as
an uncorrectable error, a read as a correctable one: the model's reading, assumption log 182), discards poisoned writes and aborts poisoned reads. An ATS invalidation drops the VF's entries, and
completes at once where no read that uses them is out and no write waits with them, else waits. A completion or its timeout with an unknown tag does nothing; a
failed read stops its channel with REMOTE_FAIL, a good one hands its piece to its descriptor; a translation wakes its channel, asks
by page request, or parks it where no earlier read of it is out and the fault queue takes its record (the model's reading, log 53; what
counts in HOST_BYTES is log 155). MSIX_SEND sends or sets pending. A port reset takes the port
down; training needs HUB ended and enables the functions' MSI-X as the server does, from READY on, before which it is told to retry; FLRs abort the bound jobs. What
PCIe's own standard leaves to the model: the form of TLPs and of training (assumption log 108), the translated address in a
completion's data (log 197). (R177, R378, R422, R423, R424, R425, R427, R428, R452, Table 16.2, Table 16.3, Table 16.10) -/
def Obligations.HostPortCommands : Prop :=
∀ (s : State) (x : Fin 2) (v : Fin 12) (n : BitVec 14) (a : BitVec 32) (off : BitVec 36) (len : BitVec 12) (data : List Byte) (page : BitVec 52)
    (count : Nat) (tag : BitVec 10) (req : Requester) (w : BitVec 32) (pin ok perm : Bool) (gen : Fin 7) (width : BitVec 5) (vfs : BitVec 12)
    (cfg : List FnCfg) (k ch id num kk cnt va pg : Nat) (p : Fin 12) (j : Fin 36) (dsts : List Dst) (wr retried par old : Bool) (l : XList),
    let b := s.blk
    let y := b.port x
    let ends (c : Instr) (f : Block → Prop) : Prop := ∃ b' : Block, exec c s = .next (s.withBlk b') ∧ f b'
    let is (c : Instr) (b' : Block) : Prop := exec c s = .next (s.withBlk b')
    let place := b.pair (.pcie x) 0x048 0x04C 30 + off.toNat
    let bytes := data.map (·.toNat)
    let others (b' : Block) : Prop := b'.slots = b.slots ∧ ∀ z : Fin 2, z ≠ x → b'.port z = b.port z
    let othersIdle (b' : Block) : Prop := b'.slots = b.slots ∧ ∀ z : Fin 2, z ≠ x →
      { b'.port z with reqs := [], invals := [] } = { b.port z with reqs := [], invals := [] }
    let writing : Bool := b.dstsWaiting.any fun w => w.2.any fun d => Dst.stale x (v.val + 1) page.toNat count (d.invalid x (v.val + 1) page.toNat count)
    let uses (t : Nat) : Prop := ∃ j ch id num pg n dsts par old,
      smGet none y.reqs t = some (.read v.val j ch id num pg n dsts par old) ∧ page.toNat ≤ pg ∧ pg < page.toNat + count
    let lost (b' : Block) : Prop := (b'.chan p j ch).state = .stopped ∧ (b'.chan p j ch).lastStatus = 0x0A ∧ smGet none (b'.port x).reqs tag.toNat = none
    let free := ((b.reqDone x tag.toNat).port x).freeTag
    let slotAt := b.pair (.mmu p) 0x05C 0x060 13 + 32 * (b.mmu p).prod
    let queueOk : Prop := (∀ d, (b.chan p j ch).cur = some d → d.given = d.asked) ∧ bit (b.reg .eyep 0x040) 0 = false ∧ (b.fqFull p = true ∨ b.canAccess slotAt 32 = true ∧ b.memPoisoned slotAt 32 = false)
    let parked (b' : Block) : Prop := (b'.chan p j ch).state = .parked ∧ smGet none (b'.port x).reqs tag.toNat = none
    b.boot.power = .on → req ≠ .job → b.Settled → smWf {} b.pages = true → smWf {} b.pcie = true → smWf {} b.parts = true → smWf {} b.syncs = true →
    smWf {} b.engs = true → smWf none y.reqs = true → smWf {} y.msix = true → ch < 2 →
    let refused (wr : Bool) : Block := (if wr then (b.log (.pcie x) 3).raise (.pcie x) 4 else (b.log (.pcie x) 2).raise (.pcie x) 3).emit (.tlp x 4 [])
    (y.up = false → ∀ o, exec (.doorbellWrite x v n o) s = .next s) ∧
    (y.up = true → b.vfAnswers x (v.val + 1) = false → ∀ o, is (.doorbellWrite x v n o) (refused o.isSome)) ∧
    (b.vfAnswers x (v.val + 1) = true →
      (n.toNat < 4096 →
        (a = 0 ∨ 65535 < a.toNat ∨ (b.part v).jobOf 0 = none ∨ b.ctrNum v 0 n.toNat = none →
          is (.doorbellWrite x v n (some a)) (b.log (.pcie x) 6)) ∧
        ((b.part v).jobOf 0 ≠ none → b.ctrNum v 0 n.toNat = some k →
          is (.doorbellWrite x v n none) (b.emit (.tlp x 3 (leBytes 4 ((b.syn v).ctr k)))) ∧
          (a ≠ 0 → a.toNat ≤ 65535 → (b.syn v).ctr k + a.toNat ≤ 0xFFFFFFFF →
            smGet [] (b.syn v).ctrWaits k = [] → smWf 0 (b.syn v).ctrs = true → ends (.doorbellWrite x v n (some a)) fun b' =>
              (b'.syn v).ctr k = (b.syn v).ctr k + a.toNat ∧ (∀ k', k' ≠ k → (b'.syn v).ctr k' = (b.syn v).ctr k') ∧ b'.slots = b.slots ∧
              b'.ram = b.ram))) ∧
      (8192 ≤ n.toNat → n.toNat < 8256 → n.toNat % 4 ≠ 3 → smWf 0 (smGet {} y.msix (v.val + 1)).table = true → ends (.doorbellWrite x v n (some a)) fun b' => others b' ∧
        smGet 0 (smGet {} (b'.port x).msix (v.val + 1)).table (n.toNat - 8192) = if n.toNat % 4 = 0 then a.toNat / 4 * 4 else a.toNat) ∧
      (4096 ≤ n.toNat ∧ n.toNat < 8192 ∨ 8256 ≤ n.toNat ∧ n.toNat < 9216 ∨ 9218 ≤ n.toNat →
        is (.doorbellWrite x v n none) (b.emit (.tlp x 3 [0, 0, 0, 0])) ∧ exec (.doorbellWrite x v n (some a)) s = .next s)) ∧
    (y.up = false → exec (.apertureAccess x off len true data false) s = .next s ∧ exec (.apertureAccess x off len false data false) s = .next s ∧
      exec (.atsInvalidation x v page count) s = .next s ∧ exec (.vfFlr x v) s = .next s ∧ exec (.pfFlr x) s = .next s) ∧
    (y.up = true →
      is (.apertureAccess x off len true data true) (b.log (.pcie x) 7) ∧
      (len = 0 ∨ (inHbm place len.toNat = false ∧ inCap place len.toNat = false) ∨ b.canAccess place len.toNat = false →
        is (.apertureAccess x off len true data false) (refused true) ∧ is (.apertureAccess x off len false data false) (refused false)) ∧
      (len ≠ 0 → inHbm place len.toNat = true ∨ inCap place len.toNat = true → b.canAccess place len.toNat = true →
        (bytes.length = len.toNat → is (.apertureAccess x off len true data false)
          ((b.memWrite place bytes).modPort x fun y => { y with hostBytes := y.hostBytes + len.toNat })) ∧
        ∀ bs po b1, b.memRead place len.toNat = (bs, po, b1) →
          (po = false → is (.apertureAccess x off len false data false)
            ((b1.modPort x fun y => { y with hostBytes := y.hostBytes + len.toNat }).emit (.tlp x 3 bs))) ∧
          (po = true → ends (.apertureAccess x off len false data false) fun b' => b'.poisonLatch = true ∧ b'.out.head? = some (.tlp x 5 []))) ∧
      (ends (.atsInvalidation x v page count) fun b' => b'.causeSet (.pcie x) 6 = true ∧
        ((∀ t, ¬ uses t) → writing = false → b'.out.head? = some (.tlp x 6 [v.val + 1, page.toNat, count])) ∧
        (∀ t, uses t → (∃ ts, t ∈ ts ∧ (v.val + 1, page.toNat, count, ts) ∈ (b'.port x).invals) ∧
          (y.invals = [] → ∀ a, .tlp x 6 a ∈ b'.out → .tlp x 6 a ∈ b.out)) ∧
        (∀ e, e ∈ (b'.port x).ats ↔ e ∈ y.ats ∧ ¬ (e.1 = v.val ∧ page.toNat ≤ e.2.1 ∧ e.2.1 < page.toNat + count)) ∧ othersIdle b') ∧
      (bit y.vfEn v = false → exec (.vfFlr x v) s = .next s) ∧
      (bit y.vfEn v = true → ends (.vfFlr x v) fun b' => (∀ e, e ∈ (b'.port x).ats ↔ e ∈ y.ats ∧ e.1 ≠ v.val) ∧ (b'.port x).vfEn = y.vfEn ∧
        b'.causeSet (.pcie x) 2 = true ∧ othersIdle b' ∧ ∀ p' : Fin 12, (b'.part p').abort = ((b.part p').abort || (p' = v && (b.part v).bindP.isSome))) ∧
      (ends (.pfFlr x) fun b' => (b'.port x).vfEn = 0 ∧ (b'.port x).msix = [] ∧ b'.causeSet (.pcie x) 2 = true ∧ othersIdle b' ∧
        ∀ p' : Fin 12, (b'.part p').abort = ((b.part p').abort || (bit y.vfEn p' && (b.part p').bindP.isSome)))) ∧
    (smGet none y.reqs tag.toNat = none → exec (.pcieCompletion x tag ok perm data) s = .next s ∧ exec (.pcieCompletionTimeout x tag) s = .next s) ∧
    ((b.chan p j ch).pos id = some kk → descAt (b.chan p j ch).lists kk = some l →
      (smGet none y.reqs tag.toNat = some (.read p j ch id num pg cnt dsts par old) → ends (.pcieCompletion x tag false perm data) lost ∧
        (ends (.pcieCompletionTimeout x tag) fun b' => lost b' ∧ b'.causeSet (.pcie x) 5 = true) ∧
        (bytes.length = cnt → is (.pcieCompletion x tag true perm data) (b.settling fun _ =>
          ((b.reqDone x tag.toNat).modPort x fun y => { y with devRd := y.devRd + cnt }).pieceIn p j ch id num dsts bytes
            (if par then [(0, 4)] else []) old)))) ∧
    ((b.chan p j ch).cur.map (·.id) = some id →
      (smGet none y.reqs tag.toNat = some (.ats p j ch id va pg wr retried) →
        (queueOk → ends (.pcieCompletionTimeout x tag) fun b' => parked b' ∧ b'.causeSet (.pcie x) 5 = true) ∧
        (wr = false ∨ perm = true → ends (.pcieCompletion x tag true perm data) fun b' => (p.val, pg, perm, leNat (bytes.take 8) / 4096 * 4096) ∈ (b'.port x).ats ∧
          ((b'.chan p j ch).cur.map (·.hostWait)) = some false ∧ others b') ∧
        (queueOk → retried = true ∨ bit (b.reg (.pcie x) 0x040) 3 = false → ends (.pcieCompletion x tag false perm data) parked) ∧
        (retried = false → bit (b.reg (.pcie x) 0x040) 3 = true → ends (.pcieCompletion x tag false perm data) fun b' =>
          (∃ t, free = some t ∧ b'.out.head? = some (.tlp x 7 [t, p.val + 1, pg, b2n wr])) ∧ b'.engs = b.engs)) ∧
      (smGet none y.reqs tag.toNat = some (.pri p j ch id va pg wr) →
        (queueOk → ends (.pcieCompletionTimeout x tag) fun b' => parked b' ∧ b'.causeSet (.pcie x) 5 = true) ∧
        (ends (.pcieCompletion x tag true perm data) fun b' =>
          ∃ t, free = some t ∧ b'.out.head? = some (.tlp x 2 [t, p.val + 1, pg, b2n wr])) ∧
        (queueOk → ends (.pcieCompletion x tag false perm data) parked))) ∧
    (let f := wordField (w.zeroExtend 64) 0 4
    let vec := wordField (w.zeroExtend 64) 8 5
    (f = 0 ∨ (f ≤ 12 ∧ vec ≤ 15 ∧ b.partIn (f - 1) = true) →
      ((smGet {} y.msix f).enabled = true → bit (smGet {} y.msix f).masked vec = false → is (.msixSend x req w) (b.emit (.msix x f vec))) ∧
      ((smGet {} y.msix f).enabled = false ∨ bit (smGet {} y.msix f).masked vec = true → ends (.msixSend x req w) fun b' =>
        bit (smGet {} (b'.port x).msix f).pending vec = true ∧ b'.out = b.out ∧ others b')) ∧
    (f ≠ 0 → f ≤ 12 → vec ≤ 15 → b.partIn (f - 1) = false → is (.msixSend x req w) (b.log (.pcie x) 8)) ∧
    (12 < f ∨ (f ≠ 0 ∧ 15 < vec) → ends (.msixSend x req w) fun b' => (b'.hdr (.pcie x)).clampCnt = sat16 (b.hdr (.pcie x)).clampCnt)) ∧
    (ends (.portReset x pin) fun b' => (b'.port x).up = false ∧ (b'.port x).vfEn = 0 ∧ (b'.port x).ats = [] ∧ (b'.port x).msix = [] ∧
      b'.causeSet (.pcie x) 0 = true ∧ (pin = true → b'.causeSet (.pcie x) 1 = true) ∧ (b'.port x).perst = (y.perst || pin) ∧ othersIdle b') ∧
    (let fits : Prop := (b.boot.ready = true ∨ 5 < b.boot.step) ∧ gen.val ≠ 0 ∧ gen.val ≤ 6 - Nat.min (b.fld (.pcie x) 0x040 0 2) 2 ∧
      (width = 4 ∨ width = 8 ∨ width = 16)
    (¬ fits → exec (.portTrain x gen width vfs cfg) s = .next (s.withBlk (b.modPort x fun y => { y with perst := false }))) ∧
    (fits → ends (.portTrain x gen width vfs cfg) fun b' => (b'.port x).up = true ∧ (b'.port x).gen = gen.val ∧ (b'.port x).width = width.toNat ∧
      (b.boot.ready = true → (b'.port x).vfEn = vfs.toNat ∧ ∀ e ∈ cfg, (smGet {} (b'.port x).msix e.fn).enabled = true) ∧
      (b.boot.ready = false → (b'.port x).vfEn = y.vfEn ∧ (b'.port x).msix = y.msix ∧ (b'.port x).due = some (vfs.toNat, cfg) ∧
        b'.out.head? = some (.tlp x 8 [])) ∧ others b'))

/-- SET_ENDPOINT_ID stores and answers the number, refusing 0 and 255 (the model's choice, assumption log 64); GET_ENDPOINT_ID, the
versions, the message types and the UUID, which carries the PUID, are answered; a type not supported is counted and answered with an
error. I3C_DYNAMIC_ADDRESS stores the address. GET_VERSION, GET_CAPABILITIES and NEGOTIATE_ALGORITHMS advance in that order and else
are errors; digests, certificates of slot 0, challenges and measurements are answered once algorithms are agreed, with the bytes the
rule fixes, hashes of what the package runs (assumption log 109) and a free signature, and are errors before. The form of a response
follows the standards (PRESUMED, assumption log 109); hashes and certificates have values that only cryptography gives (log 110).
(R430, R435, Table 16.4) -/
def Obligations.MctpAndSpdmRequests : Prop :=
∀ (s : State) (e t blk : BitVec 8) (a : BitVec 7) (offered : Bool) (slot : Fin 8) (off len : BitVec 16),
    let b := s.blk
    let m := b.mgmt
    let is (c : Instr) (b' : Block) (ty code : Nat) (d : List Nat) : Prop := exec c s = .next (s.withBlk (b'.emit (.mctp ty code d)))
    let err (c : Instr) : Prop := is c (b.log .mgmt 6) 5 0x7F []
    let ready : Prop := m.spdm = .negotiated
    b.boot.power ≠ .reset → b.boot.power ≠ .dark →
    (e ≠ 0 → e ≠ 255 → is (.setEndpointId e) { b with mgmt := { m with eid := e.toNat } } 0 0 [0, e.toNat, 0]) ∧
    (e = 0 ∨ e = 255 → is (.setEndpointId e) b 0 2 []) ∧
    is .getEndpointId b 0 0 [m.eid, 0, 0] ∧
    is .getMctpVersionSupport b 0 0 [1, 0xF1, 0xF3, 0xFF, 0x00] ∧
    is .getMessageTypeSupport b 0 0 [3, 0x01, 0x05, 0x7E] ∧
    (∃ d, d.length = 16 ∧ leNat (d.take 8) = puid ∧ is .getEndpointUuid b 0 0 d) ∧
    (t ≠ 0 → t ≠ 1 → t ≠ 5 → t ≠ 0x7E → is (.mctpUnsupportedType t) (b.log .mgmt 3) 0 5 []) ∧
    (t = 0 ∨ t = 1 ∨ t = 5 ∨ t = 0x7E → exec (.mctpUnsupportedType t) s = .next s) ∧
    exec (.i3cDynamicAddress a) s = .next (s.withBlk { b with mgmt := { m with i3cDa := a.toNat } }) ∧
    is .getVersion { b with mgmt := { m with spdm := .version } } 5 0x04 [0x12] ∧
    (m.spdm = .version → is .getCapabilities { b with mgmt := { m with spdm := .caps } } 5 0x61 []) ∧
    (m.spdm ≠ .version → err .getCapabilities) ∧
    (m.spdm = .caps → offered = true → is (.negotiateAlgorithms offered) { b with mgmt := { m with spdm := .negotiated } } 5 0x63 []) ∧
    (m.spdm ≠ .caps ∨ offered = false → err (.negotiateAlgorithms offered)) ∧
    (¬ ready → err .getDigests ∧ err (.getCertificate slot off len) ∧ err (.challenge slot) ∧ err (.getMeasurements blk)) ∧
    certChain.length ≤ 4096 ∧
    (ready → is .getDigests b 5 0x01 (1 :: sha384 certChain) ∧
      (off.toNat < certChain.length → is (.getCertificate 0 off len) b 5 0x02 (0 :: (certChain.drop off.toNat).take len.toNat)) ∧
      (∃ d fv', d.length = 96 ∧ is (.challenge 0) { b with fv := fv' } 5 0x03 (0 :: d)) ∧
      (slot ≠ 0 ∨ certChain.length ≤ off.toNat → err (.getCertificate slot off len)) ∧ (slot ≠ 0 → err (.challenge slot)) ∧
      is (.getMeasurements 0) b 5 0x60 [6] ∧
      is (.getMeasurements 1) b 5 0x60 (sha384 (imageWords 1 b.boot.runMc)) ∧ is (.getMeasurements 2) b 5 0x60 (sha384 (imageWords 2 b.boot.runRh)) ∧
      is (.getMeasurements 3) b 5 0x60 (sha384 (3 :: b.boot.runPart.flatMap fun e => imageWords e.1 e.2)) ∧
      is (.getMeasurements 4) b 5 0x60 (sha384 (imageWords 4 b.boot.runHub)) ∧
      (b.boot.lic = none → is (.getMeasurements 5) b 5 0x60 (List.replicate 48 0)) ∧
      (∀ r, b.boot.lic = some r → is (.getMeasurements 5) b 5 0x60 (sha384 [5, r.serial, r.bits, r.puidFrom])) ∧
      is (.getMeasurements 6) b 5 0x60 ([1, 0xB0] ++ leBytes 8 puid ++ leBytes 4 (Config.perPart 1008).toNat ++ [b.boot.alm.mode]) ∧
      (∃ d, d.length = 255 ∧ is (.getMeasurements 255) b 5 0x60 d) ∧
      (7 ≤ blk.toNat → blk ≠ 255 → err (.getMeasurements blk)))

/-- An effecter value is stored clamped as a register write of its HELIO field, a target with its lease renewed, and answered with
success; another effecter is an error. SET_EVENT_RECEIVER stores the receiver. A firmware unit makes the inactive bank invalid,
counts its bytes and asks for the next unit of the 24 MiB. VERIFY_COMPLETE of a good bundle validates the bank and raises
UPDATE_DONE, of a bad one leaves it invalid and raises UPDATE_FAILED. ACTIVATE_FIRMWARE sets BOOT_ACT.MC and RHOST when
self-contained and the bank NEXT names is valid. CANCEL_UPDATE and a stop of 60 s leave the bank invalid and the active one
untouched. GET_STATUS answers the state and whether activations are pending. A command out of sequence is an error (its code
PRESUMED, assumption log 64). The form of a response follows the standards (PRESUMED, assumption log 109). (R37, R345, R412, R413,
R431, R432, R433, Table 16.5) -/
def Obligations.PldmCommands : Prop :=
∀ (s : State) (id : BitVec 16) (v : BitVec 32) (e : Option (BitVec 8)) (x : BundleOut) (self : Bool),
    let b := s.blk
    let u := b.mgmt.upd
    let ends (c : Instr) (f : Block → Prop) : Prop := ∃ b' : Block, exec c s = .next (s.withBlk b') ∧ f b'
    let told (code : Nat) (d : List Nat) (b' : Block) : Prop := b'.out.head? = some (.mctp 1 code d)
    let err (c : Instr) : Prop := exec c s = .next (s.withBlk ((b.log .mgmt 5).emit (.mctp 1 0x80 [])))
    let act := b.boot.active
    let kept (b' : Block) : Prop := b'.flash.bank act = b.flash.bank act ∧ b'.slots = b.slots
    let good : Prop := x.sound = true ∧ x.edition = 1 ∧ b.flash.maxSvn ≤ x.svn
    let dropped (b' : Block) : Prop := b'.mgmt.upd = .idle ∧ b'.flash.bank b.mgmt.updBank = { units := (b.flash.bank b.mgmt.updBank).units } ∧ b'.causeSet .mgmt 4 = true ∧ kept b'
    let lease := b.fld .helio 0x04C 16 8
    b.boot.power ≠ .reset → b.boot.power ≠ .dark → smWf {} b.pages = true → smWf 0 b.regs = true → act ≤ 1 →
    (b.MayWrite .helio .mgmtCtl → b.frameBound = [] →
      (ends (.setNumericEffecterValue 64 v) fun b' => b'.ppl = Nat.max 1200 (Nat.min v.toNat 3600) ∧ told 0 [] b') ∧
      (ends (.setNumericEffecterValue 65 v) fun b' => b'.target = (if v = 0 then 0 else Nat.max 1200 (Nat.min v.toNat 3600)) ∧ told 0 [] b' ∧
        b'.helio.leaseEnd = (if lease = 0 then none else some (b.timeUs + lease * 1000000)) ∧
        (v ≠ 0 → (v.toNat < 1200 ∨ 3600 < v.toNat) → (b'.hdr .helio).clampCnt = sat16 (b.hdr .helio).clampCnt)) ∧
      (ends (.setNumericEffecterValue 66 v) fun b' => b'.fld .helio 0x04C 16 8 = Nat.min v.toNat 255 ∧ told 0 [] b') ∧
      (ends (.setNumericEffecterValue 67 v) fun b' => b'.shedFloor = Nat.max 600 (Nat.min v.toNat 2000) ∧ told 0 [] b')) ∧
    (id.toNat < 64 ∨ 67 < id.toNat → err (.setNumericEffecterValue id v)) ∧
    exec (.setEventReceiver e) s = .next (s.withBlk ({ b with mgmt := { b.mgmt with eventRx := e.map BitVec.toNat } }.emit (.mctp 1 0 []))) ∧
    (let got := (match u with
        | .download n _ => n
        | _ => 0) + 4096
     ends .pldmFirmwareData fun b' => (b'.flash.bank (1 - act)).valid = false ∧ kept b' ∧ b'.mgmt.updBank = 1 - act ∧
      b'.mgmt.upd = .download got b.timeUs ∧ (0x1800000 ≤ got → told 0 [] b') ∧
      (got < 0x1800000 → b'.out.head? = some (.pldmAsk 0x000A 1 got 4096))) ∧
    (∀ n t, u = .download n t → b.mgmt.updBank = 1 - act → b.boot.path ≠ .recovery →
      (good → ends (.verifyComplete x) fun b' => b'.mgmt.upd = .verified b.timeUs ∧ b'.causeSet .mgmt 3 = true ∧ b'.causeSet .boot 2 = true ∧ kept b' ∧ told 0 [] b' ∧
        b'.flash.bank (1 - act) = { b.flash.bank (1 - act) with valid := true, version := x.version, svn := x.svn }) ∧
      (¬ good → ends (.verifyComplete x) fun b' => b'.mgmt.upd = .idle ∧ b'.causeSet .mgmt 4 = true ∧ kept b' ∧ told 1 [] b' ∧
        b'.flash.bank (1 - act) = { units := (b.flash.bank (1 - act)).units })) ∧
    ((∀ n t, u ≠ .download n t) → err (.verifyComplete x)) ∧
    (∀ t, u = .verified t → ((b.flash.bank b.boot.next).valid = true → ends (.activateFirmware true) fun b' => b'.mgmt.upd = .activated ∧ b'.boot.mc = true ∧ b'.boot.rhost = true ∧ kept b' ∧ told 0 [] b') ∧
      exec (.activateFirmware false) s = .next (s.withBlk ({ b with mgmt := { b.mgmt with upd := .activated } }.emit (.mctp 1 0 [])))) ∧
    ((∀ t, u ≠ .verified t) → err (.activateFirmware self)) ∧
    (u = .idle ∨ u = .activated → err .cancelUpdate) ∧
    (u ≠ .idle → u ≠ .activated → b.mgmt.updBank = 1 - act → ends .cancelUpdate fun b' => dropped b' ∧ told 0 [] b') ∧
    (∀ n t, u = .download n t ∨ u = .verified t → b.mgmt.updBank = 1 - act →
      (t + 60000000 ≤ b.timeUs → ends .pldmUpdateTimeout dropped) ∧ (b.timeUs < t + 60000000 → exec .pldmUpdateTimeout s = .next s)) ∧
    (u = .idle ∨ u = .activated → exec .pldmUpdateTimeout s = .next s) ∧
    (∀ c, (u = .idle ∧ c = 0) ∨ ((∃ n t, u = .download n t) ∧ c = 3) ∨ ((∃ t, u = .verified t) ∧ c = 4) ∨ (u = .activated ∧ c = 6) →
      exec .getStatus s = .next (s.withBlk (b.emit (.mctp 1 0 [c, b2n b.boot.pendingAct]))))

/-- A vendor command of a wrong length answers code 2. READ32 answers the register's word and WRITE32 writes it as the management
controller; a misaligned offset, or a write or WARM_RESET while MCTP_WR_EN is 0, is refused and counted. WARM_RESET journals its
event, requests the reset and answers. PKG_FFT with a job bound is refused, with a test running busy, and else starts the test on
every partition in service. FORWARD answers unreachable or busy, or issues its transaction. EYEP_NONCE answers the nonce it keeps;
EYEP_UNLOCK opens the Eyepiece for a token with the PUID, that nonce, zeros and a good signature only. EYEP_HALT halts a core with
no job when unlocked, refuses otherwise, and resumes; shut out by HDR_LOCK it sets the clamp record (the model's reading, assumption
log 7). It reads and writes the halted core's S, A, vector and tile descriptor registers, pc, flags, ACTL (a reserved ACTL value is not
taken) and core memory, a poisoned byte reading 0 with an error response, and is refused where the core is not halted (the model's
choice, assumption log 198). (R26, R31, R375, R382, R434, R437, R438, Table 16.7) -/
def Obligations.VendorCommandsAndEyepieceHalt : Prop :=
∀ (s : State) (data : List Byte) (g : BitVec 16) (sig on : Bool) (req : Requester) (p : Fin 12) (op : HaltOp) (sl : Fin 2) (r : Fin 32) (r' : Fin 16)
    (v : BitVec 64) (m : BitVec 19) (c : BitVec 8) (td : BitVec 128) (pc : BitVec 57) (fl : BitVec 11) (al : BitVec 32) (ve : BitVec 1024),
    let b := s.blk
    let bytes := data.map (·.toNat)
    let ends (c : Instr) (f : Block → Prop) : Prop := ∃ b' : Block, exec c s = .next (s.withBlk b') ∧ f b'
    let told (c : Instr) (b' : Block) (code : Nat) (d : List Nat) : Prop := exec c s = .next (s.withBlk (b'.emit (.mctp 0x7E code d)))
    let refused (c : Instr) : Prop := told c (b.log .mgmt 4) 1 []
    let wr := bit (b.reg .mgmt 0x040) 24
    let off := leNat (bytes.take 4)
    let val := leNat (bytes.drop 4)
    let n := leNat ((bytes.drop 8).take 16)
    let token : Prop := leNat (bytes.take 8) = puid ∧ b.eyep.nonce = some n ∧ leNat ((bytes.drop 28).take 36) = 0 ∧ sig = true
    let hp := b.fld .eyep 0x050 16 4
    let hi := b.fld .eyep 0x050 0 8
    let halt := (b.core hp hi).halted
    let busy : Prop := (b.slot hp hi 0).bound = true ∨ (b.slot hp hi 1).bound = true
    b.boot.power ≠ .reset → b.boot.power ≠ .dark → b.Settled → smWf {} b.pages = true → smWf {} b.cores = true → smWf {} b.parts = true →
    (data.length ≠ 4 → told (.read32 data) b 2 []) ∧
    (data.length = 4 → (off % 4 ≠ 0 → told (.read32 data) (b.badAccess.log .mgmt 4) 1 []) ∧
      ∀ v b1, off % 4 = 0 → b.readWord off = (v, b1) → told (.read32 data) b1 0 (leBytes 4 v)) ∧
    (data.length ≠ 8 → told (.write32 data) b 2 []) ∧
    (data.length = 8 → (wr = false → refused (.write32 data)) ∧
      (wr = true → off % 4 ≠ 0 → told (.write32 data) (b.badAccess.log .mgmt 4) 1 []) ∧
      (wr = true → off % 4 = 0 → exec (.write32 data) s = .next (s.withBlk (b.settling fun b =>
        (b.writeWord off val .mgmtCtl).emit (.mctp 0x7E 0 []))))) ∧
    (data ≠ [] → told (.warmReset data) b 2 [] ∧ told (.pkgFft data) b 2 [] ∧ told (.eyepNonce data) b 2 []) ∧
    (wr = false → refused (.warmReset [])) ∧
    (wr = true → ends (.warmReset []) fun b' => b'.warmDue = true ∧ b'.out = .mctp 0x7E 0 [] :: b.out ∧ b'.slots = b.slots ∧ b'.ram = b.ram ∧
      (b'.flash.journal.head?.map (·.step)) = some 0xF1) ∧
    (b.noJobs = false → refused (.pkgFft [])) ∧
    (b.noJobs = true →
      (∀ q : Fin 12, (b.part q).fftGo = true → told (.pkgFft []) b 3 []) ∧
      ((∀ q : Fin 12, (b.part q).fftGo = false) → ends (.pkgFft []) fun b' => (b'.part p).fftGo = b.partIn p ∧ b'.slots = b.slots ∧
        b'.out.head? = some (.mctp 0x7E 0 []))) ∧
    told (.forward g []) b 2 [] ∧
    (data ≠ [] →
      (b.isSelf g.toNat = false → b.reachable g.toNat = false → told (.forward g data) (b.log .mgmt 9) 4 []) ∧
      (b.isSelf g.toNat = true ∨ b.reachable g.toNat = true →
        (b.xRoom g.toNat 2 = false → told (.forward g data) b 3 []) ∧
        (b.xRoom g.toNat 2 = true → exec (.forward g data) s = .next (s.withBlk (b.settling fun b =>
          b.xIssue 0 { kind := 6, dst := g.toNat, data := bytes.take 2048 } (.mgmt 0)))))) ∧
    (∃ d fv', d.length = 16 ∧ told (.eyepNonce []) { b with fv := fv', eyep := { b.eyep with nonce := some (leNat d) } } 0 d) ∧
    (data.length ≠ 160 → told (.eyepUnlock data sig) b 2 []) ∧
    (data.length = 160 →
      (token → ends (.eyepUnlock data sig) fun b' => b'.eyep.unlocked = true ∧ b'.eyep.nonce = none ∧ b'.causeSet .eyep 0 = true ∧
        b'.out.head? = some (.mctp 0x7E 0 [])) ∧
      (¬ token → ends (.eyepUnlock data sig) fun b' => b'.eyep.unlocked = b.eyep.unlocked ∧ b'.eyep.nonce = b.eyep.nonce ∧ b'.causeSet .eyep 1 = true ∧
        b'.out.head? = some (.mctp 0x7E 1 []))) ∧
    (halt = on → b.MayWrite .eyep req ∨ (req ≠ .job ∧ b.lockedOut .eyep req = true) → on = true ∨ b.lockedOut .eyep req = true →
      exec (.eyepHalt req (.run on)) s = .next s) ∧
    (b.MayWrite .eyep req →
      (halt = false → b.eyep.unlocked = true → ¬ busy → ends (.eyepHalt req (.run true)) fun b' => (b'.core hp hi) = { b.core hp hi with halted := true } ∧
        b'.causeSet .eyep 3 = true ∧ b'.slots = b.slots) ∧
      (halt = false → b.eyep.unlocked = false ∨ busy → exec (.eyepHalt req (.run true)) s = .next (s.withBlk ((b.clamped .eyep 0x054).log .eyep 3))) ∧
      exec (.eyepHalt req (.run false)) s = .next (s.withBlk (b.modCore hp hi fun k => { k with halted := false }))) ∧
    (req ≠ .job → b.lockedOut .eyep req = true → halt ≠ on → exec (.eyepHalt req (.run on)) s = .next (s.withBlk (b.clamped .eyep 0x054))) ∧
    (req ≠ .job → (∀ on, op ≠ .run on) → b.eyep.unlocked = false ∨ halt = false →
      exec (.eyepHalt req op) s = .next (s.withBlk (b.log .eyep 3))) ∧
    (req ≠ .job → b.eyep.unlocked = true → halt = true →
      exec (.eyepHalt req (.sreg sl r none)) s = .next (s.withBlk (b.emit (.mgmtResp ((b.slot hp hi sl).s r) false))) ∧
      exec (.eyepHalt req (.sreg sl r (some v))) s = .next (s.withBlk (b.modSlot hp hi sl fun t => t.setS r v.toNat)) ∧
      (let t := b.slot hp hi sl
       let reads (op : HaltOp) (x : Nat) : Prop := exec (.eyepHalt req op) s = .next (s.withBlk (b.emit (.mgmtResp x false)))
       let puts (op : HaltOp) (f : Slot → Slot) : Prop := exec (.eyepHalt req op) s = .next (s.withBlk (b.modSlot hp hi sl f))
       reads (.areg sl r' none) (t.a r') ∧ puts (.areg sl r' (some v)) (fun t => { t with aregs := smPut 0 t.aregs r' v.toNat }) ∧
       reads (.td sl r' none) (smGet 0 t.tds r') ∧ puts (.td sl r' (some td)) (fun t => { t with tds := smPut 0 t.tds r' td.toNat }) ∧
       reads (.pc sl none) t.pc ∧ puts (.pc sl (some pc)) (fun t => { t with pc := pc.toNat }) ∧
       reads (.flags sl none) t.flags ∧ puts (.flags sl (some fl)) (fun t => { t with flags := fl.toNat }) ∧
       reads (.actl sl none) t.actl ∧
       (actlBad al.toNat = none → puts (.actl sl (some al)) (fun t => { t with actl := al.toNat })) ∧
       ((actlBad al.toNat).isSome = true → exec (.eyepHalt req (.actl sl (some al))) s = .next s) ∧
       reads (.vreg r none) ((b.core hp hi).v r) ∧
       exec (.eyepHalt req (.vreg r (some ve))) s =
         .next (s.withBlk (b.modCore hp hi fun k => { k with vregs := smPut 0 k.vregs r ve.toNat }))) ∧
      (b.memPoisoned (coreBase hp hi + m.toNat) 1 = false →
        exec (.eyepHalt req (.mem m none)) s = .next (s.withBlk (b.emit (.mgmtResp (leNat (b.memBytes (coreBase hp hi + m.toNat) 1)) false)))) ∧
      (b.memPoisoned (coreBase hp hi + m.toNat) 1 = true →
        exec (.eyepHalt req (.mem m none)) s = .next (s.withBlk ((b.observePoison .eyep).emit (.mgmtResp 0 true)))) ∧
      exec (.eyepHalt req (.mem m (some c))) s = .next (s.withBlk (b.poke (coreBase hp hi + m.toNat) [c.toNat])))

/-- BYPASS, IDCODE and SAMPLE_PRELOAD always select their register and act: IDCODE answers the identity word, of version 1, and
SAMPLE_PRELOAD captures the pins, a free value. EXTEST, EXTEST_PULSE and EXTEST_TRAIN select the boundary register, CLAMP and HIGHZ
the bypass register, and act, while PKG_RST_N is held and VIN_MAIN present; at any other time they load, behave as BYPASS and are
counted. Nothing else of the package changes; VSTBY, which powers the port, is present. The numbers of instructions and registers
are the model's (assumption log 112). (R436, R442) -/
def Obligations.TestPortInstructions : Prop :=
∀ (s : State) (vin : Bool),
    let b := s.blk
    let does (c : Instr) (ir reg word : Nat) : Prop :=
      exec c s = .next (s.withBlk { b with mgmt := { b.mgmt with jtagIr := ir, jtagActs := true }, out := .jtag reg word :: b.out })
    let idle (c : Instr) (ir : Nat) : Prop :=
      exec c s = .next (s.withBlk (({ b with mgmt := { b.mgmt with jtagIr := ir, jtagActs := false } }.log .eyep 4).emit (.jtag 0 0)))
    let chain := b.mgmt.jtagChain
    b.boot.power ≠ .dark →
    does .bypass 0 0 0 ∧ does .idcode 1 1 idWord ∧ idWord / 2 ^ 28 = 1 ∧ idWord % 2 = 1 ∧
    (∃ fv' n, let m := { b.mgmt with jtagIr := 2, jtagActs := true, jtagChain := n }
      exec .samplePreload s = .next (s.withBlk { b with fv := fv', mgmt := m, out := .jtag 2 n :: b.out })) ∧
    (b.boot.power = .reset → does (.extest true) 3 2 chain ∧ does (.extestPulse true) 4 2 chain ∧ does (.extestTrain true) 5 2 chain ∧
      does (.clampInstr true) 6 0 0 ∧ does (.highz true) 7 0 0) ∧
    (b.boot.power ≠ .reset ∨ vin = false → idle (.extest vin) 3 ∧ idle (.extestPulse vin) 4 ∧ idle (.extestTrain vin) 5 ∧
      idle (.clampInstr vin) 6 ∧ idle (.highz vin) 7)

/-- With every stack in service, an address a below 576 GiB lies in mode LINEAR on stack floor(a / 48 GiB) at a mod 48 GiB; in
mode DIE3 on stack 3w + (n mod 3) at floor(n/3) 4 KiB + (b mod 4 KiB), with w = floor(a / 144 GiB), b = a mod 144 GiB, n = floor(b
/ 4 KiB); in mode PKG12 on stack n mod 12 at floor(n/12) 4 KiB + (a mod 4 KiB), with n = floor(a / 4 KiB). Different addresses
have different homes, on stacks 0 to 11 within their 48 GiB. With stacks out of service, an address has that same home or none.
(R160, Table 6.3) -/
def Obligations.HbmInterleaveModes : Prop :=
∀ (t : Tiers) (a a' : Nat), a < 576 * 2 ^ 30 → a' < 576 * 2 ^ 30 → t.imapCur < 3 →
    let gib48 := 48 * 2 ^ 30
    let w := a / (144 * 2 ^ 30)
    let n := a % (144 * 2 ^ 30) / 4096
    let place : Home :=
      if t.imapCur = 0 then .hbm (a / gib48) (a % gib48)
      else if t.imapCur = 1 then .hbm (3 * w + n % 3) (n / 3 * 4096 + a % (144 * 2 ^ 30) % 4096)
      else .hbm (a / 4096 % 12) (a / 4096 / 12 * 4096 + a % 4096)
    (t.stackOos = 0 → homeOf t a = some place ∧ (homeOf t a = homeOf t a' → a = a') ∧ ∃ st loc, place = .hbm st loc ∧ st < 12 ∧ loc < gib48) ∧
    (homeOf t a = some place ∨ homeOf t a = none)

/-- No command waits; memory and every list are in canonical form with nothing listed; Meridian is in INIT with count 0 and the 25
us period; PPL is 3,200 W, the shed floor 900 W and no target is set; no page is locked and no cause is set; every slot is unbound
with ACTL at its reset value and zero flags. No word spells a command, the table giving none any bits (assumption log 100). That the first state is that of the package held in its reset
(assumption log 5) and that memory with nothing written reads 0 (log 4) are the model's choices. (R45,
R46, R128, R338, R346, Table 2.3, Table 3.1, Table 13.9) -/
def Obligations.StateAfterReset : Prop :=
∀ b : Block, b = State.reset.blk →
  State.reset.pending = [] ∧ b.ListsCanonical ∧ b.ram = {} ∧ b.merid.state = .init ∧ b.merid.count = 0 ∧ b.merid.period = 25 ∧
  b.ppl = 3200 ∧ b.shedFloor = 900 ∧ b.target = 0 ∧
  (∀ pg : Page, (b.hdr pg).lock = false ∧ (b.hdr pg).irqStat = 0 ∧ (b.hdr pg).clampCnt = 0) ∧
  (∀ p i sl, (b.slot p i sl).bound = false ∧ (b.slot p i sl).actl = 0x44 ∧ (b.slot p i sl).flags = 0) ∧
  (∀ nbits w, decodeTableWord nbits w = none ∧ State.reset.withFetchWord nbits w = State.reset)

/-- From every state with PKG_RST_N held and no release among the waiting commands, after any number of steps the pin is still
held, the commands have been taken in order, and everything the package holds is as it was, but the TAP's instruction and boundary chain
(with the free values it takes), the PERST_N pins, the count of TAP instructions that acted as BYPASS (with the Eyepiece page's header and its interrupt),
what a loss of VSTBY releases, and test-port outputs. The commands that need a running package are ignored there (the model's choice, assumption log 116).
(R382, R436, R446, R448, R449, R451, R452) -/
def Obligations.ResetHeld : Prop :=
∀ (s : State) (k : Nat), s.blk.boot.power = .reset → (∀ tj, Instr.pkgRstRelease tj ∉ s.pending) →
    let t := s.after k
    t.pending = s.pending.drop k ∧ t.blk.boot.power = .reset ∧
    (∃ ir acts ch fv' ports tr ov l, t.blk = { s.blk with mgmt := { s.blk.mgmt with jtagIr := ir, jtagActs := acts, jtagChain := ch }, fv := fv', pcie := ports, helio := { s.blk.helio with tripped := tr, overVolt := ov }, logs := t.blk.logs, pages := t.blk.pages, out := l ++ s.blk.out } ∧
      ∀ x ∈ l, x = .irq Page.eyep.key Page.eyep.toHost ∨ ∃ reg n, x = .jtag reg n) ∧
    (smWf {} s.blk.pcie = true → ∀ x, { t.blk.port x with perst := false } = { s.blk.port x with perst := false }) ∧
    (∀ n, n ≠ Page.eyep.key * 256 + 4 → smGet 0 t.blk.logs n = smGet 0 s.blk.logs n) ∧
    ∀ key, key ≠ Page.eyep.key → smGet {} t.blk.pages key = smGet {} s.blk.pages key
end

