-- ==== Sys2Proof/Laws/Map.lean ====
section
/-! SUPPORT. Laws of sparse maps: reads after writes, and that every operation keeps the canonical form. -/

namespace Sys2Proof.Machine

variable {α : Type}

/-- The keys of a map rise strictly. -/
def smRise : SMap α → Bool
  | [] => true
  | (k, _) :: t => smAbove k t

@[simp] theorem smGet_nil (d : α) (x : Nat) : smGet d [] x = d := rfl

theorem smAbove_cons {b k : Nat} {v : α} {t : SMap α} : smAbove b ((k, v) :: t) = true ↔ b < k ∧ smAbove k t = true := by
  simp [smAbove]

theorem smRise_of_above {b : Nat} {m : SMap α} (h : smAbove b m = true) : smRise m = true := by
  cases m with
  | nil => rfl
  | cons e t => exact (smAbove_cons.1 h).2

theorem smAbove_mono {m : SMap α} {a b : Nat} (hab : a ≤ b) (h : smAbove b m = true) : smAbove a m = true := by
  cases m with
  | nil => rfl
  | cons e t => exact smAbove_cons.2 ⟨lt_of_le_of_lt hab (smAbove_cons.1 h).1, (smAbove_cons.1 h).2⟩

/-- Nothing is listed at or below the bound of a map. -/
theorem smGet_of_above (d : α) {m : SMap α} {b x : Nat} (h : smAbove b m = true) (hx : x ≤ b) : smGet d m x = d := by
  induction m generalizing b with
  | nil => rfl
  | cons e t ih =>
    obtain ⟨hb, ht⟩ := smAbove_cons.1 h
    simp only [smGet]
    rw [if_neg (by omega), ih ht (by omega)]

theorem smAbove_filter (f : Nat × α → Bool) {m : SMap α} {b : Nat} (h : smAbove b m = true) :
    smAbove b (m.filter f) = true := by
  induction m generalizing b with
  | nil => rfl
  | cons e t ih =>
    obtain ⟨hb, ht⟩ := smAbove_cons.1 h
    rw [List.filter_cons]
    split
    · exact smAbove_cons.2 ⟨hb, ih ht⟩
    · exact smAbove_mono (le_of_lt hb) (ih ht)

theorem smRise_filter (f : Nat × α → Bool) {m : SMap α} (h : smRise m = true) : smRise (m.filter f) = true := by
  cases m with
  | nil => rfl
  | cons e t =>
    rw [List.filter_cons]
    split
    · exact smAbove_filter f h
    · exact smRise_of_above (smAbove_filter f h)

variable [DecidableEq α]

theorem smWf_iff (d : α) (m : SMap α) : smWf d m = true ↔ smRise m = true ∧ ∀ e ∈ m, e.2 ≠ d := by
  cases m <;> simp [smWf, smRise]

theorem smAbove_put (d : α) {m : SMap α} {b x : Nat} (v : α) (h : smAbove b m = true) (hx : b < x) :
    smAbove b (smPut d m x v) = true := by
  induction m generalizing b with
  | nil => by_cases hv : v = d <;> simp [smPut, hv, smAbove, hx]
  | cons e t ih =>
    obtain ⟨k, w⟩ := e
    obtain ⟨hb, ht⟩ := smAbove_cons.1 h
    simp only [smPut]
    split
    · split
      · exact h
      · exact smAbove_cons.2 ⟨hx, smAbove_cons.2 ⟨by assumption, ht⟩⟩
    · split
      · split
        · exact smAbove_mono (le_of_lt hb) ht
        · exact smAbove_cons.2 ⟨hx, by simp_all⟩
      · exact smAbove_cons.2 ⟨hb, ih ht (by omega)⟩

theorem smRise_put (d : α) {m : SMap α} (x : Nat) (v : α) (h : smRise m = true) : smRise (smPut d m x v) = true := by
  cases m with
  | nil => by_cases hv : v = d <;> simp [smPut, hv, smRise, smAbove]
  | cons e t =>
    obtain ⟨k, w⟩ := e
    have ht : smAbove k t = true := h
    simp only [smPut]
    split
    · split
      · exact h
      · rename_i hk _
        exact (smAbove_cons (v := w)).2 ⟨hk, ht⟩
    · split
      · split
        · exact smRise_of_above ht
        · have : smAbove x t = true := by simp_all
          exact this
      · exact smAbove_put d v ht (by omega)

/-- A write is read back. -/
theorem smGet_put_self (d : α) {m : SMap α} (x : Nat) (v : α) (h : smRise m = true) : smGet d (smPut d m x v) x = v := by
  induction m with
  | nil => by_cases hv : v = d <;> simp [smPut, hv, smGet]
  | cons e t ih =>
    obtain ⟨k, w⟩ := e
    have ht : smAbove k t = true := h
    simp only [smPut]
    split
    · split
      · rename_i hk hv
        simp only [smGet]
        rw [if_neg (by omega), smGet_of_above d ht (by omega), hv]
      · simp [smGet]
    · split
      · split
        · rename_i hv
          rw [smGet_of_above d ht (by omega), hv]
        · simp [smGet]
      · simp only [smGet]
        rw [if_neg (by omega), ih (smRise_of_above ht)]

/-- A write leaves every other key alone. -/
theorem smGet_put_ne (d : α) {m : SMap α} {x y : Nat} (v : α) (hxy : y ≠ x) : smGet d (smPut d m x v) y = smGet d m y := by
  induction m with
  | nil =>
    by_cases hv : v = d
    · simp [smPut, hv]
    · simp [smPut, hv, smGet, Ne.symm hxy]
  | cons e t ih =>
    obtain ⟨k, w⟩ := e
    simp only [smPut]
    split
    · split
      · rfl
      · simp [smGet, Ne.symm hxy]
    · split
      · rename_i hk
        subst hk
        split <;> simp [smGet, Ne.symm hxy]
      · simp only [smGet]
        split
        · rfl
        · exact ih

theorem smPut_mem (d : α) {m : SMap α} {x : Nat} {v : α} (h : ∀ e ∈ m, e.2 ≠ d) : ∀ e ∈ smPut d m x v, e.2 ≠ d := by
  induction m with
  | nil => by_cases hv : v = d <;> simp [smPut, hv]
  | cons e t ih =>
    obtain ⟨k, w⟩ := e
    have hw : w ≠ d := h (k, w) (by simp)
    have ht : ∀ e ∈ t, e.2 ≠ d := fun e he => h e (by simp [he])
    simp only [smPut]
    by_cases hv : v = d
    · simp only [hv, if_true]
      split
      · exact h
      · split
        · exact ht
        · intro e he
          rcases List.mem_cons.1 he with rfl | he
          · exact hw
          · exact ih ht e (by simpa [hv] using he)
    · simp only [hv, if_false]
      split
      · intro e he
        rcases List.mem_cons.1 he with rfl | he
        · exact hv
        · exact h e he
      · split
        · intro e he
          rcases List.mem_cons.1 he with rfl | he
          · exact hv
          · exact ht e he
        · intro e he
          rcases List.mem_cons.1 he with rfl | he
          · exact hw
          · exact ih ht e he

/-- A write keeps the canonical form. -/
theorem smWf_put (d : α) {m : SMap α} (x : Nat) (v : α) (h : smWf d m = true) : smWf d (smPut d m x v) = true :=
  (smWf_iff d _).2 ⟨smRise_put d x v ((smWf_iff d m).1 h).1, smPut_mem d ((smWf_iff d m).1 h).2⟩

theorem smWf_mod (d : α) {m : SMap α} (x : Nat) (f : α → α) (h : smWf d m = true) : smWf d (smMod d m x f) = true :=
  smWf_put d x _ h

theorem smGet_mod_self (d : α) {m : SMap α} (x : Nat) (f : α → α) (h : smWf d m = true) :
    smGet d (smMod d m x f) x = f (smGet d m x) := smGet_put_self d x _ ((smWf_iff d m).1 h).1

theorem smGet_mod_ne (d : α) {m : SMap α} {x y : Nat} (f : α → α) (hxy : y ≠ x) :
    smGet d (smMod d m x f) y = smGet d m y := smGet_put_ne d _ hxy

/-- Leaving entries out keeps the canonical form. -/
theorem smWf_filter (d : α) (f : Nat × α → Bool) {m : SMap α} (h : smWf d m = true) : smWf d (m.filter f) = true :=
  (smWf_iff d _).2 ⟨smRise_filter f ((smWf_iff d m).1 h).1, fun e he => ((smWf_iff d m).1 h).2 e (List.mem_filter.1 he).1⟩

theorem smWf_dropRange (d : α) {m : SMap α} (lo hi : Nat) (h : smWf d m = true) : smWf d (smDropRange m lo hi) = true :=
  smWf_filter d _ h

/-- A range left out reads as unlisted, every other key as before. -/
theorem smGet_dropRange (d : α) (m : SMap α) (lo hi x : Nat) :
    smGet d (smDropRange m lo hi) x = if lo ≤ x ∧ x < hi then d else smGet d m x := by
  induction m with
  | nil => simp [smDropRange]
  | cons e t ih =>
    obtain ⟨k, w⟩ := e
    have hs : smDropRange ((k, w) :: t) lo hi = if lo ≤ k ∧ k < hi then smDropRange t lo hi else (k, w) :: smDropRange t lo hi := by
      by_cases hk : lo ≤ k ∧ k < hi
      · simp [smDropRange, hk]
      · rw [if_neg hk]
        unfold smDropRange
        rw [List.filter_cons_of_pos (by simp; omega)]
    rw [hs]
    by_cases hk : lo ≤ k ∧ k < hi
    · rw [if_pos hk, ih]
      by_cases hx : k = x
      · subst hx
        rw [if_pos hk, if_pos hk]
      · simp [smGet, hx]
    · rw [if_neg hk]
      by_cases hx : k = x
      · subst hx
        simp [smGet, hk]
      · simp only [smGet, if_neg hx, ih]

end Sys2Proof.Machine
end

