-- ==== Sys2Proof/Laws/State.lean ====
section
/-! SUPPORT. One lemma for each field of the block and each update of one unit: what the update leaves, and what it sets. The
second half says the same of the readers of one unit. -/

/- One theorem at a time: elaborated at once, each takes a thread with a stack of its own. -/
set_option Elab.async false

namespace Sys2Proof.Machine

variable (s : Block)

/-! `modPart` -/
@[simp] theorem Block.modPart_timeUs (p : Nat) (f : Part → Part) : (s.modPart p f).timeUs = s.timeUs := rfl
@[simp] theorem Block.modPart_pages (p : Nat) (f : Part → Part) : (s.modPart p f).pages = s.pages := rfl
@[simp] theorem Block.modPart_regs (p : Nat) (f : Part → Part) : (s.modPart p f).regs = s.regs := rfl
@[simp] theorem Block.modPart_logs (p : Nat) (f : Part → Part) : (s.modPart p f).logs = s.logs := rfl
@[simp] theorem Block.modPart_frameBound (p : Nat) (f : Part → Part) : (s.modPart p f).frameBound = s.frameBound := rfl
@[simp] theorem Block.modPart_ram (p : Nat) (f : Part → Part) : (s.modPart p f).ram = s.ram := rfl
@[simp] theorem Block.modPart_merid (p : Nat) (f : Part → Part) : (s.modPart p f).merid = s.merid := rfl
@[simp] theorem Block.modPart_parts (p : Nat) (f : Part → Part) : (s.modPart p f).parts = smMod {} s.parts p f := rfl
@[simp] theorem Block.modPart_cores (p : Nat) (f : Part → Part) : (s.modPart p f).cores = s.cores := rfl
@[simp] theorem Block.modPart_slots (p : Nat) (f : Part → Part) : (s.modPart p f).slots = s.slots := rfl
@[simp] theorem Block.modPart_tiers (p : Nat) (f : Part → Part) : (s.modPart p f).tiers = s.tiers := rfl
@[simp] theorem Block.modPart_mscs (p : Nat) (f : Part → Part) : (s.modPart p f).mscs = s.mscs := rfl
@[simp] theorem Block.modPart_hbmcs (p : Nat) (f : Part → Part) : (s.modPart p f).hbmcs = s.hbmcs := rfl
@[simp] theorem Block.modPart_capcs (p : Nat) (f : Part → Part) : (s.modPart p f).capcs = s.capcs := rfl
@[simp] theorem Block.modPart_mmus (p : Nat) (f : Part → Part) : (s.modPart p f).mmus = s.mmus := rfl
@[simp] theorem Block.modPart_syncs (p : Nat) (f : Part → Part) : (s.modPart p f).syncs = s.syncs := rfl
@[simp] theorem Block.modPart_links (p : Nat) (f : Part → Part) : (s.modPart p f).links = s.links := rfl
@[simp] theorem Block.modPart_routes (p : Nat) (f : Part → Part) : (s.modPart p f).routes = s.routes := rfl
@[simp] theorem Block.modPart_xu (p : Nat) (f : Part → Part) : (s.modPart p f).xu = s.xu := rfl
@[simp] theorem Block.modPart_engs (p : Nat) (f : Part → Part) : (s.modPart p f).engs = s.engs := rfl
@[simp] theorem Block.modPart_queues (p : Nat) (f : Part → Part) : (s.modPart p f).queues = s.queues := rfl
@[simp] theorem Block.modPart_coll (p : Nat) (f : Part → Part) : (s.modPart p f).coll = s.coll := rfl
@[simp] theorem Block.modPart_upd (p : Nat) (f : Part → Part) : (s.modPart p f).upd = s.upd := rfl
@[simp] theorem Block.modPart_eph (p : Nat) (f : Part → Part) : (s.modPart p f).eph = s.eph := rfl
@[simp] theorem Block.modPart_rhosts (p : Nat) (f : Part → Part) : (s.modPart p f).rhosts = s.rhosts := rfl
@[simp] theorem Block.modPart_helio (p : Nat) (f : Part → Part) : (s.modPart p f).helio = s.helio := rfl
@[simp] theorem Block.modPart_helioPs (p : Nat) (f : Part → Part) : (s.modPart p f).helioPs = s.helioPs := rfl
@[simp] theorem Block.modPart_vregs (p : Nat) (f : Part → Part) : (s.modPart p f).vregs = s.vregs := rfl
@[simp] theorem Block.modPart_boot (p : Nat) (f : Part → Part) : (s.modPart p f).boot = s.boot := rfl
@[simp] theorem Block.modPart_flash (p : Nat) (f : Part → Part) : (s.modPart p f).flash = s.flash := rfl
@[simp] theorem Block.modPart_poisonLatch (p : Nat) (f : Part → Part) : (s.modPart p f).poisonLatch = s.poisonLatch := rfl
@[simp] theorem Block.modPart_poisonFirst (p : Nat) (f : Part → Part) : (s.modPart p f).poisonFirst = s.poisonFirst := rfl
@[simp] theorem Block.modPart_poisonTick (p : Nat) (f : Part → Part) : (s.modPart p f).poisonTick = s.poisonTick := rfl
@[simp] theorem Block.modPart_warmDue (p : Nat) (f : Part → Part) : (s.modPart p f).warmDue = s.warmDue := rfl
@[simp] theorem Block.modPart_images (p : Nat) (f : Part → Part) : (s.modPart p f).images = s.images := rfl
@[simp] theorem Block.modPart_mirrors (p : Nat) (f : Part → Part) : (s.modPart p f).mirrors = s.mirrors := rfl
@[simp] theorem Block.modPart_pcie (p : Nat) (f : Part → Part) : (s.modPart p f).pcie = s.pcie := rfl
@[simp] theorem Block.modPart_mgmt (p : Nat) (f : Part → Part) : (s.modPart p f).mgmt = s.mgmt := rfl
@[simp] theorem Block.modPart_eyep (p : Nat) (f : Part → Part) : (s.modPart p f).eyep = s.eyep := rfl
@[simp] theorem Block.modPart_alm (p : Nat) (f : Part → Part) : (s.modPart p f).alm = s.alm := rfl
@[simp] theorem Block.modPart_feat (p : Nat) (f : Part → Part) : (s.modPart p f).feat = s.feat := rfl
@[simp] theorem Block.modPart_bundle (p : Nat) (f : Part → Part) : (s.modPart p f).bundle = s.bundle := rfl
@[simp] theorem Block.modPart_out (p : Nat) (f : Part → Part) : (s.modPart p f).out = s.out := rfl
@[simp] theorem Block.modPart_fv (p : Nat) (f : Part → Part) : (s.modPart p f).fv = s.fv := rfl
@[simp] theorem Block.modPart_core (p : Nat) (f : Part → Part) (a b : Nat) : (s.modPart p f).core a b = s.core a b := rfl
@[simp] theorem Block.modPart_slot (p : Nat) (f : Part → Part) (a b c : Nat) : (s.modPart p f).slot a b c = s.slot a b c := rfl
@[simp] theorem Block.modPart_msc (p : Nat) (f : Part → Part) (a : Nat) : (s.modPart p f).msc a = s.msc a := rfl
@[simp] theorem Block.modPart_hbmc (p : Nat) (f : Part → Part) (a : Nat) : (s.modPart p f).hbmc a = s.hbmc a := rfl
@[simp] theorem Block.modPart_capc (p : Nat) (f : Part → Part) (a : Nat) : (s.modPart p f).capc a = s.capc a := rfl
@[simp] theorem Block.modPart_mmu (p : Nat) (f : Part → Part) (a : Nat) : (s.modPart p f).mmu a = s.mmu a := rfl
@[simp] theorem Block.modPart_port (p : Nat) (f : Part → Part) (a : Nat) : (s.modPart p f).port a = s.port a := rfl
@[simp] theorem Block.modPart_hdr (p : Nat) (f : Part → Part) (a : Page) : (s.modPart p f).hdr a = s.hdr a := rfl
@[simp] theorem Block.modPart_reg (p : Nat) (f : Part → Part) (a : Page) (b : Nat) : (s.modPart p f).reg a b = s.reg a b := rfl
@[simp] theorem Block.modPart_syn (p : Nat) (f : Part → Part) (a : Nat) : (s.modPart p f).syn a = s.syn a := rfl
@[simp] theorem Block.modPart_hp (p : Nat) (f : Part → Part) (a : Nat) : (s.modPart p f).hp a = s.hp a := rfl
@[simp] theorem Block.modPart_link (p : Nat) (f : Part → Part) (a : Nat) : (s.modPart p f).link a = s.link a := rfl
@[simp] theorem Block.modPart_eng (p : Nat) (f : Part → Part) (a b : Nat) : (s.modPart p f).eng a b = s.eng a b := rfl
@[simp] theorem Block.modPart_queue (p : Nat) (f : Part → Part) (a b : Nat) : (s.modPart p f).queue a b = s.queue a b := rfl
@[simp] theorem Block.modPart_rhost (p : Nat) (f : Part → Part) (a : Nat) : (s.modPart p f).rhost a = s.rhost a := rfl
@[simp] theorem Block.modPart_ring (p : Nat) (f : Part → Part) (a : Nat) : (s.modPart p f).ring a = s.ring a := rfl
@[simp] theorem Block.modPart_logOf (p : Nat) (f : Part → Part) (a : Page) (b : Nat) : (s.modPart p f).logOf a b = s.logOf a b := rfl
@[simp] theorem Block.modPart_causeSet (p : Nat) (f : Part → Part) (a : Page) (b : Nat) : (s.modPart p f).causeSet a b = s.causeSet a b := rfl

/-! `modCore` -/
@[simp] theorem Block.modCore_timeUs (p i : Nat) (f : Core → Core) : (s.modCore p i f).timeUs = s.timeUs := rfl
@[simp] theorem Block.modCore_pages (p i : Nat) (f : Core → Core) : (s.modCore p i f).pages = s.pages := rfl
@[simp] theorem Block.modCore_regs (p i : Nat) (f : Core → Core) : (s.modCore p i f).regs = s.regs := rfl
@[simp] theorem Block.modCore_logs (p i : Nat) (f : Core → Core) : (s.modCore p i f).logs = s.logs := rfl
@[simp] theorem Block.modCore_frameBound (p i : Nat) (f : Core → Core) : (s.modCore p i f).frameBound = s.frameBound := rfl
@[simp] theorem Block.modCore_ram (p i : Nat) (f : Core → Core) : (s.modCore p i f).ram = s.ram := rfl
@[simp] theorem Block.modCore_merid (p i : Nat) (f : Core → Core) : (s.modCore p i f).merid = s.merid := rfl
@[simp] theorem Block.modCore_parts (p i : Nat) (f : Core → Core) : (s.modCore p i f).parts = s.parts := rfl
@[simp] theorem Block.modCore_cores (p i : Nat) (f : Core → Core) : (s.modCore p i f).cores = smMod {} s.cores (coreKey p i) f := rfl
@[simp] theorem Block.modCore_slots (p i : Nat) (f : Core → Core) : (s.modCore p i f).slots = s.slots := rfl
@[simp] theorem Block.modCore_tiers (p i : Nat) (f : Core → Core) : (s.modCore p i f).tiers = s.tiers := rfl
@[simp] theorem Block.modCore_mscs (p i : Nat) (f : Core → Core) : (s.modCore p i f).mscs = s.mscs := rfl
@[simp] theorem Block.modCore_hbmcs (p i : Nat) (f : Core → Core) : (s.modCore p i f).hbmcs = s.hbmcs := rfl
@[simp] theorem Block.modCore_capcs (p i : Nat) (f : Core → Core) : (s.modCore p i f).capcs = s.capcs := rfl
@[simp] theorem Block.modCore_mmus (p i : Nat) (f : Core → Core) : (s.modCore p i f).mmus = s.mmus := rfl
@[simp] theorem Block.modCore_syncs (p i : Nat) (f : Core → Core) : (s.modCore p i f).syncs = s.syncs := rfl
@[simp] theorem Block.modCore_links (p i : Nat) (f : Core → Core) : (s.modCore p i f).links = s.links := rfl
@[simp] theorem Block.modCore_routes (p i : Nat) (f : Core → Core) : (s.modCore p i f).routes = s.routes := rfl
@[simp] theorem Block.modCore_xu (p i : Nat) (f : Core → Core) : (s.modCore p i f).xu = s.xu := rfl
@[simp] theorem Block.modCore_engs (p i : Nat) (f : Core → Core) : (s.modCore p i f).engs = s.engs := rfl
@[simp] theorem Block.modCore_queues (p i : Nat) (f : Core → Core) : (s.modCore p i f).queues = s.queues := rfl
@[simp] theorem Block.modCore_coll (p i : Nat) (f : Core → Core) : (s.modCore p i f).coll = s.coll := rfl
@[simp] theorem Block.modCore_upd (p i : Nat) (f : Core → Core) : (s.modCore p i f).upd = s.upd := rfl
@[simp] theorem Block.modCore_eph (p i : Nat) (f : Core → Core) : (s.modCore p i f).eph = s.eph := rfl
@[simp] theorem Block.modCore_rhosts (p i : Nat) (f : Core → Core) : (s.modCore p i f).rhosts = s.rhosts := rfl
@[simp] theorem Block.modCore_helio (p i : Nat) (f : Core → Core) : (s.modCore p i f).helio = s.helio := rfl
@[simp] theorem Block.modCore_helioPs (p i : Nat) (f : Core → Core) : (s.modCore p i f).helioPs = s.helioPs := rfl
@[simp] theorem Block.modCore_vregs (p i : Nat) (f : Core → Core) : (s.modCore p i f).vregs = s.vregs := rfl
@[simp] theorem Block.modCore_boot (p i : Nat) (f : Core → Core) : (s.modCore p i f).boot = s.boot := rfl
@[simp] theorem Block.modCore_flash (p i : Nat) (f : Core → Core) : (s.modCore p i f).flash = s.flash := rfl
@[simp] theorem Block.modCore_poisonLatch (p i : Nat) (f : Core → Core) : (s.modCore p i f).poisonLatch = s.poisonLatch := rfl
@[simp] theorem Block.modCore_poisonFirst (p i : Nat) (f : Core → Core) : (s.modCore p i f).poisonFirst = s.poisonFirst := rfl
@[simp] theorem Block.modCore_poisonTick (p i : Nat) (f : Core → Core) : (s.modCore p i f).poisonTick = s.poisonTick := rfl
@[simp] theorem Block.modCore_warmDue (p i : Nat) (f : Core → Core) : (s.modCore p i f).warmDue = s.warmDue := rfl
@[simp] theorem Block.modCore_images (p i : Nat) (f : Core → Core) : (s.modCore p i f).images = s.images := rfl
@[simp] theorem Block.modCore_mirrors (p i : Nat) (f : Core → Core) : (s.modCore p i f).mirrors = s.mirrors := rfl
@[simp] theorem Block.modCore_pcie (p i : Nat) (f : Core → Core) : (s.modCore p i f).pcie = s.pcie := rfl
@[simp] theorem Block.modCore_mgmt (p i : Nat) (f : Core → Core) : (s.modCore p i f).mgmt = s.mgmt := rfl
@[simp] theorem Block.modCore_eyep (p i : Nat) (f : Core → Core) : (s.modCore p i f).eyep = s.eyep := rfl
@[simp] theorem Block.modCore_alm (p i : Nat) (f : Core → Core) : (s.modCore p i f).alm = s.alm := rfl
@[simp] theorem Block.modCore_feat (p i : Nat) (f : Core → Core) : (s.modCore p i f).feat = s.feat := rfl
@[simp] theorem Block.modCore_bundle (p i : Nat) (f : Core → Core) : (s.modCore p i f).bundle = s.bundle := rfl
@[simp] theorem Block.modCore_out (p i : Nat) (f : Core → Core) : (s.modCore p i f).out = s.out := rfl
@[simp] theorem Block.modCore_fv (p i : Nat) (f : Core → Core) : (s.modCore p i f).fv = s.fv := rfl
@[simp] theorem Block.modCore_part (p i : Nat) (f : Core → Core) (a : Nat) : (s.modCore p i f).part a = s.part a := rfl
@[simp] theorem Block.modCore_slot (p i : Nat) (f : Core → Core) (a b c : Nat) : (s.modCore p i f).slot a b c = s.slot a b c := rfl
@[simp] theorem Block.modCore_msc (p i : Nat) (f : Core → Core) (a : Nat) : (s.modCore p i f).msc a = s.msc a := rfl
@[simp] theorem Block.modCore_hbmc (p i : Nat) (f : Core → Core) (a : Nat) : (s.modCore p i f).hbmc a = s.hbmc a := rfl
@[simp] theorem Block.modCore_capc (p i : Nat) (f : Core → Core) (a : Nat) : (s.modCore p i f).capc a = s.capc a := rfl
@[simp] theorem Block.modCore_mmu (p i : Nat) (f : Core → Core) (a : Nat) : (s.modCore p i f).mmu a = s.mmu a := rfl
@[simp] theorem Block.modCore_port (p i : Nat) (f : Core → Core) (a : Nat) : (s.modCore p i f).port a = s.port a := rfl
@[simp] theorem Block.modCore_hdr (p i : Nat) (f : Core → Core) (a : Page) : (s.modCore p i f).hdr a = s.hdr a := rfl
@[simp] theorem Block.modCore_reg (p i : Nat) (f : Core → Core) (a : Page) (b : Nat) : (s.modCore p i f).reg a b = s.reg a b := rfl
@[simp] theorem Block.modCore_syn (p i : Nat) (f : Core → Core) (a : Nat) : (s.modCore p i f).syn a = s.syn a := rfl
@[simp] theorem Block.modCore_hp (p i : Nat) (f : Core → Core) (a : Nat) : (s.modCore p i f).hp a = s.hp a := rfl
@[simp] theorem Block.modCore_link (p i : Nat) (f : Core → Core) (a : Nat) : (s.modCore p i f).link a = s.link a := rfl
@[simp] theorem Block.modCore_eng (p i : Nat) (f : Core → Core) (a b : Nat) : (s.modCore p i f).eng a b = s.eng a b := rfl
@[simp] theorem Block.modCore_queue (p i : Nat) (f : Core → Core) (a b : Nat) : (s.modCore p i f).queue a b = s.queue a b := rfl
@[simp] theorem Block.modCore_rhost (p i : Nat) (f : Core → Core) (a : Nat) : (s.modCore p i f).rhost a = s.rhost a := rfl
@[simp] theorem Block.modCore_ring (p i : Nat) (f : Core → Core) (a : Nat) : (s.modCore p i f).ring a = s.ring a := rfl
@[simp] theorem Block.modCore_logOf (p i : Nat) (f : Core → Core) (a : Page) (b : Nat) : (s.modCore p i f).logOf a b = s.logOf a b := rfl
@[simp] theorem Block.modCore_causeSet (p i : Nat) (f : Core → Core) (a : Page) (b : Nat) : (s.modCore p i f).causeSet a b = s.causeSet a b := rfl

/-! `modSlot` -/
@[simp] theorem Block.modSlot_timeUs (p i sl : Nat) (f : Slot → Slot) : (s.modSlot p i sl f).timeUs = s.timeUs := rfl
@[simp] theorem Block.modSlot_pages (p i sl : Nat) (f : Slot → Slot) : (s.modSlot p i sl f).pages = s.pages := rfl
@[simp] theorem Block.modSlot_regs (p i sl : Nat) (f : Slot → Slot) : (s.modSlot p i sl f).regs = s.regs := rfl
@[simp] theorem Block.modSlot_logs (p i sl : Nat) (f : Slot → Slot) : (s.modSlot p i sl f).logs = s.logs := rfl
@[simp] theorem Block.modSlot_frameBound (p i sl : Nat) (f : Slot → Slot) : (s.modSlot p i sl f).frameBound = s.frameBound := rfl
@[simp] theorem Block.modSlot_ram (p i sl : Nat) (f : Slot → Slot) : (s.modSlot p i sl f).ram = s.ram := rfl
@[simp] theorem Block.modSlot_merid (p i sl : Nat) (f : Slot → Slot) : (s.modSlot p i sl f).merid = s.merid := rfl
@[simp] theorem Block.modSlot_parts (p i sl : Nat) (f : Slot → Slot) : (s.modSlot p i sl f).parts = s.parts := rfl
@[simp] theorem Block.modSlot_cores (p i sl : Nat) (f : Slot → Slot) : (s.modSlot p i sl f).cores = s.cores := rfl
@[simp] theorem Block.modSlot_slots (p i sl : Nat) (f : Slot → Slot) : (s.modSlot p i sl f).slots = smMod {} s.slots (slotKey p i sl) f := rfl
@[simp] theorem Block.modSlot_tiers (p i sl : Nat) (f : Slot → Slot) : (s.modSlot p i sl f).tiers = s.tiers := rfl
@[simp] theorem Block.modSlot_mscs (p i sl : Nat) (f : Slot → Slot) : (s.modSlot p i sl f).mscs = s.mscs := rfl
@[simp] theorem Block.modSlot_hbmcs (p i sl : Nat) (f : Slot → Slot) : (s.modSlot p i sl f).hbmcs = s.hbmcs := rfl
@[simp] theorem Block.modSlot_capcs (p i sl : Nat) (f : Slot → Slot) : (s.modSlot p i sl f).capcs = s.capcs := rfl
@[simp] theorem Block.modSlot_mmus (p i sl : Nat) (f : Slot → Slot) : (s.modSlot p i sl f).mmus = s.mmus := rfl
@[simp] theorem Block.modSlot_syncs (p i sl : Nat) (f : Slot → Slot) : (s.modSlot p i sl f).syncs = s.syncs := rfl
@[simp] theorem Block.modSlot_links (p i sl : Nat) (f : Slot → Slot) : (s.modSlot p i sl f).links = s.links := rfl
@[simp] theorem Block.modSlot_routes (p i sl : Nat) (f : Slot → Slot) : (s.modSlot p i sl f).routes = s.routes := rfl
@[simp] theorem Block.modSlot_xu (p i sl : Nat) (f : Slot → Slot) : (s.modSlot p i sl f).xu = s.xu := rfl
@[simp] theorem Block.modSlot_engs (p i sl : Nat) (f : Slot → Slot) : (s.modSlot p i sl f).engs = s.engs := rfl
@[simp] theorem Block.modSlot_queues (p i sl : Nat) (f : Slot → Slot) : (s.modSlot p i sl f).queues = s.queues := rfl
@[simp] theorem Block.modSlot_coll (p i sl : Nat) (f : Slot → Slot) : (s.modSlot p i sl f).coll = s.coll := rfl
@[simp] theorem Block.modSlot_upd (p i sl : Nat) (f : Slot → Slot) : (s.modSlot p i sl f).upd = s.upd := rfl
@[simp] theorem Block.modSlot_eph (p i sl : Nat) (f : Slot → Slot) : (s.modSlot p i sl f).eph = s.eph := rfl
@[simp] theorem Block.modSlot_rhosts (p i sl : Nat) (f : Slot → Slot) : (s.modSlot p i sl f).rhosts = s.rhosts := rfl
@[simp] theorem Block.modSlot_helio (p i sl : Nat) (f : Slot → Slot) : (s.modSlot p i sl f).helio = s.helio := rfl
@[simp] theorem Block.modSlot_helioPs (p i sl : Nat) (f : Slot → Slot) : (s.modSlot p i sl f).helioPs = s.helioPs := rfl
@[simp] theorem Block.modSlot_vregs (p i sl : Nat) (f : Slot → Slot) : (s.modSlot p i sl f).vregs = s.vregs := rfl
@[simp] theorem Block.modSlot_boot (p i sl : Nat) (f : Slot → Slot) : (s.modSlot p i sl f).boot = s.boot := rfl
@[simp] theorem Block.modSlot_flash (p i sl : Nat) (f : Slot → Slot) : (s.modSlot p i sl f).flash = s.flash := rfl
@[simp] theorem Block.modSlot_poisonLatch (p i sl : Nat) (f : Slot → Slot) : (s.modSlot p i sl f).poisonLatch = s.poisonLatch := rfl
@[simp] theorem Block.modSlot_poisonFirst (p i sl : Nat) (f : Slot → Slot) : (s.modSlot p i sl f).poisonFirst = s.poisonFirst := rfl
@[simp] theorem Block.modSlot_poisonTick (p i sl : Nat) (f : Slot → Slot) : (s.modSlot p i sl f).poisonTick = s.poisonTick := rfl
@[simp] theorem Block.modSlot_warmDue (p i sl : Nat) (f : Slot → Slot) : (s.modSlot p i sl f).warmDue = s.warmDue := rfl
@[simp] theorem Block.modSlot_images (p i sl : Nat) (f : Slot → Slot) : (s.modSlot p i sl f).images = s.images := rfl
@[simp] theorem Block.modSlot_mirrors (p i sl : Nat) (f : Slot → Slot) : (s.modSlot p i sl f).mirrors = s.mirrors := rfl
@[simp] theorem Block.modSlot_pcie (p i sl : Nat) (f : Slot → Slot) : (s.modSlot p i sl f).pcie = s.pcie := rfl
@[simp] theorem Block.modSlot_mgmt (p i sl : Nat) (f : Slot → Slot) : (s.modSlot p i sl f).mgmt = s.mgmt := rfl
@[simp] theorem Block.modSlot_eyep (p i sl : Nat) (f : Slot → Slot) : (s.modSlot p i sl f).eyep = s.eyep := rfl
@[simp] theorem Block.modSlot_alm (p i sl : Nat) (f : Slot → Slot) : (s.modSlot p i sl f).alm = s.alm := rfl
@[simp] theorem Block.modSlot_feat (p i sl : Nat) (f : Slot → Slot) : (s.modSlot p i sl f).feat = s.feat := rfl
@[simp] theorem Block.modSlot_bundle (p i sl : Nat) (f : Slot → Slot) : (s.modSlot p i sl f).bundle = s.bundle := rfl
@[simp] theorem Block.modSlot_out (p i sl : Nat) (f : Slot → Slot) : (s.modSlot p i sl f).out = s.out := rfl
@[simp] theorem Block.modSlot_fv (p i sl : Nat) (f : Slot → Slot) : (s.modSlot p i sl f).fv = s.fv := rfl
@[simp] theorem Block.modSlot_part (p i sl : Nat) (f : Slot → Slot) (a : Nat) : (s.modSlot p i sl f).part a = s.part a := rfl
@[simp] theorem Block.modSlot_core (p i sl : Nat) (f : Slot → Slot) (a b : Nat) : (s.modSlot p i sl f).core a b = s.core a b := rfl
@[simp] theorem Block.modSlot_msc (p i sl : Nat) (f : Slot → Slot) (a : Nat) : (s.modSlot p i sl f).msc a = s.msc a := rfl
@[simp] theorem Block.modSlot_hbmc (p i sl : Nat) (f : Slot → Slot) (a : Nat) : (s.modSlot p i sl f).hbmc a = s.hbmc a := rfl
@[simp] theorem Block.modSlot_capc (p i sl : Nat) (f : Slot → Slot) (a : Nat) : (s.modSlot p i sl f).capc a = s.capc a := rfl
@[simp] theorem Block.modSlot_mmu (p i sl : Nat) (f : Slot → Slot) (a : Nat) : (s.modSlot p i sl f).mmu a = s.mmu a := rfl
@[simp] theorem Block.modSlot_port (p i sl : Nat) (f : Slot → Slot) (a : Nat) : (s.modSlot p i sl f).port a = s.port a := rfl
@[simp] theorem Block.modSlot_hdr (p i sl : Nat) (f : Slot → Slot) (a : Page) : (s.modSlot p i sl f).hdr a = s.hdr a := rfl
@[simp] theorem Block.modSlot_reg (p i sl : Nat) (f : Slot → Slot) (a : Page) (b : Nat) : (s.modSlot p i sl f).reg a b = s.reg a b := rfl
@[simp] theorem Block.modSlot_syn (p i sl : Nat) (f : Slot → Slot) (a : Nat) : (s.modSlot p i sl f).syn a = s.syn a := rfl
@[simp] theorem Block.modSlot_hp (p i sl : Nat) (f : Slot → Slot) (a : Nat) : (s.modSlot p i sl f).hp a = s.hp a := rfl
@[simp] theorem Block.modSlot_link (p i sl : Nat) (f : Slot → Slot) (a : Nat) : (s.modSlot p i sl f).link a = s.link a := rfl
@[simp] theorem Block.modSlot_eng (p i sl : Nat) (f : Slot → Slot) (a b : Nat) : (s.modSlot p i sl f).eng a b = s.eng a b := rfl
@[simp] theorem Block.modSlot_queue (p i sl : Nat) (f : Slot → Slot) (a b : Nat) : (s.modSlot p i sl f).queue a b = s.queue a b := rfl
@[simp] theorem Block.modSlot_rhost (p i sl : Nat) (f : Slot → Slot) (a : Nat) : (s.modSlot p i sl f).rhost a = s.rhost a := rfl
@[simp] theorem Block.modSlot_ring (p i sl : Nat) (f : Slot → Slot) (a : Nat) : (s.modSlot p i sl f).ring a = s.ring a := rfl
@[simp] theorem Block.modSlot_logOf (p i sl : Nat) (f : Slot → Slot) (a : Page) (b : Nat) : (s.modSlot p i sl f).logOf a b = s.logOf a b := rfl
@[simp] theorem Block.modSlot_causeSet (p i sl : Nat) (f : Slot → Slot) (a : Page) (b : Nat) : (s.modSlot p i sl f).causeSet a b = s.causeSet a b := rfl

/-! `modMsc` -/
@[simp] theorem Block.modMsc_timeUs (p : Nat) (f : Msc → Msc) : (s.modMsc p f).timeUs = s.timeUs := rfl
@[simp] theorem Block.modMsc_pages (p : Nat) (f : Msc → Msc) : (s.modMsc p f).pages = s.pages := rfl
@[simp] theorem Block.modMsc_regs (p : Nat) (f : Msc → Msc) : (s.modMsc p f).regs = s.regs := rfl
@[simp] theorem Block.modMsc_logs (p : Nat) (f : Msc → Msc) : (s.modMsc p f).logs = s.logs := rfl
@[simp] theorem Block.modMsc_frameBound (p : Nat) (f : Msc → Msc) : (s.modMsc p f).frameBound = s.frameBound := rfl
@[simp] theorem Block.modMsc_ram (p : Nat) (f : Msc → Msc) : (s.modMsc p f).ram = s.ram := rfl
@[simp] theorem Block.modMsc_merid (p : Nat) (f : Msc → Msc) : (s.modMsc p f).merid = s.merid := rfl
@[simp] theorem Block.modMsc_parts (p : Nat) (f : Msc → Msc) : (s.modMsc p f).parts = s.parts := rfl
@[simp] theorem Block.modMsc_cores (p : Nat) (f : Msc → Msc) : (s.modMsc p f).cores = s.cores := rfl
@[simp] theorem Block.modMsc_slots (p : Nat) (f : Msc → Msc) : (s.modMsc p f).slots = s.slots := rfl
@[simp] theorem Block.modMsc_tiers (p : Nat) (f : Msc → Msc) : (s.modMsc p f).tiers = s.tiers := rfl
@[simp] theorem Block.modMsc_mscs (p : Nat) (f : Msc → Msc) : (s.modMsc p f).mscs = smMod {} s.mscs p f := rfl
@[simp] theorem Block.modMsc_hbmcs (p : Nat) (f : Msc → Msc) : (s.modMsc p f).hbmcs = s.hbmcs := rfl
@[simp] theorem Block.modMsc_capcs (p : Nat) (f : Msc → Msc) : (s.modMsc p f).capcs = s.capcs := rfl
@[simp] theorem Block.modMsc_mmus (p : Nat) (f : Msc → Msc) : (s.modMsc p f).mmus = s.mmus := rfl
@[simp] theorem Block.modMsc_syncs (p : Nat) (f : Msc → Msc) : (s.modMsc p f).syncs = s.syncs := rfl
@[simp] theorem Block.modMsc_links (p : Nat) (f : Msc → Msc) : (s.modMsc p f).links = s.links := rfl
@[simp] theorem Block.modMsc_routes (p : Nat) (f : Msc → Msc) : (s.modMsc p f).routes = s.routes := rfl
@[simp] theorem Block.modMsc_xu (p : Nat) (f : Msc → Msc) : (s.modMsc p f).xu = s.xu := rfl
@[simp] theorem Block.modMsc_engs (p : Nat) (f : Msc → Msc) : (s.modMsc p f).engs = s.engs := rfl
@[simp] theorem Block.modMsc_queues (p : Nat) (f : Msc → Msc) : (s.modMsc p f).queues = s.queues := rfl
@[simp] theorem Block.modMsc_coll (p : Nat) (f : Msc → Msc) : (s.modMsc p f).coll = s.coll := rfl
@[simp] theorem Block.modMsc_upd (p : Nat) (f : Msc → Msc) : (s.modMsc p f).upd = s.upd := rfl
@[simp] theorem Block.modMsc_eph (p : Nat) (f : Msc → Msc) : (s.modMsc p f).eph = s.eph := rfl
@[simp] theorem Block.modMsc_rhosts (p : Nat) (f : Msc → Msc) : (s.modMsc p f).rhosts = s.rhosts := rfl
@[simp] theorem Block.modMsc_helio (p : Nat) (f : Msc → Msc) : (s.modMsc p f).helio = s.helio := rfl
@[simp] theorem Block.modMsc_helioPs (p : Nat) (f : Msc → Msc) : (s.modMsc p f).helioPs = s.helioPs := rfl
@[simp] theorem Block.modMsc_vregs (p : Nat) (f : Msc → Msc) : (s.modMsc p f).vregs = s.vregs := rfl
@[simp] theorem Block.modMsc_boot (p : Nat) (f : Msc → Msc) : (s.modMsc p f).boot = s.boot := rfl
@[simp] theorem Block.modMsc_flash (p : Nat) (f : Msc → Msc) : (s.modMsc p f).flash = s.flash := rfl
@[simp] theorem Block.modMsc_poisonLatch (p : Nat) (f : Msc → Msc) : (s.modMsc p f).poisonLatch = s.poisonLatch := rfl
@[simp] theorem Block.modMsc_poisonFirst (p : Nat) (f : Msc → Msc) : (s.modMsc p f).poisonFirst = s.poisonFirst := rfl
@[simp] theorem Block.modMsc_poisonTick (p : Nat) (f : Msc → Msc) : (s.modMsc p f).poisonTick = s.poisonTick := rfl
@[simp] theorem Block.modMsc_warmDue (p : Nat) (f : Msc → Msc) : (s.modMsc p f).warmDue = s.warmDue := rfl
@[simp] theorem Block.modMsc_images (p : Nat) (f : Msc → Msc) : (s.modMsc p f).images = s.images := rfl
@[simp] theorem Block.modMsc_mirrors (p : Nat) (f : Msc → Msc) : (s.modMsc p f).mirrors = s.mirrors := rfl
@[simp] theorem Block.modMsc_pcie (p : Nat) (f : Msc → Msc) : (s.modMsc p f).pcie = s.pcie := rfl
@[simp] theorem Block.modMsc_mgmt (p : Nat) (f : Msc → Msc) : (s.modMsc p f).mgmt = s.mgmt := rfl
@[simp] theorem Block.modMsc_eyep (p : Nat) (f : Msc → Msc) : (s.modMsc p f).eyep = s.eyep := rfl
@[simp] theorem Block.modMsc_alm (p : Nat) (f : Msc → Msc) : (s.modMsc p f).alm = s.alm := rfl
@[simp] theorem Block.modMsc_feat (p : Nat) (f : Msc → Msc) : (s.modMsc p f).feat = s.feat := rfl
@[simp] theorem Block.modMsc_bundle (p : Nat) (f : Msc → Msc) : (s.modMsc p f).bundle = s.bundle := rfl
@[simp] theorem Block.modMsc_out (p : Nat) (f : Msc → Msc) : (s.modMsc p f).out = s.out := rfl
@[simp] theorem Block.modMsc_fv (p : Nat) (f : Msc → Msc) : (s.modMsc p f).fv = s.fv := rfl
@[simp] theorem Block.modMsc_part (p : Nat) (f : Msc → Msc) (a : Nat) : (s.modMsc p f).part a = s.part a := rfl
@[simp] theorem Block.modMsc_core (p : Nat) (f : Msc → Msc) (a b : Nat) : (s.modMsc p f).core a b = s.core a b := rfl
@[simp] theorem Block.modMsc_slot (p : Nat) (f : Msc → Msc) (a b c : Nat) : (s.modMsc p f).slot a b c = s.slot a b c := rfl
@[simp] theorem Block.modMsc_hbmc (p : Nat) (f : Msc → Msc) (a : Nat) : (s.modMsc p f).hbmc a = s.hbmc a := rfl
@[simp] theorem Block.modMsc_capc (p : Nat) (f : Msc → Msc) (a : Nat) : (s.modMsc p f).capc a = s.capc a := rfl
@[simp] theorem Block.modMsc_mmu (p : Nat) (f : Msc → Msc) (a : Nat) : (s.modMsc p f).mmu a = s.mmu a := rfl
@[simp] theorem Block.modMsc_port (p : Nat) (f : Msc → Msc) (a : Nat) : (s.modMsc p f).port a = s.port a := rfl
@[simp] theorem Block.modMsc_hdr (p : Nat) (f : Msc → Msc) (a : Page) : (s.modMsc p f).hdr a = s.hdr a := rfl
@[simp] theorem Block.modMsc_reg (p : Nat) (f : Msc → Msc) (a : Page) (b : Nat) : (s.modMsc p f).reg a b = s.reg a b := rfl
@[simp] theorem Block.modMsc_syn (p : Nat) (f : Msc → Msc) (a : Nat) : (s.modMsc p f).syn a = s.syn a := rfl
@[simp] theorem Block.modMsc_hp (p : Nat) (f : Msc → Msc) (a : Nat) : (s.modMsc p f).hp a = s.hp a := rfl
@[simp] theorem Block.modMsc_link (p : Nat) (f : Msc → Msc) (a : Nat) : (s.modMsc p f).link a = s.link a := rfl
@[simp] theorem Block.modMsc_eng (p : Nat) (f : Msc → Msc) (a b : Nat) : (s.modMsc p f).eng a b = s.eng a b := rfl
@[simp] theorem Block.modMsc_queue (p : Nat) (f : Msc → Msc) (a b : Nat) : (s.modMsc p f).queue a b = s.queue a b := rfl
@[simp] theorem Block.modMsc_rhost (p : Nat) (f : Msc → Msc) (a : Nat) : (s.modMsc p f).rhost a = s.rhost a := rfl
@[simp] theorem Block.modMsc_ring (p : Nat) (f : Msc → Msc) (a : Nat) : (s.modMsc p f).ring a = s.ring a := rfl
@[simp] theorem Block.modMsc_logOf (p : Nat) (f : Msc → Msc) (a : Page) (b : Nat) : (s.modMsc p f).logOf a b = s.logOf a b := rfl
@[simp] theorem Block.modMsc_causeSet (p : Nat) (f : Msc → Msc) (a : Page) (b : Nat) : (s.modMsc p f).causeSet a b = s.causeSet a b := rfl

/-! `modHbmc` -/
@[simp] theorem Block.modHbmc_timeUs (p : Nat) (f : Hbmc → Hbmc) : (s.modHbmc p f).timeUs = s.timeUs := rfl
@[simp] theorem Block.modHbmc_pages (p : Nat) (f : Hbmc → Hbmc) : (s.modHbmc p f).pages = s.pages := rfl
@[simp] theorem Block.modHbmc_regs (p : Nat) (f : Hbmc → Hbmc) : (s.modHbmc p f).regs = s.regs := rfl
@[simp] theorem Block.modHbmc_logs (p : Nat) (f : Hbmc → Hbmc) : (s.modHbmc p f).logs = s.logs := rfl
@[simp] theorem Block.modHbmc_frameBound (p : Nat) (f : Hbmc → Hbmc) : (s.modHbmc p f).frameBound = s.frameBound := rfl
@[simp] theorem Block.modHbmc_ram (p : Nat) (f : Hbmc → Hbmc) : (s.modHbmc p f).ram = s.ram := rfl
@[simp] theorem Block.modHbmc_merid (p : Nat) (f : Hbmc → Hbmc) : (s.modHbmc p f).merid = s.merid := rfl
@[simp] theorem Block.modHbmc_parts (p : Nat) (f : Hbmc → Hbmc) : (s.modHbmc p f).parts = s.parts := rfl
@[simp] theorem Block.modHbmc_cores (p : Nat) (f : Hbmc → Hbmc) : (s.modHbmc p f).cores = s.cores := rfl
@[simp] theorem Block.modHbmc_slots (p : Nat) (f : Hbmc → Hbmc) : (s.modHbmc p f).slots = s.slots := rfl
@[simp] theorem Block.modHbmc_tiers (p : Nat) (f : Hbmc → Hbmc) : (s.modHbmc p f).tiers = s.tiers := rfl
@[simp] theorem Block.modHbmc_mscs (p : Nat) (f : Hbmc → Hbmc) : (s.modHbmc p f).mscs = s.mscs := rfl
@[simp] theorem Block.modHbmc_hbmcs (p : Nat) (f : Hbmc → Hbmc) : (s.modHbmc p f).hbmcs = smMod {} s.hbmcs p f := rfl
@[simp] theorem Block.modHbmc_capcs (p : Nat) (f : Hbmc → Hbmc) : (s.modHbmc p f).capcs = s.capcs := rfl
@[simp] theorem Block.modHbmc_mmus (p : Nat) (f : Hbmc → Hbmc) : (s.modHbmc p f).mmus = s.mmus := rfl
@[simp] theorem Block.modHbmc_syncs (p : Nat) (f : Hbmc → Hbmc) : (s.modHbmc p f).syncs = s.syncs := rfl
@[simp] theorem Block.modHbmc_links (p : Nat) (f : Hbmc → Hbmc) : (s.modHbmc p f).links = s.links := rfl
@[simp] theorem Block.modHbmc_routes (p : Nat) (f : Hbmc → Hbmc) : (s.modHbmc p f).routes = s.routes := rfl
@[simp] theorem Block.modHbmc_xu (p : Nat) (f : Hbmc → Hbmc) : (s.modHbmc p f).xu = s.xu := rfl
@[simp] theorem Block.modHbmc_engs (p : Nat) (f : Hbmc → Hbmc) : (s.modHbmc p f).engs = s.engs := rfl
@[simp] theorem Block.modHbmc_queues (p : Nat) (f : Hbmc → Hbmc) : (s.modHbmc p f).queues = s.queues := rfl
@[simp] theorem Block.modHbmc_coll (p : Nat) (f : Hbmc → Hbmc) : (s.modHbmc p f).coll = s.coll := rfl
@[simp] theorem Block.modHbmc_upd (p : Nat) (f : Hbmc → Hbmc) : (s.modHbmc p f).upd = s.upd := rfl
@[simp] theorem Block.modHbmc_eph (p : Nat) (f : Hbmc → Hbmc) : (s.modHbmc p f).eph = s.eph := rfl
@[simp] theorem Block.modHbmc_rhosts (p : Nat) (f : Hbmc → Hbmc) : (s.modHbmc p f).rhosts = s.rhosts := rfl
@[simp] theorem Block.modHbmc_helio (p : Nat) (f : Hbmc → Hbmc) : (s.modHbmc p f).helio = s.helio := rfl
@[simp] theorem Block.modHbmc_helioPs (p : Nat) (f : Hbmc → Hbmc) : (s.modHbmc p f).helioPs = s.helioPs := rfl
@[simp] theorem Block.modHbmc_vregs (p : Nat) (f : Hbmc → Hbmc) : (s.modHbmc p f).vregs = s.vregs := rfl
@[simp] theorem Block.modHbmc_boot (p : Nat) (f : Hbmc → Hbmc) : (s.modHbmc p f).boot = s.boot := rfl
@[simp] theorem Block.modHbmc_flash (p : Nat) (f : Hbmc → Hbmc) : (s.modHbmc p f).flash = s.flash := rfl
@[simp] theorem Block.modHbmc_poisonLatch (p : Nat) (f : Hbmc → Hbmc) : (s.modHbmc p f).poisonLatch = s.poisonLatch := rfl
@[simp] theorem Block.modHbmc_poisonFirst (p : Nat) (f : Hbmc → Hbmc) : (s.modHbmc p f).poisonFirst = s.poisonFirst := rfl
@[simp] theorem Block.modHbmc_poisonTick (p : Nat) (f : Hbmc → Hbmc) : (s.modHbmc p f).poisonTick = s.poisonTick := rfl
@[simp] theorem Block.modHbmc_warmDue (p : Nat) (f : Hbmc → Hbmc) : (s.modHbmc p f).warmDue = s.warmDue := rfl
@[simp] theorem Block.modHbmc_images (p : Nat) (f : Hbmc → Hbmc) : (s.modHbmc p f).images = s.images := rfl
@[simp] theorem Block.modHbmc_mirrors (p : Nat) (f : Hbmc → Hbmc) : (s.modHbmc p f).mirrors = s.mirrors := rfl
@[simp] theorem Block.modHbmc_pcie (p : Nat) (f : Hbmc → Hbmc) : (s.modHbmc p f).pcie = s.pcie := rfl
@[simp] theorem Block.modHbmc_mgmt (p : Nat) (f : Hbmc → Hbmc) : (s.modHbmc p f).mgmt = s.mgmt := rfl
@[simp] theorem Block.modHbmc_eyep (p : Nat) (f : Hbmc → Hbmc) : (s.modHbmc p f).eyep = s.eyep := rfl
@[simp] theorem Block.modHbmc_alm (p : Nat) (f : Hbmc → Hbmc) : (s.modHbmc p f).alm = s.alm := rfl
@[simp] theorem Block.modHbmc_feat (p : Nat) (f : Hbmc → Hbmc) : (s.modHbmc p f).feat = s.feat := rfl
@[simp] theorem Block.modHbmc_bundle (p : Nat) (f : Hbmc → Hbmc) : (s.modHbmc p f).bundle = s.bundle := rfl
@[simp] theorem Block.modHbmc_out (p : Nat) (f : Hbmc → Hbmc) : (s.modHbmc p f).out = s.out := rfl
@[simp] theorem Block.modHbmc_fv (p : Nat) (f : Hbmc → Hbmc) : (s.modHbmc p f).fv = s.fv := rfl
@[simp] theorem Block.modHbmc_part (p : Nat) (f : Hbmc → Hbmc) (a : Nat) : (s.modHbmc p f).part a = s.part a := rfl
@[simp] theorem Block.modHbmc_core (p : Nat) (f : Hbmc → Hbmc) (a b : Nat) : (s.modHbmc p f).core a b = s.core a b := rfl
@[simp] theorem Block.modHbmc_slot (p : Nat) (f : Hbmc → Hbmc) (a b c : Nat) : (s.modHbmc p f).slot a b c = s.slot a b c := rfl
@[simp] theorem Block.modHbmc_msc (p : Nat) (f : Hbmc → Hbmc) (a : Nat) : (s.modHbmc p f).msc a = s.msc a := rfl
@[simp] theorem Block.modHbmc_capc (p : Nat) (f : Hbmc → Hbmc) (a : Nat) : (s.modHbmc p f).capc a = s.capc a := rfl
@[simp] theorem Block.modHbmc_mmu (p : Nat) (f : Hbmc → Hbmc) (a : Nat) : (s.modHbmc p f).mmu a = s.mmu a := rfl
@[simp] theorem Block.modHbmc_port (p : Nat) (f : Hbmc → Hbmc) (a : Nat) : (s.modHbmc p f).port a = s.port a := rfl
@[simp] theorem Block.modHbmc_hdr (p : Nat) (f : Hbmc → Hbmc) (a : Page) : (s.modHbmc p f).hdr a = s.hdr a := rfl
@[simp] theorem Block.modHbmc_reg (p : Nat) (f : Hbmc → Hbmc) (a : Page) (b : Nat) : (s.modHbmc p f).reg a b = s.reg a b := rfl
@[simp] theorem Block.modHbmc_syn (p : Nat) (f : Hbmc → Hbmc) (a : Nat) : (s.modHbmc p f).syn a = s.syn a := rfl
@[simp] theorem Block.modHbmc_hp (p : Nat) (f : Hbmc → Hbmc) (a : Nat) : (s.modHbmc p f).hp a = s.hp a := rfl
@[simp] theorem Block.modHbmc_link (p : Nat) (f : Hbmc → Hbmc) (a : Nat) : (s.modHbmc p f).link a = s.link a := rfl
@[simp] theorem Block.modHbmc_eng (p : Nat) (f : Hbmc → Hbmc) (a b : Nat) : (s.modHbmc p f).eng a b = s.eng a b := rfl
@[simp] theorem Block.modHbmc_queue (p : Nat) (f : Hbmc → Hbmc) (a b : Nat) : (s.modHbmc p f).queue a b = s.queue a b := rfl
@[simp] theorem Block.modHbmc_rhost (p : Nat) (f : Hbmc → Hbmc) (a : Nat) : (s.modHbmc p f).rhost a = s.rhost a := rfl
@[simp] theorem Block.modHbmc_ring (p : Nat) (f : Hbmc → Hbmc) (a : Nat) : (s.modHbmc p f).ring a = s.ring a := rfl
@[simp] theorem Block.modHbmc_logOf (p : Nat) (f : Hbmc → Hbmc) (a : Page) (b : Nat) : (s.modHbmc p f).logOf a b = s.logOf a b := rfl
@[simp] theorem Block.modHbmc_causeSet (p : Nat) (f : Hbmc → Hbmc) (a : Page) (b : Nat) : (s.modHbmc p f).causeSet a b = s.causeSet a b := rfl

/-! `modCapc` -/
@[simp] theorem Block.modCapc_timeUs (p : Nat) (f : Capc → Capc) : (s.modCapc p f).timeUs = s.timeUs := rfl
@[simp] theorem Block.modCapc_pages (p : Nat) (f : Capc → Capc) : (s.modCapc p f).pages = s.pages := rfl
@[simp] theorem Block.modCapc_regs (p : Nat) (f : Capc → Capc) : (s.modCapc p f).regs = s.regs := rfl
@[simp] theorem Block.modCapc_logs (p : Nat) (f : Capc → Capc) : (s.modCapc p f).logs = s.logs := rfl
@[simp] theorem Block.modCapc_frameBound (p : Nat) (f : Capc → Capc) : (s.modCapc p f).frameBound = s.frameBound := rfl
@[simp] theorem Block.modCapc_ram (p : Nat) (f : Capc → Capc) : (s.modCapc p f).ram = s.ram := rfl
@[simp] theorem Block.modCapc_merid (p : Nat) (f : Capc → Capc) : (s.modCapc p f).merid = s.merid := rfl
@[simp] theorem Block.modCapc_parts (p : Nat) (f : Capc → Capc) : (s.modCapc p f).parts = s.parts := rfl
@[simp] theorem Block.modCapc_cores (p : Nat) (f : Capc → Capc) : (s.modCapc p f).cores = s.cores := rfl
@[simp] theorem Block.modCapc_slots (p : Nat) (f : Capc → Capc) : (s.modCapc p f).slots = s.slots := rfl
@[simp] theorem Block.modCapc_tiers (p : Nat) (f : Capc → Capc) : (s.modCapc p f).tiers = s.tiers := rfl
@[simp] theorem Block.modCapc_mscs (p : Nat) (f : Capc → Capc) : (s.modCapc p f).mscs = s.mscs := rfl
@[simp] theorem Block.modCapc_hbmcs (p : Nat) (f : Capc → Capc) : (s.modCapc p f).hbmcs = s.hbmcs := rfl
@[simp] theorem Block.modCapc_capcs (p : Nat) (f : Capc → Capc) : (s.modCapc p f).capcs = smMod {} s.capcs p f := rfl
@[simp] theorem Block.modCapc_mmus (p : Nat) (f : Capc → Capc) : (s.modCapc p f).mmus = s.mmus := rfl
@[simp] theorem Block.modCapc_syncs (p : Nat) (f : Capc → Capc) : (s.modCapc p f).syncs = s.syncs := rfl
@[simp] theorem Block.modCapc_links (p : Nat) (f : Capc → Capc) : (s.modCapc p f).links = s.links := rfl
@[simp] theorem Block.modCapc_routes (p : Nat) (f : Capc → Capc) : (s.modCapc p f).routes = s.routes := rfl
@[simp] theorem Block.modCapc_xu (p : Nat) (f : Capc → Capc) : (s.modCapc p f).xu = s.xu := rfl
@[simp] theorem Block.modCapc_engs (p : Nat) (f : Capc → Capc) : (s.modCapc p f).engs = s.engs := rfl
@[simp] theorem Block.modCapc_queues (p : Nat) (f : Capc → Capc) : (s.modCapc p f).queues = s.queues := rfl
@[simp] theorem Block.modCapc_coll (p : Nat) (f : Capc → Capc) : (s.modCapc p f).coll = s.coll := rfl
@[simp] theorem Block.modCapc_upd (p : Nat) (f : Capc → Capc) : (s.modCapc p f).upd = s.upd := rfl
@[simp] theorem Block.modCapc_eph (p : Nat) (f : Capc → Capc) : (s.modCapc p f).eph = s.eph := rfl
@[simp] theorem Block.modCapc_rhosts (p : Nat) (f : Capc → Capc) : (s.modCapc p f).rhosts = s.rhosts := rfl
@[simp] theorem Block.modCapc_helio (p : Nat) (f : Capc → Capc) : (s.modCapc p f).helio = s.helio := rfl
@[simp] theorem Block.modCapc_helioPs (p : Nat) (f : Capc → Capc) : (s.modCapc p f).helioPs = s.helioPs := rfl
@[simp] theorem Block.modCapc_vregs (p : Nat) (f : Capc → Capc) : (s.modCapc p f).vregs = s.vregs := rfl
@[simp] theorem Block.modCapc_boot (p : Nat) (f : Capc → Capc) : (s.modCapc p f).boot = s.boot := rfl
@[simp] theorem Block.modCapc_flash (p : Nat) (f : Capc → Capc) : (s.modCapc p f).flash = s.flash := rfl
@[simp] theorem Block.modCapc_poisonLatch (p : Nat) (f : Capc → Capc) : (s.modCapc p f).poisonLatch = s.poisonLatch := rfl
@[simp] theorem Block.modCapc_poisonFirst (p : Nat) (f : Capc → Capc) : (s.modCapc p f).poisonFirst = s.poisonFirst := rfl
@[simp] theorem Block.modCapc_poisonTick (p : Nat) (f : Capc → Capc) : (s.modCapc p f).poisonTick = s.poisonTick := rfl
@[simp] theorem Block.modCapc_warmDue (p : Nat) (f : Capc → Capc) : (s.modCapc p f).warmDue = s.warmDue := rfl
@[simp] theorem Block.modCapc_images (p : Nat) (f : Capc → Capc) : (s.modCapc p f).images = s.images := rfl
@[simp] theorem Block.modCapc_mirrors (p : Nat) (f : Capc → Capc) : (s.modCapc p f).mirrors = s.mirrors := rfl
@[simp] theorem Block.modCapc_pcie (p : Nat) (f : Capc → Capc) : (s.modCapc p f).pcie = s.pcie := rfl
@[simp] theorem Block.modCapc_mgmt (p : Nat) (f : Capc → Capc) : (s.modCapc p f).mgmt = s.mgmt := rfl
@[simp] theorem Block.modCapc_eyep (p : Nat) (f : Capc → Capc) : (s.modCapc p f).eyep = s.eyep := rfl
@[simp] theorem Block.modCapc_alm (p : Nat) (f : Capc → Capc) : (s.modCapc p f).alm = s.alm := rfl
@[simp] theorem Block.modCapc_feat (p : Nat) (f : Capc → Capc) : (s.modCapc p f).feat = s.feat := rfl
@[simp] theorem Block.modCapc_bundle (p : Nat) (f : Capc → Capc) : (s.modCapc p f).bundle = s.bundle := rfl
@[simp] theorem Block.modCapc_out (p : Nat) (f : Capc → Capc) : (s.modCapc p f).out = s.out := rfl
@[simp] theorem Block.modCapc_fv (p : Nat) (f : Capc → Capc) : (s.modCapc p f).fv = s.fv := rfl
@[simp] theorem Block.modCapc_part (p : Nat) (f : Capc → Capc) (a : Nat) : (s.modCapc p f).part a = s.part a := rfl
@[simp] theorem Block.modCapc_core (p : Nat) (f : Capc → Capc) (a b : Nat) : (s.modCapc p f).core a b = s.core a b := rfl
@[simp] theorem Block.modCapc_slot (p : Nat) (f : Capc → Capc) (a b c : Nat) : (s.modCapc p f).slot a b c = s.slot a b c := rfl
@[simp] theorem Block.modCapc_msc (p : Nat) (f : Capc → Capc) (a : Nat) : (s.modCapc p f).msc a = s.msc a := rfl
@[simp] theorem Block.modCapc_hbmc (p : Nat) (f : Capc → Capc) (a : Nat) : (s.modCapc p f).hbmc a = s.hbmc a := rfl
@[simp] theorem Block.modCapc_mmu (p : Nat) (f : Capc → Capc) (a : Nat) : (s.modCapc p f).mmu a = s.mmu a := rfl
@[simp] theorem Block.modCapc_port (p : Nat) (f : Capc → Capc) (a : Nat) : (s.modCapc p f).port a = s.port a := rfl
@[simp] theorem Block.modCapc_hdr (p : Nat) (f : Capc → Capc) (a : Page) : (s.modCapc p f).hdr a = s.hdr a := rfl
@[simp] theorem Block.modCapc_reg (p : Nat) (f : Capc → Capc) (a : Page) (b : Nat) : (s.modCapc p f).reg a b = s.reg a b := rfl
@[simp] theorem Block.modCapc_syn (p : Nat) (f : Capc → Capc) (a : Nat) : (s.modCapc p f).syn a = s.syn a := rfl
@[simp] theorem Block.modCapc_hp (p : Nat) (f : Capc → Capc) (a : Nat) : (s.modCapc p f).hp a = s.hp a := rfl
@[simp] theorem Block.modCapc_link (p : Nat) (f : Capc → Capc) (a : Nat) : (s.modCapc p f).link a = s.link a := rfl
@[simp] theorem Block.modCapc_eng (p : Nat) (f : Capc → Capc) (a b : Nat) : (s.modCapc p f).eng a b = s.eng a b := rfl
@[simp] theorem Block.modCapc_queue (p : Nat) (f : Capc → Capc) (a b : Nat) : (s.modCapc p f).queue a b = s.queue a b := rfl
@[simp] theorem Block.modCapc_rhost (p : Nat) (f : Capc → Capc) (a : Nat) : (s.modCapc p f).rhost a = s.rhost a := rfl
@[simp] theorem Block.modCapc_ring (p : Nat) (f : Capc → Capc) (a : Nat) : (s.modCapc p f).ring a = s.ring a := rfl
@[simp] theorem Block.modCapc_logOf (p : Nat) (f : Capc → Capc) (a : Page) (b : Nat) : (s.modCapc p f).logOf a b = s.logOf a b := rfl
@[simp] theorem Block.modCapc_causeSet (p : Nat) (f : Capc → Capc) (a : Page) (b : Nat) : (s.modCapc p f).causeSet a b = s.causeSet a b := rfl

/-! `modMmu` -/
@[simp] theorem Block.modMmu_timeUs (p : Nat) (f : Mmu → Mmu) : (s.modMmu p f).timeUs = s.timeUs := rfl
@[simp] theorem Block.modMmu_pages (p : Nat) (f : Mmu → Mmu) : (s.modMmu p f).pages = s.pages := rfl
@[simp] theorem Block.modMmu_regs (p : Nat) (f : Mmu → Mmu) : (s.modMmu p f).regs = s.regs := rfl
@[simp] theorem Block.modMmu_logs (p : Nat) (f : Mmu → Mmu) : (s.modMmu p f).logs = s.logs := rfl
@[simp] theorem Block.modMmu_frameBound (p : Nat) (f : Mmu → Mmu) : (s.modMmu p f).frameBound = s.frameBound := rfl
@[simp] theorem Block.modMmu_ram (p : Nat) (f : Mmu → Mmu) : (s.modMmu p f).ram = s.ram := rfl
@[simp] theorem Block.modMmu_merid (p : Nat) (f : Mmu → Mmu) : (s.modMmu p f).merid = s.merid := rfl
@[simp] theorem Block.modMmu_parts (p : Nat) (f : Mmu → Mmu) : (s.modMmu p f).parts = s.parts := rfl
@[simp] theorem Block.modMmu_cores (p : Nat) (f : Mmu → Mmu) : (s.modMmu p f).cores = s.cores := rfl
@[simp] theorem Block.modMmu_slots (p : Nat) (f : Mmu → Mmu) : (s.modMmu p f).slots = s.slots := rfl
@[simp] theorem Block.modMmu_tiers (p : Nat) (f : Mmu → Mmu) : (s.modMmu p f).tiers = s.tiers := rfl
@[simp] theorem Block.modMmu_mscs (p : Nat) (f : Mmu → Mmu) : (s.modMmu p f).mscs = s.mscs := rfl
@[simp] theorem Block.modMmu_hbmcs (p : Nat) (f : Mmu → Mmu) : (s.modMmu p f).hbmcs = s.hbmcs := rfl
@[simp] theorem Block.modMmu_capcs (p : Nat) (f : Mmu → Mmu) : (s.modMmu p f).capcs = s.capcs := rfl
@[simp] theorem Block.modMmu_mmus (p : Nat) (f : Mmu → Mmu) : (s.modMmu p f).mmus = smMod {} s.mmus p f := rfl
@[simp] theorem Block.modMmu_syncs (p : Nat) (f : Mmu → Mmu) : (s.modMmu p f).syncs = s.syncs := rfl
@[simp] theorem Block.modMmu_links (p : Nat) (f : Mmu → Mmu) : (s.modMmu p f).links = s.links := rfl
@[simp] theorem Block.modMmu_routes (p : Nat) (f : Mmu → Mmu) : (s.modMmu p f).routes = s.routes := rfl
@[simp] theorem Block.modMmu_xu (p : Nat) (f : Mmu → Mmu) : (s.modMmu p f).xu = s.xu := rfl
@[simp] theorem Block.modMmu_engs (p : Nat) (f : Mmu → Mmu) : (s.modMmu p f).engs = s.engs := rfl
@[simp] theorem Block.modMmu_queues (p : Nat) (f : Mmu → Mmu) : (s.modMmu p f).queues = s.queues := rfl
@[simp] theorem Block.modMmu_coll (p : Nat) (f : Mmu → Mmu) : (s.modMmu p f).coll = s.coll := rfl
@[simp] theorem Block.modMmu_upd (p : Nat) (f : Mmu → Mmu) : (s.modMmu p f).upd = s.upd := rfl
@[simp] theorem Block.modMmu_eph (p : Nat) (f : Mmu → Mmu) : (s.modMmu p f).eph = s.eph := rfl
@[simp] theorem Block.modMmu_rhosts (p : Nat) (f : Mmu → Mmu) : (s.modMmu p f).rhosts = s.rhosts := rfl
@[simp] theorem Block.modMmu_helio (p : Nat) (f : Mmu → Mmu) : (s.modMmu p f).helio = s.helio := rfl
@[simp] theorem Block.modMmu_helioPs (p : Nat) (f : Mmu → Mmu) : (s.modMmu p f).helioPs = s.helioPs := rfl
@[simp] theorem Block.modMmu_vregs (p : Nat) (f : Mmu → Mmu) : (s.modMmu p f).vregs = s.vregs := rfl
@[simp] theorem Block.modMmu_boot (p : Nat) (f : Mmu → Mmu) : (s.modMmu p f).boot = s.boot := rfl
@[simp] theorem Block.modMmu_flash (p : Nat) (f : Mmu → Mmu) : (s.modMmu p f).flash = s.flash := rfl
@[simp] theorem Block.modMmu_poisonLatch (p : Nat) (f : Mmu → Mmu) : (s.modMmu p f).poisonLatch = s.poisonLatch := rfl
@[simp] theorem Block.modMmu_poisonFirst (p : Nat) (f : Mmu → Mmu) : (s.modMmu p f).poisonFirst = s.poisonFirst := rfl
@[simp] theorem Block.modMmu_poisonTick (p : Nat) (f : Mmu → Mmu) : (s.modMmu p f).poisonTick = s.poisonTick := rfl
@[simp] theorem Block.modMmu_warmDue (p : Nat) (f : Mmu → Mmu) : (s.modMmu p f).warmDue = s.warmDue := rfl
@[simp] theorem Block.modMmu_images (p : Nat) (f : Mmu → Mmu) : (s.modMmu p f).images = s.images := rfl
@[simp] theorem Block.modMmu_mirrors (p : Nat) (f : Mmu → Mmu) : (s.modMmu p f).mirrors = s.mirrors := rfl
@[simp] theorem Block.modMmu_pcie (p : Nat) (f : Mmu → Mmu) : (s.modMmu p f).pcie = s.pcie := rfl
@[simp] theorem Block.modMmu_mgmt (p : Nat) (f : Mmu → Mmu) : (s.modMmu p f).mgmt = s.mgmt := rfl
@[simp] theorem Block.modMmu_eyep (p : Nat) (f : Mmu → Mmu) : (s.modMmu p f).eyep = s.eyep := rfl
@[simp] theorem Block.modMmu_alm (p : Nat) (f : Mmu → Mmu) : (s.modMmu p f).alm = s.alm := rfl
@[simp] theorem Block.modMmu_feat (p : Nat) (f : Mmu → Mmu) : (s.modMmu p f).feat = s.feat := rfl
@[simp] theorem Block.modMmu_bundle (p : Nat) (f : Mmu → Mmu) : (s.modMmu p f).bundle = s.bundle := rfl
@[simp] theorem Block.modMmu_out (p : Nat) (f : Mmu → Mmu) : (s.modMmu p f).out = s.out := rfl
@[simp] theorem Block.modMmu_fv (p : Nat) (f : Mmu → Mmu) : (s.modMmu p f).fv = s.fv := rfl
@[simp] theorem Block.modMmu_part (p : Nat) (f : Mmu → Mmu) (a : Nat) : (s.modMmu p f).part a = s.part a := rfl
@[simp] theorem Block.modMmu_core (p : Nat) (f : Mmu → Mmu) (a b : Nat) : (s.modMmu p f).core a b = s.core a b := rfl
@[simp] theorem Block.modMmu_slot (p : Nat) (f : Mmu → Mmu) (a b c : Nat) : (s.modMmu p f).slot a b c = s.slot a b c := rfl
@[simp] theorem Block.modMmu_msc (p : Nat) (f : Mmu → Mmu) (a : Nat) : (s.modMmu p f).msc a = s.msc a := rfl
@[simp] theorem Block.modMmu_hbmc (p : Nat) (f : Mmu → Mmu) (a : Nat) : (s.modMmu p f).hbmc a = s.hbmc a := rfl
@[simp] theorem Block.modMmu_capc (p : Nat) (f : Mmu → Mmu) (a : Nat) : (s.modMmu p f).capc a = s.capc a := rfl
@[simp] theorem Block.modMmu_port (p : Nat) (f : Mmu → Mmu) (a : Nat) : (s.modMmu p f).port a = s.port a := rfl
@[simp] theorem Block.modMmu_hdr (p : Nat) (f : Mmu → Mmu) (a : Page) : (s.modMmu p f).hdr a = s.hdr a := rfl
@[simp] theorem Block.modMmu_reg (p : Nat) (f : Mmu → Mmu) (a : Page) (b : Nat) : (s.modMmu p f).reg a b = s.reg a b := rfl
@[simp] theorem Block.modMmu_syn (p : Nat) (f : Mmu → Mmu) (a : Nat) : (s.modMmu p f).syn a = s.syn a := rfl
@[simp] theorem Block.modMmu_hp (p : Nat) (f : Mmu → Mmu) (a : Nat) : (s.modMmu p f).hp a = s.hp a := rfl
@[simp] theorem Block.modMmu_link (p : Nat) (f : Mmu → Mmu) (a : Nat) : (s.modMmu p f).link a = s.link a := rfl
@[simp] theorem Block.modMmu_eng (p : Nat) (f : Mmu → Mmu) (a b : Nat) : (s.modMmu p f).eng a b = s.eng a b := rfl
@[simp] theorem Block.modMmu_queue (p : Nat) (f : Mmu → Mmu) (a b : Nat) : (s.modMmu p f).queue a b = s.queue a b := rfl
@[simp] theorem Block.modMmu_rhost (p : Nat) (f : Mmu → Mmu) (a : Nat) : (s.modMmu p f).rhost a = s.rhost a := rfl
@[simp] theorem Block.modMmu_ring (p : Nat) (f : Mmu → Mmu) (a : Nat) : (s.modMmu p f).ring a = s.ring a := rfl
@[simp] theorem Block.modMmu_logOf (p : Nat) (f : Mmu → Mmu) (a : Page) (b : Nat) : (s.modMmu p f).logOf a b = s.logOf a b := rfl
@[simp] theorem Block.modMmu_causeSet (p : Nat) (f : Mmu → Mmu) (a : Page) (b : Nat) : (s.modMmu p f).causeSet a b = s.causeSet a b := rfl

/-! `modPort` -/
@[simp] theorem Block.modPort_timeUs (p : Nat) (f : Pcie → Pcie) : (s.modPort p f).timeUs = s.timeUs := rfl
@[simp] theorem Block.modPort_pages (p : Nat) (f : Pcie → Pcie) : (s.modPort p f).pages = s.pages := rfl
@[simp] theorem Block.modPort_regs (p : Nat) (f : Pcie → Pcie) : (s.modPort p f).regs = s.regs := rfl
@[simp] theorem Block.modPort_logs (p : Nat) (f : Pcie → Pcie) : (s.modPort p f).logs = s.logs := rfl
@[simp] theorem Block.modPort_frameBound (p : Nat) (f : Pcie → Pcie) : (s.modPort p f).frameBound = s.frameBound := rfl
@[simp] theorem Block.modPort_ram (p : Nat) (f : Pcie → Pcie) : (s.modPort p f).ram = s.ram := rfl
@[simp] theorem Block.modPort_merid (p : Nat) (f : Pcie → Pcie) : (s.modPort p f).merid = s.merid := rfl
@[simp] theorem Block.modPort_parts (p : Nat) (f : Pcie → Pcie) : (s.modPort p f).parts = s.parts := rfl
@[simp] theorem Block.modPort_cores (p : Nat) (f : Pcie → Pcie) : (s.modPort p f).cores = s.cores := rfl
@[simp] theorem Block.modPort_slots (p : Nat) (f : Pcie → Pcie) : (s.modPort p f).slots = s.slots := rfl
@[simp] theorem Block.modPort_tiers (p : Nat) (f : Pcie → Pcie) : (s.modPort p f).tiers = s.tiers := rfl
@[simp] theorem Block.modPort_mscs (p : Nat) (f : Pcie → Pcie) : (s.modPort p f).mscs = s.mscs := rfl
@[simp] theorem Block.modPort_hbmcs (p : Nat) (f : Pcie → Pcie) : (s.modPort p f).hbmcs = s.hbmcs := rfl
@[simp] theorem Block.modPort_capcs (p : Nat) (f : Pcie → Pcie) : (s.modPort p f).capcs = s.capcs := rfl
@[simp] theorem Block.modPort_mmus (p : Nat) (f : Pcie → Pcie) : (s.modPort p f).mmus = s.mmus := rfl
@[simp] theorem Block.modPort_syncs (p : Nat) (f : Pcie → Pcie) : (s.modPort p f).syncs = s.syncs := rfl
@[simp] theorem Block.modPort_links (p : Nat) (f : Pcie → Pcie) : (s.modPort p f).links = s.links := rfl
@[simp] theorem Block.modPort_routes (p : Nat) (f : Pcie → Pcie) : (s.modPort p f).routes = s.routes := rfl
@[simp] theorem Block.modPort_xu (p : Nat) (f : Pcie → Pcie) : (s.modPort p f).xu = s.xu := rfl
@[simp] theorem Block.modPort_engs (p : Nat) (f : Pcie → Pcie) : (s.modPort p f).engs = s.engs := rfl
@[simp] theorem Block.modPort_queues (p : Nat) (f : Pcie → Pcie) : (s.modPort p f).queues = s.queues := rfl
@[simp] theorem Block.modPort_coll (p : Nat) (f : Pcie → Pcie) : (s.modPort p f).coll = s.coll := rfl
@[simp] theorem Block.modPort_upd (p : Nat) (f : Pcie → Pcie) : (s.modPort p f).upd = s.upd := rfl
@[simp] theorem Block.modPort_eph (p : Nat) (f : Pcie → Pcie) : (s.modPort p f).eph = s.eph := rfl
@[simp] theorem Block.modPort_rhosts (p : Nat) (f : Pcie → Pcie) : (s.modPort p f).rhosts = s.rhosts := rfl
@[simp] theorem Block.modPort_helio (p : Nat) (f : Pcie → Pcie) : (s.modPort p f).helio = s.helio := rfl
@[simp] theorem Block.modPort_helioPs (p : Nat) (f : Pcie → Pcie) : (s.modPort p f).helioPs = s.helioPs := rfl
@[simp] theorem Block.modPort_vregs (p : Nat) (f : Pcie → Pcie) : (s.modPort p f).vregs = s.vregs := rfl
@[simp] theorem Block.modPort_boot (p : Nat) (f : Pcie → Pcie) : (s.modPort p f).boot = s.boot := rfl
@[simp] theorem Block.modPort_flash (p : Nat) (f : Pcie → Pcie) : (s.modPort p f).flash = s.flash := rfl
@[simp] theorem Block.modPort_poisonLatch (p : Nat) (f : Pcie → Pcie) : (s.modPort p f).poisonLatch = s.poisonLatch := rfl
@[simp] theorem Block.modPort_poisonFirst (p : Nat) (f : Pcie → Pcie) : (s.modPort p f).poisonFirst = s.poisonFirst := rfl
@[simp] theorem Block.modPort_poisonTick (p : Nat) (f : Pcie → Pcie) : (s.modPort p f).poisonTick = s.poisonTick := rfl
@[simp] theorem Block.modPort_warmDue (p : Nat) (f : Pcie → Pcie) : (s.modPort p f).warmDue = s.warmDue := rfl
@[simp] theorem Block.modPort_images (p : Nat) (f : Pcie → Pcie) : (s.modPort p f).images = s.images := rfl
@[simp] theorem Block.modPort_mirrors (p : Nat) (f : Pcie → Pcie) : (s.modPort p f).mirrors = s.mirrors := rfl
@[simp] theorem Block.modPort_pcie (p : Nat) (f : Pcie → Pcie) : (s.modPort p f).pcie = smMod {} s.pcie p f := rfl
@[simp] theorem Block.modPort_mgmt (p : Nat) (f : Pcie → Pcie) : (s.modPort p f).mgmt = s.mgmt := rfl
@[simp] theorem Block.modPort_eyep (p : Nat) (f : Pcie → Pcie) : (s.modPort p f).eyep = s.eyep := rfl
@[simp] theorem Block.modPort_alm (p : Nat) (f : Pcie → Pcie) : (s.modPort p f).alm = s.alm := rfl
@[simp] theorem Block.modPort_feat (p : Nat) (f : Pcie → Pcie) : (s.modPort p f).feat = s.feat := rfl
@[simp] theorem Block.modPort_bundle (p : Nat) (f : Pcie → Pcie) : (s.modPort p f).bundle = s.bundle := rfl
@[simp] theorem Block.modPort_out (p : Nat) (f : Pcie → Pcie) : (s.modPort p f).out = s.out := rfl
@[simp] theorem Block.modPort_fv (p : Nat) (f : Pcie → Pcie) : (s.modPort p f).fv = s.fv := rfl
@[simp] theorem Block.modPort_part (p : Nat) (f : Pcie → Pcie) (a : Nat) : (s.modPort p f).part a = s.part a := rfl
@[simp] theorem Block.modPort_core (p : Nat) (f : Pcie → Pcie) (a b : Nat) : (s.modPort p f).core a b = s.core a b := rfl
@[simp] theorem Block.modPort_slot (p : Nat) (f : Pcie → Pcie) (a b c : Nat) : (s.modPort p f).slot a b c = s.slot a b c := rfl
@[simp] theorem Block.modPort_msc (p : Nat) (f : Pcie → Pcie) (a : Nat) : (s.modPort p f).msc a = s.msc a := rfl
@[simp] theorem Block.modPort_hbmc (p : Nat) (f : Pcie → Pcie) (a : Nat) : (s.modPort p f).hbmc a = s.hbmc a := rfl
@[simp] theorem Block.modPort_capc (p : Nat) (f : Pcie → Pcie) (a : Nat) : (s.modPort p f).capc a = s.capc a := rfl
@[simp] theorem Block.modPort_mmu (p : Nat) (f : Pcie → Pcie) (a : Nat) : (s.modPort p f).mmu a = s.mmu a := rfl
@[simp] theorem Block.modPort_hdr (p : Nat) (f : Pcie → Pcie) (a : Page) : (s.modPort p f).hdr a = s.hdr a := rfl
@[simp] theorem Block.modPort_reg (p : Nat) (f : Pcie → Pcie) (a : Page) (b : Nat) : (s.modPort p f).reg a b = s.reg a b := rfl
@[simp] theorem Block.modPort_syn (p : Nat) (f : Pcie → Pcie) (a : Nat) : (s.modPort p f).syn a = s.syn a := rfl
@[simp] theorem Block.modPort_hp (p : Nat) (f : Pcie → Pcie) (a : Nat) : (s.modPort p f).hp a = s.hp a := rfl
@[simp] theorem Block.modPort_link (p : Nat) (f : Pcie → Pcie) (a : Nat) : (s.modPort p f).link a = s.link a := rfl
@[simp] theorem Block.modPort_eng (p : Nat) (f : Pcie → Pcie) (a b : Nat) : (s.modPort p f).eng a b = s.eng a b := rfl
@[simp] theorem Block.modPort_queue (p : Nat) (f : Pcie → Pcie) (a b : Nat) : (s.modPort p f).queue a b = s.queue a b := rfl
@[simp] theorem Block.modPort_rhost (p : Nat) (f : Pcie → Pcie) (a : Nat) : (s.modPort p f).rhost a = s.rhost a := rfl
@[simp] theorem Block.modPort_ring (p : Nat) (f : Pcie → Pcie) (a : Nat) : (s.modPort p f).ring a = s.ring a := rfl
@[simp] theorem Block.modPort_logOf (p : Nat) (f : Pcie → Pcie) (a : Page) (b : Nat) : (s.modPort p f).logOf a b = s.logOf a b := rfl
@[simp] theorem Block.modPort_causeSet (p : Nat) (f : Pcie → Pcie) (a : Page) (b : Nat) : (s.modPort p f).causeSet a b = s.causeSet a b := rfl

/-! `modHdr` -/
@[simp] theorem Block.modHdr_timeUs (pg : Page) (f : PageHdr → PageHdr) : (s.modHdr pg f).timeUs = s.timeUs := rfl
@[simp] theorem Block.modHdr_pages (pg : Page) (f : PageHdr → PageHdr) : (s.modHdr pg f).pages = smMod {} s.pages pg.key f := rfl
@[simp] theorem Block.modHdr_regs (pg : Page) (f : PageHdr → PageHdr) : (s.modHdr pg f).regs = s.regs := rfl
@[simp] theorem Block.modHdr_logs (pg : Page) (f : PageHdr → PageHdr) : (s.modHdr pg f).logs = s.logs := rfl
@[simp] theorem Block.modHdr_frameBound (pg : Page) (f : PageHdr → PageHdr) : (s.modHdr pg f).frameBound = s.frameBound := rfl
@[simp] theorem Block.modHdr_ram (pg : Page) (f : PageHdr → PageHdr) : (s.modHdr pg f).ram = s.ram := rfl
@[simp] theorem Block.modHdr_merid (pg : Page) (f : PageHdr → PageHdr) : (s.modHdr pg f).merid = s.merid := rfl
@[simp] theorem Block.modHdr_parts (pg : Page) (f : PageHdr → PageHdr) : (s.modHdr pg f).parts = s.parts := rfl
@[simp] theorem Block.modHdr_cores (pg : Page) (f : PageHdr → PageHdr) : (s.modHdr pg f).cores = s.cores := rfl
@[simp] theorem Block.modHdr_slots (pg : Page) (f : PageHdr → PageHdr) : (s.modHdr pg f).slots = s.slots := rfl
@[simp] theorem Block.modHdr_tiers (pg : Page) (f : PageHdr → PageHdr) : (s.modHdr pg f).tiers = s.tiers := rfl
@[simp] theorem Block.modHdr_mscs (pg : Page) (f : PageHdr → PageHdr) : (s.modHdr pg f).mscs = s.mscs := rfl
@[simp] theorem Block.modHdr_hbmcs (pg : Page) (f : PageHdr → PageHdr) : (s.modHdr pg f).hbmcs = s.hbmcs := rfl
@[simp] theorem Block.modHdr_capcs (pg : Page) (f : PageHdr → PageHdr) : (s.modHdr pg f).capcs = s.capcs := rfl
@[simp] theorem Block.modHdr_mmus (pg : Page) (f : PageHdr → PageHdr) : (s.modHdr pg f).mmus = s.mmus := rfl
@[simp] theorem Block.modHdr_syncs (pg : Page) (f : PageHdr → PageHdr) : (s.modHdr pg f).syncs = s.syncs := rfl
@[simp] theorem Block.modHdr_links (pg : Page) (f : PageHdr → PageHdr) : (s.modHdr pg f).links = s.links := rfl
@[simp] theorem Block.modHdr_routes (pg : Page) (f : PageHdr → PageHdr) : (s.modHdr pg f).routes = s.routes := rfl
@[simp] theorem Block.modHdr_xu (pg : Page) (f : PageHdr → PageHdr) : (s.modHdr pg f).xu = s.xu := rfl
@[simp] theorem Block.modHdr_engs (pg : Page) (f : PageHdr → PageHdr) : (s.modHdr pg f).engs = s.engs := rfl
@[simp] theorem Block.modHdr_queues (pg : Page) (f : PageHdr → PageHdr) : (s.modHdr pg f).queues = s.queues := rfl
@[simp] theorem Block.modHdr_coll (pg : Page) (f : PageHdr → PageHdr) : (s.modHdr pg f).coll = s.coll := rfl
@[simp] theorem Block.modHdr_upd (pg : Page) (f : PageHdr → PageHdr) : (s.modHdr pg f).upd = s.upd := rfl
@[simp] theorem Block.modHdr_eph (pg : Page) (f : PageHdr → PageHdr) : (s.modHdr pg f).eph = s.eph := rfl
@[simp] theorem Block.modHdr_rhosts (pg : Page) (f : PageHdr → PageHdr) : (s.modHdr pg f).rhosts = s.rhosts := rfl
@[simp] theorem Block.modHdr_helio (pg : Page) (f : PageHdr → PageHdr) : (s.modHdr pg f).helio = s.helio := rfl
@[simp] theorem Block.modHdr_helioPs (pg : Page) (f : PageHdr → PageHdr) : (s.modHdr pg f).helioPs = s.helioPs := rfl
@[simp] theorem Block.modHdr_vregs (pg : Page) (f : PageHdr → PageHdr) : (s.modHdr pg f).vregs = s.vregs := rfl
@[simp] theorem Block.modHdr_boot (pg : Page) (f : PageHdr → PageHdr) : (s.modHdr pg f).boot = s.boot := rfl
@[simp] theorem Block.modHdr_flash (pg : Page) (f : PageHdr → PageHdr) : (s.modHdr pg f).flash = s.flash := rfl
@[simp] theorem Block.modHdr_poisonLatch (pg : Page) (f : PageHdr → PageHdr) : (s.modHdr pg f).poisonLatch = s.poisonLatch := rfl
@[simp] theorem Block.modHdr_poisonFirst (pg : Page) (f : PageHdr → PageHdr) : (s.modHdr pg f).poisonFirst = s.poisonFirst := rfl
@[simp] theorem Block.modHdr_poisonTick (pg : Page) (f : PageHdr → PageHdr) : (s.modHdr pg f).poisonTick = s.poisonTick := rfl
@[simp] theorem Block.modHdr_warmDue (pg : Page) (f : PageHdr → PageHdr) : (s.modHdr pg f).warmDue = s.warmDue := rfl
@[simp] theorem Block.modHdr_images (pg : Page) (f : PageHdr → PageHdr) : (s.modHdr pg f).images = s.images := rfl
@[simp] theorem Block.modHdr_mirrors (pg : Page) (f : PageHdr → PageHdr) : (s.modHdr pg f).mirrors = s.mirrors := rfl
@[simp] theorem Block.modHdr_pcie (pg : Page) (f : PageHdr → PageHdr) : (s.modHdr pg f).pcie = s.pcie := rfl
@[simp] theorem Block.modHdr_mgmt (pg : Page) (f : PageHdr → PageHdr) : (s.modHdr pg f).mgmt = s.mgmt := rfl
@[simp] theorem Block.modHdr_eyep (pg : Page) (f : PageHdr → PageHdr) : (s.modHdr pg f).eyep = s.eyep := rfl
@[simp] theorem Block.modHdr_alm (pg : Page) (f : PageHdr → PageHdr) : (s.modHdr pg f).alm = s.alm := rfl
@[simp] theorem Block.modHdr_feat (pg : Page) (f : PageHdr → PageHdr) : (s.modHdr pg f).feat = s.feat := rfl
@[simp] theorem Block.modHdr_bundle (pg : Page) (f : PageHdr → PageHdr) : (s.modHdr pg f).bundle = s.bundle := rfl
@[simp] theorem Block.modHdr_out (pg : Page) (f : PageHdr → PageHdr) : (s.modHdr pg f).out = s.out := rfl
@[simp] theorem Block.modHdr_fv (pg : Page) (f : PageHdr → PageHdr) : (s.modHdr pg f).fv = s.fv := rfl
@[simp] theorem Block.modHdr_part (pg : Page) (f : PageHdr → PageHdr) (a : Nat) : (s.modHdr pg f).part a = s.part a := rfl
@[simp] theorem Block.modHdr_core (pg : Page) (f : PageHdr → PageHdr) (a b : Nat) : (s.modHdr pg f).core a b = s.core a b := rfl
@[simp] theorem Block.modHdr_slot (pg : Page) (f : PageHdr → PageHdr) (a b c : Nat) : (s.modHdr pg f).slot a b c = s.slot a b c := rfl
@[simp] theorem Block.modHdr_msc (pg : Page) (f : PageHdr → PageHdr) (a : Nat) : (s.modHdr pg f).msc a = s.msc a := rfl
@[simp] theorem Block.modHdr_hbmc (pg : Page) (f : PageHdr → PageHdr) (a : Nat) : (s.modHdr pg f).hbmc a = s.hbmc a := rfl
@[simp] theorem Block.modHdr_capc (pg : Page) (f : PageHdr → PageHdr) (a : Nat) : (s.modHdr pg f).capc a = s.capc a := rfl
@[simp] theorem Block.modHdr_mmu (pg : Page) (f : PageHdr → PageHdr) (a : Nat) : (s.modHdr pg f).mmu a = s.mmu a := rfl
@[simp] theorem Block.modHdr_port (pg : Page) (f : PageHdr → PageHdr) (a : Nat) : (s.modHdr pg f).port a = s.port a := rfl
@[simp] theorem Block.modHdr_reg (pg : Page) (f : PageHdr → PageHdr) (a : Page) (b : Nat) : (s.modHdr pg f).reg a b = s.reg a b := rfl
@[simp] theorem Block.modHdr_syn (pg : Page) (f : PageHdr → PageHdr) (a : Nat) : (s.modHdr pg f).syn a = s.syn a := rfl
@[simp] theorem Block.modHdr_hp (pg : Page) (f : PageHdr → PageHdr) (a : Nat) : (s.modHdr pg f).hp a = s.hp a := rfl
@[simp] theorem Block.modHdr_link (pg : Page) (f : PageHdr → PageHdr) (a : Nat) : (s.modHdr pg f).link a = s.link a := rfl
@[simp] theorem Block.modHdr_eng (pg : Page) (f : PageHdr → PageHdr) (a b : Nat) : (s.modHdr pg f).eng a b = s.eng a b := rfl
@[simp] theorem Block.modHdr_queue (pg : Page) (f : PageHdr → PageHdr) (a b : Nat) : (s.modHdr pg f).queue a b = s.queue a b := rfl
@[simp] theorem Block.modHdr_rhost (pg : Page) (f : PageHdr → PageHdr) (a : Nat) : (s.modHdr pg f).rhost a = s.rhost a := rfl
@[simp] theorem Block.modHdr_ring (pg : Page) (f : PageHdr → PageHdr) (a : Nat) : (s.modHdr pg f).ring a = s.ring a := rfl
@[simp] theorem Block.modHdr_logOf (pg : Page) (f : PageHdr → PageHdr) (a : Page) (b : Nat) : (s.modHdr pg f).logOf a b = s.logOf a b := rfl

/-! `setReg` -/
@[simp] theorem Block.setReg_timeUs (pg : Page) (o v : Nat) : (s.setReg pg o v).timeUs = s.timeUs := rfl
@[simp] theorem Block.setReg_pages (pg : Page) (o v : Nat) : (s.setReg pg o v).pages = s.pages := rfl
@[simp] theorem Block.setReg_logs (pg : Page) (o v : Nat) : (s.setReg pg o v).logs = s.logs := rfl
@[simp] theorem Block.setReg_frameBound (pg : Page) (o v : Nat) : (s.setReg pg o v).frameBound = s.frameBound := rfl
@[simp] theorem Block.setReg_ram (pg : Page) (o v : Nat) : (s.setReg pg o v).ram = s.ram := rfl
@[simp] theorem Block.setReg_merid (pg : Page) (o v : Nat) : (s.setReg pg o v).merid = s.merid := rfl
@[simp] theorem Block.setReg_parts (pg : Page) (o v : Nat) : (s.setReg pg o v).parts = s.parts := rfl
@[simp] theorem Block.setReg_cores (pg : Page) (o v : Nat) : (s.setReg pg o v).cores = s.cores := rfl
@[simp] theorem Block.setReg_slots (pg : Page) (o v : Nat) : (s.setReg pg o v).slots = s.slots := rfl
@[simp] theorem Block.setReg_tiers (pg : Page) (o v : Nat) : (s.setReg pg o v).tiers = s.tiers := rfl
@[simp] theorem Block.setReg_mscs (pg : Page) (o v : Nat) : (s.setReg pg o v).mscs = s.mscs := rfl
@[simp] theorem Block.setReg_hbmcs (pg : Page) (o v : Nat) : (s.setReg pg o v).hbmcs = s.hbmcs := rfl
@[simp] theorem Block.setReg_capcs (pg : Page) (o v : Nat) : (s.setReg pg o v).capcs = s.capcs := rfl
@[simp] theorem Block.setReg_mmus (pg : Page) (o v : Nat) : (s.setReg pg o v).mmus = s.mmus := rfl
@[simp] theorem Block.setReg_syncs (pg : Page) (o v : Nat) : (s.setReg pg o v).syncs = s.syncs := rfl
@[simp] theorem Block.setReg_links (pg : Page) (o v : Nat) : (s.setReg pg o v).links = s.links := rfl
@[simp] theorem Block.setReg_routes (pg : Page) (o v : Nat) : (s.setReg pg o v).routes = s.routes := rfl
@[simp] theorem Block.setReg_xu (pg : Page) (o v : Nat) : (s.setReg pg o v).xu = s.xu := rfl
@[simp] theorem Block.setReg_engs (pg : Page) (o v : Nat) : (s.setReg pg o v).engs = s.engs := rfl
@[simp] theorem Block.setReg_queues (pg : Page) (o v : Nat) : (s.setReg pg o v).queues = s.queues := rfl
@[simp] theorem Block.setReg_coll (pg : Page) (o v : Nat) : (s.setReg pg o v).coll = s.coll := rfl
@[simp] theorem Block.setReg_upd (pg : Page) (o v : Nat) : (s.setReg pg o v).upd = s.upd := rfl
@[simp] theorem Block.setReg_eph (pg : Page) (o v : Nat) : (s.setReg pg o v).eph = s.eph := rfl
@[simp] theorem Block.setReg_rhosts (pg : Page) (o v : Nat) : (s.setReg pg o v).rhosts = s.rhosts := rfl
@[simp] theorem Block.setReg_helio (pg : Page) (o v : Nat) : (s.setReg pg o v).helio = s.helio := rfl
@[simp] theorem Block.setReg_helioPs (pg : Page) (o v : Nat) : (s.setReg pg o v).helioPs = s.helioPs := rfl
@[simp] theorem Block.setReg_vregs (pg : Page) (o v : Nat) : (s.setReg pg o v).vregs = s.vregs := rfl
@[simp] theorem Block.setReg_boot (pg : Page) (o v : Nat) : (s.setReg pg o v).boot = s.boot := rfl
@[simp] theorem Block.setReg_flash (pg : Page) (o v : Nat) : (s.setReg pg o v).flash = s.flash := rfl
@[simp] theorem Block.setReg_poisonLatch (pg : Page) (o v : Nat) : (s.setReg pg o v).poisonLatch = s.poisonLatch := rfl
@[simp] theorem Block.setReg_poisonFirst (pg : Page) (o v : Nat) : (s.setReg pg o v).poisonFirst = s.poisonFirst := rfl
@[simp] theorem Block.setReg_poisonTick (pg : Page) (o v : Nat) : (s.setReg pg o v).poisonTick = s.poisonTick := rfl
@[simp] theorem Block.setReg_warmDue (pg : Page) (o v : Nat) : (s.setReg pg o v).warmDue = s.warmDue := rfl
@[simp] theorem Block.setReg_images (pg : Page) (o v : Nat) : (s.setReg pg o v).images = s.images := rfl
@[simp] theorem Block.setReg_mirrors (pg : Page) (o v : Nat) : (s.setReg pg o v).mirrors = s.mirrors := rfl
@[simp] theorem Block.setReg_pcie (pg : Page) (o v : Nat) : (s.setReg pg o v).pcie = s.pcie := rfl
@[simp] theorem Block.setReg_mgmt (pg : Page) (o v : Nat) : (s.setReg pg o v).mgmt = s.mgmt := rfl
@[simp] theorem Block.setReg_eyep (pg : Page) (o v : Nat) : (s.setReg pg o v).eyep = s.eyep := rfl
@[simp] theorem Block.setReg_alm (pg : Page) (o v : Nat) : (s.setReg pg o v).alm = s.alm := rfl
@[simp] theorem Block.setReg_feat (pg : Page) (o v : Nat) : (s.setReg pg o v).feat = s.feat := rfl
@[simp] theorem Block.setReg_bundle (pg : Page) (o v : Nat) : (s.setReg pg o v).bundle = s.bundle := rfl
@[simp] theorem Block.setReg_out (pg : Page) (o v : Nat) : (s.setReg pg o v).out = s.out := rfl
@[simp] theorem Block.setReg_fv (pg : Page) (o v : Nat) : (s.setReg pg o v).fv = s.fv := rfl
@[simp] theorem Block.setReg_part (pg : Page) (o v : Nat) (a : Nat) : (s.setReg pg o v).part a = s.part a := rfl
@[simp] theorem Block.setReg_core (pg : Page) (o v : Nat) (a b : Nat) : (s.setReg pg o v).core a b = s.core a b := rfl
@[simp] theorem Block.setReg_slot (pg : Page) (o v : Nat) (a b c : Nat) : (s.setReg pg o v).slot a b c = s.slot a b c := rfl
@[simp] theorem Block.setReg_msc (pg : Page) (o v : Nat) (a : Nat) : (s.setReg pg o v).msc a = s.msc a := rfl
@[simp] theorem Block.setReg_hbmc (pg : Page) (o v : Nat) (a : Nat) : (s.setReg pg o v).hbmc a = s.hbmc a := rfl
@[simp] theorem Block.setReg_capc (pg : Page) (o v : Nat) (a : Nat) : (s.setReg pg o v).capc a = s.capc a := rfl
@[simp] theorem Block.setReg_mmu (pg : Page) (o v : Nat) (a : Nat) : (s.setReg pg o v).mmu a = s.mmu a := rfl
@[simp] theorem Block.setReg_port (pg : Page) (o v : Nat) (a : Nat) : (s.setReg pg o v).port a = s.port a := rfl
@[simp] theorem Block.setReg_hdr (pg : Page) (o v : Nat) (a : Page) : (s.setReg pg o v).hdr a = s.hdr a := rfl
@[simp] theorem Block.setReg_syn (pg : Page) (o v : Nat) (a : Nat) : (s.setReg pg o v).syn a = s.syn a := rfl
@[simp] theorem Block.setReg_hp (pg : Page) (o v : Nat) (a : Nat) : (s.setReg pg o v).hp a = s.hp a := rfl
@[simp] theorem Block.setReg_link (pg : Page) (o v : Nat) (a : Nat) : (s.setReg pg o v).link a = s.link a := rfl
@[simp] theorem Block.setReg_eng (pg : Page) (o v : Nat) (a b : Nat) : (s.setReg pg o v).eng a b = s.eng a b := rfl
@[simp] theorem Block.setReg_queue (pg : Page) (o v : Nat) (a b : Nat) : (s.setReg pg o v).queue a b = s.queue a b := rfl
@[simp] theorem Block.setReg_rhost (pg : Page) (o v : Nat) (a : Nat) : (s.setReg pg o v).rhost a = s.rhost a := rfl
@[simp] theorem Block.setReg_ring (pg : Page) (o v : Nat) (a : Nat) : (s.setReg pg o v).ring a = s.ring a := rfl
@[simp] theorem Block.setReg_logOf (pg : Page) (o v : Nat) (a : Page) (b : Nat) : (s.setReg pg o v).logOf a b = s.logOf a b := rfl
@[simp] theorem Block.setReg_causeSet (pg : Page) (o v : Nat) (a : Page) (b : Nat) : (s.setReg pg o v).causeSet a b = s.causeSet a b := rfl

/-! `emit` -/
@[simp] theorem Block.emit_timeUs (o : Out) : (s.emit o).timeUs = s.timeUs := rfl
@[simp] theorem Block.emit_pages (o : Out) : (s.emit o).pages = s.pages := rfl
@[simp] theorem Block.emit_regs (o : Out) : (s.emit o).regs = s.regs := rfl
@[simp] theorem Block.emit_logs (o : Out) : (s.emit o).logs = s.logs := rfl
@[simp] theorem Block.emit_frameBound (o : Out) : (s.emit o).frameBound = s.frameBound := rfl
@[simp] theorem Block.emit_ram (o : Out) : (s.emit o).ram = s.ram := rfl
@[simp] theorem Block.emit_merid (o : Out) : (s.emit o).merid = s.merid := rfl
@[simp] theorem Block.emit_parts (o : Out) : (s.emit o).parts = s.parts := rfl
@[simp] theorem Block.emit_cores (o : Out) : (s.emit o).cores = s.cores := rfl
@[simp] theorem Block.emit_slots (o : Out) : (s.emit o).slots = s.slots := rfl
@[simp] theorem Block.emit_tiers (o : Out) : (s.emit o).tiers = s.tiers := rfl
@[simp] theorem Block.emit_mscs (o : Out) : (s.emit o).mscs = s.mscs := rfl
@[simp] theorem Block.emit_hbmcs (o : Out) : (s.emit o).hbmcs = s.hbmcs := rfl
@[simp] theorem Block.emit_capcs (o : Out) : (s.emit o).capcs = s.capcs := rfl
@[simp] theorem Block.emit_mmus (o : Out) : (s.emit o).mmus = s.mmus := rfl
@[simp] theorem Block.emit_syncs (o : Out) : (s.emit o).syncs = s.syncs := rfl
@[simp] theorem Block.emit_links (o : Out) : (s.emit o).links = s.links := rfl
@[simp] theorem Block.emit_routes (o : Out) : (s.emit o).routes = s.routes := rfl
@[simp] theorem Block.emit_xu (o : Out) : (s.emit o).xu = s.xu := rfl
@[simp] theorem Block.emit_engs (o : Out) : (s.emit o).engs = s.engs := rfl
@[simp] theorem Block.emit_queues (o : Out) : (s.emit o).queues = s.queues := rfl
@[simp] theorem Block.emit_coll (o : Out) : (s.emit o).coll = s.coll := rfl
@[simp] theorem Block.emit_upd (o : Out) : (s.emit o).upd = s.upd := rfl
@[simp] theorem Block.emit_eph (o : Out) : (s.emit o).eph = s.eph := rfl
@[simp] theorem Block.emit_rhosts (o : Out) : (s.emit o).rhosts = s.rhosts := rfl
@[simp] theorem Block.emit_helio (o : Out) : (s.emit o).helio = s.helio := rfl
@[simp] theorem Block.emit_helioPs (o : Out) : (s.emit o).helioPs = s.helioPs := rfl
@[simp] theorem Block.emit_vregs (o : Out) : (s.emit o).vregs = s.vregs := rfl
@[simp] theorem Block.emit_boot (o : Out) : (s.emit o).boot = s.boot := rfl
@[simp] theorem Block.emit_flash (o : Out) : (s.emit o).flash = s.flash := rfl
@[simp] theorem Block.emit_poisonLatch (o : Out) : (s.emit o).poisonLatch = s.poisonLatch := rfl
@[simp] theorem Block.emit_poisonFirst (o : Out) : (s.emit o).poisonFirst = s.poisonFirst := rfl
@[simp] theorem Block.emit_poisonTick (o : Out) : (s.emit o).poisonTick = s.poisonTick := rfl
@[simp] theorem Block.emit_warmDue (o : Out) : (s.emit o).warmDue = s.warmDue := rfl
@[simp] theorem Block.emit_images (o : Out) : (s.emit o).images = s.images := rfl
@[simp] theorem Block.emit_mirrors (o : Out) : (s.emit o).mirrors = s.mirrors := rfl
@[simp] theorem Block.emit_pcie (o : Out) : (s.emit o).pcie = s.pcie := rfl
@[simp] theorem Block.emit_mgmt (o : Out) : (s.emit o).mgmt = s.mgmt := rfl
@[simp] theorem Block.emit_eyep (o : Out) : (s.emit o).eyep = s.eyep := rfl
@[simp] theorem Block.emit_alm (o : Out) : (s.emit o).alm = s.alm := rfl
@[simp] theorem Block.emit_feat (o : Out) : (s.emit o).feat = s.feat := rfl
@[simp] theorem Block.emit_bundle (o : Out) : (s.emit o).bundle = s.bundle := rfl
@[simp] theorem Block.emit_out (o : Out) : (s.emit o).out = o :: s.out := rfl
@[simp] theorem Block.emit_fv (o : Out) : (s.emit o).fv = s.fv := rfl
@[simp] theorem Block.emit_part (o : Out) (a : Nat) : (s.emit o).part a = s.part a := rfl
@[simp] theorem Block.emit_core (o : Out) (a b : Nat) : (s.emit o).core a b = s.core a b := rfl
@[simp] theorem Block.emit_slot (o : Out) (a b c : Nat) : (s.emit o).slot a b c = s.slot a b c := rfl
@[simp] theorem Block.emit_msc (o : Out) (a : Nat) : (s.emit o).msc a = s.msc a := rfl
@[simp] theorem Block.emit_hbmc (o : Out) (a : Nat) : (s.emit o).hbmc a = s.hbmc a := rfl
@[simp] theorem Block.emit_capc (o : Out) (a : Nat) : (s.emit o).capc a = s.capc a := rfl
@[simp] theorem Block.emit_mmu (o : Out) (a : Nat) : (s.emit o).mmu a = s.mmu a := rfl
@[simp] theorem Block.emit_port (o : Out) (a : Nat) : (s.emit o).port a = s.port a := rfl
@[simp] theorem Block.emit_hdr (o : Out) (a : Page) : (s.emit o).hdr a = s.hdr a := rfl
@[simp] theorem Block.emit_reg (o : Out) (a : Page) (b : Nat) : (s.emit o).reg a b = s.reg a b := rfl
@[simp] theorem Block.emit_syn (o : Out) (a : Nat) : (s.emit o).syn a = s.syn a := rfl
@[simp] theorem Block.emit_hp (o : Out) (a : Nat) : (s.emit o).hp a = s.hp a := rfl
@[simp] theorem Block.emit_link (o : Out) (a : Nat) : (s.emit o).link a = s.link a := rfl
@[simp] theorem Block.emit_eng (o : Out) (a b : Nat) : (s.emit o).eng a b = s.eng a b := rfl
@[simp] theorem Block.emit_queue (o : Out) (a b : Nat) : (s.emit o).queue a b = s.queue a b := rfl
@[simp] theorem Block.emit_rhost (o : Out) (a : Nat) : (s.emit o).rhost a = s.rhost a := rfl
@[simp] theorem Block.emit_ring (o : Out) (a : Nat) : (s.emit o).ring a = s.ring a := rfl
@[simp] theorem Block.emit_logOf (o : Out) (a : Page) (b : Nat) : (s.emit o).logOf a b = s.logOf a b := rfl
@[simp] theorem Block.emit_causeSet (o : Out) (a : Page) (b : Nat) : (s.emit o).causeSet a b = s.causeSet a b := rfl

/-! `modHp` -/
@[simp] theorem Block.modHp_timeUs (p : Nat) (f : HelioP → HelioP) : (s.modHp p f).timeUs = s.timeUs := rfl
@[simp] theorem Block.modHp_pages (p : Nat) (f : HelioP → HelioP) : (s.modHp p f).pages = s.pages := rfl
@[simp] theorem Block.modHp_regs (p : Nat) (f : HelioP → HelioP) : (s.modHp p f).regs = s.regs := rfl
@[simp] theorem Block.modHp_logs (p : Nat) (f : HelioP → HelioP) : (s.modHp p f).logs = s.logs := rfl
@[simp] theorem Block.modHp_frameBound (p : Nat) (f : HelioP → HelioP) : (s.modHp p f).frameBound = s.frameBound := rfl
@[simp] theorem Block.modHp_ram (p : Nat) (f : HelioP → HelioP) : (s.modHp p f).ram = s.ram := rfl
@[simp] theorem Block.modHp_merid (p : Nat) (f : HelioP → HelioP) : (s.modHp p f).merid = s.merid := rfl
@[simp] theorem Block.modHp_parts (p : Nat) (f : HelioP → HelioP) : (s.modHp p f).parts = s.parts := rfl
@[simp] theorem Block.modHp_cores (p : Nat) (f : HelioP → HelioP) : (s.modHp p f).cores = s.cores := rfl
@[simp] theorem Block.modHp_slots (p : Nat) (f : HelioP → HelioP) : (s.modHp p f).slots = s.slots := rfl
@[simp] theorem Block.modHp_tiers (p : Nat) (f : HelioP → HelioP) : (s.modHp p f).tiers = s.tiers := rfl
@[simp] theorem Block.modHp_mscs (p : Nat) (f : HelioP → HelioP) : (s.modHp p f).mscs = s.mscs := rfl
@[simp] theorem Block.modHp_hbmcs (p : Nat) (f : HelioP → HelioP) : (s.modHp p f).hbmcs = s.hbmcs := rfl
@[simp] theorem Block.modHp_capcs (p : Nat) (f : HelioP → HelioP) : (s.modHp p f).capcs = s.capcs := rfl
@[simp] theorem Block.modHp_mmus (p : Nat) (f : HelioP → HelioP) : (s.modHp p f).mmus = s.mmus := rfl
@[simp] theorem Block.modHp_syncs (p : Nat) (f : HelioP → HelioP) : (s.modHp p f).syncs = s.syncs := rfl
@[simp] theorem Block.modHp_links (p : Nat) (f : HelioP → HelioP) : (s.modHp p f).links = s.links := rfl
@[simp] theorem Block.modHp_routes (p : Nat) (f : HelioP → HelioP) : (s.modHp p f).routes = s.routes := rfl
@[simp] theorem Block.modHp_xu (p : Nat) (f : HelioP → HelioP) : (s.modHp p f).xu = s.xu := rfl
@[simp] theorem Block.modHp_engs (p : Nat) (f : HelioP → HelioP) : (s.modHp p f).engs = s.engs := rfl
@[simp] theorem Block.modHp_queues (p : Nat) (f : HelioP → HelioP) : (s.modHp p f).queues = s.queues := rfl
@[simp] theorem Block.modHp_coll (p : Nat) (f : HelioP → HelioP) : (s.modHp p f).coll = s.coll := rfl
@[simp] theorem Block.modHp_upd (p : Nat) (f : HelioP → HelioP) : (s.modHp p f).upd = s.upd := rfl
@[simp] theorem Block.modHp_eph (p : Nat) (f : HelioP → HelioP) : (s.modHp p f).eph = s.eph := rfl
@[simp] theorem Block.modHp_rhosts (p : Nat) (f : HelioP → HelioP) : (s.modHp p f).rhosts = s.rhosts := rfl
@[simp] theorem Block.modHp_helio (p : Nat) (f : HelioP → HelioP) : (s.modHp p f).helio = s.helio := rfl
@[simp] theorem Block.modHp_helioPs (p : Nat) (f : HelioP → HelioP) : (s.modHp p f).helioPs = smMod {} s.helioPs p f := rfl
@[simp] theorem Block.modHp_vregs (p : Nat) (f : HelioP → HelioP) : (s.modHp p f).vregs = s.vregs := rfl
@[simp] theorem Block.modHp_boot (p : Nat) (f : HelioP → HelioP) : (s.modHp p f).boot = s.boot := rfl
@[simp] theorem Block.modHp_flash (p : Nat) (f : HelioP → HelioP) : (s.modHp p f).flash = s.flash := rfl
@[simp] theorem Block.modHp_poisonLatch (p : Nat) (f : HelioP → HelioP) : (s.modHp p f).poisonLatch = s.poisonLatch := rfl
@[simp] theorem Block.modHp_poisonFirst (p : Nat) (f : HelioP → HelioP) : (s.modHp p f).poisonFirst = s.poisonFirst := rfl
@[simp] theorem Block.modHp_poisonTick (p : Nat) (f : HelioP → HelioP) : (s.modHp p f).poisonTick = s.poisonTick := rfl
@[simp] theorem Block.modHp_warmDue (p : Nat) (f : HelioP → HelioP) : (s.modHp p f).warmDue = s.warmDue := rfl
@[simp] theorem Block.modHp_images (p : Nat) (f : HelioP → HelioP) : (s.modHp p f).images = s.images := rfl
@[simp] theorem Block.modHp_mirrors (p : Nat) (f : HelioP → HelioP) : (s.modHp p f).mirrors = s.mirrors := rfl
@[simp] theorem Block.modHp_pcie (p : Nat) (f : HelioP → HelioP) : (s.modHp p f).pcie = s.pcie := rfl
@[simp] theorem Block.modHp_mgmt (p : Nat) (f : HelioP → HelioP) : (s.modHp p f).mgmt = s.mgmt := rfl
@[simp] theorem Block.modHp_eyep (p : Nat) (f : HelioP → HelioP) : (s.modHp p f).eyep = s.eyep := rfl
@[simp] theorem Block.modHp_alm (p : Nat) (f : HelioP → HelioP) : (s.modHp p f).alm = s.alm := rfl
@[simp] theorem Block.modHp_feat (p : Nat) (f : HelioP → HelioP) : (s.modHp p f).feat = s.feat := rfl
@[simp] theorem Block.modHp_bundle (p : Nat) (f : HelioP → HelioP) : (s.modHp p f).bundle = s.bundle := rfl
@[simp] theorem Block.modHp_out (p : Nat) (f : HelioP → HelioP) : (s.modHp p f).out = s.out := rfl
@[simp] theorem Block.modHp_fv (p : Nat) (f : HelioP → HelioP) : (s.modHp p f).fv = s.fv := rfl
@[simp] theorem Block.modHp_part (p : Nat) (f : HelioP → HelioP) (a : Nat) : (s.modHp p f).part a = s.part a := rfl
@[simp] theorem Block.modHp_core (p : Nat) (f : HelioP → HelioP) (a b : Nat) : (s.modHp p f).core a b = s.core a b := rfl
@[simp] theorem Block.modHp_slot (p : Nat) (f : HelioP → HelioP) (a b c : Nat) : (s.modHp p f).slot a b c = s.slot a b c := rfl
@[simp] theorem Block.modHp_msc (p : Nat) (f : HelioP → HelioP) (a : Nat) : (s.modHp p f).msc a = s.msc a := rfl
@[simp] theorem Block.modHp_hbmc (p : Nat) (f : HelioP → HelioP) (a : Nat) : (s.modHp p f).hbmc a = s.hbmc a := rfl
@[simp] theorem Block.modHp_capc (p : Nat) (f : HelioP → HelioP) (a : Nat) : (s.modHp p f).capc a = s.capc a := rfl
@[simp] theorem Block.modHp_mmu (p : Nat) (f : HelioP → HelioP) (a : Nat) : (s.modHp p f).mmu a = s.mmu a := rfl
@[simp] theorem Block.modHp_port (p : Nat) (f : HelioP → HelioP) (a : Nat) : (s.modHp p f).port a = s.port a := rfl
@[simp] theorem Block.modHp_hdr (p : Nat) (f : HelioP → HelioP) (a : Page) : (s.modHp p f).hdr a = s.hdr a := rfl
@[simp] theorem Block.modHp_reg (p : Nat) (f : HelioP → HelioP) (a : Page) (b : Nat) : (s.modHp p f).reg a b = s.reg a b := rfl
@[simp] theorem Block.modHp_syn (p : Nat) (f : HelioP → HelioP) (a : Nat) : (s.modHp p f).syn a = s.syn a := rfl
@[simp] theorem Block.modHp_link (p : Nat) (f : HelioP → HelioP) (a : Nat) : (s.modHp p f).link a = s.link a := rfl
@[simp] theorem Block.modHp_eng (p : Nat) (f : HelioP → HelioP) (a b : Nat) : (s.modHp p f).eng a b = s.eng a b := rfl
@[simp] theorem Block.modHp_queue (p : Nat) (f : HelioP → HelioP) (a b : Nat) : (s.modHp p f).queue a b = s.queue a b := rfl
@[simp] theorem Block.modHp_rhost (p : Nat) (f : HelioP → HelioP) (a : Nat) : (s.modHp p f).rhost a = s.rhost a := rfl
@[simp] theorem Block.modHp_ring (p : Nat) (f : HelioP → HelioP) (a : Nat) : (s.modHp p f).ring a = s.ring a := rfl
@[simp] theorem Block.modHp_logOf (p : Nat) (f : HelioP → HelioP) (a : Page) (b : Nat) : (s.modHp p f).logOf a b = s.logOf a b := rfl
@[simp] theorem Block.modHp_causeSet (p : Nat) (f : HelioP → HelioP) (a : Page) (b : Nat) : (s.modHp p f).causeSet a b = s.causeSet a b := rfl

/-! `modBoot` -/
@[simp] theorem Block.modBoot_timeUs (f : Boot → Boot) : (s.modBoot f).timeUs = s.timeUs := rfl
@[simp] theorem Block.modBoot_pages (f : Boot → Boot) : (s.modBoot f).pages = s.pages := rfl
@[simp] theorem Block.modBoot_regs (f : Boot → Boot) : (s.modBoot f).regs = s.regs := rfl
@[simp] theorem Block.modBoot_logs (f : Boot → Boot) : (s.modBoot f).logs = s.logs := rfl
@[simp] theorem Block.modBoot_frameBound (f : Boot → Boot) : (s.modBoot f).frameBound = s.frameBound := rfl
@[simp] theorem Block.modBoot_ram (f : Boot → Boot) : (s.modBoot f).ram = s.ram := rfl
@[simp] theorem Block.modBoot_merid (f : Boot → Boot) : (s.modBoot f).merid = s.merid := rfl
@[simp] theorem Block.modBoot_parts (f : Boot → Boot) : (s.modBoot f).parts = s.parts := rfl
@[simp] theorem Block.modBoot_cores (f : Boot → Boot) : (s.modBoot f).cores = s.cores := rfl
@[simp] theorem Block.modBoot_slots (f : Boot → Boot) : (s.modBoot f).slots = s.slots := rfl
@[simp] theorem Block.modBoot_tiers (f : Boot → Boot) : (s.modBoot f).tiers = s.tiers := rfl
@[simp] theorem Block.modBoot_mscs (f : Boot → Boot) : (s.modBoot f).mscs = s.mscs := rfl
@[simp] theorem Block.modBoot_hbmcs (f : Boot → Boot) : (s.modBoot f).hbmcs = s.hbmcs := rfl
@[simp] theorem Block.modBoot_capcs (f : Boot → Boot) : (s.modBoot f).capcs = s.capcs := rfl
@[simp] theorem Block.modBoot_mmus (f : Boot → Boot) : (s.modBoot f).mmus = s.mmus := rfl
@[simp] theorem Block.modBoot_syncs (f : Boot → Boot) : (s.modBoot f).syncs = s.syncs := rfl
@[simp] theorem Block.modBoot_links (f : Boot → Boot) : (s.modBoot f).links = s.links := rfl
@[simp] theorem Block.modBoot_routes (f : Boot → Boot) : (s.modBoot f).routes = s.routes := rfl
@[simp] theorem Block.modBoot_xu (f : Boot → Boot) : (s.modBoot f).xu = s.xu := rfl
@[simp] theorem Block.modBoot_engs (f : Boot → Boot) : (s.modBoot f).engs = s.engs := rfl
@[simp] theorem Block.modBoot_queues (f : Boot → Boot) : (s.modBoot f).queues = s.queues := rfl
@[simp] theorem Block.modBoot_coll (f : Boot → Boot) : (s.modBoot f).coll = s.coll := rfl
@[simp] theorem Block.modBoot_upd (f : Boot → Boot) : (s.modBoot f).upd = s.upd := rfl
@[simp] theorem Block.modBoot_eph (f : Boot → Boot) : (s.modBoot f).eph = s.eph := rfl
@[simp] theorem Block.modBoot_rhosts (f : Boot → Boot) : (s.modBoot f).rhosts = s.rhosts := rfl
@[simp] theorem Block.modBoot_helio (f : Boot → Boot) : (s.modBoot f).helio = s.helio := rfl
@[simp] theorem Block.modBoot_helioPs (f : Boot → Boot) : (s.modBoot f).helioPs = s.helioPs := rfl
@[simp] theorem Block.modBoot_vregs (f : Boot → Boot) : (s.modBoot f).vregs = s.vregs := rfl
@[simp] theorem Block.modBoot_boot (f : Boot → Boot) : (s.modBoot f).boot = f s.boot := rfl
@[simp] theorem Block.modBoot_flash (f : Boot → Boot) : (s.modBoot f).flash = s.flash := rfl
@[simp] theorem Block.modBoot_poisonLatch (f : Boot → Boot) : (s.modBoot f).poisonLatch = s.poisonLatch := rfl
@[simp] theorem Block.modBoot_poisonFirst (f : Boot → Boot) : (s.modBoot f).poisonFirst = s.poisonFirst := rfl
@[simp] theorem Block.modBoot_poisonTick (f : Boot → Boot) : (s.modBoot f).poisonTick = s.poisonTick := rfl
@[simp] theorem Block.modBoot_warmDue (f : Boot → Boot) : (s.modBoot f).warmDue = s.warmDue := rfl
@[simp] theorem Block.modBoot_images (f : Boot → Boot) : (s.modBoot f).images = s.images := rfl
@[simp] theorem Block.modBoot_mirrors (f : Boot → Boot) : (s.modBoot f).mirrors = s.mirrors := rfl
@[simp] theorem Block.modBoot_pcie (f : Boot → Boot) : (s.modBoot f).pcie = s.pcie := rfl
@[simp] theorem Block.modBoot_mgmt (f : Boot → Boot) : (s.modBoot f).mgmt = s.mgmt := rfl
@[simp] theorem Block.modBoot_eyep (f : Boot → Boot) : (s.modBoot f).eyep = s.eyep := rfl
@[simp] theorem Block.modBoot_alm (f : Boot → Boot) : (s.modBoot f).alm = s.alm := rfl
@[simp] theorem Block.modBoot_feat (f : Boot → Boot) : (s.modBoot f).feat = s.feat := rfl
@[simp] theorem Block.modBoot_bundle (f : Boot → Boot) : (s.modBoot f).bundle = s.bundle := rfl
@[simp] theorem Block.modBoot_out (f : Boot → Boot) : (s.modBoot f).out = s.out := rfl
@[simp] theorem Block.modBoot_fv (f : Boot → Boot) : (s.modBoot f).fv = s.fv := rfl
@[simp] theorem Block.modBoot_part (f : Boot → Boot) (a : Nat) : (s.modBoot f).part a = s.part a := rfl
@[simp] theorem Block.modBoot_core (f : Boot → Boot) (a b : Nat) : (s.modBoot f).core a b = s.core a b := rfl
@[simp] theorem Block.modBoot_slot (f : Boot → Boot) (a b c : Nat) : (s.modBoot f).slot a b c = s.slot a b c := rfl
@[simp] theorem Block.modBoot_msc (f : Boot → Boot) (a : Nat) : (s.modBoot f).msc a = s.msc a := rfl
@[simp] theorem Block.modBoot_hbmc (f : Boot → Boot) (a : Nat) : (s.modBoot f).hbmc a = s.hbmc a := rfl
@[simp] theorem Block.modBoot_capc (f : Boot → Boot) (a : Nat) : (s.modBoot f).capc a = s.capc a := rfl
@[simp] theorem Block.modBoot_mmu (f : Boot → Boot) (a : Nat) : (s.modBoot f).mmu a = s.mmu a := rfl
@[simp] theorem Block.modBoot_port (f : Boot → Boot) (a : Nat) : (s.modBoot f).port a = s.port a := rfl
@[simp] theorem Block.modBoot_hdr (f : Boot → Boot) (a : Page) : (s.modBoot f).hdr a = s.hdr a := rfl
@[simp] theorem Block.modBoot_reg (f : Boot → Boot) (a : Page) (b : Nat) : (s.modBoot f).reg a b = s.reg a b := rfl
@[simp] theorem Block.modBoot_syn (f : Boot → Boot) (a : Nat) : (s.modBoot f).syn a = s.syn a := rfl
@[simp] theorem Block.modBoot_hp (f : Boot → Boot) (a : Nat) : (s.modBoot f).hp a = s.hp a := rfl
@[simp] theorem Block.modBoot_link (f : Boot → Boot) (a : Nat) : (s.modBoot f).link a = s.link a := rfl
@[simp] theorem Block.modBoot_eng (f : Boot → Boot) (a b : Nat) : (s.modBoot f).eng a b = s.eng a b := rfl
@[simp] theorem Block.modBoot_queue (f : Boot → Boot) (a b : Nat) : (s.modBoot f).queue a b = s.queue a b := rfl
@[simp] theorem Block.modBoot_rhost (f : Boot → Boot) (a : Nat) : (s.modBoot f).rhost a = s.rhost a := rfl
@[simp] theorem Block.modBoot_ring (f : Boot → Boot) (a : Nat) : (s.modBoot f).ring a = s.ring a := rfl
@[simp] theorem Block.modBoot_logOf (f : Boot → Boot) (a : Page) (b : Nat) : (s.modBoot f).logOf a b = s.logOf a b := rfl
@[simp] theorem Block.modBoot_causeSet (f : Boot → Boot) (a : Page) (b : Nat) : (s.modBoot f).causeSet a b = s.causeSet a b := rfl

/-! `modFlash` -/
@[simp] theorem Block.modFlash_timeUs (f : Flash → Flash) : (s.modFlash f).timeUs = s.timeUs := rfl
@[simp] theorem Block.modFlash_pages (f : Flash → Flash) : (s.modFlash f).pages = s.pages := rfl
@[simp] theorem Block.modFlash_regs (f : Flash → Flash) : (s.modFlash f).regs = s.regs := rfl
@[simp] theorem Block.modFlash_logs (f : Flash → Flash) : (s.modFlash f).logs = s.logs := rfl
@[simp] theorem Block.modFlash_frameBound (f : Flash → Flash) : (s.modFlash f).frameBound = s.frameBound := rfl
@[simp] theorem Block.modFlash_ram (f : Flash → Flash) : (s.modFlash f).ram = s.ram := rfl
@[simp] theorem Block.modFlash_merid (f : Flash → Flash) : (s.modFlash f).merid = s.merid := rfl
@[simp] theorem Block.modFlash_parts (f : Flash → Flash) : (s.modFlash f).parts = s.parts := rfl
@[simp] theorem Block.modFlash_cores (f : Flash → Flash) : (s.modFlash f).cores = s.cores := rfl
@[simp] theorem Block.modFlash_slots (f : Flash → Flash) : (s.modFlash f).slots = s.slots := rfl
@[simp] theorem Block.modFlash_tiers (f : Flash → Flash) : (s.modFlash f).tiers = s.tiers := rfl
@[simp] theorem Block.modFlash_mscs (f : Flash → Flash) : (s.modFlash f).mscs = s.mscs := rfl
@[simp] theorem Block.modFlash_hbmcs (f : Flash → Flash) : (s.modFlash f).hbmcs = s.hbmcs := rfl
@[simp] theorem Block.modFlash_capcs (f : Flash → Flash) : (s.modFlash f).capcs = s.capcs := rfl
@[simp] theorem Block.modFlash_mmus (f : Flash → Flash) : (s.modFlash f).mmus = s.mmus := rfl
@[simp] theorem Block.modFlash_syncs (f : Flash → Flash) : (s.modFlash f).syncs = s.syncs := rfl
@[simp] theorem Block.modFlash_links (f : Flash → Flash) : (s.modFlash f).links = s.links := rfl
@[simp] theorem Block.modFlash_routes (f : Flash → Flash) : (s.modFlash f).routes = s.routes := rfl
@[simp] theorem Block.modFlash_xu (f : Flash → Flash) : (s.modFlash f).xu = s.xu := rfl
@[simp] theorem Block.modFlash_engs (f : Flash → Flash) : (s.modFlash f).engs = s.engs := rfl
@[simp] theorem Block.modFlash_queues (f : Flash → Flash) : (s.modFlash f).queues = s.queues := rfl
@[simp] theorem Block.modFlash_coll (f : Flash → Flash) : (s.modFlash f).coll = s.coll := rfl
@[simp] theorem Block.modFlash_upd (f : Flash → Flash) : (s.modFlash f).upd = s.upd := rfl
@[simp] theorem Block.modFlash_eph (f : Flash → Flash) : (s.modFlash f).eph = s.eph := rfl
@[simp] theorem Block.modFlash_rhosts (f : Flash → Flash) : (s.modFlash f).rhosts = s.rhosts := rfl
@[simp] theorem Block.modFlash_helio (f : Flash → Flash) : (s.modFlash f).helio = s.helio := rfl
@[simp] theorem Block.modFlash_helioPs (f : Flash → Flash) : (s.modFlash f).helioPs = s.helioPs := rfl
@[simp] theorem Block.modFlash_vregs (f : Flash → Flash) : (s.modFlash f).vregs = s.vregs := rfl
@[simp] theorem Block.modFlash_boot (f : Flash → Flash) : (s.modFlash f).boot = s.boot := rfl
@[simp] theorem Block.modFlash_flash (f : Flash → Flash) : (s.modFlash f).flash = f s.flash := rfl
@[simp] theorem Block.modFlash_poisonLatch (f : Flash → Flash) : (s.modFlash f).poisonLatch = s.poisonLatch := rfl
@[simp] theorem Block.modFlash_poisonFirst (f : Flash → Flash) : (s.modFlash f).poisonFirst = s.poisonFirst := rfl
@[simp] theorem Block.modFlash_poisonTick (f : Flash → Flash) : (s.modFlash f).poisonTick = s.poisonTick := rfl
@[simp] theorem Block.modFlash_warmDue (f : Flash → Flash) : (s.modFlash f).warmDue = s.warmDue := rfl
@[simp] theorem Block.modFlash_images (f : Flash → Flash) : (s.modFlash f).images = s.images := rfl
@[simp] theorem Block.modFlash_mirrors (f : Flash → Flash) : (s.modFlash f).mirrors = s.mirrors := rfl
@[simp] theorem Block.modFlash_pcie (f : Flash → Flash) : (s.modFlash f).pcie = s.pcie := rfl
@[simp] theorem Block.modFlash_mgmt (f : Flash → Flash) : (s.modFlash f).mgmt = s.mgmt := rfl
@[simp] theorem Block.modFlash_eyep (f : Flash → Flash) : (s.modFlash f).eyep = s.eyep := rfl
@[simp] theorem Block.modFlash_alm (f : Flash → Flash) : (s.modFlash f).alm = s.alm := rfl
@[simp] theorem Block.modFlash_feat (f : Flash → Flash) : (s.modFlash f).feat = s.feat := rfl
@[simp] theorem Block.modFlash_bundle (f : Flash → Flash) : (s.modFlash f).bundle = s.bundle := rfl
@[simp] theorem Block.modFlash_out (f : Flash → Flash) : (s.modFlash f).out = s.out := rfl
@[simp] theorem Block.modFlash_fv (f : Flash → Flash) : (s.modFlash f).fv = s.fv := rfl
@[simp] theorem Block.modFlash_part (f : Flash → Flash) (a : Nat) : (s.modFlash f).part a = s.part a := rfl
@[simp] theorem Block.modFlash_core (f : Flash → Flash) (a b : Nat) : (s.modFlash f).core a b = s.core a b := rfl
@[simp] theorem Block.modFlash_slot (f : Flash → Flash) (a b c : Nat) : (s.modFlash f).slot a b c = s.slot a b c := rfl
@[simp] theorem Block.modFlash_msc (f : Flash → Flash) (a : Nat) : (s.modFlash f).msc a = s.msc a := rfl
@[simp] theorem Block.modFlash_hbmc (f : Flash → Flash) (a : Nat) : (s.modFlash f).hbmc a = s.hbmc a := rfl
@[simp] theorem Block.modFlash_capc (f : Flash → Flash) (a : Nat) : (s.modFlash f).capc a = s.capc a := rfl
@[simp] theorem Block.modFlash_mmu (f : Flash → Flash) (a : Nat) : (s.modFlash f).mmu a = s.mmu a := rfl
@[simp] theorem Block.modFlash_port (f : Flash → Flash) (a : Nat) : (s.modFlash f).port a = s.port a := rfl
@[simp] theorem Block.modFlash_hdr (f : Flash → Flash) (a : Page) : (s.modFlash f).hdr a = s.hdr a := rfl
@[simp] theorem Block.modFlash_reg (f : Flash → Flash) (a : Page) (b : Nat) : (s.modFlash f).reg a b = s.reg a b := rfl
@[simp] theorem Block.modFlash_syn (f : Flash → Flash) (a : Nat) : (s.modFlash f).syn a = s.syn a := rfl
@[simp] theorem Block.modFlash_hp (f : Flash → Flash) (a : Nat) : (s.modFlash f).hp a = s.hp a := rfl
@[simp] theorem Block.modFlash_link (f : Flash → Flash) (a : Nat) : (s.modFlash f).link a = s.link a := rfl
@[simp] theorem Block.modFlash_eng (f : Flash → Flash) (a b : Nat) : (s.modFlash f).eng a b = s.eng a b := rfl
@[simp] theorem Block.modFlash_queue (f : Flash → Flash) (a b : Nat) : (s.modFlash f).queue a b = s.queue a b := rfl
@[simp] theorem Block.modFlash_rhost (f : Flash → Flash) (a : Nat) : (s.modFlash f).rhost a = s.rhost a := rfl
@[simp] theorem Block.modFlash_ring (f : Flash → Flash) (a : Nat) : (s.modFlash f).ring a = s.ring a := rfl
@[simp] theorem Block.modFlash_logOf (f : Flash → Flash) (a : Page) (b : Nat) : (s.modFlash f).logOf a b = s.logOf a b := rfl
@[simp] theorem Block.modFlash_causeSet (f : Flash → Flash) (a : Page) (b : Nat) : (s.modFlash f).causeSet a b = s.causeSet a b := rfl

/-! `modQueue` -/
@[simp] theorem Block.modQueue_timeUs (p q : Nat) (f : CQueue → CQueue) : (s.modQueue p q f).timeUs = s.timeUs := rfl
@[simp] theorem Block.modQueue_pages (p q : Nat) (f : CQueue → CQueue) : (s.modQueue p q f).pages = s.pages := rfl
@[simp] theorem Block.modQueue_regs (p q : Nat) (f : CQueue → CQueue) : (s.modQueue p q f).regs = s.regs := rfl
@[simp] theorem Block.modQueue_logs (p q : Nat) (f : CQueue → CQueue) : (s.modQueue p q f).logs = s.logs := rfl
@[simp] theorem Block.modQueue_frameBound (p q : Nat) (f : CQueue → CQueue) : (s.modQueue p q f).frameBound = s.frameBound := rfl
@[simp] theorem Block.modQueue_ram (p q : Nat) (f : CQueue → CQueue) : (s.modQueue p q f).ram = s.ram := rfl
@[simp] theorem Block.modQueue_merid (p q : Nat) (f : CQueue → CQueue) : (s.modQueue p q f).merid = s.merid := rfl
@[simp] theorem Block.modQueue_parts (p q : Nat) (f : CQueue → CQueue) : (s.modQueue p q f).parts = s.parts := rfl
@[simp] theorem Block.modQueue_cores (p q : Nat) (f : CQueue → CQueue) : (s.modQueue p q f).cores = s.cores := rfl
@[simp] theorem Block.modQueue_slots (p q : Nat) (f : CQueue → CQueue) : (s.modQueue p q f).slots = s.slots := rfl
@[simp] theorem Block.modQueue_tiers (p q : Nat) (f : CQueue → CQueue) : (s.modQueue p q f).tiers = s.tiers := rfl
@[simp] theorem Block.modQueue_mscs (p q : Nat) (f : CQueue → CQueue) : (s.modQueue p q f).mscs = s.mscs := rfl
@[simp] theorem Block.modQueue_hbmcs (p q : Nat) (f : CQueue → CQueue) : (s.modQueue p q f).hbmcs = s.hbmcs := rfl
@[simp] theorem Block.modQueue_capcs (p q : Nat) (f : CQueue → CQueue) : (s.modQueue p q f).capcs = s.capcs := rfl
@[simp] theorem Block.modQueue_mmus (p q : Nat) (f : CQueue → CQueue) : (s.modQueue p q f).mmus = s.mmus := rfl
@[simp] theorem Block.modQueue_syncs (p q : Nat) (f : CQueue → CQueue) : (s.modQueue p q f).syncs = s.syncs := rfl
@[simp] theorem Block.modQueue_links (p q : Nat) (f : CQueue → CQueue) : (s.modQueue p q f).links = s.links := rfl
@[simp] theorem Block.modQueue_routes (p q : Nat) (f : CQueue → CQueue) : (s.modQueue p q f).routes = s.routes := rfl
@[simp] theorem Block.modQueue_xu (p q : Nat) (f : CQueue → CQueue) : (s.modQueue p q f).xu = s.xu := rfl
@[simp] theorem Block.modQueue_engs (p q : Nat) (f : CQueue → CQueue) : (s.modQueue p q f).engs = s.engs := rfl
@[simp] theorem Block.modQueue_queues (p q : Nat) (f : CQueue → CQueue) : (s.modQueue p q f).queues = smMod {} s.queues (queueKey p q) f := rfl
@[simp] theorem Block.modQueue_coll (p q : Nat) (f : CQueue → CQueue) : (s.modQueue p q f).coll = s.coll := rfl
@[simp] theorem Block.modQueue_upd (p q : Nat) (f : CQueue → CQueue) : (s.modQueue p q f).upd = s.upd := rfl
@[simp] theorem Block.modQueue_eph (p q : Nat) (f : CQueue → CQueue) : (s.modQueue p q f).eph = s.eph := rfl
@[simp] theorem Block.modQueue_rhosts (p q : Nat) (f : CQueue → CQueue) : (s.modQueue p q f).rhosts = s.rhosts := rfl
@[simp] theorem Block.modQueue_helio (p q : Nat) (f : CQueue → CQueue) : (s.modQueue p q f).helio = s.helio := rfl
@[simp] theorem Block.modQueue_helioPs (p q : Nat) (f : CQueue → CQueue) : (s.modQueue p q f).helioPs = s.helioPs := rfl
@[simp] theorem Block.modQueue_vregs (p q : Nat) (f : CQueue → CQueue) : (s.modQueue p q f).vregs = s.vregs := rfl
@[simp] theorem Block.modQueue_boot (p q : Nat) (f : CQueue → CQueue) : (s.modQueue p q f).boot = s.boot := rfl
@[simp] theorem Block.modQueue_flash (p q : Nat) (f : CQueue → CQueue) : (s.modQueue p q f).flash = s.flash := rfl
@[simp] theorem Block.modQueue_poisonLatch (p q : Nat) (f : CQueue → CQueue) : (s.modQueue p q f).poisonLatch = s.poisonLatch := rfl
@[simp] theorem Block.modQueue_poisonFirst (p q : Nat) (f : CQueue → CQueue) : (s.modQueue p q f).poisonFirst = s.poisonFirst := rfl
@[simp] theorem Block.modQueue_poisonTick (p q : Nat) (f : CQueue → CQueue) : (s.modQueue p q f).poisonTick = s.poisonTick := rfl
@[simp] theorem Block.modQueue_warmDue (p q : Nat) (f : CQueue → CQueue) : (s.modQueue p q f).warmDue = s.warmDue := rfl
@[simp] theorem Block.modQueue_images (p q : Nat) (f : CQueue → CQueue) : (s.modQueue p q f).images = s.images := rfl
@[simp] theorem Block.modQueue_mirrors (p q : Nat) (f : CQueue → CQueue) : (s.modQueue p q f).mirrors = s.mirrors := rfl
@[simp] theorem Block.modQueue_pcie (p q : Nat) (f : CQueue → CQueue) : (s.modQueue p q f).pcie = s.pcie := rfl
@[simp] theorem Block.modQueue_mgmt (p q : Nat) (f : CQueue → CQueue) : (s.modQueue p q f).mgmt = s.mgmt := rfl
@[simp] theorem Block.modQueue_eyep (p q : Nat) (f : CQueue → CQueue) : (s.modQueue p q f).eyep = s.eyep := rfl
@[simp] theorem Block.modQueue_alm (p q : Nat) (f : CQueue → CQueue) : (s.modQueue p q f).alm = s.alm := rfl
@[simp] theorem Block.modQueue_feat (p q : Nat) (f : CQueue → CQueue) : (s.modQueue p q f).feat = s.feat := rfl
@[simp] theorem Block.modQueue_bundle (p q : Nat) (f : CQueue → CQueue) : (s.modQueue p q f).bundle = s.bundle := rfl
@[simp] theorem Block.modQueue_out (p q : Nat) (f : CQueue → CQueue) : (s.modQueue p q f).out = s.out := rfl
@[simp] theorem Block.modQueue_fv (p q : Nat) (f : CQueue → CQueue) : (s.modQueue p q f).fv = s.fv := rfl
@[simp] theorem Block.modQueue_part (p q : Nat) (f : CQueue → CQueue) (a : Nat) : (s.modQueue p q f).part a = s.part a := rfl
@[simp] theorem Block.modQueue_core (p q : Nat) (f : CQueue → CQueue) (a b : Nat) : (s.modQueue p q f).core a b = s.core a b := rfl
@[simp] theorem Block.modQueue_slot (p q : Nat) (f : CQueue → CQueue) (a b c : Nat) : (s.modQueue p q f).slot a b c = s.slot a b c := rfl
@[simp] theorem Block.modQueue_msc (p q : Nat) (f : CQueue → CQueue) (a : Nat) : (s.modQueue p q f).msc a = s.msc a := rfl
@[simp] theorem Block.modQueue_hbmc (p q : Nat) (f : CQueue → CQueue) (a : Nat) : (s.modQueue p q f).hbmc a = s.hbmc a := rfl
@[simp] theorem Block.modQueue_capc (p q : Nat) (f : CQueue → CQueue) (a : Nat) : (s.modQueue p q f).capc a = s.capc a := rfl
@[simp] theorem Block.modQueue_mmu (p q : Nat) (f : CQueue → CQueue) (a : Nat) : (s.modQueue p q f).mmu a = s.mmu a := rfl
@[simp] theorem Block.modQueue_port (p q : Nat) (f : CQueue → CQueue) (a : Nat) : (s.modQueue p q f).port a = s.port a := rfl
@[simp] theorem Block.modQueue_hdr (p q : Nat) (f : CQueue → CQueue) (a : Page) : (s.modQueue p q f).hdr a = s.hdr a := rfl
@[simp] theorem Block.modQueue_reg (p q : Nat) (f : CQueue → CQueue) (a : Page) (b : Nat) : (s.modQueue p q f).reg a b = s.reg a b := rfl
@[simp] theorem Block.modQueue_syn (p q : Nat) (f : CQueue → CQueue) (a : Nat) : (s.modQueue p q f).syn a = s.syn a := rfl
@[simp] theorem Block.modQueue_hp (p q : Nat) (f : CQueue → CQueue) (a : Nat) : (s.modQueue p q f).hp a = s.hp a := rfl
@[simp] theorem Block.modQueue_link (p q : Nat) (f : CQueue → CQueue) (a : Nat) : (s.modQueue p q f).link a = s.link a := rfl
@[simp] theorem Block.modQueue_eng (p q : Nat) (f : CQueue → CQueue) (a b : Nat) : (s.modQueue p q f).eng a b = s.eng a b := rfl
@[simp] theorem Block.modQueue_rhost (p q : Nat) (f : CQueue → CQueue) (a : Nat) : (s.modQueue p q f).rhost a = s.rhost a := rfl
@[simp] theorem Block.modQueue_ring (p q : Nat) (f : CQueue → CQueue) (a : Nat) : (s.modQueue p q f).ring a = s.ring a := rfl
@[simp] theorem Block.modQueue_logOf (p q : Nat) (f : CQueue → CQueue) (a : Page) (b : Nat) : (s.modQueue p q f).logOf a b = s.logOf a b := rfl
@[simp] theorem Block.modQueue_causeSet (p q : Nat) (f : CQueue → CQueue) (a : Page) (b : Nat) : (s.modQueue p q f).causeSet a b = s.causeSet a b := rfl

/-! `modColl` -/
@[simp] theorem Block.modColl_timeUs (f : Coll → Coll) : (s.modColl f).timeUs = s.timeUs := rfl
@[simp] theorem Block.modColl_pages (f : Coll → Coll) : (s.modColl f).pages = s.pages := rfl
@[simp] theorem Block.modColl_regs (f : Coll → Coll) : (s.modColl f).regs = s.regs := rfl
@[simp] theorem Block.modColl_logs (f : Coll → Coll) : (s.modColl f).logs = s.logs := rfl
@[simp] theorem Block.modColl_frameBound (f : Coll → Coll) : (s.modColl f).frameBound = s.frameBound := rfl
@[simp] theorem Block.modColl_ram (f : Coll → Coll) : (s.modColl f).ram = s.ram := rfl
@[simp] theorem Block.modColl_merid (f : Coll → Coll) : (s.modColl f).merid = s.merid := rfl
@[simp] theorem Block.modColl_parts (f : Coll → Coll) : (s.modColl f).parts = s.parts := rfl
@[simp] theorem Block.modColl_cores (f : Coll → Coll) : (s.modColl f).cores = s.cores := rfl
@[simp] theorem Block.modColl_slots (f : Coll → Coll) : (s.modColl f).slots = s.slots := rfl
@[simp] theorem Block.modColl_tiers (f : Coll → Coll) : (s.modColl f).tiers = s.tiers := rfl
@[simp] theorem Block.modColl_mscs (f : Coll → Coll) : (s.modColl f).mscs = s.mscs := rfl
@[simp] theorem Block.modColl_hbmcs (f : Coll → Coll) : (s.modColl f).hbmcs = s.hbmcs := rfl
@[simp] theorem Block.modColl_capcs (f : Coll → Coll) : (s.modColl f).capcs = s.capcs := rfl
@[simp] theorem Block.modColl_mmus (f : Coll → Coll) : (s.modColl f).mmus = s.mmus := rfl
@[simp] theorem Block.modColl_syncs (f : Coll → Coll) : (s.modColl f).syncs = s.syncs := rfl
@[simp] theorem Block.modColl_links (f : Coll → Coll) : (s.modColl f).links = s.links := rfl
@[simp] theorem Block.modColl_routes (f : Coll → Coll) : (s.modColl f).routes = s.routes := rfl
@[simp] theorem Block.modColl_xu (f : Coll → Coll) : (s.modColl f).xu = s.xu := rfl
@[simp] theorem Block.modColl_engs (f : Coll → Coll) : (s.modColl f).engs = s.engs := rfl
@[simp] theorem Block.modColl_queues (f : Coll → Coll) : (s.modColl f).queues = s.queues := rfl
@[simp] theorem Block.modColl_coll (f : Coll → Coll) : (s.modColl f).coll = f s.coll := rfl
@[simp] theorem Block.modColl_upd (f : Coll → Coll) : (s.modColl f).upd = s.upd := rfl
@[simp] theorem Block.modColl_eph (f : Coll → Coll) : (s.modColl f).eph = s.eph := rfl
@[simp] theorem Block.modColl_rhosts (f : Coll → Coll) : (s.modColl f).rhosts = s.rhosts := rfl
@[simp] theorem Block.modColl_helio (f : Coll → Coll) : (s.modColl f).helio = s.helio := rfl
@[simp] theorem Block.modColl_helioPs (f : Coll → Coll) : (s.modColl f).helioPs = s.helioPs := rfl
@[simp] theorem Block.modColl_vregs (f : Coll → Coll) : (s.modColl f).vregs = s.vregs := rfl
@[simp] theorem Block.modColl_boot (f : Coll → Coll) : (s.modColl f).boot = s.boot := rfl
@[simp] theorem Block.modColl_flash (f : Coll → Coll) : (s.modColl f).flash = s.flash := rfl
@[simp] theorem Block.modColl_poisonLatch (f : Coll → Coll) : (s.modColl f).poisonLatch = s.poisonLatch := rfl
@[simp] theorem Block.modColl_poisonFirst (f : Coll → Coll) : (s.modColl f).poisonFirst = s.poisonFirst := rfl
@[simp] theorem Block.modColl_poisonTick (f : Coll → Coll) : (s.modColl f).poisonTick = s.poisonTick := rfl
@[simp] theorem Block.modColl_warmDue (f : Coll → Coll) : (s.modColl f).warmDue = s.warmDue := rfl
@[simp] theorem Block.modColl_images (f : Coll → Coll) : (s.modColl f).images = s.images := rfl
@[simp] theorem Block.modColl_mirrors (f : Coll → Coll) : (s.modColl f).mirrors = s.mirrors := rfl
@[simp] theorem Block.modColl_pcie (f : Coll → Coll) : (s.modColl f).pcie = s.pcie := rfl
@[simp] theorem Block.modColl_mgmt (f : Coll → Coll) : (s.modColl f).mgmt = s.mgmt := rfl
@[simp] theorem Block.modColl_eyep (f : Coll → Coll) : (s.modColl f).eyep = s.eyep := rfl
@[simp] theorem Block.modColl_alm (f : Coll → Coll) : (s.modColl f).alm = s.alm := rfl
@[simp] theorem Block.modColl_feat (f : Coll → Coll) : (s.modColl f).feat = s.feat := rfl
@[simp] theorem Block.modColl_bundle (f : Coll → Coll) : (s.modColl f).bundle = s.bundle := rfl
@[simp] theorem Block.modColl_out (f : Coll → Coll) : (s.modColl f).out = s.out := rfl
@[simp] theorem Block.modColl_fv (f : Coll → Coll) : (s.modColl f).fv = s.fv := rfl
@[simp] theorem Block.modColl_part (f : Coll → Coll) (a : Nat) : (s.modColl f).part a = s.part a := rfl
@[simp] theorem Block.modColl_core (f : Coll → Coll) (a b : Nat) : (s.modColl f).core a b = s.core a b := rfl
@[simp] theorem Block.modColl_slot (f : Coll → Coll) (a b c : Nat) : (s.modColl f).slot a b c = s.slot a b c := rfl
@[simp] theorem Block.modColl_msc (f : Coll → Coll) (a : Nat) : (s.modColl f).msc a = s.msc a := rfl
@[simp] theorem Block.modColl_hbmc (f : Coll → Coll) (a : Nat) : (s.modColl f).hbmc a = s.hbmc a := rfl
@[simp] theorem Block.modColl_capc (f : Coll → Coll) (a : Nat) : (s.modColl f).capc a = s.capc a := rfl
@[simp] theorem Block.modColl_mmu (f : Coll → Coll) (a : Nat) : (s.modColl f).mmu a = s.mmu a := rfl
@[simp] theorem Block.modColl_port (f : Coll → Coll) (a : Nat) : (s.modColl f).port a = s.port a := rfl
@[simp] theorem Block.modColl_hdr (f : Coll → Coll) (a : Page) : (s.modColl f).hdr a = s.hdr a := rfl
@[simp] theorem Block.modColl_reg (f : Coll → Coll) (a : Page) (b : Nat) : (s.modColl f).reg a b = s.reg a b := rfl
@[simp] theorem Block.modColl_syn (f : Coll → Coll) (a : Nat) : (s.modColl f).syn a = s.syn a := rfl
@[simp] theorem Block.modColl_hp (f : Coll → Coll) (a : Nat) : (s.modColl f).hp a = s.hp a := rfl
@[simp] theorem Block.modColl_link (f : Coll → Coll) (a : Nat) : (s.modColl f).link a = s.link a := rfl
@[simp] theorem Block.modColl_eng (f : Coll → Coll) (a b : Nat) : (s.modColl f).eng a b = s.eng a b := rfl
@[simp] theorem Block.modColl_queue (f : Coll → Coll) (a b : Nat) : (s.modColl f).queue a b = s.queue a b := rfl
@[simp] theorem Block.modColl_rhost (f : Coll → Coll) (a : Nat) : (s.modColl f).rhost a = s.rhost a := rfl
@[simp] theorem Block.modColl_ring (f : Coll → Coll) (a : Nat) : (s.modColl f).ring a = s.ring a := rfl
@[simp] theorem Block.modColl_logOf (f : Coll → Coll) (a : Page) (b : Nat) : (s.modColl f).logOf a b = s.logOf a b := rfl
@[simp] theorem Block.modColl_causeSet (f : Coll → Coll) (a : Page) (b : Nat) : (s.modColl f).causeSet a b = s.causeSet a b := rfl

/-! `modEng` -/
@[simp] theorem Block.modEng_timeUs (p j : Nat) (f : Engine → Engine) : (s.modEng p j f).timeUs = s.timeUs := rfl
@[simp] theorem Block.modEng_pages (p j : Nat) (f : Engine → Engine) : (s.modEng p j f).pages = s.pages := rfl
@[simp] theorem Block.modEng_regs (p j : Nat) (f : Engine → Engine) : (s.modEng p j f).regs = s.regs := rfl
@[simp] theorem Block.modEng_logs (p j : Nat) (f : Engine → Engine) : (s.modEng p j f).logs = s.logs := rfl
@[simp] theorem Block.modEng_frameBound (p j : Nat) (f : Engine → Engine) : (s.modEng p j f).frameBound = s.frameBound := rfl
@[simp] theorem Block.modEng_ram (p j : Nat) (f : Engine → Engine) : (s.modEng p j f).ram = s.ram := rfl
@[simp] theorem Block.modEng_merid (p j : Nat) (f : Engine → Engine) : (s.modEng p j f).merid = s.merid := rfl
@[simp] theorem Block.modEng_parts (p j : Nat) (f : Engine → Engine) : (s.modEng p j f).parts = s.parts := rfl
@[simp] theorem Block.modEng_cores (p j : Nat) (f : Engine → Engine) : (s.modEng p j f).cores = s.cores := rfl
@[simp] theorem Block.modEng_slots (p j : Nat) (f : Engine → Engine) : (s.modEng p j f).slots = s.slots := rfl
@[simp] theorem Block.modEng_tiers (p j : Nat) (f : Engine → Engine) : (s.modEng p j f).tiers = s.tiers := rfl
@[simp] theorem Block.modEng_mscs (p j : Nat) (f : Engine → Engine) : (s.modEng p j f).mscs = s.mscs := rfl
@[simp] theorem Block.modEng_hbmcs (p j : Nat) (f : Engine → Engine) : (s.modEng p j f).hbmcs = s.hbmcs := rfl
@[simp] theorem Block.modEng_capcs (p j : Nat) (f : Engine → Engine) : (s.modEng p j f).capcs = s.capcs := rfl
@[simp] theorem Block.modEng_mmus (p j : Nat) (f : Engine → Engine) : (s.modEng p j f).mmus = s.mmus := rfl
@[simp] theorem Block.modEng_syncs (p j : Nat) (f : Engine → Engine) : (s.modEng p j f).syncs = s.syncs := rfl
@[simp] theorem Block.modEng_links (p j : Nat) (f : Engine → Engine) : (s.modEng p j f).links = s.links := rfl
@[simp] theorem Block.modEng_routes (p j : Nat) (f : Engine → Engine) : (s.modEng p j f).routes = s.routes := rfl
@[simp] theorem Block.modEng_xu (p j : Nat) (f : Engine → Engine) : (s.modEng p j f).xu = s.xu := rfl
@[simp] theorem Block.modEng_engs (p j : Nat) (f : Engine → Engine) : (s.modEng p j f).engs = smMod {} s.engs (engKey p j) f := rfl
@[simp] theorem Block.modEng_queues (p j : Nat) (f : Engine → Engine) : (s.modEng p j f).queues = s.queues := rfl
@[simp] theorem Block.modEng_coll (p j : Nat) (f : Engine → Engine) : (s.modEng p j f).coll = s.coll := rfl
@[simp] theorem Block.modEng_upd (p j : Nat) (f : Engine → Engine) : (s.modEng p j f).upd = s.upd := rfl
@[simp] theorem Block.modEng_eph (p j : Nat) (f : Engine → Engine) : (s.modEng p j f).eph = s.eph := rfl
@[simp] theorem Block.modEng_rhosts (p j : Nat) (f : Engine → Engine) : (s.modEng p j f).rhosts = s.rhosts := rfl
@[simp] theorem Block.modEng_helio (p j : Nat) (f : Engine → Engine) : (s.modEng p j f).helio = s.helio := rfl
@[simp] theorem Block.modEng_helioPs (p j : Nat) (f : Engine → Engine) : (s.modEng p j f).helioPs = s.helioPs := rfl
@[simp] theorem Block.modEng_vregs (p j : Nat) (f : Engine → Engine) : (s.modEng p j f).vregs = s.vregs := rfl
@[simp] theorem Block.modEng_boot (p j : Nat) (f : Engine → Engine) : (s.modEng p j f).boot = s.boot := rfl
@[simp] theorem Block.modEng_flash (p j : Nat) (f : Engine → Engine) : (s.modEng p j f).flash = s.flash := rfl
@[simp] theorem Block.modEng_poisonLatch (p j : Nat) (f : Engine → Engine) : (s.modEng p j f).poisonLatch = s.poisonLatch := rfl
@[simp] theorem Block.modEng_poisonFirst (p j : Nat) (f : Engine → Engine) : (s.modEng p j f).poisonFirst = s.poisonFirst := rfl
@[simp] theorem Block.modEng_poisonTick (p j : Nat) (f : Engine → Engine) : (s.modEng p j f).poisonTick = s.poisonTick := rfl
@[simp] theorem Block.modEng_warmDue (p j : Nat) (f : Engine → Engine) : (s.modEng p j f).warmDue = s.warmDue := rfl
@[simp] theorem Block.modEng_images (p j : Nat) (f : Engine → Engine) : (s.modEng p j f).images = s.images := rfl
@[simp] theorem Block.modEng_mirrors (p j : Nat) (f : Engine → Engine) : (s.modEng p j f).mirrors = s.mirrors := rfl
@[simp] theorem Block.modEng_pcie (p j : Nat) (f : Engine → Engine) : (s.modEng p j f).pcie = s.pcie := rfl
@[simp] theorem Block.modEng_mgmt (p j : Nat) (f : Engine → Engine) : (s.modEng p j f).mgmt = s.mgmt := rfl
@[simp] theorem Block.modEng_eyep (p j : Nat) (f : Engine → Engine) : (s.modEng p j f).eyep = s.eyep := rfl
@[simp] theorem Block.modEng_alm (p j : Nat) (f : Engine → Engine) : (s.modEng p j f).alm = s.alm := rfl
@[simp] theorem Block.modEng_feat (p j : Nat) (f : Engine → Engine) : (s.modEng p j f).feat = s.feat := rfl
@[simp] theorem Block.modEng_bundle (p j : Nat) (f : Engine → Engine) : (s.modEng p j f).bundle = s.bundle := rfl
@[simp] theorem Block.modEng_out (p j : Nat) (f : Engine → Engine) : (s.modEng p j f).out = s.out := rfl
@[simp] theorem Block.modEng_fv (p j : Nat) (f : Engine → Engine) : (s.modEng p j f).fv = s.fv := rfl
@[simp] theorem Block.modEng_part (p j : Nat) (f : Engine → Engine) (a : Nat) : (s.modEng p j f).part a = s.part a := rfl
@[simp] theorem Block.modEng_core (p j : Nat) (f : Engine → Engine) (a b : Nat) : (s.modEng p j f).core a b = s.core a b := rfl
@[simp] theorem Block.modEng_slot (p j : Nat) (f : Engine → Engine) (a b c : Nat) : (s.modEng p j f).slot a b c = s.slot a b c := rfl
@[simp] theorem Block.modEng_msc (p j : Nat) (f : Engine → Engine) (a : Nat) : (s.modEng p j f).msc a = s.msc a := rfl
@[simp] theorem Block.modEng_hbmc (p j : Nat) (f : Engine → Engine) (a : Nat) : (s.modEng p j f).hbmc a = s.hbmc a := rfl
@[simp] theorem Block.modEng_capc (p j : Nat) (f : Engine → Engine) (a : Nat) : (s.modEng p j f).capc a = s.capc a := rfl
@[simp] theorem Block.modEng_mmu (p j : Nat) (f : Engine → Engine) (a : Nat) : (s.modEng p j f).mmu a = s.mmu a := rfl
@[simp] theorem Block.modEng_port (p j : Nat) (f : Engine → Engine) (a : Nat) : (s.modEng p j f).port a = s.port a := rfl
@[simp] theorem Block.modEng_hdr (p j : Nat) (f : Engine → Engine) (a : Page) : (s.modEng p j f).hdr a = s.hdr a := rfl
@[simp] theorem Block.modEng_reg (p j : Nat) (f : Engine → Engine) (a : Page) (b : Nat) : (s.modEng p j f).reg a b = s.reg a b := rfl
@[simp] theorem Block.modEng_syn (p j : Nat) (f : Engine → Engine) (a : Nat) : (s.modEng p j f).syn a = s.syn a := rfl
@[simp] theorem Block.modEng_hp (p j : Nat) (f : Engine → Engine) (a : Nat) : (s.modEng p j f).hp a = s.hp a := rfl
@[simp] theorem Block.modEng_link (p j : Nat) (f : Engine → Engine) (a : Nat) : (s.modEng p j f).link a = s.link a := rfl
@[simp] theorem Block.modEng_queue (p j : Nat) (f : Engine → Engine) (a b : Nat) : (s.modEng p j f).queue a b = s.queue a b := rfl
@[simp] theorem Block.modEng_rhost (p j : Nat) (f : Engine → Engine) (a : Nat) : (s.modEng p j f).rhost a = s.rhost a := rfl
@[simp] theorem Block.modEng_ring (p j : Nat) (f : Engine → Engine) (a : Nat) : (s.modEng p j f).ring a = s.ring a := rfl
@[simp] theorem Block.modEng_logOf (p j : Nat) (f : Engine → Engine) (a : Page) (b : Nat) : (s.modEng p j f).logOf a b = s.logOf a b := rfl
@[simp] theorem Block.modEng_causeSet (p j : Nat) (f : Engine → Engine) (a : Page) (b : Nat) : (s.modEng p j f).causeSet a b = s.causeSet a b := rfl

/-! `modHelio` -/
@[simp] theorem Block.modHelio_timeUs (f : Helio → Helio) : (s.modHelio f).timeUs = s.timeUs := rfl
@[simp] theorem Block.modHelio_pages (f : Helio → Helio) : (s.modHelio f).pages = s.pages := rfl
@[simp] theorem Block.modHelio_regs (f : Helio → Helio) : (s.modHelio f).regs = s.regs := rfl
@[simp] theorem Block.modHelio_logs (f : Helio → Helio) : (s.modHelio f).logs = s.logs := rfl
@[simp] theorem Block.modHelio_frameBound (f : Helio → Helio) : (s.modHelio f).frameBound = s.frameBound := rfl
@[simp] theorem Block.modHelio_ram (f : Helio → Helio) : (s.modHelio f).ram = s.ram := rfl
@[simp] theorem Block.modHelio_merid (f : Helio → Helio) : (s.modHelio f).merid = s.merid := rfl
@[simp] theorem Block.modHelio_parts (f : Helio → Helio) : (s.modHelio f).parts = s.parts := rfl
@[simp] theorem Block.modHelio_cores (f : Helio → Helio) : (s.modHelio f).cores = s.cores := rfl
@[simp] theorem Block.modHelio_slots (f : Helio → Helio) : (s.modHelio f).slots = s.slots := rfl
@[simp] theorem Block.modHelio_tiers (f : Helio → Helio) : (s.modHelio f).tiers = s.tiers := rfl
@[simp] theorem Block.modHelio_mscs (f : Helio → Helio) : (s.modHelio f).mscs = s.mscs := rfl
@[simp] theorem Block.modHelio_hbmcs (f : Helio → Helio) : (s.modHelio f).hbmcs = s.hbmcs := rfl
@[simp] theorem Block.modHelio_capcs (f : Helio → Helio) : (s.modHelio f).capcs = s.capcs := rfl
@[simp] theorem Block.modHelio_mmus (f : Helio → Helio) : (s.modHelio f).mmus = s.mmus := rfl
@[simp] theorem Block.modHelio_syncs (f : Helio → Helio) : (s.modHelio f).syncs = s.syncs := rfl
@[simp] theorem Block.modHelio_links (f : Helio → Helio) : (s.modHelio f).links = s.links := rfl
@[simp] theorem Block.modHelio_routes (f : Helio → Helio) : (s.modHelio f).routes = s.routes := rfl
@[simp] theorem Block.modHelio_xu (f : Helio → Helio) : (s.modHelio f).xu = s.xu := rfl
@[simp] theorem Block.modHelio_engs (f : Helio → Helio) : (s.modHelio f).engs = s.engs := rfl
@[simp] theorem Block.modHelio_queues (f : Helio → Helio) : (s.modHelio f).queues = s.queues := rfl
@[simp] theorem Block.modHelio_coll (f : Helio → Helio) : (s.modHelio f).coll = s.coll := rfl
@[simp] theorem Block.modHelio_upd (f : Helio → Helio) : (s.modHelio f).upd = s.upd := rfl
@[simp] theorem Block.modHelio_eph (f : Helio → Helio) : (s.modHelio f).eph = s.eph := rfl
@[simp] theorem Block.modHelio_rhosts (f : Helio → Helio) : (s.modHelio f).rhosts = s.rhosts := rfl
@[simp] theorem Block.modHelio_helio (f : Helio → Helio) : (s.modHelio f).helio = f s.helio := rfl
@[simp] theorem Block.modHelio_helioPs (f : Helio → Helio) : (s.modHelio f).helioPs = s.helioPs := rfl
@[simp] theorem Block.modHelio_vregs (f : Helio → Helio) : (s.modHelio f).vregs = s.vregs := rfl
@[simp] theorem Block.modHelio_boot (f : Helio → Helio) : (s.modHelio f).boot = s.boot := rfl
@[simp] theorem Block.modHelio_flash (f : Helio → Helio) : (s.modHelio f).flash = s.flash := rfl
@[simp] theorem Block.modHelio_poisonLatch (f : Helio → Helio) : (s.modHelio f).poisonLatch = s.poisonLatch := rfl
@[simp] theorem Block.modHelio_poisonFirst (f : Helio → Helio) : (s.modHelio f).poisonFirst = s.poisonFirst := rfl
@[simp] theorem Block.modHelio_poisonTick (f : Helio → Helio) : (s.modHelio f).poisonTick = s.poisonTick := rfl
@[simp] theorem Block.modHelio_warmDue (f : Helio → Helio) : (s.modHelio f).warmDue = s.warmDue := rfl
@[simp] theorem Block.modHelio_images (f : Helio → Helio) : (s.modHelio f).images = s.images := rfl
@[simp] theorem Block.modHelio_mirrors (f : Helio → Helio) : (s.modHelio f).mirrors = s.mirrors := rfl
@[simp] theorem Block.modHelio_pcie (f : Helio → Helio) : (s.modHelio f).pcie = s.pcie := rfl
@[simp] theorem Block.modHelio_mgmt (f : Helio → Helio) : (s.modHelio f).mgmt = s.mgmt := rfl
@[simp] theorem Block.modHelio_eyep (f : Helio → Helio) : (s.modHelio f).eyep = s.eyep := rfl
@[simp] theorem Block.modHelio_alm (f : Helio → Helio) : (s.modHelio f).alm = s.alm := rfl
@[simp] theorem Block.modHelio_feat (f : Helio → Helio) : (s.modHelio f).feat = s.feat := rfl
@[simp] theorem Block.modHelio_bundle (f : Helio → Helio) : (s.modHelio f).bundle = s.bundle := rfl
@[simp] theorem Block.modHelio_out (f : Helio → Helio) : (s.modHelio f).out = s.out := rfl
@[simp] theorem Block.modHelio_fv (f : Helio → Helio) : (s.modHelio f).fv = s.fv := rfl
@[simp] theorem Block.modHelio_part (f : Helio → Helio) (a : Nat) : (s.modHelio f).part a = s.part a := rfl
@[simp] theorem Block.modHelio_core (f : Helio → Helio) (a b : Nat) : (s.modHelio f).core a b = s.core a b := rfl
@[simp] theorem Block.modHelio_slot (f : Helio → Helio) (a b c : Nat) : (s.modHelio f).slot a b c = s.slot a b c := rfl
@[simp] theorem Block.modHelio_msc (f : Helio → Helio) (a : Nat) : (s.modHelio f).msc a = s.msc a := rfl
@[simp] theorem Block.modHelio_hbmc (f : Helio → Helio) (a : Nat) : (s.modHelio f).hbmc a = s.hbmc a := rfl
@[simp] theorem Block.modHelio_capc (f : Helio → Helio) (a : Nat) : (s.modHelio f).capc a = s.capc a := rfl
@[simp] theorem Block.modHelio_mmu (f : Helio → Helio) (a : Nat) : (s.modHelio f).mmu a = s.mmu a := rfl
@[simp] theorem Block.modHelio_port (f : Helio → Helio) (a : Nat) : (s.modHelio f).port a = s.port a := rfl
@[simp] theorem Block.modHelio_hdr (f : Helio → Helio) (a : Page) : (s.modHelio f).hdr a = s.hdr a := rfl
@[simp] theorem Block.modHelio_reg (f : Helio → Helio) (a : Page) (b : Nat) : (s.modHelio f).reg a b = s.reg a b := rfl
@[simp] theorem Block.modHelio_syn (f : Helio → Helio) (a : Nat) : (s.modHelio f).syn a = s.syn a := rfl
@[simp] theorem Block.modHelio_hp (f : Helio → Helio) (a : Nat) : (s.modHelio f).hp a = s.hp a := rfl
@[simp] theorem Block.modHelio_link (f : Helio → Helio) (a : Nat) : (s.modHelio f).link a = s.link a := rfl
@[simp] theorem Block.modHelio_eng (f : Helio → Helio) (a b : Nat) : (s.modHelio f).eng a b = s.eng a b := rfl
@[simp] theorem Block.modHelio_queue (f : Helio → Helio) (a b : Nat) : (s.modHelio f).queue a b = s.queue a b := rfl
@[simp] theorem Block.modHelio_rhost (f : Helio → Helio) (a : Nat) : (s.modHelio f).rhost a = s.rhost a := rfl
@[simp] theorem Block.modHelio_ring (f : Helio → Helio) (a : Nat) : (s.modHelio f).ring a = s.ring a := rfl
@[simp] theorem Block.modHelio_logOf (f : Helio → Helio) (a : Page) (b : Nat) : (s.modHelio f).logOf a b = s.logOf a b := rfl
@[simp] theorem Block.modHelio_causeSet (f : Helio → Helio) (a : Page) (b : Nat) : (s.modHelio f).causeSet a b = s.causeSet a b := rfl

/-! `modVreg` -/
@[simp] theorem Block.modVreg_timeUs (k : Nat) (f : Vreg → Vreg) : (s.modVreg k f).timeUs = s.timeUs := rfl
@[simp] theorem Block.modVreg_pages (k : Nat) (f : Vreg → Vreg) : (s.modVreg k f).pages = s.pages := rfl
@[simp] theorem Block.modVreg_regs (k : Nat) (f : Vreg → Vreg) : (s.modVreg k f).regs = s.regs := rfl
@[simp] theorem Block.modVreg_logs (k : Nat) (f : Vreg → Vreg) : (s.modVreg k f).logs = s.logs := rfl
@[simp] theorem Block.modVreg_frameBound (k : Nat) (f : Vreg → Vreg) : (s.modVreg k f).frameBound = s.frameBound := rfl
@[simp] theorem Block.modVreg_ram (k : Nat) (f : Vreg → Vreg) : (s.modVreg k f).ram = s.ram := rfl
@[simp] theorem Block.modVreg_merid (k : Nat) (f : Vreg → Vreg) : (s.modVreg k f).merid = s.merid := rfl
@[simp] theorem Block.modVreg_parts (k : Nat) (f : Vreg → Vreg) : (s.modVreg k f).parts = s.parts := rfl
@[simp] theorem Block.modVreg_cores (k : Nat) (f : Vreg → Vreg) : (s.modVreg k f).cores = s.cores := rfl
@[simp] theorem Block.modVreg_slots (k : Nat) (f : Vreg → Vreg) : (s.modVreg k f).slots = s.slots := rfl
@[simp] theorem Block.modVreg_tiers (k : Nat) (f : Vreg → Vreg) : (s.modVreg k f).tiers = s.tiers := rfl
@[simp] theorem Block.modVreg_mscs (k : Nat) (f : Vreg → Vreg) : (s.modVreg k f).mscs = s.mscs := rfl
@[simp] theorem Block.modVreg_hbmcs (k : Nat) (f : Vreg → Vreg) : (s.modVreg k f).hbmcs = s.hbmcs := rfl
@[simp] theorem Block.modVreg_capcs (k : Nat) (f : Vreg → Vreg) : (s.modVreg k f).capcs = s.capcs := rfl
@[simp] theorem Block.modVreg_mmus (k : Nat) (f : Vreg → Vreg) : (s.modVreg k f).mmus = s.mmus := rfl
@[simp] theorem Block.modVreg_syncs (k : Nat) (f : Vreg → Vreg) : (s.modVreg k f).syncs = s.syncs := rfl
@[simp] theorem Block.modVreg_links (k : Nat) (f : Vreg → Vreg) : (s.modVreg k f).links = s.links := rfl
@[simp] theorem Block.modVreg_routes (k : Nat) (f : Vreg → Vreg) : (s.modVreg k f).routes = s.routes := rfl
@[simp] theorem Block.modVreg_xu (k : Nat) (f : Vreg → Vreg) : (s.modVreg k f).xu = s.xu := rfl
@[simp] theorem Block.modVreg_engs (k : Nat) (f : Vreg → Vreg) : (s.modVreg k f).engs = s.engs := rfl
@[simp] theorem Block.modVreg_queues (k : Nat) (f : Vreg → Vreg) : (s.modVreg k f).queues = s.queues := rfl
@[simp] theorem Block.modVreg_coll (k : Nat) (f : Vreg → Vreg) : (s.modVreg k f).coll = s.coll := rfl
@[simp] theorem Block.modVreg_upd (k : Nat) (f : Vreg → Vreg) : (s.modVreg k f).upd = s.upd := rfl
@[simp] theorem Block.modVreg_eph (k : Nat) (f : Vreg → Vreg) : (s.modVreg k f).eph = s.eph := rfl
@[simp] theorem Block.modVreg_rhosts (k : Nat) (f : Vreg → Vreg) : (s.modVreg k f).rhosts = s.rhosts := rfl
@[simp] theorem Block.modVreg_helio (k : Nat) (f : Vreg → Vreg) : (s.modVreg k f).helio = s.helio := rfl
@[simp] theorem Block.modVreg_helioPs (k : Nat) (f : Vreg → Vreg) : (s.modVreg k f).helioPs = s.helioPs := rfl
@[simp] theorem Block.modVreg_vregs (k : Nat) (f : Vreg → Vreg) : (s.modVreg k f).vregs = smMod {} s.vregs k f := rfl
@[simp] theorem Block.modVreg_boot (k : Nat) (f : Vreg → Vreg) : (s.modVreg k f).boot = s.boot := rfl
@[simp] theorem Block.modVreg_flash (k : Nat) (f : Vreg → Vreg) : (s.modVreg k f).flash = s.flash := rfl
@[simp] theorem Block.modVreg_poisonLatch (k : Nat) (f : Vreg → Vreg) : (s.modVreg k f).poisonLatch = s.poisonLatch := rfl
@[simp] theorem Block.modVreg_poisonFirst (k : Nat) (f : Vreg → Vreg) : (s.modVreg k f).poisonFirst = s.poisonFirst := rfl
@[simp] theorem Block.modVreg_poisonTick (k : Nat) (f : Vreg → Vreg) : (s.modVreg k f).poisonTick = s.poisonTick := rfl
@[simp] theorem Block.modVreg_warmDue (k : Nat) (f : Vreg → Vreg) : (s.modVreg k f).warmDue = s.warmDue := rfl
@[simp] theorem Block.modVreg_images (k : Nat) (f : Vreg → Vreg) : (s.modVreg k f).images = s.images := rfl
@[simp] theorem Block.modVreg_mirrors (k : Nat) (f : Vreg → Vreg) : (s.modVreg k f).mirrors = s.mirrors := rfl
@[simp] theorem Block.modVreg_pcie (k : Nat) (f : Vreg → Vreg) : (s.modVreg k f).pcie = s.pcie := rfl
@[simp] theorem Block.modVreg_mgmt (k : Nat) (f : Vreg → Vreg) : (s.modVreg k f).mgmt = s.mgmt := rfl
@[simp] theorem Block.modVreg_eyep (k : Nat) (f : Vreg → Vreg) : (s.modVreg k f).eyep = s.eyep := rfl
@[simp] theorem Block.modVreg_alm (k : Nat) (f : Vreg → Vreg) : (s.modVreg k f).alm = s.alm := rfl
@[simp] theorem Block.modVreg_feat (k : Nat) (f : Vreg → Vreg) : (s.modVreg k f).feat = s.feat := rfl
@[simp] theorem Block.modVreg_bundle (k : Nat) (f : Vreg → Vreg) : (s.modVreg k f).bundle = s.bundle := rfl
@[simp] theorem Block.modVreg_out (k : Nat) (f : Vreg → Vreg) : (s.modVreg k f).out = s.out := rfl
@[simp] theorem Block.modVreg_fv (k : Nat) (f : Vreg → Vreg) : (s.modVreg k f).fv = s.fv := rfl
@[simp] theorem Block.modVreg_part (k : Nat) (f : Vreg → Vreg) (a : Nat) : (s.modVreg k f).part a = s.part a := rfl
@[simp] theorem Block.modVreg_core (k : Nat) (f : Vreg → Vreg) (a b : Nat) : (s.modVreg k f).core a b = s.core a b := rfl
@[simp] theorem Block.modVreg_slot (k : Nat) (f : Vreg → Vreg) (a b c : Nat) : (s.modVreg k f).slot a b c = s.slot a b c := rfl
@[simp] theorem Block.modVreg_msc (k : Nat) (f : Vreg → Vreg) (a : Nat) : (s.modVreg k f).msc a = s.msc a := rfl
@[simp] theorem Block.modVreg_hbmc (k : Nat) (f : Vreg → Vreg) (a : Nat) : (s.modVreg k f).hbmc a = s.hbmc a := rfl
@[simp] theorem Block.modVreg_capc (k : Nat) (f : Vreg → Vreg) (a : Nat) : (s.modVreg k f).capc a = s.capc a := rfl
@[simp] theorem Block.modVreg_mmu (k : Nat) (f : Vreg → Vreg) (a : Nat) : (s.modVreg k f).mmu a = s.mmu a := rfl
@[simp] theorem Block.modVreg_port (k : Nat) (f : Vreg → Vreg) (a : Nat) : (s.modVreg k f).port a = s.port a := rfl
@[simp] theorem Block.modVreg_hdr (k : Nat) (f : Vreg → Vreg) (a : Page) : (s.modVreg k f).hdr a = s.hdr a := rfl
@[simp] theorem Block.modVreg_reg (k : Nat) (f : Vreg → Vreg) (a : Page) (b : Nat) : (s.modVreg k f).reg a b = s.reg a b := rfl
@[simp] theorem Block.modVreg_syn (k : Nat) (f : Vreg → Vreg) (a : Nat) : (s.modVreg k f).syn a = s.syn a := rfl
@[simp] theorem Block.modVreg_hp (k : Nat) (f : Vreg → Vreg) (a : Nat) : (s.modVreg k f).hp a = s.hp a := rfl
@[simp] theorem Block.modVreg_link (k : Nat) (f : Vreg → Vreg) (a : Nat) : (s.modVreg k f).link a = s.link a := rfl
@[simp] theorem Block.modVreg_eng (k : Nat) (f : Vreg → Vreg) (a b : Nat) : (s.modVreg k f).eng a b = s.eng a b := rfl
@[simp] theorem Block.modVreg_queue (k : Nat) (f : Vreg → Vreg) (a b : Nat) : (s.modVreg k f).queue a b = s.queue a b := rfl
@[simp] theorem Block.modVreg_rhost (k : Nat) (f : Vreg → Vreg) (a : Nat) : (s.modVreg k f).rhost a = s.rhost a := rfl
@[simp] theorem Block.modVreg_ring (k : Nat) (f : Vreg → Vreg) (a : Nat) : (s.modVreg k f).ring a = s.ring a := rfl
@[simp] theorem Block.modVreg_logOf (k : Nat) (f : Vreg → Vreg) (a : Page) (b : Nat) : (s.modVreg k f).logOf a b = s.logOf a b := rfl
@[simp] theorem Block.modVreg_causeSet (k : Nat) (f : Vreg → Vreg) (a : Page) (b : Nat) : (s.modVreg k f).causeSet a b = s.causeSet a b := rfl

/-! `modLink` -/
@[simp] theorem Block.modLink_timeUs (n : Nat) (f : Link → Link) : (s.modLink n f).timeUs = s.timeUs := rfl
@[simp] theorem Block.modLink_pages (n : Nat) (f : Link → Link) : (s.modLink n f).pages = s.pages := rfl
@[simp] theorem Block.modLink_regs (n : Nat) (f : Link → Link) : (s.modLink n f).regs = s.regs := rfl
@[simp] theorem Block.modLink_logs (n : Nat) (f : Link → Link) : (s.modLink n f).logs = s.logs := rfl
@[simp] theorem Block.modLink_frameBound (n : Nat) (f : Link → Link) : (s.modLink n f).frameBound = s.frameBound := rfl
@[simp] theorem Block.modLink_ram (n : Nat) (f : Link → Link) : (s.modLink n f).ram = s.ram := rfl
@[simp] theorem Block.modLink_merid (n : Nat) (f : Link → Link) : (s.modLink n f).merid = s.merid := rfl
@[simp] theorem Block.modLink_parts (n : Nat) (f : Link → Link) : (s.modLink n f).parts = s.parts := rfl
@[simp] theorem Block.modLink_cores (n : Nat) (f : Link → Link) : (s.modLink n f).cores = s.cores := rfl
@[simp] theorem Block.modLink_slots (n : Nat) (f : Link → Link) : (s.modLink n f).slots = s.slots := rfl
@[simp] theorem Block.modLink_tiers (n : Nat) (f : Link → Link) : (s.modLink n f).tiers = s.tiers := rfl
@[simp] theorem Block.modLink_mscs (n : Nat) (f : Link → Link) : (s.modLink n f).mscs = s.mscs := rfl
@[simp] theorem Block.modLink_hbmcs (n : Nat) (f : Link → Link) : (s.modLink n f).hbmcs = s.hbmcs := rfl
@[simp] theorem Block.modLink_capcs (n : Nat) (f : Link → Link) : (s.modLink n f).capcs = s.capcs := rfl
@[simp] theorem Block.modLink_mmus (n : Nat) (f : Link → Link) : (s.modLink n f).mmus = s.mmus := rfl
@[simp] theorem Block.modLink_syncs (n : Nat) (f : Link → Link) : (s.modLink n f).syncs = s.syncs := rfl
@[simp] theorem Block.modLink_links (n : Nat) (f : Link → Link) : (s.modLink n f).links = smMod {} s.links n f := rfl
@[simp] theorem Block.modLink_routes (n : Nat) (f : Link → Link) : (s.modLink n f).routes = s.routes := rfl
@[simp] theorem Block.modLink_xu (n : Nat) (f : Link → Link) : (s.modLink n f).xu = s.xu := rfl
@[simp] theorem Block.modLink_engs (n : Nat) (f : Link → Link) : (s.modLink n f).engs = s.engs := rfl
@[simp] theorem Block.modLink_queues (n : Nat) (f : Link → Link) : (s.modLink n f).queues = s.queues := rfl
@[simp] theorem Block.modLink_coll (n : Nat) (f : Link → Link) : (s.modLink n f).coll = s.coll := rfl
@[simp] theorem Block.modLink_upd (n : Nat) (f : Link → Link) : (s.modLink n f).upd = s.upd := rfl
@[simp] theorem Block.modLink_eph (n : Nat) (f : Link → Link) : (s.modLink n f).eph = s.eph := rfl
@[simp] theorem Block.modLink_rhosts (n : Nat) (f : Link → Link) : (s.modLink n f).rhosts = s.rhosts := rfl
@[simp] theorem Block.modLink_helio (n : Nat) (f : Link → Link) : (s.modLink n f).helio = s.helio := rfl
@[simp] theorem Block.modLink_helioPs (n : Nat) (f : Link → Link) : (s.modLink n f).helioPs = s.helioPs := rfl
@[simp] theorem Block.modLink_vregs (n : Nat) (f : Link → Link) : (s.modLink n f).vregs = s.vregs := rfl
@[simp] theorem Block.modLink_boot (n : Nat) (f : Link → Link) : (s.modLink n f).boot = s.boot := rfl
@[simp] theorem Block.modLink_flash (n : Nat) (f : Link → Link) : (s.modLink n f).flash = s.flash := rfl
@[simp] theorem Block.modLink_poisonLatch (n : Nat) (f : Link → Link) : (s.modLink n f).poisonLatch = s.poisonLatch := rfl
@[simp] theorem Block.modLink_poisonFirst (n : Nat) (f : Link → Link) : (s.modLink n f).poisonFirst = s.poisonFirst := rfl
@[simp] theorem Block.modLink_poisonTick (n : Nat) (f : Link → Link) : (s.modLink n f).poisonTick = s.poisonTick := rfl
@[simp] theorem Block.modLink_warmDue (n : Nat) (f : Link → Link) : (s.modLink n f).warmDue = s.warmDue := rfl
@[simp] theorem Block.modLink_images (n : Nat) (f : Link → Link) : (s.modLink n f).images = s.images := rfl
@[simp] theorem Block.modLink_mirrors (n : Nat) (f : Link → Link) : (s.modLink n f).mirrors = s.mirrors := rfl
@[simp] theorem Block.modLink_pcie (n : Nat) (f : Link → Link) : (s.modLink n f).pcie = s.pcie := rfl
@[simp] theorem Block.modLink_mgmt (n : Nat) (f : Link → Link) : (s.modLink n f).mgmt = s.mgmt := rfl
@[simp] theorem Block.modLink_eyep (n : Nat) (f : Link → Link) : (s.modLink n f).eyep = s.eyep := rfl
@[simp] theorem Block.modLink_alm (n : Nat) (f : Link → Link) : (s.modLink n f).alm = s.alm := rfl
@[simp] theorem Block.modLink_feat (n : Nat) (f : Link → Link) : (s.modLink n f).feat = s.feat := rfl
@[simp] theorem Block.modLink_bundle (n : Nat) (f : Link → Link) : (s.modLink n f).bundle = s.bundle := rfl
@[simp] theorem Block.modLink_out (n : Nat) (f : Link → Link) : (s.modLink n f).out = s.out := rfl
@[simp] theorem Block.modLink_fv (n : Nat) (f : Link → Link) : (s.modLink n f).fv = s.fv := rfl
@[simp] theorem Block.modLink_part (n : Nat) (f : Link → Link) (a : Nat) : (s.modLink n f).part a = s.part a := rfl
@[simp] theorem Block.modLink_core (n : Nat) (f : Link → Link) (a b : Nat) : (s.modLink n f).core a b = s.core a b := rfl
@[simp] theorem Block.modLink_slot (n : Nat) (f : Link → Link) (a b c : Nat) : (s.modLink n f).slot a b c = s.slot a b c := rfl
@[simp] theorem Block.modLink_msc (n : Nat) (f : Link → Link) (a : Nat) : (s.modLink n f).msc a = s.msc a := rfl
@[simp] theorem Block.modLink_hbmc (n : Nat) (f : Link → Link) (a : Nat) : (s.modLink n f).hbmc a = s.hbmc a := rfl
@[simp] theorem Block.modLink_capc (n : Nat) (f : Link → Link) (a : Nat) : (s.modLink n f).capc a = s.capc a := rfl
@[simp] theorem Block.modLink_mmu (n : Nat) (f : Link → Link) (a : Nat) : (s.modLink n f).mmu a = s.mmu a := rfl
@[simp] theorem Block.modLink_port (n : Nat) (f : Link → Link) (a : Nat) : (s.modLink n f).port a = s.port a := rfl
@[simp] theorem Block.modLink_hdr (n : Nat) (f : Link → Link) (a : Page) : (s.modLink n f).hdr a = s.hdr a := rfl
@[simp] theorem Block.modLink_reg (n : Nat) (f : Link → Link) (a : Page) (b : Nat) : (s.modLink n f).reg a b = s.reg a b := rfl
@[simp] theorem Block.modLink_syn (n : Nat) (f : Link → Link) (a : Nat) : (s.modLink n f).syn a = s.syn a := rfl
@[simp] theorem Block.modLink_hp (n : Nat) (f : Link → Link) (a : Nat) : (s.modLink n f).hp a = s.hp a := rfl
@[simp] theorem Block.modLink_eng (n : Nat) (f : Link → Link) (a b : Nat) : (s.modLink n f).eng a b = s.eng a b := rfl
@[simp] theorem Block.modLink_queue (n : Nat) (f : Link → Link) (a b : Nat) : (s.modLink n f).queue a b = s.queue a b := rfl
@[simp] theorem Block.modLink_rhost (n : Nat) (f : Link → Link) (a : Nat) : (s.modLink n f).rhost a = s.rhost a := rfl
@[simp] theorem Block.modLink_ring (n : Nat) (f : Link → Link) (a : Nat) : (s.modLink n f).ring a = s.ring a := rfl
@[simp] theorem Block.modLink_logOf (n : Nat) (f : Link → Link) (a : Page) (b : Nat) : (s.modLink n f).logOf a b = s.logOf a b := rfl
@[simp] theorem Block.modLink_causeSet (n : Nat) (f : Link → Link) (a : Page) (b : Nat) : (s.modLink n f).causeSet a b = s.causeSet a b := rfl

/-! `modMerid` -/
@[simp] theorem Block.modMerid_timeUs (f : Merid → Merid) : (s.modMerid f).timeUs = s.timeUs := rfl
@[simp] theorem Block.modMerid_pages (f : Merid → Merid) : (s.modMerid f).pages = s.pages := rfl
@[simp] theorem Block.modMerid_regs (f : Merid → Merid) : (s.modMerid f).regs = s.regs := rfl
@[simp] theorem Block.modMerid_logs (f : Merid → Merid) : (s.modMerid f).logs = s.logs := rfl
@[simp] theorem Block.modMerid_frameBound (f : Merid → Merid) : (s.modMerid f).frameBound = s.frameBound := rfl
@[simp] theorem Block.modMerid_ram (f : Merid → Merid) : (s.modMerid f).ram = s.ram := rfl
@[simp] theorem Block.modMerid_merid (f : Merid → Merid) : (s.modMerid f).merid = f s.merid := rfl
@[simp] theorem Block.modMerid_parts (f : Merid → Merid) : (s.modMerid f).parts = s.parts := rfl
@[simp] theorem Block.modMerid_cores (f : Merid → Merid) : (s.modMerid f).cores = s.cores := rfl
@[simp] theorem Block.modMerid_slots (f : Merid → Merid) : (s.modMerid f).slots = s.slots := rfl
@[simp] theorem Block.modMerid_tiers (f : Merid → Merid) : (s.modMerid f).tiers = s.tiers := rfl
@[simp] theorem Block.modMerid_mscs (f : Merid → Merid) : (s.modMerid f).mscs = s.mscs := rfl
@[simp] theorem Block.modMerid_hbmcs (f : Merid → Merid) : (s.modMerid f).hbmcs = s.hbmcs := rfl
@[simp] theorem Block.modMerid_capcs (f : Merid → Merid) : (s.modMerid f).capcs = s.capcs := rfl
@[simp] theorem Block.modMerid_mmus (f : Merid → Merid) : (s.modMerid f).mmus = s.mmus := rfl
@[simp] theorem Block.modMerid_syncs (f : Merid → Merid) : (s.modMerid f).syncs = s.syncs := rfl
@[simp] theorem Block.modMerid_links (f : Merid → Merid) : (s.modMerid f).links = s.links := rfl
@[simp] theorem Block.modMerid_routes (f : Merid → Merid) : (s.modMerid f).routes = s.routes := rfl
@[simp] theorem Block.modMerid_xu (f : Merid → Merid) : (s.modMerid f).xu = s.xu := rfl
@[simp] theorem Block.modMerid_engs (f : Merid → Merid) : (s.modMerid f).engs = s.engs := rfl
@[simp] theorem Block.modMerid_queues (f : Merid → Merid) : (s.modMerid f).queues = s.queues := rfl
@[simp] theorem Block.modMerid_coll (f : Merid → Merid) : (s.modMerid f).coll = s.coll := rfl
@[simp] theorem Block.modMerid_upd (f : Merid → Merid) : (s.modMerid f).upd = s.upd := rfl
@[simp] theorem Block.modMerid_eph (f : Merid → Merid) : (s.modMerid f).eph = s.eph := rfl
@[simp] theorem Block.modMerid_rhosts (f : Merid → Merid) : (s.modMerid f).rhosts = s.rhosts := rfl
@[simp] theorem Block.modMerid_helio (f : Merid → Merid) : (s.modMerid f).helio = s.helio := rfl
@[simp] theorem Block.modMerid_helioPs (f : Merid → Merid) : (s.modMerid f).helioPs = s.helioPs := rfl
@[simp] theorem Block.modMerid_vregs (f : Merid → Merid) : (s.modMerid f).vregs = s.vregs := rfl
@[simp] theorem Block.modMerid_boot (f : Merid → Merid) : (s.modMerid f).boot = s.boot := rfl
@[simp] theorem Block.modMerid_flash (f : Merid → Merid) : (s.modMerid f).flash = s.flash := rfl
@[simp] theorem Block.modMerid_poisonLatch (f : Merid → Merid) : (s.modMerid f).poisonLatch = s.poisonLatch := rfl
@[simp] theorem Block.modMerid_poisonFirst (f : Merid → Merid) : (s.modMerid f).poisonFirst = s.poisonFirst := rfl
@[simp] theorem Block.modMerid_poisonTick (f : Merid → Merid) : (s.modMerid f).poisonTick = s.poisonTick := rfl
@[simp] theorem Block.modMerid_warmDue (f : Merid → Merid) : (s.modMerid f).warmDue = s.warmDue := rfl
@[simp] theorem Block.modMerid_images (f : Merid → Merid) : (s.modMerid f).images = s.images := rfl
@[simp] theorem Block.modMerid_mirrors (f : Merid → Merid) : (s.modMerid f).mirrors = s.mirrors := rfl
@[simp] theorem Block.modMerid_pcie (f : Merid → Merid) : (s.modMerid f).pcie = s.pcie := rfl
@[simp] theorem Block.modMerid_mgmt (f : Merid → Merid) : (s.modMerid f).mgmt = s.mgmt := rfl
@[simp] theorem Block.modMerid_eyep (f : Merid → Merid) : (s.modMerid f).eyep = s.eyep := rfl
@[simp] theorem Block.modMerid_alm (f : Merid → Merid) : (s.modMerid f).alm = s.alm := rfl
@[simp] theorem Block.modMerid_feat (f : Merid → Merid) : (s.modMerid f).feat = s.feat := rfl
@[simp] theorem Block.modMerid_bundle (f : Merid → Merid) : (s.modMerid f).bundle = s.bundle := rfl
@[simp] theorem Block.modMerid_out (f : Merid → Merid) : (s.modMerid f).out = s.out := rfl
@[simp] theorem Block.modMerid_fv (f : Merid → Merid) : (s.modMerid f).fv = s.fv := rfl
@[simp] theorem Block.modMerid_part (f : Merid → Merid) (a : Nat) : (s.modMerid f).part a = s.part a := rfl
@[simp] theorem Block.modMerid_core (f : Merid → Merid) (a b : Nat) : (s.modMerid f).core a b = s.core a b := rfl
@[simp] theorem Block.modMerid_slot (f : Merid → Merid) (a b c : Nat) : (s.modMerid f).slot a b c = s.slot a b c := rfl
@[simp] theorem Block.modMerid_msc (f : Merid → Merid) (a : Nat) : (s.modMerid f).msc a = s.msc a := rfl
@[simp] theorem Block.modMerid_hbmc (f : Merid → Merid) (a : Nat) : (s.modMerid f).hbmc a = s.hbmc a := rfl
@[simp] theorem Block.modMerid_capc (f : Merid → Merid) (a : Nat) : (s.modMerid f).capc a = s.capc a := rfl
@[simp] theorem Block.modMerid_mmu (f : Merid → Merid) (a : Nat) : (s.modMerid f).mmu a = s.mmu a := rfl
@[simp] theorem Block.modMerid_port (f : Merid → Merid) (a : Nat) : (s.modMerid f).port a = s.port a := rfl
@[simp] theorem Block.modMerid_hdr (f : Merid → Merid) (a : Page) : (s.modMerid f).hdr a = s.hdr a := rfl
@[simp] theorem Block.modMerid_reg (f : Merid → Merid) (a : Page) (b : Nat) : (s.modMerid f).reg a b = s.reg a b := rfl
@[simp] theorem Block.modMerid_syn (f : Merid → Merid) (a : Nat) : (s.modMerid f).syn a = s.syn a := rfl
@[simp] theorem Block.modMerid_hp (f : Merid → Merid) (a : Nat) : (s.modMerid f).hp a = s.hp a := rfl
@[simp] theorem Block.modMerid_link (f : Merid → Merid) (a : Nat) : (s.modMerid f).link a = s.link a := rfl
@[simp] theorem Block.modMerid_eng (f : Merid → Merid) (a b : Nat) : (s.modMerid f).eng a b = s.eng a b := rfl
@[simp] theorem Block.modMerid_queue (f : Merid → Merid) (a b : Nat) : (s.modMerid f).queue a b = s.queue a b := rfl
@[simp] theorem Block.modMerid_rhost (f : Merid → Merid) (a : Nat) : (s.modMerid f).rhost a = s.rhost a := rfl
@[simp] theorem Block.modMerid_ring (f : Merid → Merid) (a : Nat) : (s.modMerid f).ring a = s.ring a := rfl
@[simp] theorem Block.modMerid_logOf (f : Merid → Merid) (a : Page) (b : Nat) : (s.modMerid f).logOf a b = s.logOf a b := rfl
@[simp] theorem Block.modMerid_causeSet (f : Merid → Merid) (a : Page) (b : Nat) : (s.modMerid f).causeSet a b = s.causeSet a b := rfl

/-! `modMgmt` -/
@[simp] theorem Block.modMgmt_timeUs (f : Mgmt → Mgmt) : (s.modMgmt f).timeUs = s.timeUs := rfl
@[simp] theorem Block.modMgmt_pages (f : Mgmt → Mgmt) : (s.modMgmt f).pages = s.pages := rfl
@[simp] theorem Block.modMgmt_regs (f : Mgmt → Mgmt) : (s.modMgmt f).regs = s.regs := rfl
@[simp] theorem Block.modMgmt_logs (f : Mgmt → Mgmt) : (s.modMgmt f).logs = s.logs := rfl
@[simp] theorem Block.modMgmt_frameBound (f : Mgmt → Mgmt) : (s.modMgmt f).frameBound = s.frameBound := rfl
@[simp] theorem Block.modMgmt_ram (f : Mgmt → Mgmt) : (s.modMgmt f).ram = s.ram := rfl
@[simp] theorem Block.modMgmt_merid (f : Mgmt → Mgmt) : (s.modMgmt f).merid = s.merid := rfl
@[simp] theorem Block.modMgmt_parts (f : Mgmt → Mgmt) : (s.modMgmt f).parts = s.parts := rfl
@[simp] theorem Block.modMgmt_cores (f : Mgmt → Mgmt) : (s.modMgmt f).cores = s.cores := rfl
@[simp] theorem Block.modMgmt_slots (f : Mgmt → Mgmt) : (s.modMgmt f).slots = s.slots := rfl
@[simp] theorem Block.modMgmt_tiers (f : Mgmt → Mgmt) : (s.modMgmt f).tiers = s.tiers := rfl
@[simp] theorem Block.modMgmt_mscs (f : Mgmt → Mgmt) : (s.modMgmt f).mscs = s.mscs := rfl
@[simp] theorem Block.modMgmt_hbmcs (f : Mgmt → Mgmt) : (s.modMgmt f).hbmcs = s.hbmcs := rfl
@[simp] theorem Block.modMgmt_capcs (f : Mgmt → Mgmt) : (s.modMgmt f).capcs = s.capcs := rfl
@[simp] theorem Block.modMgmt_mmus (f : Mgmt → Mgmt) : (s.modMgmt f).mmus = s.mmus := rfl
@[simp] theorem Block.modMgmt_syncs (f : Mgmt → Mgmt) : (s.modMgmt f).syncs = s.syncs := rfl
@[simp] theorem Block.modMgmt_links (f : Mgmt → Mgmt) : (s.modMgmt f).links = s.links := rfl
@[simp] theorem Block.modMgmt_routes (f : Mgmt → Mgmt) : (s.modMgmt f).routes = s.routes := rfl
@[simp] theorem Block.modMgmt_xu (f : Mgmt → Mgmt) : (s.modMgmt f).xu = s.xu := rfl
@[simp] theorem Block.modMgmt_engs (f : Mgmt → Mgmt) : (s.modMgmt f).engs = s.engs := rfl
@[simp] theorem Block.modMgmt_queues (f : Mgmt → Mgmt) : (s.modMgmt f).queues = s.queues := rfl
@[simp] theorem Block.modMgmt_coll (f : Mgmt → Mgmt) : (s.modMgmt f).coll = s.coll := rfl
@[simp] theorem Block.modMgmt_upd (f : Mgmt → Mgmt) : (s.modMgmt f).upd = s.upd := rfl
@[simp] theorem Block.modMgmt_eph (f : Mgmt → Mgmt) : (s.modMgmt f).eph = s.eph := rfl
@[simp] theorem Block.modMgmt_rhosts (f : Mgmt → Mgmt) : (s.modMgmt f).rhosts = s.rhosts := rfl
@[simp] theorem Block.modMgmt_helio (f : Mgmt → Mgmt) : (s.modMgmt f).helio = s.helio := rfl
@[simp] theorem Block.modMgmt_helioPs (f : Mgmt → Mgmt) : (s.modMgmt f).helioPs = s.helioPs := rfl
@[simp] theorem Block.modMgmt_vregs (f : Mgmt → Mgmt) : (s.modMgmt f).vregs = s.vregs := rfl
@[simp] theorem Block.modMgmt_boot (f : Mgmt → Mgmt) : (s.modMgmt f).boot = s.boot := rfl
@[simp] theorem Block.modMgmt_flash (f : Mgmt → Mgmt) : (s.modMgmt f).flash = s.flash := rfl
@[simp] theorem Block.modMgmt_poisonLatch (f : Mgmt → Mgmt) : (s.modMgmt f).poisonLatch = s.poisonLatch := rfl
@[simp] theorem Block.modMgmt_poisonFirst (f : Mgmt → Mgmt) : (s.modMgmt f).poisonFirst = s.poisonFirst := rfl
@[simp] theorem Block.modMgmt_poisonTick (f : Mgmt → Mgmt) : (s.modMgmt f).poisonTick = s.poisonTick := rfl
@[simp] theorem Block.modMgmt_warmDue (f : Mgmt → Mgmt) : (s.modMgmt f).warmDue = s.warmDue := rfl
@[simp] theorem Block.modMgmt_images (f : Mgmt → Mgmt) : (s.modMgmt f).images = s.images := rfl
@[simp] theorem Block.modMgmt_mirrors (f : Mgmt → Mgmt) : (s.modMgmt f).mirrors = s.mirrors := rfl
@[simp] theorem Block.modMgmt_pcie (f : Mgmt → Mgmt) : (s.modMgmt f).pcie = s.pcie := rfl
@[simp] theorem Block.modMgmt_mgmt (f : Mgmt → Mgmt) : (s.modMgmt f).mgmt = f s.mgmt := rfl
@[simp] theorem Block.modMgmt_eyep (f : Mgmt → Mgmt) : (s.modMgmt f).eyep = s.eyep := rfl
@[simp] theorem Block.modMgmt_alm (f : Mgmt → Mgmt) : (s.modMgmt f).alm = s.alm := rfl
@[simp] theorem Block.modMgmt_feat (f : Mgmt → Mgmt) : (s.modMgmt f).feat = s.feat := rfl
@[simp] theorem Block.modMgmt_bundle (f : Mgmt → Mgmt) : (s.modMgmt f).bundle = s.bundle := rfl
@[simp] theorem Block.modMgmt_out (f : Mgmt → Mgmt) : (s.modMgmt f).out = s.out := rfl
@[simp] theorem Block.modMgmt_fv (f : Mgmt → Mgmt) : (s.modMgmt f).fv = s.fv := rfl
@[simp] theorem Block.modMgmt_part (f : Mgmt → Mgmt) (a : Nat) : (s.modMgmt f).part a = s.part a := rfl
@[simp] theorem Block.modMgmt_core (f : Mgmt → Mgmt) (a b : Nat) : (s.modMgmt f).core a b = s.core a b := rfl
@[simp] theorem Block.modMgmt_slot (f : Mgmt → Mgmt) (a b c : Nat) : (s.modMgmt f).slot a b c = s.slot a b c := rfl
@[simp] theorem Block.modMgmt_msc (f : Mgmt → Mgmt) (a : Nat) : (s.modMgmt f).msc a = s.msc a := rfl
@[simp] theorem Block.modMgmt_hbmc (f : Mgmt → Mgmt) (a : Nat) : (s.modMgmt f).hbmc a = s.hbmc a := rfl
@[simp] theorem Block.modMgmt_capc (f : Mgmt → Mgmt) (a : Nat) : (s.modMgmt f).capc a = s.capc a := rfl
@[simp] theorem Block.modMgmt_mmu (f : Mgmt → Mgmt) (a : Nat) : (s.modMgmt f).mmu a = s.mmu a := rfl
@[simp] theorem Block.modMgmt_port (f : Mgmt → Mgmt) (a : Nat) : (s.modMgmt f).port a = s.port a := rfl
@[simp] theorem Block.modMgmt_hdr (f : Mgmt → Mgmt) (a : Page) : (s.modMgmt f).hdr a = s.hdr a := rfl
@[simp] theorem Block.modMgmt_reg (f : Mgmt → Mgmt) (a : Page) (b : Nat) : (s.modMgmt f).reg a b = s.reg a b := rfl
@[simp] theorem Block.modMgmt_syn (f : Mgmt → Mgmt) (a : Nat) : (s.modMgmt f).syn a = s.syn a := rfl
@[simp] theorem Block.modMgmt_hp (f : Mgmt → Mgmt) (a : Nat) : (s.modMgmt f).hp a = s.hp a := rfl
@[simp] theorem Block.modMgmt_link (f : Mgmt → Mgmt) (a : Nat) : (s.modMgmt f).link a = s.link a := rfl
@[simp] theorem Block.modMgmt_eng (f : Mgmt → Mgmt) (a b : Nat) : (s.modMgmt f).eng a b = s.eng a b := rfl
@[simp] theorem Block.modMgmt_queue (f : Mgmt → Mgmt) (a b : Nat) : (s.modMgmt f).queue a b = s.queue a b := rfl
@[simp] theorem Block.modMgmt_rhost (f : Mgmt → Mgmt) (a : Nat) : (s.modMgmt f).rhost a = s.rhost a := rfl
@[simp] theorem Block.modMgmt_ring (f : Mgmt → Mgmt) (a : Nat) : (s.modMgmt f).ring a = s.ring a := rfl
@[simp] theorem Block.modMgmt_logOf (f : Mgmt → Mgmt) (a : Page) (b : Nat) : (s.modMgmt f).logOf a b = s.logOf a b := rfl
@[simp] theorem Block.modMgmt_causeSet (f : Mgmt → Mgmt) (a : Page) (b : Nat) : (s.modMgmt f).causeSet a b = s.causeSet a b := rfl

/-! `modSyn` -/
@[simp] theorem Block.modSyn_timeUs (p : Nat) (f : Sync → Sync) : (s.modSyn p f).timeUs = s.timeUs := rfl
@[simp] theorem Block.modSyn_pages (p : Nat) (f : Sync → Sync) : (s.modSyn p f).pages = s.pages := rfl
@[simp] theorem Block.modSyn_regs (p : Nat) (f : Sync → Sync) : (s.modSyn p f).regs = s.regs := rfl
@[simp] theorem Block.modSyn_logs (p : Nat) (f : Sync → Sync) : (s.modSyn p f).logs = s.logs := rfl
@[simp] theorem Block.modSyn_frameBound (p : Nat) (f : Sync → Sync) : (s.modSyn p f).frameBound = s.frameBound := rfl
@[simp] theorem Block.modSyn_ram (p : Nat) (f : Sync → Sync) : (s.modSyn p f).ram = s.ram := rfl
@[simp] theorem Block.modSyn_merid (p : Nat) (f : Sync → Sync) : (s.modSyn p f).merid = s.merid := rfl
@[simp] theorem Block.modSyn_parts (p : Nat) (f : Sync → Sync) : (s.modSyn p f).parts = s.parts := rfl
@[simp] theorem Block.modSyn_cores (p : Nat) (f : Sync → Sync) : (s.modSyn p f).cores = s.cores := rfl
@[simp] theorem Block.modSyn_slots (p : Nat) (f : Sync → Sync) : (s.modSyn p f).slots = s.slots := rfl
@[simp] theorem Block.modSyn_tiers (p : Nat) (f : Sync → Sync) : (s.modSyn p f).tiers = s.tiers := rfl
@[simp] theorem Block.modSyn_mscs (p : Nat) (f : Sync → Sync) : (s.modSyn p f).mscs = s.mscs := rfl
@[simp] theorem Block.modSyn_hbmcs (p : Nat) (f : Sync → Sync) : (s.modSyn p f).hbmcs = s.hbmcs := rfl
@[simp] theorem Block.modSyn_capcs (p : Nat) (f : Sync → Sync) : (s.modSyn p f).capcs = s.capcs := rfl
@[simp] theorem Block.modSyn_mmus (p : Nat) (f : Sync → Sync) : (s.modSyn p f).mmus = s.mmus := rfl
@[simp] theorem Block.modSyn_syncs (p : Nat) (f : Sync → Sync) : (s.modSyn p f).syncs = smMod {} s.syncs p f := rfl
@[simp] theorem Block.modSyn_links (p : Nat) (f : Sync → Sync) : (s.modSyn p f).links = s.links := rfl
@[simp] theorem Block.modSyn_routes (p : Nat) (f : Sync → Sync) : (s.modSyn p f).routes = s.routes := rfl
@[simp] theorem Block.modSyn_xu (p : Nat) (f : Sync → Sync) : (s.modSyn p f).xu = s.xu := rfl
@[simp] theorem Block.modSyn_engs (p : Nat) (f : Sync → Sync) : (s.modSyn p f).engs = s.engs := rfl
@[simp] theorem Block.modSyn_queues (p : Nat) (f : Sync → Sync) : (s.modSyn p f).queues = s.queues := rfl
@[simp] theorem Block.modSyn_coll (p : Nat) (f : Sync → Sync) : (s.modSyn p f).coll = s.coll := rfl
@[simp] theorem Block.modSyn_upd (p : Nat) (f : Sync → Sync) : (s.modSyn p f).upd = s.upd := rfl
@[simp] theorem Block.modSyn_eph (p : Nat) (f : Sync → Sync) : (s.modSyn p f).eph = s.eph := rfl
@[simp] theorem Block.modSyn_rhosts (p : Nat) (f : Sync → Sync) : (s.modSyn p f).rhosts = s.rhosts := rfl
@[simp] theorem Block.modSyn_helio (p : Nat) (f : Sync → Sync) : (s.modSyn p f).helio = s.helio := rfl
@[simp] theorem Block.modSyn_helioPs (p : Nat) (f : Sync → Sync) : (s.modSyn p f).helioPs = s.helioPs := rfl
@[simp] theorem Block.modSyn_vregs (p : Nat) (f : Sync → Sync) : (s.modSyn p f).vregs = s.vregs := rfl
@[simp] theorem Block.modSyn_boot (p : Nat) (f : Sync → Sync) : (s.modSyn p f).boot = s.boot := rfl
@[simp] theorem Block.modSyn_flash (p : Nat) (f : Sync → Sync) : (s.modSyn p f).flash = s.flash := rfl
@[simp] theorem Block.modSyn_poisonLatch (p : Nat) (f : Sync → Sync) : (s.modSyn p f).poisonLatch = s.poisonLatch := rfl
@[simp] theorem Block.modSyn_poisonFirst (p : Nat) (f : Sync → Sync) : (s.modSyn p f).poisonFirst = s.poisonFirst := rfl
@[simp] theorem Block.modSyn_poisonTick (p : Nat) (f : Sync → Sync) : (s.modSyn p f).poisonTick = s.poisonTick := rfl
@[simp] theorem Block.modSyn_warmDue (p : Nat) (f : Sync → Sync) : (s.modSyn p f).warmDue = s.warmDue := rfl
@[simp] theorem Block.modSyn_images (p : Nat) (f : Sync → Sync) : (s.modSyn p f).images = s.images := rfl
@[simp] theorem Block.modSyn_mirrors (p : Nat) (f : Sync → Sync) : (s.modSyn p f).mirrors = s.mirrors := rfl
@[simp] theorem Block.modSyn_pcie (p : Nat) (f : Sync → Sync) : (s.modSyn p f).pcie = s.pcie := rfl
@[simp] theorem Block.modSyn_mgmt (p : Nat) (f : Sync → Sync) : (s.modSyn p f).mgmt = s.mgmt := rfl
@[simp] theorem Block.modSyn_eyep (p : Nat) (f : Sync → Sync) : (s.modSyn p f).eyep = s.eyep := rfl
@[simp] theorem Block.modSyn_alm (p : Nat) (f : Sync → Sync) : (s.modSyn p f).alm = s.alm := rfl
@[simp] theorem Block.modSyn_feat (p : Nat) (f : Sync → Sync) : (s.modSyn p f).feat = s.feat := rfl
@[simp] theorem Block.modSyn_bundle (p : Nat) (f : Sync → Sync) : (s.modSyn p f).bundle = s.bundle := rfl
@[simp] theorem Block.modSyn_out (p : Nat) (f : Sync → Sync) : (s.modSyn p f).out = s.out := rfl
@[simp] theorem Block.modSyn_fv (p : Nat) (f : Sync → Sync) : (s.modSyn p f).fv = s.fv := rfl
@[simp] theorem Block.modSyn_part (p : Nat) (f : Sync → Sync) (a : Nat) : (s.modSyn p f).part a = s.part a := rfl
@[simp] theorem Block.modSyn_core (p : Nat) (f : Sync → Sync) (a b : Nat) : (s.modSyn p f).core a b = s.core a b := rfl
@[simp] theorem Block.modSyn_slot (p : Nat) (f : Sync → Sync) (a b c : Nat) : (s.modSyn p f).slot a b c = s.slot a b c := rfl
@[simp] theorem Block.modSyn_msc (p : Nat) (f : Sync → Sync) (a : Nat) : (s.modSyn p f).msc a = s.msc a := rfl
@[simp] theorem Block.modSyn_hbmc (p : Nat) (f : Sync → Sync) (a : Nat) : (s.modSyn p f).hbmc a = s.hbmc a := rfl
@[simp] theorem Block.modSyn_capc (p : Nat) (f : Sync → Sync) (a : Nat) : (s.modSyn p f).capc a = s.capc a := rfl
@[simp] theorem Block.modSyn_mmu (p : Nat) (f : Sync → Sync) (a : Nat) : (s.modSyn p f).mmu a = s.mmu a := rfl
@[simp] theorem Block.modSyn_port (p : Nat) (f : Sync → Sync) (a : Nat) : (s.modSyn p f).port a = s.port a := rfl
@[simp] theorem Block.modSyn_hdr (p : Nat) (f : Sync → Sync) (a : Page) : (s.modSyn p f).hdr a = s.hdr a := rfl
@[simp] theorem Block.modSyn_reg (p : Nat) (f : Sync → Sync) (a : Page) (b : Nat) : (s.modSyn p f).reg a b = s.reg a b := rfl
@[simp] theorem Block.modSyn_hp (p : Nat) (f : Sync → Sync) (a : Nat) : (s.modSyn p f).hp a = s.hp a := rfl
@[simp] theorem Block.modSyn_link (p : Nat) (f : Sync → Sync) (a : Nat) : (s.modSyn p f).link a = s.link a := rfl
@[simp] theorem Block.modSyn_eng (p : Nat) (f : Sync → Sync) (a b : Nat) : (s.modSyn p f).eng a b = s.eng a b := rfl
@[simp] theorem Block.modSyn_queue (p : Nat) (f : Sync → Sync) (a b : Nat) : (s.modSyn p f).queue a b = s.queue a b := rfl
@[simp] theorem Block.modSyn_rhost (p : Nat) (f : Sync → Sync) (a : Nat) : (s.modSyn p f).rhost a = s.rhost a := rfl
@[simp] theorem Block.modSyn_ring (p : Nat) (f : Sync → Sync) (a : Nat) : (s.modSyn p f).ring a = s.ring a := rfl
@[simp] theorem Block.modSyn_logOf (p : Nat) (f : Sync → Sync) (a : Page) (b : Nat) : (s.modSyn p f).logOf a b = s.logOf a b := rfl
@[simp] theorem Block.modSyn_causeSet (p : Nat) (f : Sync → Sync) (a : Page) (b : Nat) : (s.modSyn p f).causeSet a b = s.causeSet a b := rfl

/-! `modRing` -/
@[simp] theorem Block.modRing_timeUs (r : Nat) (f : Ring → Ring) : (s.modRing r f).timeUs = s.timeUs := rfl
@[simp] theorem Block.modRing_pages (r : Nat) (f : Ring → Ring) : (s.modRing r f).pages = s.pages := rfl
@[simp] theorem Block.modRing_regs (r : Nat) (f : Ring → Ring) : (s.modRing r f).regs = s.regs := rfl
@[simp] theorem Block.modRing_logs (r : Nat) (f : Ring → Ring) : (s.modRing r f).logs = s.logs := rfl
@[simp] theorem Block.modRing_frameBound (r : Nat) (f : Ring → Ring) : (s.modRing r f).frameBound = s.frameBound := rfl
@[simp] theorem Block.modRing_ram (r : Nat) (f : Ring → Ring) : (s.modRing r f).ram = s.ram := rfl
@[simp] theorem Block.modRing_merid (r : Nat) (f : Ring → Ring) : (s.modRing r f).merid = s.merid := rfl
@[simp] theorem Block.modRing_parts (r : Nat) (f : Ring → Ring) : (s.modRing r f).parts = s.parts := rfl
@[simp] theorem Block.modRing_cores (r : Nat) (f : Ring → Ring) : (s.modRing r f).cores = s.cores := rfl
@[simp] theorem Block.modRing_slots (r : Nat) (f : Ring → Ring) : (s.modRing r f).slots = s.slots := rfl
@[simp] theorem Block.modRing_tiers (r : Nat) (f : Ring → Ring) : (s.modRing r f).tiers = s.tiers := rfl
@[simp] theorem Block.modRing_mscs (r : Nat) (f : Ring → Ring) : (s.modRing r f).mscs = s.mscs := rfl
@[simp] theorem Block.modRing_hbmcs (r : Nat) (f : Ring → Ring) : (s.modRing r f).hbmcs = s.hbmcs := rfl
@[simp] theorem Block.modRing_capcs (r : Nat) (f : Ring → Ring) : (s.modRing r f).capcs = s.capcs := rfl
@[simp] theorem Block.modRing_mmus (r : Nat) (f : Ring → Ring) : (s.modRing r f).mmus = s.mmus := rfl
@[simp] theorem Block.modRing_syncs (r : Nat) (f : Ring → Ring) : (s.modRing r f).syncs = s.syncs := rfl
@[simp] theorem Block.modRing_links (r : Nat) (f : Ring → Ring) : (s.modRing r f).links = s.links := rfl
@[simp] theorem Block.modRing_routes (r : Nat) (f : Ring → Ring) : (s.modRing r f).routes = s.routes := rfl
@[simp] theorem Block.modRing_xu (r : Nat) (f : Ring → Ring) : (s.modRing r f).xu = s.xu := rfl
@[simp] theorem Block.modRing_engs (r : Nat) (f : Ring → Ring) : (s.modRing r f).engs = s.engs := rfl
@[simp] theorem Block.modRing_queues (r : Nat) (f : Ring → Ring) : (s.modRing r f).queues = s.queues := rfl
@[simp] theorem Block.modRing_coll (r : Nat) (f : Ring → Ring) : (s.modRing r f).coll = s.coll := rfl
@[simp] theorem Block.modRing_upd (r : Nat) (f : Ring → Ring) : (s.modRing r f).upd = { s.upd with rings := smMod {} s.upd.rings r f } := rfl
@[simp] theorem Block.modRing_eph (r : Nat) (f : Ring → Ring) : (s.modRing r f).eph = s.eph := rfl
@[simp] theorem Block.modRing_rhosts (r : Nat) (f : Ring → Ring) : (s.modRing r f).rhosts = s.rhosts := rfl
@[simp] theorem Block.modRing_helio (r : Nat) (f : Ring → Ring) : (s.modRing r f).helio = s.helio := rfl
@[simp] theorem Block.modRing_helioPs (r : Nat) (f : Ring → Ring) : (s.modRing r f).helioPs = s.helioPs := rfl
@[simp] theorem Block.modRing_vregs (r : Nat) (f : Ring → Ring) : (s.modRing r f).vregs = s.vregs := rfl
@[simp] theorem Block.modRing_boot (r : Nat) (f : Ring → Ring) : (s.modRing r f).boot = s.boot := rfl
@[simp] theorem Block.modRing_flash (r : Nat) (f : Ring → Ring) : (s.modRing r f).flash = s.flash := rfl
@[simp] theorem Block.modRing_poisonLatch (r : Nat) (f : Ring → Ring) : (s.modRing r f).poisonLatch = s.poisonLatch := rfl
@[simp] theorem Block.modRing_poisonFirst (r : Nat) (f : Ring → Ring) : (s.modRing r f).poisonFirst = s.poisonFirst := rfl
@[simp] theorem Block.modRing_poisonTick (r : Nat) (f : Ring → Ring) : (s.modRing r f).poisonTick = s.poisonTick := rfl
@[simp] theorem Block.modRing_warmDue (r : Nat) (f : Ring → Ring) : (s.modRing r f).warmDue = s.warmDue := rfl
@[simp] theorem Block.modRing_images (r : Nat) (f : Ring → Ring) : (s.modRing r f).images = s.images := rfl
@[simp] theorem Block.modRing_mirrors (r : Nat) (f : Ring → Ring) : (s.modRing r f).mirrors = s.mirrors := rfl
@[simp] theorem Block.modRing_pcie (r : Nat) (f : Ring → Ring) : (s.modRing r f).pcie = s.pcie := rfl
@[simp] theorem Block.modRing_mgmt (r : Nat) (f : Ring → Ring) : (s.modRing r f).mgmt = s.mgmt := rfl
@[simp] theorem Block.modRing_eyep (r : Nat) (f : Ring → Ring) : (s.modRing r f).eyep = s.eyep := rfl
@[simp] theorem Block.modRing_alm (r : Nat) (f : Ring → Ring) : (s.modRing r f).alm = s.alm := rfl
@[simp] theorem Block.modRing_feat (r : Nat) (f : Ring → Ring) : (s.modRing r f).feat = s.feat := rfl
@[simp] theorem Block.modRing_bundle (r : Nat) (f : Ring → Ring) : (s.modRing r f).bundle = s.bundle := rfl
@[simp] theorem Block.modRing_out (r : Nat) (f : Ring → Ring) : (s.modRing r f).out = s.out := rfl
@[simp] theorem Block.modRing_fv (r : Nat) (f : Ring → Ring) : (s.modRing r f).fv = s.fv := rfl
@[simp] theorem Block.modRing_part (r : Nat) (f : Ring → Ring) (a : Nat) : (s.modRing r f).part a = s.part a := rfl
@[simp] theorem Block.modRing_core (r : Nat) (f : Ring → Ring) (a b : Nat) : (s.modRing r f).core a b = s.core a b := rfl
@[simp] theorem Block.modRing_slot (r : Nat) (f : Ring → Ring) (a b c : Nat) : (s.modRing r f).slot a b c = s.slot a b c := rfl
@[simp] theorem Block.modRing_msc (r : Nat) (f : Ring → Ring) (a : Nat) : (s.modRing r f).msc a = s.msc a := rfl
@[simp] theorem Block.modRing_hbmc (r : Nat) (f : Ring → Ring) (a : Nat) : (s.modRing r f).hbmc a = s.hbmc a := rfl
@[simp] theorem Block.modRing_capc (r : Nat) (f : Ring → Ring) (a : Nat) : (s.modRing r f).capc a = s.capc a := rfl
@[simp] theorem Block.modRing_mmu (r : Nat) (f : Ring → Ring) (a : Nat) : (s.modRing r f).mmu a = s.mmu a := rfl
@[simp] theorem Block.modRing_port (r : Nat) (f : Ring → Ring) (a : Nat) : (s.modRing r f).port a = s.port a := rfl
@[simp] theorem Block.modRing_hdr (r : Nat) (f : Ring → Ring) (a : Page) : (s.modRing r f).hdr a = s.hdr a := rfl
@[simp] theorem Block.modRing_reg (r : Nat) (f : Ring → Ring) (a : Page) (b : Nat) : (s.modRing r f).reg a b = s.reg a b := rfl
@[simp] theorem Block.modRing_syn (r : Nat) (f : Ring → Ring) (a : Nat) : (s.modRing r f).syn a = s.syn a := rfl
@[simp] theorem Block.modRing_hp (r : Nat) (f : Ring → Ring) (a : Nat) : (s.modRing r f).hp a = s.hp a := rfl
@[simp] theorem Block.modRing_link (r : Nat) (f : Ring → Ring) (a : Nat) : (s.modRing r f).link a = s.link a := rfl
@[simp] theorem Block.modRing_eng (r : Nat) (f : Ring → Ring) (a b : Nat) : (s.modRing r f).eng a b = s.eng a b := rfl
@[simp] theorem Block.modRing_queue (r : Nat) (f : Ring → Ring) (a b : Nat) : (s.modRing r f).queue a b = s.queue a b := rfl
@[simp] theorem Block.modRing_rhost (r : Nat) (f : Ring → Ring) (a : Nat) : (s.modRing r f).rhost a = s.rhost a := rfl
@[simp] theorem Block.modRing_logOf (r : Nat) (f : Ring → Ring) (a : Page) (b : Nat) : (s.modRing r f).logOf a b = s.logOf a b := rfl
@[simp] theorem Block.modRing_causeSet (r : Nat) (f : Ring → Ring) (a : Page) (b : Nat) : (s.modRing r f).causeSet a b = s.causeSet a b := rfl

/-! `modRhost` -/
@[simp] theorem Block.modRhost_timeUs (h : Nat) (f : RHost → RHost) : (s.modRhost h f).timeUs = s.timeUs := rfl
@[simp] theorem Block.modRhost_pages (h : Nat) (f : RHost → RHost) : (s.modRhost h f).pages = s.pages := rfl
@[simp] theorem Block.modRhost_regs (h : Nat) (f : RHost → RHost) : (s.modRhost h f).regs = s.regs := rfl
@[simp] theorem Block.modRhost_logs (h : Nat) (f : RHost → RHost) : (s.modRhost h f).logs = s.logs := rfl
@[simp] theorem Block.modRhost_frameBound (h : Nat) (f : RHost → RHost) : (s.modRhost h f).frameBound = s.frameBound := rfl
@[simp] theorem Block.modRhost_ram (h : Nat) (f : RHost → RHost) : (s.modRhost h f).ram = s.ram := rfl
@[simp] theorem Block.modRhost_merid (h : Nat) (f : RHost → RHost) : (s.modRhost h f).merid = s.merid := rfl
@[simp] theorem Block.modRhost_parts (h : Nat) (f : RHost → RHost) : (s.modRhost h f).parts = s.parts := rfl
@[simp] theorem Block.modRhost_cores (h : Nat) (f : RHost → RHost) : (s.modRhost h f).cores = s.cores := rfl
@[simp] theorem Block.modRhost_slots (h : Nat) (f : RHost → RHost) : (s.modRhost h f).slots = s.slots := rfl
@[simp] theorem Block.modRhost_tiers (h : Nat) (f : RHost → RHost) : (s.modRhost h f).tiers = s.tiers := rfl
@[simp] theorem Block.modRhost_mscs (h : Nat) (f : RHost → RHost) : (s.modRhost h f).mscs = s.mscs := rfl
@[simp] theorem Block.modRhost_hbmcs (h : Nat) (f : RHost → RHost) : (s.modRhost h f).hbmcs = s.hbmcs := rfl
@[simp] theorem Block.modRhost_capcs (h : Nat) (f : RHost → RHost) : (s.modRhost h f).capcs = s.capcs := rfl
@[simp] theorem Block.modRhost_mmus (h : Nat) (f : RHost → RHost) : (s.modRhost h f).mmus = s.mmus := rfl
@[simp] theorem Block.modRhost_syncs (h : Nat) (f : RHost → RHost) : (s.modRhost h f).syncs = s.syncs := rfl
@[simp] theorem Block.modRhost_links (h : Nat) (f : RHost → RHost) : (s.modRhost h f).links = s.links := rfl
@[simp] theorem Block.modRhost_routes (h : Nat) (f : RHost → RHost) : (s.modRhost h f).routes = s.routes := rfl
@[simp] theorem Block.modRhost_xu (h : Nat) (f : RHost → RHost) : (s.modRhost h f).xu = s.xu := rfl
@[simp] theorem Block.modRhost_engs (h : Nat) (f : RHost → RHost) : (s.modRhost h f).engs = s.engs := rfl
@[simp] theorem Block.modRhost_queues (h : Nat) (f : RHost → RHost) : (s.modRhost h f).queues = s.queues := rfl
@[simp] theorem Block.modRhost_coll (h : Nat) (f : RHost → RHost) : (s.modRhost h f).coll = s.coll := rfl
@[simp] theorem Block.modRhost_upd (h : Nat) (f : RHost → RHost) : (s.modRhost h f).upd = s.upd := rfl
@[simp] theorem Block.modRhost_eph (h : Nat) (f : RHost → RHost) : (s.modRhost h f).eph = s.eph := rfl
@[simp] theorem Block.modRhost_rhosts (h : Nat) (f : RHost → RHost) : (s.modRhost h f).rhosts = smMod {} s.rhosts h f := rfl
@[simp] theorem Block.modRhost_helio (h : Nat) (f : RHost → RHost) : (s.modRhost h f).helio = s.helio := rfl
@[simp] theorem Block.modRhost_helioPs (h : Nat) (f : RHost → RHost) : (s.modRhost h f).helioPs = s.helioPs := rfl
@[simp] theorem Block.modRhost_vregs (h : Nat) (f : RHost → RHost) : (s.modRhost h f).vregs = s.vregs := rfl
@[simp] theorem Block.modRhost_boot (h : Nat) (f : RHost → RHost) : (s.modRhost h f).boot = s.boot := rfl
@[simp] theorem Block.modRhost_flash (h : Nat) (f : RHost → RHost) : (s.modRhost h f).flash = s.flash := rfl
@[simp] theorem Block.modRhost_poisonLatch (h : Nat) (f : RHost → RHost) : (s.modRhost h f).poisonLatch = s.poisonLatch := rfl
@[simp] theorem Block.modRhost_poisonFirst (h : Nat) (f : RHost → RHost) : (s.modRhost h f).poisonFirst = s.poisonFirst := rfl
@[simp] theorem Block.modRhost_poisonTick (h : Nat) (f : RHost → RHost) : (s.modRhost h f).poisonTick = s.poisonTick := rfl
@[simp] theorem Block.modRhost_warmDue (h : Nat) (f : RHost → RHost) : (s.modRhost h f).warmDue = s.warmDue := rfl
@[simp] theorem Block.modRhost_images (h : Nat) (f : RHost → RHost) : (s.modRhost h f).images = s.images := rfl
@[simp] theorem Block.modRhost_mirrors (h : Nat) (f : RHost → RHost) : (s.modRhost h f).mirrors = s.mirrors := rfl
@[simp] theorem Block.modRhost_pcie (h : Nat) (f : RHost → RHost) : (s.modRhost h f).pcie = s.pcie := rfl
@[simp] theorem Block.modRhost_mgmt (h : Nat) (f : RHost → RHost) : (s.modRhost h f).mgmt = s.mgmt := rfl
@[simp] theorem Block.modRhost_eyep (h : Nat) (f : RHost → RHost) : (s.modRhost h f).eyep = s.eyep := rfl
@[simp] theorem Block.modRhost_alm (h : Nat) (f : RHost → RHost) : (s.modRhost h f).alm = s.alm := rfl
@[simp] theorem Block.modRhost_feat (h : Nat) (f : RHost → RHost) : (s.modRhost h f).feat = s.feat := rfl
@[simp] theorem Block.modRhost_bundle (h : Nat) (f : RHost → RHost) : (s.modRhost h f).bundle = s.bundle := rfl
@[simp] theorem Block.modRhost_out (h : Nat) (f : RHost → RHost) : (s.modRhost h f).out = s.out := rfl
@[simp] theorem Block.modRhost_fv (h : Nat) (f : RHost → RHost) : (s.modRhost h f).fv = s.fv := rfl
@[simp] theorem Block.modRhost_part (h : Nat) (f : RHost → RHost) (a : Nat) : (s.modRhost h f).part a = s.part a := rfl
@[simp] theorem Block.modRhost_core (h : Nat) (f : RHost → RHost) (a b : Nat) : (s.modRhost h f).core a b = s.core a b := rfl
@[simp] theorem Block.modRhost_slot (h : Nat) (f : RHost → RHost) (a b c : Nat) : (s.modRhost h f).slot a b c = s.slot a b c := rfl
@[simp] theorem Block.modRhost_msc (h : Nat) (f : RHost → RHost) (a : Nat) : (s.modRhost h f).msc a = s.msc a := rfl
@[simp] theorem Block.modRhost_hbmc (h : Nat) (f : RHost → RHost) (a : Nat) : (s.modRhost h f).hbmc a = s.hbmc a := rfl
@[simp] theorem Block.modRhost_capc (h : Nat) (f : RHost → RHost) (a : Nat) : (s.modRhost h f).capc a = s.capc a := rfl
@[simp] theorem Block.modRhost_mmu (h : Nat) (f : RHost → RHost) (a : Nat) : (s.modRhost h f).mmu a = s.mmu a := rfl
@[simp] theorem Block.modRhost_port (h : Nat) (f : RHost → RHost) (a : Nat) : (s.modRhost h f).port a = s.port a := rfl
@[simp] theorem Block.modRhost_hdr (h : Nat) (f : RHost → RHost) (a : Page) : (s.modRhost h f).hdr a = s.hdr a := rfl
@[simp] theorem Block.modRhost_reg (h : Nat) (f : RHost → RHost) (a : Page) (b : Nat) : (s.modRhost h f).reg a b = s.reg a b := rfl
@[simp] theorem Block.modRhost_syn (h : Nat) (f : RHost → RHost) (a : Nat) : (s.modRhost h f).syn a = s.syn a := rfl
@[simp] theorem Block.modRhost_hp (h : Nat) (f : RHost → RHost) (a : Nat) : (s.modRhost h f).hp a = s.hp a := rfl
@[simp] theorem Block.modRhost_link (h : Nat) (f : RHost → RHost) (a : Nat) : (s.modRhost h f).link a = s.link a := rfl
@[simp] theorem Block.modRhost_eng (h : Nat) (f : RHost → RHost) (a b : Nat) : (s.modRhost h f).eng a b = s.eng a b := rfl
@[simp] theorem Block.modRhost_queue (h : Nat) (f : RHost → RHost) (a b : Nat) : (s.modRhost h f).queue a b = s.queue a b := rfl
@[simp] theorem Block.modRhost_ring (h : Nat) (f : RHost → RHost) (a : Nat) : (s.modRhost h f).ring a = s.ring a := rfl
@[simp] theorem Block.modRhost_logOf (h : Nat) (f : RHost → RHost) (a : Page) (b : Nat) : (s.modRhost h f).logOf a b = s.logOf a b := rfl
@[simp] theorem Block.modRhost_causeSet (h : Nat) (f : RHost → RHost) (a : Page) (b : Nat) : (s.modRhost h f).causeSet a b = s.causeSet a b := rfl

/-! The whole state. -/

@[simp] theorem State.withBlk_blk (s : State) (b : Block) : (s.withBlk b).blk = b := rfl
@[simp] theorem State.withBlk_pending (s : State) (b : Block) : (s.withBlk b).pending = s.pending := rfl
@[simp] theorem State.onBlock_eq (s : State) (f : Block → Block) : s.onBlock f = .next (s.withBlk (f s.blk)) := rfl

end Sys2Proof.Machine
end

