-- ==== Sys2Proof/Laws/Ops.lean ====
section
/-! SUPPORT. What each shared operation can change, said once: an equation whose right side is the block with only the fields the
operation may write; then one lemma for each field it leaves. -/

/- One theorem at a time: elaborated at once, each takes a thread with a stack of its own. -/
set_option Elab.async false

namespace Sys2Proof.Machine

variable (s : Block)

/-- What `modIrq` may change. -/
theorem Block.modIrq_only (pg : Page) (f : PageHdr → PageHdr) :
    s.modIrq pg f =
      { s with pages := (s.modIrq pg f).pages, out := (s.modIrq pg f).out } := by
  unfold Block.modIrq Block.modHdr Block.emit
  dsimp only
  split_ifs <;> rfl

@[simp] theorem Block.modIrq_timeUs (pg : Page) (f : PageHdr → PageHdr) : (s.modIrq pg f).timeUs = s.timeUs := by rw [Block.modIrq_only]
@[simp] theorem Block.modIrq_regs (pg : Page) (f : PageHdr → PageHdr) : (s.modIrq pg f).regs = s.regs := by rw [Block.modIrq_only]
@[simp] theorem Block.modIrq_logs (pg : Page) (f : PageHdr → PageHdr) : (s.modIrq pg f).logs = s.logs := by rw [Block.modIrq_only]
@[simp] theorem Block.modIrq_frameBound (pg : Page) (f : PageHdr → PageHdr) : (s.modIrq pg f).frameBound = s.frameBound := by rw [Block.modIrq_only]
@[simp] theorem Block.modIrq_ram (pg : Page) (f : PageHdr → PageHdr) : (s.modIrq pg f).ram = s.ram := by rw [Block.modIrq_only]
@[simp] theorem Block.modIrq_merid (pg : Page) (f : PageHdr → PageHdr) : (s.modIrq pg f).merid = s.merid := by rw [Block.modIrq_only]
@[simp] theorem Block.modIrq_parts (pg : Page) (f : PageHdr → PageHdr) : (s.modIrq pg f).parts = s.parts := by rw [Block.modIrq_only]
@[simp] theorem Block.modIrq_cores (pg : Page) (f : PageHdr → PageHdr) : (s.modIrq pg f).cores = s.cores := by rw [Block.modIrq_only]
@[simp] theorem Block.modIrq_slots (pg : Page) (f : PageHdr → PageHdr) : (s.modIrq pg f).slots = s.slots := by rw [Block.modIrq_only]
@[simp] theorem Block.modIrq_tiers (pg : Page) (f : PageHdr → PageHdr) : (s.modIrq pg f).tiers = s.tiers := by rw [Block.modIrq_only]
@[simp] theorem Block.modIrq_mscs (pg : Page) (f : PageHdr → PageHdr) : (s.modIrq pg f).mscs = s.mscs := by rw [Block.modIrq_only]
@[simp] theorem Block.modIrq_hbmcs (pg : Page) (f : PageHdr → PageHdr) : (s.modIrq pg f).hbmcs = s.hbmcs := by rw [Block.modIrq_only]
@[simp] theorem Block.modIrq_capcs (pg : Page) (f : PageHdr → PageHdr) : (s.modIrq pg f).capcs = s.capcs := by rw [Block.modIrq_only]
@[simp] theorem Block.modIrq_mmus (pg : Page) (f : PageHdr → PageHdr) : (s.modIrq pg f).mmus = s.mmus := by rw [Block.modIrq_only]
@[simp] theorem Block.modIrq_syncs (pg : Page) (f : PageHdr → PageHdr) : (s.modIrq pg f).syncs = s.syncs := by rw [Block.modIrq_only]
@[simp] theorem Block.modIrq_links (pg : Page) (f : PageHdr → PageHdr) : (s.modIrq pg f).links = s.links := by rw [Block.modIrq_only]
@[simp] theorem Block.modIrq_routes (pg : Page) (f : PageHdr → PageHdr) : (s.modIrq pg f).routes = s.routes := by rw [Block.modIrq_only]
@[simp] theorem Block.modIrq_xu (pg : Page) (f : PageHdr → PageHdr) : (s.modIrq pg f).xu = s.xu := by rw [Block.modIrq_only]
@[simp] theorem Block.modIrq_engs (pg : Page) (f : PageHdr → PageHdr) : (s.modIrq pg f).engs = s.engs := by rw [Block.modIrq_only]
@[simp] theorem Block.modIrq_queues (pg : Page) (f : PageHdr → PageHdr) : (s.modIrq pg f).queues = s.queues := by rw [Block.modIrq_only]
@[simp] theorem Block.modIrq_coll (pg : Page) (f : PageHdr → PageHdr) : (s.modIrq pg f).coll = s.coll := by rw [Block.modIrq_only]
@[simp] theorem Block.modIrq_upd (pg : Page) (f : PageHdr → PageHdr) : (s.modIrq pg f).upd = s.upd := by rw [Block.modIrq_only]
@[simp] theorem Block.modIrq_eph (pg : Page) (f : PageHdr → PageHdr) : (s.modIrq pg f).eph = s.eph := by rw [Block.modIrq_only]
@[simp] theorem Block.modIrq_rhosts (pg : Page) (f : PageHdr → PageHdr) : (s.modIrq pg f).rhosts = s.rhosts := by rw [Block.modIrq_only]
@[simp] theorem Block.modIrq_helio (pg : Page) (f : PageHdr → PageHdr) : (s.modIrq pg f).helio = s.helio := by rw [Block.modIrq_only]
@[simp] theorem Block.modIrq_helioPs (pg : Page) (f : PageHdr → PageHdr) : (s.modIrq pg f).helioPs = s.helioPs := by rw [Block.modIrq_only]
@[simp] theorem Block.modIrq_vregs (pg : Page) (f : PageHdr → PageHdr) : (s.modIrq pg f).vregs = s.vregs := by rw [Block.modIrq_only]
@[simp] theorem Block.modIrq_boot (pg : Page) (f : PageHdr → PageHdr) : (s.modIrq pg f).boot = s.boot := by rw [Block.modIrq_only]
@[simp] theorem Block.modIrq_flash (pg : Page) (f : PageHdr → PageHdr) : (s.modIrq pg f).flash = s.flash := by rw [Block.modIrq_only]
@[simp] theorem Block.modIrq_poisonLatch (pg : Page) (f : PageHdr → PageHdr) : (s.modIrq pg f).poisonLatch = s.poisonLatch := by rw [Block.modIrq_only]
@[simp] theorem Block.modIrq_poisonFirst (pg : Page) (f : PageHdr → PageHdr) : (s.modIrq pg f).poisonFirst = s.poisonFirst := by rw [Block.modIrq_only]
@[simp] theorem Block.modIrq_poisonTick (pg : Page) (f : PageHdr → PageHdr) : (s.modIrq pg f).poisonTick = s.poisonTick := by rw [Block.modIrq_only]
@[simp] theorem Block.modIrq_warmDue (pg : Page) (f : PageHdr → PageHdr) : (s.modIrq pg f).warmDue = s.warmDue := by rw [Block.modIrq_only]
@[simp] theorem Block.modIrq_images (pg : Page) (f : PageHdr → PageHdr) : (s.modIrq pg f).images = s.images := by rw [Block.modIrq_only]
@[simp] theorem Block.modIrq_mirrors (pg : Page) (f : PageHdr → PageHdr) : (s.modIrq pg f).mirrors = s.mirrors := by rw [Block.modIrq_only]
@[simp] theorem Block.modIrq_pcie (pg : Page) (f : PageHdr → PageHdr) : (s.modIrq pg f).pcie = s.pcie := by rw [Block.modIrq_only]
@[simp] theorem Block.modIrq_mgmt (pg : Page) (f : PageHdr → PageHdr) : (s.modIrq pg f).mgmt = s.mgmt := by rw [Block.modIrq_only]
@[simp] theorem Block.modIrq_eyep (pg : Page) (f : PageHdr → PageHdr) : (s.modIrq pg f).eyep = s.eyep := by rw [Block.modIrq_only]
@[simp] theorem Block.modIrq_alm (pg : Page) (f : PageHdr → PageHdr) : (s.modIrq pg f).alm = s.alm := by rw [Block.modIrq_only]
@[simp] theorem Block.modIrq_feat (pg : Page) (f : PageHdr → PageHdr) : (s.modIrq pg f).feat = s.feat := by rw [Block.modIrq_only]
@[simp] theorem Block.modIrq_bundle (pg : Page) (f : PageHdr → PageHdr) : (s.modIrq pg f).bundle = s.bundle := by rw [Block.modIrq_only]
@[simp] theorem Block.modIrq_fv (pg : Page) (f : PageHdr → PageHdr) : (s.modIrq pg f).fv = s.fv := by rw [Block.modIrq_only]
@[simp] theorem Block.modIrq_part (pg : Page) (f : PageHdr → PageHdr) (a : Nat) : (s.modIrq pg f).part a = s.part a := by
  rw [Block.modIrq_only]; rfl
@[simp] theorem Block.modIrq_core (pg : Page) (f : PageHdr → PageHdr) (a b : Nat) : (s.modIrq pg f).core a b = s.core a b := by
  rw [Block.modIrq_only]; rfl
@[simp] theorem Block.modIrq_slot (pg : Page) (f : PageHdr → PageHdr) (a b c : Nat) : (s.modIrq pg f).slot a b c = s.slot a b c := by
  rw [Block.modIrq_only]; rfl
@[simp] theorem Block.modIrq_msc (pg : Page) (f : PageHdr → PageHdr) (a : Nat) : (s.modIrq pg f).msc a = s.msc a := by
  rw [Block.modIrq_only]; rfl
@[simp] theorem Block.modIrq_hbmc (pg : Page) (f : PageHdr → PageHdr) (a : Nat) : (s.modIrq pg f).hbmc a = s.hbmc a := by
  rw [Block.modIrq_only]; rfl
@[simp] theorem Block.modIrq_capc (pg : Page) (f : PageHdr → PageHdr) (a : Nat) : (s.modIrq pg f).capc a = s.capc a := by
  rw [Block.modIrq_only]; rfl
@[simp] theorem Block.modIrq_mmu (pg : Page) (f : PageHdr → PageHdr) (a : Nat) : (s.modIrq pg f).mmu a = s.mmu a := by
  rw [Block.modIrq_only]; rfl
@[simp] theorem Block.modIrq_port (pg : Page) (f : PageHdr → PageHdr) (a : Nat) : (s.modIrq pg f).port a = s.port a := by
  rw [Block.modIrq_only]; rfl
@[simp] theorem Block.modIrq_reg (pg : Page) (f : PageHdr → PageHdr) (a : Page) (b : Nat) : (s.modIrq pg f).reg a b = s.reg a b := by
  rw [Block.modIrq_only]; rfl
@[simp] theorem Block.modIrq_syn (pg : Page) (f : PageHdr → PageHdr) (a : Nat) : (s.modIrq pg f).syn a = s.syn a := by
  rw [Block.modIrq_only]; rfl
@[simp] theorem Block.modIrq_hp (pg : Page) (f : PageHdr → PageHdr) (a : Nat) : (s.modIrq pg f).hp a = s.hp a := by
  rw [Block.modIrq_only]; rfl
@[simp] theorem Block.modIrq_link (pg : Page) (f : PageHdr → PageHdr) (a : Nat) : (s.modIrq pg f).link a = s.link a := by
  rw [Block.modIrq_only]; rfl
@[simp] theorem Block.modIrq_eng (pg : Page) (f : PageHdr → PageHdr) (a b : Nat) : (s.modIrq pg f).eng a b = s.eng a b := by
  rw [Block.modIrq_only]; rfl
@[simp] theorem Block.modIrq_queue (pg : Page) (f : PageHdr → PageHdr) (a b : Nat) : (s.modIrq pg f).queue a b = s.queue a b := by
  rw [Block.modIrq_only]; rfl
@[simp] theorem Block.modIrq_rhost (pg : Page) (f : PageHdr → PageHdr) (a : Nat) : (s.modIrq pg f).rhost a = s.rhost a := by
  rw [Block.modIrq_only]; rfl
@[simp] theorem Block.modIrq_ring (pg : Page) (f : PageHdr → PageHdr) (a : Nat) : (s.modIrq pg f).ring a = s.ring a := by
  rw [Block.modIrq_only]; rfl
@[simp] theorem Block.modIrq_logOf (pg : Page) (f : PageHdr → PageHdr) (a : Page) (b : Nat) : (s.modIrq pg f).logOf a b = s.logOf a b := by
  rw [Block.modIrq_only]; rfl

/-- What `log` may change. -/
theorem Block.log_only (pg : Page) (n : Nat) :
    s.log pg n =
      { s with pages := (s.log pg n).pages, logs := (s.log pg n).logs, out := (s.log pg n).out } := by
  unfold Block.log
  dsimp only
  split_ifs <;> first | rfl | (rw [Block.modIrq_only]; done)

@[simp] theorem Block.log_timeUs (pg : Page) (n : Nat) : (s.log pg n).timeUs = s.timeUs := by rw [Block.log_only]
@[simp] theorem Block.log_regs (pg : Page) (n : Nat) : (s.log pg n).regs = s.regs := by rw [Block.log_only]
@[simp] theorem Block.log_frameBound (pg : Page) (n : Nat) : (s.log pg n).frameBound = s.frameBound := by rw [Block.log_only]
@[simp] theorem Block.log_ram (pg : Page) (n : Nat) : (s.log pg n).ram = s.ram := by rw [Block.log_only]
@[simp] theorem Block.log_merid (pg : Page) (n : Nat) : (s.log pg n).merid = s.merid := by rw [Block.log_only]
@[simp] theorem Block.log_parts (pg : Page) (n : Nat) : (s.log pg n).parts = s.parts := by rw [Block.log_only]
@[simp] theorem Block.log_cores (pg : Page) (n : Nat) : (s.log pg n).cores = s.cores := by rw [Block.log_only]
@[simp] theorem Block.log_slots (pg : Page) (n : Nat) : (s.log pg n).slots = s.slots := by rw [Block.log_only]
@[simp] theorem Block.log_tiers (pg : Page) (n : Nat) : (s.log pg n).tiers = s.tiers := by rw [Block.log_only]
@[simp] theorem Block.log_mscs (pg : Page) (n : Nat) : (s.log pg n).mscs = s.mscs := by rw [Block.log_only]
@[simp] theorem Block.log_hbmcs (pg : Page) (n : Nat) : (s.log pg n).hbmcs = s.hbmcs := by rw [Block.log_only]
@[simp] theorem Block.log_capcs (pg : Page) (n : Nat) : (s.log pg n).capcs = s.capcs := by rw [Block.log_only]
@[simp] theorem Block.log_mmus (pg : Page) (n : Nat) : (s.log pg n).mmus = s.mmus := by rw [Block.log_only]
@[simp] theorem Block.log_syncs (pg : Page) (n : Nat) : (s.log pg n).syncs = s.syncs := by rw [Block.log_only]
@[simp] theorem Block.log_links (pg : Page) (n : Nat) : (s.log pg n).links = s.links := by rw [Block.log_only]
@[simp] theorem Block.log_routes (pg : Page) (n : Nat) : (s.log pg n).routes = s.routes := by rw [Block.log_only]
@[simp] theorem Block.log_xu (pg : Page) (n : Nat) : (s.log pg n).xu = s.xu := by rw [Block.log_only]
@[simp] theorem Block.log_engs (pg : Page) (n : Nat) : (s.log pg n).engs = s.engs := by rw [Block.log_only]
@[simp] theorem Block.log_queues (pg : Page) (n : Nat) : (s.log pg n).queues = s.queues := by rw [Block.log_only]
@[simp] theorem Block.log_coll (pg : Page) (n : Nat) : (s.log pg n).coll = s.coll := by rw [Block.log_only]
@[simp] theorem Block.log_upd (pg : Page) (n : Nat) : (s.log pg n).upd = s.upd := by rw [Block.log_only]
@[simp] theorem Block.log_eph (pg : Page) (n : Nat) : (s.log pg n).eph = s.eph := by rw [Block.log_only]
@[simp] theorem Block.log_rhosts (pg : Page) (n : Nat) : (s.log pg n).rhosts = s.rhosts := by rw [Block.log_only]
@[simp] theorem Block.log_helio (pg : Page) (n : Nat) : (s.log pg n).helio = s.helio := by rw [Block.log_only]
@[simp] theorem Block.log_helioPs (pg : Page) (n : Nat) : (s.log pg n).helioPs = s.helioPs := by rw [Block.log_only]
@[simp] theorem Block.log_vregs (pg : Page) (n : Nat) : (s.log pg n).vregs = s.vregs := by rw [Block.log_only]
@[simp] theorem Block.log_boot (pg : Page) (n : Nat) : (s.log pg n).boot = s.boot := by rw [Block.log_only]
@[simp] theorem Block.log_flash (pg : Page) (n : Nat) : (s.log pg n).flash = s.flash := by rw [Block.log_only]
@[simp] theorem Block.log_poisonLatch (pg : Page) (n : Nat) : (s.log pg n).poisonLatch = s.poisonLatch := by rw [Block.log_only]
@[simp] theorem Block.log_poisonFirst (pg : Page) (n : Nat) : (s.log pg n).poisonFirst = s.poisonFirst := by rw [Block.log_only]
@[simp] theorem Block.log_poisonTick (pg : Page) (n : Nat) : (s.log pg n).poisonTick = s.poisonTick := by rw [Block.log_only]
@[simp] theorem Block.log_warmDue (pg : Page) (n : Nat) : (s.log pg n).warmDue = s.warmDue := by rw [Block.log_only]
@[simp] theorem Block.log_images (pg : Page) (n : Nat) : (s.log pg n).images = s.images := by rw [Block.log_only]
@[simp] theorem Block.log_mirrors (pg : Page) (n : Nat) : (s.log pg n).mirrors = s.mirrors := by rw [Block.log_only]
@[simp] theorem Block.log_pcie (pg : Page) (n : Nat) : (s.log pg n).pcie = s.pcie := by rw [Block.log_only]
@[simp] theorem Block.log_mgmt (pg : Page) (n : Nat) : (s.log pg n).mgmt = s.mgmt := by rw [Block.log_only]
@[simp] theorem Block.log_eyep (pg : Page) (n : Nat) : (s.log pg n).eyep = s.eyep := by rw [Block.log_only]
@[simp] theorem Block.log_alm (pg : Page) (n : Nat) : (s.log pg n).alm = s.alm := by rw [Block.log_only]
@[simp] theorem Block.log_feat (pg : Page) (n : Nat) : (s.log pg n).feat = s.feat := by rw [Block.log_only]
@[simp] theorem Block.log_bundle (pg : Page) (n : Nat) : (s.log pg n).bundle = s.bundle := by rw [Block.log_only]
@[simp] theorem Block.log_fv (pg : Page) (n : Nat) : (s.log pg n).fv = s.fv := by rw [Block.log_only]
@[simp] theorem Block.log_part (pg : Page) (n : Nat) (a : Nat) : (s.log pg n).part a = s.part a := by
  rw [Block.log_only]; rfl
@[simp] theorem Block.log_core (pg : Page) (n : Nat) (a b : Nat) : (s.log pg n).core a b = s.core a b := by
  rw [Block.log_only]; rfl
@[simp] theorem Block.log_slot (pg : Page) (n : Nat) (a b c : Nat) : (s.log pg n).slot a b c = s.slot a b c := by
  rw [Block.log_only]; rfl
@[simp] theorem Block.log_msc (pg : Page) (n : Nat) (a : Nat) : (s.log pg n).msc a = s.msc a := by
  rw [Block.log_only]; rfl
@[simp] theorem Block.log_hbmc (pg : Page) (n : Nat) (a : Nat) : (s.log pg n).hbmc a = s.hbmc a := by
  rw [Block.log_only]; rfl
@[simp] theorem Block.log_capc (pg : Page) (n : Nat) (a : Nat) : (s.log pg n).capc a = s.capc a := by
  rw [Block.log_only]; rfl
@[simp] theorem Block.log_mmu (pg : Page) (n : Nat) (a : Nat) : (s.log pg n).mmu a = s.mmu a := by
  rw [Block.log_only]; rfl
@[simp] theorem Block.log_port (pg : Page) (n : Nat) (a : Nat) : (s.log pg n).port a = s.port a := by
  rw [Block.log_only]; rfl
@[simp] theorem Block.log_reg (pg : Page) (n : Nat) (a : Page) (b : Nat) : (s.log pg n).reg a b = s.reg a b := by
  rw [Block.log_only]; rfl
@[simp] theorem Block.log_syn (pg : Page) (n : Nat) (a : Nat) : (s.log pg n).syn a = s.syn a := by
  rw [Block.log_only]; rfl
@[simp] theorem Block.log_hp (pg : Page) (n : Nat) (a : Nat) : (s.log pg n).hp a = s.hp a := by
  rw [Block.log_only]; rfl
@[simp] theorem Block.log_link (pg : Page) (n : Nat) (a : Nat) : (s.log pg n).link a = s.link a := by
  rw [Block.log_only]; rfl
@[simp] theorem Block.log_eng (pg : Page) (n : Nat) (a b : Nat) : (s.log pg n).eng a b = s.eng a b := by
  rw [Block.log_only]; rfl
@[simp] theorem Block.log_queue (pg : Page) (n : Nat) (a b : Nat) : (s.log pg n).queue a b = s.queue a b := by
  rw [Block.log_only]; rfl
@[simp] theorem Block.log_rhost (pg : Page) (n : Nat) (a : Nat) : (s.log pg n).rhost a = s.rhost a := by
  rw [Block.log_only]; rfl
@[simp] theorem Block.log_ring (pg : Page) (n : Nat) (a : Nat) : (s.log pg n).ring a = s.ring a := by
  rw [Block.log_only]; rfl

/-! A write to memory at its home changes memory, the controllers on the way and their Logbook counters. -/

/-- The block without what a write to memory may change. -/
def Block.tierRest (s : Block) : Block :=
  { s with pages := [], logs := [], ram := {}, mscs := [], hbmcs := [], capcs := [], out := [] }

/-- Blocks with the same rest differ only in what a write to memory may change. -/
theorem Block.eq_of_tierRest {s t : Block} (h : t.tierRest = s.tierRest) :
    t = { s with pages := t.pages, logs := t.logs, ram := t.ram, mscs := t.mscs, hbmcs := t.hbmcs, capcs := t.capcs,
                 out := t.out } := by
  cases s
  cases t
  simp only [Block.tierRest, Block.mk.injEq] at h ⊢
  simp [h]

/-- A fold whose every step leaves the rest leaves the rest. -/
theorem foldl_tierRest {β : Type} (f : Block → β → Block) (hf : ∀ s b, (f s b).tierRest = s.tierRest) (l : List β) (s : Block) :
    (l.foldl f s).tierRest = s.tierRest := by
  induction l generalizing s with
  | nil => rfl
  | cons b t ih => exact (ih _).trans (hf s b)

@[simp] theorem Block.modMsc_tierRest (p : Nat) (f : Msc → Msc) : (s.modMsc p f).tierRest = s.tierRest := rfl
@[simp] theorem Block.modHbmc_tierRest (p : Nat) (f : Hbmc → Hbmc) : (s.modHbmc p f).tierRest = s.tierRest := rfl
@[simp] theorem Block.modCapc_tierRest (d : Nat) (f : Capc → Capc) : (s.modCapc d f).tierRest = s.tierRest := rfl
@[simp] theorem Block.hbmErr_tierRest (p k y x : Nat) : (s.hbmErr p k y x).tierRest = s.tierRest := rfl
@[simp] theorem Block.capErr_tierRest (d k y x : Nat) : (s.capErr d k y x).tierRest = s.tierRest := rfl
@[simp] theorem Block.modLine_tierRest (p k : Nat) (f : MLine → MLine) : (s.modLine p k f).tierRest = s.tierRest := rfl
@[simp] theorem Block.touch_tierRest (p k : Nat) : (s.touch p k).tierRest = s.tierRest := rfl
@[simp] theorem Block.lineWrite_tierRest (p k x : Nat) (bs : List Nat) (po : Bool) :
    (s.lineWrite p k x bs po).tierRest = s.tierRest := rfl
@[simp] theorem Block.ram_tierRest (r : Ram) : ({ s with ram := r } : Block).tierRest = s.tierRest := rfl

@[simp] theorem Block.log_tierRest (pg : Page) (n : Nat) : (s.log pg n).tierRest = s.tierRest := by rw [Block.log_only]; rfl

@[simp] theorem Block.logN_tierRest (pg : Page) (n k : Nat) : (s.logN pg n k).tierRest = s.tierRest := by
  unfold Block.logN
  dsimp only
  split_ifs <;> first | rfl | (rw [Block.modIrq_only]; rfl)

@[simp] theorem Block.hbmRead_tierRest (p x n : Nat) : (s.hbmRead p x n).tierRest = s.tierRest := by
  unfold Block.hbmRead
  exact foldl_tierRest _ (fun s u => by split <;> simp) _ _

@[simp] theorem Block.hbmWrite_tierRest (p x n : Nat) : (s.hbmWrite p x n).tierRest = s.tierRest := by
  simp [Block.hbmWrite]

@[simp] theorem Block.mergeReads_tierRest (p x n : Nat) : (s.mergeReads p x n).tierRest = s.tierRest := by
  rw [Block.mergeReads, Block.logN_tierRest]
  exact foldl_tierRest _ (fun s u => s.hbmRead_tierRest p u 64) _ _

@[simp] theorem Block.writeBack_tierRest (p k : Nat) : (s.writeBack p k).tierRest = s.tierRest := by
  unfold Block.writeBack
  split <;> [split <;> simp; rfl]

@[simp] theorem Block.dropLine_tierRest (p k : Nat) : (s.dropLine p k).tierRest = s.tierRest := by
  unfold Block.dropLine
  split <;> [(dsimp only; split <;> rfl); rfl]

@[simp] theorem Block.keepRoom_tierRest (p n : Nat) : (s.keepRoom p n).tierRest = s.tierRest := by
  unfold Block.keepRoom
  dsimp only
  split
  · split <;> simp
  · rfl

@[simp] theorem Block.fill_tierRest (p n : Nat) (fetch keep : Bool) : (s.fill p n fetch keep).2.tierRest = s.tierRest := by
  unfold Block.fill
  dsimp only
  split
  · rfl
  · split
    · split <;> simp
    · split <;> split <;> simp

@[simp] theorem Block.mscPut_tierRest (p x : Nat) (bs : List Nat) : (s.mscPut p x bs).tierRest = s.tierRest := by
  unfold Block.mscPut
  split
  · simp
  · dsimp only
    split <;> rename_i h <;> have e := congrArg (fun q => q.2.tierRest) h <;> simp at e <;> simp [← e]

@[simp] theorem Block.useCheck_tierRest (d x : Nat) (c : Bool) : (s.useCheck d x c).tierRest = s.tierRest := by
  unfold Block.useCheck
  dsimp only
  rw [Block.modCapc_tierRest]
  split <;> simp

@[simp] theorem Block.capLineRead_tierRest (d x : Nat) : (s.capLineRead d x).tierRest = s.tierRest := by
  unfold Block.capLineRead
  dsimp only
  split <;> simp

@[simp] theorem Block.capLineWrite_tierRest (d x : Nat) (bs : List Nat) (po : Bool) :
    (s.capLineWrite d x bs po).tierRest = s.tierRest := by
  unfold Block.capLineWrite
  dsimp only
  split
  · rw [Block.log_tierRest]
    exact (Block.ram_tierRest _ _).trans (by simp)
  · exact (Block.ram_tierRest _ _).trans (by simp)

@[simp] theorem Block.capPut_tierRest (d x : Nat) (bs : List Nat) : (s.capPut d x bs).tierRest = s.tierRest := by
  rw [Block.capPut, Block.capLineWrite_tierRest]
  split <;> simp

@[simp] theorem Block.tierWrite_tierRest (a : Nat) (bs : List Nat) : (s.tierWrite a bs).tierRest = s.tierRest := by
  unfold Block.tierWrite
  exact foldl_tierRest _ (fun s q => by dsimp only; split <;> simp) _ _

/-- What `tierWrite` may change. -/
theorem Block.tierWrite_only (x : Nat) (bs : List Nat) :
    s.tierWrite x bs =
      { s with pages := (s.tierWrite x bs).pages, logs := (s.tierWrite x bs).logs, ram := (s.tierWrite x bs).ram,
               mscs := (s.tierWrite x bs).mscs, hbmcs := (s.tierWrite x bs).hbmcs, capcs := (s.tierWrite x bs).capcs,
               out := (s.tierWrite x bs).out } := by
  exact Block.eq_of_tierRest (s.tierWrite_tierRest x bs)

@[simp] theorem Block.tierWrite_timeUs (x : Nat) (bs : List Nat) : (s.tierWrite x bs).timeUs = s.timeUs := by rw [Block.tierWrite_only]
@[simp] theorem Block.tierWrite_regs (x : Nat) (bs : List Nat) : (s.tierWrite x bs).regs = s.regs := by rw [Block.tierWrite_only]
@[simp] theorem Block.tierWrite_frameBound (x : Nat) (bs : List Nat) : (s.tierWrite x bs).frameBound = s.frameBound := by rw [Block.tierWrite_only]
@[simp] theorem Block.tierWrite_merid (x : Nat) (bs : List Nat) : (s.tierWrite x bs).merid = s.merid := by rw [Block.tierWrite_only]
@[simp] theorem Block.tierWrite_parts (x : Nat) (bs : List Nat) : (s.tierWrite x bs).parts = s.parts := by rw [Block.tierWrite_only]
@[simp] theorem Block.tierWrite_cores (x : Nat) (bs : List Nat) : (s.tierWrite x bs).cores = s.cores := by rw [Block.tierWrite_only]
@[simp] theorem Block.tierWrite_slots (x : Nat) (bs : List Nat) : (s.tierWrite x bs).slots = s.slots := by rw [Block.tierWrite_only]
@[simp] theorem Block.tierWrite_tiers (x : Nat) (bs : List Nat) : (s.tierWrite x bs).tiers = s.tiers := by rw [Block.tierWrite_only]
@[simp] theorem Block.tierWrite_mmus (x : Nat) (bs : List Nat) : (s.tierWrite x bs).mmus = s.mmus := by rw [Block.tierWrite_only]
@[simp] theorem Block.tierWrite_syncs (x : Nat) (bs : List Nat) : (s.tierWrite x bs).syncs = s.syncs := by rw [Block.tierWrite_only]
@[simp] theorem Block.tierWrite_links (x : Nat) (bs : List Nat) : (s.tierWrite x bs).links = s.links := by rw [Block.tierWrite_only]
@[simp] theorem Block.tierWrite_routes (x : Nat) (bs : List Nat) : (s.tierWrite x bs).routes = s.routes := by rw [Block.tierWrite_only]
@[simp] theorem Block.tierWrite_xu (x : Nat) (bs : List Nat) : (s.tierWrite x bs).xu = s.xu := by rw [Block.tierWrite_only]
@[simp] theorem Block.tierWrite_engs (x : Nat) (bs : List Nat) : (s.tierWrite x bs).engs = s.engs := by rw [Block.tierWrite_only]
@[simp] theorem Block.tierWrite_queues (x : Nat) (bs : List Nat) : (s.tierWrite x bs).queues = s.queues := by rw [Block.tierWrite_only]
@[simp] theorem Block.tierWrite_coll (x : Nat) (bs : List Nat) : (s.tierWrite x bs).coll = s.coll := by rw [Block.tierWrite_only]
@[simp] theorem Block.tierWrite_upd (x : Nat) (bs : List Nat) : (s.tierWrite x bs).upd = s.upd := by rw [Block.tierWrite_only]
@[simp] theorem Block.tierWrite_eph (x : Nat) (bs : List Nat) : (s.tierWrite x bs).eph = s.eph := by rw [Block.tierWrite_only]
@[simp] theorem Block.tierWrite_rhosts (x : Nat) (bs : List Nat) : (s.tierWrite x bs).rhosts = s.rhosts := by rw [Block.tierWrite_only]
@[simp] theorem Block.tierWrite_helio (x : Nat) (bs : List Nat) : (s.tierWrite x bs).helio = s.helio := by rw [Block.tierWrite_only]
@[simp] theorem Block.tierWrite_helioPs (x : Nat) (bs : List Nat) : (s.tierWrite x bs).helioPs = s.helioPs := by rw [Block.tierWrite_only]
@[simp] theorem Block.tierWrite_vregs (x : Nat) (bs : List Nat) : (s.tierWrite x bs).vregs = s.vregs := by rw [Block.tierWrite_only]
@[simp] theorem Block.tierWrite_boot (x : Nat) (bs : List Nat) : (s.tierWrite x bs).boot = s.boot := by rw [Block.tierWrite_only]
@[simp] theorem Block.tierWrite_flash (x : Nat) (bs : List Nat) : (s.tierWrite x bs).flash = s.flash := by rw [Block.tierWrite_only]
@[simp] theorem Block.tierWrite_poisonLatch (x : Nat) (bs : List Nat) : (s.tierWrite x bs).poisonLatch = s.poisonLatch := by rw [Block.tierWrite_only]
@[simp] theorem Block.tierWrite_poisonFirst (x : Nat) (bs : List Nat) : (s.tierWrite x bs).poisonFirst = s.poisonFirst := by rw [Block.tierWrite_only]
@[simp] theorem Block.tierWrite_poisonTick (x : Nat) (bs : List Nat) : (s.tierWrite x bs).poisonTick = s.poisonTick := by rw [Block.tierWrite_only]
@[simp] theorem Block.tierWrite_warmDue (x : Nat) (bs : List Nat) : (s.tierWrite x bs).warmDue = s.warmDue := by rw [Block.tierWrite_only]
@[simp] theorem Block.tierWrite_images (x : Nat) (bs : List Nat) : (s.tierWrite x bs).images = s.images := by rw [Block.tierWrite_only]
@[simp] theorem Block.tierWrite_mirrors (x : Nat) (bs : List Nat) : (s.tierWrite x bs).mirrors = s.mirrors := by rw [Block.tierWrite_only]
@[simp] theorem Block.tierWrite_pcie (x : Nat) (bs : List Nat) : (s.tierWrite x bs).pcie = s.pcie := by rw [Block.tierWrite_only]
@[simp] theorem Block.tierWrite_mgmt (x : Nat) (bs : List Nat) : (s.tierWrite x bs).mgmt = s.mgmt := by rw [Block.tierWrite_only]
@[simp] theorem Block.tierWrite_eyep (x : Nat) (bs : List Nat) : (s.tierWrite x bs).eyep = s.eyep := by rw [Block.tierWrite_only]
@[simp] theorem Block.tierWrite_alm (x : Nat) (bs : List Nat) : (s.tierWrite x bs).alm = s.alm := by rw [Block.tierWrite_only]
@[simp] theorem Block.tierWrite_feat (x : Nat) (bs : List Nat) : (s.tierWrite x bs).feat = s.feat := by rw [Block.tierWrite_only]
@[simp] theorem Block.tierWrite_bundle (x : Nat) (bs : List Nat) : (s.tierWrite x bs).bundle = s.bundle := by rw [Block.tierWrite_only]
@[simp] theorem Block.tierWrite_fv (x : Nat) (bs : List Nat) : (s.tierWrite x bs).fv = s.fv := by rw [Block.tierWrite_only]
@[simp] theorem Block.tierWrite_part (x : Nat) (bs : List Nat) (a : Nat) : (s.tierWrite x bs).part a = s.part a := by
  rw [Block.tierWrite_only]; rfl
@[simp] theorem Block.tierWrite_core (x : Nat) (bs : List Nat) (a b : Nat) : (s.tierWrite x bs).core a b = s.core a b := by
  rw [Block.tierWrite_only]; rfl
@[simp] theorem Block.tierWrite_slot (x : Nat) (bs : List Nat) (a b c : Nat) : (s.tierWrite x bs).slot a b c = s.slot a b c := by
  rw [Block.tierWrite_only]; rfl
@[simp] theorem Block.tierWrite_mmu (x : Nat) (bs : List Nat) (a : Nat) : (s.tierWrite x bs).mmu a = s.mmu a := by
  rw [Block.tierWrite_only]; rfl
@[simp] theorem Block.tierWrite_port (x : Nat) (bs : List Nat) (a : Nat) : (s.tierWrite x bs).port a = s.port a := by
  rw [Block.tierWrite_only]; rfl
@[simp] theorem Block.tierWrite_reg (x : Nat) (bs : List Nat) (a : Page) (b : Nat) : (s.tierWrite x bs).reg a b = s.reg a b := by
  rw [Block.tierWrite_only]; rfl
@[simp] theorem Block.tierWrite_syn (x : Nat) (bs : List Nat) (a : Nat) : (s.tierWrite x bs).syn a = s.syn a := by
  rw [Block.tierWrite_only]; rfl
@[simp] theorem Block.tierWrite_hp (x : Nat) (bs : List Nat) (a : Nat) : (s.tierWrite x bs).hp a = s.hp a := by
  rw [Block.tierWrite_only]; rfl
@[simp] theorem Block.tierWrite_link (x : Nat) (bs : List Nat) (a : Nat) : (s.tierWrite x bs).link a = s.link a := by
  rw [Block.tierWrite_only]; rfl
@[simp] theorem Block.tierWrite_eng (x : Nat) (bs : List Nat) (a b : Nat) : (s.tierWrite x bs).eng a b = s.eng a b := by
  rw [Block.tierWrite_only]; rfl
@[simp] theorem Block.tierWrite_queue (x : Nat) (bs : List Nat) (a b : Nat) : (s.tierWrite x bs).queue a b = s.queue a b := by
  rw [Block.tierWrite_only]; rfl
@[simp] theorem Block.tierWrite_rhost (x : Nat) (bs : List Nat) (a : Nat) : (s.tierWrite x bs).rhost a = s.rhost a := by
  rw [Block.tierWrite_only]; rfl
@[simp] theorem Block.tierWrite_ring (x : Nat) (bs : List Nat) (a : Nat) : (s.tierWrite x bs).ring a = s.ring a := by
  rw [Block.tierWrite_only]; rfl

/-! A trace record changes what a write to memory may change, the Eyepiece's own state and the free-value counter. -/

/-- The block without what a trace record may change. -/
def Block.traceRest (s : Block) : Block := { s.tierRest with eyep := {}, fv := 0 }

/-- Blocks with the same rest differ only in what a trace record may change. -/
theorem Block.eq_of_traceRest {s t : Block} (h : t.traceRest = s.traceRest) :
    t = { s with pages := t.pages, logs := t.logs, ram := t.ram, mscs := t.mscs, hbmcs := t.hbmcs, capcs := t.capcs,
                 eyep := t.eyep, out := t.out, fv := t.fv } := by
  cases s
  cases t
  simp only [Block.traceRest, Block.tierRest, Block.mk.injEq] at h ⊢
  simp [h]

theorem Block.traceRest_of_tierRest {s t : Block} (h : t.tierRest = s.tierRest) : t.traceRest = s.traceRest := by
  rw [Block.traceRest, h, Block.traceRest]

theorem Block.eyep_traceRest (e : Eyep) : ({ s with eyep := e } : Block).traceRest = s.traceRest := rfl
theorem Block.fv_traceRest (n : Nat) : ({ s with fv := n } : Block).traceRest = s.traceRest := rfl
theorem Block.emit_traceRest (o : Out) : (s.emit o).traceRest = s.traceRest := rfl
theorem Block.modIrq_traceRest (pg : Page) (f : PageHdr → PageHdr) : (s.modIrq pg f).traceRest = s.traceRest := by
  rw [Block.modIrq_only]; rfl

theorem Block.traceRec_traceRest (src off : Nat) (d : List Nat) : (s.traceRec src off d).traceRest = s.traceRest := by
  unfold Block.traceRec Block.fresh
  dsimp only
  have w : ∀ (b : Block) x bs, (b.tierWrite x bs).traceRest = b.traceRest := fun b x bs =>
    Block.traceRest_of_tierRest (b.tierWrite_tierRest x bs)
  split_ifs
  · exact (Block.emit_traceRest _ _).trans (s.fv_traceRest _)
  · exact ((Block.eyep_traceRest _ _).trans (Block.modIrq_traceRest _ _ _)).trans
      (((Block.eyep_traceRest _ _).trans (w _ _ _)).trans (s.fv_traceRest _))
  · exact ((Block.eyep_traceRest _ _).trans (w _ _ _)).trans (s.fv_traceRest _)
  · exact (Block.traceRest_of_tierRest (Block.log_tierRest _ _ _)).trans rfl
  · rfl

theorem Block.trace_traceRest (src off : Nat) (d : List Nat) : (s.trace src off d).traceRest = s.traceRest := by
  unfold Block.trace
  dsimp only
  split_ifs
  · exact (Block.traceRec_traceRest _ _ _ _).trans (Block.traceRec_traceRest _ _ _ _)
  · exact Block.traceRec_traceRest _ _ _ _

/-- What `trace` may change. -/
theorem Block.trace_only (src off : Nat) (d : List Nat) :
    s.trace src off d =
      { s with pages := (s.trace src off d).pages, logs := (s.trace src off d).logs, ram := (s.trace src off d).ram,
               mscs := (s.trace src off d).mscs, hbmcs := (s.trace src off d).hbmcs, capcs := (s.trace src off d).capcs,
               eyep := (s.trace src off d).eyep, out := (s.trace src off d).out, fv := (s.trace src off d).fv } := by
  exact Block.eq_of_traceRest (s.trace_traceRest src off d)

@[simp] theorem Block.trace_timeUs (src off : Nat) (d : List Nat) : (s.trace src off d).timeUs = s.timeUs := by rw [Block.trace_only]
@[simp] theorem Block.trace_regs (src off : Nat) (d : List Nat) : (s.trace src off d).regs = s.regs := by rw [Block.trace_only]
@[simp] theorem Block.trace_frameBound (src off : Nat) (d : List Nat) : (s.trace src off d).frameBound = s.frameBound := by rw [Block.trace_only]
@[simp] theorem Block.trace_merid (src off : Nat) (d : List Nat) : (s.trace src off d).merid = s.merid := by rw [Block.trace_only]
@[simp] theorem Block.trace_parts (src off : Nat) (d : List Nat) : (s.trace src off d).parts = s.parts := by rw [Block.trace_only]
@[simp] theorem Block.trace_cores (src off : Nat) (d : List Nat) : (s.trace src off d).cores = s.cores := by rw [Block.trace_only]
@[simp] theorem Block.trace_slots (src off : Nat) (d : List Nat) : (s.trace src off d).slots = s.slots := by rw [Block.trace_only]
@[simp] theorem Block.trace_tiers (src off : Nat) (d : List Nat) : (s.trace src off d).tiers = s.tiers := by rw [Block.trace_only]
@[simp] theorem Block.trace_mmus (src off : Nat) (d : List Nat) : (s.trace src off d).mmus = s.mmus := by rw [Block.trace_only]
@[simp] theorem Block.trace_syncs (src off : Nat) (d : List Nat) : (s.trace src off d).syncs = s.syncs := by rw [Block.trace_only]
@[simp] theorem Block.trace_links (src off : Nat) (d : List Nat) : (s.trace src off d).links = s.links := by rw [Block.trace_only]
@[simp] theorem Block.trace_routes (src off : Nat) (d : List Nat) : (s.trace src off d).routes = s.routes := by rw [Block.trace_only]
@[simp] theorem Block.trace_xu (src off : Nat) (d : List Nat) : (s.trace src off d).xu = s.xu := by rw [Block.trace_only]
@[simp] theorem Block.trace_engs (src off : Nat) (d : List Nat) : (s.trace src off d).engs = s.engs := by rw [Block.trace_only]
@[simp] theorem Block.trace_queues (src off : Nat) (d : List Nat) : (s.trace src off d).queues = s.queues := by rw [Block.trace_only]
@[simp] theorem Block.trace_coll (src off : Nat) (d : List Nat) : (s.trace src off d).coll = s.coll := by rw [Block.trace_only]
@[simp] theorem Block.trace_upd (src off : Nat) (d : List Nat) : (s.trace src off d).upd = s.upd := by rw [Block.trace_only]
@[simp] theorem Block.trace_eph (src off : Nat) (d : List Nat) : (s.trace src off d).eph = s.eph := by rw [Block.trace_only]
@[simp] theorem Block.trace_rhosts (src off : Nat) (d : List Nat) : (s.trace src off d).rhosts = s.rhosts := by rw [Block.trace_only]
@[simp] theorem Block.trace_helio (src off : Nat) (d : List Nat) : (s.trace src off d).helio = s.helio := by rw [Block.trace_only]
@[simp] theorem Block.trace_helioPs (src off : Nat) (d : List Nat) : (s.trace src off d).helioPs = s.helioPs := by rw [Block.trace_only]
@[simp] theorem Block.trace_vregs (src off : Nat) (d : List Nat) : (s.trace src off d).vregs = s.vregs := by rw [Block.trace_only]
@[simp] theorem Block.trace_boot (src off : Nat) (d : List Nat) : (s.trace src off d).boot = s.boot := by rw [Block.trace_only]
@[simp] theorem Block.trace_flash (src off : Nat) (d : List Nat) : (s.trace src off d).flash = s.flash := by rw [Block.trace_only]
@[simp] theorem Block.trace_poisonLatch (src off : Nat) (d : List Nat) : (s.trace src off d).poisonLatch = s.poisonLatch := by rw [Block.trace_only]
@[simp] theorem Block.trace_poisonFirst (src off : Nat) (d : List Nat) : (s.trace src off d).poisonFirst = s.poisonFirst := by rw [Block.trace_only]
@[simp] theorem Block.trace_poisonTick (src off : Nat) (d : List Nat) : (s.trace src off d).poisonTick = s.poisonTick := by rw [Block.trace_only]
@[simp] theorem Block.trace_warmDue (src off : Nat) (d : List Nat) : (s.trace src off d).warmDue = s.warmDue := by rw [Block.trace_only]
@[simp] theorem Block.trace_images (src off : Nat) (d : List Nat) : (s.trace src off d).images = s.images := by rw [Block.trace_only]
@[simp] theorem Block.trace_mirrors (src off : Nat) (d : List Nat) : (s.trace src off d).mirrors = s.mirrors := by rw [Block.trace_only]
@[simp] theorem Block.trace_pcie (src off : Nat) (d : List Nat) : (s.trace src off d).pcie = s.pcie := by rw [Block.trace_only]
@[simp] theorem Block.trace_mgmt (src off : Nat) (d : List Nat) : (s.trace src off d).mgmt = s.mgmt := by rw [Block.trace_only]
@[simp] theorem Block.trace_alm (src off : Nat) (d : List Nat) : (s.trace src off d).alm = s.alm := by rw [Block.trace_only]
@[simp] theorem Block.trace_feat (src off : Nat) (d : List Nat) : (s.trace src off d).feat = s.feat := by rw [Block.trace_only]
@[simp] theorem Block.trace_bundle (src off : Nat) (d : List Nat) : (s.trace src off d).bundle = s.bundle := by rw [Block.trace_only]
@[simp] theorem Block.trace_part (src off : Nat) (d : List Nat) (a : Nat) : (s.trace src off d).part a = s.part a := by
  rw [Block.trace_only]; rfl
@[simp] theorem Block.trace_core (src off : Nat) (d : List Nat) (a b : Nat) : (s.trace src off d).core a b = s.core a b := by
  rw [Block.trace_only]; rfl
@[simp] theorem Block.trace_slot (src off : Nat) (d : List Nat) (a b c : Nat) : (s.trace src off d).slot a b c = s.slot a b c := by
  rw [Block.trace_only]; rfl
@[simp] theorem Block.trace_mmu (src off : Nat) (d : List Nat) (a : Nat) : (s.trace src off d).mmu a = s.mmu a := by
  rw [Block.trace_only]; rfl
@[simp] theorem Block.trace_port (src off : Nat) (d : List Nat) (a : Nat) : (s.trace src off d).port a = s.port a := by
  rw [Block.trace_only]; rfl
@[simp] theorem Block.trace_reg (src off : Nat) (d : List Nat) (a : Page) (b : Nat) : (s.trace src off d).reg a b = s.reg a b := by
  rw [Block.trace_only]; rfl
@[simp] theorem Block.trace_syn (src off : Nat) (d : List Nat) (a : Nat) : (s.trace src off d).syn a = s.syn a := by
  rw [Block.trace_only]; rfl
@[simp] theorem Block.trace_hp (src off : Nat) (d : List Nat) (a : Nat) : (s.trace src off d).hp a = s.hp a := by
  rw [Block.trace_only]; rfl
@[simp] theorem Block.trace_link (src off : Nat) (d : List Nat) (a : Nat) : (s.trace src off d).link a = s.link a := by
  rw [Block.trace_only]; rfl
@[simp] theorem Block.trace_eng (src off : Nat) (d : List Nat) (a b : Nat) : (s.trace src off d).eng a b = s.eng a b := by
  rw [Block.trace_only]; rfl
@[simp] theorem Block.trace_queue (src off : Nat) (d : List Nat) (a b : Nat) : (s.trace src off d).queue a b = s.queue a b := by
  rw [Block.trace_only]; rfl
@[simp] theorem Block.trace_rhost (src off : Nat) (d : List Nat) (a : Nat) : (s.trace src off d).rhost a = s.rhost a := by
  rw [Block.trace_only]; rfl
@[simp] theorem Block.trace_ring (src off : Nat) (d : List Nat) (a : Nat) : (s.trace src off d).ring a = s.ring a := by
  rw [Block.trace_only]; rfl

/-- What `traceCore` may change. -/
theorem Block.traceCore_only (p i src : Nat) (d : List Nat) :
    s.traceCore p i src d =
      { s with pages := (s.traceCore p i src d).pages, logs := (s.traceCore p i src d).logs,
               ram := (s.traceCore p i src d).ram, mscs := (s.traceCore p i src d).mscs,
               hbmcs := (s.traceCore p i src d).hbmcs, capcs := (s.traceCore p i src d).capcs,
               eyep := (s.traceCore p i src d).eyep, out := (s.traceCore p i src d).out, fv := (s.traceCore p i src d).fv } := by
  unfold Block.traceCore
  split_ifs
  · exact Block.trace_only s src i d
  · rfl

@[simp] theorem Block.traceCore_timeUs (p i src : Nat) (d : List Nat) : (s.traceCore p i src d).timeUs = s.timeUs := by rw [Block.traceCore_only]
@[simp] theorem Block.traceCore_regs (p i src : Nat) (d : List Nat) : (s.traceCore p i src d).regs = s.regs := by rw [Block.traceCore_only]
@[simp] theorem Block.traceCore_frameBound (p i src : Nat) (d : List Nat) : (s.traceCore p i src d).frameBound = s.frameBound := by rw [Block.traceCore_only]
@[simp] theorem Block.traceCore_merid (p i src : Nat) (d : List Nat) : (s.traceCore p i src d).merid = s.merid := by rw [Block.traceCore_only]
@[simp] theorem Block.traceCore_parts (p i src : Nat) (d : List Nat) : (s.traceCore p i src d).parts = s.parts := by rw [Block.traceCore_only]
@[simp] theorem Block.traceCore_cores (p i src : Nat) (d : List Nat) : (s.traceCore p i src d).cores = s.cores := by rw [Block.traceCore_only]
@[simp] theorem Block.traceCore_slots (p i src : Nat) (d : List Nat) : (s.traceCore p i src d).slots = s.slots := by rw [Block.traceCore_only]
@[simp] theorem Block.traceCore_tiers (p i src : Nat) (d : List Nat) : (s.traceCore p i src d).tiers = s.tiers := by rw [Block.traceCore_only]
@[simp] theorem Block.traceCore_mmus (p i src : Nat) (d : List Nat) : (s.traceCore p i src d).mmus = s.mmus := by rw [Block.traceCore_only]
@[simp] theorem Block.traceCore_syncs (p i src : Nat) (d : List Nat) : (s.traceCore p i src d).syncs = s.syncs := by rw [Block.traceCore_only]
@[simp] theorem Block.traceCore_links (p i src : Nat) (d : List Nat) : (s.traceCore p i src d).links = s.links := by rw [Block.traceCore_only]
@[simp] theorem Block.traceCore_routes (p i src : Nat) (d : List Nat) : (s.traceCore p i src d).routes = s.routes := by rw [Block.traceCore_only]
@[simp] theorem Block.traceCore_xu (p i src : Nat) (d : List Nat) : (s.traceCore p i src d).xu = s.xu := by rw [Block.traceCore_only]
@[simp] theorem Block.traceCore_engs (p i src : Nat) (d : List Nat) : (s.traceCore p i src d).engs = s.engs := by rw [Block.traceCore_only]
@[simp] theorem Block.traceCore_queues (p i src : Nat) (d : List Nat) : (s.traceCore p i src d).queues = s.queues := by rw [Block.traceCore_only]
@[simp] theorem Block.traceCore_coll (p i src : Nat) (d : List Nat) : (s.traceCore p i src d).coll = s.coll := by rw [Block.traceCore_only]
@[simp] theorem Block.traceCore_upd (p i src : Nat) (d : List Nat) : (s.traceCore p i src d).upd = s.upd := by rw [Block.traceCore_only]
@[simp] theorem Block.traceCore_eph (p i src : Nat) (d : List Nat) : (s.traceCore p i src d).eph = s.eph := by rw [Block.traceCore_only]
@[simp] theorem Block.traceCore_rhosts (p i src : Nat) (d : List Nat) : (s.traceCore p i src d).rhosts = s.rhosts := by rw [Block.traceCore_only]
@[simp] theorem Block.traceCore_helio (p i src : Nat) (d : List Nat) : (s.traceCore p i src d).helio = s.helio := by rw [Block.traceCore_only]
@[simp] theorem Block.traceCore_helioPs (p i src : Nat) (d : List Nat) : (s.traceCore p i src d).helioPs = s.helioPs := by rw [Block.traceCore_only]
@[simp] theorem Block.traceCore_vregs (p i src : Nat) (d : List Nat) : (s.traceCore p i src d).vregs = s.vregs := by rw [Block.traceCore_only]
@[simp] theorem Block.traceCore_boot (p i src : Nat) (d : List Nat) : (s.traceCore p i src d).boot = s.boot := by rw [Block.traceCore_only]
@[simp] theorem Block.traceCore_flash (p i src : Nat) (d : List Nat) : (s.traceCore p i src d).flash = s.flash := by rw [Block.traceCore_only]
@[simp] theorem Block.traceCore_poisonLatch (p i src : Nat) (d : List Nat) : (s.traceCore p i src d).poisonLatch = s.poisonLatch := by rw [Block.traceCore_only]
@[simp] theorem Block.traceCore_poisonFirst (p i src : Nat) (d : List Nat) : (s.traceCore p i src d).poisonFirst = s.poisonFirst := by rw [Block.traceCore_only]
@[simp] theorem Block.traceCore_poisonTick (p i src : Nat) (d : List Nat) : (s.traceCore p i src d).poisonTick = s.poisonTick := by rw [Block.traceCore_only]
@[simp] theorem Block.traceCore_warmDue (p i src : Nat) (d : List Nat) : (s.traceCore p i src d).warmDue = s.warmDue := by rw [Block.traceCore_only]
@[simp] theorem Block.traceCore_images (p i src : Nat) (d : List Nat) : (s.traceCore p i src d).images = s.images := by rw [Block.traceCore_only]
@[simp] theorem Block.traceCore_mirrors (p i src : Nat) (d : List Nat) : (s.traceCore p i src d).mirrors = s.mirrors := by rw [Block.traceCore_only]
@[simp] theorem Block.traceCore_pcie (p i src : Nat) (d : List Nat) : (s.traceCore p i src d).pcie = s.pcie := by rw [Block.traceCore_only]
@[simp] theorem Block.traceCore_mgmt (p i src : Nat) (d : List Nat) : (s.traceCore p i src d).mgmt = s.mgmt := by rw [Block.traceCore_only]
@[simp] theorem Block.traceCore_alm (p i src : Nat) (d : List Nat) : (s.traceCore p i src d).alm = s.alm := by rw [Block.traceCore_only]
@[simp] theorem Block.traceCore_feat (p i src : Nat) (d : List Nat) : (s.traceCore p i src d).feat = s.feat := by rw [Block.traceCore_only]
@[simp] theorem Block.traceCore_bundle (p i src : Nat) (d : List Nat) : (s.traceCore p i src d).bundle = s.bundle := by rw [Block.traceCore_only]
@[simp] theorem Block.traceCore_part (p i src : Nat) (d : List Nat) (a : Nat) : (s.traceCore p i src d).part a = s.part a := by
  rw [Block.traceCore_only]; rfl
@[simp] theorem Block.traceCore_core (p i src : Nat) (d : List Nat) (a b : Nat) : (s.traceCore p i src d).core a b = s.core a b := by
  rw [Block.traceCore_only]; rfl
@[simp] theorem Block.traceCore_slot (p i src : Nat) (d : List Nat) (a b c : Nat) : (s.traceCore p i src d).slot a b c = s.slot a b c := by
  rw [Block.traceCore_only]; rfl
@[simp] theorem Block.traceCore_mmu (p i src : Nat) (d : List Nat) (a : Nat) : (s.traceCore p i src d).mmu a = s.mmu a := by
  rw [Block.traceCore_only]; rfl
@[simp] theorem Block.traceCore_port (p i src : Nat) (d : List Nat) (a : Nat) : (s.traceCore p i src d).port a = s.port a := by
  rw [Block.traceCore_only]; rfl
@[simp] theorem Block.traceCore_reg (p i src : Nat) (d : List Nat) (a : Page) (b : Nat) : (s.traceCore p i src d).reg a b = s.reg a b := by
  rw [Block.traceCore_only]; rfl
@[simp] theorem Block.traceCore_syn (p i src : Nat) (d : List Nat) (a : Nat) : (s.traceCore p i src d).syn a = s.syn a := by
  rw [Block.traceCore_only]; rfl
@[simp] theorem Block.traceCore_hp (p i src : Nat) (d : List Nat) (a : Nat) : (s.traceCore p i src d).hp a = s.hp a := by
  rw [Block.traceCore_only]; rfl
@[simp] theorem Block.traceCore_link (p i src : Nat) (d : List Nat) (a : Nat) : (s.traceCore p i src d).link a = s.link a := by
  rw [Block.traceCore_only]; rfl
@[simp] theorem Block.traceCore_eng (p i src : Nat) (d : List Nat) (a b : Nat) : (s.traceCore p i src d).eng a b = s.eng a b := by
  rw [Block.traceCore_only]; rfl
@[simp] theorem Block.traceCore_queue (p i src : Nat) (d : List Nat) (a b : Nat) : (s.traceCore p i src d).queue a b = s.queue a b := by
  rw [Block.traceCore_only]; rfl
@[simp] theorem Block.traceCore_rhost (p i src : Nat) (d : List Nat) (a : Nat) : (s.traceCore p i src d).rhost a = s.rhost a := by
  rw [Block.traceCore_only]; rfl
@[simp] theorem Block.traceCore_ring (p i src : Nat) (d : List Nat) (a : Nat) : (s.traceCore p i src d).ring a = s.ring a := by
  rw [Block.traceCore_only]; rfl

/-- What `raise0` may change. -/
theorem Block.raise0_only (pg : Page) (n : Nat) :
    s.raise0 pg n =
      { s with pages := (s.raise0 pg n).pages, logs := (s.raise0 pg n).logs, ram := (s.raise0 pg n).ram,
               mscs := (s.raise0 pg n).mscs, hbmcs := (s.raise0 pg n).hbmcs, capcs := (s.raise0 pg n).capcs,
               eyep := (s.raise0 pg n).eyep, out := (s.raise0 pg n).out, fv := (s.raise0 pg n).fv } := by
  unfold Block.raise0
  split_ifs
  · rfl
  · dsimp only; rw [Block.trace_only, Block.modIrq_only]

@[simp] theorem Block.raise0_timeUs (pg : Page) (n : Nat) : (s.raise0 pg n).timeUs = s.timeUs := by rw [Block.raise0_only]
@[simp] theorem Block.raise0_regs (pg : Page) (n : Nat) : (s.raise0 pg n).regs = s.regs := by rw [Block.raise0_only]
@[simp] theorem Block.raise0_frameBound (pg : Page) (n : Nat) : (s.raise0 pg n).frameBound = s.frameBound := by rw [Block.raise0_only]
@[simp] theorem Block.raise0_merid (pg : Page) (n : Nat) : (s.raise0 pg n).merid = s.merid := by rw [Block.raise0_only]
@[simp] theorem Block.raise0_parts (pg : Page) (n : Nat) : (s.raise0 pg n).parts = s.parts := by rw [Block.raise0_only]
@[simp] theorem Block.raise0_cores (pg : Page) (n : Nat) : (s.raise0 pg n).cores = s.cores := by rw [Block.raise0_only]
@[simp] theorem Block.raise0_slots (pg : Page) (n : Nat) : (s.raise0 pg n).slots = s.slots := by rw [Block.raise0_only]
@[simp] theorem Block.raise0_tiers (pg : Page) (n : Nat) : (s.raise0 pg n).tiers = s.tiers := by rw [Block.raise0_only]
@[simp] theorem Block.raise0_mmus (pg : Page) (n : Nat) : (s.raise0 pg n).mmus = s.mmus := by rw [Block.raise0_only]
@[simp] theorem Block.raise0_syncs (pg : Page) (n : Nat) : (s.raise0 pg n).syncs = s.syncs := by rw [Block.raise0_only]
@[simp] theorem Block.raise0_links (pg : Page) (n : Nat) : (s.raise0 pg n).links = s.links := by rw [Block.raise0_only]
@[simp] theorem Block.raise0_routes (pg : Page) (n : Nat) : (s.raise0 pg n).routes = s.routes := by rw [Block.raise0_only]
@[simp] theorem Block.raise0_xu (pg : Page) (n : Nat) : (s.raise0 pg n).xu = s.xu := by rw [Block.raise0_only]
@[simp] theorem Block.raise0_engs (pg : Page) (n : Nat) : (s.raise0 pg n).engs = s.engs := by rw [Block.raise0_only]
@[simp] theorem Block.raise0_queues (pg : Page) (n : Nat) : (s.raise0 pg n).queues = s.queues := by rw [Block.raise0_only]
@[simp] theorem Block.raise0_coll (pg : Page) (n : Nat) : (s.raise0 pg n).coll = s.coll := by rw [Block.raise0_only]
@[simp] theorem Block.raise0_upd (pg : Page) (n : Nat) : (s.raise0 pg n).upd = s.upd := by rw [Block.raise0_only]
@[simp] theorem Block.raise0_eph (pg : Page) (n : Nat) : (s.raise0 pg n).eph = s.eph := by rw [Block.raise0_only]
@[simp] theorem Block.raise0_rhosts (pg : Page) (n : Nat) : (s.raise0 pg n).rhosts = s.rhosts := by rw [Block.raise0_only]
@[simp] theorem Block.raise0_helio (pg : Page) (n : Nat) : (s.raise0 pg n).helio = s.helio := by rw [Block.raise0_only]
@[simp] theorem Block.raise0_helioPs (pg : Page) (n : Nat) : (s.raise0 pg n).helioPs = s.helioPs := by rw [Block.raise0_only]
@[simp] theorem Block.raise0_vregs (pg : Page) (n : Nat) : (s.raise0 pg n).vregs = s.vregs := by rw [Block.raise0_only]
@[simp] theorem Block.raise0_boot (pg : Page) (n : Nat) : (s.raise0 pg n).boot = s.boot := by rw [Block.raise0_only]
@[simp] theorem Block.raise0_flash (pg : Page) (n : Nat) : (s.raise0 pg n).flash = s.flash := by rw [Block.raise0_only]
@[simp] theorem Block.raise0_poisonLatch (pg : Page) (n : Nat) : (s.raise0 pg n).poisonLatch = s.poisonLatch := by rw [Block.raise0_only]
@[simp] theorem Block.raise0_poisonFirst (pg : Page) (n : Nat) : (s.raise0 pg n).poisonFirst = s.poisonFirst := by rw [Block.raise0_only]
@[simp] theorem Block.raise0_poisonTick (pg : Page) (n : Nat) : (s.raise0 pg n).poisonTick = s.poisonTick := by rw [Block.raise0_only]
@[simp] theorem Block.raise0_warmDue (pg : Page) (n : Nat) : (s.raise0 pg n).warmDue = s.warmDue := by rw [Block.raise0_only]
@[simp] theorem Block.raise0_images (pg : Page) (n : Nat) : (s.raise0 pg n).images = s.images := by rw [Block.raise0_only]
@[simp] theorem Block.raise0_mirrors (pg : Page) (n : Nat) : (s.raise0 pg n).mirrors = s.mirrors := by rw [Block.raise0_only]
@[simp] theorem Block.raise0_pcie (pg : Page) (n : Nat) : (s.raise0 pg n).pcie = s.pcie := by rw [Block.raise0_only]
@[simp] theorem Block.raise0_mgmt (pg : Page) (n : Nat) : (s.raise0 pg n).mgmt = s.mgmt := by rw [Block.raise0_only]
@[simp] theorem Block.raise0_alm (pg : Page) (n : Nat) : (s.raise0 pg n).alm = s.alm := by rw [Block.raise0_only]
@[simp] theorem Block.raise0_feat (pg : Page) (n : Nat) : (s.raise0 pg n).feat = s.feat := by rw [Block.raise0_only]
@[simp] theorem Block.raise0_bundle (pg : Page) (n : Nat) : (s.raise0 pg n).bundle = s.bundle := by rw [Block.raise0_only]
@[simp] theorem Block.raise0_part (pg : Page) (n : Nat) (a : Nat) : (s.raise0 pg n).part a = s.part a := by
  rw [Block.raise0_only]; rfl
@[simp] theorem Block.raise0_core (pg : Page) (n : Nat) (a b : Nat) : (s.raise0 pg n).core a b = s.core a b := by
  rw [Block.raise0_only]; rfl
@[simp] theorem Block.raise0_slot (pg : Page) (n : Nat) (a b c : Nat) : (s.raise0 pg n).slot a b c = s.slot a b c := by
  rw [Block.raise0_only]; rfl
@[simp] theorem Block.raise0_mmu (pg : Page) (n : Nat) (a : Nat) : (s.raise0 pg n).mmu a = s.mmu a := by
  rw [Block.raise0_only]; rfl
@[simp] theorem Block.raise0_port (pg : Page) (n : Nat) (a : Nat) : (s.raise0 pg n).port a = s.port a := by
  rw [Block.raise0_only]; rfl
@[simp] theorem Block.raise0_reg (pg : Page) (n : Nat) (a : Page) (b : Nat) : (s.raise0 pg n).reg a b = s.reg a b := by
  rw [Block.raise0_only]; rfl
@[simp] theorem Block.raise0_syn (pg : Page) (n : Nat) (a : Nat) : (s.raise0 pg n).syn a = s.syn a := by
  rw [Block.raise0_only]; rfl
@[simp] theorem Block.raise0_hp (pg : Page) (n : Nat) (a : Nat) : (s.raise0 pg n).hp a = s.hp a := by
  rw [Block.raise0_only]; rfl
@[simp] theorem Block.raise0_link (pg : Page) (n : Nat) (a : Nat) : (s.raise0 pg n).link a = s.link a := by
  rw [Block.raise0_only]; rfl
@[simp] theorem Block.raise0_eng (pg : Page) (n : Nat) (a b : Nat) : (s.raise0 pg n).eng a b = s.eng a b := by
  rw [Block.raise0_only]; rfl
@[simp] theorem Block.raise0_queue (pg : Page) (n : Nat) (a b : Nat) : (s.raise0 pg n).queue a b = s.queue a b := by
  rw [Block.raise0_only]; rfl
@[simp] theorem Block.raise0_rhost (pg : Page) (n : Nat) (a : Nat) : (s.raise0 pg n).rhost a = s.rhost a := by
  rw [Block.raise0_only]; rfl
@[simp] theorem Block.raise0_ring (pg : Page) (n : Nat) (a : Nat) : (s.raise0 pg n).ring a = s.ring a := by
  rw [Block.raise0_only]; rfl

/-- What `event` may change. -/
theorem Block.event_only (pg : Page) (n : Nat) :
    s.event pg n =
      { s with pages := (s.event pg n).pages, logs := (s.event pg n).logs, ram := (s.event pg n).ram,
               mscs := (s.event pg n).mscs, hbmcs := (s.event pg n).hbmcs, capcs := (s.event pg n).capcs,
               mgmt := (s.event pg n).mgmt, eyep := (s.event pg n).eyep, out := (s.event pg n).out, fv := (s.event pg n).fv } := by
  unfold Block.event
  dsimp only
  split_ifs
  · rw [Block.raise0_only, Block.log_only]
  · rfl
  · rfl

@[simp] theorem Block.event_timeUs (pg : Page) (n : Nat) : (s.event pg n).timeUs = s.timeUs := by rw [Block.event_only]
@[simp] theorem Block.event_regs (pg : Page) (n : Nat) : (s.event pg n).regs = s.regs := by rw [Block.event_only]
@[simp] theorem Block.event_frameBound (pg : Page) (n : Nat) : (s.event pg n).frameBound = s.frameBound := by rw [Block.event_only]
@[simp] theorem Block.event_merid (pg : Page) (n : Nat) : (s.event pg n).merid = s.merid := by rw [Block.event_only]
@[simp] theorem Block.event_parts (pg : Page) (n : Nat) : (s.event pg n).parts = s.parts := by rw [Block.event_only]
@[simp] theorem Block.event_cores (pg : Page) (n : Nat) : (s.event pg n).cores = s.cores := by rw [Block.event_only]
@[simp] theorem Block.event_slots (pg : Page) (n : Nat) : (s.event pg n).slots = s.slots := by rw [Block.event_only]
@[simp] theorem Block.event_tiers (pg : Page) (n : Nat) : (s.event pg n).tiers = s.tiers := by rw [Block.event_only]
@[simp] theorem Block.event_mmus (pg : Page) (n : Nat) : (s.event pg n).mmus = s.mmus := by rw [Block.event_only]
@[simp] theorem Block.event_syncs (pg : Page) (n : Nat) : (s.event pg n).syncs = s.syncs := by rw [Block.event_only]
@[simp] theorem Block.event_links (pg : Page) (n : Nat) : (s.event pg n).links = s.links := by rw [Block.event_only]
@[simp] theorem Block.event_routes (pg : Page) (n : Nat) : (s.event pg n).routes = s.routes := by rw [Block.event_only]
@[simp] theorem Block.event_xu (pg : Page) (n : Nat) : (s.event pg n).xu = s.xu := by rw [Block.event_only]
@[simp] theorem Block.event_engs (pg : Page) (n : Nat) : (s.event pg n).engs = s.engs := by rw [Block.event_only]
@[simp] theorem Block.event_queues (pg : Page) (n : Nat) : (s.event pg n).queues = s.queues := by rw [Block.event_only]
@[simp] theorem Block.event_coll (pg : Page) (n : Nat) : (s.event pg n).coll = s.coll := by rw [Block.event_only]
@[simp] theorem Block.event_upd (pg : Page) (n : Nat) : (s.event pg n).upd = s.upd := by rw [Block.event_only]
@[simp] theorem Block.event_eph (pg : Page) (n : Nat) : (s.event pg n).eph = s.eph := by rw [Block.event_only]
@[simp] theorem Block.event_rhosts (pg : Page) (n : Nat) : (s.event pg n).rhosts = s.rhosts := by rw [Block.event_only]
@[simp] theorem Block.event_helio (pg : Page) (n : Nat) : (s.event pg n).helio = s.helio := by rw [Block.event_only]
@[simp] theorem Block.event_helioPs (pg : Page) (n : Nat) : (s.event pg n).helioPs = s.helioPs := by rw [Block.event_only]
@[simp] theorem Block.event_vregs (pg : Page) (n : Nat) : (s.event pg n).vregs = s.vregs := by rw [Block.event_only]
@[simp] theorem Block.event_boot (pg : Page) (n : Nat) : (s.event pg n).boot = s.boot := by rw [Block.event_only]
@[simp] theorem Block.event_flash (pg : Page) (n : Nat) : (s.event pg n).flash = s.flash := by rw [Block.event_only]
@[simp] theorem Block.event_poisonLatch (pg : Page) (n : Nat) : (s.event pg n).poisonLatch = s.poisonLatch := by rw [Block.event_only]
@[simp] theorem Block.event_poisonFirst (pg : Page) (n : Nat) : (s.event pg n).poisonFirst = s.poisonFirst := by rw [Block.event_only]
@[simp] theorem Block.event_poisonTick (pg : Page) (n : Nat) : (s.event pg n).poisonTick = s.poisonTick := by rw [Block.event_only]
@[simp] theorem Block.event_warmDue (pg : Page) (n : Nat) : (s.event pg n).warmDue = s.warmDue := by rw [Block.event_only]
@[simp] theorem Block.event_images (pg : Page) (n : Nat) : (s.event pg n).images = s.images := by rw [Block.event_only]
@[simp] theorem Block.event_mirrors (pg : Page) (n : Nat) : (s.event pg n).mirrors = s.mirrors := by rw [Block.event_only]
@[simp] theorem Block.event_pcie (pg : Page) (n : Nat) : (s.event pg n).pcie = s.pcie := by rw [Block.event_only]
@[simp] theorem Block.event_alm (pg : Page) (n : Nat) : (s.event pg n).alm = s.alm := by rw [Block.event_only]
@[simp] theorem Block.event_feat (pg : Page) (n : Nat) : (s.event pg n).feat = s.feat := by rw [Block.event_only]
@[simp] theorem Block.event_bundle (pg : Page) (n : Nat) : (s.event pg n).bundle = s.bundle := by rw [Block.event_only]
@[simp] theorem Block.event_part (pg : Page) (n : Nat) (a : Nat) : (s.event pg n).part a = s.part a := by
  rw [Block.event_only]; rfl
@[simp] theorem Block.event_core (pg : Page) (n : Nat) (a b : Nat) : (s.event pg n).core a b = s.core a b := by
  rw [Block.event_only]; rfl
@[simp] theorem Block.event_slot (pg : Page) (n : Nat) (a b c : Nat) : (s.event pg n).slot a b c = s.slot a b c := by
  rw [Block.event_only]; rfl
@[simp] theorem Block.event_mmu (pg : Page) (n : Nat) (a : Nat) : (s.event pg n).mmu a = s.mmu a := by
  rw [Block.event_only]; rfl
@[simp] theorem Block.event_port (pg : Page) (n : Nat) (a : Nat) : (s.event pg n).port a = s.port a := by
  rw [Block.event_only]; rfl
@[simp] theorem Block.event_reg (pg : Page) (n : Nat) (a : Page) (b : Nat) : (s.event pg n).reg a b = s.reg a b := by
  rw [Block.event_only]; rfl
@[simp] theorem Block.event_syn (pg : Page) (n : Nat) (a : Nat) : (s.event pg n).syn a = s.syn a := by
  rw [Block.event_only]; rfl
@[simp] theorem Block.event_hp (pg : Page) (n : Nat) (a : Nat) : (s.event pg n).hp a = s.hp a := by
  rw [Block.event_only]; rfl
@[simp] theorem Block.event_link (pg : Page) (n : Nat) (a : Nat) : (s.event pg n).link a = s.link a := by
  rw [Block.event_only]; rfl
@[simp] theorem Block.event_eng (pg : Page) (n : Nat) (a b : Nat) : (s.event pg n).eng a b = s.eng a b := by
  rw [Block.event_only]; rfl
@[simp] theorem Block.event_queue (pg : Page) (n : Nat) (a b : Nat) : (s.event pg n).queue a b = s.queue a b := by
  rw [Block.event_only]; rfl
@[simp] theorem Block.event_rhost (pg : Page) (n : Nat) (a : Nat) : (s.event pg n).rhost a = s.rhost a := by
  rw [Block.event_only]; rfl
@[simp] theorem Block.event_ring (pg : Page) (n : Nat) (a : Nat) : (s.event pg n).ring a = s.ring a := by
  rw [Block.event_only]; rfl

/-- What `raise` may change. -/
theorem Block.raise_only (pg : Page) (n : Nat) :
    s.raise pg n =
      { s with pages := (s.raise pg n).pages, logs := (s.raise pg n).logs, ram := (s.raise pg n).ram,
               mscs := (s.raise pg n).mscs, hbmcs := (s.raise pg n).hbmcs, capcs := (s.raise pg n).capcs,
               mgmt := (s.raise pg n).mgmt, eyep := (s.raise pg n).eyep, out := (s.raise pg n).out, fv := (s.raise pg n).fv } := by
  unfold Block.raise
  split_ifs
  · rfl
  · rw [Block.event_only, Block.raise0_only]

@[simp] theorem Block.raise_timeUs (pg : Page) (n : Nat) : (s.raise pg n).timeUs = s.timeUs := by rw [Block.raise_only]
@[simp] theorem Block.raise_regs (pg : Page) (n : Nat) : (s.raise pg n).regs = s.regs := by rw [Block.raise_only]
@[simp] theorem Block.raise_frameBound (pg : Page) (n : Nat) : (s.raise pg n).frameBound = s.frameBound := by rw [Block.raise_only]
@[simp] theorem Block.raise_merid (pg : Page) (n : Nat) : (s.raise pg n).merid = s.merid := by rw [Block.raise_only]
@[simp] theorem Block.raise_parts (pg : Page) (n : Nat) : (s.raise pg n).parts = s.parts := by rw [Block.raise_only]
@[simp] theorem Block.raise_cores (pg : Page) (n : Nat) : (s.raise pg n).cores = s.cores := by rw [Block.raise_only]
@[simp] theorem Block.raise_slots (pg : Page) (n : Nat) : (s.raise pg n).slots = s.slots := by rw [Block.raise_only]
@[simp] theorem Block.raise_tiers (pg : Page) (n : Nat) : (s.raise pg n).tiers = s.tiers := by rw [Block.raise_only]
@[simp] theorem Block.raise_mmus (pg : Page) (n : Nat) : (s.raise pg n).mmus = s.mmus := by rw [Block.raise_only]
@[simp] theorem Block.raise_syncs (pg : Page) (n : Nat) : (s.raise pg n).syncs = s.syncs := by rw [Block.raise_only]
@[simp] theorem Block.raise_links (pg : Page) (n : Nat) : (s.raise pg n).links = s.links := by rw [Block.raise_only]
@[simp] theorem Block.raise_routes (pg : Page) (n : Nat) : (s.raise pg n).routes = s.routes := by rw [Block.raise_only]
@[simp] theorem Block.raise_xu (pg : Page) (n : Nat) : (s.raise pg n).xu = s.xu := by rw [Block.raise_only]
@[simp] theorem Block.raise_engs (pg : Page) (n : Nat) : (s.raise pg n).engs = s.engs := by rw [Block.raise_only]
@[simp] theorem Block.raise_queues (pg : Page) (n : Nat) : (s.raise pg n).queues = s.queues := by rw [Block.raise_only]
@[simp] theorem Block.raise_coll (pg : Page) (n : Nat) : (s.raise pg n).coll = s.coll := by rw [Block.raise_only]
@[simp] theorem Block.raise_upd (pg : Page) (n : Nat) : (s.raise pg n).upd = s.upd := by rw [Block.raise_only]
@[simp] theorem Block.raise_eph (pg : Page) (n : Nat) : (s.raise pg n).eph = s.eph := by rw [Block.raise_only]
@[simp] theorem Block.raise_rhosts (pg : Page) (n : Nat) : (s.raise pg n).rhosts = s.rhosts := by rw [Block.raise_only]
@[simp] theorem Block.raise_helio (pg : Page) (n : Nat) : (s.raise pg n).helio = s.helio := by rw [Block.raise_only]
@[simp] theorem Block.raise_helioPs (pg : Page) (n : Nat) : (s.raise pg n).helioPs = s.helioPs := by rw [Block.raise_only]
@[simp] theorem Block.raise_vregs (pg : Page) (n : Nat) : (s.raise pg n).vregs = s.vregs := by rw [Block.raise_only]
@[simp] theorem Block.raise_boot (pg : Page) (n : Nat) : (s.raise pg n).boot = s.boot := by rw [Block.raise_only]
@[simp] theorem Block.raise_flash (pg : Page) (n : Nat) : (s.raise pg n).flash = s.flash := by rw [Block.raise_only]
@[simp] theorem Block.raise_poisonLatch (pg : Page) (n : Nat) : (s.raise pg n).poisonLatch = s.poisonLatch := by rw [Block.raise_only]
@[simp] theorem Block.raise_poisonFirst (pg : Page) (n : Nat) : (s.raise pg n).poisonFirst = s.poisonFirst := by rw [Block.raise_only]
@[simp] theorem Block.raise_poisonTick (pg : Page) (n : Nat) : (s.raise pg n).poisonTick = s.poisonTick := by rw [Block.raise_only]
@[simp] theorem Block.raise_warmDue (pg : Page) (n : Nat) : (s.raise pg n).warmDue = s.warmDue := by rw [Block.raise_only]
@[simp] theorem Block.raise_images (pg : Page) (n : Nat) : (s.raise pg n).images = s.images := by rw [Block.raise_only]
@[simp] theorem Block.raise_mirrors (pg : Page) (n : Nat) : (s.raise pg n).mirrors = s.mirrors := by rw [Block.raise_only]
@[simp] theorem Block.raise_pcie (pg : Page) (n : Nat) : (s.raise pg n).pcie = s.pcie := by rw [Block.raise_only]
@[simp] theorem Block.raise_alm (pg : Page) (n : Nat) : (s.raise pg n).alm = s.alm := by rw [Block.raise_only]
@[simp] theorem Block.raise_feat (pg : Page) (n : Nat) : (s.raise pg n).feat = s.feat := by rw [Block.raise_only]
@[simp] theorem Block.raise_bundle (pg : Page) (n : Nat) : (s.raise pg n).bundle = s.bundle := by rw [Block.raise_only]
@[simp] theorem Block.raise_part (pg : Page) (n : Nat) (a : Nat) : (s.raise pg n).part a = s.part a := by
  rw [Block.raise_only]; rfl
@[simp] theorem Block.raise_core (pg : Page) (n : Nat) (a b : Nat) : (s.raise pg n).core a b = s.core a b := by
  rw [Block.raise_only]; rfl
@[simp] theorem Block.raise_slot (pg : Page) (n : Nat) (a b c : Nat) : (s.raise pg n).slot a b c = s.slot a b c := by
  rw [Block.raise_only]; rfl
@[simp] theorem Block.raise_mmu (pg : Page) (n : Nat) (a : Nat) : (s.raise pg n).mmu a = s.mmu a := by
  rw [Block.raise_only]; rfl
@[simp] theorem Block.raise_port (pg : Page) (n : Nat) (a : Nat) : (s.raise pg n).port a = s.port a := by
  rw [Block.raise_only]; rfl
@[simp] theorem Block.raise_reg (pg : Page) (n : Nat) (a : Page) (b : Nat) : (s.raise pg n).reg a b = s.reg a b := by
  rw [Block.raise_only]; rfl
@[simp] theorem Block.raise_syn (pg : Page) (n : Nat) (a : Nat) : (s.raise pg n).syn a = s.syn a := by
  rw [Block.raise_only]; rfl
@[simp] theorem Block.raise_hp (pg : Page) (n : Nat) (a : Nat) : (s.raise pg n).hp a = s.hp a := by
  rw [Block.raise_only]; rfl
@[simp] theorem Block.raise_link (pg : Page) (n : Nat) (a : Nat) : (s.raise pg n).link a = s.link a := by
  rw [Block.raise_only]; rfl
@[simp] theorem Block.raise_eng (pg : Page) (n : Nat) (a b : Nat) : (s.raise pg n).eng a b = s.eng a b := by
  rw [Block.raise_only]; rfl
@[simp] theorem Block.raise_queue (pg : Page) (n : Nat) (a b : Nat) : (s.raise pg n).queue a b = s.queue a b := by
  rw [Block.raise_only]; rfl
@[simp] theorem Block.raise_rhost (pg : Page) (n : Nat) (a : Nat) : (s.raise pg n).rhost a = s.rhost a := by
  rw [Block.raise_only]; rfl
@[simp] theorem Block.raise_ring (pg : Page) (n : Nat) (a : Nat) : (s.raise pg n).ring a = s.ring a := by
  rw [Block.raise_only]; rfl

/-- What `clamped` may change. -/
theorem Block.clamped_only (pg : Page) (o : Nat) :
    s.clamped pg o =
      { s with pages := (s.clamped pg o).pages, out := (s.clamped pg o).out } := by
  exact Block.modIrq_only s pg _

@[simp] theorem Block.clamped_timeUs (pg : Page) (o : Nat) : (s.clamped pg o).timeUs = s.timeUs := by rw [Block.clamped_only]
@[simp] theorem Block.clamped_regs (pg : Page) (o : Nat) : (s.clamped pg o).regs = s.regs := by rw [Block.clamped_only]
@[simp] theorem Block.clamped_logs (pg : Page) (o : Nat) : (s.clamped pg o).logs = s.logs := by rw [Block.clamped_only]
@[simp] theorem Block.clamped_frameBound (pg : Page) (o : Nat) : (s.clamped pg o).frameBound = s.frameBound := by rw [Block.clamped_only]
@[simp] theorem Block.clamped_ram (pg : Page) (o : Nat) : (s.clamped pg o).ram = s.ram := by rw [Block.clamped_only]
@[simp] theorem Block.clamped_merid (pg : Page) (o : Nat) : (s.clamped pg o).merid = s.merid := by rw [Block.clamped_only]
@[simp] theorem Block.clamped_parts (pg : Page) (o : Nat) : (s.clamped pg o).parts = s.parts := by rw [Block.clamped_only]
@[simp] theorem Block.clamped_cores (pg : Page) (o : Nat) : (s.clamped pg o).cores = s.cores := by rw [Block.clamped_only]
@[simp] theorem Block.clamped_slots (pg : Page) (o : Nat) : (s.clamped pg o).slots = s.slots := by rw [Block.clamped_only]
@[simp] theorem Block.clamped_tiers (pg : Page) (o : Nat) : (s.clamped pg o).tiers = s.tiers := by rw [Block.clamped_only]
@[simp] theorem Block.clamped_mscs (pg : Page) (o : Nat) : (s.clamped pg o).mscs = s.mscs := by rw [Block.clamped_only]
@[simp] theorem Block.clamped_hbmcs (pg : Page) (o : Nat) : (s.clamped pg o).hbmcs = s.hbmcs := by rw [Block.clamped_only]
@[simp] theorem Block.clamped_capcs (pg : Page) (o : Nat) : (s.clamped pg o).capcs = s.capcs := by rw [Block.clamped_only]
@[simp] theorem Block.clamped_mmus (pg : Page) (o : Nat) : (s.clamped pg o).mmus = s.mmus := by rw [Block.clamped_only]
@[simp] theorem Block.clamped_syncs (pg : Page) (o : Nat) : (s.clamped pg o).syncs = s.syncs := by rw [Block.clamped_only]
@[simp] theorem Block.clamped_links (pg : Page) (o : Nat) : (s.clamped pg o).links = s.links := by rw [Block.clamped_only]
@[simp] theorem Block.clamped_routes (pg : Page) (o : Nat) : (s.clamped pg o).routes = s.routes := by rw [Block.clamped_only]
@[simp] theorem Block.clamped_xu (pg : Page) (o : Nat) : (s.clamped pg o).xu = s.xu := by rw [Block.clamped_only]
@[simp] theorem Block.clamped_engs (pg : Page) (o : Nat) : (s.clamped pg o).engs = s.engs := by rw [Block.clamped_only]
@[simp] theorem Block.clamped_queues (pg : Page) (o : Nat) : (s.clamped pg o).queues = s.queues := by rw [Block.clamped_only]
@[simp] theorem Block.clamped_coll (pg : Page) (o : Nat) : (s.clamped pg o).coll = s.coll := by rw [Block.clamped_only]
@[simp] theorem Block.clamped_upd (pg : Page) (o : Nat) : (s.clamped pg o).upd = s.upd := by rw [Block.clamped_only]
@[simp] theorem Block.clamped_eph (pg : Page) (o : Nat) : (s.clamped pg o).eph = s.eph := by rw [Block.clamped_only]
@[simp] theorem Block.clamped_rhosts (pg : Page) (o : Nat) : (s.clamped pg o).rhosts = s.rhosts := by rw [Block.clamped_only]
@[simp] theorem Block.clamped_helio (pg : Page) (o : Nat) : (s.clamped pg o).helio = s.helio := by rw [Block.clamped_only]
@[simp] theorem Block.clamped_helioPs (pg : Page) (o : Nat) : (s.clamped pg o).helioPs = s.helioPs := by rw [Block.clamped_only]
@[simp] theorem Block.clamped_vregs (pg : Page) (o : Nat) : (s.clamped pg o).vregs = s.vregs := by rw [Block.clamped_only]
@[simp] theorem Block.clamped_boot (pg : Page) (o : Nat) : (s.clamped pg o).boot = s.boot := by rw [Block.clamped_only]
@[simp] theorem Block.clamped_flash (pg : Page) (o : Nat) : (s.clamped pg o).flash = s.flash := by rw [Block.clamped_only]
@[simp] theorem Block.clamped_poisonLatch (pg : Page) (o : Nat) : (s.clamped pg o).poisonLatch = s.poisonLatch := by rw [Block.clamped_only]
@[simp] theorem Block.clamped_poisonFirst (pg : Page) (o : Nat) : (s.clamped pg o).poisonFirst = s.poisonFirst := by rw [Block.clamped_only]
@[simp] theorem Block.clamped_poisonTick (pg : Page) (o : Nat) : (s.clamped pg o).poisonTick = s.poisonTick := by rw [Block.clamped_only]
@[simp] theorem Block.clamped_warmDue (pg : Page) (o : Nat) : (s.clamped pg o).warmDue = s.warmDue := by rw [Block.clamped_only]
@[simp] theorem Block.clamped_images (pg : Page) (o : Nat) : (s.clamped pg o).images = s.images := by rw [Block.clamped_only]
@[simp] theorem Block.clamped_mirrors (pg : Page) (o : Nat) : (s.clamped pg o).mirrors = s.mirrors := by rw [Block.clamped_only]
@[simp] theorem Block.clamped_pcie (pg : Page) (o : Nat) : (s.clamped pg o).pcie = s.pcie := by rw [Block.clamped_only]
@[simp] theorem Block.clamped_mgmt (pg : Page) (o : Nat) : (s.clamped pg o).mgmt = s.mgmt := by rw [Block.clamped_only]
@[simp] theorem Block.clamped_eyep (pg : Page) (o : Nat) : (s.clamped pg o).eyep = s.eyep := by rw [Block.clamped_only]
@[simp] theorem Block.clamped_alm (pg : Page) (o : Nat) : (s.clamped pg o).alm = s.alm := by rw [Block.clamped_only]
@[simp] theorem Block.clamped_feat (pg : Page) (o : Nat) : (s.clamped pg o).feat = s.feat := by rw [Block.clamped_only]
@[simp] theorem Block.clamped_bundle (pg : Page) (o : Nat) : (s.clamped pg o).bundle = s.bundle := by rw [Block.clamped_only]
@[simp] theorem Block.clamped_fv (pg : Page) (o : Nat) : (s.clamped pg o).fv = s.fv := by rw [Block.clamped_only]
@[simp] theorem Block.clamped_part (pg : Page) (o : Nat) (a : Nat) : (s.clamped pg o).part a = s.part a := by
  rw [Block.clamped_only]; rfl
@[simp] theorem Block.clamped_core (pg : Page) (o : Nat) (a b : Nat) : (s.clamped pg o).core a b = s.core a b := by
  rw [Block.clamped_only]; rfl
@[simp] theorem Block.clamped_slot (pg : Page) (o : Nat) (a b c : Nat) : (s.clamped pg o).slot a b c = s.slot a b c := by
  rw [Block.clamped_only]; rfl
@[simp] theorem Block.clamped_msc (pg : Page) (o : Nat) (a : Nat) : (s.clamped pg o).msc a = s.msc a := by
  rw [Block.clamped_only]; rfl
@[simp] theorem Block.clamped_hbmc (pg : Page) (o : Nat) (a : Nat) : (s.clamped pg o).hbmc a = s.hbmc a := by
  rw [Block.clamped_only]; rfl
@[simp] theorem Block.clamped_capc (pg : Page) (o : Nat) (a : Nat) : (s.clamped pg o).capc a = s.capc a := by
  rw [Block.clamped_only]; rfl
@[simp] theorem Block.clamped_mmu (pg : Page) (o : Nat) (a : Nat) : (s.clamped pg o).mmu a = s.mmu a := by
  rw [Block.clamped_only]; rfl
@[simp] theorem Block.clamped_port (pg : Page) (o : Nat) (a : Nat) : (s.clamped pg o).port a = s.port a := by
  rw [Block.clamped_only]; rfl
@[simp] theorem Block.clamped_reg (pg : Page) (o : Nat) (a : Page) (b : Nat) : (s.clamped pg o).reg a b = s.reg a b := by
  rw [Block.clamped_only]; rfl
@[simp] theorem Block.clamped_syn (pg : Page) (o : Nat) (a : Nat) : (s.clamped pg o).syn a = s.syn a := by
  rw [Block.clamped_only]; rfl
@[simp] theorem Block.clamped_hp (pg : Page) (o : Nat) (a : Nat) : (s.clamped pg o).hp a = s.hp a := by
  rw [Block.clamped_only]; rfl
@[simp] theorem Block.clamped_link (pg : Page) (o : Nat) (a : Nat) : (s.clamped pg o).link a = s.link a := by
  rw [Block.clamped_only]; rfl
@[simp] theorem Block.clamped_eng (pg : Page) (o : Nat) (a b : Nat) : (s.clamped pg o).eng a b = s.eng a b := by
  rw [Block.clamped_only]; rfl
@[simp] theorem Block.clamped_queue (pg : Page) (o : Nat) (a b : Nat) : (s.clamped pg o).queue a b = s.queue a b := by
  rw [Block.clamped_only]; rfl
@[simp] theorem Block.clamped_rhost (pg : Page) (o : Nat) (a : Nat) : (s.clamped pg o).rhost a = s.rhost a := by
  rw [Block.clamped_only]; rfl
@[simp] theorem Block.clamped_ring (pg : Page) (o : Nat) (a : Nat) : (s.clamped pg o).ring a = s.ring a := by
  rw [Block.clamped_only]; rfl
@[simp] theorem Block.clamped_logOf (pg : Page) (o : Nat) (a : Page) (b : Nat) : (s.clamped pg o).logOf a b = s.logOf a b := by
  rw [Block.clamped_only]; rfl

/-- What `jobFault` may change. -/
theorem Block.jobFault_only (p cause job detail lcore : Nat) :
    s.jobFault p cause job detail lcore =
      { s with pages := (s.jobFault p cause job detail lcore).pages, logs := (s.jobFault p cause job detail lcore).logs,
               ram := (s.jobFault p cause job detail lcore).ram, parts := (s.jobFault p cause job detail lcore).parts,
               mscs := (s.jobFault p cause job detail lcore).mscs, hbmcs := (s.jobFault p cause job detail lcore).hbmcs,
               capcs := (s.jobFault p cause job detail lcore).capcs, mgmt := (s.jobFault p cause job detail lcore).mgmt,
               eyep := (s.jobFault p cause job detail lcore).eyep, out := (s.jobFault p cause job detail lcore).out,
               fv := (s.jobFault p cause job detail lcore).fv } := by
  unfold Block.jobFault Block.modPart
  dsimp only
  split_ifs
  · rw [Block.log_only]
  · rw [Block.raise_only, Block.log_only]

@[simp] theorem Block.jobFault_timeUs (p cause job detail lcore : Nat) : (s.jobFault p cause job detail lcore).timeUs = s.timeUs := by rw [Block.jobFault_only]
@[simp] theorem Block.jobFault_regs (p cause job detail lcore : Nat) : (s.jobFault p cause job detail lcore).regs = s.regs := by rw [Block.jobFault_only]
@[simp] theorem Block.jobFault_frameBound (p cause job detail lcore : Nat) : (s.jobFault p cause job detail lcore).frameBound = s.frameBound := by rw [Block.jobFault_only]
@[simp] theorem Block.jobFault_merid (p cause job detail lcore : Nat) : (s.jobFault p cause job detail lcore).merid = s.merid := by rw [Block.jobFault_only]
@[simp] theorem Block.jobFault_cores (p cause job detail lcore : Nat) : (s.jobFault p cause job detail lcore).cores = s.cores := by rw [Block.jobFault_only]
@[simp] theorem Block.jobFault_slots (p cause job detail lcore : Nat) : (s.jobFault p cause job detail lcore).slots = s.slots := by rw [Block.jobFault_only]
@[simp] theorem Block.jobFault_tiers (p cause job detail lcore : Nat) : (s.jobFault p cause job detail lcore).tiers = s.tiers := by rw [Block.jobFault_only]
@[simp] theorem Block.jobFault_mmus (p cause job detail lcore : Nat) : (s.jobFault p cause job detail lcore).mmus = s.mmus := by rw [Block.jobFault_only]
@[simp] theorem Block.jobFault_syncs (p cause job detail lcore : Nat) : (s.jobFault p cause job detail lcore).syncs = s.syncs := by rw [Block.jobFault_only]
@[simp] theorem Block.jobFault_links (p cause job detail lcore : Nat) : (s.jobFault p cause job detail lcore).links = s.links := by rw [Block.jobFault_only]
@[simp] theorem Block.jobFault_routes (p cause job detail lcore : Nat) : (s.jobFault p cause job detail lcore).routes = s.routes := by rw [Block.jobFault_only]
@[simp] theorem Block.jobFault_xu (p cause job detail lcore : Nat) : (s.jobFault p cause job detail lcore).xu = s.xu := by rw [Block.jobFault_only]
@[simp] theorem Block.jobFault_engs (p cause job detail lcore : Nat) : (s.jobFault p cause job detail lcore).engs = s.engs := by rw [Block.jobFault_only]
@[simp] theorem Block.jobFault_queues (p cause job detail lcore : Nat) : (s.jobFault p cause job detail lcore).queues = s.queues := by rw [Block.jobFault_only]
@[simp] theorem Block.jobFault_coll (p cause job detail lcore : Nat) : (s.jobFault p cause job detail lcore).coll = s.coll := by rw [Block.jobFault_only]
@[simp] theorem Block.jobFault_upd (p cause job detail lcore : Nat) : (s.jobFault p cause job detail lcore).upd = s.upd := by rw [Block.jobFault_only]
@[simp] theorem Block.jobFault_eph (p cause job detail lcore : Nat) : (s.jobFault p cause job detail lcore).eph = s.eph := by rw [Block.jobFault_only]
@[simp] theorem Block.jobFault_rhosts (p cause job detail lcore : Nat) : (s.jobFault p cause job detail lcore).rhosts = s.rhosts := by rw [Block.jobFault_only]
@[simp] theorem Block.jobFault_helio (p cause job detail lcore : Nat) : (s.jobFault p cause job detail lcore).helio = s.helio := by rw [Block.jobFault_only]
@[simp] theorem Block.jobFault_helioPs (p cause job detail lcore : Nat) : (s.jobFault p cause job detail lcore).helioPs = s.helioPs := by rw [Block.jobFault_only]
@[simp] theorem Block.jobFault_vregs (p cause job detail lcore : Nat) : (s.jobFault p cause job detail lcore).vregs = s.vregs := by rw [Block.jobFault_only]
@[simp] theorem Block.jobFault_boot (p cause job detail lcore : Nat) : (s.jobFault p cause job detail lcore).boot = s.boot := by rw [Block.jobFault_only]
@[simp] theorem Block.jobFault_flash (p cause job detail lcore : Nat) : (s.jobFault p cause job detail lcore).flash = s.flash := by rw [Block.jobFault_only]
@[simp] theorem Block.jobFault_poisonLatch (p cause job detail lcore : Nat) : (s.jobFault p cause job detail lcore).poisonLatch = s.poisonLatch := by rw [Block.jobFault_only]
@[simp] theorem Block.jobFault_poisonFirst (p cause job detail lcore : Nat) : (s.jobFault p cause job detail lcore).poisonFirst = s.poisonFirst := by rw [Block.jobFault_only]
@[simp] theorem Block.jobFault_poisonTick (p cause job detail lcore : Nat) : (s.jobFault p cause job detail lcore).poisonTick = s.poisonTick := by rw [Block.jobFault_only]
@[simp] theorem Block.jobFault_warmDue (p cause job detail lcore : Nat) : (s.jobFault p cause job detail lcore).warmDue = s.warmDue := by rw [Block.jobFault_only]
@[simp] theorem Block.jobFault_images (p cause job detail lcore : Nat) : (s.jobFault p cause job detail lcore).images = s.images := by rw [Block.jobFault_only]
@[simp] theorem Block.jobFault_mirrors (p cause job detail lcore : Nat) : (s.jobFault p cause job detail lcore).mirrors = s.mirrors := by rw [Block.jobFault_only]
@[simp] theorem Block.jobFault_pcie (p cause job detail lcore : Nat) : (s.jobFault p cause job detail lcore).pcie = s.pcie := by rw [Block.jobFault_only]
@[simp] theorem Block.jobFault_alm (p cause job detail lcore : Nat) : (s.jobFault p cause job detail lcore).alm = s.alm := by rw [Block.jobFault_only]
@[simp] theorem Block.jobFault_feat (p cause job detail lcore : Nat) : (s.jobFault p cause job detail lcore).feat = s.feat := by rw [Block.jobFault_only]
@[simp] theorem Block.jobFault_bundle (p cause job detail lcore : Nat) : (s.jobFault p cause job detail lcore).bundle = s.bundle := by rw [Block.jobFault_only]
@[simp] theorem Block.jobFault_core (p cause job detail lcore : Nat) (a b : Nat) : (s.jobFault p cause job detail lcore).core a b = s.core a b := by
  rw [Block.jobFault_only]; rfl
@[simp] theorem Block.jobFault_slot (p cause job detail lcore : Nat) (a b c : Nat) : (s.jobFault p cause job detail lcore).slot a b c = s.slot a b c := by
  rw [Block.jobFault_only]; rfl
@[simp] theorem Block.jobFault_mmu (p cause job detail lcore : Nat) (a : Nat) : (s.jobFault p cause job detail lcore).mmu a = s.mmu a := by
  rw [Block.jobFault_only]; rfl
@[simp] theorem Block.jobFault_port (p cause job detail lcore : Nat) (a : Nat) : (s.jobFault p cause job detail lcore).port a = s.port a := by
  rw [Block.jobFault_only]; rfl
@[simp] theorem Block.jobFault_reg (p cause job detail lcore : Nat) (a : Page) (b : Nat) : (s.jobFault p cause job detail lcore).reg a b = s.reg a b := by
  rw [Block.jobFault_only]; rfl
@[simp] theorem Block.jobFault_syn (p cause job detail lcore : Nat) (a : Nat) : (s.jobFault p cause job detail lcore).syn a = s.syn a := by
  rw [Block.jobFault_only]; rfl
@[simp] theorem Block.jobFault_hp (p cause job detail lcore : Nat) (a : Nat) : (s.jobFault p cause job detail lcore).hp a = s.hp a := by
  rw [Block.jobFault_only]; rfl
@[simp] theorem Block.jobFault_link (p cause job detail lcore : Nat) (a : Nat) : (s.jobFault p cause job detail lcore).link a = s.link a := by
  rw [Block.jobFault_only]; rfl
@[simp] theorem Block.jobFault_eng (p cause job detail lcore : Nat) (a b : Nat) : (s.jobFault p cause job detail lcore).eng a b = s.eng a b := by
  rw [Block.jobFault_only]; rfl
@[simp] theorem Block.jobFault_queue (p cause job detail lcore : Nat) (a b : Nat) : (s.jobFault p cause job detail lcore).queue a b = s.queue a b := by
  rw [Block.jobFault_only]; rfl
@[simp] theorem Block.jobFault_rhost (p cause job detail lcore : Nat) (a : Nat) : (s.jobFault p cause job detail lcore).rhost a = s.rhost a := by
  rw [Block.jobFault_only]; rfl
@[simp] theorem Block.jobFault_ring (p cause job detail lcore : Nat) (a : Nat) : (s.jobFault p cause job detail lcore).ring a = s.ring a := by
  rw [Block.jobFault_only]; rfl

/-- What `observePoison` may change. -/
theorem Block.observePoison_only (pg : Page) :
    s.observePoison pg =
      { s with pages := (s.observePoison pg).pages, logs := (s.observePoison pg).logs, ram := (s.observePoison pg).ram,
               parts := (s.observePoison pg).parts, mscs := (s.observePoison pg).mscs, hbmcs := (s.observePoison pg).hbmcs,
               capcs := (s.observePoison pg).capcs, poisonLatch := (s.observePoison pg).poisonLatch,
               poisonFirst := (s.observePoison pg).poisonFirst, mgmt := (s.observePoison pg).mgmt,
               eyep := (s.observePoison pg).eyep, out := (s.observePoison pg).out, fv := (s.observePoison pg).fv } := by
  unfold Block.observePoison Block.modPart
  dsimp only
  split_ifs <;> first | (rw [Block.raise_only, Block.log_only]; done) | (rw [Block.log_only]; done)

@[simp] theorem Block.observePoison_timeUs (pg : Page) : (s.observePoison pg).timeUs = s.timeUs := by rw [Block.observePoison_only]
@[simp] theorem Block.observePoison_regs (pg : Page) : (s.observePoison pg).regs = s.regs := by rw [Block.observePoison_only]
@[simp] theorem Block.observePoison_frameBound (pg : Page) : (s.observePoison pg).frameBound = s.frameBound := by rw [Block.observePoison_only]
@[simp] theorem Block.observePoison_merid (pg : Page) : (s.observePoison pg).merid = s.merid := by rw [Block.observePoison_only]
@[simp] theorem Block.observePoison_cores (pg : Page) : (s.observePoison pg).cores = s.cores := by rw [Block.observePoison_only]
@[simp] theorem Block.observePoison_slots (pg : Page) : (s.observePoison pg).slots = s.slots := by rw [Block.observePoison_only]
@[simp] theorem Block.observePoison_tiers (pg : Page) : (s.observePoison pg).tiers = s.tiers := by rw [Block.observePoison_only]
@[simp] theorem Block.observePoison_mmus (pg : Page) : (s.observePoison pg).mmus = s.mmus := by rw [Block.observePoison_only]
@[simp] theorem Block.observePoison_syncs (pg : Page) : (s.observePoison pg).syncs = s.syncs := by rw [Block.observePoison_only]
@[simp] theorem Block.observePoison_links (pg : Page) : (s.observePoison pg).links = s.links := by rw [Block.observePoison_only]
@[simp] theorem Block.observePoison_routes (pg : Page) : (s.observePoison pg).routes = s.routes := by rw [Block.observePoison_only]
@[simp] theorem Block.observePoison_xu (pg : Page) : (s.observePoison pg).xu = s.xu := by rw [Block.observePoison_only]
@[simp] theorem Block.observePoison_engs (pg : Page) : (s.observePoison pg).engs = s.engs := by rw [Block.observePoison_only]
@[simp] theorem Block.observePoison_queues (pg : Page) : (s.observePoison pg).queues = s.queues := by rw [Block.observePoison_only]
@[simp] theorem Block.observePoison_coll (pg : Page) : (s.observePoison pg).coll = s.coll := by rw [Block.observePoison_only]
@[simp] theorem Block.observePoison_upd (pg : Page) : (s.observePoison pg).upd = s.upd := by rw [Block.observePoison_only]
@[simp] theorem Block.observePoison_eph (pg : Page) : (s.observePoison pg).eph = s.eph := by rw [Block.observePoison_only]
@[simp] theorem Block.observePoison_rhosts (pg : Page) : (s.observePoison pg).rhosts = s.rhosts := by rw [Block.observePoison_only]
@[simp] theorem Block.observePoison_helio (pg : Page) : (s.observePoison pg).helio = s.helio := by rw [Block.observePoison_only]
@[simp] theorem Block.observePoison_helioPs (pg : Page) : (s.observePoison pg).helioPs = s.helioPs := by rw [Block.observePoison_only]
@[simp] theorem Block.observePoison_vregs (pg : Page) : (s.observePoison pg).vregs = s.vregs := by rw [Block.observePoison_only]
@[simp] theorem Block.observePoison_boot (pg : Page) : (s.observePoison pg).boot = s.boot := by rw [Block.observePoison_only]
@[simp] theorem Block.observePoison_flash (pg : Page) : (s.observePoison pg).flash = s.flash := by rw [Block.observePoison_only]
@[simp] theorem Block.observePoison_poisonTick (pg : Page) : (s.observePoison pg).poisonTick = s.poisonTick := by rw [Block.observePoison_only]
@[simp] theorem Block.observePoison_warmDue (pg : Page) : (s.observePoison pg).warmDue = s.warmDue := by rw [Block.observePoison_only]
@[simp] theorem Block.observePoison_images (pg : Page) : (s.observePoison pg).images = s.images := by rw [Block.observePoison_only]
@[simp] theorem Block.observePoison_mirrors (pg : Page) : (s.observePoison pg).mirrors = s.mirrors := by rw [Block.observePoison_only]
@[simp] theorem Block.observePoison_pcie (pg : Page) : (s.observePoison pg).pcie = s.pcie := by rw [Block.observePoison_only]
@[simp] theorem Block.observePoison_alm (pg : Page) : (s.observePoison pg).alm = s.alm := by rw [Block.observePoison_only]
@[simp] theorem Block.observePoison_feat (pg : Page) : (s.observePoison pg).feat = s.feat := by rw [Block.observePoison_only]
@[simp] theorem Block.observePoison_bundle (pg : Page) : (s.observePoison pg).bundle = s.bundle := by rw [Block.observePoison_only]
@[simp] theorem Block.observePoison_core (pg : Page) (a b : Nat) : (s.observePoison pg).core a b = s.core a b := by
  rw [Block.observePoison_only]; rfl
@[simp] theorem Block.observePoison_slot (pg : Page) (a b c : Nat) : (s.observePoison pg).slot a b c = s.slot a b c := by
  rw [Block.observePoison_only]; rfl
@[simp] theorem Block.observePoison_mmu (pg : Page) (a : Nat) : (s.observePoison pg).mmu a = s.mmu a := by
  rw [Block.observePoison_only]; rfl
@[simp] theorem Block.observePoison_port (pg : Page) (a : Nat) : (s.observePoison pg).port a = s.port a := by
  rw [Block.observePoison_only]; rfl
@[simp] theorem Block.observePoison_reg (pg : Page) (a : Page) (b : Nat) : (s.observePoison pg).reg a b = s.reg a b := by
  rw [Block.observePoison_only]; rfl
@[simp] theorem Block.observePoison_syn (pg : Page) (a : Nat) : (s.observePoison pg).syn a = s.syn a := by
  rw [Block.observePoison_only]; rfl
@[simp] theorem Block.observePoison_hp (pg : Page) (a : Nat) : (s.observePoison pg).hp a = s.hp a := by
  rw [Block.observePoison_only]; rfl
@[simp] theorem Block.observePoison_link (pg : Page) (a : Nat) : (s.observePoison pg).link a = s.link a := by
  rw [Block.observePoison_only]; rfl
@[simp] theorem Block.observePoison_eng (pg : Page) (a b : Nat) : (s.observePoison pg).eng a b = s.eng a b := by
  rw [Block.observePoison_only]; rfl
@[simp] theorem Block.observePoison_queue (pg : Page) (a b : Nat) : (s.observePoison pg).queue a b = s.queue a b := by
  rw [Block.observePoison_only]; rfl
@[simp] theorem Block.observePoison_rhost (pg : Page) (a : Nat) : (s.observePoison pg).rhost a = s.rhost a := by
  rw [Block.observePoison_only]; rfl
@[simp] theorem Block.observePoison_ring (pg : Page) (a : Nat) : (s.observePoison pg).ring a = s.ring a := by
  rw [Block.observePoison_only]; rfl

/-- The block without what a core fault may change. -/
def Block.faultRest (s : Block) : Block := { s.traceRest with mgmt := {}, parts := [], cores := [], slots := [] }

/-- Blocks with the same rest differ only in what a core fault may change. -/
theorem Block.eq_of_faultRest {s t : Block} (h : t.faultRest = s.faultRest) :
    t = { s with pages := t.pages, logs := t.logs, ram := t.ram, parts := t.parts, cores := t.cores, slots := t.slots,
                 mscs := t.mscs, hbmcs := t.hbmcs, capcs := t.capcs, mgmt := t.mgmt, eyep := t.eyep, out := t.out, fv := t.fv } := by
  cases s
  cases t
  simp only [Block.faultRest, Block.traceRest, Block.tierRest, Block.mk.injEq] at h ⊢
  simp [h]

theorem Block.log_faultRest (pg : Page) (n : Nat) : (s.log pg n).faultRest = s.faultRest := by rw [Block.log_only]; rfl
theorem Block.raise_faultRest (pg : Page) (n : Nat) : (s.raise pg n).faultRest = s.faultRest := by rw [Block.raise_only]; rfl
theorem Block.modSlot_faultRest (p i sl : Nat) (f : Slot → Slot) : (s.modSlot p i sl f).faultRest = s.faultRest := rfl
theorem Block.modCore_faultRest (p i : Nat) (f : Core → Core) : (s.modCore p i f).faultRest = s.faultRest := rfl
theorem Block.jobFault_faultRest (p cause job detail lcore : Nat) :
    (s.jobFault p cause job detail lcore).faultRest = s.faultRest := by rw [Block.jobFault_only]; rfl

theorem Block.coreFault_faultRest (p i sl : Nat) (c : CoreFault) (d : Nat) :
    (s.coreFault p i sl c d).faultRest = s.faultRest := by
  unfold Block.coreFault
  dsimp only
  cases c.counter <;> dsimp only <;> split_ifs <;>
    simp only [Block.log_faultRest, Block.raise_faultRest, Block.modSlot_faultRest, Block.modCore_faultRest,
      Block.jobFault_faultRest]

/-- What `coreFault` may change. -/
theorem Block.coreFault_only (p i sl : Nat) (c : CoreFault) (d : Nat) :
    s.coreFault p i sl c d =
      { s with pages := (s.coreFault p i sl c d).pages, logs := (s.coreFault p i sl c d).logs,
               ram := (s.coreFault p i sl c d).ram, parts := (s.coreFault p i sl c d).parts,
               cores := (s.coreFault p i sl c d).cores, slots := (s.coreFault p i sl c d).slots,
               mscs := (s.coreFault p i sl c d).mscs, hbmcs := (s.coreFault p i sl c d).hbmcs,
               capcs := (s.coreFault p i sl c d).capcs, mgmt := (s.coreFault p i sl c d).mgmt,
               eyep := (s.coreFault p i sl c d).eyep, out := (s.coreFault p i sl c d).out,
               fv := (s.coreFault p i sl c d).fv } := by
  exact Block.eq_of_faultRest (s.coreFault_faultRest p i sl c d)

@[simp] theorem Block.coreFault_timeUs (p i sl : Nat) (c : CoreFault) (d : Nat) : (s.coreFault p i sl c d).timeUs = s.timeUs := by rw [Block.coreFault_only]
@[simp] theorem Block.coreFault_regs (p i sl : Nat) (c : CoreFault) (d : Nat) : (s.coreFault p i sl c d).regs = s.regs := by rw [Block.coreFault_only]
@[simp] theorem Block.coreFault_frameBound (p i sl : Nat) (c : CoreFault) (d : Nat) : (s.coreFault p i sl c d).frameBound = s.frameBound := by rw [Block.coreFault_only]
@[simp] theorem Block.coreFault_merid (p i sl : Nat) (c : CoreFault) (d : Nat) : (s.coreFault p i sl c d).merid = s.merid := by rw [Block.coreFault_only]
@[simp] theorem Block.coreFault_tiers (p i sl : Nat) (c : CoreFault) (d : Nat) : (s.coreFault p i sl c d).tiers = s.tiers := by rw [Block.coreFault_only]
@[simp] theorem Block.coreFault_mmus (p i sl : Nat) (c : CoreFault) (d : Nat) : (s.coreFault p i sl c d).mmus = s.mmus := by rw [Block.coreFault_only]
@[simp] theorem Block.coreFault_syncs (p i sl : Nat) (c : CoreFault) (d : Nat) : (s.coreFault p i sl c d).syncs = s.syncs := by rw [Block.coreFault_only]
@[simp] theorem Block.coreFault_links (p i sl : Nat) (c : CoreFault) (d : Nat) : (s.coreFault p i sl c d).links = s.links := by rw [Block.coreFault_only]
@[simp] theorem Block.coreFault_routes (p i sl : Nat) (c : CoreFault) (d : Nat) : (s.coreFault p i sl c d).routes = s.routes := by rw [Block.coreFault_only]
@[simp] theorem Block.coreFault_xu (p i sl : Nat) (c : CoreFault) (d : Nat) : (s.coreFault p i sl c d).xu = s.xu := by rw [Block.coreFault_only]
@[simp] theorem Block.coreFault_engs (p i sl : Nat) (c : CoreFault) (d : Nat) : (s.coreFault p i sl c d).engs = s.engs := by rw [Block.coreFault_only]
@[simp] theorem Block.coreFault_queues (p i sl : Nat) (c : CoreFault) (d : Nat) : (s.coreFault p i sl c d).queues = s.queues := by rw [Block.coreFault_only]
@[simp] theorem Block.coreFault_coll (p i sl : Nat) (c : CoreFault) (d : Nat) : (s.coreFault p i sl c d).coll = s.coll := by rw [Block.coreFault_only]
@[simp] theorem Block.coreFault_upd (p i sl : Nat) (c : CoreFault) (d : Nat) : (s.coreFault p i sl c d).upd = s.upd := by rw [Block.coreFault_only]
@[simp] theorem Block.coreFault_eph (p i sl : Nat) (c : CoreFault) (d : Nat) : (s.coreFault p i sl c d).eph = s.eph := by rw [Block.coreFault_only]
@[simp] theorem Block.coreFault_rhosts (p i sl : Nat) (c : CoreFault) (d : Nat) : (s.coreFault p i sl c d).rhosts = s.rhosts := by rw [Block.coreFault_only]
@[simp] theorem Block.coreFault_helio (p i sl : Nat) (c : CoreFault) (d : Nat) : (s.coreFault p i sl c d).helio = s.helio := by rw [Block.coreFault_only]
@[simp] theorem Block.coreFault_helioPs (p i sl : Nat) (c : CoreFault) (d : Nat) : (s.coreFault p i sl c d).helioPs = s.helioPs := by rw [Block.coreFault_only]
@[simp] theorem Block.coreFault_vregs (p i sl : Nat) (c : CoreFault) (d : Nat) : (s.coreFault p i sl c d).vregs = s.vregs := by rw [Block.coreFault_only]
@[simp] theorem Block.coreFault_boot (p i sl : Nat) (c : CoreFault) (d : Nat) : (s.coreFault p i sl c d).boot = s.boot := by rw [Block.coreFault_only]
@[simp] theorem Block.coreFault_flash (p i sl : Nat) (c : CoreFault) (d : Nat) : (s.coreFault p i sl c d).flash = s.flash := by rw [Block.coreFault_only]
@[simp] theorem Block.coreFault_poisonLatch (p i sl : Nat) (c : CoreFault) (d : Nat) : (s.coreFault p i sl c d).poisonLatch = s.poisonLatch := by rw [Block.coreFault_only]
@[simp] theorem Block.coreFault_poisonFirst (p i sl : Nat) (c : CoreFault) (d : Nat) : (s.coreFault p i sl c d).poisonFirst = s.poisonFirst := by rw [Block.coreFault_only]
@[simp] theorem Block.coreFault_poisonTick (p i sl : Nat) (c : CoreFault) (d : Nat) : (s.coreFault p i sl c d).poisonTick = s.poisonTick := by rw [Block.coreFault_only]
@[simp] theorem Block.coreFault_warmDue (p i sl : Nat) (c : CoreFault) (d : Nat) : (s.coreFault p i sl c d).warmDue = s.warmDue := by rw [Block.coreFault_only]
@[simp] theorem Block.coreFault_images (p i sl : Nat) (c : CoreFault) (d : Nat) : (s.coreFault p i sl c d).images = s.images := by rw [Block.coreFault_only]
@[simp] theorem Block.coreFault_mirrors (p i sl : Nat) (c : CoreFault) (d : Nat) : (s.coreFault p i sl c d).mirrors = s.mirrors := by rw [Block.coreFault_only]
@[simp] theorem Block.coreFault_pcie (p i sl : Nat) (c : CoreFault) (d : Nat) : (s.coreFault p i sl c d).pcie = s.pcie := by rw [Block.coreFault_only]
@[simp] theorem Block.coreFault_alm (p i sl : Nat) (c : CoreFault) (d : Nat) : (s.coreFault p i sl c d).alm = s.alm := by rw [Block.coreFault_only]
@[simp] theorem Block.coreFault_feat (p i sl : Nat) (c : CoreFault) (d : Nat) : (s.coreFault p i sl c d).feat = s.feat := by rw [Block.coreFault_only]
@[simp] theorem Block.coreFault_bundle (p i sl : Nat) (c : CoreFault) (d : Nat) : (s.coreFault p i sl c d).bundle = s.bundle := by rw [Block.coreFault_only]
@[simp] theorem Block.coreFault_mmu (p i sl : Nat) (c : CoreFault) (d : Nat) (a : Nat) : (s.coreFault p i sl c d).mmu a = s.mmu a := by
  rw [Block.coreFault_only]; rfl
@[simp] theorem Block.coreFault_port (p i sl : Nat) (c : CoreFault) (d : Nat) (a : Nat) : (s.coreFault p i sl c d).port a = s.port a := by
  rw [Block.coreFault_only]; rfl
@[simp] theorem Block.coreFault_reg (p i sl : Nat) (c : CoreFault) (d : Nat) (a : Page) (b : Nat) : (s.coreFault p i sl c d).reg a b = s.reg a b := by
  rw [Block.coreFault_only]; rfl
@[simp] theorem Block.coreFault_syn (p i sl : Nat) (c : CoreFault) (d : Nat) (a : Nat) : (s.coreFault p i sl c d).syn a = s.syn a := by
  rw [Block.coreFault_only]; rfl
@[simp] theorem Block.coreFault_hp (p i sl : Nat) (c : CoreFault) (d : Nat) (a : Nat) : (s.coreFault p i sl c d).hp a = s.hp a := by
  rw [Block.coreFault_only]; rfl
@[simp] theorem Block.coreFault_link (p i sl : Nat) (c : CoreFault) (d : Nat) (a : Nat) : (s.coreFault p i sl c d).link a = s.link a := by
  rw [Block.coreFault_only]; rfl
@[simp] theorem Block.coreFault_eng (p i sl : Nat) (c : CoreFault) (d : Nat) (a b : Nat) : (s.coreFault p i sl c d).eng a b = s.eng a b := by
  rw [Block.coreFault_only]; rfl
@[simp] theorem Block.coreFault_queue (p i sl : Nat) (c : CoreFault) (d : Nat) (a b : Nat) : (s.coreFault p i sl c d).queue a b = s.queue a b := by
  rw [Block.coreFault_only]; rfl
@[simp] theorem Block.coreFault_rhost (p i sl : Nat) (c : CoreFault) (d : Nat) (a : Nat) : (s.coreFault p i sl c d).rhost a = s.rhost a := by
  rw [Block.coreFault_only]; rfl
@[simp] theorem Block.coreFault_ring (p i sl : Nat) (c : CoreFault) (d : Nat) (a : Nat) : (s.coreFault p i sl c d).ring a = s.ring a := by
  rw [Block.coreFault_only]; rfl

/-- What `leaveBoundary` may change. -/
theorem Block.leaveBoundary_only (p : Nat) :
    s.leaveBoundary p =
      { s with parts := (s.leaveBoundary p).parts } := by
  unfold Block.leaveBoundary Block.modPart
  split_ifs <;> rfl

@[simp] theorem Block.leaveBoundary_timeUs (p : Nat) : (s.leaveBoundary p).timeUs = s.timeUs := by rw [Block.leaveBoundary_only]
@[simp] theorem Block.leaveBoundary_pages (p : Nat) : (s.leaveBoundary p).pages = s.pages := by rw [Block.leaveBoundary_only]
@[simp] theorem Block.leaveBoundary_regs (p : Nat) : (s.leaveBoundary p).regs = s.regs := by rw [Block.leaveBoundary_only]
@[simp] theorem Block.leaveBoundary_logs (p : Nat) : (s.leaveBoundary p).logs = s.logs := by rw [Block.leaveBoundary_only]
@[simp] theorem Block.leaveBoundary_frameBound (p : Nat) : (s.leaveBoundary p).frameBound = s.frameBound := by rw [Block.leaveBoundary_only]
@[simp] theorem Block.leaveBoundary_ram (p : Nat) : (s.leaveBoundary p).ram = s.ram := by rw [Block.leaveBoundary_only]
@[simp] theorem Block.leaveBoundary_merid (p : Nat) : (s.leaveBoundary p).merid = s.merid := by rw [Block.leaveBoundary_only]
@[simp] theorem Block.leaveBoundary_cores (p : Nat) : (s.leaveBoundary p).cores = s.cores := by rw [Block.leaveBoundary_only]
@[simp] theorem Block.leaveBoundary_slots (p : Nat) : (s.leaveBoundary p).slots = s.slots := by rw [Block.leaveBoundary_only]
@[simp] theorem Block.leaveBoundary_tiers (p : Nat) : (s.leaveBoundary p).tiers = s.tiers := by rw [Block.leaveBoundary_only]
@[simp] theorem Block.leaveBoundary_mscs (p : Nat) : (s.leaveBoundary p).mscs = s.mscs := by rw [Block.leaveBoundary_only]
@[simp] theorem Block.leaveBoundary_hbmcs (p : Nat) : (s.leaveBoundary p).hbmcs = s.hbmcs := by rw [Block.leaveBoundary_only]
@[simp] theorem Block.leaveBoundary_capcs (p : Nat) : (s.leaveBoundary p).capcs = s.capcs := by rw [Block.leaveBoundary_only]
@[simp] theorem Block.leaveBoundary_mmus (p : Nat) : (s.leaveBoundary p).mmus = s.mmus := by rw [Block.leaveBoundary_only]
@[simp] theorem Block.leaveBoundary_syncs (p : Nat) : (s.leaveBoundary p).syncs = s.syncs := by rw [Block.leaveBoundary_only]
@[simp] theorem Block.leaveBoundary_links (p : Nat) : (s.leaveBoundary p).links = s.links := by rw [Block.leaveBoundary_only]
@[simp] theorem Block.leaveBoundary_routes (p : Nat) : (s.leaveBoundary p).routes = s.routes := by rw [Block.leaveBoundary_only]
@[simp] theorem Block.leaveBoundary_xu (p : Nat) : (s.leaveBoundary p).xu = s.xu := by rw [Block.leaveBoundary_only]
@[simp] theorem Block.leaveBoundary_engs (p : Nat) : (s.leaveBoundary p).engs = s.engs := by rw [Block.leaveBoundary_only]
@[simp] theorem Block.leaveBoundary_queues (p : Nat) : (s.leaveBoundary p).queues = s.queues := by rw [Block.leaveBoundary_only]
@[simp] theorem Block.leaveBoundary_coll (p : Nat) : (s.leaveBoundary p).coll = s.coll := by rw [Block.leaveBoundary_only]
@[simp] theorem Block.leaveBoundary_upd (p : Nat) : (s.leaveBoundary p).upd = s.upd := by rw [Block.leaveBoundary_only]
@[simp] theorem Block.leaveBoundary_eph (p : Nat) : (s.leaveBoundary p).eph = s.eph := by rw [Block.leaveBoundary_only]
@[simp] theorem Block.leaveBoundary_rhosts (p : Nat) : (s.leaveBoundary p).rhosts = s.rhosts := by rw [Block.leaveBoundary_only]
@[simp] theorem Block.leaveBoundary_helio (p : Nat) : (s.leaveBoundary p).helio = s.helio := by rw [Block.leaveBoundary_only]
@[simp] theorem Block.leaveBoundary_helioPs (p : Nat) : (s.leaveBoundary p).helioPs = s.helioPs := by rw [Block.leaveBoundary_only]
@[simp] theorem Block.leaveBoundary_vregs (p : Nat) : (s.leaveBoundary p).vregs = s.vregs := by rw [Block.leaveBoundary_only]
@[simp] theorem Block.leaveBoundary_boot (p : Nat) : (s.leaveBoundary p).boot = s.boot := by rw [Block.leaveBoundary_only]
@[simp] theorem Block.leaveBoundary_flash (p : Nat) : (s.leaveBoundary p).flash = s.flash := by rw [Block.leaveBoundary_only]
@[simp] theorem Block.leaveBoundary_poisonLatch (p : Nat) : (s.leaveBoundary p).poisonLatch = s.poisonLatch := by rw [Block.leaveBoundary_only]
@[simp] theorem Block.leaveBoundary_poisonFirst (p : Nat) : (s.leaveBoundary p).poisonFirst = s.poisonFirst := by rw [Block.leaveBoundary_only]
@[simp] theorem Block.leaveBoundary_poisonTick (p : Nat) : (s.leaveBoundary p).poisonTick = s.poisonTick := by rw [Block.leaveBoundary_only]
@[simp] theorem Block.leaveBoundary_warmDue (p : Nat) : (s.leaveBoundary p).warmDue = s.warmDue := by rw [Block.leaveBoundary_only]
@[simp] theorem Block.leaveBoundary_images (p : Nat) : (s.leaveBoundary p).images = s.images := by rw [Block.leaveBoundary_only]
@[simp] theorem Block.leaveBoundary_mirrors (p : Nat) : (s.leaveBoundary p).mirrors = s.mirrors := by rw [Block.leaveBoundary_only]
@[simp] theorem Block.leaveBoundary_pcie (p : Nat) : (s.leaveBoundary p).pcie = s.pcie := by rw [Block.leaveBoundary_only]
@[simp] theorem Block.leaveBoundary_mgmt (p : Nat) : (s.leaveBoundary p).mgmt = s.mgmt := by rw [Block.leaveBoundary_only]
@[simp] theorem Block.leaveBoundary_eyep (p : Nat) : (s.leaveBoundary p).eyep = s.eyep := by rw [Block.leaveBoundary_only]
@[simp] theorem Block.leaveBoundary_alm (p : Nat) : (s.leaveBoundary p).alm = s.alm := by rw [Block.leaveBoundary_only]
@[simp] theorem Block.leaveBoundary_feat (p : Nat) : (s.leaveBoundary p).feat = s.feat := by rw [Block.leaveBoundary_only]
@[simp] theorem Block.leaveBoundary_bundle (p : Nat) : (s.leaveBoundary p).bundle = s.bundle := by rw [Block.leaveBoundary_only]
@[simp] theorem Block.leaveBoundary_out (p : Nat) : (s.leaveBoundary p).out = s.out := by rw [Block.leaveBoundary_only]
@[simp] theorem Block.leaveBoundary_fv (p : Nat) : (s.leaveBoundary p).fv = s.fv := by rw [Block.leaveBoundary_only]
@[simp] theorem Block.leaveBoundary_core (p : Nat) (a b : Nat) : (s.leaveBoundary p).core a b = s.core a b := by
  rw [Block.leaveBoundary_only]; rfl
@[simp] theorem Block.leaveBoundary_slot (p : Nat) (a b c : Nat) : (s.leaveBoundary p).slot a b c = s.slot a b c := by
  rw [Block.leaveBoundary_only]; rfl
@[simp] theorem Block.leaveBoundary_msc (p : Nat) (a : Nat) : (s.leaveBoundary p).msc a = s.msc a := by
  rw [Block.leaveBoundary_only]; rfl
@[simp] theorem Block.leaveBoundary_hbmc (p : Nat) (a : Nat) : (s.leaveBoundary p).hbmc a = s.hbmc a := by
  rw [Block.leaveBoundary_only]; rfl
@[simp] theorem Block.leaveBoundary_capc (p : Nat) (a : Nat) : (s.leaveBoundary p).capc a = s.capc a := by
  rw [Block.leaveBoundary_only]; rfl
@[simp] theorem Block.leaveBoundary_mmu (p : Nat) (a : Nat) : (s.leaveBoundary p).mmu a = s.mmu a := by
  rw [Block.leaveBoundary_only]; rfl
@[simp] theorem Block.leaveBoundary_port (p : Nat) (a : Nat) : (s.leaveBoundary p).port a = s.port a := by
  rw [Block.leaveBoundary_only]; rfl
@[simp] theorem Block.leaveBoundary_hdr (p : Nat) (a : Page) : (s.leaveBoundary p).hdr a = s.hdr a := by
  rw [Block.leaveBoundary_only]; rfl
@[simp] theorem Block.leaveBoundary_reg (p : Nat) (a : Page) (b : Nat) : (s.leaveBoundary p).reg a b = s.reg a b := by
  rw [Block.leaveBoundary_only]; rfl
@[simp] theorem Block.leaveBoundary_syn (p : Nat) (a : Nat) : (s.leaveBoundary p).syn a = s.syn a := by
  rw [Block.leaveBoundary_only]; rfl
@[simp] theorem Block.leaveBoundary_hp (p : Nat) (a : Nat) : (s.leaveBoundary p).hp a = s.hp a := by
  rw [Block.leaveBoundary_only]; rfl
@[simp] theorem Block.leaveBoundary_link (p : Nat) (a : Nat) : (s.leaveBoundary p).link a = s.link a := by
  rw [Block.leaveBoundary_only]; rfl
@[simp] theorem Block.leaveBoundary_eng (p : Nat) (a b : Nat) : (s.leaveBoundary p).eng a b = s.eng a b := by
  rw [Block.leaveBoundary_only]; rfl
@[simp] theorem Block.leaveBoundary_queue (p : Nat) (a b : Nat) : (s.leaveBoundary p).queue a b = s.queue a b := by
  rw [Block.leaveBoundary_only]; rfl
@[simp] theorem Block.leaveBoundary_rhost (p : Nat) (a : Nat) : (s.leaveBoundary p).rhost a = s.rhost a := by
  rw [Block.leaveBoundary_only]; rfl
@[simp] theorem Block.leaveBoundary_ring (p : Nat) (a : Nat) : (s.leaveBoundary p).ring a = s.ring a := by
  rw [Block.leaveBoundary_only]; rfl
@[simp] theorem Block.leaveBoundary_logOf (p : Nat) (a : Page) (b : Nat) : (s.leaveBoundary p).logOf a b = s.logOf a b := by
  rw [Block.leaveBoundary_only]; rfl
@[simp] theorem Block.leaveBoundary_causeSet (p : Nat) (a : Page) (b : Nat) : (s.leaveBoundary p).causeSet a b = s.causeSet a b := by
  rw [Block.leaveBoundary_only]; rfl

/-- What `entered` may change. -/
theorem Block.entered_only (p i sl : Nat) :
    s.entered p i sl =
      { s with pages := (s.entered p i sl).pages, logs := (s.entered p i sl).logs, ram := (s.entered p i sl).ram,
               parts := (s.entered p i sl).parts, mscs := (s.entered p i sl).mscs, hbmcs := (s.entered p i sl).hbmcs,
               capcs := (s.entered p i sl).capcs, eyep := (s.entered p i sl).eyep, out := (s.entered p i sl).out,
               fv := (s.entered p i sl).fv } := by
  unfold Block.entered
  split_ifs
  · rw [Block.traceCore_only, Block.leaveBoundary_only]
  · rw [Block.leaveBoundary_only]

@[simp] theorem Block.entered_timeUs (p i sl : Nat) : (s.entered p i sl).timeUs = s.timeUs := by rw [Block.entered_only]
@[simp] theorem Block.entered_regs (p i sl : Nat) : (s.entered p i sl).regs = s.regs := by rw [Block.entered_only]
@[simp] theorem Block.entered_frameBound (p i sl : Nat) : (s.entered p i sl).frameBound = s.frameBound := by rw [Block.entered_only]
@[simp] theorem Block.entered_merid (p i sl : Nat) : (s.entered p i sl).merid = s.merid := by rw [Block.entered_only]
@[simp] theorem Block.entered_cores (p i sl : Nat) : (s.entered p i sl).cores = s.cores := by rw [Block.entered_only]
@[simp] theorem Block.entered_slots (p i sl : Nat) : (s.entered p i sl).slots = s.slots := by rw [Block.entered_only]
@[simp] theorem Block.entered_tiers (p i sl : Nat) : (s.entered p i sl).tiers = s.tiers := by rw [Block.entered_only]
@[simp] theorem Block.entered_mmus (p i sl : Nat) : (s.entered p i sl).mmus = s.mmus := by rw [Block.entered_only]
@[simp] theorem Block.entered_syncs (p i sl : Nat) : (s.entered p i sl).syncs = s.syncs := by rw [Block.entered_only]
@[simp] theorem Block.entered_links (p i sl : Nat) : (s.entered p i sl).links = s.links := by rw [Block.entered_only]
@[simp] theorem Block.entered_routes (p i sl : Nat) : (s.entered p i sl).routes = s.routes := by rw [Block.entered_only]
@[simp] theorem Block.entered_xu (p i sl : Nat) : (s.entered p i sl).xu = s.xu := by rw [Block.entered_only]
@[simp] theorem Block.entered_engs (p i sl : Nat) : (s.entered p i sl).engs = s.engs := by rw [Block.entered_only]
@[simp] theorem Block.entered_queues (p i sl : Nat) : (s.entered p i sl).queues = s.queues := by rw [Block.entered_only]
@[simp] theorem Block.entered_coll (p i sl : Nat) : (s.entered p i sl).coll = s.coll := by rw [Block.entered_only]
@[simp] theorem Block.entered_upd (p i sl : Nat) : (s.entered p i sl).upd = s.upd := by rw [Block.entered_only]
@[simp] theorem Block.entered_eph (p i sl : Nat) : (s.entered p i sl).eph = s.eph := by rw [Block.entered_only]
@[simp] theorem Block.entered_rhosts (p i sl : Nat) : (s.entered p i sl).rhosts = s.rhosts := by rw [Block.entered_only]
@[simp] theorem Block.entered_helio (p i sl : Nat) : (s.entered p i sl).helio = s.helio := by rw [Block.entered_only]
@[simp] theorem Block.entered_helioPs (p i sl : Nat) : (s.entered p i sl).helioPs = s.helioPs := by rw [Block.entered_only]
@[simp] theorem Block.entered_vregs (p i sl : Nat) : (s.entered p i sl).vregs = s.vregs := by rw [Block.entered_only]
@[simp] theorem Block.entered_boot (p i sl : Nat) : (s.entered p i sl).boot = s.boot := by rw [Block.entered_only]
@[simp] theorem Block.entered_flash (p i sl : Nat) : (s.entered p i sl).flash = s.flash := by rw [Block.entered_only]
@[simp] theorem Block.entered_poisonLatch (p i sl : Nat) : (s.entered p i sl).poisonLatch = s.poisonLatch := by rw [Block.entered_only]
@[simp] theorem Block.entered_poisonFirst (p i sl : Nat) : (s.entered p i sl).poisonFirst = s.poisonFirst := by rw [Block.entered_only]
@[simp] theorem Block.entered_poisonTick (p i sl : Nat) : (s.entered p i sl).poisonTick = s.poisonTick := by rw [Block.entered_only]
@[simp] theorem Block.entered_warmDue (p i sl : Nat) : (s.entered p i sl).warmDue = s.warmDue := by rw [Block.entered_only]
@[simp] theorem Block.entered_images (p i sl : Nat) : (s.entered p i sl).images = s.images := by rw [Block.entered_only]
@[simp] theorem Block.entered_mirrors (p i sl : Nat) : (s.entered p i sl).mirrors = s.mirrors := by rw [Block.entered_only]
@[simp] theorem Block.entered_pcie (p i sl : Nat) : (s.entered p i sl).pcie = s.pcie := by rw [Block.entered_only]
@[simp] theorem Block.entered_mgmt (p i sl : Nat) : (s.entered p i sl).mgmt = s.mgmt := by rw [Block.entered_only]
@[simp] theorem Block.entered_alm (p i sl : Nat) : (s.entered p i sl).alm = s.alm := by rw [Block.entered_only]
@[simp] theorem Block.entered_feat (p i sl : Nat) : (s.entered p i sl).feat = s.feat := by rw [Block.entered_only]
@[simp] theorem Block.entered_bundle (p i sl : Nat) : (s.entered p i sl).bundle = s.bundle := by rw [Block.entered_only]
@[simp] theorem Block.entered_core (p i sl : Nat) (a b : Nat) : (s.entered p i sl).core a b = s.core a b := by
  rw [Block.entered_only]; rfl
@[simp] theorem Block.entered_slot (p i sl : Nat) (a b c : Nat) : (s.entered p i sl).slot a b c = s.slot a b c := by
  rw [Block.entered_only]; rfl
@[simp] theorem Block.entered_mmu (p i sl : Nat) (a : Nat) : (s.entered p i sl).mmu a = s.mmu a := by
  rw [Block.entered_only]; rfl
@[simp] theorem Block.entered_port (p i sl : Nat) (a : Nat) : (s.entered p i sl).port a = s.port a := by
  rw [Block.entered_only]; rfl
@[simp] theorem Block.entered_reg (p i sl : Nat) (a : Page) (b : Nat) : (s.entered p i sl).reg a b = s.reg a b := by
  rw [Block.entered_only]; rfl
@[simp] theorem Block.entered_syn (p i sl : Nat) (a : Nat) : (s.entered p i sl).syn a = s.syn a := by
  rw [Block.entered_only]; rfl
@[simp] theorem Block.entered_hp (p i sl : Nat) (a : Nat) : (s.entered p i sl).hp a = s.hp a := by
  rw [Block.entered_only]; rfl
@[simp] theorem Block.entered_link (p i sl : Nat) (a : Nat) : (s.entered p i sl).link a = s.link a := by
  rw [Block.entered_only]; rfl
@[simp] theorem Block.entered_eng (p i sl : Nat) (a b : Nat) : (s.entered p i sl).eng a b = s.eng a b := by
  rw [Block.entered_only]; rfl
@[simp] theorem Block.entered_queue (p i sl : Nat) (a b : Nat) : (s.entered p i sl).queue a b = s.queue a b := by
  rw [Block.entered_only]; rfl
@[simp] theorem Block.entered_rhost (p i sl : Nat) (a : Nat) : (s.entered p i sl).rhost a = s.rhost a := by
  rw [Block.entered_only]; rfl
@[simp] theorem Block.entered_ring (p i sl : Nat) (a : Nat) : (s.entered p i sl).ring a = s.ring a := by
  rw [Block.entered_only]; rfl

/-- What `stall` may change. -/
theorem Block.stall_only (p i sl w : Nat) (x : Wait) (lk : Bool) :
    s.stall p i sl w x lk =
      { s with pages := (s.stall p i sl w x lk).pages, logs := (s.stall p i sl w x lk).logs,
               slots := (s.stall p i sl w x lk).slots, ram := (s.stall p i sl w x lk).ram, mscs := (s.stall p i sl w x lk).mscs,
               hbmcs := (s.stall p i sl w x lk).hbmcs, capcs := (s.stall p i sl w x lk).capcs, eyep := (s.stall p i sl w x lk).eyep,
               out := (s.stall p i sl w x lk).out, fv := (s.stall p i sl w x lk).fv } := by
  unfold Block.stall Block.modSlot Block.syncTrace
  dsimp only
  split_ifs
  · rw [Block.traceCore_only, Block.log_only]
  · rw [Block.traceCore_only]
  · rw [Block.log_only]
  · rfl

@[simp] theorem Block.stall_timeUs (p i sl w : Nat) (x : Wait) (lk : Bool) : (s.stall p i sl w x lk).timeUs = s.timeUs := by rw [Block.stall_only]
@[simp] theorem Block.stall_regs (p i sl w : Nat) (x : Wait) (lk : Bool) : (s.stall p i sl w x lk).regs = s.regs := by rw [Block.stall_only]
@[simp] theorem Block.stall_frameBound (p i sl w : Nat) (x : Wait) (lk : Bool) : (s.stall p i sl w x lk).frameBound = s.frameBound := by rw [Block.stall_only]
@[simp] theorem Block.stall_merid (p i sl w : Nat) (x : Wait) (lk : Bool) : (s.stall p i sl w x lk).merid = s.merid := by rw [Block.stall_only]
@[simp] theorem Block.stall_parts (p i sl w : Nat) (x : Wait) (lk : Bool) : (s.stall p i sl w x lk).parts = s.parts := by rw [Block.stall_only]
@[simp] theorem Block.stall_cores (p i sl w : Nat) (x : Wait) (lk : Bool) : (s.stall p i sl w x lk).cores = s.cores := by rw [Block.stall_only]
@[simp] theorem Block.stall_tiers (p i sl w : Nat) (x : Wait) (lk : Bool) : (s.stall p i sl w x lk).tiers = s.tiers := by rw [Block.stall_only]
@[simp] theorem Block.stall_mmus (p i sl w : Nat) (x : Wait) (lk : Bool) : (s.stall p i sl w x lk).mmus = s.mmus := by rw [Block.stall_only]
@[simp] theorem Block.stall_syncs (p i sl w : Nat) (x : Wait) (lk : Bool) : (s.stall p i sl w x lk).syncs = s.syncs := by rw [Block.stall_only]
@[simp] theorem Block.stall_links (p i sl w : Nat) (x : Wait) (lk : Bool) : (s.stall p i sl w x lk).links = s.links := by rw [Block.stall_only]
@[simp] theorem Block.stall_routes (p i sl w : Nat) (x : Wait) (lk : Bool) : (s.stall p i sl w x lk).routes = s.routes := by rw [Block.stall_only]
@[simp] theorem Block.stall_xu (p i sl w : Nat) (x : Wait) (lk : Bool) : (s.stall p i sl w x lk).xu = s.xu := by rw [Block.stall_only]
@[simp] theorem Block.stall_engs (p i sl w : Nat) (x : Wait) (lk : Bool) : (s.stall p i sl w x lk).engs = s.engs := by rw [Block.stall_only]
@[simp] theorem Block.stall_queues (p i sl w : Nat) (x : Wait) (lk : Bool) : (s.stall p i sl w x lk).queues = s.queues := by rw [Block.stall_only]
@[simp] theorem Block.stall_coll (p i sl w : Nat) (x : Wait) (lk : Bool) : (s.stall p i sl w x lk).coll = s.coll := by rw [Block.stall_only]
@[simp] theorem Block.stall_upd (p i sl w : Nat) (x : Wait) (lk : Bool) : (s.stall p i sl w x lk).upd = s.upd := by rw [Block.stall_only]
@[simp] theorem Block.stall_eph (p i sl w : Nat) (x : Wait) (lk : Bool) : (s.stall p i sl w x lk).eph = s.eph := by rw [Block.stall_only]
@[simp] theorem Block.stall_rhosts (p i sl w : Nat) (x : Wait) (lk : Bool) : (s.stall p i sl w x lk).rhosts = s.rhosts := by rw [Block.stall_only]
@[simp] theorem Block.stall_helio (p i sl w : Nat) (x : Wait) (lk : Bool) : (s.stall p i sl w x lk).helio = s.helio := by rw [Block.stall_only]
@[simp] theorem Block.stall_helioPs (p i sl w : Nat) (x : Wait) (lk : Bool) : (s.stall p i sl w x lk).helioPs = s.helioPs := by rw [Block.stall_only]
@[simp] theorem Block.stall_vregs (p i sl w : Nat) (x : Wait) (lk : Bool) : (s.stall p i sl w x lk).vregs = s.vregs := by rw [Block.stall_only]
@[simp] theorem Block.stall_boot (p i sl w : Nat) (x : Wait) (lk : Bool) : (s.stall p i sl w x lk).boot = s.boot := by rw [Block.stall_only]
@[simp] theorem Block.stall_flash (p i sl w : Nat) (x : Wait) (lk : Bool) : (s.stall p i sl w x lk).flash = s.flash := by rw [Block.stall_only]
@[simp] theorem Block.stall_poisonLatch (p i sl w : Nat) (x : Wait) (lk : Bool) : (s.stall p i sl w x lk).poisonLatch = s.poisonLatch := by rw [Block.stall_only]
@[simp] theorem Block.stall_poisonFirst (p i sl w : Nat) (x : Wait) (lk : Bool) : (s.stall p i sl w x lk).poisonFirst = s.poisonFirst := by rw [Block.stall_only]
@[simp] theorem Block.stall_poisonTick (p i sl w : Nat) (x : Wait) (lk : Bool) : (s.stall p i sl w x lk).poisonTick = s.poisonTick := by rw [Block.stall_only]
@[simp] theorem Block.stall_warmDue (p i sl w : Nat) (x : Wait) (lk : Bool) : (s.stall p i sl w x lk).warmDue = s.warmDue := by rw [Block.stall_only]
@[simp] theorem Block.stall_images (p i sl w : Nat) (x : Wait) (lk : Bool) : (s.stall p i sl w x lk).images = s.images := by rw [Block.stall_only]
@[simp] theorem Block.stall_mirrors (p i sl w : Nat) (x : Wait) (lk : Bool) : (s.stall p i sl w x lk).mirrors = s.mirrors := by rw [Block.stall_only]
@[simp] theorem Block.stall_pcie (p i sl w : Nat) (x : Wait) (lk : Bool) : (s.stall p i sl w x lk).pcie = s.pcie := by rw [Block.stall_only]
@[simp] theorem Block.stall_mgmt (p i sl w : Nat) (x : Wait) (lk : Bool) : (s.stall p i sl w x lk).mgmt = s.mgmt := by rw [Block.stall_only]
@[simp] theorem Block.stall_alm (p i sl w : Nat) (x : Wait) (lk : Bool) : (s.stall p i sl w x lk).alm = s.alm := by rw [Block.stall_only]
@[simp] theorem Block.stall_feat (p i sl w : Nat) (x : Wait) (lk : Bool) : (s.stall p i sl w x lk).feat = s.feat := by rw [Block.stall_only]
@[simp] theorem Block.stall_bundle (p i sl w : Nat) (x : Wait) (lk : Bool) : (s.stall p i sl w x lk).bundle = s.bundle := by rw [Block.stall_only]
@[simp] theorem Block.stall_part (p i sl w : Nat) (x : Wait) (lk : Bool) (a : Nat) : (s.stall p i sl w x lk).part a = s.part a := by
  rw [Block.stall_only]; rfl
@[simp] theorem Block.stall_core (p i sl w : Nat) (x : Wait) (lk : Bool) (a b : Nat) : (s.stall p i sl w x lk).core a b = s.core a b := by
  rw [Block.stall_only]; rfl
@[simp] theorem Block.stall_mmu (p i sl w : Nat) (x : Wait) (lk : Bool) (a : Nat) : (s.stall p i sl w x lk).mmu a = s.mmu a := by
  rw [Block.stall_only]; rfl
@[simp] theorem Block.stall_port (p i sl w : Nat) (x : Wait) (lk : Bool) (a : Nat) : (s.stall p i sl w x lk).port a = s.port a := by
  rw [Block.stall_only]; rfl
@[simp] theorem Block.stall_reg (p i sl w : Nat) (x : Wait) (lk : Bool) (a : Page) (b : Nat) : (s.stall p i sl w x lk).reg a b = s.reg a b := by
  rw [Block.stall_only]; rfl
@[simp] theorem Block.stall_syn (p i sl w : Nat) (x : Wait) (lk : Bool) (a : Nat) : (s.stall p i sl w x lk).syn a = s.syn a := by
  rw [Block.stall_only]; rfl
@[simp] theorem Block.stall_hp (p i sl w : Nat) (x : Wait) (lk : Bool) (a : Nat) : (s.stall p i sl w x lk).hp a = s.hp a := by
  rw [Block.stall_only]; rfl
@[simp] theorem Block.stall_link (p i sl w : Nat) (x : Wait) (lk : Bool) (a : Nat) : (s.stall p i sl w x lk).link a = s.link a := by
  rw [Block.stall_only]; rfl
@[simp] theorem Block.stall_eng (p i sl w : Nat) (x : Wait) (lk : Bool) (a b : Nat) : (s.stall p i sl w x lk).eng a b = s.eng a b := by
  rw [Block.stall_only]; rfl
@[simp] theorem Block.stall_queue (p i sl w : Nat) (x : Wait) (lk : Bool) (a b : Nat) : (s.stall p i sl w x lk).queue a b = s.queue a b := by
  rw [Block.stall_only]; rfl
@[simp] theorem Block.stall_rhost (p i sl w : Nat) (x : Wait) (lk : Bool) (a : Nat) : (s.stall p i sl w x lk).rhost a = s.rhost a := by
  rw [Block.stall_only]; rfl
@[simp] theorem Block.stall_ring (p i sl w : Nat) (x : Wait) (lk : Bool) (a : Nat) : (s.stall p i sl w x lk).ring a = s.ring a := by
  rw [Block.stall_only]; rfl

/-- What `poke` may change. -/
theorem Block.poke_only (x : Nat) (bs : List Nat) (po : Bool) :
    s.poke x bs po =
      { s with ram := (s.poke x bs po).ram } := rfl

@[simp] theorem Block.poke_timeUs (x : Nat) (bs : List Nat) (po : Bool) : (s.poke x bs po).timeUs = s.timeUs := by rw [Block.poke_only]
@[simp] theorem Block.poke_pages (x : Nat) (bs : List Nat) (po : Bool) : (s.poke x bs po).pages = s.pages := by rw [Block.poke_only]
@[simp] theorem Block.poke_regs (x : Nat) (bs : List Nat) (po : Bool) : (s.poke x bs po).regs = s.regs := by rw [Block.poke_only]
@[simp] theorem Block.poke_logs (x : Nat) (bs : List Nat) (po : Bool) : (s.poke x bs po).logs = s.logs := by rw [Block.poke_only]
@[simp] theorem Block.poke_frameBound (x : Nat) (bs : List Nat) (po : Bool) : (s.poke x bs po).frameBound = s.frameBound := by rw [Block.poke_only]
@[simp] theorem Block.poke_merid (x : Nat) (bs : List Nat) (po : Bool) : (s.poke x bs po).merid = s.merid := by rw [Block.poke_only]
@[simp] theorem Block.poke_parts (x : Nat) (bs : List Nat) (po : Bool) : (s.poke x bs po).parts = s.parts := by rw [Block.poke_only]
@[simp] theorem Block.poke_cores (x : Nat) (bs : List Nat) (po : Bool) : (s.poke x bs po).cores = s.cores := by rw [Block.poke_only]
@[simp] theorem Block.poke_slots (x : Nat) (bs : List Nat) (po : Bool) : (s.poke x bs po).slots = s.slots := by rw [Block.poke_only]
@[simp] theorem Block.poke_tiers (x : Nat) (bs : List Nat) (po : Bool) : (s.poke x bs po).tiers = s.tiers := by rw [Block.poke_only]
@[simp] theorem Block.poke_mscs (x : Nat) (bs : List Nat) (po : Bool) : (s.poke x bs po).mscs = s.mscs := by rw [Block.poke_only]
@[simp] theorem Block.poke_hbmcs (x : Nat) (bs : List Nat) (po : Bool) : (s.poke x bs po).hbmcs = s.hbmcs := by rw [Block.poke_only]
@[simp] theorem Block.poke_capcs (x : Nat) (bs : List Nat) (po : Bool) : (s.poke x bs po).capcs = s.capcs := by rw [Block.poke_only]
@[simp] theorem Block.poke_mmus (x : Nat) (bs : List Nat) (po : Bool) : (s.poke x bs po).mmus = s.mmus := by rw [Block.poke_only]
@[simp] theorem Block.poke_syncs (x : Nat) (bs : List Nat) (po : Bool) : (s.poke x bs po).syncs = s.syncs := by rw [Block.poke_only]
@[simp] theorem Block.poke_links (x : Nat) (bs : List Nat) (po : Bool) : (s.poke x bs po).links = s.links := by rw [Block.poke_only]
@[simp] theorem Block.poke_routes (x : Nat) (bs : List Nat) (po : Bool) : (s.poke x bs po).routes = s.routes := by rw [Block.poke_only]
@[simp] theorem Block.poke_xu (x : Nat) (bs : List Nat) (po : Bool) : (s.poke x bs po).xu = s.xu := by rw [Block.poke_only]
@[simp] theorem Block.poke_engs (x : Nat) (bs : List Nat) (po : Bool) : (s.poke x bs po).engs = s.engs := by rw [Block.poke_only]
@[simp] theorem Block.poke_queues (x : Nat) (bs : List Nat) (po : Bool) : (s.poke x bs po).queues = s.queues := by rw [Block.poke_only]
@[simp] theorem Block.poke_coll (x : Nat) (bs : List Nat) (po : Bool) : (s.poke x bs po).coll = s.coll := by rw [Block.poke_only]
@[simp] theorem Block.poke_upd (x : Nat) (bs : List Nat) (po : Bool) : (s.poke x bs po).upd = s.upd := by rw [Block.poke_only]
@[simp] theorem Block.poke_eph (x : Nat) (bs : List Nat) (po : Bool) : (s.poke x bs po).eph = s.eph := by rw [Block.poke_only]
@[simp] theorem Block.poke_rhosts (x : Nat) (bs : List Nat) (po : Bool) : (s.poke x bs po).rhosts = s.rhosts := by rw [Block.poke_only]
@[simp] theorem Block.poke_helio (x : Nat) (bs : List Nat) (po : Bool) : (s.poke x bs po).helio = s.helio := by rw [Block.poke_only]
@[simp] theorem Block.poke_helioPs (x : Nat) (bs : List Nat) (po : Bool) : (s.poke x bs po).helioPs = s.helioPs := by rw [Block.poke_only]
@[simp] theorem Block.poke_vregs (x : Nat) (bs : List Nat) (po : Bool) : (s.poke x bs po).vregs = s.vregs := by rw [Block.poke_only]
@[simp] theorem Block.poke_boot (x : Nat) (bs : List Nat) (po : Bool) : (s.poke x bs po).boot = s.boot := by rw [Block.poke_only]
@[simp] theorem Block.poke_flash (x : Nat) (bs : List Nat) (po : Bool) : (s.poke x bs po).flash = s.flash := by rw [Block.poke_only]
@[simp] theorem Block.poke_poisonLatch (x : Nat) (bs : List Nat) (po : Bool) : (s.poke x bs po).poisonLatch = s.poisonLatch := by rw [Block.poke_only]
@[simp] theorem Block.poke_poisonFirst (x : Nat) (bs : List Nat) (po : Bool) : (s.poke x bs po).poisonFirst = s.poisonFirst := by rw [Block.poke_only]
@[simp] theorem Block.poke_poisonTick (x : Nat) (bs : List Nat) (po : Bool) : (s.poke x bs po).poisonTick = s.poisonTick := by rw [Block.poke_only]
@[simp] theorem Block.poke_warmDue (x : Nat) (bs : List Nat) (po : Bool) : (s.poke x bs po).warmDue = s.warmDue := by rw [Block.poke_only]
@[simp] theorem Block.poke_images (x : Nat) (bs : List Nat) (po : Bool) : (s.poke x bs po).images = s.images := by rw [Block.poke_only]
@[simp] theorem Block.poke_mirrors (x : Nat) (bs : List Nat) (po : Bool) : (s.poke x bs po).mirrors = s.mirrors := by rw [Block.poke_only]
@[simp] theorem Block.poke_pcie (x : Nat) (bs : List Nat) (po : Bool) : (s.poke x bs po).pcie = s.pcie := by rw [Block.poke_only]
@[simp] theorem Block.poke_mgmt (x : Nat) (bs : List Nat) (po : Bool) : (s.poke x bs po).mgmt = s.mgmt := by rw [Block.poke_only]
@[simp] theorem Block.poke_eyep (x : Nat) (bs : List Nat) (po : Bool) : (s.poke x bs po).eyep = s.eyep := by rw [Block.poke_only]
@[simp] theorem Block.poke_alm (x : Nat) (bs : List Nat) (po : Bool) : (s.poke x bs po).alm = s.alm := by rw [Block.poke_only]
@[simp] theorem Block.poke_feat (x : Nat) (bs : List Nat) (po : Bool) : (s.poke x bs po).feat = s.feat := by rw [Block.poke_only]
@[simp] theorem Block.poke_bundle (x : Nat) (bs : List Nat) (po : Bool) : (s.poke x bs po).bundle = s.bundle := by rw [Block.poke_only]
@[simp] theorem Block.poke_out (x : Nat) (bs : List Nat) (po : Bool) : (s.poke x bs po).out = s.out := by rw [Block.poke_only]
@[simp] theorem Block.poke_fv (x : Nat) (bs : List Nat) (po : Bool) : (s.poke x bs po).fv = s.fv := by rw [Block.poke_only]
@[simp] theorem Block.poke_part (x : Nat) (bs : List Nat) (po : Bool) (a : Nat) : (s.poke x bs po).part a = s.part a := by
  rw [Block.poke_only]; rfl
@[simp] theorem Block.poke_core (x : Nat) (bs : List Nat) (po : Bool) (a b : Nat) : (s.poke x bs po).core a b = s.core a b := by
  rw [Block.poke_only]; rfl
@[simp] theorem Block.poke_slot (x : Nat) (bs : List Nat) (po : Bool) (a b c : Nat) : (s.poke x bs po).slot a b c = s.slot a b c := by
  rw [Block.poke_only]; rfl
@[simp] theorem Block.poke_msc (x : Nat) (bs : List Nat) (po : Bool) (a : Nat) : (s.poke x bs po).msc a = s.msc a := by
  rw [Block.poke_only]; rfl
@[simp] theorem Block.poke_hbmc (x : Nat) (bs : List Nat) (po : Bool) (a : Nat) : (s.poke x bs po).hbmc a = s.hbmc a := by
  rw [Block.poke_only]; rfl
@[simp] theorem Block.poke_capc (x : Nat) (bs : List Nat) (po : Bool) (a : Nat) : (s.poke x bs po).capc a = s.capc a := by
  rw [Block.poke_only]; rfl
@[simp] theorem Block.poke_mmu (x : Nat) (bs : List Nat) (po : Bool) (a : Nat) : (s.poke x bs po).mmu a = s.mmu a := by
  rw [Block.poke_only]; rfl
@[simp] theorem Block.poke_port (x : Nat) (bs : List Nat) (po : Bool) (a : Nat) : (s.poke x bs po).port a = s.port a := by
  rw [Block.poke_only]; rfl
@[simp] theorem Block.poke_hdr (x : Nat) (bs : List Nat) (po : Bool) (a : Page) : (s.poke x bs po).hdr a = s.hdr a := by
  rw [Block.poke_only]; rfl
@[simp] theorem Block.poke_reg (x : Nat) (bs : List Nat) (po : Bool) (a : Page) (b : Nat) : (s.poke x bs po).reg a b = s.reg a b := by
  rw [Block.poke_only]; rfl
@[simp] theorem Block.poke_syn (x : Nat) (bs : List Nat) (po : Bool) (a : Nat) : (s.poke x bs po).syn a = s.syn a := by
  rw [Block.poke_only]; rfl
@[simp] theorem Block.poke_hp (x : Nat) (bs : List Nat) (po : Bool) (a : Nat) : (s.poke x bs po).hp a = s.hp a := by
  rw [Block.poke_only]; rfl
@[simp] theorem Block.poke_link (x : Nat) (bs : List Nat) (po : Bool) (a : Nat) : (s.poke x bs po).link a = s.link a := by
  rw [Block.poke_only]; rfl
@[simp] theorem Block.poke_eng (x : Nat) (bs : List Nat) (po : Bool) (a b : Nat) : (s.poke x bs po).eng a b = s.eng a b := by
  rw [Block.poke_only]; rfl
@[simp] theorem Block.poke_queue (x : Nat) (bs : List Nat) (po : Bool) (a b : Nat) : (s.poke x bs po).queue a b = s.queue a b := by
  rw [Block.poke_only]; rfl
@[simp] theorem Block.poke_rhost (x : Nat) (bs : List Nat) (po : Bool) (a : Nat) : (s.poke x bs po).rhost a = s.rhost a := by
  rw [Block.poke_only]; rfl
@[simp] theorem Block.poke_ring (x : Nat) (bs : List Nat) (po : Bool) (a : Nat) : (s.poke x bs po).ring a = s.ring a := by
  rw [Block.poke_only]; rfl
@[simp] theorem Block.poke_logOf (x : Nat) (bs : List Nat) (po : Bool) (a : Page) (b : Nat) : (s.poke x bs po).logOf a b = s.logOf a b := by
  rw [Block.poke_only]; rfl
@[simp] theorem Block.poke_causeSet (x : Nat) (bs : List Nat) (po : Bool) (a : Page) (b : Nat) : (s.poke x bs po).causeSet a b = s.causeSet a b := by
  rw [Block.poke_only]; rfl

end Sys2Proof.Machine
end

