-- ==== Sys2Proof/Laws/Core.lean ====
section
/-! SUPPORT. Laws of instruction issue: what an instruction that comes to its effect does, and the fields of an instruction word. -/

namespace Sys2Proof.Machine

@[simp] theorem bits_zero_width (w lo : Nat) : bits w lo 0 = 0 := by simp [bits, Nat.mod_one]

/-- A field of a word read as a number is the field of the word. -/
theorem bits_eq_wordField (w : BitVec 64) (lo n : Nat) : bits w.toNat lo n = wordField w lo n := by
  simp [bits, wordField, BitVec.extractLsb'_toNat, Nat.shiftRight_eq_div_pow]

theorem bit_eq_getLsbD (w : BitVec 64) (n : Nat) : bit w.toNat n = w.getLsbD n := by
  simp [bit, BitVec.getLsbD, Nat.testBit, Nat.shiftRight_eq_div_pow, Nat.and_comm, Nat.and_one_is_mod]
  rfl

/-- An S register's value is a word. -/
theorem Slot.s_lt (t : Slot) (n : Nat) : t.s n < 2 ^ 64 := by
  unfold Slot.s
  split
  · decide
  · exact Nat.mod_lt _ (by decide)

@[simp] theorem Slot.word_toNat (t : Slot) (n : Nat) : (t.word n).toNat = t.s n := by
  simpa [Slot.word] using Nat.mod_eq_of_lt (t.s_lt n)

theorem Slot.executed_eq_resume (t : Slot) : t.executed = t.resume := rfl

/-- What an instruction's issue does when it comes to its effect: its effect on the block that issue leaves. -/
theorem Block.issue_runs {b : Block} {p i sl w c o : Nat} (body : Block → Block) (h : b.Runs p i sl w c o) :
    b.issue p i sl w c o body = body (b.entered p i sl) := by
  obtain ⟨_, hcan, hill, hc, ho, hfree⟩ := h
  unfold Block.issue Block.entered
  simp only [hcan, hill, hc, ho, hfree]
  rfl

/-- A command of the data plane acts when the package is on. -/
theorem Block.live_on {b : Block} (f : Block → Block) (h : b.boot.power = .on) : b.live f = f b := by simp [Block.live, h]

/-- A command of the data plane changes nothing otherwise. -/
theorem Block.live_off {b : Block} (f : Block → Block) (h : b.boot.power ≠ .on) : b.live f = b := by simp [Block.live, h]

end Sys2Proof.Machine
end

