-- ==== Sys2Proof/Laws/Fabric.lean ====
section
/-! SUPPORT. Laws of the gates around a command: when it acts, when a page admits it, and that settling leaves a settled block alone. -/

namespace Sys2Proof.Machine

variable {b : Block}

/-- Putting back the block a state has changes nothing. -/
@[simp] theorem State.withBlk_self (s : State) : s.withBlk s.blk = s := rfl

/-- The always-on domain acts while VSTBY is present and PKG_RST_N is not held. -/
theorem Block.awake_on (f : Block → Block) (h : b.boot.power ≠ .reset) (hd : b.boot.power ≠ .dark) : b.awake f = f b := by
  simp [Block.awake, h, hd]

/-- It changes nothing while the pin is held. -/
theorem Block.awake_reset (f : Block → Block) (h : b.boot.power = .reset) : b.awake f = b := by simp [Block.awake, h]

/-- It changes nothing without VSTBY. -/
theorem Block.awake_dark (f : Block → Block) (h : b.boot.power = .dark) : b.awake f = b := by simp [Block.awake, h]

/-- What VSTBY powers acts while VSTBY is present. -/
theorem Block.powered_on (f : Block → Block) (h : b.boot.power ≠ .dark) : b.powered f = f b := by simp [Block.powered, h]

/-- A page that admits the requester performs the write. -/
theorem Block.guard_open {pg : Page} {req : Requester} (off : Nat) (c : Bool) (f : Block → Block) (h : b.MayWrite pg req) :
    b.guard pg req off c f = f b := by
  simp [Block.guard, h.1, h.2]

/-- A locked page keeps its words and counts a clamp where the write would have changed one. -/
theorem Block.guard_locked {pg : Page} {req : Requester} (off : Nat) (c : Bool) (f : Block → Block) (hj : req ≠ .job)
    (h : b.lockedOut pg req = true) : b.guard pg req off c f = if c then b.clamped pg off else b := by
  simp [Block.guard, hj, h]

/-- A write of other fields is refused only for a job. -/
theorem Block.guardW_open {req : Requester} (f : Block → Block) (h : req ≠ .job) : b.guardW req f = f b := by
  simp [Block.guardW, h]

/-- Settling a block with nothing ended or arrived leaves it. -/
theorem Block.settle_done (n : Nat) (he : b.xu.ended = []) (ha : b.xu.arrived = []) : b.settle n = b := by
  cases n with
  | zero => rfl
  | succ n => unfold Block.settle; rw [he]; dsimp only; rw [ha]

/-- A command that leaves nothing to settle has its own effect and no other. -/
theorem Block.settling_settled (f : Block → Block) (h : (f b).Settled) : b.settling f = f b := by
  obtain ⟨he, ha, ho⟩ := h
  unfold Block.settling
  rw [Block.settle_done _ he ha]
  dsimp only
  rw [ho]
  show Block.settle (Block.collPump (f b) 0) _ = _
  rw [show Block.collPump (f b) 0 = f b from rfl, Block.settle_done _ he ha]

end Sys2Proof.Machine
end

