-- ==== Sys2Proof/Laws/Mem.lean ====
section
/-! SUPPORT. Laws of memory: every operation keeps the canonical form, and what a read of one byte gives after each. -/

namespace Sys2Proof.Machine

theorem Ram.wf_iff (r : Ram) : r.wf = true ↔ smWf 0 r.mem = true ∧ smWf false r.poison = true := by simp [Ram.wf]

theorem smWf_putBytes {m : SMap Byte} (a : Nat) (bs : List Nat) (h : smWf 0 m = true) : smWf 0 (putBytes m a bs) = true := by
  induction bs generalizing m a with
  | nil => exact h
  | cons b t ih => exact ih _ (smWf_put 0 a _ h)

theorem smRise_putBytes {m : SMap Byte} (a : Nat) (bs : List Nat) (h : smRise m = true) : smRise (putBytes m a bs) = true := by
  induction bs generalizing m a with
  | nil => exact h
  | cons b t ih => exact ih _ (smRise_put 0 a _ h)

/-- A byte outside those stored reads as before. -/
theorem smGet_putBytes_out {m : SMap Byte} (a x : Nat) (bs : List Nat) (h : x < a ∨ a + bs.length ≤ x) :
    smGet 0 (putBytes m a bs) x = smGet 0 m x := by
  induction bs generalizing m a with
  | nil => rfl
  | cons b t ih =>
    simp only [List.length_cons] at h
    rw [putBytes, ih (a + 1) (by omega), smGet_put_ne 0 _ (by omega)]

/-- A stored byte is read back. -/
theorem smGet_putBytes_in {m : SMap Byte} (a k : Nat) (bs : List Nat) (hm : smRise m = true) (hk : k < bs.length) :
    smGet 0 (putBytes m a bs) (a + k) = BitVec.ofNat 8 (bs.getD k 0) := by
  induction bs generalizing m a k with
  | nil => simp at hk
  | cons b t ih =>
    cases k with
    | zero => rw [putBytes, smGet_putBytes_out _ _ _ (by omega)]; simpa using smGet_put_self 0 a _ hm
    | succ k =>
      rw [putBytes, show a + (k + 1) = a + 1 + k by omega, ih _ _ (smRise_put 0 a _ hm) (by simpa using hk)]
      simp

theorem Ram.wf_mark {r : Ram} (u : Nat) (h : r.wf = true) : (r.mark u).wf = true :=
  (Ram.wf_iff _).2 ⟨smWf_dropRange 0 _ _ ((Ram.wf_iff r).1 h).1, smWf_put false u true ((Ram.wf_iff r).1 h).2⟩

theorem Ram.wf_zero {r : Ram} (a n : Nat) (h : r.wf = true) : (r.zero a n).wf = true :=
  (Ram.wf_iff _).2 ⟨smWf_dropRange 0 _ _ ((Ram.wf_iff r).1 h).1, smWf_dropRange false _ _ ((Ram.wf_iff r).1 h).2⟩

theorem Ram.wf_writeUnit {r : Ram} (a : Nat) (bs : List Nat) (pois : Bool) (u : Nat) (h : r.wf = true) :
    (r.writeUnit a bs pois u).wf = true := by
  unfold Ram.writeUnit
  dsimp only
  split
  · exact Ram.wf_mark u h
  · split
    · exact h
    · exact (Ram.wf_iff _).2 ⟨smWf_putBytes _ _ ((Ram.wf_iff r).1 h).1, smWf_put false u false ((Ram.wf_iff r).1 h).2⟩

theorem foldl_keeps {σ β : Type} (P : σ → Prop) (f : σ → β → σ) (hf : ∀ s b, P s → P (f s b)) (l : List β) {s : σ}
    (h : P s) : P (l.foldl f s) := by
  induction l generalizing s with
  | nil => exact h
  | cons b t ih => exact ih (hf s b h)

theorem Ram.wf_write {r : Ram} (a : Nat) (bs : List Nat) (pois : Bool) (h : r.wf = true) : (r.write a bs pois).wf = true :=
  foldl_keeps (fun r : Ram => r.wf = true) _ (fun _ u hr => Ram.wf_writeUnit a bs pois u hr) _ h

theorem Ram.wf_store (t : Tiers) {r : Ram} (a : Nat) (bs : List Nat) (pois : Bool) (h : r.wf = true) :
    (Ram.store t r a bs pois).wf = true := by
  refine foldl_keeps (fun r : Ram => r.wf = true) _ (fun r q hr => ?_) _ h
  cases homeOf t q.1 with
  | none => exact hr
  | some h => exact Ram.wf_write _ _ _ hr

theorem Ram.wf_writeMarked {r : Ram} (a : Nat) (bs : List Nat) (pois : Bool) (mk : List (Nat × Nat)) (h : r.wf = true) :
    (r.writeMarked a bs pois mk).wf = true :=
  foldl_keeps (Ram.wf · = true) _ (fun _ x hr => foldl_keeps (Ram.wf · = true) _ (fun _ u hr => Ram.wf_mark u hr)
    (unitsOf (unitSize a) (a + x.1) x.2) hr) mk (Ram.wf_write a bs pois h)

theorem Ram.wf_blank {r : Ram} (a bad : Nat) (h : r.wf = true) : (r.blank a bad).wf = true := by
  unfold Ram.blank
  split
  · exact h
  · refine (Ram.wf_iff _).2 ⟨foldl_keeps (smWf 0 · = true) _ (fun m j hm => ?_) _ ((Ram.wf_iff r).1 h).1, ((Ram.wf_iff r).1 h).2⟩
    split
    · exact smWf_dropRange 0 _ _ hm
    · exact hm

theorem Ram.wf_setPoison {r : Ram} (u : Nat) (b : Bool) (h : r.wf = true) :
    ({ r with poison := smPut false r.poison u b } : Ram).wf = true :=
  (Ram.wf_iff _).2 ⟨((Ram.wf_iff r).1 h).1, smWf_put false u b ((Ram.wf_iff r).1 h).2⟩

theorem Block.poke_wf {s : Block} (a : Nat) (bs : List Nat) (pois : Bool) (h : s.ram.wf = true) :
    (s.poke a bs pois).ram.wf = true := Ram.wf_store _ _ _ _ h

/-- Memory after reset is in canonical form. -/
theorem reset_ram_wf : State.reset.blk.ram.wf = true := by decide

/-- A marked unit reads zero and carries the marker. -/
theorem Ram.mark_reads (r : Ram) (u x : Nat) (h : u ≤ x ∧ x < u + unitSize u) : smGet 0 (r.mark u).mem x = 0 := by
  simp [Ram.mark, smGet_dropRange, h]

end Sys2Proof.Machine
end

