-- ==== Sys2Proof/WellFormed.lean ====
section
/-! DEFINITION. The checks of a command's operands that its type does not make. A command that fails one stands for nothing that can
happen; its meaning is defined all the same. -/

namespace Sys2Proof

open Sys2Proof.Machine

/-- An instruction word of class `c` and operation `o` (R74). -/
def isRow (w : BitVec 64) (c o : Nat) : Bool := w.toNat / 2 ^ 60 = c && w.toNat / 2 ^ 54 % 64 = o

/-- A packet whose fields fit the header of Table 9.9. -/
def pktOk (k : Pkt) : Bool :=
  decide (k.kind < 256) && decide (k.hint < 4) && decide (k.level < 3) && decide (k.hops ≤ 12) && decide (k.lpart < 16) &&
    decide (k.dst < 65536) && decide (k.src < 65536) && decide (k.owner < 65536) && decide (k.tid < 65536) &&
    decide (k.job < 65536) && decide (k.addr < 2 ^ 64) && decide (k.operand < 2 ^ 64) && decide (k.op < 8) && decide (k.size < 4) &&
    decide (k.status < 256) && decide (k.data.length ≤ 2048) && k.data.all (fun b => decide (b < 256)) && decide (k.len ≤ 2048) &&
    decide (k.pois < 512)

/-- A packet of one of the kinds `ks` (Table 9.10). -/
def pktIn (k : Pkt) (ks : List Nat) : Bool := pktOk k && ks.contains k.kind

/-- A COLL packet with body SUB `u` (Table 10.5). -/
def pktColl (k : Pkt) (u : Nat) : Bool := pktIn k [5] && k.addr / 2 ^ 24 % 8 = u

/-- A list without repeats. -/
def noDup {α : Type} [BEq α] (l : List α) : Bool := l.eraseDups.length = l.length

/-- The operands of a command are ones its rule allows. -/
def Instr.wf (c : Instr) : Bool :=
  match c with
  | .registerWrite _ _ _ _ _ => true
  | .hdrLockSet _ _ => true
  | .irqCauseClear _ _ _ => true
  | .clampCntClear _ _ _ => true
  | .logbookClear _ _ _ _ => true
  | .blockDisable _ _ => true
  | .blockEnable _ _ => true
  | .logbookSnapshot _ _ => true
  | .tick _ => true
  | .frameSlip _ => true
  | .lockAchieved => true
  | .tickSymbolReceive _ _ => true
  | .claimReceive _ _ => true
  | .masterIdReceive _ _ => true
  | .masterTimeout => true
  | .claimWon => true
  | .holdoverEntry => true
  | .holdoverClaim => true
  | .masterResign _ => true
  | .masterIdBroadcast => true
  | .tickRefEdge _ _ _ => true
  | .refHoldover => true
  | .holdoverExpired => true
  | .periodSwitchArm _ _ => true
  | .periodSwitch => true
  | .rttRemeasure => true
  | .rttProbeReceive _ _ => true
  | .rttEchoReceive _ _ _ => true
  | .alu _ _ _ w => isRow w 0x0 0x00
  | .aluImmediate _ _ _ w => isRow w 0x0 0x01
  | .multiply _ _ _ w => isRow w 0x0 0x02
  | .divide _ _ _ w => isRow w 0x0 0x03
  | .loadConstant _ _ _ w => isRow w 0x0 0x04
  | .load _ _ _ w _ => isRow w 0x0 0x05
  | .store _ _ _ w => isRow w 0x0 0x06
  | .branch _ _ _ w => isRow w 0x1 0x00
  | .branchAndLink _ _ _ w => isRow w 0x1 0x01
  | .jump _ _ _ w => isRow w 0x1 0x02
  | .vadd _ _ _ w => isRow w 0x2 0x00
  | .vsub _ _ _ w => isRow w 0x2 0x01
  | .vmul _ _ _ w => isRow w 0x2 0x02
  | .vfma _ _ _ w => isRow w 0x2 0x03
  | .vmin _ _ _ w => isRow w 0x2 0x04
  | .vmax _ _ _ w => isRow w 0x2 0x05
  | .vabs _ _ _ w => isRow w 0x2 0x06
  | .vneg _ _ _ w => isRow w 0x2 0x07
  | .vcmp _ _ _ w => isRow w 0x2 0x08
  | .vsel _ _ _ w => isRow w 0x2 0x09
  | .vand _ _ _ w => isRow w 0x2 0x0A
  | .vor _ _ _ w => isRow w 0x2 0x0B
  | .vxor _ _ _ w => isRow w 0x2 0x0C
  | .vshl _ _ _ w => isRow w 0x2 0x0D
  | .vshr _ _ _ w => isRow w 0x2 0x0E
  | .vbcast _ _ _ w => isRow w 0x2 0x0F
  | .vrsum _ _ _ w => isRow w 0x2 0x10
  | .vrmax _ _ _ w => isRow w 0x2 0x11
  | .vrmin _ _ _ w => isRow w 0x2 0x12
  | .vsf _ _ _ w => isRow w 0x2 0x13
  | .vperm _ _ _ w => isRow w 0x2 0x14
  | .vext _ _ _ w => isRow w 0x2 0x15
  | .vins _ _ _ w => isRow w 0x2 0x16
  | .cvtVec _ _ _ w => isRow w 0x2 0x30
  | .nop _ _ _ w => isRow w 0x7 0x00
  | .rdsys _ _ _ w => isRow w 0x7 0x01
  | .bpost _ _ _ w => isRow w 0x7 0x02
  | .flgRead _ _ _ w => isRow w 0x7 0x10
  | .flgClear _ _ _ w => isRow w 0x7 0x11
  | .actlSet _ _ _ w => isRow w 0x7 0x12
  | .actlRead _ _ _ w => isRow w 0x7 0x13
  | .frameEnd _ _ _ w => isRow w 0x5 0x3F
  | .instructionFetchMiss _ _ _ _ _ => true
  | .backfillSwitch _ _ => true
  | .backfillSwitchBack _ _ => true
  | .switchComplete _ _ => true
  | .mmWs _ _ _ w => isRow w 0x3 0x00
  | .mmWt _ _ _ w => isRow w 0x3 0x01
  | .mmOs _ _ _ w => isRow w 0x3 0x02
  | .mmPld _ _ _ w => isRow w 0x3 0x03
  | .mmPrel _ _ _ w => isRow w 0x3 0x04
  | .mmWait _ _ _ w => isRow w 0x3 0x05
  | .mmBatch _ _ _ w => isRow w 0x3 0x06
  | .mmTdld _ _ _ w => isRow w 0x3 0x07
  | .mmTdst _ _ _ w => isRow w 0x3 0x08
  | .matrixPassStart _ _ _ => true
  | .matrixAttemptEnd _ _ _ => true
  | .matrixComplete _ _ _ => true
  | .batchLaunch _ _ => true
  | .batchDeadline _ _ => true
  | .mscAccess _ _ len write _ data _ _ => decide (len ≠ 0) && decide (data.length = if write then len.toNat else 0)
  | .capacityAccess _ _ len write data _ _ => decide (len ≠ 0) && decide (data.length = if write then len.toNat else 0)
  | .keepRelease _ _ => true
  | .mscFlush _ _ => true
  | .flushDone _ => true
  | .scrubPass cap n _ => cap || decide (n.val < 12)
  | .imapNextWrite _ _ _ => true
  | .translationWalk _ _ _ _ _ => true
  | .mmuResume _ _ => true
  | .mmuFail _ _ => true
  | .mmuFaultTimeout _ _ => true
  | .faultQueueConsume _ _ _ => true
  | .mmuInvalidate _ _ => true
  | .mmuInvDone _ => true
  | .xfPost _ _ _ w => isRow w 0x4 0x00
  | .xfWait _ _ _ w => isRow w 0x4 0x01
  | .xfPair _ _ _ w => isRow w 0x4 0x02
  | .xfSwap _ _ _ w => isRow w 0x4 0x03
  | .xfStat _ _ _ w => isRow w 0x4 0x04
  | .descriptorStart _ _ _ _ => true
  | .descriptorComplete _ _ _ => true
  | .dmaEngineFault _ _ => true
  | .fence _ _ _ w => isRow w 0x5 0x00
  | .ctrAdd _ _ _ w => isRow w 0x5 0x01
  | .ctrSub _ _ _ w => isRow w 0x5 0x02
  | .ctrWait _ _ _ w => isRow w 0x5 0x03
  | .ctrRead _ _ _ w => isRow w 0x5 0x04
  | .ctrSet _ _ _ w => isRow w 0x5 0x05
  | .barInit _ _ _ w => isRow w 0x5 0x06
  | .barArrive _ _ _ w => isRow w 0x5 0x07
  | .barWait _ _ _ w => isRow w 0x5 0x08
  | .barSync _ _ _ w => isRow w 0x5 0x09
  | .amo _ _ _ w => isRow w 0x5 0x0A
  | .amoPerform _ _ _ _ => true
  | .counterUpdate _ which => noDup which
  | .barrierArrival _ which => noDup which
  | .barrierArmWrite _ _ _ _ _ => true
  | .barrierTimeout _ _ => true
  | .syncSurvey _ _ => true
  | .surveyComplete _ _ => true
  | .linkEnable _ _ => true
  | .linkDisable _ _ => true
  | .linkDrainEnd _ => true
  | .linkSignalDetect _ _ => true
  | .linkTrainDone _ _ _ => true
  | .linkTrainTimeout _ => true
  | .linkAlignDone _ _ => true
  | .digestReceive _ _ => true
  | .pkgnWrite _ _ _ _ => true
  | .flitReceive _ bytes _ => decide (bytes.length = 256)
  | .nakReceive _ _ => true
  | .skipReceive _ _ => true
  | .retryEpisodeTimeout _ _ => true
  | .laneLockLost _ lanes => noDup lanes && !lanes.isEmpty
  | .laneProactiveSpare _ _ => true
  | .spareReceive _ _ => true
  | .linkDownReceive _ _ => true
  | .linkRetrain _ _ => true
  | .linkRetrainTimer _ => true
  | .routeEntryWrite _ _ _ => true
  | .packetForward _ pkt => pktOk pkt
  | .orderedArrival _ pkt => pktIn pkt [2, 3, 4, 5, 6]
  | .readArrival _ pkt => pktIn pkt [1]
  | .responseReceive _ pkt => pktIn pkt [7, 8, 9, 10]
  | .dropReceive _ pkt => pktIn pkt [11]
  | .norouteReceive _ pkt => pktIn pkt [12]
  | .transactionTimeout _ _ _ => true
  | .queueBind _ _ _ _ => true
  | .queueUnbind _ _ _ _ => true
  | .csLaunch _ _ _ w => isRow w 0x6 0x00
  | .libraryLaunchTake _ _ => true
  | .csTake _ _ _ w => isRow w 0x6 0x01
  | .csExpect _ _ _ w => isRow w 0x6 0x02
  | .csSend _ _ _ w => isRow w 0x6 0x03
  | .csRel _ _ _ w => isRow w 0x6 0x04
  | .csNext _ _ _ w => isRow w 0x6 0x05
  | .csEnd _ _ _ w => isRow w 0x6 0x06
  | .csVote _ _ _ w => isRow w 0x6 0x07
  | .csVwait _ _ _ w => isRow w 0x6 0x08
  | .ctsReceive _ pkt => pktColl pkt 1
  | .collDataReceive _ pkt => pktColl pkt 0
  | .abortReceive _ pkt => pktColl pkt 2
  | .absentReceive _ pkt => pktColl pkt 3
  | .collDeadline _ _ _ => true
  | .orderMismatch _ => true
  | .voteUpReceive _ pkt => pktColl pkt 4
  | .voteDownReceive _ pkt => pktColl pkt 5
  | .voteDeadline _ _ _ => true
  | .deferTimeout _ => true
  | .ringBind _ _ _ => true
  | .ringUnbind _ _ _ => true
  | .stepRecordPost _ _ _ => true
  | .updateStepStart _ => true
  | .updateStepVote _ => true
  | .regionEnd _ => true
  | .updateStepEnd _ => true
  | .rhostOwnerChange _ _ _ => true
  | .rhostWatchdog _ => true
  | .admitJob _ => true
  | .jobBind _ _ ps => noDup (ps.map (·.1)) && noDup (ps.map (·.2))
  | .ephCommit _ _ => true
  | .ephCommitApply _ => true
  | .repairRebind _ _ _ => true
  | .routeRewrite _ => true
  | .stageRebalance _ _ _ _ _ => true
  | .heliostatLoop _ parts _ _ => noDup (parts.map (·.1))
  | .capUnreachable => true
  | .clockStepChange _ _ => true
  | .freeClockDecision _ => true
  | .thermalUpdate tj _ hbm => decide (tj.length = 12) && decide (hbm.length = 12)
  | .thermtrip => true
  | .facilityTargetWrite _ _ => true
  | .targetLeaseExpiry => true
  | .shedAssert samples => decide (samples ≠ 0)
  | .shedDeassert => true
  | .shedHoldEnd => true
  | .shedStuck => true
  | .energyCalibration rs => decide (rs.length = 12)
  | .inputLoss pin vin _ => pin || vin
  | .inputReturn => true
  | .parkBegin _ _ => true
  | .parkComplete => true
  | .finalCutoff => true
  | .gaugeRecalibrate => true
  | .regulatorFault _ _ => true
  | .mgmtControllerReset => true
  | .mgmtWatchdog => true
  | .patrolVisit _ _ => true
  | .patrolVisitEnd _ _ _ => true
  | .flatFieldTest _ _ => true
  | .flatFieldEnd _ bad => match bad with
    | some (.inr (.rhostCore h), _, _) => decide (h < 32)
    | _ => true
  | .poisonContain => true
  | .partAbort _ _ => true
  | .partPreempt _ _ => true
  | .preemptBegin _ => true
  | .preemptDone _ _ => true
  | .partRestore _ _ => true
  | .restoreDone _ => true
  | .coreReset _ _ _ => true
  | .clusterReset _ _ _ => true
  | .partitionReset _ _ => true
  | .resetComplete _ bad => noDup bad
  | .packageWarmReset => true
  | .pkgRstAssert => true
  | .pkgRstRelease _ => true
  | .classBRecovery _ plan => plan.shards.all fun x => noDup x.spares
  | .remirrorRegion _ _ _ _ _ _ => true
  | .railsStart => true
  | .bootStepComplete _ => true
  | .bootStepTimeout => true
  | .bundleChunkReceive _ _ k total => decide (k < total)
  | .bankProgramDone _ => true
  | .almanacWrite => true
  | .activateMc _ => true
  | .activateRhost _ => true
  | .activatePart _ _ => true
  | .licenceCheck _ _ _ => true
  | .doorbellWrite _ _ _ _ => true
  | .apertureAccess _ _ len write data _ => decide (len ≠ 0) && decide (data.length = if write then len.toNat else 0)
  | .atsInvalidation _ _ _ _ => true
  | .pcieCompletionTimeout _ _ => true
  | .msixSend _ _ _ => true
  | .portReset _ _ => true
  | .portTrain _ gen width _ _ => decide (gen.val ≠ 0) && ([4, 8, 16] : List Nat).contains width.toNat
  | .vfFlr _ _ => true
  | .pfFlr _ => true
  | .setEndpointId _ => true
  | .getEndpointId => true
  | .getMctpVersionSupport => true
  | .getMessageTypeSupport => true
  | .getEndpointUuid => true
  | .mctpUnsupportedType t => !(([0x00, 0x01, 0x05, 0x7E] : List Nat).contains t.toNat)
  | .setNumericEffecterValue _ _ => true
  | .setEventReceiver _ => true
  | .pldmFirmwareData => true
  | .verifyComplete _ => true
  | .activateFirmware _ => true
  | .cancelUpdate => true
  | .getStatus => true
  | .pldmUpdateTimeout => true
  | .read32 _ => true
  | .write32 _ => true
  | .warmReset _ => true
  | .pkgFft _ => true
  | .forward _ inner => !inner.isEmpty && decide (inner.length ≤ 2048)
  | .eyepNonce _ => true
  | .eyepUnlock _ _ => true
  | .getVersion => true
  | .getCapabilities => true
  | .negotiateAlgorithms _ => true
  | .getDigests => true
  | .getCertificate _ _ len => decide (len ≠ 0)
  | .challenge _ => true
  | .getMeasurements _ => true
  | .bypass => true
  | .idcode => true
  | .samplePreload => true
  | .extest _ => true
  | .extestPulse _ => true
  | .extestTrain _ => true
  | .clampInstr _ => true
  | .highz _ => true
  | .eyepHalt _ _ => true
  | .vstbyLoss => true
  | .vinOvervoltage => true
  | .linkrefLoss _ => true
  | .registerReadClear _ _ _ => true
  | .pcieCompletion _ _ _ _ data => decide (data.length ≤ 4096)
  | .jobTrap _ _ _ _ => true
  | .i3cDynamicAddress _ => true

end Sys2Proof
end

