-- ==== Sys2Proof/Tests/Slice0.lean ====
section
/-! SUPPORT. The model's own tests: a term that each check of well-formedness refuses, and states that meet the hypotheses of each
statement of Certificates/Slice0. -/

/- One test at a time: elaborated at once, each waits in a thread of its own for the kernel to reach it. -/
set_option Elab.async false

namespace Sys2Proof.Tests

open Sys2Proof.Machine

/-! Well-formedness: one refused term for each check. -/

theorem test_wf_row : (Instr.alu 0 0 0 0).wf = true ∧ (Instr.alu 0 0 0 (1 <<< 54)).wf = false ∧ (Instr.alu 0 0 0 (1 <<< 60)).wf = false ∧
    (Instr.vadd 0 0 0 0).wf = false := by decide

theorem test_wf_packet : (Instr.packetForward 0 { kind := 2 }).wf = true ∧ (Instr.packetForward 0 { kind := 256 }).wf = false ∧
    (Instr.packetForward 0 { hint := 4 }).wf = false ∧ (Instr.packetForward 0 { level := 3 }).wf = false ∧
    (Instr.packetForward 0 { hops := 13 }).wf = false ∧ (Instr.packetForward 0 { lpart := 16 }).wf = false ∧
    (Instr.packetForward 0 { dst := 65536 }).wf = false ∧ (Instr.packetForward 0 { src := 65536 }).wf = false ∧
    (Instr.packetForward 0 { owner := 65536 }).wf = false ∧ (Instr.packetForward 0 { tid := 65536 }).wf = false ∧
    (Instr.packetForward 0 { job := 65536 }).wf = false ∧ (Instr.packetForward 0 { addr := 2 ^ 64 }).wf = false ∧
    (Instr.packetForward 0 { operand := 2 ^ 64 }).wf = false ∧ (Instr.packetForward 0 { op := 8 }).wf = false ∧
    (Instr.packetForward 0 { size := 4 }).wf = false ∧ (Instr.packetForward 0 { status := 256 }).wf = false ∧
    (Instr.packetForward 0 { data := [256] }).wf = false ∧ (Instr.packetForward 0 { len := 2049 }).wf = false ∧
    (Instr.packetForward 0 { pois := 512 }).wf = false := by decide

theorem test_wf_packet_data : (Instr.packetForward 0 { data := List.replicate 2049 0 }).wf = false := by
  simp only [Instr.wf, pktOk, List.length_replicate, show decide (2049 ≤ 2048) = false from rfl, Bool.and_false, Bool.false_and]

theorem test_wf_kinds : (Instr.orderedArrival 0 { kind := 1 }).wf = false ∧ (Instr.readArrival 0 { kind := 2 }).wf = false ∧
    (Instr.responseReceive 0 { kind := 6 }).wf = false ∧ (Instr.dropReceive 0 { kind := 12 }).wf = false ∧
    (Instr.norouteReceive 0 { kind := 11 }).wf = false ∧ (Instr.ctsReceive 0 { kind := 5 }).wf = false ∧
    (Instr.collDataReceive 0 { kind := 5 }).wf = true := by decide

theorem test_wf_lengths : (Instr.mscAccess 0 0 0 false 0 [] false .none).wf = false ∧ (Instr.mscAccess 0 0 1 true 0 [] false .none).wf = false ∧
    (Instr.capacityAccess 0 0 0 false [] false .none).wf = false ∧ (Instr.capacityAccess 0 0 1 false [0] false .none).wf = false ∧
    (Instr.apertureAccess 0 0 0 false [] false).wf = false ∧ (Instr.apertureAccess 0 0 1 true [] false).wf = false ∧
    (Instr.flitReceive 0 [] false).wf = false ∧ (Instr.thermalUpdate [] 0 []).wf = false ∧ (Instr.energyCalibration []).wf = false ∧
    (Instr.forward 0 []).wf = false ∧ (Instr.getCertificate 0 0 0).wf = false := by decide

theorem test_wf_long : (Instr.forward 0 (List.replicate 2049 0)).wf = false ∧
    (Instr.pcieCompletion 0 0 true true (List.replicate 4097 0)).wf = false := by
  constructor <;>
    simp only [Instr.wf, List.length_replicate, show decide (2049 ≤ 2048) = false from rfl, show decide (4097 ≤ 4096) = false from rfl, Bool.and_false]

theorem test_wf_repeats : (Instr.counterUpdate 0 [1, 1]).wf = false ∧ (Instr.barrierArrival 0 [2, 2]).wf = false ∧
    (Instr.laneLockLost 0 [3, 3]).wf = false ∧ (Instr.laneLockLost 0 []).wf = false ∧ (Instr.jobBind 1 false [(0, 0), (0, 1)]).wf = false ∧
    (Instr.jobBind 1 false [(0, 0), (1, 0)]).wf = false ∧ (Instr.heliostatLoop 0 [(0, 0, 0), (0, 0, 0)] [] {}).wf = false ∧
    (Instr.resetComplete 0 [1, 1]).wf = false ∧
    (Instr.classBRecovery 1 { shards := [{ partners := [(3, 5)], spares := [(3, 6), (3, 6)] }] }).wf = false := by decide

theorem test_wf_values : (Instr.scrubPass false 12 []).wf = false ∧ (Instr.shedAssert 0).wf = false ∧ (Instr.inputLoss false false 0).wf = false ∧
    (Instr.bundleChunkReceive 0 0 1 1).wf = false ∧ (Instr.portTrain 0 0 4 0 []).wf = false ∧ (Instr.portTrain 0 1 3 0 []).wf = false ∧
    (Instr.mctpUnsupportedType 5).wf = false := by decide

/-! States that meet the hypotheses of the statements about core instructions. -/

/-- A package whose core 0 of partition 0 runs a job in its primary slot with `t`. -/
def runs (t : Slot) : Block := { slots := [(0, t)] }

/-- The same with a plain slot. -/
def base : Block := runs { bound := true }

/-- The same with the backfill slot running. -/
def backfill : Block :=
  { slots := [(1, { bound := true })], cores := [(0, { ctx := .backfill })], regs := [((Page.core 0 0).addr 0x040, 1)] }

/-- The word of class `c` and operation `o` with the other bits `x`. -/
def row (c o x : Nat) : Nat := c * 2 ^ 60 + o * 2 ^ 54 + x

/-- Every row of the instruction tables has a legal word that comes to its effect in a slot that runs. -/
theorem witness_rows_scalar : ∀ x ∈ ([(0, 0, 0), (0, 1, 0), (0, 2, 0), (0, 3, 0), (0, 4, 0), (0, 5, 0), (0, 6, 0), (1, 0, 0), (1, 1, 5 * 2 ^ 45),
    (1, 2, 5 * 2 ^ 45), (7, 0, 0), (7, 1, 0), (7, 2, 0), (7, 0x10, 0), (7, 0x11, 0), (7, 0x12, 0), (7, 0x13, 0), (5, 0x3F, 0)] : List (Nat × Nat × Nat)),
    base.Runs 0 0 0 (row x.1 x.2.1 x.2.2) x.1 x.2.1 := by decide

theorem witness_rows_vector : ∀ x ∈ ([(0, 0), (1, 0), (2, 0), (3, 0), (4, 0), (5, 0), (6, 0), (7, 0), (8, 0), (9, 0), (0xA, 0), (0xB, 0), (0xC, 0),
    (0xD, 2 * 2 ^ 31), (0xE, 2 * 2 ^ 31), (0xF, 0), (0x10, 0), (0x11, 0), (0x12, 0), (0x13, 0), (0x14, 0), (0x15, 0), (0x16, 0), (0x30, 0)] : List (Nat × Nat)),
    base.Runs 0 0 0 (row 2 x.1 x.2) 2 x.1 := by decide

theorem witness_rows_matrix_transfer : ∀ x ∈ ([(3, 0, 0), (3, 1, 0), (3, 2, 0), (3, 3, 0), (3, 4, 0), (3, 5, 0), (3, 6, 0), (3, 7, 0), (3, 8, 0), (4, 0, 0),
    (4, 1, 0), (4, 2, 2 ^ 50), (4, 3, 0), (4, 4, 0)] : List (Nat × Nat × Nat)), base.Runs 0 0 0 (row x.1 x.2.1 x.2.2) x.1 x.2.1 := by decide

theorem witness_rows_sync_collective : ∀ x ∈ ([(5, 0, 0), (5, 1, 1), (5, 2, 1), (5, 3, 0), (5, 4, 0), (5, 5, 0), (5, 6, 2 * 2 ^ 16), (5, 7, 0), (5, 8, 0), (5, 9, 0),
    (5, 0xA, 0), (6, 0, 0), (6, 1, 0), (6, 2, 0), (6, 3, 0), (6, 4, 0), (6, 5, 0), (6, 6, 0), (6, 7, 0), (6, 8, 0)] : List (Nat × Nat × Nat)),
    base.Runs 0 0 0 (row x.1 x.2.1 x.2.2) x.1 x.2.1 := by decide

/-- The backfill slot runs too. -/
theorem witness_rows_backfill : backfill.Runs 0 0 1 (row 0 0 0) 0 0 ∧ backfill.Runs 0 0 1 (row 5 0x3F 0) 5 0x3F := by decide

/-- An S register list in canonical form, and registers 1 and 2. -/
theorem witness_LoadConstantAndSRegisters : smWf 0 ({ sregs := [(1, 5), (2, 7)] } : Slot).sregs = true ∧ (1 : Fin 32) ≠ 0 ∧ (2 : Fin 32) ≠ 1 := by decide

/-- A LOAD or STORE at the last byte of core memory, and one past it; 128 bytes at its end. -/
theorem witness_LoadAndStoreAccessCoreMemory : (base.entered 0 0 0).outside 0 0 0 0x7FFFF 1 = none ∧
    (base.entered 0 0 0).outside 0 0 0 0x80000 1 = some 0x80000 ∧ (base.entered 0 0 0).outside 0 0 0 0x7FF80 128 = none ∧
    (base.entered 0 0 0).interlocked 0 0 0 0x7FFFF 1 false = false ∧ (base.entered 0 0 0).interlocked 0 0 0 0x7FFFF 1 true = false ∧
    (base.entered 0 0 0).memPoisoned (coreBase 0 0 + 0x7FFFF) 1 = false := by decide

/-- Two slots of core 0 in canonical form. -/
theorem witness_VectorElementResults : smWf {} ({ slots := [(0, { bound := true }), (1, { bound := true })] } : Block).slots = true ∧
    ((0 : Fin 12), (0 : Fin 153), (1 : Fin 2)) ≠ (0, 0, 0) := by decide

/-- Both outcomes of a CVT: one without scales (function 0), one with (function 0x0C). -/
theorem witness_VectorReductionsAndConversions : (cvt 0 0 .sat 32 false 0 0 0).2.1 = none ∧ (cvt 0x0C 2 .sat 32 false 0 0 0).2.1.isSome = true := by decide

/-- The selectors of RDSYS, slot numbers at the ends of BPOST's range, an ACTL value, the frame states. -/
theorem witness_SystemInstructionResults : wordField (BitVec.ofNat 64 (row 7 1 (3 * 2 ^ 32))) 32 17 = 3 ∧ base.Runs 0 0 0 (row 7 1 (3 * 2 ^ 32)) 7 1 ∧
    (runs { bound := true, sregs := [(1, 47)] }).Runs 0 0 0 (row 7 2 (2 ^ 49)) 7 2 ∧ ({ bound := true, sregs := [(1, 47)] } : Slot).s 1 % 64 = 47 ∧
    (base.slot 0 0 0).mq = [] ∧ actlBad ((runs { bound := true, sregs := [(1, 0x44)] }).slot 0 0 0 |>.s 1) = none ∧ base.merid.framesRun = false ∧
    (base.part 0).behind = 0 := by decide

/-- An ALU and a VADD word with a reserved field set, a reserved class, a reserved opcode of class 0. -/
theorem witness_IllegalWordFaultsPrecisely : base.canIssue 0 0 0 = true ∧ iClass 1 = 0 ∧ iOp 1 = 0 ∧ illegalField 1 = some 0 ∧ smWf {} base.slots = true ∧
    iClass (row 2 0 (2 ^ 23)) = 2 ∧ iOp (row 2 0 (2 ^ 23)) = 0 ∧ illegalField (row 2 0 (2 ^ 23)) = some 0 ∧
    iClass (row 8 0 0) = 8 ∧ illegalField (row 8 0 0) = some 60 ∧ encRow 0 7 (row 0 7 0) = none ∧ illegalField (row 0 7 0) = some 54 ∧
    smWf {} base.cores = true ∧ base.causeSet (.core 0 0) 0 = false ∧ bit (base.reg .eyep 0x040) 0 = false := by decide

/-- A partition whose slot translates everything to page 0 of this package, 1 GiB. -/
def mapped : Block := { base with mmus := [(0, { cache := [{ job := 0, slot := 0, base := 0, leaf := .package 0xFFFF 0 (2 ^ 30) true true }] })] }

theorem witness_FetchAndSlotSwitch :
    (mapped.canIssue 0 0 0 = true ∧ (mapped.core 0 0).icache = [] ∧
      (mapped.translate 0 0 none 0 false true).1 = .package 0xFFFF 0 (2 ^ 30) true true ∧ mapped.isSelf 0xFFFF = true ∧
      (mapped.translate 0 0 none 0 false true).2.canAccess 0 64 = true ∧
      ((mapped.translate 0 0 none 0 false true).2.memRead 0 64 .normal .none).2.1 = false) ∧
    (let b : Block := { slots := [(0, { bound := true, wait := .mmWait }), (1, { bound := true })], regs := [((Page.core 0 0).addr 0x040, 1)] }
     (b.core 0 0).ctx = .primary ∧ b.bfOn 0 0 = true ∧ (b.slot 0 0 1).bound = true ∧ (b.slot 0 0 1).stop = .running ∧ (b.slot 0 0 0).yields = true ∧
       (b.core 0 0).inReset = false ∧ (b.core 0 0).halted = false ∧ smGet false (b.part 0).patrolOn 0 = false) ∧
    smGet 0 (({ parts := [(0, { patrolOn := [(0, true)], patrolNext := [(0, 16)] })] } : Block).part 0).patrolNext (0 / 17) ≠ 0 % 17 ∧
    (let b : Block := { slots := [(0, { bound := true }), (1, { bound := true })], cores := [(0, { ctx := .backfill })] }
     (b.core 0 0).ctx = .backfill ∧ (b.slot 0 0 0).bound = true ∧ (b.slot 0 0 0).stop = .running ∧ (b.slot 0 0 0).wait = .none ∧
       ((b.slot 0 0 1).mq.any fun e => e.inPass && decide (e.held = [])) = false) ∧
    (({ cores := [(0, { ctx := .switching true })] } : Block).core 0 0).ctx = .switching true ∧
    (({ cores := [(0, { ctx := .switching false })] } : Block).core 0 0).ctx = .switching false := by decide


/-- Whether a word built of a row and its other bits is legal and of that row. -/
def legalRow (c o x : Nat) : Bool := illegalField (row c o x) = none && iClass (row c o x) = c && iOp (row c o x) = o

/-! Words with every field that Tables 3.3, 3.8, 3.9, 7.1, 8.2 and 10.3 name at a nonzero legal value are legal. -/

theorem test_every_scalar_field_legal :
    legalRow 0 0 (31 * 2 ^ 49 + 31 * 2 ^ 44 + 31 * 2 ^ 39 + 0xD * 2 ^ 32) ∧ legalRow 0 1 (31 * 2 ^ 49 + 31 * 2 ^ 44 + 0xD * 2 ^ 32 + 0xFFFFFFFF) ∧
    legalRow 0 4 (15 * 2 ^ 49 + 2 ^ 49 - 1) ∧ legalRow 0 4 (31 * 2 ^ 49) ∧ legalRow 0 5 (31 * 2 ^ 49 + 15 * 2 ^ 45 + 4 * 2 ^ 42 + 0xFFFFFFFF) ∧
    legalRow 1 0 (31 * 2 ^ 49 + 4 * 2 ^ 45 + 31 * 2 ^ 40 + 0xFFFFFFFF) ∧ legalRow 1 1 (31 * 2 ^ 49 + 5 * 2 ^ 45 + 31 * 2 ^ 40 + 0xFFFFFFFF) := by decide

theorem test_every_vector_field_legal :
    legalRow 2 8 (31 * 2 ^ 49 + 31 * 2 ^ 44 + 31 * 2 ^ 39 + 31 * 2 ^ 34 + 2 * 2 ^ 31 + 3 * 2 ^ 24) ∧
    legalRow 2 0x15 (31 * 2 ^ 44 + 31 * 2 ^ 34 + 2 ^ 31 + 63 * 2 ^ 24) := by decide

theorem test_every_matrix_field_legal :
    legalRow 3 0 (15 * 2 ^ 50 + 15 * 2 ^ 46 + 15 * 2 ^ 42 + 15 * 2 ^ 38 + 6 * 2 ^ 35 + 6 * 2 ^ 32 + 2 * 2 ^ 30 + 2 ^ 28 + 15 * 2 ^ 24 + 2 ^ 22 + 31 * 2 ^ 17 + 255 * 2 ^ 8) ∧
    legalRow 3 6 (15 * 2 ^ 50 + 31 * 2 ^ 3) ∧ legalRow 3 3 (15 * 2 ^ 46 + 6 * 2 ^ 32 + 255 * 2 ^ 8) ∧ legalRow 3 5 (4 * 2 ^ 51) ∧
    legalRow 3 7 (15 * 2 ^ 50 + 15 * 2 ^ 46 + 0xFFFFFFF0) := by decide

theorem test_every_transfer_field_legal :
    legalRow 4 0 (3 * 2 ^ 52 + 15 * 2 ^ 48 + 1023 * 2 ^ 38 + 31 * 2 ^ 33 + 0xFFFFFFC0) ∧ legalRow 4 1 (3 * 2 ^ 52 + 4 * 2 ^ 48) ∧
    legalRow 4 1 (2 ^ 51 + 4 * 2 ^ 48) ∧ legalRow 4 2 (8 * 2 ^ 50 + 31 * 2 ^ 45) ∧ legalRow 4 3 (255 * 2 ^ 46) ∧
    legalRow 4 4 (31 * 2 ^ 49 + 3 * 2 ^ 47) := by decide

theorem test_every_sync_field_legal :
    legalRow 5 0 (3 * 2 ^ 52) ∧ legalRow 5 1 (31 * 2 ^ 49 + 4095 * 2 ^ 37 + 2 ^ 36 + 0xFFFF) ∧
    legalRow 5 3 (31 * 2 ^ 49 + 4095 * 2 ^ 37 + 3 * 2 ^ 35 + 0xFFFFFFFF) ∧ legalRow 5 4 (31 * 2 ^ 49 + 4095 * 2 ^ 37) ∧
    legalRow 5 5 (31 * 2 ^ 49 + 4095 * 2 ^ 37) ∧ legalRow 5 6 (255 * 2 ^ 41 + 0xFFFFFFFF) ∧ legalRow 5 7 (31 * 2 ^ 49 + 255 * 2 ^ 41 + 31 * 2 ^ 35) ∧
    legalRow 5 7 (255 * 2 ^ 41 + 2 ^ 40 + 31 * 2 ^ 35) ∧ legalRow 5 8 (31 * 2 ^ 49 + 255 * 2 ^ 41) ∧ legalRow 5 9 (255 * 2 ^ 41) ∧
    legalRow 5 0xA (31 * 2 ^ 49 + 15 * 2 ^ 45 + 31 * 2 ^ 40 + 31 * 2 ^ 35 + 7 * 2 ^ 32 + 2 ^ 30 + 0xFFFFF8) := by decide

theorem test_every_collective_field_legal :
    legalRow 6 0 (63 * 2 ^ 48 + 15 * 2 ^ 44 + 31 * 2 ^ 39 + 0xFFFFFFC0) ∧ legalRow 6 1 (31 * 2 ^ 49 + 63 * 2 ^ 43 + 15 * 2 ^ 39 + 0xFFFFFFC0) ∧
    legalRow 6 2 (31 * 2 ^ 49 + 63 * 2 ^ 43 + 4095 * 2 ^ 27 + 31 * 2 ^ 22) ∧
    legalRow 6 3 (31 * 2 ^ 49 + 63 * 2 ^ 43 + 15 * 2 ^ 39 + 4095 * 2 ^ 27 + 31 * 2 ^ 22 + 0x7FFC0) ∧ legalRow 6 4 (63 * 2 ^ 43 + 4095 * 2 ^ 27) ∧
    legalRow 6 5 (31 * 2 ^ 49) ∧ legalRow 6 6 (63 * 2 ^ 43) ∧ legalRow 6 7 (31 * 2 ^ 49 + 63 * 2 ^ 43 + 2 ^ 42) ∧
    legalRow 6 8 (31 * 2 ^ 49 + 63 * 2 ^ 43) := by decide

theorem test_every_system_field_legal :
    legalRow 7 1 (31 * 2 ^ 49 + 5 * 2 ^ 32 + 0xFFFFFFFF) ∧ legalRow 7 0x11 (31 * 2 ^ 49 + 0x7FF) := by decide

/-- A single bit set in a field that must be zero makes the word illegal, and DETAIL names the field (R470). -/
theorem test_reserved_fields_illegal : ∀ x ∈ ([(0, 0, 31, 0), (0, 5, 41, 32), (1, 0, 39, 32), (2, 0, 23, 0), (3, 0, 16, 16), (3, 0, 2, 0), (3, 3, 53, 50), (3, 5, 50, 0),
    (3, 7, 45, 32), (4, 0, 32, 32), (4, 1, 47, 0), (4, 3, 45, 0), (4, 4, 46, 0), (5, 0, 51, 0), (5, 3, 34, 32), (5, 4, 36, 0), (5, 0xA, 27, 24), (6, 0, 38, 32),
    (6, 1, 38, 32), (6, 2, 42, 39), (6, 2, 21, 0), (6, 3, 21, 19), (6, 4, 53, 49), (6, 4, 42, 39), (6, 4, 26, 0), (6, 5, 48, 0), (6, 6, 53, 49), (6, 6, 42, 0),
    (6, 7, 41, 0), (6, 8, 42, 0), (7, 0x11, 11, 11)] : List (Nat × Nat × Nat × Nat)), illegalField (row x.1 x.2.1 (2 ^ x.2.2.1)) = some x.2.2.2 := by decide

theorem witness_ScalarResults : base.Runs 0 0 0 (row 0 0 (0xD * 2 ^ 32 + 31 * 2 ^ 49)) 0 0 ∧ base.Runs 0 0 0 (row 0 1 0xFFFFFFFF) 0 1 ∧
    base.Runs 0 0 0 (row 0 2 (2 * 2 ^ 32)) 0 2 ∧ base.Runs 0 0 0 (row 0 3 (3 * 2 ^ 32)) 0 3 := by decide

theorem witness_BranchesSetProgramCounter : base.Runs 0 0 0 (row 1 0 (5 * 2 ^ 45 + 0xFFFFFFFF)) 1 0 ∧ base.Runs 0 0 0 (row 1 1 (5 * 2 ^ 45 + 0xFFFFFFFF)) 1 1 ∧
    base.Runs 0 0 0 (row 1 2 (5 * 2 ^ 45)) 1 2 := by decide

theorem witness_VectorMovesAndLogic : base.Runs 0 0 0 (row 2 0x0A 0) 2 0x0A ∧ base.Runs 0 0 0 (row 2 0x09 (2 ^ 31)) 2 0x09 ∧
    base.Runs 0 0 0 (row 2 0x0E (2 * 2 ^ 31 + 2 ^ 24)) 2 0x0E ∧ base.Runs 0 0 0 (row 2 0x15 (2 ^ 31 + 63 * 2 ^ 24)) 2 0x15 ∧
    base.Runs 0 0 0 (row 2 0x16 (31 * 2 ^ 24)) 2 0x16 := by decide

theorem witness_RegisterInstructionsLeaveTheRest : base.Runs 0 0 0 (row 7 0x13 (31 * 2 ^ 49)) 7 0x13 ∧ base.Runs 0 0 0 (row 0 4 0) 0 4 ∧ smWf {} base.slots = true := by decide
/-! Matrix instructions. -/

/-- A tile descriptor of format `fmt`, `rows` by `cols`, rows of 64 bytes from `at`. -/
def tile (fmt rows cols at' : Nat) : Nat := fmt * 2 ^ 64 + cols * 2 ^ 51 + rows * 2 ^ 38 + 64 * 2 ^ 19 + at'

/-- A slot whose descriptors 1 to 3 name BF16 tiles A and B and an FP32 tile C, A and C of `n` rows. -/
def tiles (n : Nat) : Slot := { bound := true, tds := [(1, tile 1 n 16 0), (2, tile 1 16 16 0x2000), (3, tile 0 n 16 0x4000)] }

/-- The descriptor fields of such an instruction. -/
def abc : Nat := 2 ^ 50 + 2 * 2 ^ 46 + 3 * 2 ^ 42

/-- What the instruction captures. -/
def captured (op : MOp) (w n : Nat) : MEntry :=
  { op := op, word := w, tda := tile 1 n 16 0, tdb := tile 1 16 16 0x2000, tdc := tile 0 n 16 0x4000, planes := 4 }

theorem witness_MatrixInstructionsEnterTheQueue :
    (runs (tiles 16)).isComm 0 0 = false ∧ ((runs (tiles 16)).slot 0 0 0).mq.length < 4 ∧
    (runs (tiles 16)).Runs 0 0 0 (row 3 0 abc) 3 0 ∧ ((runs (tiles 16)).entered 0 0 0).matrixFault 0 0 0 (captured .ws (row 3 0 abc) 16) = none ∧
    ((runs (tiles 16)).entered 0 0 0).matrixFault 0 0 0 (captured .wt (row 3 1 abc) 16) = none ∧
    ((runs (tiles 16)).entered 0 0 0).matrixFault 0 0 0 (captured .os (row 3 2 abc) 16) = none := by decide

theorem witness_MatrixInstructionsEnterTheQueue_batch : ((runs (tiles 48)).entered 0 0 0).matrixFault 0 0 0 (captured .batch (row 3 6 abc) 48) = none ∧
    ((runs (tiles 16)).entered 0 0 0).pldFault 0 0 0 (captured .pld (row 3 3 (2 * 2 ^ 46)) 16) = none ∧
    (base.entered 0 0 0).outside 0 0 0 0x7FFF0 16 = none ∧ (0x7FFF0 + 16 ≤ 0x80000) ∧
    (base.entered 0 0 0).memPoisoned (coreBase 0 0 + 0x7FFF0) 16 = false := by decide

/-- A slot that 256 bubbles hold, the comm core's primary slot that they exempt, and one that none hold. -/
theorem witness_MatrixEngineRunsPasses_bubbled :
    (let b : Block := { slots := [(0, { bound := true, lcore := 0 })], poisonTick := true, parts := [(0, { bindP := some (7, 0), comm := 1 })] }
     b.bubbled 0 0 0 = true ∧ (b.modSlot 0 0 0 fun t => { t with lcore := 15 }).bubbled 0 0 0 = false ∧ ({ b with poisonTick := false } : Block).bubbled 0 0 0 = false) := by
  decide +kernel

/-- An entry that has not started (of either slot), an MM.PREL and an MM.PLD alone, one in a pass, an MM.PLD in a pass, one whose array
work is done, behind an MM.PREL or not. -/
theorem witness_MatrixEngineRunsPasses :
    (let b : Block := { slots := [(1, { bound := true, mq := [{ op := .ws }] })], cores := [(0, { ctx := .backfill })] }
     (((b.slot 0 0 0).mq ++ (b.slot 0 0 1).mq).any (·.inPass)) = false ∧ (b.core 0 0).inReset = false ∧ (b.core 0 0).ctx = .backfill ∧
       (b.slot 0 0 0).mq = [] ∧ (b.slot 0 0 1).mq = [{ op := .ws }] ∧ smWf {} b.cores = true ∧ smWf {} b.slots = true) ∧
    (∀ e ∈ ([{ op := .prel }, { op := .pld, tdb := tile 1 16 16 0x2000, planes := 0 }, { op := .batch, launched := true }] : List MEntry),
      let b := runs { bound := true, mq := [e] }
      (b.slot 0 0 0).mq = [e] ∧ e.arrayDone = false ∧ (e.op = .pld → e.planes < e.bPlanes)) ∧
    (let b := runs { bound := true, mq := [{ op := .prel }] }
     ((b.skipIdle 0 0 0 1).slot 0 0 0).mq = [{ op := .prel, arrayDone := true }]) ∧
    (let b := runs { bound := true, mq := [{ op := .ws }] }
     (((b.slot 0 0 0).mq ++ (b.slot 0 0 1).mq).any (·.inPass)) = false ∧ (b.core 0 0).inReset = false ∧ (b.slot 0 0 0).mq = [{ op := .ws }]) ∧
    ((runs { bound := true, mq := [{ op := .ws, inPass := true }] }).slot 0 0 0).mq = [{ op := .ws, inPass := true }] ∧
    ((runs { bound := true, mq := [{ op := .pld, inPass := true }] }).slot 0 0 0).mq = [{ op := .pld, inPass := true }] ∧
    ((runs { bound := true, mq := [{ op := .ws, arrayDone := true }] }).slot 0 0 0).mq = [{ op := .ws, arrayDone := true }] := by decide

/-- An MM.PLD in a pass that has its planes, with its retention lost or not, and one whose planes have been given up. -/
theorem witness_MatrixEngineRunsPasses_load : ∀ x ∈ ([(4, false), (4, true), (0, false)] : List (Nat × Bool)),
    let e : MEntry := { op := .pld, inPass := true, tdb := tile 1 16 16 0x2000, planes := x.1, lost := x.2 }
    ((runs { bound := true, mq := [e] }).slot 0 0 0).mq = [e] ∧ (e.planes < e.bPlanes ↔ x.1 = 0) := by decide

/-- An MM.BATCH at the head with all slots valid, with some, with none, at its deadline. -/
theorem witness_BatchAssemblerLaunches : ∀ v ∈ ([0, 1, 2 ^ 48 - 1] : List Nat),
    (let b : Block := { slots := [(0, { bound := true, mq := [{ op := .batch }] })], cores := [(0, { batchValid := v })], merid := { count := 255 } }
     (b.slot 0 0 0).mq = [{ op := .batch }] ∧ (b.core 0 0).batchValid = v ∧
       Nat.max 0 ((b.core 0 0).batchPost.getD 0) + b.fld (.mxe 0 0) 0x044 0 8 ≤ b.merid.count) := by decide

/-! Memory. -/

/-- Core memory byte 5 of core 0 holds 7; HBM unit 64 of stack 0 is marked. -/
def someRam : Ram := { mem := [(coreBase 0 0 + 5, 7)], poison := [(64, true)] }

theorem witness_MemoryAccessesReachTheirHome : ({} : Block).CachesAgree ∧ bit ({} : Block).tiers.stackOos 0 = false ∧ (127 % 128 + 1 ≤ 128) ∧
    127 + 1 ≤ stackBytes ∧
    someRam.poisoned (0 * stackBytes + 127) 1 = true ∧ someRam.poisoned (0 * stackBytes + 63) 1 = false ∧ bit ({} : Block).tiers.capIn 15 = true ∧
    3967 % 4096 < 3968 ∧ someRam.poisoned (2 ^ 40 + 15 * 2 ^ 36 + 3967) 1 = false := by decide

/-- A write that covers a marked unit, one inside it, one in an unmarked SRAM word. -/
theorem witness_PoisonMarkersFollowWrites : someRam.wf = true ∧ 64 % unitSize 64 = 0 ∧ 127 + 1 ≤ 64 + unitSize 127 ∧ unitSize 64 = unitSize 127 ∧
    smGet false someRam.poison 64 = true ∧ coreBase 0 0 % unitSize (coreBase 0 0 + 5) = 0 ∧ coreBase 0 0 + 5 + 3 ≤ coreBase 0 0 + unitSize (coreBase 0 0 + 5) ∧
    unitSize (coreBase 0 0) = unitSize (coreBase 0 0 + 5) ∧ smGet false someRam.poison (coreBase 0 0) = false := by decide

theorem witness_MemoryCommandsKeepCanonicalForm : ({ ram := someRam } : Block).ram.wf = true := by decide

theorem witness_CacheAndScrubCommands : ({} : Block).boot.power = .on ∧ (({} : Block).msc 0).flushing = false ∧
    (({ mscs := [(0, { flushing := true })] } : Block).msc 0).flushing = true ∧ ({} : Block).fld (.hbmc 0) 0x044 0 8 ≠ 0 ∧
    ({} : Block).fld (.capc 0) 0x040 0 8 ≠ 0 ∧ ({} : Block).MayWrite (.hbmc 0) .pf0 ∧ ({ tiers := { stackOos := 0 } } : Block).tiers.stackOos % 4096 = 0 ∧
    ({} : Block).tiers.stackOos % 4096 ≠ 0 ∧ ({} : Block).tiers.imapNext ≠ 1 := by decide

/-! Translation. -/

/-- Three tables at 0x1000, 0x2000 and 0x3000 of HBM whose first entries lead to a leaf for base 0, of this package, writable. -/
def tables : Block :=
  { regs := [((Page.mmu 0).addr 0x040, 0x1001)],
    ram := { mem := [(0x1000, 1), (0x1001, 0x20), (0x2000, 1), (0x2001, 0x30), (0x3000, 0x0B), (0x3006, 0xFF), (0x3007, 0xFF)] } }

theorem witness_TableWalkFindsTheLeaf : bit (tables.reg (.mmu 0) 0x040) 0 = true ∧ tables.pair (.mmu 0) 0x040 0x044 12 = 0x1000 ∧
    leNat (tables.memBytes 0x1000 8) = 0x2001 ∧ leNat (tables.memBytes 0x2000 8) = 0x3001 ∧ leNat (tables.memBytes 0x3000 8) = 0xFFFF00000000000B ∧
    tables.canAccess 0x1000 8 = true ∧ tables.memPoisoned 0x1000 8 = false ∧ malformed 0 0x2001 = false ∧ malformed 1 0x3001 = false ∧
    malformed 2 0xFFFF00000000000B = false ∧ smWf {} tables.mmus = true ∧ tables.CachesAgree ∧
    (tables.walk 0 0 0 true false).1 = .package 0xFFFF 0 (2 ^ 30) true false ∧ (tables.walk 0 0 0 false true).1 = .fault 3 0xFFFF00000000000B := by decide

/-- A record that waits in the fault queue. -/
def faulted : FaultRec := { id := 0, va := 0, job := 1, cause := 1, write := false, slot := 0, engine := 0, chan := 0, count := 0, entry := 0, age := 65535 }

theorem witness_MmuCommands : tcFind (mapped.mmu 0).cache (((mapped.part 0).jobOf 0).getD 0) 0 0 =
      some { job := 0, slot := 0, base := 0, leaf := .package 0xFFFF 0 (2 ^ 30) true true } ∧
    (let b : Block := { mmus := [(0, { recs := [faulted] })] }
     (b.mmu 0).recs.find? (fun q => q.id = b.reg (.mmu 0) 0x06C) = some faulted ∧ (b.part 0).state ≠ .saved ∧ (b.part 0).state ≠ .saving ∧ b.recHeld 0 faulted = false ∧ b.fld (.mmu 0) 0x074 0 16 ≤ faulted.age ∧
       b.MayWrite (.mmu 0) .pf1 ∧ (b.mmu 0).waiting = [] ∧ (b.mmu 0).invGo = false) ∧
    bits (({ regs := [((Page.mmu 0).addr 0x050, 2 <<< 24)] } : Block).reg (.mmu 0) 0x050) 24 4 = 2 ∧
    (∀ l ∈ ([[], [{ pkt := {}, space := 0, origin := .desc 0 0 0 0, sentUs := 0, old := true }]] : List (List Xact)),
      let b : Block := { mmus := [(0, { invGo := true })], xu := { outs := l } }
      (b.mmu 0).invGo = true ∧ b.staleBusy 0 = decide (l ≠ [])) := by decide

/-- A transfer of engine 0 and a fetch whose page lies in both caches, in the partition's alone, or in neither, in the tables or not; a
cached leaf that denies a write. -/
theorem witness_MmuCommands_walks :
    (let e : TcEntry := { job := 0, slot := 0, base := 0, leaf := .package 0xFFFF 0 (2 ^ 30) false true }
     let b : Block := { mapped with mmus := [(0, { cache := [e], engCache := [(0, [e])] })] }
     tcFind (smGet [] (b.mmu 0).engCache 0) 0 0 0 = some e ∧ tcFind (smGet [] (b.mmu 0).engCache 1) 0 0 0 = none ∧
       tcFind (b.mmu 0).cache 0 0 0 = some e ∧ e.leaf.check false false = e.leaf ∧ e.leaf.check true false = .fault 2 0) ∧
    (((tables.modMmu 0 fun m => { m with misses := m.misses + 1 }).walk 0 0 0 false true).1 = .fault 3 0xFFFF00000000000B ∧
      ((tables.modMmu 0 fun m => { m with misses := m.misses + 1 }).walk 0 0 0 true false).1 = .package 0xFFFF 0 (2 ^ 30) true false ∧
      ((base.modMmu 0 fun m => { m with misses := m.misses + 1 }).walk 0 0 0 true false).1 = .fault 8 0 ∧
      (tables.mmu 0).cache = [] ∧ (tables.part 0).jobOf 0 = none) := by decide +kernel

/-! Transfers. -/

theorem witness_TransferInstructionResults : (base.entered 0 0 0).outside 0 0 0 (0x80000 - 64 * 1) 64 = none ∧ (base.chan 0 0 0).lists.length < 16 ∧
    (base.chan 0 0 0).listsOf 0 < 4 ∧ base.engOn 0 0 = true ∧ (base.chan 0 0 0).state ≠ .stopped ∧ (base.eng 0 0).failed = false ∧
    (runs { bound := true, sregs := [(1, 64)] }).Runs 0 0 0 (row 4 2 (2 ^ 50 + 2 ^ 45)) 4 2 ∧ ({ bound := true, sregs := [(1, 64)] } : Slot).s 1 = 64 ∧
    smWf {} ({ bound := true, pairs := [(1, ⟨64, false⟩)] } : Slot).pairs = true ∧ smWf {} base.slots = true := by decide

/-- A copy of one row of 64 bytes from core-memory address 0 to 0x1000, fenced. -/
def copyBytes : List Nat := [1, 0x11, 0x80, 0, 0, 0, 0, 0, 0, 0, 0, 0, 64, 0, 0, 0] ++ leBytes 8 0 ++ leBytes 8 0x1000 ++ leBytes 4 1 ++ List.replicate 28 0

/-- Its list on channel 0 of engine 0. -/
def oneList : XList := { core := 0, slot := 0, lcore := 0, job := 0, base := 0, count := 1 }

def copying (d : Desc) : Block := { engs := [(0, { pri := { lists := [oneList], cur := some d } })] }


theorem witness_DescriptorCopiesCoreMemory :
    let d : Desc := { bytes := copyBytes }
    let b := copying d
    b.boot.power = .on ∧ b.Settled ∧ b.frozen = false ∧ (b.chan 0 0 0).state = .normal ∧ (b.chan 0 0 0).lists = [oneList] ∧
    (b.eng 0 0).served = true ∧ (b.chan 0 0 0).out = [] ∧ d.held = [] ∧ d.asked = d.given ∧ d.hold.parks = false ∧ (b.chan 0 0 0).cur = some d ∧ dPost d.bytes = false ∧ dFence d.bytes = true ∧ dSrcKind d.bytes = 1 ∧ dDstKind d.bytes = 1 ∧
    dRows d.bytes = 1 ∧ dRowBytes d.bytes = 64 ∧ oneList.core < 153 ∧ dSrc d.bytes oneList + 64 ≤ 0x80000 ∧ dDst d.bytes oneList + 64 ≤ 0x80000 ∧
    pieceLen 64 (dSrc d.bytes oneList) (dDst d.bytes oneList) = 64 ∧ b.memPoisoned (coreBase 0 0 + dSrc d.bytes oneList) 64 = false ∧
    b.memPoisoned (coreBase 0 0 + dDst d.bytes oneList) 64 = false ∧ b.ram.wf = true ∧ smWf {} b.engs = true := by decide

/-- The same copy on channel 1, whose primary channel has nothing to do. -/
theorem witness_DescriptorCopiesCoreMemory_backfill :
    let b : Block := { engs := [(0, { bf := { lists := [{ oneList with slot := 1 }], cur := some { bytes := copyBytes } } })] }
    (b.chan 0 0 1).cur = some { bytes := copyBytes } ∧ b.canProceed 0 0 0 = false := by decide

/-- The same copy without its fence, moved: the only descriptor of its list, and the first of two. -/
theorem witness_DescriptorEndsAndEngineFailures : ∀ n ∈ ([1, 2] : List Nat),
    let d : Desc := { bytes := [1, 0x11] ++ List.replicate 62 0, row := 1, moved := true }
    let b : Block := { engs := [(0, { pri := { lists := [{ oneList with count := n }], cur := some d } })] }
    b.Settled ∧ b.frozen = false ∧ (b.chan 0 0 0).state = .normal ∧ (b.chan 0 0 0).lists = [{ oneList with count := n }] ∧
    (b.eng 0 0).served = true ∧ (b.chan 0 0 0).out = [] ∧ (b.chan 0 0 0).cur = some d ∧ d.poison = false ∧ d.asked = d.given ∧ dPost d.bytes = false ∧
    dSig d.bytes 8 = none ∧ dSig d.bytes 10 = none ∧ b.descBusy 0 0 0 d.id = false ∧ (b.hdr (.dma 0 0)).draining = false ∧
    smWf {} b.engs = true ∧ (b.eng 0 35).failed = false ∧ (∃ k < 4, 4 * (35 / 4) + k ≠ 35 ∧ (b.eng 0 (4 * (35 / 4) + k)).failed = false) ∧
    smWf {} b.parts = true ∧ smWf false (b.part 0).failedEngines = true := by decide

/-! Counters, barriers, atomics. -/

/-- Partition 0 bound to job 7, whose slot has S register 1 at `v`. -/
def shared (v : Nat) : Block :=
  { runs { bound := true, job := 7, sregs := [(1, v)] } with parts := [(0, { bindP := some (7, 0) })] }

/-- The same with counter 1 at 5 and barrier 2 as `y`. -/
def synced (v : Nat) (y : Bar) : Block := { shared v with syncs := [(0, { ctrs := [(1, 5)], bars := [(2, y)] })] }

/-- Words that name counter 1, or barrier 2, and S register 1. -/
def ctr1 : Nat := 2 ^ 49 + 2 ^ 37
def bar2 : Nat := 2 ^ 49 + 2 * 2 ^ 41

theorem witness_SyncInstructionResults :
    (∀ x ∈ ([(1, ctr1 + 3), (2, ctr1 + 3), (5, ctr1), (4, ctr1), (3, ctr1 + 2 ^ 35), (3, ctr1 + 5), (3, ctr1 + 2 ^ 36 + 6)] : List (Nat × Nat)),
      let w := BitVec.ofNat 64 (row 5 x.1 x.2)
      (shared 5).Runs 0 0 0 w.toNat 5 x.1 ∧ (shared 5).ctrNum 0 0 (wordField w 37 12) = some 1) ∧
    ((synced 5 {}).syn 0).ctr 1 = 5 ∧
    (∀ x ∈ ([(6, 2 * 2 ^ 41 + 2 * 2 ^ 16), (7, bar2), (8, bar2), (9, 2 * 2 ^ 41)] : List (Nat × Nat)), let w := BitVec.ofNat 64 (row 5 x.1 x.2)
      (shared 5).Runs 0 0 0 w.toNat 5 x.1 ∧ (shared 5).barNum 0 0 (wordField w 41 8) = some 2) ∧
    (∀ y ∈ ([{ gen := 4 }, { gen := 5, state := .armed }, { gen := 5, state := .timedOut }, { gen := 5 }] : List Bar),
      (((synced 5 y).syn 0).bar 2).gen = y.gen ∧ (((synced 5 y).syn 0).bar 2).state = y.state) ∧
    (let w := BitVec.ofNat 64 (row 5 4 (2 ^ 49 + 0xFFF * 2 ^ 37))
     (shared 5).Runs 0 0 0 w.toNat 5 4 ∧ (shared 5).ctrNum 0 0 (wordField w 37 12) = none) ∧
    (let v := 0xFFFF * 2 ^ 48
     let w := BitVec.ofNat 64 (row 5 1 (ctr1 + 2 ^ 36 + 3))
     let w' := BitVec.ofNat 64 (row 5 2 (ctr1 + 2 ^ 36 + 3))
     w.getLsbD 36 = true ∧ v % 16 < 12 ∧ (shared v).isSelf (v / 2 ^ 48) = true ∧ ((shared v).slot 0 0 0).s 1 = v ∧ (shared v).partOf 7 (v % 16) (some 0) = some (0, 0) ∧ ((shared v).part 0).blank = false ∧
       (shared v).ctrNum 0 0 (wordField w 37 12) = some 1 ∧ (shared v).ctrNum 0 0 (wordField w 37 12) ≠ none ∧ (shared v).Runs 0 0 0 w.toNat 5 1 ∧ (shared v).Runs 0 0 0 w'.toNat 5 2) ∧
    (shared 5).Runs 0 0 0 (row 5 0 0) 5 0 ∧ ((shared 5).slot 0 0 0).syncOut = 0 ∧ ((shared 5).slot 0 0 0).amos = [] := by
  decide

/-- An update in flight to counter 1, which holds `v`. -/
def updating (op : CtrOp) (v amount : Nat) : Block :=
  { runs { bound := true, job := 7, wait := .verdict } with
    syncs := [(0, { ctrs := [(1, v)], inflight := [{ op := op, num := 1, amount := amount, src := .instr 0 0 0 true 0 7 }] })] }

theorem witness_CounterUpdatesApplyOrFault :
    (∀ x ∈ ([(.add, 0xFFFFFFFE, 1), (.add, 0xFFFFFFFF, 1), (.sub, 1, 1), (.sub, 1, 2), (.set, 1, 0xFFFFFFFF)] : List (CtrOp × Nat × Nat)),
      let b := updating x.1 x.2.1 x.2.2
      b.boot.power = .on ∧ (b.syn 0).inflight = [{ op := x.1, num := 1, amount := x.2.2, src := .instr 0 0 0 true 0 7 }] ∧ (b.syn 0).ctr 1 = x.2.1 ∧
        smGet [] (b.syn 0).ctrWaits 1 = [] ∧ smWf {} b.syncs = true ∧ smWf 0 (b.syn 0).ctrs = true ∧ smWf {} b.slots = true ∧
        smWf {} b.cores = true ∧ smWf {} b.pages = true ∧ smWf 0 b.logs = true ∧ (b.hdr (.sync 0)).freeze = false ∧
        b.causeSet (.core 0 0) 0 = false) := by decide

theorem witness_BarrierGenerationCompletes :
    (∀ k ∈ ([0, 1] : List Nat), let b : Block := { runs { bound := true, wait := .verdict } with
        syncs := [(0, { bars := [(2, { state := .armed, count := 2, arrived := k })], inflight := [{ bar := true, num := 2, src := .instr 0 0 0 true 0 7, reg := 1 }] })] }
     smWf {} b.syncs = true ∧ smWf {} (b.syn 0).bars = true ∧ smWf {} b.slots = true ∧
       (b.syn 0).inflight = [{ bar := true, num := 2, src := .instr 0 0 0 true 0 7, reg := 1 }] ∧ smGet [] (b.syn 0).barWaits 2 = [] ∧
       ((b.syn 0).bar 2).state = .armed ∧ ((b.syn 0).bar 2).relEn = false ∧ b.MayWrite (.sync 0) .pf0 ∧ (b.syn 0).busy = false ∧
       smWf {} b.pages = true ∧ smWf 0 b.logs = true ∧ (b.hdr (.sync 0)).freeze = false) ∧
    (((synced 5 { state := .timedOut }).syn 0).bar 2).state = .timedOut ∧
    (let b : Block := { synced 5 { state := .armed, timeout := 9, arrived := 1, ticks := 9, count := 2 } with regs := [((Page.sync 0).addr 0x044, 2)] }
     ((b.syn 0).bar 2).state = .armed ∧ ((b.syn 0).bar 2).timeout ≠ 0 ∧ ((b.syn 0).bar 2).arrived ≠ 0 ∧ ((b.syn 0).bar 2).timeout ≤ ((b.syn 0).bar 2).ticks ∧
       smGet [] (b.syn 0).barWaits 2 = [] ∧ bit (b.reg (.sync 0) 0x044) 1 = false ∧ smWf {} b.syncs = true ∧ smWf {} (b.syn 0).bars = true ∧ smWf {} b.slots = true) ∧
    (let b : Block := { syncs := [(0, { survey := some [1, 2], busy := true })] }
     (b.syn 0).survey = some [1, 2] ∧ b.canAccess (b.pair (.sync 0) 0x048 0x04C 15) 2 = true ∧ smWf {} b.syncs = true ∧
       bit (b.reg .eyep 0x040) 0 = false) ∧
    (let b : Block := { syncs := [(0, { survey := some [1, 2], busy := true })],
                        regs := [((Page.sync 0).addr 0x048, 0xFFFF8000), ((Page.sync 0).addr 0x04C, 0x1FFFFFF)] }
     b.canAccess (b.pair (.sync 0) 0x048 0x04C 15) 2 = false) := by decide

/-- `mapped` with an atomic of 8 bytes on its way to the last word of core 152's memory. -/
def atomic : Block := { mapped with slots := [(0, { bound := true, amos := [⟨coreBase 0 152 + 0x7FFF8, 0, 1, 8, 5, 0, 3, false⟩], aregs := [(0, 4)] })] }

/-- `mapped` with A register 1 at 1. -/
def misaligned : Block := { mapped with slots := [(0, { bound := true, aregs := [(1, 1)] })] }

theorem witness_AtomicsReturnTheOldValue :
    mapped.Runs 0 0 0 (row 5 0xA (2 ^ 30 + 0xFFFFF8)) 5 0xA ∧ 0xFFFFF8 % 4 = 0 ∧ misaligned.Runs 0 0 0 (row 5 0xA (2 ^ 45)) 5 0xA ∧ (misaligned.slot 0 0 0).a 1 % 4 ≠ 0 ∧ mapped.Runs 0 0 0 (row 5 0xA 64) 5 0xA ∧
    ((mapped.entered 0 0 0).translate 0 0 none 64 true false).1 = .package 0xFFFF 0 (2 ^ 30) true true ∧
    (((mapped.entered 0 0 0).translate 0 0 none 64 true false).2.isSelf 0xFFFF = true) ∧
    ((mapped.entered 0 0 0).translate 0 0 none 64 true false).2.canAccess 64 4 = true ∧
    (atomic.slot 0 0 0).amos[0]? = some ⟨coreBase 0 152 + 0x7FFF8, 0, 1, 8, 5, 0, 3, false⟩ ∧ (coreBase 0 152 + 0x7FFF8) % 8 = 0 ∧
    coreBase 0 152 ≤ coreBase 0 152 + 0x7FFF8 ∧ coreBase 0 152 + 0x7FFF8 + 8 ≤ coreBase 0 152 + 0x80000 ∧
    homeOf atomic.tiers (coreBase 0 152 + 0x7FFF8) ≠ none ∧ atomic.canAccess (coreBase 0 152 + 0x7FFF8) 8 = true ∧ atomic.CachesAgree ∧
    atomic.memPoisoned (coreBase 0 152 + 0x7FFF8) 8 = false ∧ atomic.ram.wf = true ∧ smWf {} atomic.slots = true ∧
    (let b : Block := { atomic with ram := { poison := [(coreBase 0 152 + 0x7FFF8, true)] } }
     b.ram.wf = true ∧ b.memPoisoned (coreBase 0 152 + 0x7FFF8) 8 = true ∧ bit (b.reg .eyep 0x040) 0 = false) := by decide

/-- A slot whose A register 1 lies beyond 57 bits; a page of a package that can be reached, one whose location is no memory. -/
theorem witness_AtomicsReturnTheOldValue_places :
    (let b : Block := { mapped with slots := [(0, { bound := true, aregs := [(1, 2 ^ 57)] })] }
     b.Runs 0 0 0 (row 5 0xA (2 ^ 45)) 5 0xA ∧ 2 ^ 57 ≤ (b.slot 0 0 0).a 1 ∧ (b.slot 0 0 0).a 1 % 4 = 0) ∧
    (∀ x ∈ ([(9, 0), (0xFFFF, 2 ^ 50)] : List (Nat × Nat)),
      let b : Block := { base with mmus := [(0, { cache := [{ job := 0, slot := 0, base := 0, leaf := .package x.1 x.2 (2 ^ 30) true true }] })],
                                   links := [(0, { state := .linkup })], routes := [(9, 0x80000000 ^^^ 0x3FFFFFFF)] }
      let e := b.entered 0 0 0
      (e.translate 0 0 none 64 true false).1 = .package x.1 x.2 (2 ^ 30) true true ∧
        (x.1 = 9 → e.isSelf 9 = false ∧ e.reachable 9 = true ∧ e.xRoom 9 0 = true) ∧
        (x.1 = 0xFFFF → e.isSelf 0xFFFF = true ∧ e.canAccess (2 ^ 50 + 64) 4 = false)) := by decide

/-! Links. -/

/-- Link 0 alone. -/
def linked (k : Link) : Block := { links := [(0, k)] }

/-- A control block of 15 bytes `x` with its CRC-8. -/
def ctl (x : Nat) : BitVec 128 := BitVec.ofNat 128 (x + crc8 (leBytes 15 x) * 2 ^ 120)

set_option maxRecDepth 8000 in
theorem witness_LinkStateTransitions :
    (∀ st ∈ ([.disabled, .linkup, .detect, .failed, .train, .digest, .align, .drainDisable false, .drainDisable true] : List LState),
      let b := linked { state := st, rtt := 1 }
      b.boot.power = .on ∧ smWf {} b.links = true ∧ b.MayWrite (.lnk 0) .pf0 ∧ b.linkLicensed 0 = true ∧ (b.link 0).state = st ∧ b.Settled ∧
        b.LinkUnused 0 ∧ b.helio.gauge ≠ .parking) ∧
    16 ≤ popcount 0xFFFF 18 ∧ popcount 0x7FFF 18 < 16 ∧ 16 ≤ popcount 0x3FFFF 18 ∧
    ({ linked { state := .align } with regs := [((Page.lnk 0).addr 0x060, 0xFFFA)] } : Block).pkgn ≠ 0xFFFF ∧
    ({ linked { state := .failed } with regs := [((Page.lnk 0).addr 0x040, 0x500)] } : Block).fld (.lnk 0) 0x040 8 8 ≠ 0 := by decide

set_option maxRecDepth 8000 in
theorem witness_DigestsDecideLinkup :
    (let b := linked { state := .digest }
     smWf {} b.links = true ∧ (b.link 0).state = .digest ∧ ctlGood (ctl 6).toNat = true ∧ ctlByte (ctl 6).toNat 0 = 6 ∧
       ctlGood (ctl (leNat (b.digest 0) - 2 ^ 96)).toNat = true ∧ ctlByte (ctl (leNat (b.digest 0) - 2 ^ 96)).toNat 0 = 6 ∧
       digestsAgree (b.digest 0) (leBytes 15 (ctl (leNat (b.digest 0) - 2 ^ 96)).toNat) = true ∧ digestsAgree (b.digest 0) (leBytes 15 (ctl 6).toNat) = false) ∧
    ctlGood 1 = false ∧ ({} : Block).MayWrite (.lnk 0) .pf0 ∧
    (∀ k < 36, (({} : Block).link k).state.code < 4 ∨ 9 < (({} : Block).link k).state.code) ∧ 5 ≠ ({} : Block).reg (.lnk 0) 0x064 ∧
    ({} : Block).MayWrite (.route 0) .pf0 ∧ cleanRoute 0x80000000 = 0x80000000 ∧ smWf 0 ({} : Block).routes = true ∧
    (let b := linked { state := .linkup }
     smWf {} b.links = true ∧ ctlGood (ctl 4).toNat = true ∧ ctlByte (ctl 4).toNat 0 = 4 ∧ ctlGood (ctl 5).toNat = true ∧ ctlByte (ctl 5).toNat 0 = 5 ∧
       ctlGood (ctl 9).toNat = true ∧ ctlByte (ctl 9).toNat 0 = 9 ∧ (b.link 0).state = .linkup ∧ (b.link 0).state.live = true ∧ (b.link 0).state.runs = true ∧ b.Settled ∧
       b.LinkEmpty 0) := by decide

set_option maxRecDepth 8000 in
theorem witness_RetryAndSparing :
    (let b := linked { state := .linkup }
     b.boot.power = .on ∧ b.Settled ∧ smWf {} b.links = true ∧ (b.link 0).state = .linkup ∧ (b.link 0).rxBad = 0 ∧ (b.link 0).rxLane = [] ∧ (b.link 0).rxSw = [] ∧
       (b.link 0).replayTo = none ∧ b.LinkEmpty 0 ∧ (b.link 0).state.live = true) ∧
    (let b := linked { state := .linkup, retry := [{ seq := 3, first := 3, idx := 0, pkt := {} }] }
     smWf {} b.links = true ∧ ctlGood (ctl (3 + 3 * 2 ^ 8)).toNat = true ∧ ctlByte (ctl (3 + 3 * 2 ^ 8)).toNat 0 = 3 ∧ (b.link 0).state.live = true ∧
       ((b.link 0).retry.any fun f => f.seq = (ctl (3 + 3 * 2 ^ 8)).toNat / 256 % 65536) = true) ∧
    (let b := linked { state := .sparing }
     smWf {} b.links = true ∧ (b.link 0).state = .sparing) ∧
    (let b := linked { state := .retry, episode := true }
     smWf {} b.links = true ∧ (b.link 0).state = .retry ∧ (b.link 0).episode = true ∧ b.LinkEmpty 0) ∧
    bit ((linked {}).reg (.lnk 0) 0x040) 2 = true := by decide

/-- An episode with every lane in use and the spare free; three lanes pairwise different. -/
theorem witness_RetryAndSparing_lane :
    (let b := linked { state := .retry, episode := true }
     (b.link 0).rxBad = 0 ∧ (b.link 0).rxLane = [] ∧ (b.link 0).rxSw = [] ∧ (b.link 0).replayTo = none) ∧
    (0 : Fin 16) ≠ 1 ∧ (0 : Fin 16) ≠ 15 ∧ (1 : Fin 16) ≠ 15 := by decide

/-- A flit with byte 0 `b0`, SEQ `seq` and nothing else, with its CRC-32. -/
def flit (b0 seq : Nat) : List Byte := (flitBytes b0 seq 0 0 0 0 0 []).map (BitVec.ofNat 8)

/-- A data flit that begins a packet, one that goes on with it, and an IDLE flit. -/
theorem witness_RetryAndSparing_flits :
    (flitGood (flit (64 + 8) 5) = true ∧ flitField (flit (64 + 8) 5) 0 1 / 64 = 1 ∧ bit (flitField (flit (64 + 8) 5) 0 1) 4 = false ∧
      bit (flitField (flit (64 + 8) 5) 0 1) 3 = true ∧ flitField (flit (64 + 8) 5) 1 2 = ((linked { state := .linkup, rxSeq := 5 }).link 0).rxSeq) ∧
    (flitGood (flit 64 6) = true ∧ bit (flitField (flit 64 6) 0 1) 4 = false ∧ flitField (flit 64 6) 1 2 = 6 ∧
      (smGet {} ((linked { state := .linkup, rxSeq := 6, parts := [(0, { flits := 1 })] }).link 0).parts 0).flits ≠ 0) ∧
    (flitGood (flit 0 5) = true ∧ flitField (flit 0 5) 0 1 / 64 = 0) := by decide +kernel

/-- Package 5, whose packets for package 9 go out on link 0, which is in LINKUP. -/
def routed : Block := { linked { state := .linkup } with regs := [((Page.lnk 0).addr 0x060, 0xFFFA)], routes := [(9, 0x80000000 ^^^ 0x3FFFFFFF)] }

theorem witness_PacketsForwardedAndPerformed :
    routed.Settled ∧ routed.pkgn = 5 ∧ routed.isSelf 9 = false ∧ routed.isSelf 5 = true ∧ (routed.link 0).state = .linkup ∧ bit (routed.route 9) 31 = true ∧
    ({ dst := 9, kind := 2, hops := 11 } : Pkt).isMgmt = false ∧ (routed.cand 9).map (fun c => (c.1, c.2.1)) = some (0, 0) ∧
    ({ dst := 9, kind := 6, hops := 11 } : Pkt).isMgmt = true ∧ routed.up (bits (routed.route 9) 24 6) = true ∧
    (∀ k ∈ ([0, 13, 255] : List Nat), k = 0 ∨ 12 < k) ∧
    routed.packetPlace { kind := 1, dst := 5, addr := 64, len := 4, data := [] } 4 = .inr 64 ∧
    (∀ n ∈ ([5, 4] : List Nat), let b : Block := { routed with xu := { known := [(spaceKey 9 0, true)], next := [(spaceKey 9 0, 5)] } }
      smGet false b.xu.known (spaceKey 9 0) = true ∧ b.xu.hold = [] ∧
        ((n + 65536 - smGet 0 b.xu.next (spaceKey 9 0)) % 65536 = 0 ∨ 61440 ≤ (n + 65536 - smGet 0 b.xu.next (spaceKey 9 0)) % 65536)) := by decide

/-- A write to package 9 that has gone out. -/
def outstanding (re : Nat) : Xact := { pkt := { kind := 2, dst := 9, src := 5, tid := 3 }, space := 0, origin := .none, sentUs := 0, reissues := re }

theorem witness_TransactionsEndOrAreReissued :
    (∀ re ∈ ([0, 15] : List Nat), let b : Block := { routed with xu := { outs := [outstanding re] } }
     b.boot.power = .on ∧ b.isSelf 5 = true ∧ b.Settled ∧ b.xFind 0 9 3 = some (outstanding re) ∧ b.xFind 0 9 4 = none ∧
       (9 + 0 * 65536) / 65536 % 4 = 0 ∧ (re < b.fld (.lnk 0) 0x068 16 4 ∨ b.fld (.lnk 0) 0x068 16 4 ≤ re) ∧ smWf false b.xu.resyncDue = true) ∧
    0 < routed.fld (.lnk 0) 0x068 16 4 ∧ routed.fld (.lnk 0) 0x068 16 4 ≤ 15 := by decide

/-! Collectives. -/

/-- Core 0 of partition 0 is the comm core of logical cluster 0 for job 7, with a rank in S register 1 and a length of 64 in S register 2, and
queue 3 holds `c`. -/
def comm (c : CQueue) : Block :=
  { slots := [(0, { bound := true, job := 7, lcore := 15, sregs := [(1, 1), (2, 64)] })], queues := [(3, c)],
    parts := [(0, { bindP := some (7, 0), comm := 1, amap := [(0, 128), (31, 128)] })] }

/-- A launch in progress on queue 3, whose lane 0 is `y`. -/
def launch (y : CLane) : CQueue := { bound := true, job := 7, pending := [⟨4, 0, List.replicate 64 0⟩], lanes := [(0, y)] }

theorem witness_CollectiveStepInstructions :
    (comm (launch { taken := true })).Runs 0 0 0 (row 6 1 (2 ^ 49 + 3 * 2 ^ 43)) 6 1 ∧
    (comm (launch { taken := true })).Runs 0 0 0 (row 6 4 (3 * 2 ^ 43 + 2 ^ 27)) 6 4 ∧
    (comm (launch { taken := true })).Runs 0 0 0 (row 6 6 (3 * 2 ^ 43)) 6 6 ∧ wordField (BitVec.ofNat 64 (row 6 6 (3 * 2 ^ 43))) 43 6 = 3 ∧
    (comm {}).Settled ∧ ({ comm := 0 } : Part).laneOf 15 = none ∧ ((comm {}).part 0).laneOf 15 = some 0 := by decide +kernel

/-- An untaken launch: CS.TAKE and CS.NEXT. -/
theorem witness_CollectiveStepInstructions_untaken :
    (comm (launch {})).dataQueue 0 0 0 3 = true ∧ (comm (launch {})).recordOk 0 0 0 (((comm (launch {})).slot 0 0 0).addr 0 0) = true ∧
    ((comm (launch {})).queue 0 3).cur = some ⟨4, 0, List.replicate 64 0⟩ ∧ ((launch {}).lane 0).taken = false ∧ ((launch {}).lane 0).ended = none ∧
    ((launch {}).lane 0).store = [] ∧ ((launch {}).lane 0).lostCts = [] ∧ (⟨4, 0, List.replicate 64 0⟩ : CLaunch).deadline = 0 ∧
    ({ comm (launch {}) with merid := { state := .locked } } : Block).isAbsent 7 = false ∧
    (((comm (launch {})).queue 0 3).cur.any (·.arrivalOrder)) = false ∧ ((comm (launch {})).queue 0 3).event 0 = some (1, 0, 0, 0, { notified := true }) ∧
    (comm (launch {})).Runs 0 0 0 (row 6 5 (2 ^ 49)) 6 5 ∧ ((List.range 64).all fun k => decide (k = 3) || !(comm (launch {})).dataQueue 0 0 0 k) = true := by
  decide +kernel

/-- A taken launch: CS.EXPECT, CS.SEND, CS.REL, CS.END. -/
theorem witness_CollectiveStepInstructions_taken :
    ((launch { taken := true }).lane 0).taken = true ∧ (comm (launch { taken := true })).Runs 0 0 0 (row 6 2 (2 ^ 49 + 3 * 2 ^ 43 + 2 ^ 27 + 2 * 2 ^ 22)) 6 2 ∧
    (comm (launch { taken := true })).Runs 0 0 0 (row 6 3 (2 ^ 49 + 3 * 2 ^ 43 + 2 ^ 27 + 2 * 2 ^ 22)) 6 3 ∧
    ((comm (launch {})).slot 0 0 0).s 1 % 2 ^ 20 < (comm (launch {})).reg (.coll 0 3) 0x04C ∧ ((comm (launch {})).slot 0 0 0).s 1 % 2 ^ 20 ≠ (launch {}).rank ∧
    wordField (((comm (launch {})).slot 0 0 0).word 2) 0 24 = 64 ∧ wordField (((comm (launch {})).slot 0 0 0).word 2) 24 24 = 0 ∧
    64 ≤ (comm (launch {})).winSlot 0 3 ∧ ((launch { taken := true }).lane 0).exps.length < 64 ∧ ((comm (launch {})).part 0).state ≠ .preemptDeferred ∧ ((comm (launch {})).part 0).preempt = false ∧
    ((launch { taken := true }).lane 0).sends.length < 64 ∧ (comm (launch {})).lanes 0 = 8 ∧ ((launch { taken := true }).lane 7).ended = none ∧
    ((launch { taken := true, exps := [{ step := 1, rank := 1, bytes := 64, doff := 0, seq := 0, tick := 0, met := some 0 }] }).lane 0).exps.all (fun z => z.met.isSome) := by
  decide +kernel

/-- A record of 64 bytes at address 0 of a slot that launches on queue 3. -/
theorem witness_LaunchAndVoteInstructions :
    (comm {}).Settled ∧ (comm {}).MayWrite (.coll 0 3) .pf0 ∧ ((comm {}).queue 0 3).bound = false ∧
    (((comm {}).setReg (.coll 0 3) 0x044 0).bindRank 0 3 true).1 = none ∧
    (launch {}).bound = true ∧ ({ launch {} with pending := [] } : CQueue).pending = [] ∧
    (comm (launch {})).Runs 0 0 0 (row 6 0 (3 * 2 ^ 48 + 2 ^ 39)) 6 0 ∧ wordField (BitVec.ofNat 64 (row 6 0 (3 * 2 ^ 48 + 2 ^ 39))) 48 6 = 3 ∧
    (comm (launch {})).recordOk 0 0 0 (((comm (launch {})).slot 0 0 0).addr 0 0) = true ∧ (launch {}).draining = false ∧ (launch {}).pending.length < 8 ∧ smWf {} (comm (launch {})).queues = true ∧
    ((comm (launch {})).hdr (.coll 0 3)).enaW ≠ some false := by decide +kernel

/-- Package memory that lists members 5 (lane partition 0) and the second of a group of two, and the package itself is 5. -/
def members : Block :=
  { comm {} with regs := [((Page.lnk 0).addr 0x060, 0xFFFA)], ram := { mem := [(0, 9), (4, 5)] } }

theorem witness_LaunchAndVoteInstructions_bind : ((members.setReg (.coll 0 3) 0x044 0).bindRank 0 3 true).1 = some 1 := by decide +kernel

/-- A vote queue whose slot has voted once, with the result there or not. -/
def voting (r : Option Nat) : Block :=
  { comm { bound := true, job := 7, vote := true, votes := [(0, 1)] } with coll := { votes := [{ job := 7, group := 0, ordinal := 0, result := r }] } }

theorem witness_LaunchAndVoteInstructions_vote :
    (voting none).Runs 0 0 0 (row 6 7 (2 ^ 49 + 3 * 2 ^ 43 + 2 ^ 42)) 6 7 ∧ (voting none).Runs 0 0 0 (row 6 8 (2 ^ 49 + 3 * 2 ^ 43)) 6 8 ∧
    smGet 0 ((voting none).queue 0 3).votes 0 ≠ 0 ∧ (((voting (some 5)).coll.vote 7 0 0).bind (·.result)) = some 5 ∧
    (((voting none).coll.vote 7 0 0).bind (·.result)) = none := by decide +kernel

/-- A library-launched queue whose counter 0 holds `n`. -/
def library (n : Nat) : Block :=
  { comm { bound := true, job := 7, library := true } with syncs := if n = 0 then [] else [(0, { ctrs := [(0, n)] })] }

theorem witness_LaunchAndVoteInstructions_library : ∀ n ∈ ([0, 1] : List Nat),
    ((library n).queue 0 3).library = true ∧ ((library n).queue 0 3).draining = false ∧ ((library n).hdr (.coll 0 3)).enaW ≠ some false ∧
    ((library n).queue 0 3).pending = [] ∧ (library n).ctrNum 0 0 ((library n).fld (.coll 0 3) 0x064 0 12) = some 0 ∧
    (library n).canAccess ((library n).pair (.coll 0 3) 0x05C 0x060 12) 64 = true ∧ ((library n).syn 0).ctr 0 = n ∧ (library n).coll.mism = [] ∧
    smWf {} (library n).syncs = true ∧ smWf {} (library n).queues = true ∧ smWf 0 ((library n).syn 0).ctrs = true := by decide +kernel

/-- A launch of package 5, with a transaction space of package 9 in which TID 6 is next, met over link 0. -/
def arriving (y : CLane) : Block :=
  { comm (launch y) with regs := [((Page.lnk 0).addr 0x060, 0xFFFA)], links := [(0, { state := .linkup })],
                         xu := { known := [(spaceKey 9 0, true)], next := [(spaceKey 9 0, 6)] }, merid := { state := .locked } }

/-- A collective packet of package 9 for it. -/
def collPkt (sub off : Nat) : Pkt :=
  { kind := 5, dst := 5, src := 9, owner := 9, tid := 6, job := 7, addr := sub * 2 ^ 24 + 2 ^ 32 + 2 ^ 52,
    operand := 4 + off * 2 ^ 32 }

/-- A lane that waits for a clear-to-send of 64 bytes and for data of 128 bytes in step 1 of rank 1. -/
def waiting : CLane :=
  { taken := true, sends := [{ step := 1, rank := 1, bytes := 64, src := 0, seq := 0 }], exps := [{ step := 1, rank := 1, bytes := 128, doff := 0, seq := 1, tick := 0 }] }

theorem witness_CollectiveArrivalsAndDeadlines :
    (arriving waiting).boot.power = .on ∧ (arriving waiting).Settled ∧ smWf {} (arriving waiting).queues = true ∧ (arriving waiting).carries 0 (collPkt 0 0) = true ∧
    (collPkt 0 0).pois = 0 ∧ (arriving waiting).isSelf 5 = true ∧ smGet false (arriving waiting).xu.known (spaceKey 9 0) = true ∧
    smGet 0 (arriving waiting).xu.next (spaceKey 9 0) = 6 ∧ (arriving waiting).partOf 7 0 = some (0, 0) ∧ (arriving waiting).queueFor 0 7 0 4 = some 3 ∧
    0 < (arriving waiting).lanes 0 ∧ smWf {} ((arriving waiting).queue 0 3).lanes = true ∧ (collPkt 1 64).sub = 1 ∧ (collPkt 1 64).ordinal = 4 ∧
    (collPkt 1 64).group = 0 ∧ (collPkt 1 64).lane = 0 ∧ (collPkt 1 64).rank = 1 ∧ (collPkt 1 64).step = 1 ∧ (collPkt 1 64).off = 64 ∧
    (waiting.sends.find? fun z => z.rank = 1 && z.step = 1 && !z.sent) = some { step := 1, rank := 1, bytes := 64, src := 0, seq := 0 } ∧
    (waiting.exps.find? fun z => z.rank = 1 && z.step = 1 && z.met.isNone && decide (64 + 0 ≤ z.bytes)).isSome = true ∧
    ((arriving waiting).part 0).laneCore 0 = some 0 ∧ waiting.store.length < 256 ∧ (arriving waiting).xu.hold = [] ∧
    (arriving waiting).laneGone 0 0 = false ∧ (arriving waiting).isAbsent 7 = false ∧ (arriving waiting).coll.votes = [] := by decide +kernel

/-- A vote of the launch's job that has neither a child heard nor a result, with its page. -/
theorem witness_CollectiveArrivalsAndDeadlines_vote :
    ({ voting none with xu := { known := [(spaceKey 9 0, true)], next := [(spaceKey 9 0, 6)] }, links := [(0, { state := .linkup })] } : Block).carries 0
      { kind := 5, dst := 0xFFFF, src := 9, owner := 9, tid := 6, job := 7, addr := 5 * 2 ^ 24 } = true ∧
    ((voting none).coll.vote 7 0 0).map (fun z => (z.result, z.ups)) = some (none, []) ∧ ((voting none).votePage 7 0).isSome = true := by decide +kernel

/-- A launch with a deadline of 3 ticks whose one expectation opened at tick 0. -/
def deadline (now : Nat) : Block :=
  { queues := [(3, { bound := true, pending := [⟨4, 0, [0, 0, 3] ++ List.replicate 61 0⟩],
                     lanes := [(0, { exps := [{ step := 1, rank := 1, bytes := 128, doff := 0, seq := 1, tick := 0 }] })] })], merid := { count := now } }

/-- A vote of job 7 launched at tick 0, with a vote queue in partition 0. -/
def overdue (now : Nat) : Block :=
  { voting none with coll := { votes := [{ job := 7, group := 0, ordinal := 0, launch := some 0 }] }, merid := { count := now } }

theorem witness_CollectiveArrivalsAndDeadlines_time :
    (∀ n ∈ ([2, 3] : List Nat), ((deadline n).queue 0 3).cur.map CLaunch.deadline = some 3 ∧
      (((deadline n).queue 0 3).lane 0).exps = [{ step := 1, rank := 1, bytes := 128, doff := 0, seq := 1, tick := 0 }]) ∧
    (overdue 8).coll.vote 7 0 0 = some { job := 7, group := 0, ordinal := 0, launch := some 0 } ∧ (overdue 8).votePage 7 0 = some (0, 3) ∧
    0 + (overdue 9).fld (.coll 0 3) 0x074 0 8 < (overdue 9).merid.count ∧ smWf {} (overdue 8).queues = true ∧
    (∀ n ∈ ([0, 254] : List Nat), let b : Block := { coll := { mism := [(0, 0, collPkt 0 0)] }, merid := { count := n } }
      b.fld (.coll 0 0) 0x040 16 8 + 0 ≤ 254 ∧ b.coll.mism = [(0, 0, collPkt 0 0)]) ∧
    (let b : Block := { parts := [(0, { state := .preemptDeferred })], merid := { count := 255 } }
     (b.part 0).state = .preemptDeferred ∧ (b.part 0).preemptAt + b.fld (.coll 0 0) 0x040 24 8 ≤ b.merid.count) ∧
    ((0 : Nat) < 0 + ({} : Block).fld (.coll 0 0) 0x040 24 8) := by decide +kernel

/-- Where no queue holds anything, no lane waits for a rank. -/
theorem witness_CollectiveArrivalsAndDeadlines_defer : ∀ q l, ((({} : Block).queue 0 q).lane l).waitRanks = [] := fun _ _ => rfl

/-! The update engine, the resident hosts, placement. -/

/-- Bytes `l` placed from address `a` on. -/
def placed (a : Nat) (l : List Nat) : SMap Byte := ((List.range l.length).map fun k => (a + k, BitVec.ofNat 8 (l.getD k 0))).filter fun e => e.2 ≠ 0

/-- Step ring 0 as `q`. -/
def ringed (q : Ring) : Block := { upd := { rings := [(0, q)] } }

/-- A step record: step 5, `n` regions listed at 0x10000, result at 0x20000, vote queue 3. -/
def stepBytes (n : Nat) : List Nat :=
  leBytes 8 5 ++ leBytes 8 0 ++ leBytes 8 0x10000 ++ leBytes 4 n ++ leBytes 4 0 ++ leBytes 8 0x20000 ++ [3] ++ List.replicate 23 0

/-- A region of one element under MSGD. -/
def regionBytes : List Nat :=
  [2, 0, 0, 0] ++ leBytes 4 1 ++ leBytes 8 0 ++ leBytes 8 0x10000000000 ++ leBytes 8 0x10000001000 ++ leBytes 8 0 ++ leBytes 8 0x40000 ++ leBytes 8 0 ++ leBytes 8 0x30000

/-- Ring 0 with a posted record of `n` regions, or with step `x` in progress. -/
def stepping (n : Nat) (x : Option UpdStep) : Block :=
  { ringed { bound := true, prod := 1, step := x } with ram := { mem := placed 0 (stepBytes n) ++ placed 0x10000 regionBytes } }

theorem witness_UpdateStepRunsThroughItsPhases :
    (∀ q ∈ ([{ prod := 3 }, { bound := true }, { bound := true, cons := 255, prod := 0 }] : List Ring),
      (ringed q).boot.power = .on ∧ smWf {} (ringed q).upd.rings = true ∧ smWf {} (ringed q).pages = true ∧ (ringed q).MayWrite .upd .pf0 ∧
        (ringed q).ring 0 = q ∧ (ringed q).updPaused = false ∧ (ringed q).updOn = true ∧ (ringed q).reg .upd 0x10C = 0) ∧
    (4 + 256 - 0) % 256 ≤ 4 ∧ 4 < (5 + 256 - 0) % 256 ∧ (11 : Nat) < 12 := by decide +kernel

/-- A record that is valid, and one without regions. -/
theorem witness_UpdateStepRunsThroughItsPhases_start :
    (∀ n ∈ ([0, 1] : List Nat), (stepping n none).canAccess ((stepping n none).pair .upd 0x100 0x104 8 + 64 * 0) 64 = true ∧
      ((stepping n none).memRead 0 64).1 = stepBytes n ∧ ((stepping n none).memRead 0 64).2.1 = false) ∧
    ((stepping 1 none).memRead 0 64).2.2.stepOk (stepBytes 1) = true ∧ ((stepping 0 none).memRead 0 64).2.2.stepOk (stepBytes 0) = false ∧
    smWf {} ((stepping 0 none).memRead 0 64).2.2.pages = true := by decide +kernel

/-- A region list that is valid, and one whose optimizer is reserved. -/
theorem witness_UpdateStepRunsThroughItsPhases_list :
    (∀ ls ∈ ([regionBytes, 9 :: regionBytes.drop 1] : List (List Nat)),
      let b : Block := { ringed { bound := true, prod := 1 } with ram := { mem := placed 0 (stepBytes 1) ++ placed 0x10000 ls } }
      let r := ((b.memRead 0 64).2.2.memRead 0x10000 64)
      (b.memRead 0 64).1 = stepBytes 1 ∧ (b.memRead 0 64).2.1 = false ∧ dF (stepBytes 1) 0x10 8 = 0x10000 ∧ r.1 = ls ∧ r.2.1 = false ∧
        r.2.2.regionsOk 1 ls = decide (ls = regionBytes) ∧ smWf {} r.2.2.pages = true) := by decide +kernel

/-- Ring 0's step in its vote phase, the vote's result at `v`. -/
def voted (v : Nat) (lost : Bool) : Block :=
  { comm { bound := true, job := 0, vote := true } with
    parts := [(0, { bindP := some (0, 0) })], upd := { rings := [(0, { bound := true, step := some { rec' := stepBytes 1 } })] },
    coll := { votes := [{ job := 0, group := 0, ordinal := 0, result := some v, lost := lost }] } }

theorem witness_UpdateStepRunsThroughItsPhases_vote :
    (∀ x ∈ ([(0, false), (1, false), (2 ^ 64 - 1, true)] : List (Nat × Bool)),
      (voted x.1 x.2).stepVoteOf 0 { rec' := stepBytes 1 } = some { job := 0, group := 0, ordinal := 0, result := some x.1, lost := x.2 }) ∧
    0 &&& (dF (stepBytes 1) 8 8 ||| (2 ^ 63 + 1)) = 0 ∧ 1 &&& (dF (stepBytes 1) 8 8 ||| (2 ^ 63 + 1)) ≠ 0 := by decide +kernel

theorem witness_UpdateStepRunsThroughItsPhases_region :
    ((stepping 1 none).memRead 0x10000 64).1 = regionBytes ∧ ((stepping 1 none).memRead 0x10000 64).2.1 = false ∧
    ((stepping 1 none).memRead 0x30000 64).2.1 = false ∧ ((stepping 1 none).memNat 0x40000 4).2.1 = false ∧
    ((stepping 1 none).memNat 0x10000000000 4).2.1 = false ∧ ((stepping 1 none).memNat 0x10000001000 4).2.1 = false ∧
    dF regionBytes 0 1 = 2 ∧ dF regionBytes 1 1 = 0 ∧ dF regionBytes 4 4 = 1 ∧
    (∀ ph ∈ ([.vote, .finished] : List UpdPhase),
      ((ringed { step := some { rec' := stepBytes 1, phase := ph } }).ring 0).step = some { rec' := stepBytes 1, phase := ph }) := by decide +kernel

theorem witness_ResidentHostOwnership :
    ({} : Block).boot.power = .on ∧ smWf {} ({} : Block).pages = true ∧ smWf {} ({} : Block).rhosts = true ∧ smWf 0 ({} : Block).regs = true ∧
    ({} : Block).MayWrite (.rhost 31) .mgmtCtl ∧ ({} : Block).MayWrite (.rhost 31) .pf0 ∧ wordField 0x400B0000 16 4 < 12 ∧ wordField 0x400B0000 30 2 = 1 ∧
    (({} : Block).hdr (.rhost 31)).freeze = false ∧ smWf 0 ({} : Block).logs = true ∧ ({} : Block).updPaused = false ∧ ({ helio := { hubPause := true } } : Block).updPaused = true ∧
    (∀ x ∈ ([{}, { moveDue := true, ended := some (0, 7) }] : List RHost), (({ rhosts := [(31, x)] } : Block).rhost 31) = x) ∧
    (∀ own ∈ ([0, 1, 2, 3] : List Nat),
      ∃ x ∈ ([0, 1, 2, 3] : List Nat), ({ regs := if x = 0 then [] else [((Page.rhost 31).addr 0x040, BitVec.ofNat 32 (x * 2 ^ 30))] } : Block).fld (.rhost 31) 0x040 30 2 = own) := by
  decide +kernel

/-- A package with job 7 admitted, or not. -/
def admitted (l : List Nat) : Block := { eph := { admitted := l } }

theorem witness_PlacementCommands :
    (admitted [7]).ringBusy 7 = false ∧ ((admitted [7]).eph.jobs.find? fun e => e.1.job = 7) = none ∧ (admitted [7]).shadowBind 0 1 = none ∧
    (admitted [7]).boot.power = .on ∧ smWf {} (admitted [7]).parts = true ∧ smWf 0 (admitted [7]).regs = true ∧ 7 ∈ (admitted [7]).eph.admitted ∧
    7 ∉ (admitted []).eph.admitted ∧ (admitted [7]).partFree 0 = true ∧ (admitted [7]).digestsAgree 7 = true ∧
    (∀ n < 12, (admitted [7]).shadowBind n 0 ≠ some (7, 0) ∧ (admitted [7]).shadowBind n 1 ≠ some (7, 0)) ∧
    ({ coll := { stepNow := [7] } } : Block).coll.stepNow.contains 7 = true ∧ ({} : Block).coll.stepNow.contains 7 = false ∧ ({} : Block).routes = [] ∧ (({} : Block).ring 0).step = none ∧
    (({ commit := true } : Part).atBoundary = true) ∧
    (let b : Block := { regs := [((Page.ephP 0).addr 0x040, 0x80000007)], eph := { admitted := [7], escs := [(8, (16, 2))] } }
     b.shadowBind 0 0 = some (7, 0) ∧ 7 ∈ b.eph.admitted ∧ smGet (32, 2) b.eph.escs 7 ≠ smGet (32, 2) b.eph.escs 8) := by decide +kernel

/-- A shadow that binds partition 0, one that is empty, one that maps two clusters to one. -/
theorem witness_PlacementCommands_shadow :
    (let b : Block := { regs := [((Page.ephP 0).addr 0x040, 0x80000007)], parts := [(0, { commit := true })] }
     b.partRuns 0 = false ∧ (b.core 0 (17 * 0 + 1)).halted = false ∧ (b.shadowBind 0 0).isSome = true ∧ (b.part 0).clusterOk (b.shadowC 0 0 % 16) = true ∧ b.shadowBad 0 = true ∧ smWf {} b.parts = true ∧ smWf 0 b.regs = true ∧
       (((b.part 0).goodCores 0).find? fun n => !((List.range 16).map fun m => b.shadowK 0 0 m % 32).contains n) = some 1) ∧
    (∀ l ∈ ([[], [{ pkt := {}, space := 0, origin := .desc 0 0 0 0, sentUs := 0 }]] : List (List Xact)),
      let b : Block := { parts := [(0, { commit := true, bindP := some (7, 0) })], xu := { outs := l } }
      b.shadowBad 0 = false ∧ b.commitNow 0 = true ∧ b.rebinds 0 = true ∧ b.newLayout 0 = false ∧ b.partRuns 0 = true ∧ (b.part 0).preempt = false ∧
        b.partBusyOut 0 = decide (l ≠ [])) ∧
    ({ parts := [(0, { commit := true })] } : Block).rebinds 0 = false ∧
    ({ parts := [(0, { commit := true })], regs := [((Page.ephP 0).addr 0x050, 0x8080)] } : Block).shadowBad 0 = true := by decide +kernel

/-- A commit that gives the bound job another COMM, at its step boundary and away from it. -/
theorem witness_PlacementCommands_layout : ∀ l ∈ ([[], [7]] : List (List Nat)),
    let b := ((({ parts := [(0, { commit := true, bindP := some (7, 0) })], coll := { stepNow := l } } : Block).loadMaps 0).putBind 0 0 7 1).setReg (.coll 0 0) 0x040 1
    b.commitNow 0 = true ∧ b.shadowBad 0 = false ∧ b.newLayout 0 = true ∧ b.coll.stepNow.contains (((b.part 0).jobOf 0).getD 0) = l.contains 7 := by
  decide +kernel

/-- An entry that selects a link out of service, one whose link is in service. -/
theorem witness_PlacementCommands_routes :
    (let b : Block := { linked { state := .linkup } with routes := [(9, 0x80000001 ^^^ 0x3FFFFFFF)] }
     smWf 0 b.routes = true ∧ b.routeLost (b.route 9) = true ∧ b.routeLost (cleanRoute 0x80000000) = false) ∧
    (let b : Block := { linked { state := .linkup } with routes := [(9, 0x80000000 ^^^ 0x3FFFFFFF)] }
     b.routeLost (b.route 9) = false) := by decide +kernel

/-- A step twice as slow in its first stage, with the count short of REBAL_STEPS and at it, and the layer it would move. -/
theorem witness_PlacementCommands_rebalance :
    let image (x : Nat) : JobImage :=
      { job := 7, seq := 0, report := 0, asks := [⟨0, 0, 0, 0, 0⟩], tensors := [], places := [(1, 1), (2, 2)], rebalance := true, layers := [(x, 0x40000)] }
    let b (n : Nat) : Block := { coll := { stepNow := [7] }, eph := { imbalanced := if n = 0 then [] else [(7, n)], jobs := [(image 0, {})] } }
    (b 0).mayMove 7 [(0, 0x40000)] = true ∧ (b 0).mayMove 7 [(1, 0x40000)] = false ∧ (image 1).layers = moveLayer 0 1 [(0, 0x40000)] ∧ (image 1).job = 7 ∧
    (image 0).layers ≠ moveLayer 0 1 [(0, 0x40000)] ∧ (∀ r < 12, ((b 0).ring r).step = none) ∧
    stageOf (fun a b => decide (b < a)) [1000, 100] = 0 ∧ stageOf (fun a b => decide (a < b)) [1000, 100] = 1 ∧
    (b 0).ringBusy 7 = false ∧ (b 0).coll.stepNow.contains 7 = true ∧ 100 * (100 + (b 0).fld .eph 0x040 16 8) < 1000 * 100 ∧
    smGet 0 (b 0).eph.imbalanced 7 + 1 < (b 0).fld .eph 0x040 24 8 ∧ (b 0).fld .eph 0x040 24 8 ≤ smGet 0 (b 200).eph.imbalanced 7 + 1 ∧
    smWf 0 (b 200).eph.imbalanced = true ∧ bit ((b 200).reg .eyep 0x040) 0 = false ∧
    (([(0, 0x40000)] : List (Nat × BitVec 48)).find? fun l => l.1 = 0) = some (0, 0x40000) ∧
    (b 200).canAccess 0x40000 1 = true ∧ (b 200).canAccess 0xFFFFFFFFFFFF 1 = false ∧ (b 200).spillFree (image 1) = true := by decide +kernel

/-- A layout that may stand for the job's image, and one of another job. -/
theorem witness_PlacementCommands_layouts :
    let image (j x : Nat) : JobImage :=
      { job := j, seq := 0, report := 0, asks := [⟨0, 0, 0, 0, 0⟩], tensors := [], places := [(1, 1), (2, 2)], rebalance := true, layers := [(x, 0x40000)] }
    let b : Block := { eph := { jobs := [(image 7 0, {})] } }
    b.mayStand 7 (moveLayer 0 1 [(0, 0x40000)]) (image 7 1) = true ∧ b.mayStand 7 (moveLayer 0 1 [(0, 0x40000)]) (image 8 1) = false := by
  decide +kernel

/-! Register pages. -/

theorem witness_PageHeaderCommands :
    ({} : Block).boot.power ≠ .reset ∧ ({} : Block).boot.power ≠ .dark ∧ smWf {} ({} : Block).pages = true ∧ pageOf 0xFFFFF = none ∧ pageOf Page.eyep.key = some .eyep ∧ ({} : Block).Settled ∧
    (({} : Block).hdr .eyep).lock = false ∧ smWf 0 ({} : Block).logs = true ∧ ({} : Block).MayWrite .eyep .pf0 ∧ ({} : Block).enabled .eyep = true ∧
    (({} : Block).hdr .eyep).snapEn = false ∧ Page.eyep.enableRo = false ∧ (Page.vreg 0).enableRo = true ∧ (Page.clus 0 0).enableRo = true ∧ pageOf (Page.clus 0 0).key = some (.clus 0 0) ∧ ({} : Block).heldInReset .eyep = false ∧
    ({ parts := [(0, { state := .resetting })] } : Block).heldInReset (.sync 0) = true ∧
    (let b : Block := { pages := [(Page.eyep.key, { lock := true, owner := Requester.mgmtCtl.code, snapEn := true, enaW := some false })], merid := { count := 1024 } }
     (b.hdr .eyep).lock = true ∧ b.lockedOut .eyep .pf0 = true ∧ b.enabled .eyep = false ∧ (b.hdr .eyep).snapEn = true ∧ b.merid.count % 1024 = 0 ∧
       b.canAccess ((b.hdr .eyep).logBase.toNat * 1024) 576 = true ∧ smWf {} b.pages = true) := by decide +kernel

theorem witness_RegisterAccesses :
    ({} : Block).boot.power ≠ .reset ∧ ({} : Block).boot.power ≠ .dark ∧ ({} : Block).Settled ∧ smWf {} ({} : Block).pages = true ∧ smWf 0 ({} : Block).regs = true ∧
    ¬ (((3 : BitVec 4) = 4 ∨ (3 : BitVec 4) = 8) ∧ 0 % (3 : BitVec 4).toNat = 0) ∧ 0xFFFFFFFC % 4 = 0 ∧ pageOf (0xFFFFFFFC / 4096) = none ∧
    ({} : Block).MayWrite .eyep .pf0 ∧ ({} : Block).MayWrite (.core 11 152) .pf0 ∧ ({} : Block).frameBound = [] ∧
    (let b : Block := { pages := [(Page.eyep.key, { lock := true, owner := Requester.mgmtCtl.code })] }
     b.lockedOut .eyep .pf0 = true ∧ 152 + 11 * 2 ^ 16 ≠ b.reg .eyep 0x050 % 2 ^ 8 + b.fld .eyep 0x050 16 4 * 2 ^ 16) := by decide +kernel

/-- EYEP_CORE written inside and outside its range, the frame-bound CORE_BF_CFG, a locked page. -/
theorem witness_RegisterAccesses_words :
    (({} : Block).ownWrite .eyep 0x050 0xFFFFFFFF .pf0).isNone = true ∧ Page.eyep.rwMask 0x050 ≠ 0 ∧ pageOf (Page.eyep.addr 0x050 / 4096) = some .eyep ∧
    Page.eyep.pairOf 0x050 = none ∧ Page.eyep.frameBound 0x050 = false ∧ Page.eyep.addr 0x050 < 2 ^ 32 ∧
    (({} : Block).legal .eyep 0x050 0xFFFFFFFF) = (11 * 2 ^ 16 + 152, true) ∧ (({} : Block).legal .eyep 0x050 5) = (5, false) ∧
    (({} : Block).ownWrite (.core 0 0) 0x040 1 .pf0).isNone = true ∧ (Page.core 0 0).frameBound 0x040 = true ∧
    ({ pages := [(Page.eyep.key, { lock := true, owner := Requester.mgmtCtl.code })] } : Block).rwChanges .eyep 0x050 5 = true := by decide +kernel

/-- Two plain RW words side by side. -/
theorem witness_RegisterAccesses_double : (Page.mxe 0 0).addr 0x040 % 8 = 0 ∧ (Page.mxe 0 0).rwMask 0x040 ≠ 0 ∧ (Page.mxe 0 0).rwMask 0x044 ≠ 0 ∧
    pageOf ((Page.mxe 0 0).addr 0x040 / 4096) = some (.mxe 0 0) ∧
    ∀ b : Block, b.ownWrite (.mxe 0 0) 0x040 1 .pf0 = none ∧ b.ownWrite (.mxe 0 0) 0x044 1 .pf0 = none ∧
      b.actWrite (.mxe 0 0) 0x040 1 = b ∧ b.actWrite (.mxe 0 0) 0x044 1 = b ∧ b.actWrite .eyep 0x050 1 = b :=
  ⟨by decide +kernel, by decide +kernel, by decide +kernel, by decide +kernel, fun _ => ⟨rfl, rfl, rfl, rfl, rfl⟩⟩

/-! Meridian. -/

/-- Meridian as `m`, link 0 in LINKUP. -/
def timed (m : Merid) : Block := { merid := m, links := [(0, { state := .linkup })] }

/-- A tick symbol of count 9, period 25; a claim and a MASTER_ID of priority `p`. -/
def tickBytes : Nat := 1 + 9 * 2 ^ 8 + 25 * 2 ^ 64

theorem witness_MeridianStateTransitions :
    (∀ st ∈ ([.locking, .outOfStep, .listen, .claim, .holdover, .locked, .master] : List MState),
      (timed { state := st, lockStreak := 8, stateTicks := 4, silentTicks := 2, masterPrio := 128 }).boot.power ≠ .reset ∧ (timed { state := st, lockStreak := 8, stateTicks := 4, silentTicks := 2, masterPrio := 128 }).boot.power ≠ .dark ∧
        (timed { state := st, lockStreak := 8, stateTicks := 4, silentTicks := 2, masterPrio := 128 }).merid.state = st ∧
        (timed { state := st, lockStreak := 8, stateTicks := 4, silentTicks := 2, masterPrio := 128 }).masterTo ≤ 4 ∧
        (timed { state := st, lockStreak := 8, stateTicks := 4, silentTicks := 2, masterPrio := 128 }).prio ≠ 0) := by decide +kernel

theorem witness_MeridianStateTransitions_blocks :
    ctlGood (ctl tickBytes).toNat = true ∧ ctlByte (ctl tickBytes).toNat 0 = 1 ∧ ((timed {}).link 0).state.live = true ∧
    (tickSym (ctl tickBytes).toNat).period = (timed {}).merid.period ∧ (tickSym (ctl tickBytes).toNat).epoch = (timed {}).merid.epoch ∧ ctlGood 1 = false ∧
    ctlGood (ctl (2 + 255 * 2 ^ 8)).toNat = true ∧ ctlByte (ctl (2 + 255 * 2 ^ 8)).toNat 0 = 2 ∧ ctlGood (ctl (2 + 3 * 2 ^ 16)).toNat = true ∧
    ctlGood (ctl (10 + 255 * 2 ^ 8 + 3 * 2 ^ 16)).toNat = true ∧ ctlByte (ctl (10 + 255 * 2 ^ 8 + 3 * 2 ^ 16)).toNat 0 = 10 ∧
    better (255, 3) (128, 5) = true ∧ better (0, 3) (128, 5) = false ∧ (timed {}).prio ≠ 0 ∧ ((timed {}).merid.claimBest = none) ∧ (timed {}).MayWrite .merid .pf0 ∧ (timed {}).frameBound = [] ∧ (timed {}).coll.votes = [] ∧
    (timed {}).Settled ∧ ({ timed { state := .master } with regs := [(Page.merid.addr 0x040, 128)] } : Block).prio = 0 ∧ 1024 % 1024 = 0 ∧ 1023 % 1024 ≠ 0 := by
  decide +kernel

/-- The claims compared with this package's own, whatever its PUID. -/
theorem witness_MeridianStateTransitions_claims : better (255, 3) ((timed {}).prio, puid) = true ∧ better (0, 3) ((timed {}).prio, puid) = false := by
  have h : (timed {}).prio = 128 := by decide
  rw [h]
  simp [better]

theorem witness_MeridianKeepsTime :
    (∀ c ∈ ([0, 2 ^ 48 - 1] : List Nat), (timed { state := .master, count := c }).boot.power ≠ .reset ∧ (timed { state := .master, count := c }).boot.power ≠ .dark ∧ (timed { state := .master, count := c }).merid.state = .master ∧
      (timed { state := .master, count := c }).prio ≠ 0) ∧ (timed {}).frameBound = [] ∧ (timed {}).Settled ∧ smWf {} (timed {}).parts = true ∧
    smWf 0 (timed {}).regs = true ∧ smWf {} (timed {}).pages = true ∧ (timed {}).unfinished 0 = [] ∧
    ({ runs { bound := true } with parts := [(0, { bindP := some (7, 0), behind := 3 })] } : Block).ovrLimit < 3 ∧ (timed {}).refEn = true ∧
    (∀ t ∈ ([3000000, 2999999, 0] : List Nat), let b : Block := { timed { state := .master, refLast := some 0 } with timeUs := t }
      b.merid.refState ≠ .holdover ∧ b.refEn = true ∧
        (0 + 2 * (b.fld .merid 0x050 0 16 * b.merid.period) ≤ t ∨ t < 0 + 2 * (b.fld .merid 0x050 0 16 * b.merid.period))) ∧
    (∀ t ∈ ([600000000, 599999999] : List Nat), let b : Block := { timed { state := .master, refState := .holdover } with timeUs := t }
      b.merid.refState = .holdover ∧ b.merid.refExpired = false ∧ (b.merid.refHoldUs + 600000000 ≤ b.timeUs ∨ b.timeUs < b.merid.refHoldUs + 600000000)) ∧
    2 * 499 < (timed {}).fld .merid 0x050 0 16 * 25 * 1000 ∧ ¬ 2 * 500000000 < (timed {}).fld .merid 0x050 0 16 * 25 * 1000 ∧
    (timed {}).MayWrite .merid .pf0 ∧ (0x80000007 : BitVec 32).getLsbD 31 = true ∧
    (let b : Block := { regs := [(Page.merid.addr 0x04C, 0x80000000), (Page.merid.addr 0x048, 9)], merid := { count := 9 } }
     bit (b.reg .merid 0x04C) 31 = true ∧ b.merid.count = b.switchAt) ∧
    ctlGood (ctl 7).toNat = true ∧ ctlByte (ctl 7).toNat 0 = 7 ∧ ctlGood (ctl 8).toNat = true ∧ ctlByte (ctl 8).toNat 0 = 8 ∧ smWf {} (timed {}).links = true := by
  decide +kernel

/-- No partition is aborted, drained or stopped at its boundary. -/
theorem witness_MeridianKeepsTime_parts : ∀ p < 12,
    ((timed {}).part p).abort = false ∧ ((timed {}).hdr (.part p)).draining = false ∧ ((timed {}).part p).bfStopDue = false := by decide +kernel

theorem witness_OtherPeriodDoesNotSteer :
    (timed {}).boot.power ≠ .reset ∧ (timed {}).boot.power ≠ .dark ∧ ctlGood (ctl (1 + 50 * 2 ^ 64)).toNat = true ∧ ctlByte (ctl (1 + 50 * 2 ^ 64)).toNat 0 = 1 ∧
    ((timed {}).link 0).state.live = true ∧ ctlByte (ctl (1 + 50 * 2 ^ 64)).toNat 8 ≠ (timed {}).merid.period ∧
    (timed {}).merid.period ≠ (timed { period := 50 }).merid.period := by decide +kernel

/-! Power. -/

theorem witness_HeliostatLoopClocksAndHeat :
    ({} : Block).boot.power ≠ .reset ∧ ({} : Block).boot.power ≠ .dark ∧ smWf {} ({} : Block).helioPs = true ∧ smWf 0 ({} : Block).regs = true ∧ smWf {} ({} : Block).pages = true ∧
    ({} : Block).helio.gauge ≠ .parking ∧ ({} : Block).helio.f ≠ 256 ∧ ({ overUs := 1000 } : Helio).capLow = false ∧ 1000 ≤ ({ overUs := 1000 } : Helio).overUs ∧
    (({} : Block).part 0).atBoundary = true ∧ ({} : Block).helio.capLow = false ∧ ({} : Block).MayWrite .helio .pf0 ∧
    (∀ t ∈ ([5, 4] : List Nat), let b : Block := { helio := { leaseEnd := some 5 }, timeUs := t }
      b.helio.leaseEnd = some 5 ∧ (b.timeUs < 5 ∨ 5 ≤ b.timeUs)) ∧ ({} : Block).helio.leaseEnd = none ∧
    4 * 16384 ≤ 5 * 13108 ∧ 4 * 20480 ≤ 5 * 16384 ∧ (({} : Block).part 0).fftGo = false ∧ ({ boot := { ready := true } } : Block).boot.ready = true ∧
    ([105, 100, 101, 94, 93] : List Nat).all (fun t => decide (105 ≤ t) || decide (t ≤ 100) || (decide (100 < t) && decide (t < 105))) := by decide +kernel

/-- The states of the power inputs. -/
def powered (h : Helio) : Block := { helio := h }

theorem witness_ShedLossParkAndPowerOff :
    (∀ h ∈ ([{}, { pinLow := true }, { hold := some 0 }, { gauge := .riding }, { pinLow := true, stuck := true }, { adopt := some (5, 2) }] : List Helio),
      (powered h).boot.power = .on ∧ smWf {} (powered h).vregs = true ∧ smWf {} (powered h).links = true ∧ smWf {} (powered h).pages = true ∧
        smWf 0 (powered h).regs = true ∧ (powered h).Settled ∧ (powered h).helio = h) ∧
    (powered { gauge := .riding }).reserveReached 0 0 = true ∧ (powered { gauge := .riding, v0 := 54000 }).reserveReached 54000 0 = false ∧
    (∀ t ∈ ([1000000, 999999] : List Nat), let b : Block := { helio := { pinLow := true }, timeUs := t }
      b.helio.pinLow = true ∧ b.helio.stuck = false ∧ (b.helio.shedUs + 1000000 ≤ b.timeUs ∨ b.timeUs < b.helio.shedUs + 1000000)) ∧
    ({ boot := { park := some { count := 0, cause := 0 } } } : Block).boot.park.isSome = true ∧
    ({ boot := { park := some { count := 0, cause := 0 } } } : Block).boot.rstDue = false ∧ ({ boot := { rstDue := true } } : Block).boot.rstGone = none ∧
    ({ boot := { step := 1 } } : Block).beforeRails = true ∧ ({ boot := { step := 4 } } : Block).beforeRails = false ∧ isOlink 2 = true ∧ isOlink 0 = false ∧ (({} : Block).link 0).state ≠ .disabled ∧ (∀ k < 53, (({} : Block).vrg k).failed = false) ∧
    (let b : Block := { vregs := [(1, { failed := true })] }
     (b.vrg 0).failed = false ∧ ((List.range 4).filter fun r => (b.vrg (0 / 4 * 4 + r)).failed).length = 1 ∧ smWf {} b.vregs = true ∧ smWf {} b.parts = true) ∧
    ({} : Block).boot.mc = false := by decide +kernel

/-! Resets and recovery. -/

theorem witness_MeridianKeepsTime_behind : ({ runs { bound := true } with parts := [(0, { bindP := some (7, 0) })] } : Block).unfinished 0 ≠ [] := by decide +kernel

/-- A package with a running core in partition 0, whose reset of that partition is under way or not, and a warm reset due or not. -/
def resetting (go due tick : Bool) : Block :=
  { runs { bound := true } with parts := [(0, { bindP := some (7, 0), resetGo := go })], warmDue := due, poisonTick := tick }

theorem witness_ResetsEmptyWhatTheyName :
    (∀ x ∈ ([(false, false, false), (true, true, true), (false, false, true)] : List (Bool × Bool × Bool)),
      (resetting x.1 x.2.1 x.2.2).boot.power = .on ∧ (resetting x.1 x.2.1 x.2.2).MayWrite (.part 0) .pf1 ∧ (resetting x.1 x.2.1 x.2.2).Settled ∧
      smWf {} (resetting x.1 x.2.1 x.2.2).slots = true ∧ smWf {} (resetting x.1 x.2.1 x.2.2).cores = true ∧ smWf {} (resetting x.1 x.2.1 x.2.2).parts = true ∧
      smWf 0 (resetting x.1 x.2.1 x.2.2).regs = true ∧ smWf {} (resetting x.1 x.2.1 x.2.2).pages = true ∧ smWf {} (resetting x.1 x.2.1 x.2.2).mmus = true ∧
      smWf {} (resetting x.1 x.2.1 x.2.2).syncs = true ∧ (resetting x.1 x.2.1 x.2.2).lanes 0 = 0 ∧ (resetting x.1 x.2.1 x.2.2).helio.gauge = .normal ∧
      bit ((resetting x.1 x.2.1 x.2.2).reg .eyep 0x040) 0 = false ∧ smWf false ((resetting x.1 x.2.1 x.2.2).part 0).failedCores = true) ∧
    ({ boot := { power := .reset } } : Block).boot.power = .reset ∧ ({ helio := { gauge := .parking } } : Block).helio.gauge = .parking ∧
    (∀ e ∈ ({} : Block).flash.journal, e.step = 5 → e.status ≠ 0 ∧ e.status ≠ 2) ∧ ({ boot := { rstDue := true } } : Block).boot.rstDue = true ∧
    2 ≤ ({ resetGo := true, resetLvl := 2 } : Part).resetLvl := by decide +kernel

/-- Partition 0 as `q`. -/
def parted (q : Part) : Block := { parts := [(0, q)] }

theorem witness_AbortsPatrolsAndPreemption :
    (∀ q ∈ ([{ bindP := some (7, 0) }, { preempt := true }, { state := .saving }, { restore := true }, { patrolOn := [(8, true)] }, { fftGo := true },
        { fftGo := true, fftPkg := true, fftPass := 1 }, { fftGo := true, fftPkg := true, fftPass := 2 }, { preempt := true, state := .preemptDeferred }] : List Part),
      (parted q).boot.power = .on ∧ (parted q).Settled ∧ smWf {} (parted q).parts = true ∧ smWf {} (parted q).pages = true ∧ smWf {} (parted q).engs = true ∧
      smWf {} (parted q).slots = true ∧ (parted q).lanesBusy 0 = false ∧ (parted q).partBusyOut 0 = false ∧ ((parted q).mmu 0).deferred = [] ∧
      (parted q).patrolShare 0 ≠ 0 ∧ (parted q).clusterOos 0 8 = false ∧ smWf false q.patrolOn = true ∧ smWf 0 q.patrolNext = true ∧ smWf 0 q.patrolClean = true ∧
      smWf false q.failedCores = true ∧ ((parted q).patrolPick 0 8 0).isSome = true) ∧
    ({ regs := [((Page.part 0).addr 0x040, BitVec.ofNat 32 ((parted {}).patrolShare 0 * 256))] } : Block).patrolShare 0 = 0 := by decide +kernel

/-- A pre-emption that a lane with an expectation outstanding defers. -/
theorem witness_AbortsPatrolsAndPreemption_deferred :
    let b : Block := { comm { bound := true, job := 7, lanes := [(0, { exps := [{ step := 0, rank := 1, bytes := 64, doff := 0, seq := 0, tick := 0 }] })] } with
      parts := [(0, { bindP := some (7, 0), comm := 1, amap := [(0, 128), (31, 128)], preempt := true })] }
    (b.part 0).preempt = true ∧ (b.part 0).atBoundary = true ∧ (b.part 0).commit = false ∧ (b.part 0).state = .normal ∧ (b.part 0).deferOver = false ∧
      b.lanesBusy 0 = true ∧ b.Settled := by decide +kernel

/-- A job in two partitions whose pre-emption begins, is deferred by one of them, or waits for the other's boundary. -/
theorem witness_AbortsPatrolsAndPreemption_job :
    let q : Part := { bindP := some (7, 0), preempt := true }
    let b : Block := { parts := [(0, q), (1, q)] }
    b.preempting 0 = [0, 1] ∧ b.poisonTick = false ∧ b.warmDue = false ∧ (b.part 0).state = .normal ∧
    (∀ x ∈ b.preempting 0, (b.part x).atBoundary = true ∧ (b.part x).commit = false ∧ b.lanesBusy x = false ∧ (b.part x).abort = false) := by decide +kernel

/-- A plan that is followed, with a new partner on a shared feed, and one from a planner of a higher number. -/
theorem witness_AbortsPatrolsAndPreemption_plan :
    ({} : Block).follows 7 { planner := some 5, shards := [{ partners := [(3, 5)], spares := [(4, 5)] }] } = true ∧
    ({ partners := [(3, 5)], spares := [(4, 5)] } : Reshard).degraded = true ∧
    ({ eph := { planners := [(7, 3)] } } : Block).follows 7 { planner := some 5 } = false ∧
    0 ∈ (parted { bindP := some (7, 0) }).partsOf 7 ∧ smWf {} ({} : Block).helioPs = true := by decide +kernel

/-- An image of job 7 for partition 0, whose logical core 15 is physical core 0. -/
def restoring : Block :=
  { parts := [(0, { bindP := some (7, 0), restore := true, amap := [(0, 128), (31, 128)] })], images := [(0, { job := 7 })] }

theorem witness_AbortsPatrolsAndPreemption_restore :
    restoring.saveBase 0 = 0 ∧ (restoring.part 0).coreAt (15 / 16) (15 % 16) = some 0 ∧
    ((List.range 128).all fun k => decide (k = 15) || decide ((restoring.part 0).coreAt (k / 16) (k % 16) ≠ some 0)) = true ∧
    restoring.imageAt 0 = some { job := 7 } ∧ (restoring.mmu 0).deferred = [] := by decide +kernel

/-- A survivor whose ring 0 has completed its step of one region, not yet copied. -/
def mirroring : Block :=
  { ringed { bound := true, cons := 1, prod := 1, voted := some (0, 1) } with routes := [(9, 0x80000000 ^^^ 0x3FFFFFFF)], mirrors := [{ ring := 0, target := 9 }], ram := { mem := placed 0 (stepBytes 1) ++ placed 0x10000 regionBytes } }

theorem witness_AbortsPatrolsAndPreemption_remirror :
    (mirroring.mirrors.find? fun m => m.ring = 0) = some { ring := 0, target := 9 } ∧ (mirroring.memRead 0 64).1 = stepBytes 1 ∧
    (mirroring.memRead 0 64).2.1 = false ∧ (mirroring.memRead 0 64).2.2.copyWindow 0 = true ∧ ({ ring := 0, target := 9 } : Mirror).due (dF (stepBytes 1) 0x18 4) = some 0 ∧
    (mirroring.memRead 0 64).2.2.reachable 9 = true ∧
    (mirroring.memRead 0x10000 64).1 = regionBytes ∧ (mirroring.memRead 0x10000 64).2.1 = false ∧ mirroring.memPoisoned 0x10000000000 4 = false ∧
    mirroring.memPoisoned 0x10000001000 4 = false ∧ pieceLen 4 0x1000 0 = 4 ∧ (mirroring.memRead 0x10000000000 4).1.length = 4 ∧
    (mirroring.memRead 0x10000001000 4).1.length = 4 := by decide +kernel

/-! Boot, flash, licences. -/

theorem witness_BootStepsRunInOrder :
    (∀ n ∈ ([1, 2, 3, 5, 10] : List Nat), let b : Block := { boot := { step := n, started := true } }
      b.boot.power = .on ∧ b.boot.started = true ∧ b.boot.ready = false ∧ smWf {} b.pages = true ∧ (b.flash.bank b.boot.active).valid = true ∧ b.flash.maxSvn ≤ (b.flash.bank b.boot.active).svn) ∧
    (let b : Block := { boot := { step := 3 } }
     b.boot.step = 3 ∧ b.boot.started = false ∧ b.boot.path ≠ .recovery ∧ b.boot.ready = false) := by decide +kernel

/-- A licence record of serial 1 with no extension, for PUID 0. -/
def licence : List Nat := [1, 0, 0, 0] ++ leBytes 4 1 ++ List.replicate 152 0

theorem witness_BanksAlmanacAndLicences :
    ({} : Block).boot.power = .on ∧ smWf {} ({} : Block).pages = true ∧ smWf [] ({} : Block).boot.bcast = true ∧ ({} : Block).boot.active ≤ 1 ∧
    ({} : Block).flash.maxSvn ≤ 3 ∧ ({} : Block).boot.path ≠ .recovery ∧ ({ boot := { path := .recovery } } : Block).boot.path = .recovery ∧ (2 ^ 11 : BitVec 12) ≠ 0 ∧ ({} : Block).boot.mc = false ∧ ({} : Block).boot.rhost = false ∧
    (({} : Block).flash.bank ({} : Block).boot.next).valid = true ∧ (({ boot := { next := 1 } } : Block).flash.bank 1).valid = false ∧
    (let b : Block := { ram := { mem := placed 0 licence } }
     b.canAccess (b.pair .lic 0x050 0x054 6) 160 = true ∧ (b.memRead 0 160).1 = licence ∧ (b.memRead 0 160).2.1 = false ∧
       smWf {} (b.memRead 0 160).2.2.pages = true) := by decide +kernel

/-! Ports. -/

/-- Port 0 trained, with VF 1 on, and request 0 as `r`. -/
def hosted (r : Option PcieReq) : Block :=
  { pcie := [(0, { gen := 6, width := 16, vfEn := 1, ats := [(0, 1, false, 0x1000)], reqs := if r.isSome then [(0, r)] else [], msix := [(1, { enabled := true })] })],
    parts := [(0, { bindP := some (7, 0) })], engs := [(0, { pri := { lists := [oneList], cur := some { bytes := copyBytes } } })] }

theorem witness_HostPortCommands :
    (∀ r ∈ ([none, some (.read 0 0 0 0 0 1 64 [] false false), some (.ats 0 0 0 0 0x1000 1 false false), some (.ats 0 0 0 0 0x1000 1 true true),
        some (.pri 0 0 0 0 0x1000 1 false)] : List (Option PcieReq)),
      (hosted r).boot.power = .on ∧ (hosted r).Settled ∧ smWf {} (hosted r).pages = true ∧ smWf {} (hosted r).pcie = true ∧ smWf {} (hosted r).parts = true ∧
      smWf {} (hosted r).syncs = true ∧ smWf {} (hosted r).engs = true ∧ smWf none ((hosted r).port 0).reqs = true ∧ smWf {} ((hosted r).port 0).msix = true ∧
      (hosted r).vfAnswers 0 1 = true ∧ (hosted r).vfAnswers 0 2 = false ∧ (hosted r).ctrNum 0 0 3071 = some 3071 ∧ smGet [] ((hosted r).syn 0).ctrWaits 3071 = [] ∧
      ((hosted r).port 0).up = true ∧ ((hosted r).port 1).up = false ∧ bit ((hosted r).port 0).vfEn 0 = true ∧ bit ((hosted r).port 0).vfEn 11 = false ∧
      smGet none ((hosted r).port 0).reqs 0 = r ∧ ((hosted r).chan 0 0 0).cur.map (·.id) = some 0 ∧ ((hosted r).chan 0 0 0).pos 0 = some 0 ∧ descAt ((hosted r).chan 0 0 0).lists 0 = some oneList ∧
      bit ((hosted r).reg .eyep 0x040) 0 = false ∧ (hosted r).partIn 0 = true ∧ (∀ d, ((hosted r).chan 0 0 0).cur = some d → d.given = d.asked) ∧
      smWf 0 (smGet {} ((hosted r).port 0).msix 1).table = true ∧ ((hosted r).part 0).jobOf 0 ≠ none ∧ (smGet {} ((hosted r).port 0).msix 1).enabled = true) := by decide +kernel

/-- The aperture's reach, the fault queue's place, training, the PRI bit. -/
theorem witness_HostPortCommands_places :
    inHbm 0 4095 = true ∧ (hosted none).canAccess ((hosted none).pair (.pcie 0) 0x048 0x04C 30 + 0) 4095 = true ∧ inHbm 0x30000000000 1 = false ∧
    inCap 0x30000000000 1 = false ∧ (hosted none).canAccess ((hosted none).pair (.mmu 0) 0x05C 0x060 13) 32 = true ∧
    (hosted none).memPoisoned ((hosted none).pair (.mmu 0) 0x05C 0x060 13) 32 = false ∧ ({ boot := { ready := true } } : Block).boot.ready = true ∧ ({ boot := { step := 6 } } : Block).boot.ready = false ∧
    (6 ≤ 6 - Nat.min ((hosted none).fld (.pcie 0) 0x040 0 2) 2) := by decide +kernel

/-- A read that uses page 1 is out, or none is, when VF 1's page 1 is invalidated. -/
theorem witness_HostPortCommands_invalidation :
    smGet none ((hosted (some (.read 0 0 0 0 0 1 64 [] false false))).port 0).reqs 0 = some (.read 0 0 0 0 0 1 64 [] false false) ∧
    ((hosted none).port 0).invals = [] ∧ ((hosted none).port 0).reqs = [] := by decide

/-- No write waits with a translation; the port is down. -/
theorem witness_HostPortCommands_writes : (hosted none).dstsWaiting = [] ∧ ((hosted none).port 1).up = false := by decide +kernel

theorem witness_MctpAndSpdmRequests :
    (∀ x ∈ ([.start, .version, .caps, .negotiated] : List SpdmState), ({ mgmt := { spdm := x } } : Block).mgmt.spdm = x) ∧ ({} : Block).boot.power ≠ .reset ∧ ({} : Block).boot.power ≠ .dark ∧
    (254 : BitVec 8) ≠ 0 ∧ (254 : BitVec 8) ≠ 255 ∧ ({} : Block).boot.lic = none ∧ ({ boot := { lic := some ⟨1, 0, 0⟩ } } : Block).boot.lic ≠ none := by decide +kernel

theorem witness_PldmCommands :
    (∀ u ∈ ([.idle, .download 4096 0, .verified 0, .activated] : List UpdState), let b : Block := { mgmt := { upd := u, updBank := 1 }, timeUs := 60000000 }
      b.boot.power ≠ .reset ∧ b.boot.power ≠ .dark ∧ smWf {} b.pages = true ∧ smWf 0 b.regs = true ∧ b.boot.active ≤ 1 ∧ b.MayWrite .helio .mgmtCtl ∧ b.frameBound = [] ∧
        b.mgmt.updBank = 1 - b.boot.active ∧ b.boot.path ≠ .recovery ∧ 0 + 60000000 ≤ b.timeUs ∧ b.mgmt.upd = u) := by decide +kernel

theorem witness_VendorCommandsAndEyepieceHalt :
    ({} : Block).boot.power ≠ .reset ∧ ({} : Block).boot.power ≠ .dark ∧ ({} : Block).Settled ∧ smWf {} ({} : Block).pages = true ∧ smWf {} ({} : Block).cores = true ∧ smWf {} ({} : Block).parts = true ∧
    ({} : Block).noJobs = true ∧ ({ parts := [(0, { bindP := some (7, 0) })] } : Block).noJobs = false ∧
    ({} : Block).isSelf 0xFFFF = true ∧ ({} : Block).xRoom 0xFFFF 2 = true ∧ ({} : Block).isSelf 9 = false ∧ ({} : Block).reachable 9 = false ∧
    bit (({} : Block).reg .mgmt 0x040) 24 = true ∧ bit (({ regs := [(Page.mgmt.addr 0x040, 0x1000000)] } : Block).reg .mgmt 0x040) 24 = false ∧ ({} : Block).MayWrite .eyep .pf0 ∧ ({ eyep := { unlocked := true } } : Block).eyep.unlocked = true := by decide +kernel

/-- A halted core of an unlocked Eyepiece, one byte of its memory poisoned; ACTL values that are taken and not. -/
theorem witness_VendorCommandsAndEyepieceHalt_access :
    let b : Block := { cores := [(0, { halted := true })], eyep := { unlocked := true }, ram := { poison := [(coreBase 0 0, true)] } }
    (b.core (b.fld .eyep 0x050 16 4) (b.fld .eyep 0x050 0 8)).halted = true ∧ b.eyep.unlocked = true ∧
    b.memPoisoned (coreBase 0 0) 1 = true ∧ b.memPoisoned (coreBase 0 0 + 0x40000) 1 = false ∧
    actlBad 0x44 = none ∧ (actlBad 0xFFFFFFFF).isSome = true := by decide +kernel

theorem witness_TestPortInstructions : ({ boot := { power := .reset } } : Block).boot.power = .reset ∧ ({} : Block).boot.power ≠ .reset ∧ ({} : Block).boot.power ≠ .dark := by decide

/-! The whole block. -/

theorem witness_StepsKeepListsCanonical : State.reset.blk.ListsCanonical := by decide +kernel

theorem witness_HbmInterleaveModes : ∀ m ∈ ([0, 1, 2] : List Nat),
    576 * 2 ^ 30 - 1 < 576 * 2 ^ 30 ∧ ({ imapCur := m, stackOos := 0 } : Tiers).imapCur < 3 ∧ ({ imapCur := m, stackOos := 0 } : Tiers).stackOos = 0 := by decide

/-- The pin is held and two commands wait, neither a release. -/
theorem witness_ResetHeld : let s : State := { pending := [.railsStart, .extest true], blk := { boot := { power := .reset } } }
    s.blk.boot.power = .reset ∧ ∀ tj, Instr.pkgRstRelease tj ∉ s.pending := by simp

end Sys2Proof.Tests
end

section
/-! Register accesses (R35, R37, R39): a management write that HDR_LOCK shuts out. -/

namespace Sys2Proof.Machine

variable {b : Block} {req : Requester} {pg : Page}

/-- A write that HDR_LOCK shuts out, and that would leave the RW fields of the word at the legal values they have, counts no clamp:
only the W1S, W1C and WO bits of the word act (R39). -/
theorem Block.blockWrite_lockedOut_same (hj : req ≠ .job) (hl : b.lockedOut pg req = true) {o v : Nat} (hc : b.rwChanges pg o v = false) :
    b.blockWrite pg o v req = b.actWrite pg o v := by
  simp [Block.blockWrite, Block.guard_locked _ _ _ hj hl, hc]

/-- A write of a word between the header and the Logbook of a page that exists. -/
theorem Block.writeWord_block {off v : Nat} (hp : pageOf (off / 4096) = some pg) (ho : 0x040 ≤ off % 4096 ∧ off % 4096 < 0xE00) :
    b.writeWord off v req = b.blockWrite pg (off % 4096) v req := by
  have hmid : ¬ (off % 4096 < 0x040 ∨ 0xE00 ≤ off % 4096) := by omega
  simp [Block.writeWord, hp, hmid]

/-- A clean aligned write of 4 bytes by a requester that is no job is the write of its word, answered (R31). -/
theorem Block.mgmtWrite_word {off v : Nat} (hj : req ≠ .job) (ha : off % 4 = 0) :
    b.mgmtWrite req off 4 v false = (b.writeWord off (v % 2 ^ 32) req).emit (.mgmtResp 0 false) := by
  simp [Block.mgmtWrite, hj, ha]

/-- What the dispatcher performs for REGISTER_WRITE. -/
theorem exec_registerWrite (off : BitVec 32) (size : BitVec 4) (v : BitVec 64) (pois : Bool) (s : State) :
    exec (.registerWrite req off size v pois) s = execRegisterWrite req off size v pois s := rfl

/-- REGISTER_WRITE in the always-on domain, where its effect leaves nothing to settle, is its effect. -/
theorem execRegisterWrite_settled {s : State} {off : BitVec 32} {size : BitVec 4} {v : BitVec 64} {pois : Bool} {b' : Block}
    (hr : s.blk.boot.power ≠ .reset) (hd : s.blk.boot.power ≠ .dark)
    (hw : s.blk.mgmtWrite req off.toNat size.toNat v.toNat pois = b') (hs : b'.Settled) :
    exec (.registerWrite req off size v pois) s = .next (s.withBlk b') := by
  rw [exec_registerWrite]
  unfold execRegisterWrite State.onBlock
  beta_reduce
  rw [Block.awake_on _ hr hd, Block.settling_settled _ (by rw [hw]; exact hs), hw]
  rfl

/-- A package whose EYEP_CORE names partition 11, the highest legal one, with its page locked for the management controller. -/
def eyepCoreLocked : Block :=
  { pages := [(Page.eyep.key, { lock := true, owner := Requester.mgmtCtl.code })], regs := [(Page.eyep.addr 0x050, 0xB0000)] }

/-- HDR_LOCK shuts the primary host function out of the locked page. -/
theorem eyepCoreLocked_lockedOut : eyepCoreLocked.lockedOut .eyep .pf0 = true := by decide

/-- Partition 15, clamped to 11, is the partition that EYEP_CORE already names: writing it would change nothing (R37, R39). -/
theorem eyepCoreLocked_rwChanges : eyepCoreLocked.rwChanges .eyep 0x050 0xF0000 = false := by decide +kernel

/-- The refused write of partition 15 to the locked EYEP_CORE is answered and changes nothing, no clamp counted. -/
theorem eyepCoreLocked_write :
    eyepCoreLocked.mgmtWrite .pf0 (BitVec.ofNat 32 (Page.eyep.addr 0x050)).toNat (4 : BitVec 4).toNat (0xF0000 : BitVec 64).toNat false =
      eyepCoreLocked.emit (.mgmtResp 0 false) := by
  have hj : Requester.pf0 ≠ .job := by decide
  have hpage : pageOf (Page.eyep.addr 0x050 / 4096) = some .eyep := by decide
  have hoff : Page.eyep.addr 0x050 % 4096 = 0x050 := by decide
  have hkeep : (0xF0000 : BitVec 64).toNat % 2 ^ 32 = 0xF0000 := by decide
  have haddr : (BitVec.ofNat 32 (Page.eyep.addr 0x050)).toNat = Page.eyep.addr 0x050 := by decide
  rw [haddr, show (4 : BitVec 4).toNat = 4 from rfl, Block.mgmtWrite_word hj (by decide), hkeep,
    Block.writeWord_block hpage (by decide), hoff,
    Block.blockWrite_lockedOut_same hj eyepCoreLocked_lockedOut eyepCoreLocked_rwChanges]
  rfl

/-- Refutes O43: of a write that HDR_LOCK shuts out of EYEP_CORE the statement compares the values as written, not the legal values they
clamp to. With EYEP_CORE at partition 11 and core 0, a write of partition 15 is a write of other values, but it would store partition
11 again; a refused write counts only where it would have changed a field (R39), and no clamp is counted. -/
theorem not_registerAccesses : ¬ Obligations.RegisterAccesses := by
  unfold Obligations.RegisterAccesses
  intro h
  have hon : eyepCoreLocked.boot.power ≠ .reset := by decide
  have hlit : eyepCoreLocked.boot.power ≠ .dark := by decide
  obtain ⟨-, -, hreq⟩ :=
    h ⟨[], eyepCoreLocked⟩ .pf0 0 4 0xF0000 false 0 0 hon hlit (by decide) (by decide) (by decide)
  obtain ⟨-, -, -, -, -, heyep, -⟩ := hreq (by decide)
  have hcounted := (heyep _ _ rfl rfl).2 eyepCoreLocked_lockedOut (by decide) rfl
  rw [execRegisterWrite_settled hon hlit eyepCoreLocked_write (by decide)] at hcounted
  have hcount := congrArg (fun t : State => (t.blk.hdr .eyep).clampCnt) (Host.Outcome.next.inj hcounted)
  exact absurd hcount (by decide +kernel)

end Sys2Proof.Machine
end

section
/-! Page header commands (R35, R36, R39, R41, R43, R386): what each does to a page that exists, and that an absent page ignores it. -/

namespace Sys2Proof.Machine

variable {b : Block} {pg : Page} {req : Requester}

/-! Pages by number. -/

/-- A page that does not exist ignores what is done to it. -/
theorem Block.pageDo_absent {key : Nat} (f : Page → Block) (h : pageOf key = none) : b.pageDo key f = b := by simp [Block.pageDo, h]

/-- A page that exists does it. -/
theorem Block.pageDo_page {key : Nat} (f : Page → Block) (h : pageOf key = some pg) : b.pageDo key f = f pg := by simp [Block.pageDo, h]

/-- Blocks with the same pages have the same headers. -/
theorem Block.hdr_congr {b' : Block} (h : b'.pages = b.pages) : b'.hdr pg = b.hdr pg := by rw [Block.hdr, h, Block.hdr]

/-- A page's header after a change of it. -/
theorem Block.hdr_modHdr_self (f : PageHdr → PageHdr) (hwf : smWf {} b.pages = true) : (b.modHdr pg f).hdr pg = f (b.hdr pg) :=
  smGet_mod_self ({} : PageHdr) pg.key f hwf

/-! The commands, with the gates before them passed. -/

section
variable {s : State} {key : BitVec 20} (hr : s.blk.boot.power ≠ .reset) (hd : s.blk.boot.power ≠ .dark)
include hr hd

theorem exec_hdrLockSet (hj : req ≠ .job) :
    exec (.hdrLockSet key req) s = .next (s.withBlk (s.blk.pageDo key.toNat fun pg => s.blk.lockSet pg req)) := by
  show execHdrLockSet key req s = _
  unfold execHdrLockSet
  rw [State.onBlock_eq, Block.awake_on _ hr hd, Block.guardW_open _ hj]

theorem exec_irqCauseClear (v : BitVec 32) (hj : req ≠ .job) :
    exec (.irqCauseClear key req v) s = .next (s.withBlk (s.blk.pageDo key.toNat fun pg => s.blk.irqClear pg v.toNat)) := by
  show execIrqCauseClear key req v s = _
  unfold execIrqCauseClear
  rw [State.onBlock_eq, Block.awake_on _ hr hd, Block.guardW_open _ hj]

theorem exec_logbookClear (m : Fin 128) (v : BitVec 32) (hj : req ≠ .job) :
    exec (.logbookClear key req m v) s = .next (s.withBlk (s.blk.pageDo key.toNat fun pg => s.blk.logWrite pg m v.toNat)) := by
  show execLogbookClear key req m v s = _
  unfold execLogbookClear
  rw [State.onBlock_eq, Block.awake_on _ hr hd, Block.guardW_open _ hj]

theorem exec_clampCntClear (c : BitVec 16) :
    exec (.clampCntClear key req c) s = .next (s.withBlk (s.blk.pageDo key.toNat fun pg =>
      s.blk.guard pg req 0x01C (c = 0 ∧ (s.blk.hdr pg).clampCnt ≠ 0) fun b => b.clampClear pg c.toNat)) := by
  show execClampCntClear key req c s = _
  unfold execClampCntClear
  rw [State.onBlock_eq, Block.awake_on _ hr hd]

theorem exec_blockEnable :
    exec (.blockEnable key req) s = .next (s.withBlk (s.blk.pageDo key.toNat fun pg =>
      s.blk.guard pg req 0x00C (!s.blk.enabled pg && !pg.enableRo) fun b => if b.enabled pg && !b.isDraining pg then b else b.enable pg)) := by
  show execBlockEnable key req s = _
  unfold execBlockEnable
  rw [State.onBlock_eq, Block.awake_on _ hr hd]

theorem exec_logbookSnapshot (unc : Bool) :
    exec (.logbookSnapshot key unc) s = .next (s.withBlk (s.blk.pageDo key.toNat fun pg => s.blk.snapshot pg unc)) := by
  show execLogbookSnapshot key unc s = _
  unfold execLogbookSnapshot
  rw [State.onBlock_eq, Block.awake_on _ hr hd]

/-- BLOCK_DISABLE, where it leaves nothing to settle. -/
theorem exec_blockDisable {b' : Block} (hs : b'.Settled)
    (h : (s.blk.pageDo key.toNat fun pg => s.blk.guard pg req 0x00C (s.blk.enabled pg && !pg.enableRo) fun b =>
      if b.enabled pg then b.disable pg else b) = b') :
    exec (.blockDisable key req) s = .next (s.withBlk b') := by
  show execBlockDisable key req s = _
  unfold execBlockDisable
  subst h
  rw [State.onBlock_eq, Block.awake_on _ hr hd, Block.settling_settled _ hs]

end

/-! HDR_LOCK. -/

theorem Block.lockSet_locked (h : (b.hdr pg).lock = true) : b.lockSet pg req = b := by
  cases pg <;> simp [Block.lockSet, h]

theorem Block.lockSet_unlocked (h : (b.hdr pg).lock = false) (hc : ∀ p c, pg ≠ .clus p c) :
    b.lockSet pg req = b.modHdr pg fun h => { h with lock := true, owner := req.code } := by
  cases pg with
  | clus p c => exact absurd rfl (hc p c)
  | _ => simp [Block.lockSet, h]

/-! HDR_IRQ_STAT. -/

/-- Freeing a fault record leaves every page header, memory and the registers. -/
theorem Block.freeRecord_frame (n : Nat) :
    (b.freeRecord pg n).pages = b.pages ∧ (b.freeRecord pg n).ram = b.ram ∧ (b.freeRecord pg n).regs = b.regs := by
  unfold Block.freeRecord
  cases pg <;> dsimp only <;> (try split_ifs) <;> exact ⟨rfl, rfl, rfl⟩

/-- IRQ_CAUSE_CLEAR changes of the headers its page's HDR_IRQ_STAT only, and neither memory nor registers. -/
theorem Block.irqClear_frame (v : BitVec 32) :
    (b.irqClear pg v.toNat).pages = (b.modHdr pg fun h => { h with irqStat := h.irqStat &&& ~~~ v }).pages ∧
      (b.irqClear pg v.toNat).ram = b.ram ∧ (b.irqClear pg v.toNat).regs = b.regs := by
  unfold Block.irqClear
  rw [BitVec.ofNat_toNat, BitVec.setWidth_eq]
  refine foldl_keeps (fun t : Block => t.pages = (b.modHdr pg _).pages ∧ t.ram = b.ram ∧ t.regs = b.regs) _
    (fun t n ⟨hp, hm, hr⟩ => ?_) _ ⟨rfl, rfl, rfl⟩
  obtain ⟨fp, fm, fr⟩ := t.freeRecord_frame (pg := pg) n
  exact ⟨fp.trans hp, fm.trans hm, fr.trans hr⟩

/-! The Logbook. -/

theorem Block.logZero_frame (n v : Nat) : (b.logZero pg n v).ram = b.ram ∧ (b.logZero pg n v).regs = b.regs := by
  unfold Block.logZero; split <;> exact ⟨rfl, rfl⟩

theorem Block.logZero_wf (n v : Nat) (h : smWf 0 b.logs = true) : smWf 0 (b.logZero pg n v).logs = true := by
  unfold Block.logZero; split
  · exact smWf_put 0 _ _ h
  · exact h

/-- One counter written: it is cleared where the value is 0 and the page has it, and no other changes. -/
theorem Block.logZero_logs (n v k : Nat) (h : smWf 0 b.logs = true) :
    smGet 0 (b.logZero pg n v).logs k = if k = pg.key * 256 + n ∧ v = 0 ∧ n < pg.logCount then 0 else smGet 0 b.logs k := by
  unfold Block.logZero
  by_cases hw : v = 0 ∧ n < pg.logCount
  · rw [if_pos hw]
    by_cases hk : k = pg.key * 256 + n
    · rw [if_pos ⟨hk, hw⟩, hk]
      exact smGet_put_self 0 _ _ ((smWf_iff 0 _).1 h).1
    · rw [if_neg fun h => hk h.1]
      exact smGet_put_ne 0 _ hk
  · rw [if_neg hw, if_neg fun h => hw h.2]

/-- LOGBOOK_CLEAR of word `m` with `v` (R41). -/
theorem Block.logWrite_logs (m k : Nat) (v : BitVec 32) (h : smWf 0 b.logs = true) :
    smGet 0 (b.logWrite pg m v.toNat).logs k =
      if (k = pg.key * 256 + 2 * m ∧ v.toNat % 65536 = 0 ∧ 2 * m < pg.logCount) ∨
        (k = pg.key * 256 + 2 * m + 1 ∧ v.toNat / 65536 = 0 ∧ 2 * m + 1 < pg.logCount) then 0 else smGet 0 b.logs k := by
  have hv : v.toNat / 65536 % 65536 = v.toNat / 65536 := Nat.mod_eq_of_lt (by omega)
  unfold Block.logWrite
  rw [Block.logZero_logs _ _ _ (Block.logZero_wf _ _ h), Block.logZero_logs _ _ _ h, hv, ← Nat.add_assoc]
  split_ifs <;> first | rfl | omega

/-! HDR_CTL.ENABLE. -/

/-- A change of ENABLE alone leaves memory, the registers and what waits to be settled. -/
theorem Block.disable_writes (hl : ∀ n, pg ≠ .lnk n) (hro : pg.enableRo = false) (hwf : smWf {} b.pages = true) :
    ((b.disable pg).ram = b.ram ∧ (b.disable pg).regs = b.regs) ∧ (b.Settled → (b.disable pg).Settled) ∧
      ((b.disable pg).hdr pg).enaW = some false := by
  unfold Block.disable
  rw [hro]
  cases pg with
  | lnk n => exact absurd rfl (hl n)
  | _ => exact ⟨⟨rfl, rfl⟩, id, congrArg PageHdr.enaW (Block.hdr_modHdr_self _ hwf)⟩

theorem Block.enable_writes (hl : ∀ n, pg ≠ .lnk n) (hro : pg.enableRo = false) :
    b.enable pg = b.modHdr pg fun h => { h with enaW := some true, draining := false } := by
  unfold Block.enable
  rw [hro]
  cases pg with
  | lnk n => exact absurd rfl (hl n)
  | _ => rfl

theorem Block.disable_enableRo (h : pg.enableRo = true) : b.disable pg = b := by simp [Block.disable, h]
theorem Block.enable_enableRo (h : pg.enableRo = true) : b.enable pg = b := by simp [Block.enable, h]

/-- Where ENABLE is RO, a guarded write that would leave the block changes nothing, whether or not the lock admits it. -/
theorem Block.guard_unchanged {off : Nat} {f : Block → Block} (hj : req ≠ .job) (hf : f b = b) : b.guard pg req off false f = b := by
  simp [Block.guard, hj, hf]

/-! LOGBOOK_SNAPSHOT. -/

@[simp] theorem leBytes_length (n v : Nat) : (leBytes n v).length = n := by simp [leBytes]

/-- The record of a page's snapshot (R43, Table 1.19): the sidereal count first. -/
def Block.snapRecord (b : Block) (pg : Page) : List Nat :=
  leBytes 8 b.merid.count ++ leBytes 4 pg.hdrId ++ leBytes 4 (b.hdr pg).clampCnt ++ leBytes 4 (b.hdrStat pg) ++ leBytes 4 (b.hdr pg).snapSeq ++
    List.replicate 40 0 ++ (List.range 128).flatMap fun m => leBytes 4 (b.word pg (0xE00 + 4 * m))

theorem Block.snapRecord_length : (b.snapRecord pg).length = 576 := by
  simp only [Block.snapRecord, List.length_append, List.length_replicate, List.length_flatMap, leBytes_length, List.map_const',
    List.length_range, List.sum_replicate, smul_eq_mul]

theorem Block.snapRecord_count : (b.snapRecord pg).take 8 = leBytes 8 b.merid.count := by
  simp only [Block.snapRecord, List.append_assoc]
  exact List.take_left' (leBytes_length 8 _)

theorem Block.snapshot_off (unc : Bool) (h : (b.hdr pg).snapEn = false ∨ b.merid.count % 1024 ≠ 0 ∨ b.heldInReset pg = true) :
    b.snapshot pg unc = b := by
  unfold Block.snapshot
  rw [if_pos (by simpa [or_assoc] using h)]

/-- A snapshot that is due takes its sequence number, and is written or fails. -/
theorem Block.snapshot_due (unc : Bool) (he : (b.hdr pg).snapEn = true) (hc : b.merid.count % 1024 = 0) (hh : b.heldInReset pg = false) :
    b.snapshot pg unc =
      let b1 := b.modHdr pg fun h => { h with snapSeq := (h.snapSeq + 1) % 2 ^ 32 }
      if unc || !b.canAccess ((b.hdr pg).logBase.toNat * 1024) 576 then (b1.log .mgmt 1).raise .mgmt 1
      else b1.memWrite ((b.hdr pg).logBase.toNat * 1024) (b.snapRecord pg) := by
  unfold Block.snapshot
  rw [if_neg (by simp [he, hc, hh])]
  rfl

/-- Settles O42: each command passes the gates of the always-on domain, and does to the page what the lemmas above say of it. -/
theorem pageHeaderCommands : Obligations.PageHeaderCommands := by
  unfold Obligations.PageHeaderCommands
  intro s key req v c m pg unc b h same hr hd hj hwf
  refine ⟨fun hno => ⟨?_, ?_, ?_, ?_, ?_, ?_, fun hs => ?_⟩, fun hpg => ⟨?_, ?_, ?_, ?_, ?_, fun hmay => ?_, ?_, ?_, ?_, ?_⟩⟩
  · rw [exec_hdrLockSet hr hd hj, Block.pageDo_absent _ hno, State.withBlk_self]
  · rw [exec_irqCauseClear hr hd v hj, Block.pageDo_absent _ hno, State.withBlk_self]
  · rw [exec_clampCntClear hr hd, Block.pageDo_absent _ hno, State.withBlk_self]
  · rw [exec_logbookClear hr hd m v hj, Block.pageDo_absent _ hno, State.withBlk_self]
  · rw [exec_blockEnable hr hd, Block.pageDo_absent _ hno, State.withBlk_self]
  · rw [exec_logbookSnapshot hr hd, Block.pageDo_absent _ hno, State.withBlk_self]
  · exact exec_blockDisable hr hd hs (Block.pageDo_absent _ hno)
  · intro hl
    rw [exec_hdrLockSet hr hd hj, Block.pageDo_page _ hpg, Block.lockSet_locked hl, State.withBlk_self]
  · intro hl hc
    rw [exec_hdrLockSet hr hd hj, Block.pageDo_page _ hpg, Block.lockSet_unlocked hl hc]
  · rintro p k rfl
    rw [exec_hdrLockSet hr hd hj, Block.pageDo_page _ hpg]
    rfl
  · refine ⟨b.irqClear pg v.toNat, ?_, ?_⟩
    · rw [exec_irqCauseClear hr hd v hj, Block.pageDo_page _ hpg]
    · obtain ⟨hp, hm, hg⟩ := b.irqClear_frame (pg := pg) v
      refine ⟨⟨hm, hg⟩, (Block.hdr_congr hp).trans (Block.hdr_modHdr_self _ hwf), fun k hk => ?_⟩
      rw [hp, Block.modHdr_pages]
      exact smGet_mod_ne ({} : PageHdr) _ hk
  · intro hlogs
    refine ⟨b.logWrite pg m v.toNat, ?_, ?_, fun n => Block.logWrite_logs m n v hlogs⟩
    · rw [exec_logbookClear hr hd m v hj, Block.pageDo_page _ hpg]
    · obtain ⟨hm, hg⟩ := (b.logZero pg (2 * m) (v.toNat % 65536)).logZero_frame (pg := pg) (2 * m + 1) (v.toNat / 65536 % 65536)
      obtain ⟨hm', hg'⟩ := b.logZero_frame (pg := pg) (2 * m) (v.toNat % 65536)
      exact ⟨hm.trans hm', hg.trans hg'⟩
  · refine ⟨?_, ?_, ?_⟩
    · rintro rfl
      rw [exec_clampCntClear hr hd, Block.pageDo_page _ hpg, Block.guard_open _ _ _ hmay]
      rfl
    · intro hc
      have hc' : c.toNat % 65536 ≠ 0 := by
        have := c.isLt
        rw [Nat.mod_eq_of_lt (by omega)]
        exact fun h0 => hc (BitVec.eq_of_toNat_eq h0)
      rw [exec_clampCntClear hr hd, Block.pageDo_page _ hpg, Block.guard_open _ _ _ hmay, Block.clampClear, if_neg hc', State.withBlk_self]
    · intro hlnk hclus hvreg hvregP hs
      have hro : pg.enableRo = false := by
        cases pg with
        | clus p c => exact absurd rfl (hclus p c)
        | vreg r => exact absurd rfl (hvreg r)
        | vregP p r => exact absurd rfl (hvregP p r)
        | _ => rfl
      refine ⟨fun hon => ?_, fun hoff => ?_⟩
      · obtain ⟨hsame, hset, hena⟩ := Block.disable_writes hlnk hro hwf
        refine ⟨b.disable pg, exec_blockDisable hr hd (hset hs) ?_, hsame, hena, ?_⟩
        · rw [Block.pageDo_page _ hpg, Block.guard_open _ _ _ hmay, if_pos hon]
        · simp [Block.enabled, hena]
      · refine ⟨b.enable pg, ?_, ?_⟩
        · rw [exec_blockEnable hr hd, Block.pageDo_page _ hpg, Block.guard_open _ _ _ hmay]
          rw [if_neg (by simp [hoff])]
        · rw [Block.enable_writes hlnk hro, Block.hdr_modHdr_self _ hwf]
          exact ⟨⟨rfl, rfl⟩, rfl, rfl⟩
  · intro hlk hon hro hs
    have hon' : s.blk.enabled pg = true := hon
    refine ⟨exec_blockDisable hr hd ?_ ?_, ?_⟩
    · simpa [Block.Settled] using hs
    · rw [Block.pageDo_page _ hpg, Block.guard_locked _ _ _ hj hlk, hon', hro]
      rfl
    · rw [exec_blockEnable hr hd, Block.pageDo_page _ hpg, Block.guard_locked _ _ _ hj hlk, hon']
      rfl
  · intro hro
    refine ⟨?_, fun hs => exec_blockDisable hr hd hs ?_⟩
    · rw [exec_blockEnable hr hd, Block.pageDo_page _ hpg, hro, Bool.not_true, Bool.and_false,
        Block.guard_unchanged hj (by rw [Block.enable_enableRo hro, ite_self]), State.withBlk_self]
    · rw [Block.pageDo_page _ hpg, hro, Bool.not_true, Bool.and_false,
        Block.guard_unchanged hj (by rw [Block.disable_enableRo hro, ite_self])]
  · intro hoff
    rw [exec_logbookSnapshot hr hd, Block.pageDo_page _ hpg, Block.snapshot_off unc hoff, State.withBlk_self]
  · intro he hc hh
    have hrun : exec (.logbookSnapshot key unc) s = .next (s.withBlk (b.snapshot pg unc)) := by
      rw [exec_logbookSnapshot hr hd, Block.pageDo_page _ hpg]
    rw [Block.snapshot_due unc he hc hh] at hrun
    refine ⟨fun hfail => ?_, fun hunc hacc => ⟨b.snapRecord pg, b.snapRecord_length, b.snapRecord_count, ?_⟩⟩
    · rw [hrun]
      dsimp only
      rw [if_pos (by simpa using hfail)]
    · rw [hrun]
      dsimp only
      rw [if_neg (by simp [hunc, hacc, h])]

end Sys2Proof.Machine
end

section
/-! The firmware update under PLDM (R412, R413, R432): what an activation does to the other bank. -/

namespace Sys2Proof.Machine

/-- ACTIVATE_FIRMWARE is its effect, in the always-on domain. -/
theorem exec_activateFirmware {s : State} (self : Bool) (hr : s.blk.boot.power ≠ .reset) (hd : s.blk.boot.power ≠ .dark) :
    exec (.activateFirmware self) s = .next (s.withBlk (s.blk.updActivate self)) := by
  show execActivateFirmware self s = _
  unfold execActivateFirmware
  rw [State.onBlock_eq, Block.awake_on _ hr hd]

/-- A package that runs bank 0, of SVN 0, and has verified a bundle of SVN 1 in bank 1, which NEXT names. -/
def newerVerified : Block :=
  { mgmt := { upd := .verified 0, updBank := 1 }, boot := { next := 1 }, flash := { bankB := { valid := true, version := 2, svn := 1 } } }

/-- The active bank is valid before the activation. -/
theorem newerVerified_active : (newerVerified.flash.bank newerVerified.boot.active).valid = true := by decide

/-- Activating the newer bundle makes 1 the highest SVN ever activated, and the active bank, of SVN 0, is valid no more (R412). -/
theorem newerVerified_activated :
    ((newerVerified.updActivate true).flash.bank newerVerified.boot.active).valid = false := by decide +kernel

/-- Refutes O55: an activation does not leave the active bank as it was. ACTIVATE_FIRMWARE of a verified bank 1 with SVN 1 activates that SVN,
and the active bank 0, of SVN 0, then fails R412's check: its VALID bit is cleared, where the statement keeps the whole bank. -/
theorem not_pldmCommands : ¬ Obligations.PldmCommands := by
  unfold Obligations.PldmCommands
  intro h
  have hr : newerVerified.boot.power ≠ .reset := by decide
  have hd : newerVerified.boot.power ≠ .dark := by decide
  obtain ⟨-, -, -, -, -, -, hact, -⟩ :=
    h ⟨[], newerVerified⟩ 0 0 none ⟨true, 1, 1, 2⟩ true hr hd (by decide) (by decide) (by decide)
  obtain ⟨hself, -⟩ := hact 0 rfl
  obtain ⟨b', hrun, -, -, -, ⟨hbank, -⟩, -⟩ := hself (by decide)
  rw [exec_activateFirmware true hr hd] at hrun
  obtain rfl : newerVerified.updActivate true = b' := congrArg State.blk (Host.Outcome.next.inj hrun)
  have hvalid := congrArg Bank.valid hbank
  rw [newerVerified_activated, newerVerified_active] at hvalid
  exact Bool.noConfusion hvalid

end Sys2Proof.Machine
end

section
/-! Causes are only ever added by the shared operations (R36): a write to memory, a Logbook counter, a trace record and the raising of
another cause keep each cause that is set, and the page headers in canonical form. -/

namespace Sys2Proof.Machine

/-- From the headers `m` to the headers `m'` the canonical form is kept, and each cause that is set stays set. -/
structure CausesKept (m m' : SMap PageHdr) : Prop where
  wf : smWf {} m = true → smWf {} m' = true
  cause : smWf {} m = true → ∀ k n, (smGet ({} : PageHdr) m k).irqStat.getLsbD n = true →
    (smGet ({} : PageHdr) m' k).irqStat.getLsbD n = true

theorem CausesKept.refl (m : SMap PageHdr) : CausesKept m m := ⟨id, fun _ _ _ => id⟩

theorem CausesKept.trans {m m' m'' : SMap PageHdr} (h : CausesKept m m') (h' : CausesKept m' m'') : CausesKept m m'' :=
  ⟨fun hwf => h'.wf (h.wf hwf), fun hwf k n hc => h'.cause (h.wf hwf) k n (h.cause hwf k n hc)⟩

/-- A header that takes more causes into its HDR_IRQ_STAT keeps those it has. -/
theorem CausesKept.mod (m : SMap PageHdr) (k : Nat) (x : Word) :
    CausesKept m (smMod {} m k fun h => { h with irqStat := h.irqStat ||| x }) := by
  refine ⟨smWf_mod ({} : PageHdr) k _, fun hwf k' n hc => ?_⟩
  by_cases hk : k' = k
  · subst hk
    rw [smGet_mod_self ({} : PageHdr) k' _ hwf, BitVec.getLsbD_or, hc, Bool.true_or]
  · rw [smGet_mod_ne ({} : PageHdr) _ hk]
    exact hc

variable {m : SMap PageHdr} (s : Block)

/-- A fold whose every step keeps the causes keeps them. -/
theorem foldl_causesKept {β : Type} (f : Block → β → Block) (hf : ∀ s b, CausesKept s.pages (f s b).pages) (l : List β)
    (h : CausesKept m s.pages) : CausesKept m (l.foldl f s).pages :=
  foldl_keeps (fun t : Block => CausesKept m t.pages) f (fun t b ht => ht.trans (hf t b)) l h

theorem Block.modIrq_pages (pg : Page) (f : PageHdr → PageHdr) : (s.modIrq pg f).pages = smMod {} s.pages pg.key f := by
  unfold Block.modIrq
  dsimp only
  split_ifs <;> rfl

theorem Block.modIrq_causesKept (pg : Page) (x : Word) (h : CausesKept m s.pages) :
    CausesKept m (s.modIrq pg fun h => { h with irqStat := h.irqStat ||| x }).pages := by
  rw [Block.modIrq_pages]
  exact h.trans (.mod _ _ x)

theorem Block.log_causesKept (pg : Page) (n : Nat) (h : CausesKept m s.pages) : CausesKept m (s.log pg n).pages := by
  unfold Block.log
  dsimp only
  split_ifs
  · exact h
  · exact Block.modIrq_causesKept _ pg _ h
  · exact h

theorem Block.logN_causesKept (pg : Page) (n k : Nat) (h : CausesKept m s.pages) : CausesKept m (s.logN pg n k).pages := by
  unfold Block.logN
  dsimp only
  split_ifs
  · exact h
  · exact Block.modIrq_causesKept _ pg _ h
  · exact h

/-! A write to memory at its home. -/

theorem Block.dropLine_pages (p k : Nat) : (s.dropLine p k).pages = s.pages := by
  unfold Block.dropLine
  dsimp only
  split
  · split <;> rfl
  · rfl

theorem Block.hbmRead_causesKept (p x n : Nat) (h : CausesKept m s.pages) : CausesKept m (s.hbmRead p x n).pages := by
  refine foldl_causesKept _ _ (fun s u => ?_) _ h
  split
  · exact Block.log_causesKept s _ 4 (.refl _)
  · exact .refl _

theorem Block.hbmWrite_causesKept (p x n : Nat) (h : CausesKept m s.pages) : CausesKept m (s.hbmWrite p x n).pages :=
  Block.logN_causesKept _ _ _ _ h

theorem Block.mergeReads_causesKept (p x n : Nat) (h : CausesKept m s.pages) : CausesKept m (s.mergeReads p x n).pages :=
  Block.logN_causesKept _ _ _ _ (foldl_causesKept _ _ (fun s u => s.hbmRead_causesKept p u 64 (.refl _)) _ h)

theorem Block.writeBack_causesKept (p k : Nat) (h : CausesKept m s.pages) : CausesKept m (s.writeBack p k).pages := by
  unfold Block.writeBack
  split
  · split
    · exact Block.hbmWrite_causesKept _ _ _ _ h
    · exact h
  · exact h

theorem Block.keepRoom_causesKept (p n : Nat) (h : CausesKept m s.pages) : CausesKept m (s.keepRoom p n).pages := by
  unfold Block.keepRoom
  dsimp only
  split
  · split
    · exact Block.log_causesKept _ _ _ h
    · exact h
  · exact h

theorem Block.fill_causesKept (p n : Nat) (fetch keep : Bool) (h : CausesKept m s.pages) :
    CausesKept m (s.fill p n fetch keep).2.pages := by
  have hroom (c : Bool) : CausesKept m (if c = true then s.keepRoom p n else s).pages := by
    split
    · exact s.keepRoom_causesKept p n h
    · exact h
  unfold Block.fill
  split
  · exact h
  · dsimp only
    have hroom' := hroom (keep && decide (s.fld (.msc p) 0x040 8 4 ≠ 0))
    generalize (if (keep && decide (s.fld (.msc p) 0x040 8 4 ≠ 0)) = true then s.keepRoom p n else s) = t at hroom' ⊢
    split
    · exact hroom'
    · rename_i k _
      have hdrop : CausesKept m ((t.writeBack p k).dropLine p k).pages := by
        rw [Block.dropLine_pages]
        exact t.writeBack_causesKept p k hroom'
      split
      · exact Block.hbmRead_causesKept _ _ _ _ hdrop
      · exact hdrop

theorem Block.mscPut_causesKept (p x : Nat) (bs : List Nat) (h : CausesKept m s.pages) : CausesKept m (s.mscPut p x bs).pages := by
  unfold Block.mscPut
  split
  · exact h
  · have hfill := (s.modMsc p fun m => { m with misses := m.misses + 1 }).fill_causesKept p (x / 128) (decide (bs.length < 128)) false h
    dsimp only
    split <;> rename_i he <;> rw [he] at hfill
    · exact hfill
    · exact Block.hbmWrite_causesKept _ _ _ _ (Block.mergeReads_causesKept _ _ _ _ hfill)

theorem Block.useCheck_causesKept (d x : Nat) (c : Bool) (h : CausesKept m s.pages) : CausesKept m (s.useCheck d x c).pages := by
  unfold Block.useCheck
  dsimp only
  split
  · exact Block.log_causesKept _ _ _ h
  · exact h

theorem Block.capLineRead_causesKept (d x : Nat) (h : CausesKept m s.pages) : CausesKept m (s.capLineRead d x).pages := by
  have hcheck := s.useCheck_causesKept d x false h
  unfold Block.capLineRead
  dsimp only
  split
  · exact Block.log_causesKept _ _ _ hcheck
  · exact hcheck

theorem Block.capLineWrite_causesKept (d x : Nat) (bs : List Nat) (po : Bool) (h : CausesKept m s.pages) :
    CausesKept m (s.capLineWrite d x bs po).pages := by
  have hcheck := s.useCheck_causesKept d x true h
  unfold Block.capLineWrite
  dsimp only
  split
  · exact Block.log_causesKept _ _ _ hcheck
  · exact hcheck

theorem Block.capPut_causesKept (d x : Nat) (bs : List Nat) (h : CausesKept m s.pages) : CausesKept m (s.capPut d x bs).pages := by
  refine Block.capLineWrite_causesKept _ _ _ _ _ ?_
  split
  · exact Block.capLineRead_causesKept _ _ _ (Block.log_causesKept _ _ _ h)
  · exact h

theorem Block.tierWrite_causesKept (a : Nat) (bs : List Nat) (h : CausesKept m s.pages) : CausesKept m (s.tierWrite a bs).pages := by
  refine foldl_causesKept _ _ (fun s q => ?_) _ h
  dsimp only
  split
  · exact s.mscPut_causesKept _ _ _ (.refl _)
  · exact s.capPut_causesKept _ _ _ (.refl _)
  · exact .refl _
  · exact .refl _

/-! Trace records, causes and events. -/

theorem Block.eyep_causesKept (e : Eyep) (h : CausesKept m s.pages) : CausesKept m ({ s with eyep := e } : Block).pages := h
theorem Block.fv_causesKept (n : Nat) (h : CausesKept m s.pages) : CausesKept m ({ s with fv := n } : Block).pages := h

theorem Block.traceRec_causesKept (src off : Nat) (d : List Nat) (h : CausesKept m s.pages) :
    CausesKept m (s.traceRec src off d).pages := by
  have hwrite (a : Nat) (r : List Nat) : CausesKept m (({ s with fv := s.fv + 1 } : Block).tierWrite a r).pages :=
    Block.tierWrite_causesKept _ a r (s.fv_causesKept _ h)
  have hdrop (e : Eyep) (n : Nat) : CausesKept m ({ s with eyep := e, fv := n } : Block).pages := h
  unfold Block.traceRec Block.fresh
  dsimp only
  split_ifs
  · exact h
  · exact Block.eyep_causesKept _ _ (Block.modIrq_causesKept _ .eyep 4 (Block.eyep_causesKept _ _ (hwrite _ _)))
  · exact Block.eyep_causesKept _ _ (hwrite _ _)
  · exact Block.log_causesKept _ _ _ (hdrop _ _)
  · exact h

theorem Block.trace_causesKept (src off : Nat) (d : List Nat) (h : CausesKept m s.pages) :
    CausesKept m (s.trace src off d).pages := by
  have hrec := s.traceRec_causesKept src off d h
  unfold Block.trace
  dsimp only
  split
  · exact Block.traceRec_causesKept _ _ _ _ hrec
  · exact hrec

theorem Block.raise0_causesKept (pg : Page) (n : Nat) (h : CausesKept m s.pages) : CausesKept m (s.raise0 pg n).pages := by
  unfold Block.raise0
  split
  · exact h
  · exact Block.trace_causesKept _ _ _ _ (Block.modIrq_causesKept _ pg _ h)

theorem Block.event_causesKept (pg : Page) (n : Nat) (h : CausesKept m s.pages) : CausesKept m (s.event pg n).pages := by
  unfold Block.event
  dsimp only
  split_ifs
  · exact Block.raise0_causesKept _ _ _ (Block.log_causesKept _ _ _ h)
  · exact h
  · exact h

theorem Block.raise_causesKept (pg : Page) (n : Nat) (h : CausesKept m s.pages) : CausesKept m (s.raise pg n).pages := by
  unfold Block.raise
  split
  · exact h
  · exact Block.event_causesKept _ _ _ (s.raise0_causesKept _ _ h)

/-- The cause that is raised is set (R36). -/
theorem Block.raise_causeSet {pg : Page} {n : Nat} (hn : n < 32) (hwf : smWf {} s.pages = true) : (s.raise pg n).causeSet pg n = true := by
  unfold Block.raise
  by_cases hc : (s.hdr pg).irqStat.getLsbD n = true
  · rw [if_pos hc]
    exact hc
  · rw [if_neg hc, Block.raise0, if_neg hc]
    set t := s.modIrq pg fun h => { h with irqStat := h.irqStat ||| BitVec.ofNat 32 (2 ^ n) } with ht
    have hpages : t.pages = smMod {} s.pages pg.key fun h => { h with irqStat := h.irqStat ||| BitVec.ofNat 32 (2 ^ n) } :=
      Block.modIrq_pages _ _ _
    have hset : (smGet ({} : PageHdr) t.pages pg.key).irqStat.getLsbD n = true := by
      rw [hpages, smGet_mod_self ({} : PageHdr) _ _ hwf, BitVec.getLsbD_or, BitVec.getLsbD_ofNat, Nat.testBit_two_pow_self]
      simp [hn]
    have hkept : CausesKept t.pages ((t.trace 4 (pg.addr 0) [n]).event pg n).pages :=
      Block.event_causesKept _ _ _ (Block.trace_causesKept _ _ _ _ (.refl _))
    exact hkept.cause (by rw [hpages]; exact smWf_mod ({} : PageHdr) _ _ hwf) _ n hset

/-- A cause that was raised stays set through what keeps the causes. -/
theorem Block.raise_causeSet_kept {t : Block} {pg : Page} {n : Nat} (hn : n < 32) (hwf : smWf {} s.pages = true)
    (hk : CausesKept (s.raise pg n).pages t.pages) : t.causeSet pg n = true :=
  hk.cause ((s.raise_causesKept pg n (.refl _)).wf hwf) pg.key n (s.raise_causeSet hn hwf)

end Sys2Proof.Machine
end

section
/-! The Eyepiece's lock and nonce (R437): no shared operation changes them. -/

namespace Sys2Proof.Machine

variable (s : Block)

/-- Whether the Eyepiece is unlocked, and the nonce that it keeps. -/
def Block.unlocking (b : Block) : Bool × Option Nat := (b.eyep.unlocked, b.eyep.nonce)

@[simp] theorem Block.log_unlocking (pg : Page) (n : Nat) : (s.log pg n).unlocking = s.unlocking := by
  simp [Block.unlocking]

theorem Block.emit_unlocking (o : Out) : (s.emit o).unlocking = s.unlocking := rfl
theorem Block.fv_unlocking (n : Nat) : ({ s with fv := n } : Block).unlocking = s.unlocking := rfl
theorem Block.ring_unlocking (w : Bool) (i : Nat) (f : Bool) (n : Nat) :
    ({ s with eyep := { s.eyep with wrapped := w, idx := i, full := f, drops := n } } : Block).unlocking = s.unlocking := rfl
theorem Block.modIrq_unlocking (pg : Page) (f : PageHdr → PageHdr) : (s.modIrq pg f).unlocking = s.unlocking := by
  simp [Block.unlocking]
theorem Block.tierWrite_unlocking (a : Nat) (bs : List Nat) : (s.tierWrite a bs).unlocking = s.unlocking := by
  simp [Block.unlocking]

@[simp] theorem Block.traceRec_unlocking (src off : Nat) (d : List Nat) : (s.traceRec src off d).unlocking = s.unlocking := by
  have hwrite (a : Nat) (r : List Nat) : (({ s with fv := s.fv + 1 } : Block).tierWrite a r).unlocking = s.unlocking :=
    (Block.tierWrite_unlocking _ a r).trans (s.fv_unlocking _)
  unfold Block.traceRec Block.fresh
  dsimp only
  split_ifs
  · exact (Block.emit_unlocking _ _).trans (s.fv_unlocking _)
  · exact (Block.ring_unlocking _ _ _ _ _).trans ((Block.modIrq_unlocking _ _ _).trans ((Block.ring_unlocking _ _ _ _ _).trans (hwrite _ _)))
  · exact (Block.ring_unlocking _ _ _ _ _).trans (hwrite _ _)
  · exact (Block.log_unlocking _ _ _).trans rfl
  · rfl

@[simp] theorem Block.trace_unlocking (src off : Nat) (d : List Nat) : (s.trace src off d).unlocking = s.unlocking := by
  unfold Block.trace
  dsimp only
  split <;> simp

@[simp] theorem Block.raise0_unlocking (pg : Page) (n : Nat) : (s.raise0 pg n).unlocking = s.unlocking := by
  unfold Block.raise0
  split
  · rfl
  · rw [Block.trace_unlocking]
    simp [Block.unlocking]

@[simp] theorem Block.raise_unlocking (pg : Page) (n : Nat) : (s.raise pg n).unlocking = s.unlocking := by
  unfold Block.raise Block.event
  dsimp only
  split_ifs
  · rfl
  · simp
  · exact s.raise0_unlocking pg n
  · simp

end Sys2Proof.Machine
end

section
/-! The package test (R375): PKG_FFT starts the flat-field test of every partition in service. -/

namespace Sys2Proof.Machine

variable {b : Block}

theorem Block.setUncal_frame (p : Nat) (v : Bool) : (b.setUncal p v).parts = b.parts ∧ (b.setUncal p v).slots = b.slots := by
  unfold Block.setUncal
  dsimp only
  split <;> simp

/-- No job is bound to the partition. -/
def Part.idle (q : Part) : Prop := q.bindP = none ∧ q.bindB = none

/-- One partition of the package test. -/
def Block.fftTest (b : Block) (p : Nat) : Block := (b.fftStart p).modPart p fun q => { q with fftPkg := q.fftGo }

theorem Block.part_modPart (q p : Nat) (f : Part → Part) (hwf : smWf {} b.parts = true) :
    (b.modPart q f).part p = if p = q then f (b.part q) else b.part p := by
  by_cases h : p = q
  · rw [if_pos h, h]
    exact smGet_mod_self ({} : Part) q f hwf
  · rw [if_neg h]
    exact smGet_mod_ne ({} : Part) f h

theorem Block.modPart_wf (q : Nat) (f : Part → Part) (hwf : smWf {} b.parts = true) : smWf {} (b.modPart q f).parts = true :=
  smWf_mod ({} : Part) q f hwf

/-- A partition in which the test starts. -/
def Part.tested (q : Part) : Part :=
  { q with fftGo := true, fftStatus := 1, fftUnit := 0, fftFmt := 0, fftCore := 0xFF, fftPass := 1, fftPkg := false }

theorem Block.fftStart_running {q : Nat} (h : (b.part q).fftGo = true) : b.fftStart q = b := by
  unfold Block.fftStart
  rw [if_pos h]

theorem Block.fftStart_idle {q : Nat} (h : (b.part q).fftGo = false) (hidle : (b.part q).idle) :
    (b.fftStart q).parts = (b.modPart q Part.tested).parts ∧ (b.fftStart q).slots = b.slots := by
  unfold Block.fftStart
  rw [if_neg (by simp [h]), if_neg (by simp [hidle.1, hidle.2])]
  obtain ⟨hp, hs⟩ := ((b.modPart q Part.tested).log (.part q) 10).setUncal_frame q true
  exact ⟨hp.trans (Block.log_parts _ _ _), hs.trans (Block.log_slots _ _ _)⟩

/-- The test of an idle partition runs, and no binding and no other partition's test changes. -/
theorem Block.fftTest_part {q : Nat} (hwf : smWf {} b.parts = true) (hidle : (b.part q).idle) (p : Nat) :
    ((b.fftTest q).part p).fftGo = (decide (p = q) || (b.part p).fftGo) ∧ ((b.part p).idle → ((b.fftTest q).part p).idle) ∧
      smWf {} (b.fftTest q).parts = true ∧ (b.fftTest q).slots = b.slots := by
  cases hgo : (b.part q).fftGo with
  | true =>
    rw [Block.fftTest, Block.fftStart_running hgo]
    refine ⟨?_, ?_, Block.modPart_wf q _ hwf, rfl⟩ <;> rw [Block.part_modPart q p _ hwf] <;> split <;> simp_all [Part.idle]
  | false =>
    obtain ⟨hparts, hslots⟩ := Block.fftStart_idle hgo hidle
    have hwf' : smWf {} (b.fftStart q).parts = true := by
      rw [hparts]
      exact Block.modPart_wf q _ hwf
    have hpart (p : Nat) : (b.fftStart q).part p = if p = q then (b.part q).tested else b.part p := by
      rw [Block.part, hparts, ← Block.part_modPart q p _ hwf, Block.part]
    refine ⟨?_, ?_, Block.modPart_wf q _ hwf', hslots⟩ <;> rw [Block.fftTest, Block.part_modPart q p _ hwf', hpart, hpart] <;>
      split <;> simp_all [Part.idle, Part.tested]

/-- What the package test leaves of each partition, those of the list being idle. -/
theorem foldl_fftTest (l : List Nat) (b : Block) (hwf : smWf {} b.parts = true) (hidle : ∀ q ∈ l, (b.part q).idle) :
    (∀ p, ((l.foldl Block.fftTest b).part p).fftGo = (decide (p ∈ l) || (b.part p).fftGo)) ∧ (l.foldl Block.fftTest b).slots = b.slots := by
  induction l generalizing b with
  | nil => exact ⟨fun p => by simp, rfl⟩
  | cons q t ih =>
    have hq := Block.fftTest_part hwf (hidle q (by simp))
    obtain ⟨hgo, hslots⟩ := ih (b.fftTest q) (hq q).2.2.1 fun x hx => (hq x).2.1 (hidle x (by simp [hx]))
    refine ⟨fun p => ?_, hslots.trans (hq q).2.2.2⟩
    rw [List.foldl_cons, hgo, (hq p).1]
    by_cases h : p = q <;> simp [h]

/-- With every job unbound, every partition is idle. -/
theorem Block.idle_of_noJobs (h : b.noJobs = true) {p : Nat} (hp : p < 12) : (b.part p).idle := by
  have hall := List.all_eq_true.1 h p (List.mem_range.2 hp)
  simpa [Part.idle] using hall

/-- PKG_FFT with every job unbound and no test running starts the test on the partitions in service and no other (R375). -/
theorem Block.fftPackage_part (hwf : smWf {} b.parts = true) (hjobs : b.noJobs = true) {p : Nat} (hp : p < 12) (hgo : (b.part p).fftGo = false) :
    (b.fftPackage.part p).fftGo = b.partIn p ∧ b.fftPackage.slots = b.slots := by
  obtain ⟨hrun, hslots⟩ := foldl_fftTest ((List.range 12).filter b.partIn) b hwf fun q hq =>
    Block.idle_of_noJobs hjobs (List.mem_range.1 (List.mem_filter.1 hq).1)
  refine ⟨(hrun p).trans ?_, hslots⟩
  simp [hgo, hp]

end Sys2Proof.Machine
end

section
/-! Vendor-defined commands and EYEP_HALT (R434, R437, R438, Table 16.7). -/

namespace Sys2Proof.Machine

variable {b b' : Block} {req : Requester} {data : List Nat} {sig : Bool} {code : Nat} {d : List Nat}

/-! Each command by its number. -/

theorem Block.vendor_read32 : b.vendor req 1 data sig =
    if data.length ≠ 4 then (2, [], b)
    else if leNat (data.take 4) % 4 ≠ 0 then b.badAccess.refuse
    else (0, leBytes 4 (b.readWord (leNat (data.take 4))).1, (b.readWord (leNat (data.take 4))).2) := rfl

theorem Block.vendor_write32 : b.vendor req 2 data sig =
    if data.length ≠ 8 then (2, [], b)
    else if !bit (b.reg .mgmt 0x040) 24 then b.refuse
    else if leNat (data.take 4) % 4 ≠ 0 then b.badAccess.refuse
    else (0, [], b.writeWord (leNat (data.take 4)) (leNat ((data.drop 4).take 4)) req) := rfl

theorem Block.vendor_warmReset : b.vendor req 3 data sig =
    if data.length ≠ 0 then (2, [], b) else if !bit (b.reg .mgmt 0x040) 24 then b.refuse else (0, [], b.askWarm) := rfl

theorem Block.vendor_pkgFft : b.vendor req 4 data sig =
    if data.length ≠ 0 then (2, [], b)
    else if !b.noJobs then b.refuse
    else if (List.range 12).any fun p => (b.part p).fftGo then (3, [], b)
    else (0, [], b.fftPackage) := rfl

theorem Block.vendor_eyepNonce : b.vendor req 6 data sig = if data.length ≠ 0 then (2, [], b) else b.eyepNonce := rfl

theorem Block.vendor_eyepUnlock : b.vendor req 7 data sig = if data.length ≠ 160 then (2, [], b) else b.eyepUnlock data sig := rfl

theorem Block.vendorCmd_answer {cmd : Nat} (h : b.vendor .mgmtCtl cmd data sig = (code, d, b')) :
    b.vendorCmd cmd data sig = b'.emit (.mctp 0x7E code d) := by
  unfold Block.vendorCmd
  rw [h]
  rfl

/-- Settling looks at the command's effect on the block alone. -/
theorem Block.settling_congr {f g : Block → Block} (h : f b = g b) : b.settling f = b.settling g := by
  unfold Block.settling
  rw [h]

/-! The commands, with the gates before them passed. -/

section
variable {s : State} (hr : s.blk.boot.power ≠ .reset) (hd : s.blk.boot.power ≠ .dark) {bytes : List Byte}
include hr hd

theorem exec_read32 (h : s.blk.vendor .mgmtCtl 1 (bytes.map (·.toNat)) false = (code, d, b')) :
    exec (.read32 bytes) s = .next (s.withBlk (b'.emit (.mctp 0x7E code d))) := by
  show execRead32 bytes s = _
  unfold execRead32
  rw [State.onBlock_eq, Block.awake_on _ hr hd, Block.vendorCmd_answer h]

theorem exec_write32 :
    exec (.write32 bytes) s = .next (s.withBlk (s.blk.settling fun b => b.vendorCmd 2 (bytes.map (·.toNat)) false)) := by
  show execWrite32 bytes s = _
  unfold execWrite32
  rw [State.onBlock_eq, Block.awake_on _ hr hd]

/-- WRITE32 where it leaves nothing to settle. -/
theorem exec_write32_settled (h : s.blk.vendor .mgmtCtl 2 (bytes.map (·.toNat)) false = (code, d, b')) (hs : b'.Settled) :
    exec (.write32 bytes) s = .next (s.withBlk (b'.emit (.mctp 0x7E code d))) := by
  rw [exec_write32 hr hd, Block.settling_settled _ (by rw [Block.vendorCmd_answer h]; exact hs), Block.vendorCmd_answer h]

theorem exec_warmReset (h : s.blk.vendor .mgmtCtl 3 (bytes.map (·.toNat)) false = (code, d, b')) :
    exec (.warmReset bytes) s = .next (s.withBlk (b'.emit (.mctp 0x7E code d))) := by
  show execWarmReset bytes s = _
  unfold execWarmReset
  rw [State.onBlock_eq, Block.awake_on _ hr hd, Block.vendorCmd_answer h]

theorem exec_pkgFft (h : s.blk.vendor .mgmtCtl 4 (bytes.map (·.toNat)) false = (code, d, b')) :
    exec (.pkgFft bytes) s = .next (s.withBlk (b'.emit (.mctp 0x7E code d))) := by
  show execPkgFft bytes s = _
  unfold execPkgFft
  rw [State.onBlock_eq, Block.awake_on _ hr hd, Block.vendorCmd_answer h]

theorem exec_eyepNonce (h : s.blk.vendor .mgmtCtl 6 (bytes.map (·.toNat)) false = (code, d, b')) :
    exec (.eyepNonce bytes) s = .next (s.withBlk (b'.emit (.mctp 0x7E code d))) := by
  show execEyepNonce bytes s = _
  unfold execEyepNonce
  rw [State.onBlock_eq, Block.awake_on _ hr hd, Block.vendorCmd_answer h]

theorem exec_eyepUnlock (h : s.blk.vendor .mgmtCtl 7 (bytes.map (·.toNat)) sig = (code, d, b')) :
    exec (.eyepUnlock bytes sig) s = .next (s.withBlk (b'.emit (.mctp 0x7E code d))) := by
  show execEyepUnlock bytes sig s = _
  unfold execEyepUnlock
  rw [State.onBlock_eq, Block.awake_on _ hr hd, Block.vendorCmd_answer h]

theorem exec_forward (g : BitVec 16) :
    exec (.forward g bytes) s = .next (s.withBlk (s.blk.settling fun b => b.forwardCmd g.toNat (bytes.map (·.toNat)))) := by
  show execForward g bytes s = _
  unfold execForward
  rw [State.onBlock_eq, Block.awake_on _ hr hd]

/-- FORWARD where it leaves nothing to settle. -/
theorem exec_forward_settled (g : BitVec 16) (h : s.blk.forwardCmd g.toNat (bytes.map (·.toNat)) = b') (hs : b'.Settled) :
    exec (.forward g bytes) s = .next (s.withBlk b') := by
  subst h
  rw [exec_forward hr hd, Block.settling_settled (fun b => b.forwardCmd g.toNat (bytes.map (·.toNat))) hs]

/-- EYEP_HALT's run bit, a guarded RW field. -/
theorem exec_eyepHalt_run (on : Bool) :
    exec (.eyepHalt req (.run on)) s = .next (s.withBlk (s.blk.guard .eyep req 0x054
      ((s.blk.core (s.blk.fld .eyep 0x050 16 4) (s.blk.fld .eyep 0x050 0 8)).halted ≠ on) fun b => b.eyepHalt on)) := by
  show execEyepHalt req (.run on) s = _
  unfold execEyepHalt
  rw [State.onBlock_eq, Block.awake_on _ hr hd]

/-- EYEP_HALT's accesses to the halted core. -/
theorem exec_eyepHalt_access {op : HaltOp} (hop : ∀ on, op ≠ .run on) (hj : req ≠ .job) :
    exec (.eyepHalt req op) s = .next (s.withBlk (s.blk.eyepAccess op)) := by
  show execEyepHalt req op s = _
  unfold execEyepHalt
  rw [State.onBlock_eq, Block.awake_on _ hr hd]
  cases op with
  | run on => exact absurd rfl (hop on)
  | _ => exact congrArg (fun b => Host.Outcome.next (s.withBlk b)) (Block.guardW_open _ hj)

end

/-! The nonce and the token (R437). -/

theorem leNat_append (l l' : List Nat) : leNat (l ++ l') = leNat l + 256 ^ l.length * leNat l' := by
  induction l with
  | nil => simp [leNat]
  | cons x t ih =>
    simp only [List.cons_append, leNat, ih, List.length_cons, pow_succ]
    ring

/-- The bytes of a word give back its value. -/
theorem leNat_leBytes (n v : Nat) : leNat (leBytes n v) = v % 256 ^ n := by
  induction n generalizing v with
  | zero => simp [leBytes, leNat, Nat.mod_one]
  | succ n ih =>
    have hcons : leBytes (n + 1) v = v % 256 :: leBytes n (v / 256) := by
      simp only [leBytes, List.range_succ_eq_map, List.map_cons, List.map_map, Nat.mul_zero, pow_zero, Nat.div_one]
      congr 1
      refine List.map_congr_left fun i _ => ?_
      show v / 2 ^ (8 * (i + 1)) % 256 = v / 2 ^ 8 / 2 ^ (8 * i) % 256
      rw [Nat.div_div_eq_div_mul, ← pow_add, Nat.mul_succ, Nat.add_comm]
    rw [hcons, leNat, ih, Nat.mod_mod, pow_succ', Nat.mod_mul]

/-- EYEP_NONCE answers 16 bytes, and keeps the number that they spell. -/
theorem Block.eyepNonce_kept (b : Block) : ∃ d fv', d.length = 16 ∧
    b.eyepNonce = (0, d, { b with fv := fv', eyep := { b.eyep with nonce := some (leNat d) } }) := by
  refine ⟨leBytes 8 (Config.freeWord b.fv).toNat ++ leBytes 8 (Config.freeWord (b.fv + 1)).toNat, b.fv + 2, by simp, ?_⟩
  have h0 := (Config.freeWord b.fv).isLt
  have h1 := (Config.freeWord (b.fv + 1)).isLt
  rw [leNat_append, leNat_leBytes, leNat_leBytes, leBytes_length, Nat.mod_eq_of_lt (by simpa using h0), Nat.mod_eq_of_lt (by simpa using h1),
    Nat.mul_comm]
  rfl

/-- A right token opens the Eyepiece, and its nonce is spent. -/
theorem Block.eyepUnlock_right {t : List Nat} (hwf : smWf {} b.pages = true)
    (h : leNat (t.take 8) = puid ∧ b.eyep.nonce = some (leNat ((t.drop 8).take 16)) ∧ leNat ((t.drop 28).take 36) = 0 ∧ sig = true) :
    ∃ b', b.eyepUnlock t sig = (0, [], b') ∧ b'.unlocking = (true, none) ∧ b'.causeSet .eyep 0 = true := by
  refine ⟨_, if_pos h, ?_, Block.raise_causeSet_kept { b with eyep := { b.eyep with unlocked := true, nonce := none } } (by decide) hwf
    (Block.log_causesKept _ _ _ (.refl _))⟩
  rw [Block.log_unlocking, Block.raise_unlocking]
  rfl

/-- Any other token leaves it as it is, and is refused. -/
theorem Block.eyepUnlock_wrong {t : List Nat} (hwf : smWf {} b.pages = true)
    (h : ¬ (leNat (t.take 8) = puid ∧ b.eyep.nonce = some (leNat ((t.drop 8).take 16)) ∧ leNat ((t.drop 28).take 36) = 0 ∧ sig = true)) :
    ∃ b', b.eyepUnlock t sig = (1, [], b') ∧ b'.unlocking = b.unlocking ∧ b'.causeSet .eyep 1 = true := by
  refine ⟨_, if_neg h, ?_, Block.raise_causeSet_kept _ (by decide) hwf
    (Block.log_causesKept _ _ _ (Block.log_causesKept _ _ _ (.refl _)))⟩
  rw [Block.log_unlocking, Block.log_unlocking, Block.raise_unlocking]

/-! EYEP_HALT (R438). -/

/-- The core that EYEP_CORE names. -/
def Block.eyepCore (b : Block) : Core := b.core (b.fld .eyep 0x050 16 4) (b.fld .eyep 0x050 0 8)

/-- A context slot of that core. -/
def Block.eyepSlot (b : Block) (sl : Nat) : Slot := b.slot (b.fld .eyep 0x050 16 4) (b.fld .eyep 0x050 0 8) sl

/-- A core that is halted stays so. -/
theorem Block.eyepHalt_halted (h : b.eyepCore.halted = true) : b.eyepHalt true = b := if_pos h

/-- A locked Eyepiece, or a job bound to the core, refuses the halt. -/
theorem Block.eyepHalt_refused (h : b.eyepCore.halted = false)
    (hno : b.eyep.unlocked = false ∨ (b.eyepSlot 0).bound = true ∨ (b.eyepSlot 1).bound = true) :
    b.eyepHalt true = (b.clamped .eyep 0x054).log .eyep 3 := by
  have hcore : ¬ b.eyepCore.halted = true := by simp [h]
  have hslots : (!b.eyep.unlocked || (b.eyepSlot 0).bound || (b.eyepSlot 1).bound) = true := by simpa [or_assoc] using hno
  exact (if_neg hcore).trans (if_pos hslots)

theorem Block.core_modCore_self (p i : Nat) (f : Core → Core) (hwf : smWf {} b.cores = true) : (b.modCore p i f).core p i = f (b.core p i) :=
  smGet_mod_self ({} : Core) (coreKey p i) f hwf

/-- An unlocked Eyepiece halts a core with no job, raises its cause, and leaves every slot. -/
theorem Block.eyepHalt_halts (h : b.eyepCore.halted = false) (hu : b.eyep.unlocked = true)
    (hfree : ¬ ((b.eyepSlot 0).bound = true ∨ (b.eyepSlot 1).bound = true)) (hp : smWf {} b.pages = true) (hc : smWf {} b.cores = true) :
    (b.eyepHalt true).core (b.fld .eyep 0x050 16 4) (b.fld .eyep 0x050 0 8) = { b.eyepCore with halted := true } ∧
      (b.eyepHalt true).causeSet .eyep 3 = true ∧ (b.eyepHalt true).slots = b.slots := by
  have hcore : ¬ b.eyepCore.halted = true := by simp [h]
  have hslots : ¬ (!b.eyep.unlocked || (b.eyepSlot 0).bound || (b.eyepSlot 1).bound) = true := by simpa [hu] using hfree
  have hrun : b.eyepHalt true =
      (b.modCore (b.fld .eyep 0x050 16 4) (b.fld .eyep 0x050 0 8) fun k => { k with halted := true }).raise .eyep 3 :=
    (if_neg hcore).trans (if_neg hslots)
  rw [hrun, Block.raise_core, Block.raise_slots]
  exact ⟨Block.core_modCore_self _ _ _ hc, Block.raise_causeSet _ (by decide) hp, rfl⟩

/-- An access without an unlocked Eyepiece and a halted core is refused and counted. -/
theorem Block.eyepAccess_refused (op : HaltOp) (h : b.eyep.unlocked = false ∨ b.eyepCore.halted = false) : b.eyepAccess op = b.log .eyep 3 :=
  if_pos (by simpa [Block.eyepCore] using h)

/-- With both, it is served. -/
theorem Block.eyepAccess_served (hu : b.eyep.unlocked = true) (hh : b.eyepCore.halted = true) :
    ¬ (!b.eyep.unlocked || !b.eyepCore.halted) = true := by simp [hu, hh]

/-- A run bit that the write would not change stays, whether HDR_LOCK shuts the requester out or a halted core is halted. -/
theorem Block.guard_eyepHalt_same {on : Bool} (h : b.eyepCore.halted = on) (hmay : b.MayWrite .eyep req ∨ (req ≠ .job ∧ b.lockedOut .eyep req = true))
    (hon : on = true ∨ b.lockedOut .eyep req = true) :
    b.guard .eyep req 0x054 (b.eyepCore.halted ≠ on) (fun b => b.eyepHalt on) = b := by
  rcases hmay with hmay | ⟨hj, hlk⟩
  · obtain rfl : on = true := hon.resolve_right (by simp [hmay.2])
    exact (Block.guard_open _ _ _ hmay).trans (Block.eyepHalt_halted h)
  · rw [Block.guard_locked _ _ _ hj hlk]
    exact if_neg (by simpa using h)

/-- A run bit that HDR_LOCK keeps from changing counts a clamp. -/
theorem Block.guard_eyepHalt_locked {on : Bool} (h : b.eyepCore.halted ≠ on) (hj : req ≠ .job) (hlk : b.lockedOut .eyep req = true) :
    b.guard .eyep req 0x054 (b.eyepCore.halted ≠ on) (fun b => b.eyepHalt on) = b.clamped .eyep 0x054 := by
  rw [Block.guard_locked _ _ _ hj hlk]
  exact if_pos (by simpa using h)

/-- Settles O56: each command passes the gates before it, and then does what the lemmas above say of it. -/
theorem vendorCommandsAndEyepieceHalt : Obligations.VendorCommandsAndEyepieceHalt := by
  unfold Obligations.VendorCommandsAndEyepieceHalt
  intro s data g sig on req p op sl r r' v m c td pc fl al ve b bytes ends told refused wr off val n token hp hi halt busy
    hr hd hs hpages hcores hparts
  have hlen : bytes.length = data.length := by simp [bytes]
  have hread (h4 : data.length = 4) : ¬ bytes.length ≠ 4 := not_not.2 (hlen.trans h4)
  have hwrite (h8 : data.length = 8) : ¬ bytes.length ≠ 8 := not_not.2 (hlen.trans h8)
  have htoken (h160 : data.length = 160) : ¬ bytes.length ≠ 160 := not_not.2 (hlen.trans h160)
  have hinner (hne : data ≠ []) : ¬ bytes.isEmpty = true := by simpa [bytes] using hne
  have hempty : ¬ ([] : List Nat).length ≠ 0 := by simp
  have hlog : (b.log .mgmt 4).Settled := by simpa [Block.Settled] using hs
  have hbad : (b.badAccess.log .mgmt 4).Settled := by simpa [Block.badAccess, Block.Settled] using hs
  have hrun (on : Bool) : exec (.eyepHalt req (.run on)) s = .next (s.withBlk (b.guard .eyep req 0x054 (b.eyepCore.halted ≠ on) fun b => b.eyepHalt on)) :=
    exec_eyepHalt_run hr hd on
  refine ⟨fun hn => ?_, fun h4 => ⟨fun ho => ?_, fun v b1 ho hv => ?_⟩, fun hn => ?_,
    fun h8 => ⟨fun hw => ?_, fun hw ho => ?_, fun hw ho => ?_⟩, fun hne => ?_, fun hw => ?_, fun hw => ?_, fun hj => ?_,
    fun hj => ⟨fun q hq => ?_, fun hq => ?_⟩, ?_, fun hne => ⟨fun hself hreach => ?_, fun hto => ⟨fun hroom => ?_, fun hroom => ?_⟩⟩,
    ?_, fun hn => ?_, fun h160 => ⟨fun htok => ?_, fun htok => ?_⟩, fun hsame hmay hon => ?_,
    fun hmay => ⟨fun hh hu hfree => ?_, fun hh hno => ?_, ?_⟩, fun hj hlk hh => ?_, fun hj hop hno => ?_, fun hj hu hh => ?_⟩
  · exact exec_read32 hr hd (by rw [Block.vendor_read32, if_pos (hlen ▸ hn)])
  · exact exec_read32 hr hd (by rw [Block.vendor_read32, if_neg (hread h4), if_pos ho]; rfl)
  · exact exec_read32 hr hd (by rw [Block.vendor_read32, if_neg (hread h4), if_neg (not_not.2 ho)]; rw [hv])
  · exact exec_write32_settled hr hd (by rw [Block.vendor_write32, if_pos (hlen ▸ hn)]) hs
  · exact exec_write32_settled hr hd (by rw [Block.vendor_write32, if_neg (hwrite h8), if_pos (by simpa using hw)]; rfl) hlog
  · refine exec_write32_settled hr hd ?_ hbad
    rw [Block.vendor_write32, if_neg (hwrite h8), if_neg (by simpa using hw), if_pos ho]
    rfl
  · rw [exec_write32 hr hd]
    refine congrArg (fun b => Host.Outcome.next (s.withBlk b)) (Block.settling_congr (Block.vendorCmd_answer ?_))
    have hval : (bytes.drop 4).take 4 = bytes.drop 4 := List.take_of_length_le (by simp [hlen, h8])
    rw [Block.vendor_write32, if_neg (hwrite h8), if_neg (by simpa using hw), if_neg (not_not.2 ho), hval]
  · have hn : bytes.length ≠ 0 := fun h => hne (List.length_eq_zero_iff.1 (hlen ▸ h))
    exact ⟨exec_warmReset hr hd (by rw [Block.vendor_warmReset, if_pos hn]), exec_pkgFft hr hd (by rw [Block.vendor_pkgFft, if_pos hn]),
      exec_eyepNonce hr hd (by rw [Block.vendor_eyepNonce, if_pos hn])⟩
  · exact exec_warmReset hr hd (by rw [Block.vendor_warmReset, List.map_nil, if_neg hempty, if_pos (by simpa using hw)]; rfl)
  · refine ⟨b.askWarm.emit (.mctp 0x7E 0 []), exec_warmReset hr hd ?_, rfl, rfl, rfl, rfl, rfl⟩
    rw [Block.vendor_warmReset, List.map_nil, if_neg hempty, if_neg (by simpa using hw)]
  · exact exec_pkgFft hr hd (by rw [Block.vendor_pkgFft, List.map_nil, if_neg hempty, if_pos (by simpa using hj)]; rfl)
  · have hany : ((List.range 12).any fun p => (b.part p).fftGo) = true := List.any_eq_true.2 ⟨q, List.mem_range.2 q.isLt, hq⟩
    exact exec_pkgFft hr hd (by rw [Block.vendor_pkgFft, List.map_nil, if_neg hempty, if_neg (by simpa using hj), if_pos hany])
  · have hidle (q : Nat) (hlt : q < 12) : (b.part q).fftGo = false := hq ⟨q, hlt⟩
    have hnone : ¬ ((List.range 12).any fun p => (b.part p).fftGo) = true := by simpa using hidle
    obtain ⟨htest, hslots⟩ := Block.fftPackage_part hparts hj p.isLt (hidle p p.isLt)
    refine ⟨b.fftPackage.emit (.mctp 0x7E 0 []), exec_pkgFft hr hd ?_, htest, hslots, rfl⟩
    rw [Block.vendor_pkgFft, List.map_nil, if_neg hempty, if_neg (by simpa using hj), if_neg hnone]
  · exact exec_forward_settled hr hd g rfl hs
  · exact exec_forward_settled hr hd g ((if_neg (hinner hne)).trans (if_pos (by simpa using ⟨hself, hreach⟩))) (by simpa [Block.Settled] using hs)
  · refine exec_forward_settled hr hd g ?_ hs
    exact (if_neg (hinner hne)).trans ((if_neg (by simpa [← Bool.not_eq_true, imp_iff_not_or] using hto)).trans (if_pos (by simpa using hroom)))
  · rw [exec_forward hr hd]
    refine congrArg (fun b => Host.Outcome.next (s.withBlk b)) (Block.settling_congr ?_)
    exact (if_neg (hinner hne)).trans ((if_neg (by simpa [← Bool.not_eq_true, imp_iff_not_or] using hto)).trans (if_neg (by simpa using hroom)))
  · obtain ⟨d, fv', hd16, hnonce⟩ := b.eyepNonce_kept
    exact ⟨d, fv', hd16, exec_eyepNonce hr hd (by rw [Block.vendor_eyepNonce, List.map_nil, if_neg hempty]; exact hnonce)⟩
  · exact exec_eyepUnlock hr hd (by rw [Block.vendor_eyepUnlock, if_pos (hlen ▸ hn)])
  · obtain ⟨b', hopens, hlock, hcause⟩ := Block.eyepUnlock_right hpages htok
    exact ⟨_, exec_eyepUnlock hr hd (by rw [Block.vendor_eyepUnlock, if_neg (htoken h160)]; exact hopens),
      congrArg Prod.fst hlock, congrArg Prod.snd hlock, hcause, rfl⟩
  · obtain ⟨b', hrefuses, hlock, hcause⟩ := Block.eyepUnlock_wrong hpages htok
    exact ⟨_, exec_eyepUnlock hr hd (by rw [Block.vendor_eyepUnlock, if_neg (htoken h160)]; exact hrefuses),
      congrArg Prod.fst hlock, congrArg Prod.snd hlock, hcause, rfl⟩
  · rw [hrun, Block.guard_eyepHalt_same hsame hmay hon, State.withBlk_self]
  · exact ⟨b.eyepHalt true, by rw [hrun, Block.guard_open _ _ _ hmay], Block.eyepHalt_halts hh hu hfree hpages hcores⟩
  · rw [hrun, Block.guard_open _ _ _ hmay, Block.eyepHalt_refused hh hno]
  · rw [hrun, Block.guard_open _ _ _ hmay]
    rfl
  · rw [hrun, Block.guard_eyepHalt_locked hh hj hlk]
  · rw [exec_eyepHalt_access hr hd hop hj, Block.eyepAccess_refused op hno]
  · have hserve := Block.eyepAccess_served hu hh
    have served {op : HaltOp} {b' : Block} (hop : ∀ on, op ≠ .run on) (h : b.eyepAccess op = b') :
        exec (.eyepHalt req op) s = .next (s.withBlk b') := by
      rw [exec_eyepHalt_access hr hd hop hj, h]
    refine ⟨served nofun (if_neg hserve), served nofun (if_neg hserve),
      ⟨served nofun (if_neg hserve), served nofun (if_neg hserve), served nofun (if_neg hserve), served nofun (if_neg hserve),
       served nofun (if_neg hserve), served nofun (if_neg hserve), served nofun (if_neg hserve), served nofun (if_neg hserve),
       served nofun (if_neg hserve), fun hok => ?_, fun hbad => ?_, served nofun (if_neg hserve), served nofun (if_neg hserve)⟩,
      fun hclean => ?_, fun hpois => ?_, served nofun (if_neg hserve)⟩
    · exact served nofun ((if_neg hserve).trans (if_neg (by simp [hok])))
    · exact served nofun ((if_neg hserve).trans (if_pos hbad))
    · exact served nofun ((if_neg hserve).trans (if_neg fun h => Bool.noConfusion (hclean.symm.trans h)))
    · exact served nofun ((if_neg hserve).trans (if_pos hpois))

end Sys2Proof.Machine
end

section
/-! The package right after reset (R45, R46, R128, R338, R346). -/

namespace Sys2Proof.Machine

/-- Memory, the links and every other list of units are in canonical form after reset. -/
theorem reset_listsCanonical : State.reset.blk.ListsCanonical := by
  refine ⟨reset_ram_wf, ?_⟩
  decide

/-- The power limit, the shed floor and the facility's target read their reset values (Table 13.9). -/
theorem reset_powerLimits : State.reset.blk.ppl = 3200 ∧ State.reset.blk.shedFloor = 900 ∧ State.reset.blk.target = 0 := by
  decide +kernel

/-- No word spells a command (assumption log 100), so the queue takes none from a fetched word. -/
theorem State.withFetchWord_self (s : State) (nbits w : Nat) : s.withFetchWord nbits w = s := rfl

/-- Settles O59: the reset block lists no header and no slot, so each reads its default. -/
theorem stateAfterReset : Obligations.StateAfterReset := by
  unfold Obligations.StateAfterReset
  rintro b rfl
  obtain ⟨hppl, hfloor, htarget⟩ := reset_powerLimits
  exact ⟨rfl, reset_listsCanonical, rfl, rfl, rfl, rfl, hppl, hfloor, htarget, fun _ => ⟨rfl, rfl, rfl⟩,
    fun _ _ _ => ⟨rfl, rfl, rfl⟩, fun nbits w => ⟨rfl, State.withFetchWord_self _ nbits w⟩⟩

end Sys2Proof.Machine
end

section
/-! What the frames turn on (R47, R64) is left alone by the package's bookkeeping: Logbook counters, causes with their trace records and
platform events, job faults, and accesses to memory with the errors they meet. The count of period mismatches (R63) is left alone too. -/

namespace Sys2Proof.Machine

/-! Maps. -/

/-- From the map `m` to the map `m'` the canonical form is kept, and `f` of the value at each key. -/
def MapKept {α β : Type} [DecidableEq α] (d : α) (f : α → β) (m m' : SMap α) : Prop :=
  smWf d m = true → smWf d m' = true ∧ ∀ k, f (smGet d m' k) = f (smGet d m k)

section
variable {α β : Type} [DecidableEq α] {d : α} {f : α → β} {m m' m'' : SMap α}

theorem MapKept.refl (m : SMap α) : MapKept d f m m := fun h => ⟨h, fun _ => rfl⟩

theorem MapKept.trans (h : MapKept d f m m') (h' : MapKept d f m' m'') : MapKept d f m m'' := fun hm => by
  obtain ⟨hm', hf⟩ := h hm
  obtain ⟨hm'', hf'⟩ := h' hm'
  exact ⟨hm'', fun k => (hf' k).trans (hf k)⟩

/-- A change of one value that `f` does not see. -/
theorem MapKept.mod (m : SMap α) (k : Nat) {g : α → α} (hg : ∀ x, f (g x) = f x) : MapKept d f m (smMod d m k g) := fun hm => by
  refine ⟨smWf_mod d k g hm, fun j => ?_⟩
  by_cases hj : j = k
  · rw [hj, smGet_mod_self d k g hm, hg]
  · rw [smGet_mod_ne d g hj]

end

/-! What is kept. -/

/-- What frames turn on beside the partitions and the page headers: the time, the slots, the frame-bound writes, the transaction unit,
the collective sends and votes that wait, Meridian's state and count. -/
structure FrameView where
  timeUs : Nat
  slots : SMap Slot
  frameBound : List FbWrite
  xu : Xu
  outbox : List (Nat × Pkt × XOrigin)
  votes : List CVote
  state : MState
  count : Nat

def Block.frameView (s : Block) : FrameView :=
  ⟨s.timeUs, s.slots, s.frameBound, s.xu, s.coll.outbox, s.coll.votes, s.merid.state, s.merid.count⟩

/-- A partition without its records of a job fault and of poison, on which no frame turns. -/
def Part.frameView (q : Part) : Part := { q with jf := none, xrec := none, poisonFrame := false }

/-- The number of period mismatches that Meridian has counted (R63). -/
def Block.mismatches (s : Block) : Nat := smGet 0 s.logs (Page.merid.key * 256 + 7)

/-- From `s` to `t` everything is kept on which frames turn, and the count of period mismatches. -/
structure FrameKept (s t : Block) : Prop where
  view : t.frameView = s.frameView
  parts : MapKept {} Part.frameView s.parts t.parts
  pages : MapKept {} PageHdr.draining s.pages t.pages
  mismatches : t.mismatches = s.mismatches

/-- No other counter lies where the period mismatches are counted. -/
theorem counterKey_ne_mismatches (pg : Page) (n : Nat) (hn : n < pg.logCount) (h7 : pg ≠ .merid ∨ n ≠ 7) :
    Page.merid.key * 256 + 7 ≠ pg.key * 256 + n := by
  cases pg with
  | merid => simpa using (h7.resolve_left fun h => h rfl).symm
  | _ => simp only [Page.key, Page.loc, Page.logCount, Page.caps] at hn ⊢; omega

namespace FrameKept

theorem refl (s : Block) : FrameKept s s := ⟨rfl, .refl _, .refl _, rfl⟩

variable {s t u : Block}

theorem trans (h : FrameKept s t) (h' : FrameKept t u) : FrameKept s u :=
  ⟨h'.view.trans h.view, h.parts.trans h'.parts, h.pages.trans h'.pages, h'.mismatches.trans h.mismatches⟩

/-- A change of other fields. -/
theorem other (h : FrameKept s t) (hv : u.frameView = t.frameView) (hp : u.parts = t.parts) (hh : u.pages = t.pages)
    (hl : u.logs = t.logs) : FrameKept s u :=
  h.trans ⟨hv, by rw [hp]; exact .refl _, by rw [hh]; exact .refl _, by rw [Block.mismatches, hl, Block.mismatches]⟩

/-- A fold whose every step keeps it keeps it. -/
theorem foldl {β : Type} (f : Block → β → Block) (hf : ∀ t b, FrameKept t (f t b)) (l : List β) (h : FrameKept s t) :
    FrameKept s (l.foldl f t) :=
  foldl_keeps (FrameKept s) f (fun t b ht => ht.trans (hf t b)) l h

variable (h : FrameKept s t)
include h

theorem modPart (p : Nat) (f : Part → Part) (hf : ∀ q, (f q).frameView = q.frameView) : FrameKept s (t.modPart p f) :=
  h.trans ⟨rfl, .mod _ p hf, .refl _, rfl⟩

theorem modMsc (p : Nat) (f : Msc → Msc) : FrameKept s (t.modMsc p f) := h.other rfl rfl rfl rfl
theorem modHbmc (p : Nat) (f : Hbmc → Hbmc) : FrameKept s (t.modHbmc p f) := h.other rfl rfl rfl rfl
theorem modCapc (d : Nat) (f : Capc → Capc) : FrameKept s (t.modCapc d f) := h.other rfl rfl rfl rfl
theorem emit (o : Out) : FrameKept s (t.emit o) := h.other rfl rfl rfl rfl
theorem ram (r : Ram) : FrameKept s { t with ram := r } := h.other rfl rfl rfl rfl

/-! Logbook counters and interrupts. -/

theorem modIrq (pg : Page) (f : PageHdr → PageHdr) (hf : ∀ x, (f x).draining = x.draining) : FrameKept s (t.modIrq pg f) := by
  refine h.trans ⟨by simp [Block.frameView], by rw [Block.modIrq_parts]; exact .refl _, ?_, by simp [Block.mismatches]⟩
  rw [Block.modIrq_pages]
  exact .mod _ _ hf

/-- Causes are set. -/
theorem cause (pg : Page) (x : Word) : FrameKept s (t.modIrq pg fun h => { h with irqStat := h.irqStat ||| x }) :=
  h.modIrq pg _ fun _ => rfl

theorem logs (u : Block) (hl : u = { t with logs := u.logs }) (h7 : u.mismatches = t.mismatches) : FrameKept s u :=
  h.trans ⟨by rw [hl]; rfl, by rw [hl]; exact .refl _, by rw [hl]; exact .refl _, h7⟩

theorem log (pg : Page) (n : Nat) (h7 : pg ≠ .merid ∨ n ≠ 7) : FrameKept s (t.log pg n) := by
  unfold Block.log
  split
  · exact h
  · rename_i hon
    have hn : n < pg.logCount := by simp at hon; exact hon.2
    have hput := h.logs { t with logs := smPut 0 t.logs (pg.key * 256 + n) (sat16 (smGet 0 t.logs (pg.key * 256 + n))) } rfl
      (smGet_put_ne 0 _ (counterKey_ne_mismatches pg n hn h7))
    dsimp only
    split
    · exact hput.cause pg _
    · exact hput

theorem logN (pg : Page) (n k : Nat) (h7 : pg ≠ .merid ∨ n ≠ 7) : FrameKept s (t.logN pg n k) := by
  unfold Block.logN
  split
  · exact h
  · rename_i hon
    have hn : n < pg.logCount := by simp at hon; exact hon.1.2
    have hput := h.logs { t with logs := smPut 0 t.logs (pg.key * 256 + n) (Nat.min (smGet 0 t.logs (pg.key * 256 + n) + k) 0xFFFF) } rfl
      (smGet_put_ne 0 _ (counterKey_ne_mismatches pg n hn h7))
    dsimp only
    split
    · exact hput.cause pg _
    · exact hput

/-! The memory-side caches, the stacks and the capacity devices. -/

theorem hbmErr (p k y x : Nat) : FrameKept s (t.hbmErr p k y x) := h.other rfl rfl rfl rfl
theorem capErr (d k y x : Nat) : FrameKept s (t.capErr d k y x) := h.other rfl rfl rfl rfl
theorem modLine (p k : Nat) (f : MLine → MLine) : FrameKept s (t.modLine p k f) := h.other rfl rfl rfl rfl
theorem touch (p k : Nat) : FrameKept s (t.touch p k) := h.other rfl rfl rfl rfl
theorem lineWrite (p k x : Nat) (bs : List Nat) (po : Bool) (mk : List (Nat × Nat)) : FrameKept s (t.lineWrite p k x bs po mk) :=
  h.other rfl rfl rfl rfl

theorem hbmRead (p x n : Nat) : FrameKept s (t.hbmRead p x n) := by
  refine foldl _ (fun u a => ?_) _ (h.modHbmc p _)
  split
  · exact ((refl u).log (.hbmc p) 4 (.inl nofun)).hbmErr p 2 0xFF a
  · exact refl u

theorem hbmWrite (p x n : Nat) : FrameKept s (t.hbmWrite p x n) := (h.modHbmc p _).logN (.hbmc p) 3 _ (.inl nofun)

theorem mergeReads (p x n : Nat) : FrameKept s (t.mergeReads p x n) :=
  (foldl _ (fun u a => (refl u).hbmRead p a 64) _ h).logN (.hbmc p) 5 _ (.inl nofun)

theorem writeBack (p k : Nat) : FrameKept s (t.writeBack p k) := by
  unfold Block.writeBack
  split
  · split
    · exact (((h.ram _).modMsc p _).modLine p k _).hbmWrite p _ 128
    · exact h
  · exact h

theorem dropLine (p k : Nat) : FrameKept s (t.dropLine p k) := by
  unfold Block.dropLine
  split
  · dsimp only
    split
    · exact h.modMsc p _
    · exact (h.modMsc p _).ram _
  · exact h

theorem keepRoom (p n : Nat) : FrameKept s (t.keepRoom p n) := by
  unfold Block.keepRoom
  dsimp only
  split
  · split
    · exact (h.modLine p _ _).log (.msc p) 5 (.inl nofun)
    · exact h
  · exact h

theorem markKeep (p k : Nat) : FrameKept s (t.markKeep p k) := by
  unfold Block.markKeep
  split
  · split
    · exact h
    · exact (h.keepRoom p _).modLine p k _
  · exact h

theorem fill (p n : Nat) (fetch keep : Bool) : FrameKept s (t.fill p n fetch keep).2 := by
  have hroom (c : Bool) : FrameKept s (if c = true then t.keepRoom p n else t) := by
    split
    · exact h.keepRoom p n
    · exact h
  unfold Block.fill
  split
  · exact h
  · dsimp only
    split
    · exact hroom _
    · have hdrop (k : Nat) := ((hroom (keep && decide (t.fld (.msc p) 0x040 8 4 ≠ 0))).writeBack p k).dropLine p k
      split
      · exact ((hdrop _).hbmRead p _ 128).modMsc p _
      · exact (hdrop _).modMsc p _

theorem mscPut (p x : Nat) (bs : List Nat) : FrameKept s (t.mscPut p x bs) := by
  unfold Block.mscPut
  split
  · exact ((h.modMsc p _).lineWrite p _ x bs false []).touch p _
  · have hfill := (h.modMsc p fun m => { m with misses := m.misses + 1 }).fill p (x / 128) (decide (bs.length < 128)) false
    dsimp only
    split <;> rename_i he <;> rw [he] at hfill
    · exact hfill.lineWrite p _ x bs false []
    · exact (((hfill.modMsc p _).mergeReads p x _).ram _).hbmWrite p x _

theorem useCheck (d x : Nat) (c : Bool) : FrameKept s (t.useCheck d x c) := by
  unfold Block.useCheck
  dsimp only
  split
  · exact (h.log (.capc d) 5 (.inl nofun)).modCapc d _
  · exact h.modCapc d _

theorem capLineRead (d x : Nat) : FrameKept s (t.capLineRead d x) := by
  have hread := (h.useCheck d x false).modCapc d fun c => { c with rdLines := c.rdLines + 1 }
  unfold Block.capLineRead
  dsimp only
  split
  · exact (hread.log (.capc d) 3 (.inl nofun)).capErr d 2 0xFF x
  · exact hread

theorem capLineWrite (d x : Nat) (bs : List Nat) (po : Bool) (mk : List (Nat × Nat)) : FrameKept s (t.capLineWrite d x bs po mk) := by
  have hwrite (r : Ram) := ((h.useCheck d x true).modCapc d fun c => { c with wrLines := c.wrLines + 1 }).ram r
  unfold Block.capLineWrite
  dsimp only
  split
  · exact (hwrite _).log (.capc d) 2 (.inl nofun)
  · exact hwrite _

theorem capPut (d x : Nat) (bs : List Nat) : FrameKept s (t.capPut d x bs) := by
  refine capLineWrite ?_ d x bs false []
  split
  · exact (h.log (.capc d) 4 (.inl nofun)).capLineRead d x
  · exact h

theorem tierWrite (a : Nat) (bs : List Nat) : FrameKept s (t.tierWrite a bs) := by
  refine foldl _ (fun u q => ?_) _ h
  dsimp only
  split
  · exact (refl u).mscPut _ _ _
  · exact (refl u).capPut _ _ _
  · exact (refl u).ram _
  · exact refl u

/-! Trace records, causes, platform events and job faults. -/

theorem traceRec (src off : Nat) (d : List Nat) : FrameKept s (t.traceRec src off d) := by
  have hfresh : FrameKept s { t with fv := t.fv + 1 } := h.other rfl rfl rfl rfl
  have heyep {u : Block} (hu : FrameKept s u) (e : Eyep) : FrameKept s { u with eyep := e } := hu.other rfl rfl rfl rfl
  unfold Block.traceRec Block.fresh
  dsimp only
  split_ifs
  · exact hfresh.emit _
  · exact heyep ((heyep (hfresh.tierWrite _ _) _).cause .eyep 4) _
  · exact heyep (hfresh.tierWrite _ _) _
  · exact (heyep hfresh _).log .eyep 2 (.inl nofun)
  · exact h

theorem trace (src off : Nat) (d : List Nat) : FrameKept s (t.trace src off d) := by
  unfold Block.trace
  dsimp only
  split
  · exact (h.traceRec src off d).traceRec _ _ _
  · exact h.traceRec src off d

theorem raise0 (pg : Page) (n : Nat) : FrameKept s (t.raise0 pg n) := by
  unfold Block.raise0
  split
  · exact h
  · exact (h.cause pg _).trace _ _ _

theorem event (pg : Page) (n : Nat) : FrameKept s (t.event pg n) := by
  unfold Block.event
  dsimp only
  split_ifs
  · exact (h.log .mgmt 8 (.inl nofun)).raise0 .mgmt 5
  · exact h.other rfl rfl rfl rfl
  · exact h

theorem raise (pg : Page) (n : Nat) : FrameKept s (t.raise pg n) := by
  unfold Block.raise
  split
  · exact h
  · exact (h.raise0 pg n).event pg n

theorem jobFault (p cause job detail lcore : Nat) : FrameKept s (t.jobFault p cause job detail lcore) := by
  have hlog := h.log (.part p) 0 (.inl nofun)
  have hrecord (x : Option JobFault) := hlog.modPart p (fun q => { q with jf := x }) fun _ => rfl
  unfold Block.jobFault
  dsimp only
  split
  · exact hlog
  · exact (hrecord _).raise (.part p) 0

theorem observePoison (pg : Page) : FrameKept s (t.observePoison pg) := by
  have hseen := (h.log (.part pg.partOf) 12 (.inl nofun)).modPart pg.partOf (fun q => { q with poisonFrame := true }) fun _ => rfl
  have hlatch (x : Option (Nat × Nat × Nat)) := hseen.other (u := { (t.log (.part pg.partOf) 12).modPart pg.partOf fun q => { q with poisonFrame := true } with poisonLatch := true, poisonFirst := x }) rfl rfl rfl rfl
  unfold Block.observePoison
  dsimp only
  split
  · exact hseen
  · refine FrameKept.raise ?_ (.part pg.partOf) 6
    split
    · exact hlatch _
    · exact (hlatch _).modPart pg.partOf _ fun _ => rfl

end FrameKept

end Sys2Proof.Machine
end

section
/-! Accesses to memory, with the physical errors that they meet, and what moves a job's tensors at a tick, leave alone what the frames
turn on (R324, R327). -/

namespace Sys2Proof.Machine

namespace FrameKept

variable {s t u : Block} (h : FrameKept s t)
include h

/-! Physical errors. -/

theorem almDue (r : AlmRec) : FrameKept s (t.almDue r) := by
  have hmark : FrameKept s (if r.marks then (t.raise .alm 0).log .alm 0 else t) := by
    split
    · exact (h.raise .alm 0).log .alm 0 (.inl nofun)
    · exact h
  unfold Block.almDue
  dsimp only
  generalize (if r.marks then (t.raise .alm 0).log .alm 0 else t) = v at hmark ⊢
  split
  · exact hmark
  · exact hmark.other rfl rfl rfl rfl

theorem retireWay (p w : Nat) : FrameKept s (t.retireWay p w) := by
  have hlines {v : Block} (hv : FrameKept s v) (ks : List Nat) : FrameKept s (ks.foldl (fun s k => (s.writeBack p k).dropLine p k) v) :=
    foldl _ (fun u k => ((refl u).writeBack p k).dropLine p k) ks hv
  unfold Block.retireWay
  split
  · exact h
  · have hgone (ks : List Nat) := (((hlines (h.modMsc p fun m => { m with retired := setBit1 m.retired w }) ks).raise (.msc p) 0).log
      (.msc p) 4 (.inl nofun)).almDue (.way p w)
    dsimp only
    split
    · exact (hgone _).raise (.msc p) 4
    · exact hgone _

theorem wayError (p w : Nat) : FrameKept s (t.wayError p w) := by
  have hcount := (h.modMsc p fun m => if m.errPeriod = t.merid.count / 1024 then m else { m with errPeriod := t.merid.count / 1024, wayErr := [] }).modMsc p
    fun m => { m with wayErr := smMod 0 m.wayErr w (· + 1) }
  unfold Block.wayError
  dsimp only
  split
  · exact hcount.retireWay p w
  · exact hcount

theorem loseUnit (p k x : Nat) : FrameKept s (t.loseUnit p k x) := h.other rfl rfl rfl rfl
theorem loseWord (p k x : Nat) : FrameKept s (t.loseWord p k x) := h.other rfl rfl rfl rfl

theorem mscEvent (p x : Nat) (ev : MemEvent) : FrameKept s (t.mscEvent p x ev) := by
  unfold Block.mscEvent
  cases ev with
  | corrData w => exact (h.log (.msc p) 0 (.inl nofun)).wayError p _
  | corrTag w => exact (h.log (.msc p) 1 (.inl nofun)).wayError p _
  | uncData w =>
    dsimp only
    split
    · exact ((h.log (.msc p) 2 (.inl nofun)).loseWord p _ _).raise (.msc p) 2
    · exact h.log (.msc p) 2 (.inl nofun)
  | uncTag w =>
    have hlog := h.log (.msc p) 3 (.inl nofun)
    dsimp only
    split
    · refine FrameKept.retireWay ?_ p _
      split
      · exact ((hlog.dropLine p _).raise (.msc p) 3).observePoison (.msc p)
      · exact hlog.dropLine p _
    · exact hlog.retireWay p _
  | _ => exact h

theorem hbmEvent (p x : Nat) (ev : MemEvent) : FrameKept s (t.hbmEvent p x ev) := by
  unfold Block.hbmEvent
  cases ev with
  | corrUnit y => exact (h.log (.hbmc p) 0 (.inl nofun)).hbmErr p 0 y x
  | onDie => exact h.log (.hbmc p) 1 (.inl nofun)
  | uncUnit => exact ((h.log (.hbmc p) 2 (.inl nofun)).hbmErr p 1 0xFF x).raise (.hbmc p) 0
  | _ => exact h

theorem capEvent (d x : Nat) (ev : MemEvent) : FrameKept s (t.capEvent d x ev) := by
  unfold Block.capEvent
  cases ev with
  | uncData w => exact ((h.log (.capc d) 1 (.inl nofun)).capErr d 1 0xFF x).raise (.capc d) 0
  | corrUnit y => exact (h.log (.capc d) 0 (.inl nofun)).capErr d 0 y x
  | uncUnit => exact ((h.log (.capc d) 1 (.inl nofun)).capErr d 1 0xFF x).raise (.capc d) 0
  | _ => exact h

theorem sramEvent (a : Nat) (ev : MemEvent) : FrameKept s (t.sramEvent a ev) := by
  unfold Block.sramEvent
  split_ifs
  · dsimp only
    split
    · exact ((h.ram _).log (.core _ _) 9 (.inl nofun)).raise (.core _ _) 2
    · exact h.ram _
  · split
    · exact h.log (.core _ _) 8 (.inl nofun)
    · exact h
  · exact h

theorem arrayEvent (a : Nat) (ev : MemEvent) : FrameKept s (t.arrayEvent a ev).1 := by
  unfold Block.arrayEvent
  split
  · exact h.mscEvent _ _ ev
  · exact h.sramEvent _ ev
  · exact h

/-! Reads and writes. -/

theorem fillEv (p x : Nat) (fetch keep : Bool) (ev : MemEvent) : FrameKept s (t.fillEv p x fetch keep ev).2 := by
  have hfill := h.fill p (x / 128) fetch keep
  unfold Block.fillEv
  split
  · rename_i he
    rw [he] at hfill
    dsimp only
    split
    · dsimp only
      split
      · exact (hfill.hbmEvent p x ev).loseUnit p _ x
      · exact hfill.hbmEvent p x ev
    · exact hfill
  · exact hfill

theorem mscRead (p x n : Nat) (hint : Hint) (ev : MemEvent) : FrameKept s (t.mscRead p x n hint ev).2.2 := by
  have hev := h.mscEvent p x ev
  have hshort (c : Bool) : FrameKept s (if c then (t.mscEvent p x ev).log (.msc p) 6 else t.mscEvent p x ev) := by
    split
    · exact hev.log (.msc p) 6 (.inl nofun)
    · exact hev
  unfold Block.mscRead
  dsimp only
  generalize hc : decide (hint = .lastUse ∧ n < 128) = c
  have hs := hshort c
  generalize (if c = true then (t.mscEvent p x ev).log (.msc p) 6 else t.mscEvent p x ev) = v at hs ⊢
  generalize (if c = true then Hint.stream else hint) = hint
  split
  · have hhit := hs.modMsc p fun m => { m with hits := m.hits + 1 }
    split
    · exact hhit.touch p _
    · exact (hhit.markKeep p _).touch p _
    · exact hhit
    · have hdiscard (c : Bool) (f : Msc → Msc) : FrameKept s (if c then (v.modMsc p fun m => { m with hits := m.hits + 1 }).modMsc p f
          else v.modMsc p fun m => { m with hits := m.hits + 1 }) := by
        split
        · exact hhit.modMsc p f
        · exact hhit
      exact (hdiscard _ _).dropLine p _
  · have hmiss := hs.modMsc p fun m => { m with misses := m.misses + 1 }
    split
    · exact ((hmiss.modMsc p _).hbmRead p x n).hbmEvent p x ev
    · exact hmiss.fillEv p x true _ ev

theorem mscWrite (p x : Nat) (bs : List Nat) (po : Bool) (hint : Hint) (ev : MemEvent) (mk : List (Nat × Nat)) :
    FrameKept s (t.mscWrite p x bs po hint ev mk) := by
  have hlast : FrameKept s (if hint = .lastUse then (t.mscEvent p x ev).log (.msc p) 7 else t.mscEvent p x ev) := by
    split
    · exact (h.mscEvent p x ev).log (.msc p) 7 (.inl nofun)
    · exact h.mscEvent p x ev
  unfold Block.mscWrite
  dsimp only
  generalize (if hint = .lastUse then (t.mscEvent p x ev).log (.msc p) 7 else t.mscEvent p x ev) = v at hlast ⊢
  split
  · have hhit (k : Nat) := (hlast.modMsc p fun m => { m with hits := m.hits + 1 }).lineWrite p k x bs po mk
    split
    · exact (hhit _).touch p _
    · exact ((hhit _).markKeep p _).touch p _
    · exact hhit _
  · have hmiss := hlast.modMsc p fun m => { m with misses := m.misses + 1 }
    split
    · have hmerge := (hmiss.modMsc p fun m => { m with bypass := m.bypass + 1 }).mergeReads p x bs.length
      refine FrameKept.hbmWrite (FrameKept.ram ?_ _) p x _
      split
      · split
        · exact (hmerge.hbmEvent p _ ev).ram _
        · exact hmerge.hbmEvent p _ ev
      · exact hmerge
    · have hfill := hmiss.fillEv p x (decide (bs.length < 128)) (decide (hint = .keep)) ev
      split <;> rename_i he <;> rw [he] at hfill
      · exact hfill.lineWrite p _ x bs po mk
      · exact hfill

theorem capRead (d x n : Nat) (ev : MemEvent) : FrameKept s (t.capRead d x n ev).2.2 := (h.capLineRead d x).capEvent d x ev

theorem capWrite (d x : Nat) (bs : List Nat) (po : Bool) (ev : MemEvent) (mk : List (Nat × Nat)) :
    FrameKept s (t.capWrite d x bs po ev mk) := by
  refine FrameKept.capLineWrite ?_ d x bs po mk
  have hread := ((h.log (.capc d) 4 (.inl nofun)).capLineRead d x).capEvent d x ev
  split
  · dsimp only
    split
    · exact hread.ram _
    · exact hread
  · exact h

theorem readPiece (a : Home) (n : Nat) (hint : Hint) (ev : MemEvent) : FrameKept s (t.readPiece a n hint ev).2.2 := by
  cases a with
  | hbm p x => exact h.mscRead p x n hint ev
  | cap d x => exact h.capRead d x n ev
  | sram a => exact h.sramEvent a ev

theorem writePiece (a : Home) (bs : List Nat) (po : Bool) (hint : Hint) (ev : MemEvent) (mk : List (Nat × Nat)) :
    FrameKept s (t.writePiece a bs po hint ev mk) := by
  cases a with
  | hbm p x => exact h.mscWrite p x bs po hint ev mk
  | cap d x => exact h.capWrite d x bs po ev mk
  | sram a => exact h.ram _

theorem memReadParts (a n : Nat) (hint : Hint) (ev : MemEvent) : FrameKept s (t.memReadParts a n hint ev).2.2 := by
  unfold Block.memReadParts
  dsimp only
  refine foldl_keeps (fun acc : List Nat × List Bool × Block × MemEvent => FrameKept s acc.2.2.1) _ (fun acc q hacc => ?_) _ h
  split
  · exact hacc.readPiece _ _ hint _
  · exact hacc

theorem memRead (a n : Nat) (hint : Hint) (ev : MemEvent) : FrameKept s (t.memRead a n hint ev).2.2 := h.memReadParts a n hint ev

theorem memWrite (a : Nat) (bs : List Nat) (po : Bool) (hint : Hint) (ev : MemEvent) (mk : List (Nat × Nat)) :
    FrameKept s (t.memWrite a bs po hint ev mk) := by
  unfold Block.memWrite
  refine foldl_keeps (fun acc : Block × MemEvent => FrameKept s acc.1) _ (fun acc q hacc => ?_) _ h
  split
  · exact hacc.writePiece _ _ po hint _ _
  · exact hacc

theorem memReadMarked (a n : Nat) (hint : Hint) (ev : MemEvent) : FrameKept s (t.memReadMarked a n hint ev).2.2 :=
  (h.arrayEvent a ev).memReadParts a n hint _

theorem memWriteMarked (a : Nat) (bs : List Nat) (mk : List (Nat × Nat)) (hint : Hint) : FrameKept s (t.memWriteMarked a bs mk hint) :=
  h.memWrite a bs false hint .none mk

/-! Tensors and resident hosts. -/

theorem ephDenied : FrameKept s t.ephDenied := h.log .eph 4 (.inl nofun)

theorem movePage (g : TPage) (toCap : Bool) : FrameKept s (t.movePage g toCap) := by
  have hleaf := h.memRead g.leaf 8 .normal .none
  unfold Block.movePage
  dsimp only
  generalize (if toCap then g.home else g.cap) = src
  generalize (if toCap then g.cap else g.home) = dest
  have hread := hleaf.memReadMarked src g.size .normal .none
  split
  · exact h.ephDenied
  · split_ifs
    · exact hleaf.observePoison (.rhost 0)
    · exact hleaf
    · exact (hread.memWriteMarked _ _ _ _).memWrite _ _ _ _ _ _
    · exact ((hread.observePoison (.rhost 0)).memWriteMarked _ _ _ _).memWrite _ _ _ _ _ _
    · exact hleaf.memWrite _ _ _ _ _ _

theorem putChoice (x : Tensor) (v : Nat) : FrameKept s (t.putChoice x v) := by
  unfold Block.putChoice
  split_ifs
  · exact h
  · exact h.memWrite _ _ _ _ _ _
  · exact h.ephDenied

theorem modMmu (p : Nat) (f : Mmu → Mmu) : FrameKept s (t.modMmu p f) := h.other rfl rfl rfl rfl

theorem placeTensors (job : Nat) : FrameKept s (t.placeTensors job) := by
  unfold Block.placeTensors
  split
  · exact h
  · refine foldl _ (fun u p => (refl u).modMmu p _) _ (foldl _ (fun u x => ?_) _ h)
    have hpages (c toCap : Bool) : FrameKept u (if c then x.1.pages.foldl (fun s g => s.movePage g toCap) u else u) := by
      split
      · exact foldl _ (fun v g => (refl v).movePage g toCap) _ (refl u)
      · exact refl u
    dsimp only
    split
    · exact (hpages _ _).putChoice _ _
    · exact hpages _ _

theorem placeTick : FrameKept s t.placeTick := by
  have hnow (e : Eph) : FrameKept s { t with eph := e } := h.other rfl rfl rfl rfl
  exact foldl _ (fun u job => (refl u).placeTensors job) _ (hnow _)

theorem trapBoundary (n : Nat) : FrameKept s (t.trapBoundary n) := by
  have hmove (f : RHost → RHost) : FrameKept s (t.modRhost n f) := h.other rfl rfl rfl rfl
  unfold Block.trapBoundary
  dsimp only
  split
  · exact h
  · split
    · exact ((hmove _).raise (.rhost n) 0).jobFault _ 9 _ n 0x7FF
    · exact hmove _

theorem hostTick : FrameKept s t.hostTick := foldl _ (fun u n => (refl u).trapBoundary n) _ h

theorem shedTick : FrameKept s t.shedTick := h.other rfl rfl rfl rfl

theorem stepBoundary : FrameKept s t.stepBoundary := h.other rfl rfl rfl rfl

/-- With no vote open none is launched. -/
theorem voteTick (hv : t.coll.votes = []) : FrameKept s t.voteTick := by
  unfold Block.voteTick
  rw [hv]
  exact h

end FrameKept

end Sys2Proof.Machine
end

section
/-! Meridian's own operations (R52 to R58): the state it enters, the master it follows, the symbols it sends. What each does to Meridian, and that
it leaves the slots, the registers and the links alone. -/

namespace Sys2Proof.Machine

variable {s : State} {b : Block}

/-! The commands of spec/02, with the gate before them passed. -/

/-- A command of the always-on domain has its effect while VSTBY is present and PKG_RST_N is not held. -/
theorem State.onBlock_awake (f : Block → Block) (hr : s.blk.boot.power ≠ .reset) (hd : s.blk.boot.power ≠ .dark) :
    (s.onBlock fun b => b.awake f) = .next (s.withBlk (f s.blk)) := by
  rw [State.onBlock_eq, Block.awake_on f hr hd]

section
variable (hr : s.blk.boot.power ≠ .reset) (hd : s.blk.boot.power ≠ .dark)
include hr hd

theorem exec_lockAchieved : exec .lockAchieved s = .next (s.withBlk s.blk.lockAchieved) := State.onBlock_awake _ hr hd

theorem exec_tickSymbolReceive (n : Fin 36) (x : BitVec 128) :
    exec (.tickSymbolReceive n x) s = .next (s.withBlk (s.blk.tickIn n x.toNat)) := State.onBlock_awake _ hr hd

theorem exec_claimReceive (n : Fin 36) (x : BitVec 128) :
    exec (.claimReceive n x) s = .next (s.withBlk (s.blk.claimIn n x.toNat)) := State.onBlock_awake _ hr hd

theorem exec_masterIdReceive (n : Fin 36) (x : BitVec 128) :
    exec (.masterIdReceive n x) s = .next (s.withBlk (s.blk.ctlIn n 10 x.toNat fun b => b.masterIdIn n x.toNat)) :=
  State.onBlock_awake _ hr hd

theorem exec_masterTimeout : exec .masterTimeout s = .next (s.withBlk s.blk.masterTimeout) := State.onBlock_awake _ hr hd

theorem exec_claimWon : exec .claimWon s = .next (s.withBlk s.blk.claimWon) := State.onBlock_awake _ hr hd

theorem exec_holdoverEntry : exec .holdoverEntry s = .next (s.withBlk s.blk.holdoverEntry) := State.onBlock_awake _ hr hd

theorem exec_holdoverClaim : exec .holdoverClaim s = .next (s.withBlk s.blk.holdoverClaim) := State.onBlock_awake _ hr hd

theorem exec_masterResign (req : Requester) : exec (.masterResign req) s =
    .next (s.withBlk (s.blk.writeWord (Page.merid.addr 0x040) (setBits (s.blk.regNow .merid 0x040) 0 8 0) req)) :=
  State.onBlock_awake (fun b => b.writeWord (Page.merid.addr 0x040) (setBits (b.regNow .merid 0x040) 0 8 0) req) hr hd

theorem exec_masterIdBroadcast : exec .masterIdBroadcast s = .next (s.withBlk s.blk.masterIdBroadcast) := State.onBlock_awake _ hr hd

theorem exec_frameSlip (p : Fin 12) : exec (.frameSlip p) s = .next (s.withBlk (s.blk.frameSlip p)) :=
  State.onBlock_awake (fun b => b.frameSlip p) hr hd

theorem exec_tickRefEdge (dt high residual : Nat) :
    exec (.tickRefEdge dt high residual) s = .next (s.withBlk (s.blk.refEdge dt high residual)) := State.onBlock_awake _ hr hd

theorem exec_refHoldover : exec .refHoldover s = .next (s.withBlk s.blk.refHoldover) := State.onBlock_awake _ hr hd

theorem exec_holdoverExpired : exec .holdoverExpired s = .next (s.withBlk s.blk.refExpire) := State.onBlock_awake _ hr hd

theorem exec_periodSwitchArm (req : Requester) (v : BitVec 32) (h : s.blk.MayWrite .merid req) :
    exec (.periodSwitchArm req v) s = .next (s.withBlk (s.blk.switchArm v.toNat)) := by
  refine (State.onBlock_awake _ hr hd).trans ?_
  rw [Block.guard_open _ _ _ h]

theorem exec_periodSwitch : exec .periodSwitch s = .next (s.withBlk s.blk.periodSwitch) := State.onBlock_awake _ hr hd

theorem exec_rttRemeasure : exec .rttRemeasure s = .next (s.withBlk s.blk.rttRemeasure) := State.onBlock_awake _ hr hd

theorem exec_rttProbeReceive (n : Fin 36) (x : BitVec 128) :
    exec (.rttProbeReceive n x) s = .next (s.withBlk (s.blk.ctlIn n 7 x.toNat fun b => b.rttProbeIn n x.toNat)) :=
  State.onBlock_awake _ hr hd

theorem exec_rttEchoReceive (n : Fin 36) (x : BitVec 128) (rtt : BitVec 32) :
    exec (.rttEchoReceive n x rtt) s = .next (s.withBlk (s.blk.ctlIn n 8 x.toNat fun b => b.rttEchoIn n rtt.toNat)) :=
  State.onBlock_awake _ hr hd

/-- TICK, where it leaves nothing to settle. -/
theorem exec_tick (arrive : Int) (hs : (s.blk.tick arrive).Settled) :
    exec (.tick arrive) s = .next (s.withBlk (s.blk.tick arrive)) := by
  show execTick arrive s = _
  unfold execTick
  rw [State.onBlock_awake _ hr hd, Block.settling_settled (fun b => b.tick arrive) hs]

end

/-- A control block with a right CRC-8 and of the awaited type is taken. -/
theorem Block.ctlIn_good {n t x : Nat} (f : Block → Block) (hc : ctlGood x = true) (ht : ctlByte x 0 = t) : b.ctlIn n t x f = f b := by
  simp [Block.ctlIn, hc, ht]

/-- One with a bad CRC-8 is discarded and counted at the link. -/
theorem Block.ctlIn_bad {n t x : Nat} (f : Block → Block) (hc : ctlGood x = false) : b.ctlIn n t x f = b.log (.lnk n) 12 := by
  simp [Block.ctlIn, hc]

/-! A link's part of Meridian. -/

@[simp] theorem Block.modMlink_slots (n : Nat) (f : MLink → MLink) : (b.modMlink n f).slots = b.slots := rfl
@[simp] theorem Block.modMlink_regs (n : Nat) (f : MLink → MLink) : (b.modMlink n f).regs = b.regs := rfl
@[simp] theorem Block.modMlink_merid (n : Nat) (f : MLink → MLink) :
    (b.modMlink n f).merid = { b.merid with links := smMod {} b.merid.links n f } := rfl

/-! A state entered. -/

/-- Meridian as it enters a state (R52): what it had counted or learnt in the last one is gone. -/
def Merid.entered (m : Merid) (st : MState) : Merid :=
  { m with state := st, stateTicks := 0, lockStreak := 0, refLast := none, refExpired := false, epochKnown := false, adopted := false,
           idTaken := false, refState := if st = .master then .freeRun else .notMaster }

/-- The entry of a state is the change of Meridian followed by causes, trace records, Logbook counters and the collectives' note of it
(R52, R59): what all of these keep holds after it. -/
theorem Block.setMerid_induction {P : Block → Prop} (st : MState) (hraise : ∀ t pg n, P t → P (Block.raise t pg n))
    (htrace : ∀ t src off d, P t → P (Block.trace t src off d)) (hlog : ∀ t, P t → P (Block.log t .merid 4))
    (hcoll : ∀ (t : Block) absent back, P t → P { t with coll := { t.coll with absentJobs := absent, back := back } })
    (h : P (b.modMerid (·.entered st))) : P (b.setMerid st) := by
  let v : Block := ((b.modMerid (·.entered st)).raise .merid 0).trace 5 (Page.merid.addr 0) [b.merid.state.code, st.code]
  have hfirst : P v := htrace _ _ _ _ (hraise _ _ _ h)
  have hleft : P (if b.merid.state = .outOfStep then
      { v with coll := { v.coll with absentJobs := (v.coll.absentJobs ++ v.boundJobs).eraseDups } } else v) := by
    split
    · exact hcoll _ _ _ hfirst
    · exact hfirst
  cases st with
  | outOfStep => exact hlog _ (hraise _ _ _ (hcoll _ _ _ hleft))
  | locked => exact hcoll _ _ _ hleft
  | master => exact hcoll _ _ _ hleft
  | _ => exact hleft

@[simp] theorem Block.setMerid_merid (st : MState) : (b.setMerid st).merid = b.merid.entered st :=
  Block.setMerid_induction (P := fun t => t.merid = b.merid.entered st) st (by simp) (by simp) (by simp) (fun _ _ _ => id) rfl

@[simp] theorem Block.setMerid_slots (st : MState) : (b.setMerid st).slots = b.slots :=
  Block.setMerid_induction (P := fun t => t.slots = b.slots) st (by simp) (by simp) (by simp) (fun _ _ _ => id) rfl

@[simp] theorem Block.setMerid_regs (st : MState) : (b.setMerid st).regs = b.regs :=
  Block.setMerid_induction (P := fun t => t.regs = b.regs) st (by simp) (by simp) (by simp) (fun _ _ _ => id) rfl

@[simp] theorem Block.setMerid_links (st : MState) : (b.setMerid st).links = b.links :=
  Block.setMerid_induction (P := fun t => t.links = b.links) st (by simp) (by simp) (by simp) (fun _ _ _ => id) rfl

/-- Beside Meridian itself the entry of a state leaves what frames turn on. -/
theorem FrameKept.setMerid (st : MState) : FrameKept (b.modMerid (·.entered st)) (b.setMerid st) :=
  Block.setMerid_induction st (fun _ pg n h => h.raise pg n) (fun _ src off d h => h.trace src off d)
    (fun _ h => h.log .merid 4 (.inr (by decide))) (fun _ _ _ h => h.other rfl rfl rfl rfl) (.refl _)

/-! A master followed. -/

/-- A change of PUID is told to every link (R58). -/
@[simp] theorem Block.newMaster_merid (prio puid epoch : Nat) : (b.newMaster prio puid epoch).merid =
    { b.merid with masterPrio := prio, masterPuid := puid, epoch := epoch,
                   masterIdDue := if puid = b.merid.masterPuid then b.merid.masterIdDue else true } := by
  unfold Block.newMaster
  dsimp only
  split_ifs <;> simp

@[simp] theorem Block.newMaster_slots (prio puid epoch : Nat) : (b.newMaster prio puid epoch).slots = b.slots := by
  unfold Block.newMaster
  dsimp only
  split_ifs <;> simp

@[simp] theorem Block.newMaster_regs (prio puid epoch : Nat) : (b.newMaster prio puid epoch).regs = b.regs := by
  unfold Block.newMaster
  dsimp only
  split_ifs <;> simp

/-! Symbols sent. -/

/-- Sending on several links adds to what leaves the block, and no more. -/
theorem Block.toLinks_only (ns bs : List Nat) : b.toLinks ns bs = { b with out := (b.toLinks ns bs).out } :=
  foldl_keeps (fun t : Block => t = { b with out := t.out }) _ (fun t _ ht => by rw [ht]; rfl) ns rfl

@[simp] theorem Block.toLinks_merid (ns bs : List Nat) : (b.toLinks ns bs).merid = b.merid := by rw [Block.toLinks_only]
@[simp] theorem Block.toLinks_slots (ns bs : List Nat) : (b.toLinks ns bs).slots = b.slots := by rw [Block.toLinks_only]
@[simp] theorem Block.toLinks_regs (ns bs : List Nat) : (b.toLinks ns bs).regs = b.regs := by rw [Block.toLinks_only]

/-- MASTER_ID sent is due no longer (R58). -/
@[simp] theorem Block.sendMasterIds_merid : b.sendMasterIds.merid =
    { b.merid with masterIdDue := if b.merid.sendsId then false else b.merid.masterIdDue } := by
  unfold Block.sendMasterIds
  split_ifs <;> simp

@[simp] theorem Block.sendMasterIds_slots : b.sendMasterIds.slots = b.slots := by
  unfold Block.sendMasterIds
  split_ifs <;> simp

@[simp] theorem Block.sendMasterIds_regs : b.sendMasterIds.regs = b.regs := by
  unfold Block.sendMasterIds
  split_ifs <;> simp

namespace FrameKept

variable {t : Block} {u : Block} (h : FrameKept t u)
include h

theorem toLinks (ns bs : List Nat) : FrameKept t (u.toLinks ns bs) :=
  FrameKept.foldl _ (fun v _ => (refl v).emit _) ns h

/-- A change of Meridian that keeps its state and count. -/
theorem modMerid (f : Merid → Merid) (hs : (f u.merid).state = u.merid.state) (hc : (f u.merid).count = u.merid.count) :
    FrameKept t (u.modMerid f) :=
  h.other (by simp [Block.frameView, hs, hc]) rfl rfl rfl

theorem sendMasterIds : FrameKept t u.sendMasterIds := by
  unfold Block.sendMasterIds
  split
  · exact (h.toLinks _ _).modMerid _ rfl rfl
  · exact h

end FrameKept

end Sys2Proof.Machine
end

section
/-! A tick symbol of another period (R63): it is counted and steers nothing, and the digests of the two sides disagree. -/

namespace Sys2Proof.Machine

variable {b : Block}

/-- Meridian after a symbol of another period (assumption log 122): it hears that there is a master and follows nothing. -/
def Merid.otherPeriod (m : Merid) (y : TickSym) : Merid :=
  match m.state with
  | .listen => { m.entered .locking with followLink := none, inLink := none }
  | .claim => { m.entered .locking with followLink := none, inLink := none, epochKnown := m.claimFrames }
  | .holdover => if y.epoch = m.epoch then m.entered .locked else m
  | _ => m

theorem Block.otherPeriod_merid (y : TickSym) : (b.otherPeriod y).merid = b.merid.otherPeriod y := by
  unfold Block.otherPeriod Merid.otherPeriod
  dsimp only
  rw [Block.log_merid]
  cases b.merid.state with
  | holdover =>
    dsimp only
    split_ifs <;> simp
  | _ => simp [Merid.entered]

/-- Entering a state, with a change of Meridian after it, leaves what no change of Meridian's state touches. -/
theorem Block.otherPeriod_induction {P : Block → Prop} (y : TickSym) (hlog : P (b.log .merid 7))
    (hset : ∀ t st, P t → P (Block.setMerid t st)) (hmod : ∀ t f, P t → P (Block.modMerid t f)) : P (b.otherPeriod y) := by
  unfold Block.otherPeriod
  dsimp only
  split
  · exact hmod _ _ (hset _ _ hlog)
  · exact hmod _ _ (hset _ _ hlog)
  · split
    · exact hset _ _ hlog
    · exact hlog
  · exact hlog

theorem Block.otherPeriod_slots (y : TickSym) : (b.otherPeriod y).slots = b.slots :=
  Block.otherPeriod_induction (P := fun t => t.slots = b.slots) y (by simp) (by simp) (by simp)

theorem Block.otherPeriod_regs (y : TickSym) : (b.otherPeriod y).regs = b.regs :=
  Block.otherPeriod_induction (P := fun t => t.regs = b.regs) y (by simp) (by simp) (by simp)

theorem Block.otherPeriod_links (y : TickSym) : (b.otherPeriod y).links = b.links :=
  Block.otherPeriod_induction (P := fun t => t.links = b.links) y (by simp) (by simp) (by simp)

/-- The mismatch is counted once. -/
theorem Block.otherPeriod_mismatches (y : TickSym) : (b.otherPeriod y).mismatches = (b.log .merid 7).mismatches :=
  Block.otherPeriod_induction (P := fun t => t.mismatches = (b.log .merid 7).mismatches) y rfl
    (fun _ st h => (FrameKept.setMerid st).mismatches.trans h) (fun _ _ h => h)

/-- What a Logbook counter counts does not depend on Meridian. -/
theorem Block.log_mismatches_modMerid (f : Merid → Merid) (pg : Page) (n : Nat) :
    ((b.modMerid f).log pg n).mismatches = (b.log pg n).mismatches := by
  unfold Block.log Block.mismatches
  rw [Block.modMerid_hdr, Block.modMerid_logs]
  dsimp only
  split_ifs <;> simp

/-- A good tick symbol of another period on a running link is received. -/
theorem Block.tickIn_otherPeriod {n x : Nat} (hc : ctlGood x = true) (ht : ctlByte x 0 = 1) (hl : (b.link n).state.live = true)
    (hp : (tickSym x).period ≠ b.merid.period) :
    b.tickIn n x = (b.modMerid fun m => { m with heard := true }).otherPeriod (tickSym x) := by
  simp [Block.tickIn, hc, ht, hl, hp]

/-- What a symbol of another period leaves of Meridian (R63): it steers nothing. -/
theorem Merid.otherPeriod_steers_nothing (m : Merid) (y : TickSym) :
    (m.otherPeriod y).phaseErr = m.phaseErr ∧ (m.otherPeriod y).phasePeak = m.phasePeak ∧ (m.otherPeriod y).count = m.count ∧
      (m.otherPeriod y).adopt = m.adopt ∧ (m.otherPeriod y).links = m.links ∧ (m.otherPeriod y).period = m.period ∧
      (m.otherPeriod y).masterPrio = m.masterPrio ∧ (m.otherPeriod y).masterPuid = m.masterPuid ∧ (m.otherPeriod y).epoch = m.epoch ∧
      ((m.otherPeriod y).followLink = m.followLink ∨ (m.otherPeriod y).followLink = none) := by
  unfold Merid.otherPeriod
  split
  · simp [Merid.entered]
  · simp [Merid.entered]
  · split <;> simp [Merid.entered]
  · simp

/-- Digests whose tick periods, byte 6, differ disagree in QUAR bit 2, which no override covers (R231, Table 9.4). -/
theorem digestsAgree_of_period_ne {x y : List Nat} (h : (x.drop 6).take 1 ≠ (y.drop 6).take 1) : digestsAgree x y = false := by
  have hbit : b2n (decide ((x.drop 6).take 1 ≠ (y.drop 6).take 1)) = 1 := by simp [b2n, h]
  have hq : 4 ≤ quarBits x y := by
    unfold quarBits
    dsimp only
    omega
  simp only [digestsAgree]
  rw [decide_eq_false (by omega), decide_eq_false (by omega)]
  rfl

/-- Settles O46. -/
theorem otherPeriodDoesNotSteer : Obligations.OtherPeriodDoesNotSteer := by
  unfold Obligations.OtherPeriodDoesNotSteer
  intro s n x far m hr hd
  refine ⟨fun hc ht hl hp => ⟨_, exec_tickSymbolReceive hr hd n x, ?_⟩, fun hne => ?_⟩
  · rw [Block.tickIn_otherPeriod hc ht hl hp]
    refine ⟨fun _ => ?_, ?_, Block.otherPeriod_links _⟩
    · exact (Block.otherPeriod_mismatches _).trans (Block.log_mismatches_modMerid _ _ _)
    · dsimp only
      rw [Block.otherPeriod_merid]
      exact Merid.otherPeriod_steers_nothing _ _
  · refine digestsAgree_of_period_ne ?_
    simpa [Block.digest, leBytes, List.range, List.range.loop] using hne

end Sys2Proof.Machine
end

section
/-! What Meridian does on each symbol, claim and timeout (R52 to R58, Table 2.4). -/

namespace Sys2Proof.Machine

variable {b : Block}

/-! Tick symbols of the current period. -/

/-- The block that has taken note of tick symbol `y` on link `n`, before Meridian's state answers it. -/
def Block.noteSym (b : Block) (n : Nat) (y : TickSym) : Block :=
  let s := (b.modMerid fun m => { m with heard := true }).modMlink n fun l => { l with sym := some y, fresh := true }
  if s.confirmed n && decide (y.epoch = s.merid.epoch) then s.prioFrom n y.prio else s

/-- A symbol noted changes no more than that Meridian heard it, the link's part of Meridian, and the priority of its own master. -/
theorem Block.noteSym_only (n : Nat) (y : TickSym) : ∃ links prio,
    b.noteSym n y = b.modMerid fun m => { m with heard := true, links := links, masterPrio := prio } := by
  unfold Block.noteSym Block.prioFrom
  dsimp only
  split_ifs
  · exact ⟨_, y.prio, rfl⟩
  · exact ⟨_, b.merid.masterPrio, rfl⟩
  · exact ⟨_, b.merid.masterPrio, rfl⟩

/-- What LISTEN, CLAIM and, where the epoch is the current one, HOLDOVER do with a good tick symbol of the current period on a running
link (R52, R55). -/
theorem Block.tickIn_samePeriod {n x : Nat} (hc : ctlGood x = true) (ht : ctlByte x 0 = 1) (hl : (b.link n).state.live = true)
    (hp : (tickSym x).period = b.merid.period) :
    ((b.noteSym n (tickSym x)).merid.state = .listen →
      b.tickIn n x = ((b.noteSym n (tickSym x)).setMerid .locking).follow n (tickSym x)) ∧
    ((b.noteSym n (tickSym x)).merid.state = .claim →
      b.tickIn n x = (((b.noteSym n (tickSym x)).setMerid .locking).modMerid fun m =>
        { m with followLink := none, inLink := none, epochKnown := m.claimFrames }).follow n (tickSym x)) ∧
    ((b.noteSym n (tickSym x)).merid.state = .holdover → (tickSym x).epoch = (b.noteSym n (tickSym x)).merid.epoch →
      b.tickIn n x = (b.noteSym n (tickSym x)).setMerid .locked) := by
  rw [Block.tickIn, if_neg (by simp [hc, ht]), if_neg (by simp [hl])]
  extract_lets y heard s noted first raised
  have hp' : ¬ y.period ≠ heard.merid.period := not_not.2 hp
  rw [if_neg hp']
  change (noted.merid.state = _ → _) ∧ (noted.merid.state = _ → _) ∧ (noted.merid.state = _ → y.epoch = noted.merid.epoch → _)
  refine ⟨fun hs => ?_, fun hs => ?_, fun hs he => ?_⟩
  · rw [hs]
    rfl
  · rw [hs]
    rfl
  · rw [hs]
    exact if_pos he

/-- Meridian as it begins to follow link `n`, `kept` the count that it has adopted (R55, R57). -/
def Merid.following (m : Merid) (n : Nat) (y : TickSym) (kept : Bool) : Merid :=
  { m with followLink := some n, inLink := none, epoch := y.epoch, masterPrio := y.prio,
           adopt := if kept then m.adopt else some y.count, epochKnown := true, adopted := true }

/-- Whether Meridian has adopted a count of the epoch of `y`. -/
def Merid.keepsCount (m : Merid) (y : TickSym) : Bool := m.epochKnown && m.adopted && decide (y.epoch = m.epoch)

/-- A symbol of an earlier epoch than the known one is not followed; another is, with the master that the link's MASTER_ID names where
it has come. -/
theorem Block.follow_cases (n : Nat) (y : TickSym) :
    ((b.merid.epochKnown && y.epoch ≠ b.merid.epoch && !laterEpoch b.merid.epoch y.epoch) = true ∧ b.follow n y = b) ∨
    ∃ t : Block, t = b.modMerid (·.following n y (b.merid.keepsCount y)) ∧
      (b.follow n y = t ∨ ∃ prio puid, b.follow n y = (t.newMaster prio puid y.epoch).modMerid fun m => { m with idTaken := true }) := by
  by_cases hr : (b.merid.epochKnown && y.epoch ≠ b.merid.epoch && !laterEpoch b.merid.epoch y.epoch) = true
  · exact .inl ⟨hr, if_pos hr⟩
  · refine .inr ⟨_, rfl, ?_⟩
    have hf : b.follow n y = match (b.mlink n).mid with
        | some (prio, puid, e) => if e = y.epoch ∧ !(b.merid.keepsCount y && b.merid.idTaken) then
            ((b.modMerid (·.following n y (b.merid.keepsCount y))).newMaster prio puid y.epoch).modMerid fun m => { m with idTaken := true }
          else b.modMerid (·.following n y (b.merid.keepsCount y))
        | none => b.modMerid (·.following n y (b.merid.keepsCount y)) := if_neg hr
    rw [hf]
    cases (b.mlink n).mid with
    | none => exact .inl rfl
    | some mid =>
      dsimp only
      split
      · exact .inr ⟨_, _, rfl⟩
      · exact .inl rfl

/-- Where no earlier epoch than the known one comes and no count is adopted, the link is followed and the symbol's count adopted next. -/
theorem Block.follow_merid {n : Nat} {y : TickSym} (hk : b.merid.epochKnown = false ∨ y.epoch = b.merid.epoch ∨ laterEpoch b.merid.epoch y.epoch = true)
    (ha : b.merid.adopted = false) : (b.follow n y).merid.adopt = some y.count ∧ (b.follow n y).merid.followLink = some n := by
  have hno : b.merid.keepsCount y = false := by simp [Merid.keepsCount, ha]
  rcases Block.follow_cases (b := b) n y with ⟨hr, -⟩ | ⟨t, rfl, h | ⟨prio, puid, h⟩⟩
  · rcases hk with hk | hk | hk <;> simp [hk] at hr
  · simp [h, Merid.following, hno]
  · simp [h, Merid.following, hno]

/-- What following a link leaves. -/
theorem Block.follow_frame (n : Nat) (y : TickSym) : (b.follow n y).merid.state = b.merid.state ∧
    (b.follow n y).slots = b.slots ∧ (b.follow n y).regs = b.regs ∧ (b.follow n y).merid.count = b.merid.count := by
  rcases Block.follow_cases (b := b) n y with ⟨-, h⟩ | ⟨t, rfl, h | ⟨prio, puid, h⟩⟩ <;> simp [h, Merid.following]

/-! A change of side, and claims. -/

@[simp] theorem Block.changeSide_slots (n prio puid : Nat) (e : Option Nat) : (b.changeSide n prio puid e).slots = b.slots := by
  unfold Block.changeSide
  dsimp only
  split_ifs <;> simp

@[simp] theorem Block.changeSide_regs (n prio puid : Nat) (e : Option Nat) : (b.changeSide n prio puid e).regs = b.regs := by
  unfold Block.changeSide
  dsimp only
  split_ifs <;> simp

/-- The package that changes side is in LOCKING under the new master, and follows the link (R57). -/
theorem Block.changeSide_merid (n prio puid : Nat) (e : Option Nat) :
    (b.changeSide n prio puid e).merid.state = .locking ∧ (b.changeSide n prio puid e).merid.masterPrio = prio ∧
      (b.changeSide n prio puid e).merid.masterPuid = puid ∧ (b.changeSide n prio puid e).merid.followLink = some n ∧
      (b.changeSide n prio puid e).merid.inLink = some n ∧ (b.changeSide n prio puid e).merid.count = b.merid.count := by
  unfold Block.changeSide
  dsimp only
  by_cases hs : b.merid.state = .locking
  · simp [hs]
  · simp [hs, Merid.entered]

/-- A claim made (R53). -/
@[simp] theorem Block.claim_merid (frames : Bool) : (b.claim frames).merid = { b.merid.entered .claim with claimFrames := frames } := by
  simp [Block.claim]

theorem Block.claim_frame (frames : Bool) : (b.claim frames).slots = b.slots ∧ (b.claim frames).regs = b.regs := by
  simp [Block.claim]

/-- A claim noted is the best that the package has seen (R53). -/
def Block.noteClaim (b : Block) (n : Nat) (c : Nat × Nat) (hops : Nat) : Block :=
  (b.modMerid fun m => { m with claimBest := some c }).toLinks (b.upLinks.filter (· ≠ n)) (claimBytes c hops)

/-- A claimant withdraws before a better claim: LOCKING, under the best claimant that it has seen (R53, R56). -/
def Block.withdraw (b : Block) (won : Nat × Nat) : Block :=
  (((b.log .merid 3).setMerid .locking).newMaster won.1 won.2 b.merid.epoch).modMerid fun m =>
    { m with claimBest := some won, followLink := none, inLink := none, epochKnown := m.claimFrames }

/-- A good claim on a running link, in CLAIM: a better one is noted, where it is the best, and the claimant withdraws; another does
nothing (R53, R56). -/
theorem Block.claimIn_claim {n x : Nat} (hc : ctlGood x = true) (ht : ctlByte x 0 = 2) (hl : (b.link n).state.live = true)
    (hs : b.merid.state = .claim) : b.claimIn n x =
      let c := (ctlByte x 1, x / 2 ^ 16 % 2 ^ 64)
      let best := b.merid.claimBest.all fun y => better c y
      if better c (b.prio, puid) then
        (if best then b.noteClaim n c (ctlByte x 10 + 1) else b).withdraw (if best then c else b.merid.claimBest.getD c)
      else b := by
  unfold Block.claimIn
  rw [if_neg (by simp [hc, ht]), if_neg (by simp [hl])]
  extract_lets c best note won best'
  have hbest : best = best' := by
    unfold best best'
    cases b.merid.claimBest <;> rfl
  have hepoch : b.merid.epoch = (b.noteClaim n c (ctlByte x 10 + 1)).merid.epoch := by simp [Block.noteClaim]
  unfold won
  clear_value best best'
  subst hbest
  rw [hs]
  refine if_congr Iff.rfl ?_ rfl
  cases best with
  | true =>
    rw [hepoch]
    rfl
  | false => rfl

/-! A symbol with a bad CRC-8 (R48). -/

theorem Block.tickIn_bad {n x : Nat} (hc : ctlGood x = false) : b.tickIn n x = (b.log .merid 5).log (.lnk n) 12 := by
  simp [Block.tickIn, hc]

theorem Block.claimIn_bad {n x : Nat} (hc : ctlGood x = false) : b.claimIn n x = (b.log .merid 5).log (.lnk n) 12 := by
  simp [Block.claimIn, hc]

/-! MASTER_ID (R57, R58). -/

/-- Whether a state is one that runs under a master, where a MASTER_ID of another master is weighed. -/
def MState.runs (st : MState) : Prop := st = .locked ∨ st = .outOfStep ∨ st = .holdover ∨ st = .master

/-- A MASTER_ID of another master in a running state: the package changes side to a better one, and keeps its own otherwise. -/
theorem Block.masterIdIn_runs {n x : Nat} (hl : (b.link n).state.live = true) (hs : b.merid.state.runs)
    (hne : x / 2 ^ 16 % 2 ^ 64 ≠ b.merid.masterPuid) :
    b.masterIdIn n x =
      let noted := b.modMlink n fun l => { l with mid := some (ctlByte x 1, x / 2 ^ 16 % 2 ^ 64, ctlByte x 10) }
      if better (ctlByte x 1, x / 2 ^ 16 % 2 ^ 64) (b.merid.masterPrio, b.merid.masterPuid) then
        noted.changeSide n (ctlByte x 1) (x / 2 ^ 16 % 2 ^ 64) (some (ctlByte x 10))
      else noted := by
  unfold Block.masterIdIn
  rw [if_neg (by simp [hl])]
  extract_lets c e noted own
  have hstate : noted.merid.state = b.merid.state := rfl
  rw [hstate]
  rcases hs with hs | hs | hs | hs <;> rw [hs] <;> exact if_neg hne

/-! The claim won (R54). -/

/-- A claimant that no better claim reached is the master of the next epoch. -/
theorem Block.claimWon_merid (hs : b.merid.state = .claim) (hp : b.prio ≠ 0)
    (hbest : ∀ x, b.merid.claimBest = some x → better x (b.prio, puid) = false) :
    b.claimWon = ((b.setMerid .master).newMaster b.prio puid ((b.merid.epoch + 1) % 256)).modMerid fun m =>
      { m with inLink := none, hops := 0, phaseErr := 0, claimBest := none, followLink := none, masterIdDue := true } := by
  unfold Block.claimWon
  extract_lets lost e t
  have hlost : lost = false := by
    unfold lost
    cases h : b.merid.claimBest with
    | none => rfl
    | some x => exact hbest x h
  rw [if_neg (by simp [hs, hlost, hp])]

theorem Block.claimWon_idle (h : b.merid.state ≠ .claim ∨ b.prio = 0) : b.claimWon = b := by
  unfold Block.claimWon
  exact if_pos (h.imp_right .inr)

end Sys2Proof.Machine
end

section
/-! MASTER_RESIGN (R54, R55) is a write of MERID_CTL, which waits for the frame boundary. -/

namespace Sys2Proof.Machine

variable {b : Block} {req : Requester}

/-- MERID_CTL is all RW fields, PRIO its low byte, and each other field above it (Table 2.6). -/
theorem Block.legal_meridCtl (v : Nat) : (b.legal .merid 0x040 v).1 % 2 ^ 8 = v % 2 ^ 8 := by
  have hfields : Page.merid.fields 0x040 = [⟨0x040, 16, 4, 2, .range 1 15⟩, ⟨0x040, 12, 4, 4, .range 2 15⟩, ⟨0x040, 11, 1, 0, .full⟩,
    ⟨0x040, 10, 1, 1, .full⟩, ⟨0x040, 8, 1, 1, .full⟩, ⟨0x040, 0, 8, 0x80, .full⟩] := rfl
  have hprio : b.clampTo .merid ⟨0x040, 0, 8, 0x80, .full⟩ v (bits v 0 8) = v % 2 ^ 8 := by simp [Block.clampTo, bits]
  unfold Block.legal
  rw [hfields]
  simp only [List.foldl_cons, List.foldl_nil, Page.fieldSees, show Page.merid.pairOf 0x040 = none from rfl, hprio]
  omega

/-- A word put down for its frame boundary is the word that a read of what was written finds (R21). -/
theorem Block.putReg_frameBound {pg : Page} {o v : Nat} (h : pg.frameBound o = true) :
    (b.putReg pg o v).regNow pg o = v % 2 ^ 32 ∧ (b.putReg pg o v).merid = b.merid ∧ (b.putReg pg o v).regs = b.regs := by
  refine ⟨?_, ?_, ?_⟩
  · simp [Block.putReg, h, Block.regNow, List.find?_append, List.find?_eq_none.2]
  · simp [Block.putReg, h]
  · simp [Block.putReg, h]

/-- A write of MERID_CTL leaves Meridian as it is, and the word with its low byte as written waits. -/
theorem Block.rwWrite_meridCtl (v : Nat) : (b.rwWrite .merid 0x040 v).regNow .merid 0x040 % 2 ^ 8 = v % 2 ^ 8 ∧
    (b.rwWrite .merid 0x040 v).merid = b.merid ∧ (b.rwWrite .merid 0x040 v).regs = b.regs := by
  obtain ⟨hnow, hmerid, hregs⟩ :=
    Block.putReg_frameBound (b := b) (v := (b.legal .merid 0x040 v).1) (show Page.merid.frameBound 0x040 = true from rfl)
  have hbyte : (b.putReg .merid 0x040 (b.legal .merid 0x040 v).1).regNow .merid 0x040 % 2 ^ 8 = v % 2 ^ 8 := by
    rw [hnow, ← Block.legal_meridCtl (b := b) v]
    omega
  have hw : b.rwWrite .merid 0x040 v = if (b.legal .merid 0x040 v).2 then
      (b.putReg .merid 0x040 (b.legal .merid 0x040 v).1).clamped .merid 0x040 else b.putReg .merid 0x040 (b.legal .merid 0x040 v).1 := rfl
  rw [hw]
  split
  · simp only [Block.clamped_merid, Block.clamped_regs]
    exact ⟨by simpa [Block.regNow] using hbyte, hmerid, hregs⟩
  · exact ⟨hbyte, hmerid, hregs⟩

/-- The write of MERID_CTL by a requester that the page admits. -/
theorem Block.writeWord_meridCtl (v : Nat) (h : b.MayWrite .merid req) :
    b.writeWord (Page.merid.addr 0x040) v req = b.rwWrite .merid 0x040 v := by
  have hmask : Page.merid.rwMask 0x040 ≠ 0 := by decide
  have hoff : Page.merid.addr 0x040 % 4096 = 0x040 := by decide
  rw [Block.writeWord_block (pg := .merid) (by decide) (by decide), hoff]
  unfold Block.blockWrite
  rw [Block.guard_open _ _ _ h]
  exact (if_neg hmask : (if Page.merid.rwMask 0x040 = 0 then b else b.rwWrite .merid 0x040 v) = _)

end Sys2Proof.Machine
end

section
/-! The transitions of Table 2.4, command by command. -/

namespace Sys2Proof.Machine

/-- Command `c` takes Meridian where `f` says, and leaves the slots, the registers and the count. -/
def State.MeridGoes (s : State) (c : Instr) (f : Merid → Prop) : Prop :=
  ∃ t : Block, exec c s = .next (s.withBlk t) ∧ f t.merid ∧ t.slots = s.blk.slots ∧ t.regs = s.blk.regs ∧ t.merid.count = s.blk.merid.count

section
variable {s : State} {n : Fin 36} {x : BitVec 128} (hr : s.blk.boot.power ≠ .reset) (hd : s.blk.boot.power ≠ .dark)
include hr hd

/-- Eight ticks in phase (R55). -/
theorem lockAchieved_locks (hs : s.blk.merid.state = .locking ∨ s.blk.merid.state = .outOfStep) (h8 : 8 ≤ s.blk.merid.lockStreak) :
    s.MeridGoes .lockAchieved fun z => z.state = .locked := by
  refine ⟨_, exec_lockAchieved hr hd, ?_⟩
  rw [show s.blk.lockAchieved = s.blk.setMerid .locked from if_pos ⟨hs, h8⟩]
  simp [Merid.entered]

theorem lockAchieved_early (h8 : s.blk.merid.lockStreak < 8) : exec .lockAchieved s = .next s := by
  rw [exec_lockAchieved hr hd, show s.blk.lockAchieved = s.blk from if_neg fun h => absurd h.2 (by omega)]
  rfl

/-- A tick symbol of another period is heard and not followed (R63). -/
theorem tickSymbol_otherPeriod (hc : ctlGood x.toNat = true) (ht : ctlByte x.toNat 0 = 1) (hl : (s.blk.link n).state.live = true)
    (hp : (tickSym x.toNat).period ≠ s.blk.merid.period) :
    s.MeridGoes (.tickSymbolReceive n x) fun z => z.adopt = s.blk.merid.adopt ∧ z.heard = true ∧ z.state =
      (if s.blk.merid.state = .listen ∨ s.blk.merid.state = .claim then .locking
        else if s.blk.merid.state = .holdover ∧ (tickSym x.toNat).epoch = s.blk.merid.epoch then .locked else s.blk.merid.state) := by
  refine ⟨_, exec_tickSymbolReceive hr hd n x, ?_⟩
  rw [Block.tickIn_otherPeriod hc ht hl hp]
  refine ⟨?_, Block.otherPeriod_slots _, Block.otherPeriod_regs _, ?_⟩
  · rw [Block.otherPeriod_merid]
    unfold Merid.otherPeriod
    rw [Block.modMerid_merid]
    cases h : s.blk.merid.state with
    | holdover => by_cases he : (tickSym x.toNat).epoch = s.blk.merid.epoch <;> simp [he, Merid.entered]
    | _ => simp [Merid.entered]
  · rw [Block.otherPeriod_merid]
    exact (Merid.otherPeriod_steers_nothing _ _).2.2.1

/-- A tick symbol of the current period on a running link, in LISTEN or CLAIM (R52, R55). -/
theorem tickSymbol_locking (hc : ctlGood x.toNat = true) (ht : ctlByte x.toNat 0 = 1) (hl : (s.blk.link n).state.live = true)
    (hp : (tickSym x.toNat).period = s.blk.merid.period)
    (hs : s.blk.merid.state = .listen ∨ (s.blk.merid.state = .claim ∧ (s.blk.merid.claimFrames = false ∨
      (tickSym x.toNat).epoch = s.blk.merid.epoch ∨ laterEpoch s.blk.merid.epoch (tickSym x.toNat).epoch = true))) :
    s.MeridGoes (.tickSymbolReceive n x) fun z =>
      z.state = .locking ∧ z.adopt = some (tickSym x.toNat).count ∧ z.followLink = some n.val := by
  refine ⟨_, exec_tickSymbolReceive hr hd n x, ?_⟩
  obtain ⟨hlisten, hclaim, -⟩ := Block.tickIn_samePeriod hc ht hl hp
  obtain ⟨links, prio, hnoted⟩ := Block.noteSym_only (b := s.blk) n (tickSym x.toNat)
  rw [hnoted] at hlisten hclaim
  rcases hs with hs | ⟨hs, hk⟩
  · rw [hlisten hs]
    obtain ⟨hstate, hslots, hregs, hcount⟩ := Block.follow_frame (b := (s.blk.modMerid fun m =>
      { m with heard := true, links := links, masterPrio := prio }).setMerid .locking) n (tickSym x.toNat)
    exact ⟨⟨by rw [hstate]; simp [Merid.entered], Block.follow_merid (.inl (by simp [Merid.entered])) (by simp [Merid.entered])⟩,
      by rw [hslots]; simp, by rw [hregs]; simp, by rw [hcount]; simp [Merid.entered]⟩
  · rw [hclaim hs]
    obtain ⟨hstate, hslots, hregs, hcount⟩ := Block.follow_frame (b := ((s.blk.modMerid fun m =>
      { m with heard := true, links := links, masterPrio := prio }).setMerid .locking).modMerid fun m =>
        { m with followLink := none, inLink := none, epochKnown := m.claimFrames }) n (tickSym x.toNat)
    exact ⟨⟨by rw [hstate]; simp [Merid.entered], Block.follow_merid (by simpa [Merid.entered] using hk) (by simp [Merid.entered])⟩,
      by rw [hslots]; simp, by rw [hregs]; simp, by rw [hcount]; simp [Merid.entered]⟩

/-- A tick symbol of the current period and epoch, in HOLDOVER (R52). -/
theorem tickSymbol_holdover (hc : ctlGood x.toNat = true) (ht : ctlByte x.toNat 0 = 1) (hl : (s.blk.link n).state.live = true)
    (hp : (tickSym x.toNat).period = s.blk.merid.period) (hs : s.blk.merid.state = .holdover)
    (he : (tickSym x.toNat).epoch = s.blk.merid.epoch) :
    s.MeridGoes (.tickSymbolReceive n x) fun z => z.state = .locked := by
  refine ⟨_, exec_tickSymbolReceive hr hd n x, ?_⟩
  obtain ⟨-, -, hhold⟩ := Block.tickIn_samePeriod hc ht hl hp
  obtain ⟨links, prio, hnoted⟩ := Block.noteSym_only (b := s.blk) n (tickSym x.toNat)
  rw [hnoted] at hhold
  rw [hhold hs he]
  simp [Merid.entered]

/-- A better claim, in CLAIM (R53, R56). -/
theorem claimReceive_better (hc : ctlGood x.toNat = true) (ht : ctlByte x.toNat 0 = 2) (hl : (s.blk.link n).state.live = true)
    (hs : s.blk.merid.state = .claim) (hb : better (ctlByte x.toNat 1, x.toNat / 2 ^ 16 % 2 ^ 64) (s.blk.prio, puid) = true) :
    s.MeridGoes (.claimReceive n x) fun z => z.state = .locking ∧
      z.claimBest = some (if (s.blk.merid.claimBest.all fun y => better (ctlByte x.toNat 1, x.toNat / 2 ^ 16 % 2 ^ 64) y) then
        (ctlByte x.toNat 1, x.toNat / 2 ^ 16 % 2 ^ 64) else s.blk.merid.claimBest.getD (ctlByte x.toNat 1, x.toNat / 2 ^ 16 % 2 ^ 64)) := by
  refine ⟨_, exec_claimReceive hr hd n x, ?_⟩
  rw [Block.claimIn_claim hc ht hl hs]
  dsimp only
  rw [if_pos hb]
  split <;> simp [Block.withdraw, Block.noteClaim, Merid.entered]

theorem claimReceive_other (hc : ctlGood x.toNat = true) (ht : ctlByte x.toNat 0 = 2) (hl : (s.blk.link n).state.live = true)
    (hs : s.blk.merid.state = .claim) (hb : better (ctlByte x.toNat 1, x.toNat / 2 ^ 16 % 2 ^ 64) (s.blk.prio, puid) = false) :
    exec (.claimReceive n x) s = .next s := by
  rw [exec_claimReceive hr hd n x, Block.claimIn_claim hc ht hl hs]
  dsimp only
  rw [if_neg (ne_true_of_eq_false hb)]
  rfl

/-- A MASTER_ID that names a better master, in a running state (R57). -/
theorem masterIdReceive_better (hc : ctlGood x.toNat = true) (ht : ctlByte x.toNat 0 = 10) (hl : (s.blk.link n).state.live = true)
    (hs : s.blk.merid.state.runs) (hne : x.toNat / 2 ^ 16 % 2 ^ 64 ≠ s.blk.merid.masterPuid)
    (hb : better (ctlByte x.toNat 1, x.toNat / 2 ^ 16 % 2 ^ 64) (s.blk.merid.masterPrio, s.blk.merid.masterPuid) = true) :
    s.MeridGoes (.masterIdReceive n x) fun z => z.state = .locking ∧ z.masterPrio = ctlByte x.toNat 1 ∧
      z.masterPuid = x.toNat / 2 ^ 16 % 2 ^ 64 ∧ z.followLink = some n.val ∧ z.inLink = some n.val := by
  refine ⟨_, exec_masterIdReceive hr hd n x, ?_⟩
  rw [Block.ctlIn_good _ hc ht, Block.masterIdIn_runs hl hs hne]
  dsimp only
  rw [if_pos hb]
  obtain ⟨hstate, hprio, hpuid, hfollow, hin, hcount⟩ := Block.changeSide_merid (b := s.blk.modMlink n fun l =>
    { l with mid := some (ctlByte x.toNat 1, x.toNat / 2 ^ 16 % 2 ^ 64, ctlByte x.toNat 10) }) n (ctlByte x.toNat 1)
      (x.toNat / 2 ^ 16 % 2 ^ 64) (some (ctlByte x.toNat 10))
  exact ⟨⟨hstate, hprio, hpuid, hfollow, hin⟩, by simp, by simp, by rw [hcount]; simp⟩

theorem masterIdReceive_other (hc : ctlGood x.toNat = true) (ht : ctlByte x.toNat 0 = 10) (hl : (s.blk.link n).state.live = true)
    (hs : s.blk.merid.state.runs) (hne : x.toNat / 2 ^ 16 % 2 ^ 64 ≠ s.blk.merid.masterPuid)
    (hb : better (ctlByte x.toNat 1, x.toNat / 2 ^ 16 % 2 ^ 64) (s.blk.merid.masterPrio, s.blk.merid.masterPuid) = false) :
    s.MeridGoes (.masterIdReceive n x) fun z => z.state = s.blk.merid.state ∧ z.masterPuid = s.blk.merid.masterPuid := by
  refine ⟨_, exec_masterIdReceive hr hd n x, ?_⟩
  rw [Block.ctlIn_good _ hc ht, Block.masterIdIn_runs hl hs hne]
  dsimp only
  rw [if_neg (ne_true_of_eq_false hb)]
  simp

/-- MASTER_TO silent ticks in LISTEN (R53). -/
theorem masterTimeout_claims (hs : s.blk.merid.state = .listen) (ht : s.blk.masterTo ≤ s.blk.merid.stateTicks) (hp : s.blk.prio ≠ 0) :
    s.MeridGoes .masterTimeout fun z => z.state = .claim ∧ z.claimFrames = false := by
  refine ⟨_, exec_masterTimeout hr hd, ?_⟩
  rw [show s.blk.masterTimeout = s.blk.claim false from if_pos ⟨hs, ht, hp⟩]
  simp [Merid.entered, Block.claim_frame]

/-- MASTER_TO silent ticks in HOLDOVER: the frames go on (R52, R53). -/
theorem holdoverClaim_claims (hs : s.blk.merid.state = .holdover) (ht : s.blk.masterTo ≤ s.blk.merid.stateTicks) (hp : s.blk.prio ≠ 0) :
    s.MeridGoes .holdoverClaim fun z => z.state = .claim ∧ z.claimFrames = true := by
  refine ⟨_, exec_holdoverClaim hr hd, ?_⟩
  rw [show s.blk.holdoverClaim = s.blk.claim true from if_pos ⟨hs, ht, hp⟩]
  simp [Merid.entered, Block.claim_frame]

/-- The claim won (R54). -/
theorem claimWon_masters (hs : s.blk.merid.state = .claim) (hp : s.blk.prio ≠ 0)
    (hbest : ∀ x, s.blk.merid.claimBest = some x → better x (s.blk.prio, puid) = false) :
    s.MeridGoes .claimWon fun z => z.state = .master ∧ z.epoch = (s.blk.merid.epoch + 1) % 256 ∧ z.masterPrio = s.blk.prio ∧
      z.masterPuid = puid := by
  refine ⟨_, exec_claimWon hr hd, ?_⟩
  rw [Block.claimWon_merid hs hp hbest]
  simp [Merid.entered]

theorem claimWon_none (h : s.blk.merid.state ≠ .claim ∨ s.blk.prio = 0) : exec .claimWon s = .next s := by
  rw [exec_claimWon hr hd, Block.claimWon_idle h]
  rfl

/-- Two silent ticks (R52). -/
theorem holdoverEntry_holds (hs : s.blk.merid.state = .locked ∨ s.blk.merid.state = .outOfStep) (h2 : 2 ≤ s.blk.merid.silentTicks) :
    s.MeridGoes .holdoverEntry fun z => z.state = .holdover := by
  refine ⟨_, exec_holdoverEntry hr hd, ?_⟩
  rw [show s.blk.holdoverEntry = (s.blk.setMerid .holdover).modMerid fun m => { m with claimBest := none } from if_pos ⟨hs, h2⟩]
  simp [Merid.entered]

/-- PRIO written 0 waits for the next tick (R54). -/
theorem masterResign_waits {req : Requester} (h : s.blk.MayWrite .merid req) : ∃ t : Block, exec (.masterResign req) s = .next (s.withBlk t) ∧
    t.merid = s.blk.merid ∧ t.regNow .merid 0x040 % 2 ^ 8 = 0 ∧ t.regs = s.blk.regs := by
  refine ⟨_, exec_masterResign hr hd req, ?_⟩
  rw [Block.writeWord_meridCtl _ h]
  obtain ⟨hnow, hmerid, hregs⟩ := Block.rwWrite_meridCtl (b := s.blk) (setBits (s.blk.regNow .merid 0x040) 0 8 0)
  exact ⟨hmerid, hnow.trans (by simp [setBits, Nat.mod_one]), hregs⟩

/-- MASTER_ID goes out at counts that are multiples of 1,024 (R58). -/
theorem masterIdBroadcast_due (h : s.blk.merid.count % 1024 = 0) :
    exec .masterIdBroadcast s = .next (s.withBlk s.blk.sendMasterIds) := by
  rw [exec_masterIdBroadcast hr hd, show s.blk.masterIdBroadcast = s.blk.sendMasterIds from if_pos h]

theorem masterIdBroadcast_idle (h : s.blk.merid.count % 1024 ≠ 0) : exec .masterIdBroadcast s = .next s := by
  rw [exec_masterIdBroadcast hr hd, show s.blk.masterIdBroadcast = s.blk from if_neg h]
  rfl

end

end Sys2Proof.Machine
end

section
/-! What a TICK does beside the frames (R46, R54): the count goes on, Meridian's state at the tick, and the rest leaves alone what the frames
turn on. -/

namespace Sys2Proof.Machine

variable {b u v : Block}

/-- What frames turn on beside the partitions, the page headers and the slots. -/
def Block.clockView (u : Block) : FrameView := { u.frameView with slots := [] }

theorem Block.of_clockView (h : v.clockView = u.clockView) : v.merid.state = u.merid.state ∧ v.merid.count = u.merid.count ∧
    v.timeUs = u.timeUs ∧ (u.Settled → v.Settled) := by
  have hxu : v.xu = u.xu := (congrArg FrameView.xu h :)
  have hout : v.coll.outbox = u.coll.outbox := (congrArg FrameView.outbox h :)
  exact ⟨(congrArg FrameView.state h :), (congrArg FrameView.count h :), (congrArg FrameView.timeUs h :),
    fun ⟨hended, harrived, hempty⟩ => ⟨by rw [hxu]; exact hended, by rw [hxu]; exact harrived, by rw [hout]; exact hempty⟩⟩

theorem FrameKept.clock (h : FrameKept u v) : v.clockView = u.clockView := by
  unfold Block.clockView
  rw [h.view]

/-- With no write waiting for a boundary none takes effect. -/
theorem Block.applyFb_none (sel : Option Nat) (h : b.frameBound = []) : b.applyFb sel = b := by
  unfold Block.applyFb
  rw [h]
  show ({ b with frameBound := [] } : Block) = b
  rw [← h]

/-- The local time and the count go on (R46). -/
def Block.tickTime (b : Block) : Block :=
  { b with timeUs := Nat.max b.timeUs (b.merid.tickUs + b.merid.period) }.modMerid fun m =>
    { m with tickUs := Nat.max b.timeUs (b.merid.tickUs + b.merid.period), count := ((m.adopt.getD m.count) + 1) % 2 ^ 48, adopt := none }

@[simp] theorem Block.tickTime_regs : b.tickTime.regs = b.regs := rfl
@[simp] theorem Block.tickTime_coll : b.tickTime.coll = b.coll := rfl
@[simp] theorem Block.tickTime_frameBound : b.tickTime.frameBound = b.frameBound := rfl
@[simp] theorem Block.tickTime_state : b.tickTime.merid.state = b.merid.state := rfl

@[simp] theorem Block.tickTime_xu : b.tickTime.xu = b.xu := rfl
@[simp] theorem Block.tickTime_count : b.tickTime.merid.count = (b.merid.adopt.getD b.merid.count + 1) % 2 ^ 48 := rfl
@[simp] theorem Block.tickTime_timeUs : b.tickTime.timeUs = Nat.max b.timeUs (b.merid.tickUs + b.merid.period) := rfl

@[simp] theorem Block.tickTime_prio : b.tickTime.prio = b.prio := by
  unfold Block.prio Block.fld Block.reg
  rw [Block.tickTime_regs]

/-- The symbols of a tick. -/
def Block.tickSends (b : Block) : Block :=
  let s := if bit (b.reg .merid 0x040) 10 then b.emit .tickOut else b
  let s := if s.merid.sendsTicks then s.toLinks s.upLinks s.tickBytes else s
  if s.merid.masterIdDue then s.sendMasterIds else s

/-- What else a tick ends, beside the frames. -/
def Block.tickRest (b : Block) : Block :=
  let s := b.modMerid fun m => { m with links := smMapVals ({} : MLink) m.links fun _ l => { l with fresh := false } }
  let s := if s.poisonLatch then { s with poisonTick := true } else s
  let s := s.stepBoundary.placeTick.hostTick.voteTick.shedTick
  (List.range 12).foldl (fun s p =>
    if (s.part p).state = .saved ∨ (s.part p).state = .saving then s
    else
      let s := s.modSyn p fun y => y.tick fun b => (s.part p).bfHeld && decide (s.barSlot p b = 1)
      s.modMmu p fun u => { u with recs := u.recs.map fun r => if s.recHeld p r then r else { r with age := r.age + 1 } }) s

/-- A tick before its frames. -/
def Block.tickBegun (b : Block) (arrive : Int) : Block := ((b.tickTime.applyFb none).meridTick arrive).tickSends.tickRest

theorem Block.tick_eq (arrive : Int) : b.tick arrive =
    if (b.tickBegun arrive).merid.framesRun then (List.range 12).foldl (fun s p => s.frameTick p) (b.tickBegun arrive)
    else b.tickBegun arrive := rfl

namespace FrameKept

variable {s t : Block} (h : FrameKept s t)
include h

theorem state : t.merid.state = s.merid.state := congrArg FrameView.state h.view
theorem count : t.merid.count = s.merid.count := congrArg FrameView.count h.view
theorem slots : t.slots = s.slots := congrArg FrameView.slots h.view
theorem frameBound : t.frameBound = s.frameBound := congrArg FrameView.frameBound h.view
theorem votes : t.coll.votes = s.coll.votes := congrArg FrameView.votes h.view

theorem tickSends : FrameKept s t.tickSends := by
  have hout : FrameKept s (if bit (t.reg .merid 0x040) 10 then t.emit .tickOut else t) := by
    split
    · exact h.emit _
    · exact h
  unfold Block.tickSends
  dsimp only
  generalize (if bit (t.reg .merid 0x040) 10 then t.emit .tickOut else t) = u at hout ⊢
  have hsym : FrameKept s (if u.merid.sendsTicks then u.toLinks u.upLinks u.tickBytes else u) := by
    split
    · exact hout.toLinks _ _
    · exact hout
  generalize (if u.merid.sendsTicks then u.toLinks u.upLinks u.tickBytes else u) = v at hsym ⊢
  split
  · exact hsym.sendMasterIds
  · exact hsym

theorem tickRest (hv : t.coll.votes = []) : FrameKept s t.tickRest := by
  have hfresh := h.modMerid (fun m => { m with links := smMapVals ({} : MLink) m.links fun _ l => { l with fresh := false } }) rfl rfl
  have hpoison : FrameKept s (if t.poisonLatch then
      { t.modMerid fun m => { m with links := smMapVals ({} : MLink) m.links fun _ l => { l with fresh := false } } with poisonTick := true }
      else t.modMerid fun m => { m with links := smMapVals ({} : MLink) m.links fun _ l => { l with fresh := false } }) := by
    split
    · exact hfresh.other rfl rfl rfl rfl
    · exact hfresh
  refine FrameKept.foldl _ (fun u p => ?_) _ (FrameKept.shedTick (FrameKept.voteTick (FrameKept.hostTick (FrameKept.placeTick
    hpoison.stepBoundary)) ?_))
  · dsimp only
    split
    · exact refl u
    · exact ((refl u).other (u := u.modSyn p _) rfl rfl rfl rfl).modMmu p _
  · exact (FrameKept.hostTick (FrameKept.placeTick hpoison.stepBoundary)).votes.trans (h.votes.symm.trans hv)

end FrameKept

/-! Meridian at a tick (Table 2.4), stage by stage. -/

/-- INIT ends once there is a link, or none is needed. -/
def Block.meridWakes (b : Block) : Block := if b.merid.state = .init ∧ (b.alone ∨ b.upLinks ≠ []) then b.setMerid .listen else b

/-- A master of priority 0 gives up (R54). -/
def Block.meridResigns (b : Block) : Block := if b.merid.state = .master ∧ b.prio = 0 then b.setMerid .listen else b

/-- A master without a reference runs free. -/
def Block.meridFrees (b : Block) : Block :=
  if b.merid.state = .master ∧ !b.refEn then b.modMerid fun m => { m with refState := .freeRun, refLast := none, refExpired := false } else b

/-- The silent ticks and the ticks in the state are counted. -/
def Block.meridCounts (b : Block) : Block :=
  b.modMerid fun m => { m with silentTicks := if m.heard then 0 else m.silentTicks + 1, heard := false, stateTicks := m.stateTicks + 1,
                               followLink := m.followLink.filter fun n => b.up n }

/-- The phase error of a package that is not the master (R49). -/
def Block.meridMeasures (b : Block) (arrive : Int) : Block :=
  match b.upstream with
  | none => b.modMerid fun m => { m with inLink := none, lockStreak := 0 }
  | some (n, h) =>
    let e := arrive - (b.mlink n).comp
    let s := b.modMerid fun m =>
      { m with inLink := some n, followLink := if m.state = .locking then some n else m.followLink, hops := Nat.min (h + 1) 15, phaseErr := e, phasePeak := Nat.max m.phasePeak (Nat.min e.natAbs 0xFFFF),
               lockStreak := if e.natAbs ≤ 25 then m.lockStreak + 1 else 0 }
    if s.merid.state = .locked ∧ 200 < e.natAbs then s.setMerid .outOfStep else s

theorem Block.meridTick_eq (arrive : Int) : b.meridTick arrive =
    let s := b.meridWakes.meridResigns.meridFrees.meridCounts
    if s.merid.state = .master then
      s.modMerid fun m => { m with inLink := none, hops := 0, phaseErr := 0, lockStreak := 0, masterPrio := s.prio }
    else s.meridMeasures arrive := rfl

namespace FrameKept

variable {s t : Block} (h : FrameKept s t)
include h

theorem meridFrees : FrameKept s t.meridFrees := by
  unfold Block.meridFrees
  split
  · exact h.modMerid _ rfl rfl
  · exact h

theorem meridCounts : FrameKept s t.meridCounts := h.modMerid _ rfl rfl

/-- Outside LOCKED a phase error moves no state. -/
theorem meridMeasures (arrive : Int) (hs : t.merid.state ≠ .locked) : FrameKept s (t.meridMeasures arrive) := by
  unfold Block.meridMeasures
  split
  · exact h.modMerid _ rfl rfl
  · simp only [Block.modMerid_merid, hs, false_and, if_false]
    exact h.modMerid _ rfl rfl

end FrameKept

/-- A master of nonzero priority stays master, and keeps what frames turn on. -/
theorem FrameKept.meridTick_master (arrive : Int) (hs : b.merid.state = .master) (hp : b.prio ≠ 0) : FrameKept b (b.meridTick arrive) := by
  have hwakes : b.meridWakes = b := if_neg (by simp [hs])
  have hresigns : b.meridResigns = b := if_neg (by simp [hp])
  have hkept := (FrameKept.refl b).meridFrees.meridCounts
  have hstate : b.meridFrees.meridCounts.merid.state = .master := hkept.state.trans hs
  rw [Block.meridTick_eq, hwakes, hresigns]
  dsimp only
  rw [if_pos hstate]
  exact hkept.modMerid _ rfl rfl

/-- A master of priority 0 goes to LISTEN (R54). -/
theorem FrameKept.meridTick_resigned (arrive : Int) (hs : b.merid.state = .master) (hp : b.prio = 0) :
    FrameKept (b.modMerid (·.entered .listen)) (b.meridTick arrive) := by
  have hwakes : b.meridWakes = b := if_neg (by simp [hs])
  have hresigns : b.meridResigns = b.setMerid .listen := if_pos ⟨hs, hp⟩
  have hkept := (FrameKept.setMerid (b := b) .listen).meridFrees.meridCounts
  have hstate : (b.setMerid .listen).meridFrees.meridCounts.merid.state = .listen :=
    hkept.state
  rw [Block.meridTick_eq, hwakes, hresigns]
  dsimp only
  rw [if_neg (by simp [hstate])]
  exact hkept.meridMeasures arrive (by simp [hstate])

end Sys2Proof.Machine
end

section
/-! What Meridian does on symbols, claims, timeouts and ticks (R52 to R58, Table 2.4). -/

namespace Sys2Proof.Machine

variable {b u : Block}

/-- The stages of a tick before its frames keep what the state at the tick keeps. -/
theorem FrameKept.tickBegun (arrive : Int) (h : FrameKept u (b.tickTime.meridTick arrive)) (hfb : b.frameBound = [])
    (hv : u.coll.votes = []) : FrameKept u (b.tickBegun arrive) := by
  unfold Block.tickBegun
  rw [Block.applyFb_none (b := b.tickTime) none (by simpa using hfb)]
  exact h.tickSends.tickRest (h.tickSends.votes.trans hv)

/-- The tick at which a master of priority 0 gives up ends in LISTEN, with no frames (R54). -/
theorem tick_resigns {s : State} (arrive : Int) (hr : s.blk.boot.power ≠ .reset) (hd : s.blk.boot.power ≠ .dark)
    (hs : s.blk.merid.state = .master) (hp : s.blk.prio = 0) (hfb : s.blk.frameBound = []) (hv : s.blk.coll.votes = [])
    (hset : s.blk.Settled) : ∃ t : Block, exec (.tick arrive) s = .next (s.withBlk t) ∧ t.merid.state = .listen := by
  have hlisten := FrameKept.meridTick_resigned (b := s.blk.tickTime) arrive (by simpa using hs) (by simpa using hp)
  have hbegun := hlisten.tickBegun arrive hfb (by simpa using hv)
  have hstate : (s.blk.tickBegun arrive).merid.state = .listen := hbegun.state
  obtain ⟨-, -, -, hsettled⟩ := Block.of_clockView hbegun.clock
  have htick : s.blk.tick arrive = s.blk.tickBegun arrive := by
    rw [Block.tick_eq, if_neg (by simp [Merid.framesRun, hstate])]
  refine ⟨_, exec_tick hr hd arrive ?_, by rw [htick]; exact hstate⟩
  rw [htick]
  exact hsettled (by simpa [Block.Settled, Merid.entered] using hset)

/-- Settles O44, one row of Table 2.4 after the other. -/
theorem meridianStateTransitions : Obligations.MeridianStateTransitions := by
  unfold Obligations.MeridianStateTransitions
  intro s n x req arrive hr hd b m goes good y c
  refine ⟨fun hs => ⟨lockAchieved_locks hr hd hs, lockAchieved_early hr hd⟩, fun hc => ⟨?_, ?_, ?_⟩,
    fun ⟨hc, ht, hl⟩ => tickSymbol_otherPeriod hr hd hc ht hl,
    fun ⟨hc, ht, hl⟩ hp => ⟨tickSymbol_locking hr hd hc ht hl hp, tickSymbol_holdover hr hd hc ht hl hp⟩,
    fun ⟨hc, ht, hl⟩ hs => ⟨claimReceive_better hr hd hc ht hl hs, claimReceive_other hr hd hc ht hl hs⟩,
    fun ⟨hc, ht, hl⟩ hs hne => ⟨masterIdReceive_better hr hd hc ht hl hs hne, masterIdReceive_other hr hd hc ht hl hs hne⟩,
    masterTimeout_claims hr hd, holdoverClaim_claims hr hd, claimWon_masters hr hd, claimWon_none hr hd, holdoverEntry_holds hr hd,
    masterResign_waits hr hd, tick_resigns arrive hr hd, masterIdBroadcast_due hr hd, masterIdBroadcast_idle hr hd⟩
  · rw [exec_tickSymbolReceive hr hd, Block.tickIn_bad hc]
  · rw [exec_claimReceive hr hd, Block.claimIn_bad hc]
  · rw [exec_masterIdReceive hr hd, Block.ctlIn_bad _ hc]

end Sys2Proof.Machine
end

section
/-! The frames of the partitions at a tick (R47, R64, R67), where nothing else waits for a frame boundary. -/

namespace Sys2Proof.Machine

variable {u v w : Block} {p q : Nat}

/-- Nothing of partition `p` waits for its frame boundary beside its slots. -/
structure Block.CalmAt (u : Block) (p : Nat) : Prop where
  abort : (u.part p).abort = false
  draining : (u.hdr (.part p)).draining = false
  bfStop : (u.part p).bfStopDue = false

/-- No frame boundary does more than begin a frame. -/
structure Block.Calm (u : Block) : Prop where
  frameBound : u.frameBound = []
  partsWf : smWf {} u.parts = true
  pagesWf : smWf {} u.pages = true
  parts : ∀ p < 12, u.CalmAt p

/-- From `u` to `v` partition `p` keeps what its frames turn on. -/
structure PartFrameKept (p : Nat) (u v : Block) : Prop where
  part : (v.part p).frameView = (u.part p).frameView
  draining : (v.hdr (.part p)).draining = (u.hdr (.part p)).draining
  slots : ∀ i < 153, v.slot p i 0 = u.slot p i 0

namespace PartFrameKept

theorem refl (p : Nat) (u : Block) : PartFrameKept p u u := ⟨rfl, rfl, fun _ _ => rfl⟩

theorem trans (h : PartFrameKept p u v) (h' : PartFrameKept p v w) : PartFrameKept p u w :=
  ⟨h'.part.trans h.part, h'.draining.trans h.draining, fun i hi => (h'.slots i hi).trans (h.slots i hi)⟩

variable (h : PartFrameKept p u v)
include h

theorem calmAt (hu : u.CalmAt p) : v.CalmAt p :=
  ⟨(congrArg Part.abort h.part).trans hu.abort, h.draining.trans hu.draining, (congrArg Part.bfStopDue h.part).trans hu.bfStop⟩

/-- The cores that have not finished their frame are the same. -/
theorem unfinished : v.unfinished p = u.unfinished p := by
  have hframes : (v.part p).frames = (u.part p).frames := by
    have hstate := congrArg Part.state h.part
    unfold Part.frames
    rw [show (v.part p).state = (u.part p).state from hstate]
  have hdue : v.boundaryDue p = u.boundaryDue p := by
    have habort := congrArg Part.abort h.part
    have hpreempt := congrArg Part.preempt h.part
    have hcommit := congrArg Part.commit h.part
    have hstop := congrArg Part.bfStopDue h.part
    simp only [Part.frameView] at habort hpreempt hcommit hstop
    simp only [Block.boundaryDue, habort, hpreempt, hcommit, hstop, h.draining]
  unfold Block.unfinished
  rw [hframes]
  split
  · refine List.filter_congr fun i hi => ?_
    rw [h.slots i (List.mem_range.1 hi), hdue]
  · rfl

end PartFrameKept

/-- What frames turn on being kept, it is kept for each partition. -/
theorem FrameKept.part (h : FrameKept u v) (hp : smWf {} u.parts = true) (hh : smWf {} u.pages = true) (p : Nat) : PartFrameKept p u v :=
  ⟨(h.parts hp).2 p, (h.pages hh).2 _, fun i _ => by unfold Block.slot; rw [h.slots]⟩

theorem FrameKept.calm (h : FrameKept u v) (hu : u.Calm) : v.Calm :=
  ⟨h.frameBound.trans hu.frameBound, (h.parts hu.partsWf).1, (h.pages hu.pagesWf).1,
    fun p hp => (h.part hu.partsWf hu.pagesWf p).calmAt (hu.parts p hp)⟩

/-! Slots. -/

/-- A slot's key says which partition it is of. -/
theorem slotKey_ne {i j : Nat} (hi : i < 153) (hj : j < 153) (h : p ≠ q) : slotKey p i 0 ≠ slotKey q j 0 := by
  unfold slotKey
  omega

/-- The slots of a partition go on. -/
def Block.resumeSlots (u : Block) (p : Nat) : Block :=
  (List.range 153).foldl (fun s i => if (s.slot p i 0).wait = .frameEnd then s.modSlot p i 0 Slot.resume else s) u

/-- Only slots change, and of other partitions none. -/
theorem Block.resumeSlots_keeps (u : Block) (p : Nat) : ∃ slots, u.resumeSlots p = { u with slots := slots } ∧
    ∀ q, q ≠ p → ∀ i < 153, (u.resumeSlots p).slot q i 0 = u.slot q i 0 := by
  refine List.foldlRecOn (motive := fun t : Block => ∃ slots, t = { u with slots := slots } ∧
    ∀ q, q ≠ p → ∀ i < 153, t.slot q i 0 = u.slot q i 0) (List.range 153) _ ⟨u.slots, rfl, fun _ _ _ _ => rfl⟩ ?_
  rintro t ⟨slots, ht, hkeep⟩ i hi
  split
  · refine ⟨_, by rw [ht]; rfl, fun q hq j hj => ?_⟩
    rw [← hkeep q hq j hj]
    exact smGet_mod_ne _ _ (slotKey_ne hj (List.mem_range.1 hi) hq)
  · exact ⟨slots, ht, hkeep⟩

/-! The frame of one partition. -/

/-- A partition as its frame begins (R47, R65), `count` the count of Meridian. -/
def Part.starts (x : Part) (count : Nat) : Part :=
  { x with frame := count + b2n (decide (x.behind ≠ 0)) - x.behind, late := decide (x.behind ≠ 0), atBoundary := true,
           commitDue := x.commit, poisonFrame := false, slipped := x.slipped && decide (x.behind ≠ 0) }

theorem Block.modPart_part_self (p : Nat) (f : Part → Part) (h : smWf {} u.parts = true) : (u.modPart p f).part p = f (u.part p) :=
  smGet_mod_self ({} : Part) p f h

theorem Block.modPart_part_ne (f : Part → Part) (h : q ≠ p) : (u.modPart p f).part q = u.part q := smGet_mod_ne ({} : Part) f h

/-- Without an abort none acts. -/
theorem Block.abortNow_none (h : (u.part p).abort = false) : u.abortNow p = u := if_pos (by simp [h])

/-- The frame boundary of partition `p`, beside the start of its frame (R21, R369, R386). -/
def Block.boundary (u : Block) (p : Nat) : Block :=
  let s := u.applyFb (some p)
  let s := if (s.hdr (.part p)).draining then
      (s.modHdr (.part p) fun h => { h with draining := false }).modPart p fun q => { q with abort := q.abort || (q.jobOf 0).isSome }
    else s
  let s := s.abortNow p
  let s := if (s.part p).bfStopDue then s.stopBackfill p else s
  s.resumeSlots p

theorem Block.frameStart_eq : u.frameStart p = (u.modPart p (·.starts u.merid.count)).boundary p := rfl

/-- A frame boundary for which nothing waits beside the slots. -/
theorem Block.boundary_calm (hfb : u.frameBound = []) (hc : u.CalmAt p) : u.boundary p = u.resumeSlots p := by
  have hdrain : ¬ (u.hdr (.part p)).draining = true := by simp [hc.draining]
  have hstop : ¬ (u.part p).bfStopDue = true := by simp [hc.bfStop]
  unfold Block.boundary
  rw [Block.applyFb_none _ hfb]
  dsimp only
  rw [if_neg hdrain, Block.abortNow_none hc.abort, if_neg hstop]

/-- A change of one partition that leaves what waits for its boundary. -/
theorem Block.Calm.modPart (hu : u.Calm) (f : Part → Part) (hf : ∀ x, (f x).abort = x.abort ∧ (f x).bfStopDue = x.bfStopDue) :
    (u.modPart p f).Calm := by
  refine ⟨hu.frameBound, smWf_mod _ _ _ hu.partsWf, hu.pagesWf, fun q hq => ?_⟩
  obtain ⟨habort, hdrain, hstop⟩ := hu.parts q hq
  by_cases hqp : q = p
  · subst hqp
    have hself := Block.modPart_part_self q f hu.partsWf
    exact ⟨by rw [hself, (hf _).1]; exact habort, hdrain, by rw [hself, (hf _).2]; exact hstop⟩
  · have hne := Block.modPart_part_ne (u := u) f hqp
    exact ⟨by rw [hne]; exact habort, hdrain, by rw [hne]; exact hstop⟩

/-- The partition whose frame is complete: the next begins at once, none behind (R47). -/
theorem Block.frameTick_complete (hu : u.Calm) (hp : p < 12) (h : u.unfinished p = []) : u.frameTick p =
    ((u.modPart p fun x => { x with behind := 0 }).modPart p (·.starts u.merid.count)).resumeSlots p := by
  have htick : u.frameTick p = (u.modPart p fun x => { x with behind := 0 }).frameStart p := by
    unfold Block.frameTick
    rw [h]
    rfl
  have hcalm := (hu.modPart (p := p) (fun x => { x with behind := 0 }) fun _ => ⟨rfl, rfl⟩).modPart (p := p) (·.starts u.merid.count)
    fun _ => ⟨rfl, rfl⟩
  rw [htick, Block.frameStart_eq]
  exact Block.boundary_calm hcalm.frameBound (hcalm.parts p hp)

/-- The partition whose frame is not complete falls one frame behind, and keeps the rest that frames turn on (R64). -/
theorem Block.frameTick_overrun (h : u.unfinished p ≠ []) :
    FrameKept (u.modPart p fun x => { x with behind := x.behind + 1 }) (u.frameTick p) := by
  have htick : u.frameTick p = u.overrun p (u.unfinished p) := if_neg (by simpa using h)
  have hlog := (FrameKept.refl (u.modPart p fun x => { x with behind := x.behind + 1 })).log .merid (8 + p) (.inr (by omega))
  rw [htick]
  unfold Block.overrun
  dsimp only
  refine FrameKept.trace (FrameKept.raise ?_ .merid 5) 5 _ _
  split
  · split
    · exact hlog
    · exact hlog.modMerid _ rfl rfl
  · exact hlog

/-! One partition's frame, seen from the partitions. -/

/-- What the tick does to partition `p`: a frame that is complete gives way to the one of this count, another falls one behind. -/
structure PartTicked (p : Nat) (u v : Block) : Prop where
  complete : u.unfinished p = [] → (v.part p).behind = 0 ∧ (v.part p).atBoundary = true ∧ (v.part p).frame = u.merid.count
  overrun : u.unfinished p ≠ [] → (v.part p).behind = (u.part p).behind + 1 ∧ (v.part p).frame = (u.part p).frame

/-- What frames turn on tells how far the partition is. -/
theorem Part.of_frameView {x y : Part} (h : x.frameView = y.frameView) :
    x.behind = y.behind ∧ x.atBoundary = y.atBoundary ∧ x.frame = y.frame :=
  ⟨(congrArg Part.behind h :), (congrArg Part.atBoundary h :), (congrArg Part.frame h :)⟩

/-- What comes after keeps the partition. -/
theorem PartTicked.trans_kept (h : PartTicked p u v) (h' : PartFrameKept p v w) : PartTicked p u w := by
  obtain ⟨hbehind, hbound, hframe⟩ := Part.of_frameView h'.part
  exact ⟨by rw [hbehind, hbound, hframe]; exact h.complete, by rw [hbehind, hframe]; exact h.overrun⟩

/-- What came before kept the partition and the count. -/
theorem PartTicked.of_kept (h : PartTicked p v w) (h' : PartFrameKept p u v) (hc : v.clockView = u.clockView) : PartTicked p u w := by
  obtain ⟨hbehind, -, hframe⟩ := Part.of_frameView h'.part
  obtain ⟨-, hcount, -, -⟩ := Block.of_clockView hc
  obtain ⟨hcomplete, hoverrun⟩ := h
  rw [h'.unfinished, hcount] at hcomplete
  rw [h'.unfinished, hbehind, hframe] at hoverrun
  exact ⟨hcomplete, hoverrun⟩

/-- What the frame of partition `p` does to the block. -/
structure FrameTicked (p : Nat) (u v : Block) : Prop where
  clock : v.clockView = u.clockView
  calm : v.Calm
  others : ∀ q, q ≠ p → PartFrameKept q u v
  own : PartTicked p u v

theorem PartFrameKept.modPart (f : Part → Part) (h : q ≠ p) : PartFrameKept q u (u.modPart p f) :=
  ⟨by rw [Block.modPart_part_ne f h], rfl, fun _ _ => rfl⟩

theorem Block.frameTick_ticked (hu : u.Calm) (hp : p < 12) : FrameTicked p u (u.frameTick p) := by
  by_cases h : u.unfinished p = []
  · rw [Block.frameTick_complete hu hp h]
    have hcaught := hu.modPart (p := p) (fun x => { x with behind := 0 }) fun _ => ⟨rfl, rfl⟩
    have hcalm := hcaught.modPart (p := p) (·.starts u.merid.count) fun _ => ⟨rfl, rfl⟩
    have hkept (q : Nat) (hq : q ≠ p) := (PartFrameKept.modPart (u := u) (fun x => { x with behind := 0 }) hq).trans
      (PartFrameKept.modPart (·.starts u.merid.count) hq)
    have hpart : ((u.modPart p fun x => { x with behind := 0 }).modPart p (·.starts u.merid.count)).part p =
        Part.starts { u.part p with behind := 0 } u.merid.count := by
      rw [Block.modPart_part_self p _ hcaught.partsWf, Block.modPart_part_self p _ hu.partsWf]
    have hclock : ((u.modPart p fun x => { x with behind := 0 }).modPart p (·.starts u.merid.count)).clockView = u.clockView := rfl
    generalize (u.modPart p fun x => { x with behind := 0 }).modPart p (·.starts u.merid.count) = g at hcalm hkept hpart hclock ⊢
    obtain ⟨slots, hg, hslots⟩ := g.resumeSlots_keeps p
    refine ⟨?_, ?_, fun q hq => (hkept q hq).trans ⟨by rw [hg]; rfl, by rw [hg]; rfl, hslots q hq⟩, fun _ => ?_, fun hne => absurd h hne⟩
    · rw [hg]
      exact hclock
    · rw [hg]
      exact ⟨hcalm.frameBound, hcalm.partsWf, hcalm.pagesWf, fun q hq => ⟨(hcalm.parts q hq).abort, (hcalm.parts q hq).draining, (hcalm.parts q hq).bfStop⟩⟩
    · have hsame : (g.resumeSlots p).part p = g.part p := by rw [hg]; rfl
      rw [hsame, hpart]
      exact ⟨rfl, rfl, rfl⟩
  · have hover := Block.frameTick_overrun h
    have hcalm := hu.modPart (p := p) (fun x => { x with behind := x.behind + 1 }) fun _ => ⟨rfl, rfl⟩
    refine ⟨hover.clock, hover.calm hcalm, fun q hq => (PartFrameKept.modPart _ hq).trans (hover.part hcalm.partsWf hcalm.pagesWf q),
      fun he => absurd he h, fun _ => ?_⟩
    have hpart := (hover.part hcalm.partsWf hcalm.pagesWf p).part
    rw [Block.modPart_part_self p _ hu.partsWf] at hpart
    obtain ⟨hbehind, -, hframe⟩ := Part.of_frameView hpart
    exact ⟨hbehind, hframe⟩

/-! All frames of a tick. -/

theorem Block.Calm.frameTicks (l : List Nat) (hl : ∀ q ∈ l, q < 12) (hd : l.Nodup) (hu : u.Calm) :
    (l.foldl (fun s q => s.frameTick q) u).clockView = u.clockView ∧
      (p ∉ l → PartFrameKept p u (l.foldl (fun s q => s.frameTick q) u)) ∧
      (p ∈ l → PartTicked p u (l.foldl (fun s q => s.frameTick q) u)) := by
  induction l generalizing u with
  | nil => exact ⟨rfl, fun _ => .refl p u, nofun⟩
  | cons q l ih =>
    obtain ⟨hq, hl⟩ := List.forall_mem_cons.1 hl
    obtain ⟨hql, hd⟩ := List.nodup_cons.1 hd
    obtain ⟨hclock, hcalm, hothers, hown⟩ := Block.frameTick_ticked hu hq
    obtain ⟨hclock', hkept, hticked⟩ := ih hl hd hcalm
    refine ⟨hclock'.trans hclock, fun hp => ?_, fun hp => ?_⟩
    · simp only [List.mem_cons, not_or] at hp
      obtain ⟨hpq, hpl⟩ := hp
      exact (hothers p hpq).trans (hkept hpl)
    · by_cases hpq : p = q
      · subst hpq
        exact hown.trans_kept (hkept hql)
      · exact (hticked ((List.mem_cons.1 hp).resolve_left hpq)).of_kept (hothers p hpq) hclock

end Sys2Proof.Machine
end

section
/-! A TICK at the master (R46, R47, R64). -/

namespace Sys2Proof.Machine

variable {b : Block}

@[simp] theorem Block.tickTime_parts : b.tickTime.parts = b.parts := rfl
@[simp] theorem Block.tickTime_pages : b.tickTime.pages = b.pages := rfl
@[simp] theorem Block.tickTime_slots : b.tickTime.slots = b.slots := rfl

/-- The time that goes on changes no partition. -/
theorem PartFrameKept.tickTime (p : Nat) : PartFrameKept p b b.tickTime := by
  refine ⟨?_, ?_, fun i _ => ?_⟩
  · unfold Block.part
    rw [Block.tickTime_parts]
  · unfold Block.hdr
    rw [Block.tickTime_pages]
  · unfold Block.slot
    rw [Block.tickTime_slots]

theorem Block.Calm.tickTime (h : b.Calm) : b.tickTime.Calm :=
  ⟨by simpa using h.frameBound, by simpa using h.partsWf, by simpa using h.pagesWf,
    fun p hp => (PartFrameKept.tickTime p).calmAt (h.parts p hp)⟩

/-- The master's tick: the count goes on, and each partition's frame with it. -/
theorem Block.tick_master {p : Nat} (arrive : Int) (hs : b.merid.state = .master) (hprio : b.prio ≠ 0) (hv : b.coll.votes = [])
    (hcalm : b.Calm) (hp : p < 12) : (b.tick arrive).clockView = b.tickTime.clockView ∧
      (b.unfinished p = [] → ((b.tick arrive).part p).behind = 0 ∧ ((b.tick arrive).part p).atBoundary = true ∧
        ((b.tick arrive).part p).frame = b.tickTime.merid.count) ∧
      (b.unfinished p ≠ [] → ((b.tick arrive).part p).behind = (b.part p).behind + 1 ∧
        ((b.tick arrive).part p).frame = (b.part p).frame) := by
  have hmaster := FrameKept.meridTick_master (b := b.tickTime) arrive (by simpa using hs) (by simpa using hprio)
  have hbegun := hmaster.tickBegun arrive hcalm.frameBound (by simpa using hv)
  have hruns : (b.tickBegun arrive).merid.framesRun = true := by
    simp [Merid.framesRun, hbegun.state, hs]
  have htick : b.tick arrive = (List.range 12).foldl (fun s q => s.frameTick q) (b.tickBegun arrive) := by
    rw [Block.tick_eq, if_pos hruns]
  have hkept := (PartFrameKept.tickTime p).trans (hbegun.part hcalm.tickTime.partsWf hcalm.tickTime.pagesWf p)
  have hmem : p ∈ List.range 12 := List.mem_range.2 hp
  obtain ⟨hclock, -, hticked⟩ := Block.Calm.frameTicks (p := p) (List.range 12) (fun _ => List.mem_range.1) (by decide)
    (hbegun.calm hcalm.tickTime)
  obtain ⟨hcomplete, hoverrun⟩ := hticked hmem
  obtain ⟨hbehind, -, hframe⟩ := Part.of_frameView hkept.part
  rw [hkept.unfinished, hbegun.count] at hcomplete
  rw [hkept.unfinished, hbehind, hframe] at hoverrun
  rw [htick]
  exact ⟨hclock.trans hbegun.clock, hcomplete, hoverrun⟩

end Sys2Proof.Machine
end

section
/-! The digests exchanged after a change of the period (R62, R230): what the links then do leaves the registers and the period alone. -/

namespace Sys2Proof.Machine

/-- From `s` to `t` the registers and Meridian's period are kept, and the canonical form of the page headers. -/
structure PeriodKept (s t : Block) : Prop where
  regs : t.regs = s.regs
  period : t.merid.period = s.merid.period
  wf : smWf {} s.pages = true → smWf {} t.pages = true

namespace PeriodKept

theorem refl (s : Block) : PeriodKept s s := ⟨rfl, rfl, id⟩

variable {s t u : Block}

theorem trans (h : PeriodKept s t) (h' : PeriodKept t u) : PeriodKept s u :=
  ⟨h'.regs.trans h.regs, h'.period.trans h.period, h'.wf ∘ h.wf⟩

theorem foldl {β : Type} (f : Block → β → Block) (hf : ∀ t b, PeriodKept t (f t b)) (l : List β) (h : PeriodKept s t) :
    PeriodKept s (l.foldl f t) :=
  foldl_keeps (PeriodKept s) f (fun t b ht => ht.trans (hf t b)) l h

variable (h : PeriodKept s t)
include h

/-- A change of other fields. -/
theorem other (hr : u.regs = t.regs) (hm : u.merid.period = t.merid.period) (hp : u.pages = t.pages) : PeriodKept s u :=
  h.trans ⟨hr, hm, by rw [hp]; exact id⟩

theorem emit (o : Out) : PeriodKept s (t.emit o) := h.other rfl rfl rfl
theorem modLink (n : Nat) (f : Link → Link) : PeriodKept s (t.modLink n f) := h.other rfl rfl rfl
theorem modMlink (n : Nat) (f : MLink → MLink) : PeriodKept s (t.modMlink n f) := h.other rfl rfl rfl
theorem sendCtl (n : Nat) (bs : List Nat) : PeriodKept s (t.sendCtl n bs) := h.emit _

theorem log (pg : Page) (n : Nat) : PeriodKept s (t.log pg n) :=
  h.trans ⟨by simp, by simp, (t.log_causesKept pg n (.refl _)).wf⟩

theorem raise (pg : Page) (n : Nat) : PeriodKept s (t.raise pg n) :=
  h.trans ⟨by simp, by simp, (t.raise_causesKept pg n (.refl _)).wf⟩

theorem trace (src off : Nat) (d : List Nat) : PeriodKept s (t.trace src off d) :=
  h.trans ⟨by simp, by simp, (t.trace_causesKept src off d (.refl _)).wf⟩

theorem setMerid (st : MState) : PeriodKept s (t.setMerid st) :=
  Block.setMerid_induction st (fun _ pg n h => h.raise pg n) (fun _ src off d h => h.trace src off d) (fun _ h => h.log .merid 4)
    (fun _ _ _ h => h.other rfl rfl rfl) (h.other rfl rfl rfl)

/-! Flits and packets out. -/

theorem sendIdle (n c : Nat) : PeriodKept s (t.sendIdle n c) := by
  unfold Block.sendIdle
  dsimp only
  split
  · exact h.emit _
  · exact h

theorem giveCredit (n : Nat) (shares : List Nat) : PeriodKept s (t.giveCredit n shares) := by
  unfold Block.giveCredit
  split
  · exact h
  · exact foldl _ (fun v c => (refl v).sendIdle n c) _ (h.modLink n _)

theorem sendFlit (n : Nat) (f : Flit) : PeriodKept s (t.sendFlit n f) := (h.modLink n _).emit _

omit h in
theorem pumpN (n : Nat) (new : Bool) (fuel : Nat) (h : PeriodKept s t) : PeriodKept s (t.pumpN n new fuel) := by
  induction fuel generalizing t with
  | zero => exact h
  | succ fuel ih =>
    unfold Block.pumpN
    split
    · exact h
    · rename_i x c _
      have hsent (f : Flit) := (h.modLink n fun l => l.takeFlit x f).sendFlit n f
      have hfreed (f : Flit) : PeriodKept s (if f.eop then ((t.modLink n fun l => l.takeFlit x f).sendFlit n f).giveCredit x.src x.shares
          else (t.modLink n fun l => l.takeFlit x f).sendFlit n f) := by
        split
        · exact (hsent f).giveCredit _ _
        · exact hsent f
      exact ih (hfreed _)

theorem pump (n : Nat) : PeriodKept s (t.pump n) := by
  unfold Block.pump
  dsimp only
  split
  · exact pumpN n _ _ h
  · exact pumpN n _ _ h
  · exact pumpN n _ _ h
  · exact pumpN n _ _ h
  · exact h

theorem txPacket (n src : Nat) (k : Pkt) (shares : List Nat) : PeriodKept s (t.txPacket n src k shares) := (h.modLink n _).pump n

theorem noteVia (l : Nat) (k : Pkt) : PeriodKept s (t.noteVia l k) := by
  unfold Block.noteVia
  split
  · exact h.other rfl rfl rfl
  · exact h

theorem routeOut (r src : Nat) (k : Pkt) (shares : List Nat) : PeriodKept s (t.routeOut r src k shares).2 := by
  unfold Block.routeOut
  split
  · dsimp only
    refine txPacket (noteVia ?_ _ _) _ _ _ _
    split
    · exact h
    · exact (h.raise _ _).log _ _
  · exact h.other rfl rfl rfl
  · exact ((h.raise _ _).log _ _).giveCredit _ _

theorem send (r src : Nat) (k : Pkt) (shares : List Nat) : PeriodKept s (t.send r src k shares) := by
  have hout := h.routeOut r src k shares
  unfold Block.send
  split
  rename_i lost v hv
  rw [hv] at hout
  split
  · exact hout.routeOut r 36 _ []
  · exact hout

/-! Link states. -/

theorem enterLink (n : Nat) (st : LState) : PeriodKept s (t.enterLink n st) := ((h.modLink n _).raise _ _).trace _ _ _

theorem requeue (n : Nat) : PeriodKept s (t.requeue n) := by
  unfold Block.requeue
  dsimp only
  refine foldl _ (fun v x => ?_) _ (h.modLink n _)
  exact (refl v).send n _ _ _

theorem linkUp (n : Nat) (trained : Bool) : PeriodKept s (t.linkUp n trained) := by
  have hlink : PeriodKept s (if trained then t.modMlink n fun _ => { comp := compOf (t.link n).rtt } else t.modMlink n fun l => { l with mid := none }) := by
    split
    · exact h.modMlink n _
    · exact h.modMlink n _
  unfold Block.linkUp
  dsimp only
  generalize (if trained then t.modMlink n fun _ => { comp := compOf (t.link n).rtt } else t.modMlink n fun l => { l with mid := none }) = v at hlink ⊢
  have hsent : PeriodKept s (if v.merid.sendsId then v.sendCtl n v.masterBytes else v) := by
    split
    · exact hlink.sendCtl n _
    · exact hlink
  generalize (if v.merid.sendsId then v.sendCtl n v.masterBytes else v) = w at hsent ⊢
  split
  · exact hsent.setMerid .listen
  · exact hsent

theorem setLink (n : Nat) (st : LState) : PeriodKept s (t.setLink n st) := by
  unfold Block.setLink
  dsimp only
  split
  · exact h
  · have hin := h.enterLink n st
    split
    · split
      · exact (hin.linkUp n _).pump n
      · exact (hin.enterLink n .drainQuarantine).requeue n
    · exact hin.requeue n
    · exact hin.requeue n
    · exact hin

theorem digestAt (n : Nat) : PeriodKept s (t.digestAt n) := by
  have hsent := h.sendCtl n (t.digest n)
  unfold Block.digestAt
  dsimp only
  split
  · exact h
  · split
    · exact hsent
    · have hquar (f : Link → Link) := hsent.modLink n f
      split
      · split
        · exact hquar _
        · exact (hquar _).setLink n _
      · split
        · exact (hquar _).setLink n _
        · exact hquar _
      · exact hquar _

theorem digestChanged : PeriodKept s t.digestChanged := foldl _ (fun v n => (refl v).digestAt n) _ h

end PeriodKept

end Sys2Proof.Machine
end

section
/-! The time that Meridian keeps (R46, R47, R50, R60, R62, R64, R65): frames that slip, the reference, the change of the period and the
round trips. -/

namespace Sys2Proof.Machine

variable {b : Block}

/-! Words of the register store. -/

theorem Block.reg_setReg_self {pg : Page} {o : Nat} (v : Nat) (h : smWf 0 b.regs = true) : (b.setReg pg o v).reg pg o = v % 2 ^ 32 := by
  have hget := smGet_put_self 0 ((pg.home o).addr o) (BitVec.ofNat 32 v ^^^ BitVec.ofNat 32 ((pg.home o).resetWord o)) ((smWf_iff 0 b.regs).1 h).1
  unfold Block.setReg Block.reg
  dsimp only
  rw [hget, BitVec.xor_assoc, BitVec.xor_self, BitVec.xor_zero, BitVec.toNat_ofNat]

theorem Block.reg_setReg_ne {pg pg' : Page} {o o' : Nat} (v : Nat) (h : (pg'.home o').addr o' ≠ (pg.home o).addr o) :
    (b.setReg pg o v).reg pg' o' = b.reg pg' o' := by
  unfold Block.setReg Block.reg
  dsimp only
  rw [smGet_put_ne 0 _ h]

theorem Block.setReg_wf {pg : Page} {o : Nat} (v : Nat) (h : smWf 0 b.regs = true) : smWf 0 (b.setReg pg o v).regs = true :=
  smWf_put 0 _ _ h

/-! FRAME_SLIP (R65). -/

theorem Block.jobFault_causesKept (p cause job detail lcore : Nat) : CausesKept b.pages (b.jobFault p cause job detail lcore).pages := by
  have hlog := b.log_causesKept (.part p) 0 (.refl _)
  unfold Block.jobFault
  dsimp only
  split
  · exact hlog
  · exact Block.raise_causesKept _ (.part p) 0 hlog

/-- A partition told to have slipped. -/
def Block.slip (b : Block) (p : Nat) : Block :=
  ((b.modPart p fun q => { q with slipped := true }).log .merid (20 + p)).raise .merid 6

/-- A partition more than OVR_LIMIT frames behind that was not told is told, and its job if there is one. -/
theorem Block.frameSlip_cases {p : Nat} (hs : (b.part p).slipped = false) (hl : b.ovrLimit < (b.part p).behind) :
    b.frameSlip p = b.slip p ∨ ∃ job, b.frameSlip p = (b.slip p).jobFault p 7 job (b.part p).behind 0x7FF := by
  have hgo : b.frameSlip p = match (b.part p).bindP with
      | some (job, _) => (b.slip p).jobFault p 7 job (b.part p).behind 0x7FF
      | none => b.slip p := if_neg (by simp [hs, hl])
  rw [hgo]
  cases (b.part p).bindP with
  | none => exact .inl rfl
  | some e => exact .inr ⟨e.1, rfl⟩

/-- What telling leaves (R65). -/
theorem Block.frameSlip_tells {p : Nat} (hs : (b.part p).slipped = false) (hl : b.ovrLimit < (b.part p).behind)
    (hparts : smWf {} b.parts = true) (hpages : smWf {} b.pages = true) :
    ((b.frameSlip p).part p).slipped = true ∧ (b.frameSlip p).causeSet .merid 6 = true ∧ (b.frameSlip p).slots = b.slots := by
  let t := (b.modPart p fun q => { q with slipped := true }).log .merid (20 + p)
  have hkept : FrameKept (b.modPart p fun q => { q with slipped := true }) (b.slip p) :=
    ((FrameKept.refl _).log .merid (20 + p) (.inr (by omega))).raise .merid 6
  have hwf : smWf {} t.pages = true := (Block.log_causesKept _ .merid (20 + p) (.refl _)).wf hpages
  have hself := Block.modPart_part_self (u := b) p (fun q => { q with slipped := true }) hparts
  have hfinal (v : Block) (hv : FrameKept (b.modPart p fun q => { q with slipped := true }) v) (hc : CausesKept (b.slip p).pages v.pages) :
      (v.part p).slipped = true ∧ v.causeSet .merid 6 = true ∧ v.slots = b.slots := by
    have hpart := (hv.part (Block.modPart_wf p _ hparts) hpages p).part
    refine ⟨?_, t.raise_causeSet_kept (by decide) hwf hc, hv.slots⟩
    rw [hself] at hpart
    exact (congrArg Part.slipped hpart :)
  rcases Block.frameSlip_cases hs hl with h | ⟨job, h⟩
  · rw [h]
    exact hfinal _ hkept (.refl _)
  · rw [h]
    exact hfinal _ (hkept.jobFault _ _ _ _ _) (Block.jobFault_causesKept ..)

/-! The reference (R60). -/

theorem Block.refEdge_ignored {dt high residual : Nat} (h : b.merid.state ≠ .master ∨ b.refEn = false ∨ high < 100) :
    b.refEdge dt high residual = b := if_pos (by simpa using h)

/-- An edge long enough, at a master that uses the reference: too early a one is counted and raises its cause, another is accepted. -/
theorem Block.refEdge_taken {dt high residual : Nat} (hs : b.merid.state = .master) (he : b.refEn = true) (hh : 100 ≤ high) :
    b.refEdge dt high residual = if b.merid.refLast.isSome ∧ 2 * dt < b.refPeriod * 1000 then (b.log .merid 0).raise .merid 7
      else b.modMerid fun m => { m with refLast := some b.timeUs, refState := if residual < 100 then .refLocked else m.refState,
                                        refExpired := m.refExpired && !decide (residual < 100) } :=
  if_neg (by simp [hs, he, hh])

/-- Two periods after the last edge the reference is in holdover. -/
theorem Block.refHoldover_eq {t : Nat} (ht : b.merid.refLast = some t) (hs : b.merid.state = .master) (he : b.refEn = true)
    (hr : b.merid.refState ≠ .holdover) : b.refHoldover = if t + 2 * b.refPeriod ≤ b.timeUs then
      ((b.modMerid fun m => { m with refState := .holdover, refHoldUs := b.timeUs }).raise .merid 3).log .merid 1 else b := by
  unfold Block.refHoldover
  rw [ht]
  simp [hs, he, hr]

/-- After 10 minutes of holdover it has expired. -/
theorem Block.refExpire_eq (hs : b.merid.state = .master) (hr : b.merid.refState = .holdover) (hx : b.merid.refExpired = false) :
    b.refExpire = if b.merid.refHoldUs + 600000000 ≤ b.timeUs then (b.modMerid fun m => { m with refExpired := true }).raise .merid 4
      else b := by
  unfold Block.refExpire
  simp [hs, hr, hx]

/-! The change of the period (R62). -/

/-- The count at which an armed switch written happens: what was written, or 8 ticks ahead. -/
theorem Block.switchArm_switchAt {v : Nat} (hv : bit v 31 = true) (h : smWf 0 b.regs = true) :
    (b.switchArm v).switchAt = (if bits v 0 16 * 2 ^ 32 + b.reg .merid 0x048 < b.merid.count + 8 then (b.merid.count + 8) % 2 ^ 48
      else bits v 0 16 * 2 ^ 32 + b.reg .merid 0x048) ∧ (b.switchArm v).merid = b.merid := by
  have hne : (Page.merid.home 0x048).addr 0x048 ≠ (Page.merid.home 0x04C).addr 0x04C := by decide
  let w := b.setReg .merid 0x04C (bits v 31 1 * 2 ^ 31 + bits v 0 16)
  have hw : w.switchAt = bits v 0 16 * 2 ^ 32 + b.reg .merid 0x048 := by
    unfold Block.switchAt Block.fld
    rw [Block.reg_setReg_self _ h, Block.reg_setReg_ne _ hne]
    simp only [bits]
    omega
  have harm : b.switchArm v = if bits v 0 16 * 2 ^ 32 + b.reg .merid 0x048 < b.merid.count + 8 then
      ((w.setReg .merid 0x048 ((b.merid.count + 8) % 2 ^ 32)).setReg .merid 0x04C (2 ^ 31 + (b.merid.count + 8) / 2 ^ 32 % 2 ^ 16)).clamped
        .merid 0x04C else w := by
    rw [← hw]
    exact if_congr (by simp [hv]; rfl) rfl rfl
  rw [harm]
  split
  · refine ⟨?_, by simp [w]⟩
    unfold Block.switchAt Block.fld
    rw [Block.clamped_reg, Block.clamped_reg, Block.reg_setReg_self _ (Block.setReg_wf _ (Block.setReg_wf _ h)),
      Block.reg_setReg_ne _ hne, Block.reg_setReg_self _ (Block.setReg_wf _ h)]
    simp only [bits]
    omega
  · exact ⟨hw, rfl⟩

/-- The block at the armed count: the period is NEXT, ARM is clear, and the far sides' periods are looked at again. -/
def Block.periodSwitched (b : Block) : Block :=
  let s := (b.setFld .merid 0x04C 31 1 0).modMerid fun m => { m with period := b.fld .merid 0x044 16 8 }
  { s with links := smMapVals {} s.links fun _ l => { l with periodDue := decide (l.peerDg ≠ []) && decide (l.peerDg.getD 6 0 ≠ s.merid.period) } }

theorem Block.periodSwitch_due (ha : bit (b.reg .merid 0x04C) 31 = true) (hc : b.merid.count = b.switchAt) :
    b.periodSwitch = b.periodSwitched.digestChanged.raise .merid 8 := if_pos ⟨ha, hc⟩

/-- ARM cleared. -/
theorem Block.periodSwitched_armed (h : smWf 0 b.regs = true) : bit (b.periodSwitched.reg .merid 0x04C) 31 = false := by
  have hreg : b.periodSwitched.reg .merid 0x04C = (b.setFld .merid 0x04C 31 1 0).reg .merid 0x04C := rfl
  rw [hreg]
  unfold Block.setFld
  rw [Block.reg_setReg_self _ h]
  unfold bit setBits
  refine decide_eq_false ?_
  omega

end Sys2Proof.Machine
end

section
/-! Settling what Meridian's timekeeping does (R46, R47, R50, R60, R62, R64, R65, R236). -/

namespace Sys2Proof.Machine

section
variable {s : State} (hr : s.blk.boot.power ≠ .reset) (hd : s.blk.boot.power ≠ .dark)
include hr hd

/-- A TICK at the master. -/
theorem tick_advances {p : Nat} (hp : p < 12) (arrive : Int) (hparts : smWf {} s.blk.parts = true) (hpages : smWf {} s.blk.pages = true)
    (hs : s.blk.merid.state = .master) (hprio : s.blk.prio ≠ 0) (hfb : s.blk.frameBound = []) (hv : s.blk.coll.votes = [])
    (hset : s.blk.Settled)
    (hcalm : ∀ p < 12, (s.blk.part p).abort = false ∧ (s.blk.hdr (.part p)).draining = false ∧ (s.blk.part p).bfStopDue = false) :
    ∃ t : Block, exec (.tick arrive) s = .next (s.withBlk t) ∧ t.merid.state = .master ∧
      t.merid.count = (s.blk.merid.adopt.getD s.blk.merid.count + 1) % 2 ^ 48 ∧
      t.timeUs = Nat.max s.blk.timeUs (s.blk.merid.tickUs + s.blk.merid.period) ∧
      (s.blk.unfinished p = [] → (t.part p).behind = 0 ∧ (t.part p).atBoundary = true ∧ (t.part p).frame = t.merid.count) ∧
      (s.blk.unfinished p ≠ [] → (t.part p).behind = (s.blk.part p).behind + 1 ∧ (t.part p).frame = (s.blk.part p).frame) := by
  have hc : s.blk.Calm := ⟨hfb, hparts, hpages, fun q hq => ⟨(hcalm q hq).1, (hcalm q hq).2.1, (hcalm q hq).2.2⟩⟩
  obtain ⟨hclock, hcomplete, hoverrun⟩ := Block.tick_master arrive hs hprio hv hc hp
  obtain ⟨hstate, hcount, htime, hsettled⟩ := Block.of_clockView hclock
  rw [Block.tickTime_state] at hstate
  rw [Block.tickTime_timeUs] at htime
  rw [← hcount] at hcomplete
  rw [Block.tickTime_count] at hcount
  exact ⟨_, exec_tick hr hd arrive (hsettled (by simpa [Block.Settled] using hset)), hstate.trans hs, hcount, htime, hcomplete, hoverrun⟩

theorem frameSlip_quiet (p : Fin 12) (h : (s.blk.part p).slipped = true ∨ (s.blk.part p).behind ≤ s.blk.ovrLimit) :
    exec (.frameSlip p) s = .next s := by
  have hid : s.blk.frameSlip p = s.blk := if_pos (by simpa using h)
  rw [exec_frameSlip hr hd, hid]
  rfl

/-- REF_HOLDOVER. -/
theorem refHoldover_at (hpages : smWf {} s.blk.pages = true) {t : Nat} (ht : s.blk.merid.refLast = some t)
    (hs : s.blk.merid.state = .master) (he : s.blk.refEn = true) (hst : s.blk.merid.refState ≠ .holdover) :
    (t + 2 * s.blk.refPeriod ≤ s.blk.timeUs → ∃ u : Block, exec .refHoldover s = .next (s.withBlk u) ∧ u.merid.refState = .holdover ∧
      u.merid.refHoldUs = s.blk.timeUs ∧ u.causeSet .merid 3 = true) ∧
    (s.blk.timeUs < t + 2 * s.blk.refPeriod → exec .refHoldover s = .next s) := by
  rw [exec_refHoldover hr hd, Block.refHoldover_eq ht hs he hst]
  refine ⟨fun h => ⟨_, rfl, ?_⟩, fun h => ?_⟩
  · rw [if_pos h]
    exact ⟨by simp, by simp, Block.raise_causeSet_kept (s.blk.modMerid _) (by decide) hpages (Block.log_causesKept _ .merid 1 (.refl _))⟩
  · rw [if_neg (by omega)]
    rfl

/-- HOLDOVER_EXPIRED. -/
theorem holdoverExpired_at (hpages : smWf {} s.blk.pages = true) (hs : s.blk.merid.state = .master)
    (hst : s.blk.merid.refState = .holdover) (hx : s.blk.merid.refExpired = false) :
    (s.blk.merid.refHoldUs + 600000000 ≤ s.blk.timeUs → ∃ u : Block, exec .holdoverExpired s = .next (s.withBlk u) ∧
      u.merid.refExpired = true ∧ u.causeSet .merid 4 = true) ∧
    (s.blk.timeUs < s.blk.merid.refHoldUs + 600000000 → exec .holdoverExpired s = .next s) := by
  rw [exec_holdoverExpired hr hd, Block.refExpire_eq hs hst hx]
  refine ⟨fun h => ⟨_, rfl, ?_⟩, fun h => ?_⟩
  · rw [if_pos h]
    exact ⟨by simp, Block.raise_causeSet _ (by decide) hpages⟩
  · rw [if_neg (by omega)]
    rfl

/-- A reference edge taken (R60). -/
theorem tickRefEdge_taken {dt high residual : Nat} (hs : s.blk.merid.state = .master) (he : s.blk.refEn = true) (hh : 100 ≤ high) :
    (s.blk.merid.refLast.isSome = true ∧ 2 * dt < s.blk.refPeriod * 1000 →
      exec (.tickRefEdge dt high residual) s = .next (s.withBlk ((s.blk.log .merid 0).raise .merid 7))) ∧
    (¬ (s.blk.merid.refLast.isSome = true ∧ 2 * dt < s.blk.refPeriod * 1000) → ∃ u : Block,
      exec (.tickRefEdge dt high residual) s = .next (s.withBlk u) ∧ u.merid.refLast = some s.blk.timeUs ∧
        u.merid.refState = if residual < 100 then .refLocked else s.blk.merid.refState) := by
  rw [exec_tickRefEdge hr hd, Block.refEdge_taken hs he hh]
  refine ⟨fun h => by rw [if_pos h], fun h => ⟨_, rfl, ?_⟩⟩
  rw [if_neg h]
  exact ⟨rfl, rfl⟩

theorem tickRefEdge_ignored {dt high residual : Nat} (h : s.blk.merid.state ≠ .master ∨ s.blk.refEn = false ∨ high < 100) :
    exec (.tickRefEdge dt high residual) s = .next s := by
  rw [exec_tickRefEdge hr hd, Block.refEdge_ignored h]
  rfl

/-- PERIOD_SWITCH_ARM with ARM set (R62). -/
theorem periodSwitchArm_arms {req : Requester} {v : BitVec 32} (hregs : smWf 0 s.blk.regs = true) (hw : s.blk.MayWrite .merid req)
    (hv : v.getLsbD 31 = true) : ∃ u : Block, exec (.periodSwitchArm req v) s = .next (s.withBlk u) ∧
      u.switchAt = (if wordField (v.zeroExtend 64) 0 16 * 2 ^ 32 + s.blk.reg .merid 0x048 < s.blk.merid.count + 8
        then (s.blk.merid.count + 8) % 2 ^ 48 else wordField (v.zeroExtend 64) 0 16 * 2 ^ 32 + s.blk.reg .merid 0x048) ∧
      u.merid = s.blk.merid := by
  have hbit : bit v.toNat 31 = true := by
    rw [BitVec.getLsbD, Nat.testBit_eq_decide_div_mod_eq] at hv
    exact hv
  have hword : wordField (v.zeroExtend 64) 0 16 = bits v.toNat 0 16 := by
    have hwide : (v.zeroExtend 64).toNat = v.toNat := by
      simp
      omega
    rw [← bits_eq_wordField, hwide]
  rw [hword]
  exact ⟨_, exec_periodSwitchArm hr hd req v hw, Block.switchArm_switchAt hbit hregs⟩

/-- PERIOD_SWITCH at the armed count (R62). -/
theorem periodSwitch_switches (hregs : smWf 0 s.blk.regs = true) (hpages : smWf {} s.blk.pages = true)
    (ha : bit (s.blk.reg .merid 0x04C) 31 = true) (hc : s.blk.merid.count = s.blk.switchAt) :
    ∃ u : Block, exec .periodSwitch s = .next (s.withBlk u) ∧ u.merid.period = s.blk.fld .merid 0x044 16 8 ∧
      bit (u.reg .merid 0x04C) 31 = false ∧ u.causeSet .merid 8 = true := by
  have hkept := (PeriodKept.refl s.blk.periodSwitched).digestChanged
  have hreg : (s.blk.periodSwitched.digestChanged.raise .merid 8).reg .merid 0x04C = s.blk.periodSwitched.reg .merid 0x04C := by
    unfold Block.reg
    rw [Block.raise_regs, hkept.regs]
  refine ⟨_, exec_periodSwitch hr hd, ?_⟩
  rw [Block.periodSwitch_due ha hc]
  refine ⟨?_, ?_, Block.raise_causeSet _ (by decide) (hkept.wf hpages)⟩
  · rw [Block.raise_merid, hkept.period]
    rfl
  · rw [hreg]
    exact Block.periodSwitched_armed hregs

theorem periodSwitch_waits (hc : s.blk.merid.count ≠ s.blk.switchAt) : exec .periodSwitch s = .next s := by
  have hid : s.blk.periodSwitch = s.blk := if_neg fun h => hc h.2
  rw [exec_periodSwitch hr hd, hid]
  rfl

/-- RTT_ECHO (R50). -/
theorem rttEchoReceive_measures (n : Fin 36) {x : BitVec 128} (rtt : BitVec 32) (hc : ctlGood x.toNat = true) (ht : ctlByte x.toNat 0 = 8)
    (hl : smWf {} s.blk.links = true) (hm : smWf {} s.blk.merid.links = true) :
    ∃ u : Block, exec (.rttEchoReceive n x rtt) s = .next (s.withBlk u) ∧ (u.link n).rtt = Nat.min rtt.toNat 65535 ∧
      (u.mlink n).comp = compOf rtt.toNat := by
  refine ⟨_, exec_rttEchoReceive hr hd n x rtt, ?_⟩
  rw [Block.ctlIn_good _ hc ht]
  refine ⟨?_, ?_⟩
  · exact congrArg Link.rtt (smGet_mod_self ({} : Link) n.val (fun l => { l with rtt := Nat.min rtt.toNat 65535 }) hl)
  · exact congrArg MLink.comp (smGet_mod_self ({} : MLink) n.val (fun l => { l with comp := compOf rtt.toNat }) hm)

end

/-- Settles O45, one command after the other. -/
theorem meridianKeepsTime : Obligations.MeridianKeepsTime := by
  unfold Obligations.MeridianKeepsTime
  intro s p n x v rtt req arrive dt high residual hr hd hparts hregs hpages b m q early
  refine ⟨tick_advances hr hd p.isLt arrive hparts hpages, frameSlip_quiet hr hd p,
    fun hs hl => ⟨_, exec_frameSlip hr hd p, Block.frameSlip_tells hs hl hparts hpages⟩, tickRefEdge_ignored hr hd,
    tickRefEdge_taken hr hd, fun t ht hs he hst => refHoldover_at hr hd hpages ht hs he hst, holdoverExpired_at hr hd hpages,
    periodSwitchArm_arms hr hd hregs, periodSwitch_switches hr hd hregs hpages, periodSwitch_waits hr hd, exec_rttRemeasure hr hd,
    fun hc => ⟨fun ht => ?_, rttEchoReceive_measures hr hd n rtt hc⟩⟩
  rw [exec_rttProbeReceive hr hd, Block.ctlIn_good _ hc ht]
  rfl

end Sys2Proof.Machine
end

section
/-! Accesses to memory that meet no physical error change memory, the controllers on the way and their Logbook counters, and nothing else. -/

namespace Sys2Proof.Machine

variable (s : Block)

theorem Block.lineWrite_marked_tierRest (p k x : Nat) (bs : List Nat) (po : Bool) (mk : List (Nat × Nat)) :
    (s.lineWrite p k x bs po mk).tierRest = s.tierRest := rfl

theorem Block.capLineWrite_marked_tierRest (d x : Nat) (bs : List Nat) (po : Bool) (mk : List (Nat × Nat)) :
    (s.capLineWrite d x bs po mk).tierRest = s.tierRest := by
  have hwrite (r : Ram) : ({ (s.useCheck d x true).modCapc d fun c => { c with wrLines := c.wrLines + 1 } with ram := r } : Block).tierRest =
      s.tierRest := (Block.ram_tierRest _ r).trans (by simp)
  unfold Block.capLineWrite
  dsimp only
  split
  · rw [Block.log_tierRest]
    exact hwrite _
  · exact hwrite _

/-! At the home caches. -/

theorem Block.fillEv_tierRest (p x : Nat) (fetch keep : Bool) : (s.fillEv p x fetch keep .none).2.tierRest = s.tierRest := by
  have hfill := s.fill_tierRest p (x / 128) fetch keep
  unfold Block.fillEv
  split
  · rename_i he
    rw [he] at hfill
    dsimp only
    split
    · exact hfill
    · exact hfill
  · exact hfill

theorem Block.mscRead_tierRest (p x n : Nat) : (s.mscRead p x n .normal .none).2.2.tierRest = s.tierRest := by
  unfold Block.mscRead
  simp only [Block.mscEvent, reduceCtorEq, false_and, decide_false, Bool.false_eq_true, if_false, false_or]
  split
  · simp
  · split
    · simp [Block.hbmEvent]
    · exact (Block.fillEv_tierRest _ p x true false).trans (by simp)

theorem Block.mscWrite_tierRest (p x : Nat) (bs : List Nat) (po : Bool) (mk : List (Nat × Nat)) :
    (s.mscWrite p x bs po .normal .none mk).tierRest = s.tierRest := by
  have hfill := (s.modMsc p fun m => { m with misses := m.misses + 1 }).fillEv_tierRest p x (decide (bs.length < 128)) false
  unfold Block.mscWrite
  simp only [Block.mscEvent, reduceCtorEq, if_false, false_or, decide_false]
  split
  · simp [Block.lineWrite_marked_tierRest]
  · split
    · split <;> simp [Block.hbmEvent]
    · split <;> rename_i he <;> rw [he] at hfill
      · exact (Block.lineWrite_marked_tierRest ..).trans hfill
      · exact hfill

/-! Over the homes. -/

theorem Block.readPiece_tierRest (h : Home) (n : Nat) : (s.readPiece h n .normal .none).2.2.tierRest = s.tierRest := by
  cases h with
  | hbm p x => exact s.mscRead_tierRest p x n
  | cap d x => exact s.capLineRead_tierRest d x
  | sram a => rfl

theorem Block.writePiece_tierRest (h : Home) (bs : List Nat) (po : Bool) (mk : List (Nat × Nat)) :
    (s.writePiece h bs po .normal .none mk).tierRest = s.tierRest := by
  cases h with
  | hbm p x => exact s.mscWrite_tierRest p x bs po mk
  | cap d x =>
    refine (Block.capLineWrite_marked_tierRest _ d x bs po mk).trans ?_
    split
    · exact (Block.capLineRead_tierRest _ d x).trans (by simp)
    · rfl
  | sram a => rfl

theorem Block.memReadParts_tierRest (a n : Nat) : (s.memReadParts a n .normal .none).2.2.tierRest = s.tierRest := by
  unfold Block.memReadParts
  dsimp only
  refine (foldl_keeps (fun acc : List Nat × List Bool × Block × MemEvent => acc.2.2.1.tierRest = s.tierRest ∧ acc.2.2.2 = .none)
    _ (fun acc q hacc => ?_) _ ⟨rfl, rfl⟩).1
  obtain ⟨hrest, hev⟩ := hacc
  split
  · rw [hev]
    exact ⟨(Block.readPiece_tierRest _ _ _).trans hrest, rfl⟩
  · exact ⟨hrest, hev⟩

theorem Block.memRead_tierRest (a n : Nat) : (s.memRead a n).2.2.tierRest = s.tierRest := s.memReadParts_tierRest a n

theorem Block.memReadMarked_tierRest (a n : Nat) : (s.memReadMarked a n .normal .none).2.2.tierRest = s.tierRest := by
  have harray : s.arrayEvent a .none = (s, .none) := by
    unfold Block.arrayEvent
    split <;> rfl
  unfold Block.memReadMarked
  rw [harray]
  exact s.memReadParts_tierRest a n

theorem Block.memWrite_tierRest (a : Nat) (bs : List Nat) (po : Bool) (mk : List (Nat × Nat)) :
    (s.memWrite a bs po .normal .none mk).tierRest = s.tierRest := by
  unfold Block.memWrite
  refine (foldl_keeps (fun acc : Block × MemEvent => acc.1.tierRest = s.tierRest ∧ acc.2 = .none) _ (fun acc q hacc => ?_) _ ⟨rfl, rfl⟩).1
  obtain ⟨hrest, hev⟩ := hacc
  split
  · rw [hev]
    exact ⟨(Block.writePiece_tierRest _ _ _ _ _).trans hrest, rfl⟩
  · exact ⟨hrest, hev⟩

end Sys2Proof.Machine
end

section
/-! What Ephemeris does to memory, and what the package does along with a change of bindings, leaves alone the slots, the sync objects, the
registers, the count of commits, and the partitions beside their records of a job fault and of poison (R318, R324, R327). -/

namespace Sys2Proof.Machine

/-- The slots, the sync objects, the registers, and EPH_GEN. -/
def Block.placeView (s : Block) : SMap Slot × SMap Sync × SMap Word × Nat := (s.slots, s.syncs, s.regs, s.eph.gen)

/-- From `s` to `t` these are kept, and the partitions beside those records. -/
structure PlaceKept (s t : Block) : Prop where
  view : t.placeView = s.placeView
  parts : MapKept {} Part.frameView s.parts t.parts

namespace PlaceKept

variable {s t u : Block}

theorem refl (s : Block) : PlaceKept s s := ⟨rfl, .refl _⟩

theorem trans (h : PlaceKept s t) (h' : PlaceKept t u) : PlaceKept s u := ⟨h'.view.trans h.view, h.parts.trans h'.parts⟩

/-- A fold whose every step keeps it keeps it. -/
theorem foldl {β : Type} (f : Block → β → Block) (hf : ∀ t b, PlaceKept t (f t b)) (l : List β) (h : PlaceKept s t) :
    PlaceKept s (l.foldl f t) :=
  foldl_keeps (PlaceKept s) f (fun t b ht => ht.trans (hf t b)) l h

variable (h : PlaceKept s t)
include h

theorem gen : t.eph.gen = s.eph.gen := congrArg (·.2.2.2) h.view

/-- A change of other fields. -/
theorem other (hv : u.placeView = t.placeView) (hp : u.parts = t.parts) : PlaceKept s u :=
  h.trans ⟨hv, by rw [hp]; exact .refl _⟩

theorem tier (hu : u.tierRest = t.tierRest) : PlaceKept s u := by
  have hview := congrArg Block.placeView hu
  have hparts := congrArg Block.parts hu
  exact h.other hview hparts

theorem modMmu (p : Nat) (f : Mmu → Mmu) : PlaceKept s (t.modMmu p f) := h.other rfl rfl
theorem modPort (x : Nat) (f : Pcie → Pcie) : PlaceKept s (t.modPort x f) := h.other rfl rfl
theorem modHdr (pg : Page) (f : PageHdr → PageHdr) : PlaceKept s (t.modHdr pg f) := h.other rfl rfl
theorem modChan (p j ch : Nat) (f : Chan → Chan) : PlaceKept s (t.modChan p j ch f) := h.other rfl rfl
theorem emit (o : Out) : PlaceKept s (t.emit o) := h.other rfl rfl

theorem log (pg : Page) (n : Nat) : PlaceKept s (t.log pg n) := h.tier (t.log_tierRest pg n)
theorem logN (pg : Page) (n k : Nat) : PlaceKept s (t.logN pg n k) := h.tier (t.logN_tierRest pg n k)

theorem raise (pg : Page) (n : Nat) : PlaceKept s (t.raise pg n) := h.other (by simp [Block.placeView]) (by simp)

theorem jobFault (p cause job detail lcore : Nat) : PlaceKept s (t.jobFault p cause job detail lcore) :=
  h.trans ⟨by simp [Block.placeView], ((FrameKept.refl t).jobFault p cause job detail lcore).parts⟩

theorem observePoison (pg : Page) : PlaceKept s (t.observePoison pg) :=
  h.trans ⟨by simp [Block.placeView], ((FrameKept.refl t).observePoison pg).parts⟩

theorem ephDenied : PlaceKept s t.ephDenied := h.log .eph 4

theorem memWrite (a : Nat) (bs : List Nat) : PlaceKept s (t.memWrite a bs) := h.tier (t.memWrite_tierRest a bs false [])

theorem memRead (a n : Nat) : PlaceKept s (t.memRead a n).2.2 := h.tier (t.memRead_tierRest a n)

/-! Tensors, ranks and routes of a job (R324, R327). -/

theorem movePage (g : TPage) (toCap : Bool) : PlaceKept s (t.movePage g toCap) := by
  have hleaf := h.memRead g.leaf 8
  unfold Block.movePage
  dsimp only
  generalize (if toCap then g.home else g.cap) = src
  generalize (if toCap then g.cap else g.home) = dest
  have hread := hleaf.tier (Block.memReadMarked_tierRest _ src g.size)
  have hput {v : Block} (hv : PlaceKept s v) (a : Nat) (bs : List Nat) (mk : List (Nat × Nat)) : PlaceKept s (v.memWriteMarked a bs mk) :=
    hv.tier (v.memWrite_tierRest a bs false mk)
  split
  · exact h.ephDenied
  · split_ifs
    · exact hleaf.observePoison (.rhost 0)
    · exact hleaf
    · exact (hput hread _ _ _).memWrite _ _
    · exact (hput (hread.observePoison (.rhost 0)) _ _ _).memWrite _ _
    · exact hleaf.memWrite _ _

theorem putChoice (x : Tensor) (v : Nat) : PlaceKept s (t.putChoice x v) := by
  unfold Block.putChoice
  split_ifs
  · exact h
  · exact h.memWrite _ _
  · exact h.ephDenied

theorem placeTensors (job : Nat) : PlaceKept s (t.placeTensors job) := by
  unfold Block.placeTensors
  split
  · exact h
  · refine foldl _ (fun u p => (refl u).modMmu p _) _ (foldl _ (fun u x => ?_) _ h)
    have hpages (c toCap : Bool) : PlaceKept u (if c then x.1.pages.foldl (fun s g => s.movePage g toCap) u else u) := by
      split
      · exact foldl _ (fun v g => (refl v).movePage g toCap) _ (refl u)
      · exact refl u
    dsimp only
    split
    · exact (hpages _ _).putChoice _ _
    · exact hpages _ _

theorem placeJob (job : Nat) : PlaceKept s (t.placeJob job) := by
  unfold Block.placeJob
  split
  · exact h.placeTensors job
  · exact h.other rfl rfl

theorem putTable (a : Nat) (es : List (Nat × Nat)) : PlaceKept s (t.putTable a es) := by
  unfold Block.putTable
  dsimp only
  split
  · exact h.memWrite _ _
  · exact h.ephDenied

theorem placeRanks (job : Nat) : PlaceKept s (t.placeRanks job) := by
  unfold Block.placeRanks
  split
  · exact h
  · refine foldl _ (fun u e => ?_) _ (foldl _ (fun u x => (refl u).putTable _ _) _ h)
    split
    · exact refl u
    · have hput (m : SMap Word) : PlaceKept u { u with routes := m } := (refl u).other rfl rfl
      exact (hput _).log _ 5

/-! The channels of a job whose places have changed (R204). -/

theorem dropRecs (p j ch : Nat) : PlaceKept s (t.dropRecs p j ch) := h.modMmu p _

theorem drainCheck (p j : Nat) : PlaceKept s (t.drainCheck p j) := by
  unfold Block.drainCheck
  split
  · exact (h.modHdr _ _).raise _ 4
  · exact h

theorem invalsAll : PlaceKept s t.invalsAll := by
  refine foldl _ (fun u x => ?_) _ h
  split
  · exact refl u
  · exact foldl _ (fun v e => (refl v).emit _) _ ((refl u).modPort x _)

theorem descFail (p j ch id status : Nat) : PlaceKept s (t.descFail p j ch id status) := by
  unfold Block.descFail
  split
  · rename_i k _
    have hstop := ((((h.log (.dma p j) (statusCounter status)).logN (.dma p j) 6 ((t.chan p j ch).left - k - 1)).dropRecs p j ch).modChan p j ch
      fun c => { c with state := .stopped, lists := keepLists c.lists k, out := c.out.take k, cur := none, lastStatus := status }).raise
        (.dma p j) (1 + ch)
    unfold Block.chanStopAt
    dsimp only
    split
    · exact ((((hstop.raise _ 2).log _ 2).jobFault _ _ _ _ _).drainCheck p j).invalsAll
    · exact ((hstop.jobFault _ _ _ _ _).drainCheck p j).invalsAll
  · exact h

theorem walkFrom (p va : Nat) (w x : Bool) (f lvl table prev : Nat) : PlaceKept s (t.walkFrom p va w x f lvl table prev .none).2 := by
  induction f generalizing t lvl table prev with
  | zero => exact h
  | succ f ih =>
    have hread := (h.memRead (table + bits va (levelBits lvl).1 (levelBits lvl).2 * 8) 8).modMmu p fun m => { m with walkReads := m.walkReads + 1 }
    unfold Block.walkFrom
    dsimp only
    split
    · exact h
    · split
      · exact hread.observePoison (.mmu p)
      · split
        · exact hread
        · split
          · exact hread
          · split
            · exact ih hread _ _ _
            · split_ifs <;> exact hread
            · split_ifs <;> exact hread

theorem walk (p slot va : Nat) (w x : Bool) : PlaceKept s (t.walk p slot va w x).2 := by
  unfold Block.walk
  dsimp only
  generalize (if slot = 0 then 0x040 else 0x048) = lo
  split
  · exact h
  · exact h.walkFrom ..

theorem translate (p slot : Nat) (eng : Option Nat) (va : Nat) (w x : Bool) : PlaceKept s (t.translate p slot eng va w x).2 := by
  have hlearn {v : Block} (hv : PlaceKept s v) (f : Nat → Mmu → Mmu) : PlaceKept s (match eng with
      | some j => v.modMmu p (f j)
      | none => v) := by
    split
    · exact hv.modMmu p _
    · exact hv
  have hmiss := (h.modMmu p fun m => { m with misses := m.misses + 1 }).walk p slot va w x
  unfold Block.translate
  dsimp only
  split
  · split
    · exact h
    · exact h.walk ..
  · split
    · split
      · exact hlearn (h.modMmu p _) _
      · exact (h.modMmu p _).walk ..
    · split
      · exact hmiss
      · exact hlearn (hmiss.modMmu p _) _

theorem sideOf (p j ch : Nat) (l : XList) (kind a hint : Nat) (w : Bool) : PlaceKept s (t.sideOf p j ch l kind a hint w).2 := by
  have hleaf := h.translate p ch (some j) a w false
  unfold Block.sideOf
  split
  · dsimp only
    split
    · exact hleaf
    · split_ifs <;> exact hleaf
    · split_ifs
      · exact hleaf
      · exact hleaf
      · split
        · split_ifs <;> exact hleaf
        · exact hleaf
  · exact h
  · dsimp only
    split_ifs
    · split <;> exact h
    · exact h

theorem destsOf (p j ch : Nat) (l : XList) (b : List Nat) (a : Nat) : PlaceKept s (t.destsOf p j ch l b a).2 := by
  unfold Block.destsOf
  split
  · exact h
  · exact h.sideOf ..

theorem freshHeld (p j ch : Nat) : PlaceKept s (t.freshHeld p j ch) := by
  refine foldl _ (fun u x => ?_) _ h
  split
  · refine foldl _ (fun v y => ?_) _ (refl u)
    split
    · rename_i l _ _ e _
      have hdest := (refl v).destsOf p j ch l x.1.bytes e.2
      dsimp only
      split
      · exact hdest.descFail ..
      · exact hdest
      · exact hdest.modChan ..
    · exact refl v
  · exact refl u

theorem moveChans (p ch : Nat) (old : Part) : PlaceKept s (t.moveChans p ch old) := by
  have hmod {β : Type} (l : List β) (eng : β → Nat) (f : β → Chan → Chan) {v : Block} (hv : PlaceKept s v) :
      PlaceKept s (l.foldl (fun u x => u.modChan p (eng x) ch (f x)) v) :=
    foldl _ (fun u x => (refl u).modChan p _ ch _) l hv
  unfold Block.moveChans
  exact foldl _ (fun u j => (refl u).freshHeld p j ch) _ ((hmod _ _ _ (hmod _ _ _ (hmod _ _ _ h))).modMmu p _)

theorem freeChans (p ch : Nat) : PlaceKept s (t.freeChans p ch) := by
  refine foldl _ (fun u j => ?_) _ h
  split
  · exact (refl u).modChan ..
  · exact (refl u).modChan ..
  · exact ((refl u).dropRecs p j ch).modChan ..
  · exact refl u

end PlaceKept

end Sys2Proof.Machine
end

section
/-! A write to memory does not turn on what Ephemeris and the collectives keep. -/

namespace Sys2Proof.Machine

variable (s : Block) (e : Eph) (c : Coll)

/-- The block with other Ephemeris and collectives state. -/
def Block.withPlan (s : Block) (e : Eph) (c : Coll) : Block := { s with eph := e, coll := c }

/-- Both branches of a choice that does not turn on them. -/
theorem withPlan_if {q q' : Prop} [Decidable q] [Decidable q'] {a b x y : Block} (hq : q' ↔ q) (ha : a.withPlan e c = x)
    (hb : b.withPlan e c = y) : (if q then a else b).withPlan e c = if q' then x else y := by
  subst ha hb
  rw [if_congr hq rfl rfl]
  split <;> rfl

/-- A fold whose every step does not turn on them. -/
theorem withPlan_foldl {β : Type} (f : Block → β → Block) (hf : ∀ (s : Block) x, (f s x).withPlan e c = f (s.withPlan e c) x) (l : List β) :
    (l.foldl f s).withPlan e c = l.foldl f (s.withPlan e c) :=
  (List.foldl_hom (fun t : Block => t.withPlan e c) fun t x => (hf t x).symm).symm

theorem Block.withPlan_modIrq (pg : Page) (f : PageHdr → PageHdr) : (s.modIrq pg f).withPlan e c = (s.withPlan e c).modIrq pg f := by
  unfold Block.modIrq
  exact withPlan_if e c Iff.rfl rfl rfl

theorem Block.withPlan_log (pg : Page) (n : Nat) : (s.log pg n).withPlan e c = (s.withPlan e c).log pg n := by
  unfold Block.log
  exact withPlan_if e c Iff.rfl rfl (withPlan_if e c Iff.rfl (Block.withPlan_modIrq ..) rfl)

theorem Block.withPlan_logN (pg : Page) (n k : Nat) : (s.logN pg n k).withPlan e c = (s.withPlan e c).logN pg n k := by
  unfold Block.logN
  exact withPlan_if e c Iff.rfl rfl (withPlan_if e c Iff.rfl (Block.withPlan_modIrq ..) rfl)

/-! The home caches and their stacks. -/

theorem Block.withPlan_hbmRead (p x n : Nat) : (s.hbmRead p x n).withPlan e c = (s.withPlan e c).hbmRead p x n := by
  unfold Block.hbmRead
  refine withPlan_foldl _ e c _ (fun t u => ?_) _
  refine withPlan_if e c Iff.rfl ?_ rfl
  exact congrArg (fun v : Block => v.hbmErr p 2 0xFF u) (t.withPlan_log e c (.hbmc p) 4)

theorem Block.withPlan_hbmWrite (p x n : Nat) : (s.hbmWrite p x n).withPlan e c = (s.withPlan e c).hbmWrite p x n :=
  Block.withPlan_logN (s.modHbmc p fun h => { h with wrUnits := h.wrUnits + (unitsOf 64 x n).length }) e c ..

theorem Block.withPlan_mergeReads (p x n : Nat) : (s.mergeReads p x n).withPlan e c = (s.withPlan e c).mergeReads p x n := by
  unfold Block.mergeReads
  dsimp only
  rw [Block.withPlan_logN, withPlan_foldl s e c _ fun t u => t.withPlan_hbmRead e c p u 64]

theorem Block.withPlan_writeBack (p k : Nat) : (s.writeBack p k).withPlan e c = (s.withPlan e c).writeBack p k := by
  unfold Block.writeBack
  rw [show (s.withPlan e c).msc p = s.msc p from rfl]
  cases (s.msc p).at? k with
  | none => rfl
  | some l => exact withPlan_if e c Iff.rfl (Block.withPlan_hbmWrite ..) rfl

theorem Block.withPlan_dropLine (p k : Nat) : (s.dropLine p k).withPlan e c = (s.withPlan e c).dropLine p k := by
  unfold Block.dropLine
  rw [show (s.withPlan e c).msc p = s.msc p from rfl]
  cases (s.msc p).at? k with
  | none => rfl
  | some l => exact withPlan_if e c Iff.rfl rfl rfl

/-- A fill without a keep mark. -/
theorem Block.fill_withPlan (p n : Nat) (fetch : Bool) :
    (s.withPlan e c).fill p n fetch false = ((s.fill p n fetch false).1, (s.fill p n fetch false).2.withPlan e c) := by
  unfold Block.fill
  rw [show (s.withPlan e c).msc p = s.msc p from rfl]
  simp only [Bool.false_and, Bool.false_eq_true, if_false]
  rw [show (s.withPlan e c).msc p = s.msc p from rfl]
  cases (s.msc p).victim n with
  | none => rfl
  | some k =>
    have hfetch : (if fetch = true then ((s.writeBack p k).dropLine p k).hbmRead p (n * 128) 128 else (s.writeBack p k).dropLine p k).withPlan e c =
        if fetch = true then (((s.withPlan e c).writeBack p k).dropLine p k).hbmRead p (n * 128) 128
        else ((s.withPlan e c).writeBack p k).dropLine p k := by
      rw [← Block.withPlan_writeBack, ← Block.withPlan_dropLine, ← Block.withPlan_hbmRead]
      exact withPlan_if e c Iff.rfl rfl rfl
    simp only [Option.isNone_some, Bool.false_eq_true, if_false]
    rw [← hfetch]
    rfl

theorem Block.fillEv_withPlan (p x : Nat) (fetch : Bool) :
    (s.withPlan e c).fillEv p x fetch false .none = ((s.fillEv p x fetch false .none).1, (s.fillEv p x fetch false .none).2.withPlan e c) := by
  unfold Block.fillEv
  rw [Block.fill_withPlan]
  rcases s.fill p (x / 128) fetch false with ⟨_ | k, t⟩
  · rfl
  · cases fetch <;> rfl

/-- A miss of the cache of stack `p` is counted. -/
def Block.missed (s : Block) (p : Nat) : Block := s.modMsc p fun m => { m with misses := m.misses + 1 }

/-- A write past the cache of stack `p` is counted. -/
def Block.bypassed (s : Block) (p : Nat) : Block := s.modMsc p fun m => { m with bypass := m.bypass + 1 }

/-- The write to the stack itself, once the units that it covers in part have been read. -/
def Block.putPast (s : Block) (p x : Nat) (bs : List Nat) (po : Bool) (mk : List (Nat × Nat)) : Block :=
  { s with ram := s.ram.writeMarked (p * stackBytes + x) bs po mk }.hbmWrite p x bs.length

theorem Block.withPlan_putPast (p x : Nat) (bs : List Nat) (po : Bool) (mk : List (Nat × Nat)) :
    (s.putPast p x bs po mk).withPlan e c = (s.withPlan e c).putPast p x bs po mk :=
  Block.withPlan_hbmWrite { s with ram := s.ram.writeMarked (p * stackBytes + x) bs po mk } e c p x bs.length

section
variable {s} {p x : Nat} (bs : List Nat) (po : Bool) (mk : List (Nat × Nat))

theorem Block.mscWrite_hit {k : Nat} (hk : (s.msc p).find (x / 128) = some k) : s.mscWrite p x bs po .normal .none mk =
    ((s.modMsc p fun m => { m with hits := m.hits + 1 }).lineWrite p k x bs po mk).touch p k := by
  unfold Block.mscWrite
  simp only [Block.mscEvent, reduceCtorEq, if_false, hk]

theorem Block.mscWrite_past (hk : (s.msc p).find (x / 128) = none) (hv : ((s.missed p).msc p).victim (x / 128) = none) :
    s.mscWrite p x bs po .normal .none mk = (((s.missed p).bypassed p).mergeReads p x bs.length).putPast p x bs po mk := by
  unfold Block.missed at hv
  unfold Block.mscWrite
  simp only [Block.mscEvent, reduceCtorEq, if_false, hk, hv, or_true, if_true, Block.hbmEvent]
  cases (partUnits x bs.length).head? <;> rfl

theorem Block.mscWrite_filled (hk : (s.msc p).find (x / 128) = none) (hv : ((s.missed p).msc p).victim (x / 128) ≠ none) {o : Option Nat}
    {t : Block} (hf : (s.missed p).fillEv p x (decide (bs.length < 128)) false .none = (o, t)) :
    s.mscWrite p x bs po .normal .none mk = o.elim t fun k => t.lineWrite p k x bs po mk := by
  unfold Block.missed at hv hf
  unfold Block.mscWrite
  simp only [Block.mscEvent, reduceCtorEq, if_false, hk, false_or, hv, decide_false, hf]
  cases o <;> rfl

end

theorem Block.withPlan_mscWrite (p x : Nat) (bs : List Nat) (po : Bool) (mk : List (Nat × Nat)) :
    (s.mscWrite p x bs po .normal .none mk).withPlan e c = (s.withPlan e c).mscWrite p x bs po .normal .none mk := by
  cases hk : (s.msc p).find (x / 128) with
  | some k =>
    rw [Block.mscWrite_hit bs po mk hk, Block.mscWrite_hit (s := s.withPlan e c) bs po mk hk]
    rfl
  | none =>
    by_cases hv : ((s.missed p).msc p).victim (x / 128) = none
    · rw [Block.mscWrite_past bs po mk hk hv, Block.mscWrite_past (s := s.withPlan e c) bs po mk hk hv, Block.withPlan_putPast,
        Block.withPlan_mergeReads]
      rfl
    · rcases hf : (s.missed p).fillEv p x (decide (bs.length < 128)) false .none with ⟨o, t⟩
      have hf' := (s.missed p).fillEv_withPlan e c p x (decide (bs.length < 128))
      rw [hf] at hf'
      rw [Block.mscWrite_filled bs po mk hk hv hf, Block.mscWrite_filled (s := s.withPlan e c) bs po mk hk hv hf']
      cases o <;> rfl

theorem Block.withPlan_useCheck (d x : Nat) (change : Bool) : (s.useCheck d x change).withPlan e c = (s.withPlan e c).useCheck d x change := by
  have hlog (q : Prop) [Decidable q] : (if q then s.log (.capc d) 5 else s).withPlan e c =
      if q then (s.withPlan e c).log (.capc d) 5 else s.withPlan e c :=
    withPlan_if e c Iff.rfl (Block.withPlan_log ..) rfl
  unfold Block.useCheck
  dsimp only
  rw [show (s.withPlan e c).capc d = s.capc d from rfl, ← hlog]
  rfl

theorem Block.withPlan_capLineRead (d x : Nat) : (s.capLineRead d x).withPlan e c = (s.withPlan e c).capLineRead d x := by
  unfold Block.capLineRead
  dsimp only
  rw [← Block.withPlan_useCheck]
  refine withPlan_if e c Iff.rfl ?_ rfl
  exact congrArg (fun v : Block => v.capErr d 2 0xFF x) (Block.withPlan_log ((s.useCheck d x false).modCapc d _) e c (.capc d) 3)

theorem Block.withPlan_capLineWrite (d x : Nat) (bs : List Nat) (po : Bool) (mk : List (Nat × Nat)) :
    (s.capLineWrite d x bs po mk).withPlan e c = (s.withPlan e c).capLineWrite d x bs po mk := by
  unfold Block.capLineWrite
  dsimp only
  rw [← Block.withPlan_useCheck]
  exact withPlan_if e c Iff.rfl (Block.withPlan_log ..) rfl

theorem Block.withPlan_capWrite (d x : Nat) (bs : List Nat) (po : Bool) (mk : List (Nat × Nat)) :
    (s.capWrite d x bs po .none mk).withPlan e c = (s.withPlan e c).capWrite d x bs po .none mk := by
  unfold Block.capWrite
  dsimp only
  rw [Block.withPlan_capLineWrite]
  refine congrArg (fun v : Block => v.capLineWrite d x bs po mk) (withPlan_if e c Iff.rfl ?_ rfl)
  refine .trans ?_ (congrArg (fun v : Block => v.capLineRead d x) (s.withPlan_log e c (.capc d) 4))
  exact Block.withPlan_capLineRead ..

theorem Block.withPlan_writePiece (h : Home) (bs : List Nat) (po : Bool) (mk : List (Nat × Nat)) :
    (s.writePiece h bs po .normal .none mk).withPlan e c = (s.withPlan e c).writePiece h bs po .normal .none mk := by
  cases h with
  | hbm p x => exact s.withPlan_mscWrite e c p x bs po mk
  | cap d x => exact s.withPlan_capWrite e c d x bs po mk
  | sram a => rfl

theorem Block.withPlan_memWrite (a : Nat) (bs : List Nat) : (s.memWrite a bs).withPlan e c = (s.withPlan e c).memWrite a bs := by
  unfold Block.memWrite
  refine (List.foldl_rel (r := fun x y : Block × MemEvent => x.1.withPlan e c = y.1 ∧ x.2 = .none ∧ y.2 = .none) ⟨rfl, rfl, rfl⟩
    fun q _ x y hxy => ?_).1
  obtain ⟨t, ev⟩ := x
  obtain ⟨u, ev'⟩ := y
  obtain ⟨rfl, rfl, rfl⟩ := hxy
  dsimp only
  rw [show (t.withPlan e c).tiers = t.tiers from rfl]
  cases homeOf t.tiers q.1 with
  | none => exact ⟨rfl, rfl, rfl⟩
  | some h => exact ⟨t.withPlan_writePiece e c .., rfl, rfl⟩

end Sys2Proof.Machine
end

section
/-! Ephemeris acts while the package is on. -/

namespace Sys2Proof.Machine

variable {s : State} (hon : s.blk.boot.power = .on)
include hon

theorem State.onBlock_live (f : Block → Block) : (s.onBlock fun b => b.live f) = .next (s.withBlk (f s.blk)) := by
  rw [State.onBlock_eq, Block.live_on f hon]

theorem exec_admitJob (j : JobImage) : exec (.admitJob j) s = .next (s.withBlk (s.blk.admitJob j)) := State.onBlock_live hon _

theorem exec_jobBind (job : BitVec 16) (bf : Bool) (ps : List (Fin 12 × Fin 12)) : exec (.jobBind job bf ps) s =
    .next (s.withBlk (s.blk.jobBind job.toNat (b2n bf) (ps.map fun e => (e.1.val, e.2.val)))) := State.onBlock_live hon _

theorem exec_ephCommit (p : Fin 12) {req : Requester} (h : req ≠ .job) :
    exec (.ephCommit p req) s = .next (s.withBlk (s.blk.ephCommit p)) := by
  refine (State.onBlock_live hon _).trans ?_
  rw [Block.guardW_open _ h]

theorem exec_ephCommitApply (p : Fin 12) : exec (.ephCommitApply p) s = .next (s.withBlk (s.blk.commitApply p)) := State.onBlock_live hon _

theorem exec_repairRebind (p : Fin 12) (c : Fin 8) (k : Fin 16) :
    exec (.repairRebind p c (some k)) s = .next (s.withBlk (s.blk.repair p c (some k.val))) := State.onBlock_live hon _

theorem exec_routeRewrite (es : List (Fin 49152 × BitVec 32)) : exec (.routeRewrite es) s =
    .next (s.withBlk (s.blk.routeRewrite (es.map fun e => (e.1.val, e.2.toNat)))) := State.onBlock_live hon _

theorem exec_stageRebalance (job : BitVec 16) (permitted : Bool) (times : List Nat) (layers : List (Nat × BitVec 48)) (layout : JobImage) :
    exec (.stageRebalance job permitted times layers layout) s =
      .next (s.withBlk (s.blk.rebalance job.toNat permitted times (layers.map fun e => (e.1, e.2.toNat)) layout)) := State.onBlock_live hon _

omit hon in
/-- A command that leaves the package leaves the state. -/
theorem State.withBlk_of_eq {b : Block} (h : b = s.blk) : (.next (s.withBlk b) : Host.Outcome State Fault Refusal) = .next s := by
  rw [h, State.withBlk_self]

end Sys2Proof.Machine
end

section
/-! ADMIT_JOB (R322 to R326): admission moves no slot, no sync object and no register, and leaves the bindings of the partitions. -/

namespace Sys2Proof.Machine

/-- The bindings and maps of a partition, whether a commit is asked for, and the count of its commits. -/
def Part.bindingView (q : Part) : Option (Nat × Nat) × Option (Nat × Nat) × SMap Nat × Bool × Nat :=
  (q.bindP, q.bindB, q.amap, q.commit, q.actGen)

/-- From `s` to `t` the bindings of the partitions are kept, and EPH_GEN. -/
structure BindKept (s t : Block) : Prop where
  gen : t.eph.gen = s.eph.gen
  parts : MapKept {} Part.bindingView s.parts t.parts

namespace BindKept

variable {s t u : Block}

theorem refl (s : Block) : BindKept s s := ⟨rfl, .refl _⟩

theorem trans (h : BindKept s t) (h' : BindKept t u) : BindKept s u := ⟨h'.gen.trans h.gen, h.parts.trans h'.parts⟩

/-- What keeps the partitions but for their records keeps their bindings. -/
theorem of_placeKept (h : PlaceKept s t) : BindKept s t := by
  refine ⟨h.gen, fun hwf => ?_⟩
  obtain ⟨hwf', hf⟩ := h.parts hwf
  exact ⟨hwf', fun k => (congrArg Part.bindingView (hf k) :)⟩

/-- A fold whose every step keeps them keeps them. -/
theorem foldl {β : Type} (f : Block → β → Block) (hf : ∀ t b, BindKept t (f t b)) (l : List β) (h : BindKept s t) :
    BindKept s (l.foldl f t) :=
  foldl_keeps (BindKept s) f (fun t b ht => ht.trans (hf t b)) l h

section
variable (h : BindKept s t)
include h

theorem place (h' : PlaceKept t u) : BindKept s u := h.trans (of_placeKept h')

/-- A change of other fields. -/
theorem other (hg : u.eph.gen = t.eph.gen) (hp : u.parts = t.parts) : BindKept s u :=
  h.trans ⟨hg, by rw [hp]; exact .refl _⟩

theorem modPart (p : Nat) (f : Part → Part) (hf : ∀ q, (f q).bindingView = q.bindingView) : BindKept s (t.modPart p f) :=
  h.trans ⟨rfl, .mod _ p hf⟩

theorem stopQuota (p : Nat) : BindKept s (t.stopQuota p) := by
  unfold Block.stopQuota
  split
  · exact h.modPart p _ fun _ => rfl
  · exact h

end

variable (h : BindKept s t) (hwf : smWf {} s.parts = true) (p : Nat)
include h hwf

theorem wf : smWf {} t.parts = true := (h.parts hwf).1
theorem view : (t.part p).bindingView = (s.part p).bindingView := (h.parts hwf).2 p
theorem bindP : (t.part p).bindP = (s.part p).bindP := congrArg (·.1) (h.view hwf p)
theorem commit : (t.part p).commit = (s.part p).commit := congrArg (·.2.2.2.1) (h.view hwf p)

end BindKept

theorem Block.stopQuota_placeView (s : Block) (p : Nat) : (s.stopQuota p).placeView = s.placeView := by
  unfold Block.stopQuota
  split <;> rfl

theorem Block.stopQuota_eph (s : Block) (p : Nat) : (s.stopQuota p).eph = s.eph := by
  unfold Block.stopQuota
  split <;> rfl

/-- What admission of image `j` with status `st` keeps, and what it notes. -/
structure Admission (s : Block) (j : JobImage) (st : Nat) (t : Block) : Prop where
  view : t.placeView = s.placeView
  bind : BindKept s t
  lastStatus : t.eph.lastStatus = st
  lastJob : t.eph.lastJob = j.job
  admitted : t.eph.admitted = s.eph.admitted.filter (· ≠ j.job) ++ if st ≤ 1 then [j.job] else []

namespace Admission

variable {s t u : Block} {j : JobImage} {st : Nat}

/-- The note is made after the report. -/
theorem noted (h : PlaceKept s t) (e : Eph) (hs : e.lastStatus = st) (hj : e.lastJob = j.job)
    (ha : e.admitted = s.eph.admitted.filter (· ≠ j.job) ++ if st ≤ 1 then [j.job] else []) (hg : e.gen = t.eph.gen) :
    Admission s j st { t with eph := e } := by
  have hkept : PlaceKept s { t with eph := e } := h.other (by rw [Block.placeView, Block.placeView, hg]) rfl
  exact ⟨hkept.view, .of_placeKept hkept, hs, hj, ha⟩

theorem then_kept (h : Admission s j st t) (hk : PlaceKept t u) (he : u.eph = t.eph) : Admission s j st u :=
  ⟨hk.view.trans h.view, h.bind.place hk, by rw [he]; exact h.lastStatus, by rw [he]; exact h.lastJob, by rw [he]; exact h.admitted⟩

theorem log (h : Admission s j st t) (pg : Page) (n : Nat) : Admission s j st (t.log pg n) :=
  h.then_kept ((PlaceKept.refl t).log pg n) (by simp)

theorem raise (h : Admission s j st t) (pg : Page) (n : Nat) : Admission s j st (t.raise pg n) :=
  h.then_kept ((PlaceKept.refl t).raise pg n) (by simp)

theorem stopQuota (h : Admission s j st t) (p : Nat) : Admission s j st (t.stopQuota p) :=
  ⟨(t.stopQuota_placeView p).trans h.view, h.bind.stopQuota p, by rw [Block.stopQuota_eph]; exact h.lastStatus,
    by rw [Block.stopQuota_eph]; exact h.lastJob, by rw [Block.stopQuota_eph]; exact h.admitted⟩

/-- Cause 0 of an admission, or cause 1 of a refusal. -/
theorem either (h : Admission s j st t) {c : Prop} [Decidable c] : Admission s j st (if c then t.raise .eph 0 else t.raise .eph 1) := by
  split
  · exact h.raise .eph 0
  · exact h.raise .eph 1

/-- The quotas that are taken away where the job was admitted. -/
theorem quotas (h : Admission s j st t) {c : Prop} [Decidable c] {l : List Nat} {f : Block → Nat → Block}
    (hf : ∀ t lp, Admission s j st t → Admission s j st (f t lp)) : Admission s j st (if c then l.foldl f t else t) := by
  split
  · exact foldl_keeps (Admission s j st) f hf l h
  · exact h

end Admission

theorem Block.admitJob_admission (s : Block) (j : JobImage) :
    Admission s j (s.admitStatus j (j.spill s.hbmReserve (s.capFree j.job))) (s.admitJob j) := by
  have hwrite (t : Block) (bs : List Nat) (h : PlaceKept s t) (he : t.eph = s.eph) :
      let u := if t.canAccess j.report 512 = true then t.memWrite j.report bs else t.ephDenied
      PlaceKept s u ∧ u.eph = s.eph := by
    dsimp only
    split
    · exact ⟨h.memWrite _ _, (congrArg Block.eph (t.memWrite_tierRest j.report bs false []) :).trans he⟩
    · exact ⟨h.ephDenied, (t.log_eph .eph 4).trans he⟩
  unfold Block.admitJob
  dsimp only
  generalize s.admitStatus j (j.spill s.hbmReserve (s.capFree j.job)) = st
  refine Admission.quotas (Admission.log (Admission.either ?_) ..) ?_
  · obtain ⟨hkept, heph⟩ := hwrite s.fresh.2 _ ((PlaceKept.refl s).other rfl rfl) rfl
    refine Admission.noted hkept _ rfl rfl ?_ rfl
    rw [heph]
    simp only [decide_eq_true_eq]
  · intro t lp h
    split
    · exact h.stopQuota _
    · exact h

end Sys2Proof.Machine
end

section
/-! JOB_BIND (R327): the shadow takes the binding, and a commit is asked for. -/

namespace Sys2Proof.Machine

variable {s t : Block} {job lp p : Nat}

/-! The shadow in the register store. -/

theorem ephP_home_addr (p o : Nat) : ((Page.ephP p).home o).addr o = ((p + 1) * 65536 + 19) * 4096 + o := by
  simp only [Page.home, Page.addr, Page.key, Page.loc]
  omega

/-- Another word of a shadow. -/
theorem Block.reg_setReg_ephP_ne {p o o' : Nat} (v : Nat) (h : o' ≠ o) : (s.setReg (.ephP p) o v).reg (.ephP p) o' = s.reg (.ephP p) o' := by
  refine Block.reg_setReg_ne v ?_
  rw [ephP_home_addr, ephP_home_addr]
  omega

theorem Block.reg_of_regs (h : t.regs = s.regs) (pg : Page) (o : Nat) : t.reg pg o = s.reg pg o := by
  unfold Block.reg
  rw [h]

theorem Block.placeView_eq (h : t.placeView = s.placeView) :
    t.slots = s.slots ∧ t.syncs = s.syncs ∧ t.regs = s.regs ∧ t.eph.gen = s.eph.gen := by simpa [Block.placeView] using h

theorem Block.shadowBind_of_regs (h : t.regs = s.regs) (p sl : Nat) : t.shadowBind p sl = s.shadowBind p sl := by
  unfold Block.shadowBind
  rw [Block.reg_of_regs h]

/-- EPH_PRI or EPH_BF written valid is read so. -/
theorem Block.shadowBind_of_word {sl : Nat} (hj : job < 2 ^ 16) (hl : lp < 16)
    (h : s.reg (.ephP p) (if sl = 0 then 0x040 else 0x044) = (2 ^ 31 + lp * 2 ^ 24 + job) % 2 ^ 32) : s.shadowBind p sl = some (job, lp) := by
  have hv : bit ((2 ^ 31 + lp * 2 ^ 24 + job) % 2 ^ 32) 31 = true := by
    unfold bit
    simp only [decide_eq_true_eq]
    omega
  have hjob : bits ((2 ^ 31 + lp * 2 ^ 24 + job) % 2 ^ 32) 0 16 = job := by
    unfold bits
    omega
  have hlp : bits ((2 ^ 31 + lp * 2 ^ 24 + job) % 2 ^ 32) 24 4 = lp := by
    unfold bits
    omega
  unfold Block.shadowBind
  dsimp only
  rw [h, if_pos hv, hjob, hlp]

theorem Block.shadowBind_putBind {sl : Nat} (hj : job < 2 ^ 16) (hl : lp < 16) (hwf : smWf 0 s.regs = true) :
    (s.putBind p sl job lp).shadowBind p sl = some (job, lp) :=
  Block.shadowBind_of_word hj hl (Block.reg_setReg_self _ hwf)

/-- From `s` to `t` the register store has stayed in canonical form, and the partitions, slots and sync objects are kept. -/
structure Block.OnlyRegs (s t : Block) : Prop where
  wf : smWf 0 t.regs = true
  parts : t.parts = s.parts
  slots : t.slots = s.slots
  syncs : t.syncs = s.syncs

theorem Block.OnlyRegs.setReg (h : s.OnlyRegs t) (pg : Page) (o v : Nat) : s.OnlyRegs (t.setReg pg o v) :=
  ⟨Block.setReg_wf v h.wf, h.parts, h.slots, h.syncs⟩

theorem Block.loadMaps_onlyRegs (p : Nat) (hwf : smWf 0 s.regs = true) : s.OnlyRegs (s.loadMaps p) := by
  unfold Block.loadMaps
  exact foldl_keeps s.OnlyRegs _ (fun t c h => foldl_keeps s.OnlyRegs _ (fun u w hu => hu.setReg ..) _ h) _
    ((Block.OnlyRegs.setReg ⟨hwf, rfl, rfl, rfl⟩ ..).setReg ..)

/-! What stands in the way of a binding. -/

theorem Block.jobBind_refused {sl : Nat} {ps : List (Nat × Nat)} (h : s.mayBind job sl ps = false) : s.jobBind job sl ps = s := by
  unfold Block.jobBind
  rw [h]
  rfl

theorem Block.mayBind_false_of {e : Nat × Nat} (h : job ∉ s.eph.admitted ∨ s.partFree e.2 = false ∨ s.ringBusy job = true) :
    s.mayBind job 0 [e] = false := by
  rw [Bool.eq_false_iff]
  intro hmay
  simp only [Block.mayBind, List.all_cons, List.all_nil, Bool.and_eq_true, List.contains_iff_mem, if_true, Bool.not_eq_true'] at hmay
  obtain ⟨⟨⟨⟨⟨⟨⟨hadm, -⟩, hring⟩, -⟩, -⟩, -⟩, ⟨⟨hfree, -⟩, -⟩⟩, -⟩ := hmay
  rcases h with h | h | h
  · exact h hadm
  · simp [h] at hfree
  · simp [h] at hring

/-- A backfill job is kept from a primary with other THRESH or RUN_LEN (R137). -/
theorem Block.mayBind_backfill_false {e : Nat × Nat} {j' l' : Nat} (hb : s.shadowBind e.2 0 = some (j', l')) (ha : j' ∈ s.eph.admitted)
    (hne : smGet (32, 2) s.eph.escs j' ≠ smGet (32, 2) s.eph.escs job) : s.mayBind job 1 [e] = false := by
  have hfits : s.escFits job e.2 = false := by
    unfold Block.escFits
    simp [hb, ha, hne]
  unfold Block.mayBind
  simp [hfits]

/-- What allows a binding of a job of one logical partition (R137, R319, R321, R324, R327, R328). -/
structure Block.Bindable (s : Block) (job lp p : Nat) : Prop where
  admitted : job ∈ s.eph.admitted
  digests : s.digestsAgree job = true
  free : s.partFree p = true
  ring : s.ringBusy job = false
  asks : ∀ j' x', (s.eph.jobs.find? fun e => e.1.job = job) = some (j', x') → j'.asks.length ≤ 1 ∧ (j'.asks = [] ∨ lp = 0)
  escs : ∀ j' l', s.shadowBind p 1 = some (j', l') → smGet (32, 2) s.eph.escs j' = smGet (32, 2) s.eph.escs job
  unbound : ∀ n < 12, s.shadowBind n 0 ≠ some (job, lp) ∧ s.shadowBind n 1 ≠ some (job, lp)

theorem Block.Bindable.mayBind (h : s.Bindable job lp p) : s.mayBind job 0 [(lp, p)] = true := by
  have hfits : s.primaryFits job p = true := by
    unfold Block.primaryFits
    split
    · rename_i hb
      exact decide_eq_true (h.escs _ _ hb)
    · rfl
  unfold Block.mayBind
  simp only [List.map_cons, List.map_nil, List.all_cons, List.all_nil, if_true]
  simp only [List.contains_eq_mem, h.admitted, decide_true, h.digests, Bool.and_self, h.ring, Bool.not_false, List.nodup_cons, List.not_mem_nil,
    not_false_eq_true, List.nodup_nil, and_self, List.mem_cons, or_false, Bool.true_and, h.free, hfits, Bool.and_true, ne_eq, decide_not,
    Bool.and_eq_true, List.all_eq_true, List.mem_range, Bool.not_eq_eq_eq_not, Bool.not_true, decide_eq_false_iff_not]
  refine ⟨?_, h.unbound⟩
  split
  · rename_i hj
    obtain ⟨hlen, hlp⟩ := h.asks _ _ hj
    rw [List.all_eq_true]
    intro l hl
    have hlt := List.mem_range.1 hl
    rcases hlp with hnil | rfl
    · simp [hnil] at hlt
    · exact decide_eq_true (by omega)
  · rfl

/-! The binding is made. -/

/-- The shadow with the binding and the maps of a load, and the commit asked for. -/
def Block.shadowBound (s : Block) (job lp p : Nat) : Block := ((s.loadMaps p).putBind p 0 job lp).ephCommit p

theorem Block.partRuns_of_free (hparts : t.parts = s.parts) (hfree : s.partFree p = true) : t.partRuns p = false := by
  have hpart : t.part p = s.part p := congrArg (fun m : SMap Part => smGet ({} : Part) m p) hparts
  simp only [Block.partFree, Bool.and_eq_true, Option.isNone_iff_eq_none] at hfree
  obtain ⟨-, hjob⟩ := hfree
  simp [Block.partRuns, hpart, hjob]

theorem Block.jobBind_bound (h : s.Bindable job lp p) (hwf : smWf 0 s.regs = true) : ∃ u, BindKept (s.shadowBound job lp p) u ∧
    u.placeView = (s.shadowBound job lp p).placeView ∧ s.jobBind job 0 [(lp, p)] = u := by
  have hquota (t : Block) (c : Bool) : BindKept t (if c = true then t.stopQuota p else t) ∧
      (if c = true then t.stopQuota p else t).placeView = t.placeView := by
    split
    · exact ⟨(BindKept.refl t).stopQuota p, t.stopQuota_placeView p⟩
    · exact ⟨.refl t, rfl⟩
  have hplace (t : Block) : PlaceKept t ((t.placeJob job).placeRanks job) := ((PlaceKept.refl t).placeJob job).placeRanks job
  unfold Block.jobBind
  rw [h.mayBind]
  simp only [Bool.not_true, Bool.false_eq_true, if_false, List.foldl_cons, List.foldl_nil, if_true,
    Block.partRuns_of_free (Block.loadMaps_onlyRegs p hwf).parts h.free]
  obtain ⟨hb, hv⟩ := hquota (s.shadowBound job lp p) (decide (0 = 0) && (s.shadowBound job lp p).noQuota p)
  exact ⟨_, hb.place (hplace _), (hplace _).view.trans hv, rfl⟩

/-- A binding written to a shadow stands there, and its commit is asked for. -/
theorem Block.putBind_commit (hj : job < 2 ^ 16) (hl : lp < 16) (hregs : smWf 0 t.regs = true) (hparts : smWf {} t.parts = true) :
    let u := (t.putBind p 0 job lp).ephCommit p
    smWf {} u.parts = true ∧ u.slots = t.slots ∧ u.syncs = t.syncs ∧ u.shadowBind p 0 = some (job, lp) ∧
      u.part p = { t.part p with commit := true } :=
  ⟨Block.modPart_wf p _ hparts, rfl, rfl, (Block.shadowBind_of_regs rfl p 0).trans (Block.shadowBind_putBind (sl := 0) hj hl hregs),
    Block.modPart_part_self (u := t.putBind p 0 job lp) p _ hparts⟩

/-- JOB_BIND of a job that may be bound (R327). -/
theorem Block.jobBind_binds (h : s.Bindable job lp p) (hj : job < 2 ^ 16) (hl : lp < 16) (hregs : smWf 0 s.regs = true)
    (hparts : smWf {} s.parts = true) : ∃ u, s.jobBind job 0 [(lp, p)] = u ∧ (u.slots = s.slots ∧ u.syncs = s.syncs) ∧
      u.shadowBind p 0 = some (job, lp) ∧ (u.part p).commit = true ∧ (u.part p).bindP = (s.part p).bindP := by
  obtain ⟨u, hkept, hview, hu⟩ := Block.jobBind_bound h hregs
  obtain ⟨hwf, hpart, hslots, hsyncs⟩ := Block.loadMaps_onlyRegs p hregs
  have hload : smWf {} (s.loadMaps p).parts = true := by rw [hpart, hparts]
  obtain ⟨hwf', hslots', hsyncs', hbind, hnew⟩ := Block.putBind_commit (p := p) hj hl hwf hload
  have hbindP : ((s.loadMaps p).part p).bindP = (s.part p).bindP := congrArg (fun m : SMap Part => (smGet ({} : Part) m p).bindP) hpart
  unfold Block.shadowBound at hkept hview
  obtain ⟨hs, hy, hr, -⟩ := Block.placeView_eq hview
  refine ⟨u, hu, ⟨?_, ?_⟩, ?_, ?_, ?_⟩
  · rw [hs, hslots', hslots]
  · rw [hy, hsyncs', hsyncs]
  · rw [Block.shadowBind_of_regs hr, hbind]
  · rw [hkept.commit hwf' p, hnew]
  · rw [hkept.bindP hwf' p, hnew]
    exact hbindP

end Sys2Proof.Machine
end

section
/-! EPH_COMMIT_APPLY (R257, R263, R319, R320): the shadow becomes active, or is refused, or waits. -/

namespace Sys2Proof.Machine

variable {s : Block} {p : Nat}

/-! The maps of the shadow. -/

/-- What one step of a fold establishes and the others keep holds after it. -/
theorem foldl_reaches {σ β : Type} {I P : σ → Prop} {f : σ → β → σ} {l : List β} {x : β} (hx : x ∈ l)
    (hI : ∀ s, I s → ∀ b ∈ l, I (f s b)) (hset : ∀ s, I s → P (f s x)) (hkeep : ∀ s, P s → ∀ b ∈ l, P (f s b)) {s : σ} (hs : I s) : P (l.foldl f s) := by
  obtain ⟨l₁, l₂, rfl⟩ := List.append_of_mem hx
  rw [List.foldl_append, List.foldl_cons]
  have hbefore : I (l₁.foldl f s) := List.foldlRecOn l₁ f hs fun t ht b hb => hI t ht b (by simp [hb])
  exact List.foldlRecOn l₂ f (hset _ hbefore) fun t ht b hb => hkeep t ht b (by simp [hb])

/-- Byte `n` of the shadow's maps, as the active maps number them. -/
def Block.shadowByte (s : Block) (p n : Nat) : Nat := if n < 8 then s.shadowC p n else s.shadowK p ((n - 16) / 16) ((n - 16) % 16)

/-- Byte `n` of the active maps is the shadow's. -/
def Block.MapsByte (s : Block) (p n : Nat) (m : SMap Nat) : Prop := smRise m = true ∧ smGet 0 m n = s.shadowByte p n

theorem Block.MapsByte.put {n k v : Nat} {m : SMap Nat} (h : s.MapsByte p n m) (hv : v = s.shadowByte p k) : s.MapsByte p n (smPut 0 m k v) := by
  obtain ⟨hrise, hget⟩ := h
  refine ⟨smRise_put 0 k v hrise, ?_⟩
  by_cases hk : n = k
  · rw [hk, smGet_put_self 0 k v hrise, hv]
  · rw [smGet_put_ne 0 v hk, hget]

theorem Block.MapsByte.set {n v : Nat} {m : SMap Nat} (h : smRise m = true) (hv : v = s.shadowByte p n) : s.MapsByte p n (smPut 0 m n v) :=
  ⟨smRise_put 0 n v h, by rw [smGet_put_self 0 n v h, hv]⟩

theorem Block.shadowByte_core {c k : Nat} (hk : k < 16) : s.shadowK p c k = s.shadowByte p (16 + 16 * c + k) := by
  have hc : (16 + 16 * c + k - 16) / 16 = c := by omega
  have hm : (16 + 16 * c + k - 16) % 16 = k := by omega
  rw [Block.shadowByte, if_neg (by omega), hc, hm]

theorem Block.shadowByte_cluster {c : Nat} (hc : c < 8) : s.shadowC p c = s.shadowByte p c := (if_pos hc).symm

/-- The bytes of one logical cluster and of its cores, put into the active maps. -/
def Block.putCluster (s : Block) (p : Nat) (m : SMap Nat) (c : Nat) : SMap Nat :=
  (List.range 16).foldl (fun m k => smPut 0 m (16 + 16 * c + k) (s.shadowK p c k)) (smPut 0 m c (s.shadowC p c))

theorem Block.putCluster_rise {m : SMap Nat} (c : Nat) (h : smRise m = true) : smRise (s.putCluster p m c) = true :=
  foldl_keeps (fun m => smRise m = true) _ (fun _ _ h => smRise_put 0 _ _ h) _ (smRise_put 0 _ _ h)

theorem Block.MapsByte.putCluster {n c : Nat} {m : SMap Nat} (h : s.MapsByte p n m) (hc : c < 8) : s.MapsByte p n (s.putCluster p m c) :=
  List.foldlRecOn _ _ (h.put (Block.shadowByte_cluster hc)) fun _ h _ hk => h.put (Block.shadowByte_core (List.mem_range.1 hk))

theorem Block.shadowMap_byte {n c : Nat} (hc : c < 8) (h : ∀ m, smRise m = true → s.MapsByte p n (s.putCluster p m c)) :
    smGet 0 (s.shadowMap p) n = s.shadowByte p n :=
  (foldl_reaches (f := s.putCluster p) (I := fun m => smRise m = true) (P := s.MapsByte p n) (List.mem_range.2 hc)
    (fun _ hm c _ => Block.putCluster_rise c hm) h (fun _ hm _ hc => hm.putCluster (List.mem_range.1 hc)) (s := []) rfl).2

theorem Block.shadowMap_cluster {c : Nat} (hc : c < 8) : smGet 0 (s.shadowMap p) c = s.shadowC p c := by
  rw [Block.shadowByte_cluster hc]
  exact Block.shadowMap_byte hc fun m hm => List.foldlRecOn _ _ (.set hm (Block.shadowByte_cluster hc)) fun _ h _ hk =>
    h.put (Block.shadowByte_core (List.mem_range.1 hk))

theorem Block.shadowMap_core {c k : Nat} (hc : c < 8) (hk : k < 16) : smGet 0 (s.shadowMap p) (16 + 16 * c + k) = s.shadowK p c k := by
  rw [Block.shadowByte_core hk]
  exact Block.shadowMap_byte hc fun m hm => foldl_reaches (I := fun m => smRise m = true) (List.mem_range.2 hk)
    (fun _ h _ _ => smRise_put 0 _ _ h) (fun _ h => .set h (Block.shadowByte_core hk))
    (fun _ h _ hk => h.put (Block.shadowByte_core (List.mem_range.1 hk))) (smRise_put 0 _ _ hm)

/-! What goes with the change of the bindings leaves them as they are. -/

/-- The bindings and maps of the shadow become active. -/
def Block.shadowTaken (s : Block) (p : Nat) : Block := s.modPart p fun q =>
  { q with bindP := s.shadowBind p 0, bindB := s.shadowBind p 1, amap := s.shadowMap p, commit := false, commitDue := false, blank := false,
           actGen := (q.actGen + 1) % 65536 }

namespace BindKept

variable {t u v : Block}

theorem either {c : Prop} [Decidable c] (h : BindKept t u) (h' : BindKept t v) : BindKept t (if c then u else v) := by
  split
  · exact h
  · exact h'

/-- One more step where it applies. -/
theorem whether {c : Prop} [Decidable c] (h : BindKept t u) (hv : BindKept t u → BindKept t v) : BindKept t (if c then v else u) :=
  either (hv h) h

theorem otherwise {c : Prop} [Decidable c] (h : BindKept t u) (hv : BindKept t u → BindKept t v) : BindKept t (if c then u else v) :=
  either h (hv h)

variable (h : BindKept t u)
include h

theorem clearShare (p sl : Nat) : BindKept t (u.clearShare p sl) := h.other rfl rfl
theorem freeChans (p ch : Nat) : BindKept t (u.freeChans p ch) := h.place ((PlaceKept.refl u).freeChans p ch)
theorem moveChans (p ch : Nat) (old : Part) : BindKept t (u.moveChans p ch old) := h.place ((PlaceKept.refl u).moveChans p ch old)

theorem leaveSaved (p job : Nat) : BindKept t (u.leaveSaved p job) := by
  have hmark : BindKept t (u.markImages job true) := h.other rfl rfl
  unfold Block.leaveSaved
  exact h.either ((hmark.either h).modPart p _ fun _ => rfl)

theorem modSlot (p i sl : Nat) (f : Slot → Slot) : BindKept t (u.modSlot p i sl f) := h.other rfl rfl

theorem bindSlots (p : Nat) : BindKept t (u.bindSlots p) := by
  refine foldl _ (fun v i => foldl _ (fun w sl => ?_) _ (refl v)) _ h
  dsimp only
  split
  · exact (refl w).either ((refl w).modSlot ..)
  · exact ((refl w).modSlot ..).either (refl w)

/-- The commit is counted, a recovery ends, and the cause and its counter are set. -/
theorem counted (p : Nat) (f : HelioP → HelioP) (pg : Page) :
    let w := (({ u with eph := { u.eph with gen := (u.eph.gen + 1) % 2 ^ 32 } }.modHp p f).raise pg 0).log pg 0
    MapKept {} Part.bindingView t.parts w.parts ∧ w.eph.gen = (t.eph.gen + 1) % 2 ^ 32 := by
  dsimp only
  rw [Block.log_parts, Block.raise_parts, Block.log_eph, Block.raise_eph, ← h.gen]
  exact ⟨h.parts, rfl⟩

end BindKept

theorem Block.applyShadow_kept (s : Block) (p : Nat) : MapKept {} Part.bindingView (s.shadowTaken p).parts (s.applyShadow p).parts ∧
    (s.applyShadow p).eph.gen = (s.eph.gen + 1) % 2 ^ 32 := by
  unfold Block.applyShadow
  dsimp only
  refine BindKept.counted (t := s.shadowTaken p) (.bindSlots ?_ p) ..
  refine .otherwise (.whether (.whether (.whether (.whether ?_ ?_) ?_) ?_) ?_) ?_
  · exact .refl _
  · exact fun h => (h.clearShare p 0).modPart p _ fun _ => rfl
  · exact fun h => (h.whether fun h => h.clearShare p 1).modPart p _ fun _ => rfl
  · exact fun h => (h.freeChans p 0).leaveSaved p _
  · exact fun h => h.freeChans p 1
  · exact fun h => (h.whether fun h => h.moveChans p 0 _).whether fun h => h.moveChans p 1 _

/-! What becomes of a commit. -/

theorem Block.commitApply_idle (h : (s.part p).commit = false) : s.commitApply p = s := by
  unfold Block.commitApply
  simp [h]

section
variable (hc : (s.part p).commit = true) (hnow : s.commitNow p = true)
include hc hnow

theorem Block.commitApply_refused (hbad : s.shadowBad p = true) : s.commitApply p =
    ((s.modPart p fun q => { q with commit := false, commitDue := false }).raise (.ephP p) 1).log (.ephP p) 1 := by
  unfold Block.commitApply
  simp [hc, hnow, hbad]

/-- A rebinding waits for the partition's transactions (R257), a change of the group layout for the step boundary (R263). -/
theorem Block.commitApply_waits (hbad : s.shadowBad p = false) (hw : s.rebinds p = true ∧ s.partBusyOut p = true ∨
    s.newLayout p = true ∧ s.coll.stepNow.contains (((s.part p).jobOf 0).getD 0) = false) : s.commitApply p = s := by
  unfold Block.commitApply
  rcases hw with ⟨hr, hb⟩ | ⟨hl, hn⟩
  · simp [hc, hnow, hbad, hr, hb]
  · simp only [List.contains_eq_mem, decide_eq_false_iff_not] at hn
    simp [hc, hnow, hbad, hl, hn]

theorem Block.commitApply_applies (hbad : s.shadowBad p = false) (hr : s.rebinds p = false ∨ s.partBusyOut p = false)
    (hl : s.newLayout p = false ∨ s.coll.stepNow.contains (((s.part p).jobOf 0).getD 0) = true) : s.commitApply p = s.applyShadow p := by
  have hbusy : (s.rebinds p && s.partBusyOut p) = false := by rcases hr with h | h <;> simp only [h, Bool.false_and, Bool.and_false]
  have hlayout : (s.newLayout p && !s.coll.stepNow.contains (((s.part p).jobOf 0).getD 0)) = false := by
    rcases hl with h | h <;> simp only [h, Bool.false_and, Bool.not_true, Bool.and_false]
  unfold Block.commitApply
  simp only [hc, hnow, hbad, hbusy, hlayout, Bool.not_true, Bool.or_self, Bool.false_eq_true, if_false]

end

/-- A refused shadow leaves the partition without its commit (R320). -/
theorem Block.commitRefused_spec (hwf : smWf {} s.parts = true) :
    let t := ((s.modPart p fun q => { q with commit := false, commitDue := false }).raise (.ephP p) 1).log (.ephP p) 1
    (t.slots = s.slots ∧ t.syncs = s.syncs) ∧ t.part p = { s.part p with commit := false, commitDue := false } := by
  dsimp only
  refine ⟨⟨by simp, by simp⟩, ?_⟩
  rw [Block.log_part, Block.raise_part, Block.modPart_part_self p _ hwf]

/-- The shadow is active, and its commit counted (R320). -/
theorem Block.applyShadow_spec (hwf : smWf {} s.parts = true) :
    let q := (s.applyShadow p).part p
    q.commit = false ∧ q.bindP = s.shadowBind p 0 ∧ q.bindB = s.shadowBind p 1 ∧ q.actGen = ((s.part p).actGen + 1) % 65536 ∧
      (∀ c < 8, ∀ k < 16, smGet 0 q.amap c = s.shadowC p c ∧ smGet 0 q.amap (16 + 16 * c + k) = s.shadowK p c k) ∧
      (s.applyShadow p).eph.gen = (s.eph.gen + 1) % 2 ^ 32 := by
  obtain ⟨hparts, hgen⟩ := s.applyShadow_kept p
  obtain ⟨-, hview⟩ := hparts (Block.modPart_wf p _ hwf)
  have hp : ((s.applyShadow p).part p).bindingView = ((s.shadowTaken p).part p).bindingView := hview p
  rw [Block.shadowTaken, Block.modPart_part_self p _ hwf] at hp
  simp only [Part.bindingView, Prod.mk.injEq] at hp
  obtain ⟨hbp, hbb, hmap, hcommit, hcount⟩ := hp
  dsimp only
  rw [hmap]
  exact ⟨hcommit, hbp, hbb, hcount, fun c hc k hk => ⟨Block.shadowMap_cluster hc, Block.shadowMap_core hc hk⟩, hgen⟩

end Sys2Proof.Machine
end

section
/-! REPAIR_REBIND (R331) of a partition that runs its job: it waits for the pre-emption that it asks for (R321). -/

namespace Sys2Proof.Machine

variable {s t : Block} {p p' : Nat}

/-! Pre-emption of the partitions of a job. -/

/-- A partition from which pre-emption is asked at `count`. -/
def Part.asked (q : Part) (count : Nat) : Part := { q with preempt := true, preemptAt := if q.preempt then q.preemptAt else count }

/-- The slots, the sync objects, the registers, Ephemeris and the time are kept, and the partitions in canonical form. -/
structure Block.OnlyParts (s t : Block) : Prop where
  slots : t.slots = s.slots
  syncs : t.syncs = s.syncs
  regs : t.regs = s.regs
  eph : t.eph = s.eph
  merid : t.merid = s.merid
  wf : smWf {} s.parts = true → smWf {} t.parts = true

theorem Block.OnlyParts.refl (s : Block) : s.OnlyParts s := ⟨rfl, rfl, rfl, rfl, rfl, id⟩

theorem Block.OnlyParts.modPart (h : s.OnlyParts t) (n : Nat) (f : Part → Part) : s.OnlyParts (t.modPart n f) :=
  ⟨h.slots, h.syncs, h.regs, h.eph, h.merid, fun hwf => Block.modPart_wf n f (h.wf hwf)⟩

theorem Block.askPreempt_onlyParts (s : Block) (p : Nat) : s.OnlyParts (s.askPreempt p) :=
  foldl_keeps s.OnlyParts _ (fun _ _ h => h.modPart _ _) _ (.refl s)

theorem Block.self_mem_kin {job : Nat} (hp : p < 12) (hj : (s.part p).jobOf 0 = some job) : p ∈ s.kin p := by
  unfold Block.kin
  rw [hj]
  simp [hp]

/-- A partition of another job is not among them. -/
theorem Block.not_mem_kin {job : Nat} (hj : (s.part p).jobOf 0 = some job) (hne : (s.part p').jobOf 0 ≠ (s.part p).jobOf 0) : p' ∉ s.kin p := by
  have hpp : p' ≠ p := fun h => hne (by rw [h])
  rw [hj] at hne
  unfold Block.kin
  rw [hj]
  simp [hpp, hne]

theorem Block.askPreempt_part_other {job : Nat} (hj : (s.part p).jobOf 0 = some job) (hne : (s.part p').jobOf 0 ≠ (s.part p).jobOf 0) :
    (s.askPreempt p).part p' = s.part p' :=
  List.foldlRecOn (motive := fun t : Block => t.part p' = s.part p') _ _ rfl fun _ h _ hb =>
    (Block.modPart_part_ne _ (ne_of_mem_of_not_mem hb (Block.not_mem_kin hj hne)).symm).trans h

/-- One partition is asked for the pre-emption of partition `p`'s job. -/
def Block.askOne (p : Nat) (s : Block) (q : Nat) : Block := s.modPart q fun x =>
  if x.preempt || (q ≠ p && x.state ≠ .normal) then x else { x with preempt := true, preemptAt := s.merid.count }

theorem Block.askPreempt_eq (s : Block) (p : Nat) : s.askPreempt p = (s.kin p).foldl (Block.askOne p) s := rfl

theorem Part.asked_asked (q : Part) (count : Nat) : (q.asked count).asked count = q.asked count := by simp [Part.asked]

theorem Block.askOne_part_self (hwf : smWf {} t.parts = true) : (t.askOne p p).part p = (t.part p).asked t.merid.count := by
  refine (Block.modPart_part_self p _ hwf).trans ?_
  cases hpre : (t.part p).preempt with
  | false => simp [Part.asked, hpre]
  | true =>
    simp only [Bool.true_or, if_true, Part.asked, hpre]
    rw [← hpre]

/-- The partition itself is asked. -/
theorem Block.askPreempt_part_self {job : Nat} (hp : p < 12) (hj : (s.part p).jobOf 0 = some job) (hwf : smWf {} s.parts = true) :
    (s.askPreempt p).part p = (s.part p).asked s.merid.count := by
  have hself (t : Block) (h : s.OnlyParts t) (ht : t.part p = s.part p ∨ t.part p = (s.part p).asked s.merid.count) :
      (t.askOne p p).part p = (s.part p).asked s.merid.count := by
    rw [Block.askOne_part_self (h.wf hwf), h.merid]
    rcases ht with ht | ht <;> rw [ht]
    exact Part.asked_asked ..
  have hother (t : Block) (b : Nat) (hb : p ≠ b) : (t.askOne p b).part p = t.part p := Block.modPart_part_ne _ hb
  rw [Block.askPreempt_eq]
  refine (foldl_reaches (I := fun t => s.OnlyParts t ∧ (t.part p = s.part p ∨ t.part p = (s.part p).asked s.merid.count))
    (P := fun t => s.OnlyParts t ∧ t.part p = (s.part p).asked s.merid.count) (Block.self_mem_kin hp hj) ?_ ?_ ?_ ⟨.refl s, .inl rfl⟩).2
  · rintro t ⟨h, ht⟩ b -
    refine ⟨h.modPart _ _, ?_⟩
    rcases eq_or_ne p b with rfl | hb
    · exact .inr (hself t h ht)
    · rwa [hother t b hb]
  · rintro t ⟨h, ht⟩
    exact ⟨h.modPart _ _, hself t h ht⟩
  · rintro t ⟨h, ht⟩ b -
    refine ⟨h.modPart _ _, ?_⟩
    rcases eq_or_ne p b with rfl | hb
    · exact hself t h (.inr ht)
    · rwa [hother t b hb]

/-- The repair waits for the pre-emption, and the rebalance count restarts (R321, R331). -/
theorem Block.repair_waits {c k : Nat} (hp : p < 12) (hruns : s.partRuns p = true) (hwf : smWf {} s.parts = true) :
    ∃ u, s.repair p c (some k) = u ∧ (u.slots = s.slots ∧ u.syncs = s.syncs) ∧
      u.eph = { s.eph with imbalanced := smPut 0 s.eph.imbalanced (((s.part p).bindP.map (·.1)).getD 0) 0 } ∧
      u.part p = { s.part p with
        repairs := (s.part p).repairs ++ [(c, some k)], preempt := true,
        preemptAt := if (s.part p).preempt then (s.part p).preemptAt else s.merid.count } ∧
      ∀ p', (s.part p').jobOf 0 ≠ (s.part p).jobOf 0 → u.part p' = s.part p' := by
  have hsome : ((s.part p).jobOf 0).isSome = true := by
    unfold Block.partRuns at hruns
    exact (Bool.and_eq_true_iff.1 hruns).1
  obtain ⟨job, hj⟩ := Option.isSome_iff_exists.1 hsome
  refine ⟨_, by unfold Block.repair; rw [if_pos hruns], ?_⟩
  dsimp only
  set t : Block := { s with eph := { s.eph with imbalanced := smPut 0 s.eph.imbalanced (((s.part p).bindP.map (·.1)).getD 0) 0 } } with ht
  have hkept := t.askPreempt_onlyParts p
  have hself : (t.askPreempt p).part p = (t.part p).asked t.merid.count := Block.askPreempt_part_self (s := t) hp hj hwf
  refine ⟨⟨hkept.slots, hkept.syncs⟩, hkept.eph, ?_, fun p' hne => ?_⟩
  · rw [Block.modPart_part_self p _ (hkept.wf hwf), hself]
    rfl
  · rw [Block.modPart_part_ne _ (fun h => hne (by rw [h]))]
    exact Block.askPreempt_part_other (s := t) hj hne

end Sys2Proof.Machine
end

section
/-! REPAIR_REBIND (R331) with a spare core of the cluster: the shadow's byte takes the core, the commit is asked for, and what admission and
the end of a job then do keeps both. -/

namespace Sys2Proof.Machine

variable {s t u : Block} {p c k : Nat}

/-! Bytes of a word. -/

theorem bits_setBits_self {w v i : Nat} (hi : i < 4) (hv : v < 256) : bits (setBits w (i * 8) 8 v % 2 ^ 32) (i * 8) 8 = v := by
  unfold bits setBits
  interval_cases i <;> omega

theorem bits_setBits_byte_ne {w v i i' : Nat} (hi : i < 4) (hi' : i' < 4) (hne : i' ≠ i) :
    bits (setBits w (i * 8) 8 v % 2 ^ 32) (i' * 8) 8 = bits w (i' * 8) 8 := by
  unfold bits setBits
  interval_cases i <;> interval_cases i' <;> omega

theorem Block.shadowK_putK_self {v : Nat} (hwf : smWf 0 s.regs = true) (hv : v < 256) : (s.putK p c k v).shadowK p c k = v := by
  unfold Block.shadowK Block.putK Block.setFld
  rw [Block.reg_setReg_self _ hwf]
  exact bits_setBits_self (Nat.mod_lt k (by decide)) hv

theorem Block.shadowK_putK_ne {v m : Nat} (hwf : smWf 0 s.regs = true) (hne : m ≠ k) : (s.putK p c k v).shadowK p c m = s.shadowK p c m := by
  unfold Block.shadowK Block.putK Block.setFld
  by_cases hw : m / 4 = k / 4
  · rw [hw, Block.reg_setReg_self _ hwf]
    exact bits_setBits_byte_ne (Nat.mod_lt k (by decide)) (Nat.mod_lt m (by decide)) (by omega)
  · rw [Block.reg_setReg_ephP_ne _ (by omega)]

/-! What is done after the change of the shadow. -/

/-- From `s` to `t` the slots, the sync objects and the KMAP bytes of the shadow of partition `p` are kept, and the commits asked for. -/
structure CoresKept (p : Nat) (s t : Block) : Prop where
  slots : t.slots = s.slots
  syncs : t.syncs = s.syncs
  cores : ∀ c < 8, ∀ k < 16, t.shadowK p c k = s.shadowK p c k
  parts : smWf {} s.parts = true → smWf {} t.parts = true ∧ ∀ n, (s.part n).commit = true → (t.part n).commit = true

namespace CoresKept

theorem refl (s : Block) : CoresKept p s s := ⟨rfl, rfl, fun _ _ _ _ => rfl, fun h => ⟨h, fun _ => id⟩⟩

theorem trans (h : CoresKept p s t) (h' : CoresKept p t u) : CoresKept p s u := by
  refine ⟨h'.slots.trans h.slots, h'.syncs.trans h.syncs, fun c hc k hk => (h'.cores c hc k hk).trans (h.cores c hc k hk), fun hwf => ?_⟩
  obtain ⟨hwf', hc⟩ := h.parts hwf
  obtain ⟨hwf'', hc'⟩ := h'.parts hwf'
  exact ⟨hwf'', fun n hn => hc' n (hc n hn)⟩

/-- A fold whose every step keeps them keeps them. -/
theorem foldl {β : Type} (f : Block → β → Block) (hf : ∀ t b, CoresKept p t (f t b)) (l : List β) (h : CoresKept p s t) :
    CoresKept p s (l.foldl f t) :=
  foldl_keeps (CoresKept p s) f (fun t b ht => ht.trans (hf t b)) l h

theorem of_regs (hs : t.slots = s.slots) (hy : t.syncs = s.syncs) (hr : t.regs = s.regs)
    (hp : smWf {} s.parts = true → smWf {} t.parts = true ∧ ∀ n, (s.part n).commit = true → (t.part n).commit = true) : CoresKept p s t := by
  refine ⟨hs, hy, fun c _ k _ => ?_, hp⟩
  unfold Block.shadowK
  rw [Block.reg_of_regs hr]

/-- Where the bindings are kept. -/
theorem of_bind (hv : t.placeView = s.placeView) (hb : BindKept s t) : CoresKept p s t := by
  obtain ⟨hs, hy, hr, -⟩ := Block.placeView_eq hv
  exact of_regs hs hy hr fun hwf => ⟨hb.wf hwf, fun n hn => (hb.commit hwf n).trans hn⟩

variable (h : CoresKept p s t)
include h

theorem place (h' : PlaceKept t u) : CoresKept p s u := h.trans (of_bind h'.view (.of_placeKept h'))

theorem admitJob (j : JobImage) : CoresKept p s (t.admitJob j) :=
  h.trans (of_bind (t.admitJob_admission j).view (t.admitJob_admission j).bind)

theorem stopQuota (n : Nat) : CoresKept p s (t.stopQuota n) := h.trans (of_bind (t.stopQuota_placeView n) ((BindKept.refl t).stopQuota n))

/-- A change of a partition that takes no commit back. -/
theorem modPart (n : Nat) (f : Part → Part) (hf : ∀ q, q.commit = true → (f q).commit = true) : CoresKept p s (t.modPart n f) := by
  refine h.trans (of_regs rfl rfl rfl fun hwf => ⟨Block.modPart_wf n f hwf, fun m hm => ?_⟩)
  rw [Block.part_modPart n m f hwf]
  split
  · rename_i hmn
    exact hf _ (hmn ▸ hm)
  · exact hm

theorem ephCommit (n : Nat) : CoresKept p s (t.ephCommit n) := h.modPart n _ fun _ _ => rfl

theorem askPreempt (n : Nat) : CoresKept p s (t.askPreempt n) := by
  rw [Block.askPreempt_eq]
  refine foldl _ (fun v b => (refl v).modPart b _ fun q hq => ?_) _ h
  split
  · exact hq
  · exact hq

theorem ephWait (n : Nat) (x : EphDue) : CoresKept p s (t.ephWait n x) := (h.askPreempt n).modPart n _ fun _ => id

/-- EPH_PRI or EPH_BF of some shadow loses its V. -/
theorem unbind (n : Nat) (sl : Nat) : CoresKept p s (t.ephChange n (.unbind sl)) := by
  have hset (o v : Nat) (ho : o < 0x080) : CoresKept p t (t.setReg (.ephP n) o v) := by
    refine ⟨rfl, rfl, fun c hc k hk => ?_, fun hwf => ⟨hwf, fun _ => id⟩⟩
    unfold Block.shadowK
    rw [Block.reg_setReg_ne]
    rw [ephP_home_addr, ephP_home_addr]
    omega
  refine (h.trans (hset _ _ ?_)).ephCommit n
  split <;> decide

theorem endJob (job : Nat) : CoresKept p s (t.endJob job) := by
  refine foldl _ (fun v n => foldl _ (fun w sl => ?_) _ (refl v)) _ h
  split_ifs
  · exact (refl w).ephWait ..
  · exact ((refl w).stopQuota n).unbind n sl
  · exact (refl w).unbind n sl
  · exact refl w

theorem readmit (job : Nat) (moved : Bool) : CoresKept p s (t.readmit job moved) := by
  unfold Block.readmit
  split
  · dsimp only
    split_ifs
    · exact (h.admitJob _).place ((PlaceKept.refl _).placeJob job)
    · exact (h.admitJob _).endJob job
    · exact h
  · exact h

end CoresKept

/-- The shadow takes the lowest spare core of a working cluster (R331). -/
theorem Block.rebind_spareCore {x : Nat} (hb : (s.shadowBind p 0).isSome = true) (hok : (s.part p).clusterOk (s.shadowC p c % 16) = true)
    (hx : (((s.part p).goodCores (s.shadowC p c % 16)).filter fun n => !(s.core p (17 * (s.shadowC p c % 16) + n)).halted).find? (fun n =>
      !((List.range 16).map fun m => s.shadowK p c m % 32).contains n) = some x) :
    ∃ (t : Block) (job : Nat), t.slots = s.slots ∧ t.syncs = s.syncs ∧ t.regs = s.regs ∧ t.parts = s.parts ∧
      s.rebind p c (some k) = ((((t.putK p c k (128 + x)).ephCommit p).log (.ephP p) 3).log .eph 7).readmit job false := by
  obtain ⟨⟨job, lp⟩, hjl⟩ := Option.isSome_iff_exists.1 hb
  refine ⟨{ s with eph := { s.eph with imbalanced := smPut 0 s.eph.imbalanced job 0 } }, job, rfl, rfl, rfl, rfl, ?_⟩
  unfold Block.rebind
  simp only [hjl, Option.isNone_some, Bool.false_and, Bool.false_eq_true, if_false, hx, hok]

/-- A spare core is a core of its cluster. -/
theorem Block.spareCore_lt {q : Part} {pc x : Nat} {f g : Nat → Bool} (hx : ((q.goodCores pc).filter f).find? g = some x) : x < 17 := by
  have hmem := List.mem_of_find?_eq_some hx
  simp only [Part.goodCores, List.mem_filter, List.mem_range] at hmem
  exact hmem.1.1

theorem Block.repair_spareCore {x : Nat} (hc : c < 8) (hk : k < 16) (hregs : smWf 0 s.regs = true) (hparts : smWf {} s.parts = true)
    (hruns : s.partRuns p = false) (hb : (s.shadowBind p 0).isSome = true) (hok : (s.part p).clusterOk (s.shadowC p c % 16) = true)
    (hx : (((s.part p).goodCores (s.shadowC p c % 16)).filter fun n => !(s.core p (17 * (s.shadowC p c % 16) + n)).halted).find? (fun n =>
      !((List.range 16).map fun m => s.shadowK p c m % 32).contains n) = some x) :
    ∃ u, s.repair p c (some k) = u ∧ (u.slots = s.slots ∧ u.syncs = s.syncs) ∧ u.shadowK p c k = 128 + x ∧ (u.part p).commit = true ∧
      ∀ m < 16, m ≠ k → u.shadowK p c m = s.shadowK p c m := by
  have hx17 := Block.spareCore_lt hx
  obtain ⟨t, job, hs, hy, hr, hp, ht⟩ := Block.rebind_spareCore (k := k) hb hok hx
  refine ⟨_, by unfold Block.repair; rw [if_neg (by simp [hruns]), ht], ?_⟩
  have hwf : smWf 0 t.regs = true := by rw [hr, hregs]
  have hwf' : smWf {} t.parts = true := by rw [hp, hparts]
  set v := (t.putK p c k (128 + x)).ephCommit p with hv
  have hkept : CoresKept p v (((v.log (.ephP p) 3).log .eph 7).readmit job false) :=
    ((CoresKept.refl v).place (((PlaceKept.refl v).log _ 3).log _ 7)).readmit job false
  have hold (m : Nat) : v.shadowK p c m = (t.putK p c k (128 + x)).shadowK p c m := rfl
  have hsame (m : Nat) : t.shadowK p c m = s.shadowK p c m := by
    unfold Block.shadowK
    rw [Block.reg_of_regs hr]
  obtain ⟨-, hcommit⟩ := hkept.parts (Block.modPart_wf p _ hwf')
  refine ⟨⟨hkept.slots.trans hs, hkept.syncs.trans hy⟩, ?_, hcommit p ?_, fun m hm hne => ?_⟩
  · rw [hkept.cores c hc k hk, hold, Block.shadowK_putK_self hwf (by omega)]
  · exact congrArg Part.commit (Block.modPart_part_self (u := t.putK p c k (128 + x)) p _ hwf')
  · rw [hkept.cores c hc m hm, hold, Block.shadowK_putK_ne hwf hne, hsame]

end Sys2Proof.Machine
end

section
/-! ROUTE_REWRITE (R330): an entry that selects a link out of service is rewritten with a valid one whose candidates are in service. -/

namespace Sys2Proof.Machine

variable {s : Block} {d w : Nat}

/-- The entry at `d` is due for the new entry `w`. -/
def Block.routeDue (s : Block) (d w : Nat) : Bool := s.routeLost (s.route d) && bit (cleanRoute w) 31 && !s.routeLost (cleanRoute w)

theorem Block.routeDue_of (hlost : s.routeLost (s.route d) = true) (hv : bit (cleanRoute w) 31 = true)
    (hlive : s.routeLost (cleanRoute w) = false) : s.routeDue d w = true := by
  simp [Block.routeDue, hlost, hv, hlive]

theorem Block.not_routeDue_of (h : s.routeLost (s.route d) = false ∨ bit (cleanRoute w) 31 = false ∨ s.routeLost (cleanRoute w) = true) :
    s.routeDue d w = false := by
  unfold Block.routeDue
  rcases h with h | h | h <;> simp [h]

theorem Block.routeRewrite_kept (h : s.routeDue d w = false) : s.routeRewrite [(d, w)] = s := by
  unfold Block.routeDue at h
  simp [Block.routeRewrite, h]

/-- The entry is written, counted at the route table and by Ephemeris, and the cause raised. -/
theorem Block.routeRewrite_due (h : s.routeDue d w = true) : s.routeRewrite [(d, w)] =
    ((({ s with routes := smPut 0 s.routes d (BitVec.ofNat 32 (cleanRoute w) ^^^ 0x3FFFFFFF) }.log (.route 0) 5).log .eph 8).raise .eph 3) := by
  unfold Block.routeDue at h
  simp [Block.routeRewrite, h]

theorem Block.routeRewrite_writes (h : s.routeDue d w = true) (hwf : smWf 0 s.routes = true) : ∃ t, s.routeRewrite [(d, w)] = t ∧
    (t.slots = s.slots ∧ t.syncs = s.syncs) ∧ ∀ n, (smGet 0 t.routes n ^^^ 0x3FFFFFFF) =
      if n = d then BitVec.ofNat 32 (cleanRoute w) else smGet 0 s.routes n ^^^ 0x3FFFFFFF := by
  refine ⟨_, Block.routeRewrite_due h, ⟨by simp, by simp⟩, fun n => ?_⟩
  rw [Block.raise_routes, Block.log_routes, Block.log_routes]
  dsimp only
  split
  · rename_i hn
    rw [hn, smGet_put_self 0 d _ ((smWf_iff 0 _).1 hwf).1, BitVec.xor_assoc, BitVec.xor_self, BitVec.xor_zero]
  · rename_i hn
    rw [smGet_put_ne 0 _ hn]

end Sys2Proof.Machine
end

section
/-! While the Eyepiece traces nothing, a cause that is raised writes no memory (R437). -/

namespace Sys2Proof.Machine

variable {s : Block} (hoff : bit (s.reg .eyep 0x040) 0 = false)
include hoff

theorem Block.traceRec_off (src off : Nat) (d : List Nat) : s.traceRec src off d = s := by
  unfold Block.traceRec
  simp [hoff]

theorem Block.trace_off (src off : Nat) (d : List Nat) : s.trace src off d = s := by
  unfold Block.trace
  dsimp only
  rw [Block.traceRec_off hoff]
  simp

theorem Block.raise0_ram_off (pg : Page) (n : Nat) : (s.raise0 pg n).ram = s.ram := by
  have hmod : bit ((s.modIrq pg fun h => { h with irqStat := h.irqStat ||| BitVec.ofNat 32 (2 ^ n) }).reg .eyep 0x040) 0 = false := by
    rw [Block.reg_of_regs (Block.modIrq_regs ..), hoff]
  unfold Block.raise0
  split
  · rfl
  · dsimp only
    rw [Block.trace_off hmod, Block.modIrq_ram]

theorem Block.event_ram_off (pg : Page) (n : Nat) : (s.event pg n).ram = s.ram := by
  have hlog : bit ((s.log .mgmt 8).reg .eyep 0x040) 0 = false := by rw [Block.reg_of_regs (Block.log_regs ..), hoff]
  unfold Block.event
  split
  · dsimp only
    split
    · rw [Block.raise0_ram_off hlog, Block.log_ram]
    · rfl
  · rfl

theorem Block.raise_ram_off (pg : Page) (n : Nat) : (s.raise pg n).ram = s.ram := by
  have hraised : bit ((s.raise0 pg n).reg .eyep 0x040) 0 = false := by
    rw [Block.reg_of_regs (s := s) (by simp), hoff]
  unfold Block.raise
  split
  · rfl
  · rw [Block.event_ram_off hraised, Block.raise0_ram_off hoff]

end Sys2Proof.Machine
end

section
/-! STAGE_REBALANCE (R332): the count of imbalanced steps, and the move of a layer. -/

namespace Sys2Proof.Machine

variable {s : Block} {job : Nat} {times : List Nat} {layers : List (Nat × Nat)} {layout : JobImage}

/-! The places of the slowest and the fastest stage. -/

theorem stageOf_lt (better : Nat → Nat → Bool) (h : times ≠ []) : stageOf better times < times.length := by
  have hpos := List.length_pos_iff.2 h
  have hmem : ∀ b : Option (Nat × Nat), (∀ m ∈ b, m.2 < times.length) → b.elim 0 (·.2) < times.length := by
    rintro (_ | m) hm
    · exact hpos
    · exact hm m rfl
  unfold stageOf
  refine hmem _ (List.foldlRecOn (motive := fun b : Option (Nat × Nat) => ∀ m ∈ b, m.2 < times.length) _ _ (by simp) fun b hb e he m hm => ?_)
  have hlt : e.2 < times.length := List.snd_lt_of_mem_zipIdx he
  split at hm
  · rename_i m'
    split at hm
    · obtain rfl := Option.mem_some.1 hm
      exact hlt
    · obtain rfl := Option.mem_some.1 hm
      exact hb m' rfl
  · obtain rfl := Option.mem_some.1 hm
    exact hlt

/-- The slowest stage of a step takes longer than the fastest by more than REBAL_PCT. -/
def Block.Imbalanced (s : Block) (times : List Nat) : Prop :=
  times.getD (stageOf (fun a b => decide (a < b)) times) 0 * (100 + s.fld .eph 0x040 16 8) <
    times.getD (stageOf (fun a b => decide (b < a)) times) 0 * 100

/-- Stages of one time are within any bound. -/
theorem Block.not_imbalanced_of_equal (hlen : 2 ≤ times.length) (heq : ∀ t ∈ times, ∀ u ∈ times, t = u) : ¬ s.Imbalanced times := by
  have hne : times ≠ [] := by
    rintro rfl
    simp at hlen
  have hget (better : Nat → Nat → Bool) : times.getD (stageOf better times) 0 ∈ times := by
    rw [List.getD_eq_getElem _ _ (stageOf_lt better hne)]
    exact List.getElem_mem _
  unfold Block.Imbalanced
  rw [heq _ (hget _) _ (hget fun a b => decide (b < a))]
  exact Nat.not_lt.2 (Nat.mul_le_mul_left _ (Nat.le_add_right ..))

/-! The step. -/

/-- What lets a step of a job count (R297, R332). -/
structure Block.StepOpen (s : Block) (job : Nat) (times : List Nat) (layers : List (Nat × Nat)) : Prop where
  move : s.mayMove job layers = true
  stages : 2 ≤ times.length
  ring : s.ringBusy job = false
  boundary : s.coll.stepNow.contains job = true

/-- The step boundary is taken, with `n` imbalanced steps counted. -/
def Block.stepTaken (s : Block) (job n : Nat) : Block :=
  { s.modColl fun c => { c with stepNow := c.stepNow.erase job } with eph := { s.eph with imbalanced := smPut 0 s.eph.imbalanced job n } }

theorem Block.rebalance_closed {permitted : Bool}
    (h : permitted = false ∨ s.coll.stepNow.contains job = false ∨ s.mayMove job layers = false) :
    s.rebalance job permitted times layers layout = s := by
  refine if_pos ?_
  rcases h with h | h | h <;> rw [h] <;> simp

theorem Block.StepOpen.gate (h : s.StepOpen job times layers) :
    (!true || !s.mayMove job layers || decide (times.length < 2) || s.ringBusy job || !s.coll.stepNow.contains job) = false := by
  obtain ⟨hmove, hlen, hring, hstep⟩ := h
  rw [hmove, hring, hstep, decide_eq_false (by omega)]
  rfl

/-- The block at the step boundary that the rebalancing takes. -/
def Block.atStep (s : Block) (job : Nat) : Block := s.modColl fun c => { c with stepNow := c.stepNow.erase job }

theorem Block.rebalance_even (h : s.StepOpen job times layers) (heven : ¬ s.Imbalanced times) :
    s.rebalance job true times layers layout = s.stepTaken job 0 := by
  have hcold : ¬ (s.atStep job).Imbalanced times := heven
  unfold Block.Imbalanced Block.atStep at hcold
  unfold Block.rebalance
  rw [if_neg (by rw [h.gate]; decide)]
  simp only [hcold, decide_false, Bool.not_false, Bool.or_true, if_true, Bool.false_eq_true, if_false]
  rfl

theorem Block.rebalance_counts (h : s.StepOpen job times layers) (himb : s.Imbalanced times)
    (hn : smGet 0 s.eph.imbalanced job + 1 < s.fld .eph 0x040 24 8) :
    s.rebalance job true times layers layout = s.stepTaken job (smGet 0 s.eph.imbalanced job + 1) := by
  have hhot : (s.atStep job).Imbalanced times := himb
  unfold Block.Imbalanced Block.atStep at hhot
  unfold Block.rebalance
  rw [if_neg (by rw [h.gate]; decide)]
  simp only [hhot, decide_true, if_true]
  exact if_pos (by rw [Bool.or_eq_true]; exact .inl (decide_eq_true hn))

/-- Ephemeris where the count of imbalanced steps starts again after `n`. -/
def Eph.countOver (e : Eph) (job n : Nat) : Eph := { e with imbalanced := smPut 0 (smPut 0 e.imbalanced job n) job 0 }

/-- The block where it does. -/
def Block.countOver (s : Block) (job n : Nat) : Block := s.withPlan (s.eph.countOver job n) (s.atStep job).coll

/-- A layout stands for a job after a layer has moved. -/
def Block.layoutKept (s : Block) (job n : Nat) (layout : JobImage) : Block :=
  s.withPlan { s.eph.countOver job n with
    jobs := s.eph.jobs.map fun (e : JobImage × Spill) => if e.1.job = job then (layout, {}) else e } (s.atStep job).coll

section
variable {l : Nat × Nat} {slow dest n : Nat} (h : s.StepOpen job times layers) (himb : s.Imbalanced times)
  (hn : smGet 0 s.eph.imbalanced job + 1 = n) (hsteps : s.fld .eph 0x040 24 8 ≤ n)
  (hslow : slow = stageOf (fun a b => decide (b < a)) times)
  (hdest : dest = if slow < stageOf (fun a b => decide (a < b)) times then slow + 1 else slow - 1)
  (hl : (layers.find? fun l => l.1 = slow) = some l)
include h himb hn hsteps hslow hdest hl

theorem Block.rebalance_over : s.rebalance job true times layers layout =
    if !s.spillFree layout || !s.canAccess l.2 1 || !s.mayStand job (moveLayer slow dest layers) layout then (s.countOver job n).log .eph 6
    else (((s.layoutKept job n layout).memWrite l.2 [dest % 256]).log .eph 5).raise .eph 2 := by
  have hhot : (s.atStep job).Imbalanced times := himb
  have hover : ¬ (decide (n < s.fld .eph 0x040 24 8) || !true) = true := by simp [hsteps]
  unfold Block.Imbalanced Block.atStep at hhot
  subst hn hdest hslow
  unfold Block.rebalance
  rw [if_neg (by rw [h.gate]; decide)]
  simp only [hhot, decide_true, if_true, hl]
  exact if_neg hover

end

/-! What a move leaves, and what a decline. -/

theorem Block.kept_of_tierRest {t : Block} (h : t.tierRest = s.tierRest) :
    t.slots = s.slots ∧ t.syncs = s.syncs ∧ t.regs = s.regs ∧ t.eph = s.eph ∧ t.coll = s.coll := by
  have heq := Block.eq_of_tierRest h
  refine ⟨?_, ?_, ?_, ?_, ?_⟩ <;> rw [heq]

/-- What a write leaves in memory does not turn on what Ephemeris and the collectives keep. -/
theorem Block.withPlan_memWrite_ram (s : Block) (e : Eph) (c : Coll) (a : Nat) (bs : List Nat) :
    ((s.withPlan e c).memWrite a bs).ram = (s.memWrite a bs).ram := by
  rw [← Block.withPlan_memWrite]
  rfl

/-- The count starts again, and the step boundary is taken. -/
structure Block.CountOver (s : Block) (job : Nat) (u : Block) : Prop where
  slots : u.slots = s.slots
  syncs : u.syncs = s.syncs
  count : smGet 0 u.eph.imbalanced job = 0
  boundary : u.coll.stepNow = s.coll.stepNow.erase job

theorem Block.countOver_spec (n : Nat) (hwf : smWf 0 s.eph.imbalanced = true) : s.CountOver job (s.countOver job n) :=
  ⟨rfl, rfl, smGet_put_self 0 job 0 (smRise_put 0 job n ((smWf_iff 0 _).1 hwf).1), rfl⟩

theorem Block.CountOver.kept {t u : Block} (h : s.CountOver job t) (hs : u.slots = t.slots) (hy : u.syncs = t.syncs)
    (he : u.eph.imbalanced = t.eph.imbalanced) (hc : u.coll = t.coll) : s.CountOver job u :=
  ⟨hs.trans h.slots, hy.trans h.syncs, by rw [he]; exact h.count, by rw [hc]; exact h.boundary⟩

/-- The choice byte of the moved layer is written, with its counter and its cause. -/
def Block.choiceMoved (s : Block) (job n : Nat) (layout : JobImage) (a dest : Nat) : Block :=
  (((s.layoutKept job n layout).memWrite a [dest % 256]).log .eph 5).raise .eph 2

theorem Block.choiceMoved_countOver {n a dest : Nat} (hwf : smWf 0 s.eph.imbalanced = true) :
    s.CountOver job (s.choiceMoved job n layout a dest) := by
  obtain ⟨hs, hy, -, he, hc⟩ := Block.kept_of_tierRest ((s.layoutKept job n layout).memWrite_tierRest a [dest % 256] false [])
  have hlayout : s.CountOver job (s.layoutKept job n layout) := (Block.countOver_spec n hwf).kept rfl rfl rfl rfl
  unfold Block.choiceMoved
  refine hlayout.kept ?_ ?_ ?_ ?_
  · rw [Block.raise_slots, Block.log_slots, hs]
  · rw [Block.raise_syncs, Block.log_syncs, hy]
  · rw [Block.raise_eph, Block.log_eph, he]
  · rw [Block.raise_coll, Block.log_coll, hc]

theorem Block.choiceMoved_jobs {n a dest : Nat} : (s.choiceMoved job n layout a dest).eph.jobs =
    s.eph.jobs.map fun e => if e.1.job = job then (layout, {}) else e := by
  obtain ⟨-, -, -, he, -⟩ := Block.kept_of_tierRest ((s.layoutKept job n layout).memWrite_tierRest a [dest % 256] false [])
  unfold Block.choiceMoved
  rw [Block.raise_eph, Block.log_eph, he]
  rfl

theorem Block.choiceMoved_causeSet {n a dest : Nat} (hwf : smWf {} s.pages = true) :
    (s.choiceMoved job n layout a dest).causeSet .eph 2 = true :=
  Block.raise_causeSet _ (by decide)
    ((((FrameKept.refl (s.layoutKept job n layout)).memWrite a [dest % 256] false .normal .none []).log .eph 5 (.inl nofun)).pages hwf).1

theorem Block.choiceMoved_ram {n a dest : Nat} (hoff : bit (s.reg .eyep 0x040) 0 = false) :
    (s.choiceMoved job n layout a dest).ram = (s.memWrite a [dest % 256]).ram := by
  obtain ⟨-, -, hregs, -, -⟩ := Block.kept_of_tierRest ((s.layoutKept job n layout).memWrite_tierRest a [dest % 256] false [])
  have hplan : ((s.layoutKept job n layout).memWrite a [dest % 256]).ram = (s.memWrite a [dest % 256]).ram :=
    s.withPlan_memWrite_ram _ _ a _
  have hold : (((s.layoutKept job n layout).memWrite a [dest % 256]).log .eph 5).regs = s.regs := by
    rw [Block.log_regs, hregs]
    rfl
  unfold Block.choiceMoved
  rw [Block.raise_ram_off (by rw [Block.reg_of_regs hold, hoff]), Block.log_ram, hplan]

section
variable {l : Nat × Nat} {slow n : Nat} (h : s.StepOpen job times layers) (himb : s.Imbalanced times)
  (hn : smGet 0 s.eph.imbalanced job + 1 = n) (hsteps : s.fld .eph 0x040 24 8 ≤ n)
  (hslow : slow = stageOf (fun a b => decide (b < a)) times)
  (hl : (layers.find? fun l => l.1 = slow) = some l)
  (hwf : smWf 0 s.eph.imbalanced = true) (hpages : smWf {} s.pages = true) (hoff : bit (s.reg .eyep 0x040) 0 = false)
include h himb hn hsteps hslow hl hwf hpages hoff

/-- After REBAL_STEPS imbalanced steps the layer moves, or the move is declined (R332). -/
theorem Block.rebalance_moves : ∃ u, s.rebalance job true times layers layout = u ∧ s.CountOver job u ∧
    ∀ dest, dest = (if slow < stageOf (fun a b => decide (a < b)) times then slow + 1 else slow - 1) →
      (s.spillFree layout = true → s.canAccess l.2 1 = true → s.mayStand job (moveLayer slow dest layers) layout = true →
        u.ram = (s.memWrite l.2 [dest % 256]).ram ∧ u.causeSet .eph 2 = true ∧
          u.eph.jobs = s.eph.jobs.map fun e => if e.1.job = job then (layout, {}) else e) ∧
      (s.spillFree layout = false ∨ s.canAccess l.2 1 = false ∨ s.mayStand job (moveLayer slow dest layers) layout = false →
        u.ram = s.ram ∧ u.eph.jobs = s.eph.jobs) := by
  refine ⟨_, Block.rebalance_over h himb hn hsteps hslow rfl hl, ?_⟩
  generalize (if slow < stageOf (fun a b => decide (a < b)) times then slow + 1 else slow - 1) = dest
  split
  · rename_i hdec
    refine ⟨(Block.countOver_spec n hwf).kept (by simp) (by simp) (by simp) (by simp), ?_⟩
    rintro _ rfl
    refine ⟨fun hf ha hm => ?_, fun _ => ⟨by rw [Block.log_ram]; rfl, by rw [Block.log_eph]; rfl⟩⟩
    simp [hf, ha, hm] at hdec
  · rename_i hdec
    refine ⟨Block.choiceMoved_countOver hwf, ?_⟩
    rintro _ rfl
    refine ⟨fun _ _ _ => ⟨Block.choiceMoved_ram hoff, Block.choiceMoved_causeSet hpages, Block.choiceMoved_jobs⟩, fun hd => ?_⟩
    refine absurd ?_ hdec
    rcases hd with hd | hd | hd <;> simp [hd]

end

end Sys2Proof.Machine
end

section
/-! The commands of Ephemeris on placement (spec/12), assembled. -/

namespace Sys2Proof.Machine

variable {s : State} (hon : s.blk.boot.power = .on)

/-- What is shown of the package after a command is shown of the state. -/
theorem exec_reaches {i : Instr} {b : Block} {P : Block → Prop} (he : exec i s = .next (s.withBlk b)) (hb : ∃ u, b = u ∧ P u) :
    ∃ u : Block, exec i s = .next (s.withBlk u) ∧ P u := by
  obtain ⟨u, rfl, hu⟩ := hb
  exact ⟨_, he, hu⟩

/-- A command that leaves the package leaves the state. -/
theorem exec_keeps {i : Instr} {b : Block} (he : exec i s = .next (s.withBlk b)) (hb : b = s.blk) : exec i s = .next s :=
  he.trans (State.withBlk_of_eq hb)

/-- Idle rings are not busy. -/
theorem Block.ringBusy_of_idle {b : Block} (job : Nat) (h : ∀ r < 12, (b.ring r).step = none) : b.ringBusy job = false := by
  rw [Block.ringBusy, List.any_eq_false]
  intro r hr
  simp [h r (List.mem_range.1 hr)]

include hon

/-- ADMIT_JOB (R322 to R326). -/
theorem admitJob_admits (j : JobImage) (st : Nat) (hst : st = s.blk.admitStatus j (j.spill s.blk.hbmReserve (s.blk.capFree j.job))) :
    ∃ u : Block, exec (.admitJob j) s = .next (s.withBlk u) ∧ (u.slots = s.blk.slots ∧ u.syncs = s.blk.syncs) ∧ u.eph.lastStatus = st ∧
      u.eph.lastJob = j.job ∧ (j.job ∈ u.eph.admitted ↔ st ≤ 1) ∧ ∀ m, m ≠ j.job → (m ∈ u.eph.admitted ↔ m ∈ s.blk.eph.admitted) := by
  obtain ⟨hview, -, hstatus, hjob, hadm⟩ := s.blk.admitJob_admission j
  obtain ⟨hs, hy, -, -⟩ := Block.placeView_eq hview
  rw [← hst] at hstatus hadm
  refine ⟨_, exec_admitJob hon j, ⟨hs, hy⟩, hstatus, hjob, ?_, fun m hm => ?_⟩
  · rw [hadm, List.mem_append, List.mem_filter]
    split_ifs with hle
    · simp [hle]
    · simp [hle]
  · rw [hadm, List.mem_append, List.mem_filter]
    split_ifs
    · simp [hm]
    · simp [hm]

/-- STAGE_REBALANCE after REBAL_STEPS imbalanced steps (R332). -/
theorem stageRebalance_moves {job : BitVec 16} {times : List Nat} {layers : List (Nat × BitVec 48)} {layout : JobImage} {n slow : Nat}
    {l : Nat × BitVec 48}
    (h : s.blk.StepOpen job.toNat times (layers.map fun e => (e.1, e.2.toNat))) (himb : s.blk.Imbalanced times)
    (hn : smGet 0 s.blk.eph.imbalanced job.toNat + 1 = n) (hsteps : s.blk.fld .eph 0x040 24 8 ≤ n)
    (hslow : slow = stageOf (fun a b => decide (b < a)) times) (hl : (layers.find? fun l => l.1 = slow) = some l)
    (hwf : smWf 0 s.blk.eph.imbalanced = true) (hpages : smWf {} s.blk.pages = true) (hoff : bit (s.blk.reg .eyep 0x040) 0 = false) :
    ∃ u : Block, exec (.stageRebalance job true times layers layout) s = .next (s.withBlk u) ∧ s.blk.CountOver job.toNat u ∧
      ∀ dest, dest = (if slow < stageOf (fun a b => decide (a < b)) times then slow + 1 else slow - 1) →
        (s.blk.spillFree layout = true → s.blk.canAccess l.2.toNat 1 = true →
          s.blk.mayStand job.toNat (moveLayer slow dest (layers.map fun e => (e.1, e.2.toNat))) layout = true →
          u.ram = (s.blk.memWrite l.2.toNat [dest % 256]).ram ∧ u.causeSet .eph 2 = true ∧
            u.eph.jobs = s.blk.eph.jobs.map fun e => if e.1.job = job.toNat then (layout, {}) else e) ∧
        (s.blk.spillFree layout = false ∨ s.blk.canAccess l.2.toNat 1 = false ∨
          s.blk.mayStand job.toNat (moveLayer slow dest (layers.map fun e => (e.1, e.2.toNat))) layout = false →
          u.ram = s.blk.ram ∧ u.eph.jobs = s.blk.eph.jobs) := by
  have hfind : ((layers.map fun e => (e.1, e.2.toNat)).find? fun l => l.1 = slow) = some (l.1, l.2.toNat) := by
    rw [List.find?_map]
    exact congrArg (Option.map _) hl
  exact exec_reaches (exec_stageRebalance hon job true times layers layout)
    (Block.rebalance_moves h himb hn hsteps hslow hfind hwf hpages hoff)

end Sys2Proof.Machine
end

section
/-! Placement (spec/12). -/

namespace Sys2Proof.Machine

/-- Settles O41, one command after the other. -/
theorem placementCommands : Obligations.PlacementCommands := by
  unfold Obligations.PlacementCommands
  intro s p lp c k x req j job d w times layers sp b q kept hon hparts hregs
  have hbind := exec_jobBind hon job false [(lp, p)]
  have hroute := exec_routeRewrite hon [(d, w)]
  have hcommit := exec_ephCommitApply hon p
  have hjob : job.toNat < 2 ^ 16 := job.isLt
  have hlp : lp.val < 16 := by omega
  refine ⟨fun st hst => admitJob_admits hon j st hst,
    fun ha hd hf hr hasks hescs hun => exec_reaches hbind (Block.jobBind_binds ⟨ha, hd, hf, hr, hasks, hescs, hun⟩ hjob hlp hregs hparts),
    fun h => exec_keeps hbind (Block.jobBind_refused (Block.mayBind_false_of h)),
    fun j' l' hb ha hne => exec_keeps (exec_jobBind hon job true [(lp, p)]) (Block.jobBind_refused (Block.mayBind_backfill_false hb ha hne)),
    fun hreq => exec_ephCommit hon p hreq,
    fun hc => exec_keeps hcommit (Block.commitApply_idle hc),
    fun hc hnow => ⟨fun hbad => exec_reaches hcommit ⟨_, Block.commitApply_refused hc hnow hbad, Block.commitRefused_spec hparts⟩,
      fun hgood hr hbusy => exec_keeps hcommit (Block.commitApply_waits hc hnow hgood (.inl ⟨hr, hbusy⟩)),
      fun hgood hl hstep => exec_keeps hcommit (Block.commitApply_waits hc hnow hgood (.inr ⟨hl, hstep⟩)),
      fun hgood hr hl => exec_reaches hcommit ⟨_, Block.commitApply_applies hc hnow hgood hr hl, Block.applyShadow_spec hparts⟩⟩,
    ?_, ?_, ?_, ?_, ?_, ?_, ?_, ?_, ?_⟩
  · rintro hruns _ rfl
    obtain ⟨u, hu, hkept, heph, hpart, hother⟩ := Block.repair_waits (c := c) (k := k) p.isLt hruns hparts
    exact exec_reaches (exec_repairRebind hon p c k) ⟨u, hu, hkept, heph, hpart, fun p' => hother p'⟩
  · rintro hruns _ rfl hb hok hx
    exact exec_reaches (exec_repairRebind hon p c k) (Block.repair_spareCore c.isLt k.isLt hregs hparts hruns hb hok hx)
  · exact exec_keeps (exec_routeRewrite hon []) rfl
  · exact fun h => exec_keeps hroute (Block.routeRewrite_kept (Block.not_routeDue_of h))
  · exact fun hwf hlost hv hlive => exec_reaches hroute (Block.routeRewrite_writes (Block.routeDue_of hlost hv hlive) hwf)
  · exact exec_keeps (exec_stageRebalance hon ..) (Block.rebalance_closed (.inl rfl))
  · intro h
    exact exec_keeps (exec_stageRebalance hon ..) (Block.rebalance_closed (.inr h))
  · intro hm hlen heq hring hstep
    refine (exec_stageRebalance hon ..).trans ?_
    rw [Block.rebalance_even ⟨hm, hlen, Block.ringBusy_of_idle _ hring, hstep⟩ (Block.not_imbalanced_of_equal hlen heq)]
    rfl
  · intro slow fast n hm hlen hring hstep himb
    refine ⟨fun hn => ?_, fun hsteps hwf hpages hoff l hl => ?_⟩
    · refine (exec_stageRebalance hon ..).trans ?_
      rw [Block.rebalance_counts ⟨hm, hlen, hring, hstep⟩ himb hn]
      rfl
    · obtain ⟨u, hu, hcount, hmove⟩ := stageRebalance_moves (layout := sp) hon ⟨hm, hlen, hring, hstep⟩ himb rfl hsteps rfl hl hwf hpages
        hoff
      obtain ⟨hs, hy, hn, hb⟩ := hcount
      exact ⟨u, hu, ⟨hs, hy⟩, hn, hb, hmove⟩

end Sys2Proof.Machine
end

section
/-! The places of HBM addresses (R160, Table 6.3). -/

namespace Sys2Proof.Machine

/-- The place that Table 6.3 gives an HBM address in mode LINEAR. -/
def linearHome (a : Nat) : Home := .hbm (a / stackBytes) (a % stackBytes)

/-- The place in mode DIE3: three stacks share each window of 144 GiB, 4 KiB about. -/
def die3Home (a : Nat) : Home :=
  .hbm (3 * (a / (144 * 2 ^ 30)) + a % (144 * 2 ^ 30) / 4096 % 3)
    (a % (144 * 2 ^ 30) / 4096 / 3 * 4096 + a % (144 * 2 ^ 30) % 4096)

/-- The place in mode PKG12: all twelve stacks share the addresses, 4 KiB about. -/
def pkg12Home (a : Nat) : Home := .hbm (a / 4096 % 12) (a / 4096 / 12 * 4096 + a % 4096)

/-- The place of an HBM address in interleave mode `m` (Table 6.3). -/
def imapHome (m a : Nat) : Home := if m = 0 then linearHome a else if m = 1 then die3Home a else pkg12Home a

/-- A home is a place of a stack: stacks 0 to 11, below 48 GiB. -/
def Home.InStacks (h : Home) : Prop := ∃ st loc, h = .hbm st loc ∧ st < 12 ∧ loc < stackBytes

variable {t : Tiers} {a a' : Nat}

theorem homeOf_linear (ha : a < 576 * 2 ^ 30) (hm : t.imapCur = 0) :
    homeOf t a = if bit t.stackOos (a / stackBytes) then none else some (linearHome a) := by
  unfold homeOf
  rw [if_pos (by omega), hm]
  rfl

theorem homeOf_die3 (ha : a < 576 * 2 ^ 30) (hm : t.imapCur = 1) :
    homeOf t a = if bit t.stackOos (3 * (a / (144 * 2 ^ 30))) || bit t.stackOos (3 * (a / (144 * 2 ^ 30)) + 1) ||
      bit t.stackOos (3 * (a / (144 * 2 ^ 30)) + 2) then none else some (die3Home a) := by
  unfold homeOf
  rw [if_pos (by omega), hm]
  rfl

theorem homeOf_pkg12 (ha : a < 576 * 2 ^ 30) (hm : t.imapCur = 2) :
    homeOf t a = if bit t.stackOos (a / 4096 % 12) then none else some (pkg12Home a) := by
  unfold homeOf
  rw [if_pos (by omega), hm]
  rfl

/-- An HBM address has the place of the mode in force, or none. -/
theorem homeOf_imapHome_or_none (ha : a < 576 * 2 ^ 30) (hm : t.imapCur < 3) :
    homeOf t a = some (imapHome t.imapCur a) ∨ homeOf t a = none := by
  obtain h | h | h : t.imapCur = 0 ∨ t.imapCur = 1 ∨ t.imapCur = 2 := by omega
  · rw [homeOf_linear ha h, h]
    exact (ite_eq_or_eq _ _ _).symm
  · rw [homeOf_die3 ha h, h]
    exact (ite_eq_or_eq _ _ _).symm
  · rw [homeOf_pkg12 ha h, h]
    exact (ite_eq_or_eq _ _ _).symm

theorem bit_zero (n : Nat) : bit 0 n = false := by simp [bit]

/-- With every stack in service it has that place. -/
theorem homeOf_imapHome (ha : a < 576 * 2 ^ 30) (hm : t.imapCur < 3) (hs : t.stackOos = 0) : homeOf t a = some (imapHome t.imapCur a) := by
  obtain h | h | h : t.imapCur = 0 ∨ t.imapCur = 1 ∨ t.imapCur = 2 := by omega
  · rw [homeOf_linear ha h, h, hs, bit_zero]
    rfl
  · rw [homeOf_die3 ha h, h, hs, bit_zero, bit_zero, bit_zero]
    rfl
  · rw [homeOf_pkg12 ha h, h, hs, bit_zero]
    rfl

/-- The place lies on a stack of the package. -/
theorem imapHome_inStacks (m : Nat) (ha : a < 576 * 2 ^ 30) : (imapHome m a).InStacks := by
  unfold imapHome
  split_ifs
  · exact ⟨_, _, rfl, by unfold stackBytes; omega, by unfold stackBytes; omega⟩
  · exact ⟨_, _, rfl, by omega, by unfold stackBytes; omega⟩
  · exact ⟨_, _, rfl, by omega, by unfold stackBytes; omega⟩

/-- No two addresses share a place. -/
theorem imapHome_injective (m : Nat) (h : imapHome m a = imapHome m a') : a = a' := by
  unfold imapHome at h
  split_ifs at h
  · obtain ⟨hst, hloc⟩ := Home.hbm.inj h
    unfold stackBytes at hst hloc
    omega
  · obtain ⟨hst, hloc⟩ := Home.hbm.inj h
    omega
  · obtain ⟨hst, hloc⟩ := Home.hbm.inj h
    omega

/-- Settles O58: the home of an HBM address is read off the mode in force, and the place that the mode gives tells the address. -/
theorem hbmInterleaveModes : Obligations.HbmInterleaveModes := by
  unfold Obligations.HbmInterleaveModes
  intro t a a' ha ha' hm gib48 w n place
  have hplace : place = imapHome t.imapCur a := rfl
  rw [hplace]
  refine ⟨fun hs => ⟨homeOf_imapHome ha hm hs, fun h => ?_, imapHome_inStacks _ ha⟩, homeOf_imapHome_or_none ha hm⟩
  rw [homeOf_imapHome ha hm hs, homeOf_imapHome ha' hm hs] at h
  exact imapHome_injective _ (Option.some.inj h)

end Sys2Proof.Machine
end

section
/-! Writes inside one protected unit (R168). -/

namespace Sys2Proof.Machine

variable {r : Ram} {a u : Nat} {bs : List Nat}

/-- Bytes inside one unit touch that unit only. -/
theorem unitsOf_inside {sz n : Nat} (hn : 0 < n) (hu : u % sz = 0) (hua : u ≤ a) (han : a + n ≤ u + sz) : unitsOf sz a n = [u] := by
  have hmul : u / sz * sz = u := Nat.div_mul_cancel (Nat.dvd_of_mod_eq_zero hu)
  have hfirst : a / sz = u / sz := Nat.div_eq_of_lt_le (by omega) (by rw [Nat.succ_mul]; omega)
  have hlast : (a + n - 1) / sz = u / sz := Nat.div_eq_of_lt_le (by omega) (by rw [Nat.succ_mul]; omega)
  simp [unitsOf, show n ≠ 0 by omega, hfirst, hlast, hmul]

/-- Bytes `bs` at `a` lie inside the protected unit that begins at `u`. -/
structure InUnit (a u : Nat) (bs : List Nat) : Prop where
  some : 0 < bs.length
  begins : u % unitSize a = 0
  from_ : u ≤ a
  upto : a + bs.length ≤ u + unitSize a
  size : unitSize u = unitSize a

/-- A write inside one unit is that unit's write. -/
theorem Ram.write_inUnit (h : InUnit a u bs) (pois : Bool) : r.write a bs pois = r.writeUnit a bs pois u := by
  rw [Ram.write, unitsOf_inside h.some h.begins h.from_ h.upto]
  rfl

/-- The write covers its unit. -/
def coversUnit (a u : Nat) (bs : List Nat) : Bool := decide (u = a) && decide (bs.length = unitSize a)

/-- A poisoned write marks the unit. -/
theorem Ram.write_poisoned (h : InUnit a u bs) : r.write a bs true = r.mark u := by
  rw [Ram.write_inUnit h, Ram.writeUnit]
  rfl

/-- An unpoisoned write stores its bytes and clears the marker, but for a partial write to a marked unit, which changes nothing. -/
theorem Ram.write_unpoisoned (h : InUnit a u bs) : r.write a bs false =
    if smGet false r.poison u && !coversUnit a u bs then r
    else { mem := putBytes r.mem a bs, poison := smPut false r.poison u false } := by
  have hunit := Ram.write_inUnit (r := r) h false
  obtain ⟨-, -, hfrom, hupto, hsize⟩ := h
  have hlo : Nat.max a u = a := max_eq_left hfrom
  have hhi : Nat.min (a + bs.length) (u + unitSize a) = a + bs.length := min_eq_left hupto
  have hcovers : (decide (a = u) && decide (a + bs.length = u + unitSize a)) = coversUnit a u bs := by
    rw [coversUnit, ← Bool.decide_and, ← Bool.decide_and, decide_eq_decide]
    omega
  rw [hunit, Ram.writeUnit]
  simp [hsize, hlo, hhi, hcovers]

/-- A write inside one unit leaves the markers of the others. -/
theorem Ram.write_marker_ne (h : InUnit a u bs) (pois : Bool) {v : Nat} (hv : v ≠ u) :
    smGet false (r.write a bs pois).poison v = smGet false r.poison v := by
  cases pois with
  | true =>
    rw [Ram.write_poisoned h]
    exact smGet_put_ne false _ hv
  | false =>
    rw [Ram.write_unpoisoned h]
    split
    · rfl
    · exact smGet_put_ne false _ hv

/-- Settles O18: a write inside one unit is `Ram.mark`, no change, or the bytes stored with the marker cleared. -/
theorem poisonMarkersFollowWrites : Obligations.PoisonMarkersFollowWrites := by
  unfold Obligations.PoisonMarkersFollowWrites
  intro r a u bs pois hwf hlen hu hua hupto hsize r' full
  have h : InUnit a u bs := ⟨hlen, hu, hua, hupto, hsize⟩
  obtain ⟨hmem, hpois⟩ := (Ram.wf_iff r).1 hwf
  have hrise := ((smWf_iff 0 _).1 hmem).1
  have hriseP := ((smWf_iff false _).1 hpois).1
  refine ⟨Ram.wf_write a bs pois hwf, fun v hv => Ram.write_marker_ne h pois hv, ?_, ?_, ?_⟩
  · rintro rfl hopen
    have hw : r' = { mem := putBytes r.mem a bs, poison := smPut false r.poison u false } := by
      refine (Ram.write_unpoisoned h).trans (if_neg ?_)
      obtain hclean | hfull := hopen
      · simp [hclean]
      · simp [show coversUnit a u bs = true from hfull]
    rw [hw]
    exact ⟨fun k hk => smGet_putBytes_in a k bs hrise hk, fun x hx => smGet_putBytes_out a x bs hx, smGet_put_self false u _ hriseP⟩
  · rintro rfl hmarked hpart
    exact (Ram.write_unpoisoned h).trans (if_pos (by simp [hmarked, show coversUnit a u bs = false from hpart]))
  · rintro rfl
    have hw : r' = r.mark u := Ram.write_poisoned h
    rw [hw]
    refine ⟨smGet_put_self false u _ hriseP, fun x hx hx' => Ram.mark_reads r u x (by omega), fun x hx => ?_⟩
    rw [Ram.mark, smGet_dropRange, if_neg (by omega)]

end Sys2Proof.Machine
end

section
/-! Memory keeps its canonical form through every access, event and record of the memory tiers (R149, R163, R168, R169). -/

namespace Sys2Proof.Machine

theorem MLine.markBad_wf {r : Ram} (l : MLine) (p : Nat) (hr : r.wf = true) : (l.markBad p r).wf = true := by
  refine foldl_keeps (fun r : Ram => r.wf = true) _ (fun r k hr => ?_) _ hr
  split
  · exact hr
  · exact Ram.wf_mark _ hr

/-- Memory is in canonical form. -/
structure Block.RamWf (s : Block) : Prop where
  wf : s.ram.wf = true

namespace Block.RamWf

/-- A fold whose every step keeps the form keeps it. -/
theorem foldl {β : Type} (f : Block → β → Block) (hf : ∀ t b, t.RamWf → (f t b).RamWf) (l : List β) {s : Block} (h : s.RamWf) :
    (l.foldl f s).RamWf := foldl_keeps Block.RamWf f hf l h

variable {s : Block} (h : s.RamWf)
include h

/-! Changes beside memory, and writes of it. -/

theorem modMsc (p : Nat) (f : Msc → Msc) : (s.modMsc p f).RamWf := ⟨h.wf⟩
theorem modHbmc (p : Nat) (f : Hbmc → Hbmc) : (s.modHbmc p f).RamWf := ⟨h.wf⟩
theorem modCapc (d : Nat) (f : Capc → Capc) : (s.modCapc d f).RamWf := ⟨h.wf⟩
theorem modPart (p : Nat) (f : Part → Part) : (s.modPart p f).RamWf := ⟨h.wf⟩
theorem modCore (p i : Nat) (f : Core → Core) : (s.modCore p i f).RamWf := ⟨h.wf⟩
theorem modSlot (p i sl : Nat) (f : Slot → Slot) : (s.modSlot p i sl f).RamWf := ⟨h.wf⟩
theorem modLine (p k : Nat) (f : MLine → MLine) : (s.modLine p k f).RamWf := ⟨h.wf⟩
theorem touch (p k : Nat) : (s.touch p k).RamWf := ⟨h.wf⟩
theorem hbmErr (p k y x : Nat) : (s.hbmErr p k y x).RamWf := ⟨h.wf⟩
theorem capErr (d k y x : Nat) : (s.capErr d k y x).RamWf := ⟨h.wf⟩
theorem emit (o : Out) : (s.emit o).RamWf := ⟨h.wf⟩
theorem eyep (e : Eyep) : ({ s with eyep := e } : Block).RamWf := ⟨h.wf⟩
theorem fv (n : Nat) : ({ s with fv := n } : Block).RamWf := ⟨h.wf⟩
theorem modIrq (pg : Page) (f : PageHdr → PageHdr) : (s.modIrq pg f).RamWf := ⟨by rw [Block.modIrq_ram]; exact h.wf⟩
theorem log (pg : Page) (n : Nat) : (s.log pg n).RamWf := ⟨by rw [Block.log_ram]; exact h.wf⟩

theorem logN (pg : Page) (n k : Nat) : (s.logN pg n k).RamWf := by
  unfold Block.logN
  dsimp only
  split_ifs
  · exact h
  · refine modIrq ?_ pg _
    exact ⟨h.wf⟩
  · exact ⟨h.wf⟩

theorem mark (u : Nat) : ({ s with ram := s.ram.mark u } : Block).RamWf := ⟨Ram.wf_mark u h.wf⟩

theorem writeMarked (a : Nat) (bs : List Nat) (po : Bool) (mk : List (Nat × Nat)) :
    ({ s with ram := s.ram.writeMarked a bs po mk } : Block).RamWf := ⟨Ram.wf_writeMarked a bs po mk h.wf⟩

/-! The memory-side caches, the stacks and the capacity devices. -/

theorem hbmRead (p x n : Nat) : (s.hbmRead p x n).RamWf := by
  refine foldl _ (fun t u ht => ?_) _ (h.modHbmc p _)
  split
  · exact (ht.log _ _).hbmErr p _ _ _
  · exact ht

theorem hbmWrite (p x n : Nat) : (s.hbmWrite p x n).RamWf := (h.modHbmc p _).logN _ _ _

theorem mergeReads (p x n : Nat) : (s.mergeReads p x n).RamWf := (foldl _ (fun _ u ht => ht.hbmRead p u 64) _ h).logN _ _ _

theorem writeBack (p k : Nat) : (s.writeBack p k).RamWf := by
  unfold Block.writeBack
  split
  · rename_i l _
    have hmark : ({ s with ram := l.markBad p s.ram } : Block).RamWf := ⟨MLine.markBad_wf l p h.wf⟩
    split
    · exact ((hmark.modMsc p _).modLine p k _).hbmWrite p _ _
    · exact h
  · exact h

theorem dropLine (p k : Nat) : (s.dropLine p k).RamWf := by
  unfold Block.dropLine
  split
  · rename_i l _
    dsimp only
    split
    · exact h.modMsc p _
    · obtain ⟨hmem, hpois⟩ := (Ram.wf_iff _).1 (Ram.wf_write (p * stackBytes + l.line * 128) l.stale false h.wf)
      exact ⟨(Ram.wf_iff _).2 ⟨hmem, smWf_put false _ _ (smWf_put false _ _ hpois)⟩⟩
  · exact h

theorem keepRoom (p n : Nat) : (s.keepRoom p n).RamWf := by
  unfold Block.keepRoom
  dsimp only
  split
  · split
    · exact (h.modLine p _ _).log _ _
    · exact h
  · exact h

theorem markKeep (p k : Nat) : (s.markKeep p k).RamWf := by
  unfold Block.markKeep
  split
  · split
    · exact h
    · exact (h.keepRoom p _).modLine p k _
  · exact h

theorem fill (p n : Nat) (fetch keep : Bool) : (s.fill p n fetch keep).2.RamWf := by
  have hroom (c : Bool) : (if c = true then s.keepRoom p n else s).RamWf := by
    split
    · exact h.keepRoom p n
    · exact h
  unfold Block.fill
  split
  · exact h
  · dsimp only
    split
    · exact hroom _
    · rename_i k _
      have hdrop := ((hroom (keep && decide (s.fld (.msc p) 0x040 8 4 ≠ 0))).writeBack p k).dropLine p k
      split
      · exact (hdrop.hbmRead p _ _).modMsc p _
      · exact hdrop.modMsc p _

theorem lineWrite (p k x : Nat) (bs : List Nat) (po : Bool) (mk : List (Nat × Nat)) : (s.lineWrite p k x bs po mk).RamWf :=
  ⟨Ram.wf_blank _ _ (Ram.wf_writeMarked _ _ _ _ h.wf)⟩

theorem mscPut (p x : Nat) (bs : List Nat) : (s.mscPut p x bs).RamWf := by
  unfold Block.mscPut
  split
  · exact ((h.modMsc p _).lineWrite p _ x bs false []).touch p _
  · have hfill := (h.modMsc p fun m => { m with misses := m.misses + 1 }).fill p (x / 128) (decide (bs.length < 128)) false
    dsimp only
    split <;> rename_i he <;> rw [he] at hfill
    · exact hfill.lineWrite p _ x bs false []
    · have hmerge := (hfill.modMsc p fun m => { m with bypass := m.bypass + 1 }).mergeReads p x bs.length
      exact hbmWrite ⟨Ram.wf_write _ bs false hmerge.wf⟩ p x _

theorem useCheck (d x : Nat) (c : Bool) : (s.useCheck d x c).RamWf := by
  unfold Block.useCheck
  dsimp only
  split
  · exact (h.log _ _).modCapc d _
  · exact h.modCapc d _

theorem capLineRead (d x : Nat) : (s.capLineRead d x).RamWf := by
  have hcheck := (h.useCheck d x false).modCapc d fun c => { c with rdLines := c.rdLines + 1 }
  unfold Block.capLineRead
  dsimp only
  split
  · exact (hcheck.log _ _).capErr d _ _ _
  · exact hcheck

theorem capLineWrite (d x : Nat) (bs : List Nat) (po : Bool) (mk : List (Nat × Nat)) : (s.capLineWrite d x bs po mk).RamWf := by
  have hwrite := ((h.useCheck d x true).modCapc d fun c => { c with wrLines := c.wrLines + 1 }).writeMarked (2 ^ 40 + d * 2 ^ 36 + x) bs po mk
  unfold Block.capLineWrite
  dsimp only
  split
  · exact hwrite.log _ _
  · exact hwrite

theorem capPut (d x : Nat) (bs : List Nat) : (s.capPut d x bs).RamWf := by
  unfold Block.capPut
  split
  · exact ((h.log _ _).capLineRead d x).capLineWrite d x bs false []
  · exact h.capLineWrite d x bs false []

theorem tierWrite (a : Nat) (bs : List Nat) : (s.tierWrite a bs).RamWf := by
  refine foldl _ (fun t q ht => ?_) _ h
  dsimp only
  split
  · exact ht.mscPut _ _ _
  · exact ht.capPut _ _ _
  · exact ⟨Ram.wf_write _ _ _ ht.wf⟩
  · exact ht

/-! Trace records, causes, platform events and job faults. -/

theorem traceRec (src off : Nat) (d : List Nat) : (s.traceRec src off d).RamWf := by
  have hfresh := h.fv (s.fv + 1)
  unfold Block.traceRec Block.fresh
  dsimp only
  split_ifs
  · exact hfresh.emit _
  · exact (((hfresh.tierWrite _ _).eyep _).modIrq _ _).eyep _
  · exact (hfresh.tierWrite _ _).eyep _
  · exact (hfresh.eyep _).log _ _
  · exact h

theorem trace (src off : Nat) (d : List Nat) : (s.trace src off d).RamWf := by
  unfold Block.trace
  dsimp only
  split
  · exact (h.traceRec src off d).traceRec _ _ _
  · exact h.traceRec src off d

theorem traceCore (p i src : Nat) (d : List Nat) : (s.traceCore p i src d).RamWf := by
  unfold Block.traceCore
  split
  · exact h.trace _ _ _
  · exact h

theorem raise0 (pg : Page) (n : Nat) : (s.raise0 pg n).RamWf := by
  unfold Block.raise0
  split
  · exact h
  · exact (h.modIrq pg _).trace _ _ _

theorem event (pg : Page) (n : Nat) : (s.event pg n).RamWf := by
  unfold Block.event
  dsimp only
  split_ifs
  · exact (h.log _ _).raise0 _ _
  · exact ⟨h.wf⟩
  · exact h

theorem raise (pg : Page) (n : Nat) : (s.raise pg n).RamWf := by
  unfold Block.raise
  split
  · exact h
  · exact (h.raise0 pg n).event pg n

theorem jobFault (p cause job detail lcore : Nat) : (s.jobFault p cause job detail lcore).RamWf := by
  unfold Block.jobFault
  dsimp only
  split
  · exact h.log _ _
  · exact ((h.log _ _).modPart p _).raise _ _

theorem observePoison (pg : Page) : (s.observePoison pg).RamWf := by
  have hseen := (h.log (.part pg.partOf) 12).modPart pg.partOf fun q => { q with poisonFrame := true }
  unfold Block.observePoison
  dsimp only
  split
  · exact hseen
  · refine raise ?_ _ _
    split
    · exact ⟨hseen.wf⟩
    · refine modPart ?_ _ _
      exact ⟨hseen.wf⟩

/-! Physical errors. -/

theorem almDue (r : AlmRec) : (s.almDue r).RamWf := by
  have hmark : (if r.marks then (s.raise .alm 0).log .alm 0 else s).RamWf := by
    split
    · exact (h.raise _ _).log _ _
    · exact h
  unfold Block.almDue
  dsimp only
  generalize (if r.marks then (s.raise .alm 0).log .alm 0 else s) = t at hmark ⊢
  split
  · exact hmark
  · exact ⟨hmark.wf⟩

theorem retireWay (p w : Nat) : (s.retireWay p w).RamWf := by
  unfold Block.retireWay
  split
  · exact h
  · dsimp only
    have hlines (l : List Nat) := foldl (fun s k => (s.writeBack p k).dropLine p k) (fun _ k ht => (ht.writeBack p k).dropLine p k) l
      (h.modMsc p fun m => { m with retired := setBit1 m.retired w })
    have hretired (l : List Nat) := (((hlines l).raise (.msc p) 0).log (.msc p) 4).almDue (.way p w)
    split
    · exact (hretired _).raise _ _
    · exact hretired _

theorem wayError (p w : Nat) : (s.wayError p w).RamWf := by
  unfold Block.wayError
  dsimp only
  split
  · exact ((h.modMsc p _).modMsc p _).retireWay p w
  · exact (h.modMsc p _).modMsc p _

theorem loseWord (p k x : Nat) : (s.loseWord p k x).RamWf := ⟨Ram.wf_blank _ _ h.wf⟩

theorem loseUnit (p k x : Nat) : (s.loseUnit p k x).RamWf := ⟨Ram.wf_mark _ h.wf⟩

theorem mscEvent (p x : Nat) (ev : MemEvent) : (s.mscEvent p x ev).RamWf := by
  unfold Block.mscEvent
  dsimp only
  split
  · exact (h.log _ _).wayError p _
  · exact (h.log _ _).wayError p _
  · split
    · exact ((h.log _ _).loseWord p _ _).raise _ _
    · exact h.log _ _
  · split
    · refine retireWay ?_ p _
      split
      · exact (((h.log _ _).dropLine p _).raise _ _).observePoison _
      · exact (h.log _ _).dropLine p _
    · exact (h.log _ _).retireWay p _
  · exact h

theorem hbmEvent (p x : Nat) (ev : MemEvent) : (s.hbmEvent p x ev).RamWf := by
  unfold Block.hbmEvent
  split
  · exact (h.log _ _).hbmErr p _ _ _
  · exact h.log _ _
  · exact ((h.log _ _).hbmErr p _ _ _).raise _ _
  · exact h

theorem capEvent (d x : Nat) (ev : MemEvent) : (s.capEvent d x ev).RamWf := by
  unfold Block.capEvent
  split
  · exact ((h.log _ _).capErr d _ _ _).raise _ _
  · exact (h.log _ _).capErr d _ _ _
  · exact ((h.log _ _).capErr d _ _ _).raise _ _
  · exact h

theorem fillEv (p x : Nat) (fetch keep : Bool) (ev : MemEvent) : (s.fillEv p x fetch keep ev).2.RamWf := by
  have hfill := h.fill p (x / 128) fetch keep
  unfold Block.fillEv
  split
  · rename_i he
    rw [he] at hfill
    split
    · dsimp only
      split
      · exact (hfill.hbmEvent p x ev).loseUnit p _ x
      · exact hfill.hbmEvent p x ev
    · exact hfill
  · exact hfill

/-! Reads and writes at the controllers. -/

theorem mscRead (p x n : Nat) (hint : Hint) (ev : MemEvent) : (s.mscRead p x n hint ev).2.2.RamWf := by
  have hev := h.mscEvent p x ev
  unfold Block.mscRead
  dsimp only
  have hshort : (if decide (hint = .lastUse ∧ n < 128) then (s.mscEvent p x ev).log (.msc p) 6 else s.mscEvent p x ev).RamWf := by
    split
    · exact hev.log _ _
    · exact hev
  generalize (if decide (hint = .lastUse ∧ n < 128) then (s.mscEvent p x ev).log (.msc p) 6 else s.mscEvent p x ev) = t at hshort ⊢
  generalize (if decide (hint = .lastUse ∧ n < 128) = true then Hint.stream else hint) = hint
  split
  · have hhit := hshort.modMsc p fun m => { m with hits := m.hits + 1 }
    split
    · exact hhit.touch p _
    · exact (hhit.markKeep p _).touch p _
    · exact hhit
    · refine dropLine (?_ : Block.RamWf (ite _ _ _)) p _
      split_ifs
      · exact hhit.modMsc p _
      · exact hhit
  · have hmiss := hshort.modMsc p fun m => { m with misses := m.misses + 1 }
    split
    · exact ((hmiss.modMsc p _).hbmRead p x n).hbmEvent p x ev
    · exact hmiss.fillEv p x true _ ev

theorem mscWrite (p x : Nat) (bs : List Nat) (po : Bool) (hint : Hint) (ev : MemEvent) (mk : List (Nat × Nat)) :
    (s.mscWrite p x bs po hint ev mk).RamWf := by
  have hlast : (if hint = .lastUse then (s.mscEvent p x ev).log (.msc p) 7 else s.mscEvent p x ev).RamWf := by
    split
    · exact (h.mscEvent p x ev).log _ _
    · exact h.mscEvent p x ev
  unfold Block.mscWrite
  dsimp only
  generalize (if hint = Hint.lastUse then (s.mscEvent p x ev).log (.msc p) 7 else s.mscEvent p x ev) = t at hlast ⊢
  split
  · have hline (k : Nat) := (hlast.modMsc p fun m => { m with hits := m.hits + 1 }).lineWrite p k x bs po mk
    split
    · exact (hline _).touch p _
    · exact ((hline _).markKeep p _).touch p _
    · exact hline _
  · have hmiss := hlast.modMsc p fun m => { m with misses := m.misses + 1 }
    split
    · have hmerge := (hmiss.modMsc p fun m => { m with bypass := m.bypass + 1 }).mergeReads p x bs.length
      refine hbmWrite (writeMarked ?_ _ _ _ _) p x _
      split
      · split
        · exact (hmerge.hbmEvent p _ ev).mark _
        · exact hmerge.hbmEvent p _ ev
      · exact hmerge
    · have hfill := hmiss.fillEv p x (decide (bs.length < 128)) (decide (hint = .keep)) ev
      split <;> rename_i he <;> rw [he] at hfill
      · exact hfill.lineWrite p _ x bs po mk
      · exact hfill

theorem capRead (d x n : Nat) (ev : MemEvent) : (s.capRead d x n ev).2.2.RamWf := (h.capLineRead d x).capEvent d x ev

theorem capWrite (d x : Nat) (bs : List Nat) (po : Bool) (ev : MemEvent) (mk : List (Nat × Nat)) :
    (s.capWrite d x bs po ev mk).RamWf := by
  refine capLineWrite ?_ d x bs po mk
  split
  · have hread := ((h.log (.capc d) 4).capLineRead d x).capEvent d x ev
    dsimp only
    split
    · exact hread.mark _
    · exact hread
  · exact h

/-! The chapter's commands. -/

theorem mscAccess (p x n : Nat) (w : Bool) (hint : Hint) (data : List Nat) (po : Bool) (ev : MemEvent) :
    (s.mscAccess p x n w hint data po ev).RamWf := by
  unfold Block.mscAccess
  split_ifs
  · exact h.emit _
  · exact foldl_keeps (fun acc : Block × MemEvent => acc.1.RamWf) _ (fun acc q hacc => hacc.mscWrite p _ _ _ _ _ []) _ h
  · dsimp only
    have hread := foldl_keeps (fun acc : List Nat × Bool × Block × MemEvent => acc.2.2.1.RamWf)
      (fun (acc : List Nat × Bool × Block × MemEvent) q =>
        let y := acc.2.2.1.mscRead p q.1 q.2 hint acc.2.2.2
        (acc.1 ++ y.1, acc.2.1 || y.2.1, y.2.2, MemEvent.none))
      (fun acc q hacc => hacc.mscRead p _ _ _ _) (piecesOf x n) (s := ([], false, s, ev)) h
    split
    · exact (hread.emit _).observePoison _
    · exact hread.emit _

theorem capAccess (d x n : Nat) (w : Bool) (data : List Nat) (po : Bool) (ev : MemEvent) :
    (s.capAccess d x n w data po ev).RamWf := by
  have hread := h.capRead d x (Nat.min n (128 - x % 128)) ev
  unfold Block.capAccess
  dsimp only
  split_ifs
  · exact h.emit _
  · exact h.capWrite d x _ po ev []
  · exact (hread.emit _).observePoison _
  · exact hread.emit _

theorem keepRelease (p : Nat) : (s.keepRelease p).RamWf := h.modMsc p _

theorem mscFlush (p : Nat) : (s.mscFlush p).RamWf := by
  unfold Block.mscFlush
  split
  · exact h
  · exact foldl _ (fun _ k ht => ht.writeBack p k) _ ⟨h.wf⟩

theorem flushDone (p : Nat) : (s.flushDone p).RamWf := by
  unfold Block.flushDone
  split
  · exact (h.modMsc p _).raise _ _
  · exact h

theorem hbmScrubAt (p x : Nat) (ev : MemEvent) : (s.hbmScrubAt p x ev).RamWf := by
  unfold Block.hbmScrubAt
  dsimp only
  split
  · exact (h.log _ _).hbmErr p _ _ _
  · exact h.log _ _
  · have hcount := ((h.log (.hbmc p) 7).log (.hbmc p) 3).hbmErr p 3 0xFF (x / 64 * 64)
    refine raise ?_ _ _
    split
    · exact hcount.modLine p _ _
    · exact hcount.mark _
  · exact h

theorem capScrubAt (d x : Nat) (ev : MemEvent) : (s.capScrubAt d x ev).RamWf := by
  unfold Block.capScrubAt
  dsimp only
  split
  · exact (h.log _ _).capErr d _ _ _
  · exact ((((h.log _ _).log _ _).capErr d _ _ _).mark _).raise _ _
  · exact h

theorem scrubPass (cap : Bool) (n : Nat) (evs : List (Nat × MemEvent)) : (s.scrubPass cap n evs).RamWf := by
  unfold Block.scrubPass Block.capScrub Block.hbmScrub
  split_ifs
  · exact h
  · exact ((foldl _ (fun _ e ht => ht.capScrubAt n e.1 e.2) evs h).log _ _).raise _ _
  · exact h
  · exact ((foldl _ (fun _ e ht => ht.hbmScrubAt n e.1 e.2) evs h).log _ _).raise _ _
  · exact h

/-! The store instruction. -/

theorem coreFault (p i sl : Nat) (c : CoreFault) (detail : Nat) : (s.coreFault p i sl c detail).RamWf := by
  have hcount (o : Option Nat) : (match o with | some n => s.log (.core p i) n | none => s).RamWf := by
    cases o with
    | some n => exact h.log _ _
    | none => exact h
  unfold Block.coreFault
  dsimp only
  have hstop (t : Block) (ht : t.RamWf) (k : Core → Core) : ((if t.causeSet (.core p i) sl then t else t.modCore p i k).modSlot p i sl
      fun t => { t with stop := .fault, wait := .none }).RamWf := by
    split
    · exact ht.modSlot _ _ _ _
    · exact (ht.modCore _ _ _).modSlot _ _ _ _
  refine jobFault ?_ _ _ _ _ _
  split
  · exact (((hstop _ (hcount _) _).raise _ _).raise _ _).log _ _
  · exact (hstop _ (hcount _) _).raise _ _

theorem stall (p i sl w : Nat) (x : Wait) (interlock : Bool) : (s.stall p i sl w x interlock).RamWf := by
  have hcount (c : Bool) : (if c = true then s.log (.core p i) 7 else s).RamWf := by
    split
    · exact h.log _ _
    · exact h
  unfold Block.stall Block.syncTrace
  dsimp only
  split
  · exact ((hcount _).traceCore _ _ _ _).modSlot _ _ _ _
  · exact (hcount _).modSlot _ _ _ _

theorem store (p i sl w : Nat) : (s.store p i sl w).RamWf := by
  unfold Block.store
  dsimp only
  generalize (if bits w 42 3 = 4 then 128 else 2 ^ bits w 42 3) = n
  split
  · exact h.coreFault p i sl _ _
  · split
    · exact h.stall p i sl w _ _
    · exact modSlot ⟨Block.poke_wf _ _ _ h.wf⟩ p i sl _

/-- An instruction that comes to issue keeps the form where its effect keeps it. -/
theorem issue (p i sl w c o : Nat) {body : Block → Block} (hbody : ∀ t : Block, t.RamWf → (body t).RamWf) :
    (s.issue p i sl w c o body).RamWf := by
  have hleave : (s.leaveBoundary p).RamWf := by
    unfold Block.leaveBoundary
    split
    · exact h.modPart p _
    · exact h
  unfold Block.issue
  split
  · exact h
  · split
    · split
      · exact hleave.coreFault p i sl _ _
      · exact h
    · split
      · split
        · exact h.modSlot p i sl _
        · refine hbody _ ?_
          split
          · exact hleave.traceCore _ _ _ _
          · exact hleave
      · exact h

/-! The gates before a command. -/

theorem live {f : Block → Block} (hf : (f s).RamWf) : (s.live f).RamWf := by
  unfold Block.live
  split
  · exact hf
  · exact h

theorem guardW {req : Requester} {f : Block → Block} (hf : (f s).RamWf) : (s.guardW req f).RamWf := by
  unfold Block.guardW
  split
  · exact h.emit _
  · exact hf

end Block.RamWf

/-- Settles O19, one command after the other. -/
theorem memoryCommandsKeepCanonicalForm : Obligations.MemoryCommandsKeepCanonicalForm := by
  unfold Obligations.MemoryCommandsKeepCanonicalForm
  intro s c hwf hc
  have h : s.blk.RamWf := ⟨hwf⟩
  obtain ⟨p, loc, len, w, hint, data, po, ev, rfl⟩ | ⟨d, addr, len, w, data, po, ev, rfl⟩ | ⟨p, req, rfl⟩ | ⟨p, req, rfl⟩ | ⟨p, rfl⟩ |
    ⟨cap, n, evs, rfl⟩ | ⟨p, i, sl, w, rfl⟩ := hc
  · exact ⟨_, rfl, (h.live (h.mscAccess p _ _ w _ _ po ev)).wf⟩
  · exact ⟨_, rfl, (h.live (h.capAccess d _ _ w _ po ev)).wf⟩
  · exact ⟨_, rfl, (h.live (h.guardW (h.keepRelease p))).wf⟩
  · exact ⟨_, rfl, (h.live (h.guardW (h.mscFlush p))).wf⟩
  · exact ⟨_, rfl, (h.live (h.flushDone p)).wf⟩
  · exact ⟨_, rfl, (h.live (h.scrubPass cap n _)).wf⟩
  · exact ⟨_, rfl, (h.live (h.issue p i sl w.toNat 0x0 0x06 fun _ ht => ht.store p i sl w.toNat)).wf⟩

end Sys2Proof.Machine
end

section
/-! Caches whose clean lines agree with their stacks, and that have lost no word (R152, R155): an access that meets no physical error then
reads and writes memory as if there were no cache, and leaves them so. -/

namespace Sys2Proof.Machine

/-- What a map lists is among its entries. -/
theorem mem_of_smGet {α : Type} {d : α} {m : SMap α} {k : Nat} (h : smGet d m k ≠ d) : (k, smGet d m k) ∈ m := by
  induction m with
  | nil => exact absurd rfl h
  | cons e t ih =>
    obtain ⟨k', v⟩ := e
    simp only [smGet] at h ⊢
    split at h
    · rename_i hk
      rw [if_pos hk, hk]
      exact List.mem_cons_self
    · rename_i hk
      rw [if_neg hk]
      exact List.mem_cons_of_mem _ (ih h)

/-! Lines. -/

/-- A clean line holds what its stack holds, and no word of it is lost. -/
def MLine.Agrees (l : MLine) : Prop := (l.dirty = false → l.stale = []) ∧ l.bad = 0

/-- Every line of a cache agrees. -/
structure LinesAgree (ls : SMap (Option MLine)) : Prop where
  wf : smWf none ls = true
  line : ∀ k l, smGet none ls k = some l → l.Agrees

theorem LinesAgree.of_mem {ls : SMap (Option MLine)} (hwf : smWf none ls = true) (h : ∀ e ∈ ls, ∀ l, e.2 = some l → l.Agrees) :
    LinesAgree ls :=
  ⟨hwf, fun k l hl => h _ (mem_of_smGet (d := none) (k := k) (by rw [hl]; exact Option.some_ne_none l)) l hl⟩

/-- One line replaced by one that agrees, or invalidated. -/
theorem LinesAgree.put {ls : SMap (Option MLine)} (h : LinesAgree ls) (k : Nat) {o : Option MLine} (ho : ∀ l, o = some l → l.Agrees) :
    LinesAgree (smPut none ls k o) := by
  refine ⟨smWf_put none k o h.wf, fun j l hl => ?_⟩
  by_cases hj : j = k
  · rw [hj, smGet_put_self none k o ((smWf_iff none _).1 h.wf).1] at hl
    exact ho l hl
  · rw [smGet_put_ne none o hj] at hl
    exact h.line j l hl

/-- One line changed. -/
theorem LinesAgree.map {ls : SMap (Option MLine)} (h : LinesAgree ls) (k : Nat) {f : MLine → MLine}
    (hf : ∀ l, smGet none ls k = some l → (f l).Agrees) : LinesAgree (smMod none ls k fun o => o.map f) := by
  refine h.put k fun l hl => ?_
  obtain ⟨l', hl', rfl⟩ := Option.map_eq_some_iff.1 hl
  exact hf l' hl'

/-! The way a fill takes. -/

/-- No line was used least recently only where no key holds a line that satisfies the condition. -/
theorem Msc.lru_eq_none (m : Msc) (ok : MLine → Bool) {ks : List Nat} (h : m.lru ok ks = none) :
    ∀ k ∈ ks, ∀ l, m.at? k = some l → ok l = false := by
  induction ks with
  | nil => exact fun k hk => absurd hk List.not_mem_nil
  | cons j t ih =>
    unfold Msc.lru at h
    split at h
    · split at h
      · split at h
        · split at h <;> exact absurd h (Option.some_ne_none _)
        · exact absurd h (Option.some_ne_none _)
      · exact absurd h (Option.some_ne_none _)
    · rename_i l hj hr
      split at h
      · exact absurd h (Option.some_ne_none _)
      · rename_i hok
        refine List.forall_mem_cons.2 ⟨fun l' hl' => ?_, ih hr⟩
        rw [Option.some.inj (hl'.symm.trans hj)]
        exact Bool.eq_false_iff.2 hok
    · rename_i hj
      exact List.forall_mem_cons.2 ⟨fun l hl => absurd (hl.symm.trans hj) (Option.some_ne_none _), ih h⟩

/-- A fill finds a way unless every way of the set is retired. -/
theorem Msc.victim_eq_none_iff (m : Msc) (n : Nat) : m.victim n = none ↔ (setKeys n).filter (fun k => !bit m.retired (k % 16)) = [] := by
  unfold Msc.victim
  dsimp only
  generalize (setKeys n).filter (fun k => !bit m.retired (k % 16)) = ks
  constructor
  · intro h
    split at h
    · exact absurd h (Option.some_ne_none _)
    · rename_i hfree
      split at h
      · exact absurd h (Option.some_ne_none _)
      · refine List.eq_nil_iff_forall_not_mem.2 fun k hk => ?_
        obtain ⟨l, hl⟩ := Option.ne_none_iff_exists'.1 (by simpa using List.find?_eq_none.1 hfree k hk)
        exact Bool.noConfusion (m.lru_eq_none (fun _ => true) h k hk l hl)
  · rintro rfl
    rfl


/-! The block. -/

/-- Memory is `r`, and the caches agree with their stacks. -/
structure Block.HoldsMem (r : Ram) (s : Block) : Prop where
  ram : s.ram = r
  mscs : smWf {} s.mscs = true
  lines : ∀ p < 12, LinesAgree (s.msc p).lines

theorem Block.CachesAgree.holds {s : Block} (h : s.CachesAgree) : s.HoldsMem s.ram := by
  obtain ⟨hmscs, hlines⟩ := h
  refine ⟨rfl, hmscs, fun p hp => ?_⟩
  obtain ⟨hwf, hmem⟩ := hlines ⟨p, hp⟩
  exact .of_mem hwf hmem

theorem Block.logN_tiers (s : Block) (pg : Page) (n k : Nat) : (s.logN pg n k).ram = s.ram ∧ (s.logN pg n k).mscs = s.mscs := by
  unfold Block.logN
  dsimp only
  split_ifs <;> simp

theorem MLine.markBad_none {l : MLine} (hl : l.bad = 0) (p : Nat) (r : Ram) : l.markBad p r = r := by simp [MLine.markBad, hl, bits]

/-- The line at a key, if any, is clean. -/
def Block.cleanAt (s : Block) (p k : Nat) : Prop := ∀ l, (s.msc p).at? k = some l → l.dirty = false

namespace Block.HoldsMem

/-- A fold whose every step keeps it keeps it. -/
theorem foldl {β : Type} {r : Ram} (f : Block → β → Block) (hf : ∀ t b, t.HoldsMem r → (f t b).HoldsMem r) (l : List β) {s : Block}
    (h : s.HoldsMem r) : (l.foldl f s).HoldsMem r := foldl_keeps (Block.HoldsMem r) f hf l h

variable {s : Block} {r : Ram} (h : s.HoldsMem r)
include h

/-- A change of other fields. -/
theorem other {t : Block} (hr : t.ram = s.ram) (hm : t.mscs = s.mscs) : t.HoldsMem r :=
  ⟨hr.trans h.ram, by rw [hm]; exact h.mscs, fun p hp => by rw [Block.msc, hm]; exact h.lines p hp⟩

/-- Another memory. -/
theorem store (r' : Ram) : ({ s with ram := r' } : Block).HoldsMem r' := ⟨rfl, h.mscs, h.lines⟩

theorem writeMarked (a : Nat) (bs : List Nat) (po : Bool) :
    ({ s with ram := s.ram.writeMarked a bs po [] } : Block).HoldsMem (r.write a bs po) := by
  rw [h.ram]
  exact h.store _

theorem msc_modMsc (p : Nat) (f : Msc → Msc) : (s.modMsc p f).msc p = f (s.msc p) := smGet_mod_self ({} : Msc) p f h.mscs

/-- A change of one cache after which its lines agree. -/
theorem modMsc (p : Nat) {f : Msc → Msc} (hf : p < 12 → LinesAgree (f (s.msc p)).lines) : (s.modMsc p f).HoldsMem r := by
  refine ⟨h.ram, smWf_mod ({} : Msc) p f h.mscs, fun q hq => ?_⟩
  by_cases hqp : q = p
  · subst hqp
    rw [h.msc_modMsc]
    exact hf hq
  · rw [show (s.modMsc p f).msc q = s.msc q from smGet_mod_ne ({} : Msc) f hqp]
    exact h.lines q hq

/-- A change of one cache beside its lines. -/
theorem modCount (p : Nat) {f : Msc → Msc} (hf : (f (s.msc p)).lines = (s.msc p).lines) : (s.modMsc p f).HoldsMem r :=
  h.modMsc p fun hp => by rw [hf]; exact h.lines p hp

theorem modHbmc (p : Nat) (f : Hbmc → Hbmc) : (s.modHbmc p f).HoldsMem r := h.other rfl rfl
theorem modCapc (d : Nat) (f : Capc → Capc) : (s.modCapc d f).HoldsMem r := h.other rfl rfl
theorem hbmErr (p k y x : Nat) : (s.hbmErr p k y x).HoldsMem r := h.other rfl rfl
theorem capErr (d k y x : Nat) : (s.capErr d k y x).HoldsMem r := h.other rfl rfl
theorem log (pg : Page) (n : Nat) : (s.log pg n).HoldsMem r := h.other (by simp) (by simp)

theorem logN (pg : Page) (n k : Nat) : (s.logN pg n k).HoldsMem r := h.other (s.logN_tiers pg n k).1 (s.logN_tiers pg n k).2

theorem badWords_eq {p : Nat} (hp : p < 12) (x : Nat) : s.badWords p x = 0 := by
  unfold Block.badWords
  split
  · rename_i k _
    split
    · rename_i l hl
      exact ((h.lines p hp).line k l hl).2
    · rfl
  · rfl

/-- Nothing is lost. -/
theorem lineBad_eq {p : Nat} (hp : p < 12) (x n : Nat) : s.lineBad p x n = false := by simp [Block.lineBad, h.badWords_eq hp]

/-! Lines and their ends. -/

theorem modLine (p k : Nat) {f : MLine → MLine} (hf : p < 12 → ∀ l, (s.msc p).at? k = some l → (f l).Agrees) :
    (s.modLine p k f).HoldsMem r := h.modMsc p fun hp => (h.lines p hp).map k (hf hp)

/-- A change of a line that leaves its data. -/
theorem modMark (p k : Nat) {f : MLine → MLine} (hf : ∀ l, (f l).dirty = l.dirty ∧ (f l).stale = l.stale ∧ (f l).bad = l.bad) :
    (s.modLine p k f).HoldsMem r := by
  refine h.modLine p k fun hp l hl => ?_
  obtain ⟨hd, hs, hb⟩ := hf l
  obtain ⟨hstale, hbad⟩ := (h.lines p hp).line k l hl
  exact ⟨fun hc => hs.trans (hstale (hd.symm.trans hc)), hb.trans hbad⟩

theorem touch (p k : Nat) : (s.touch p k).HoldsMem r :=
  h.modMsc p fun hp => (h.lines p hp).map k fun l hl => (h.lines p hp).line k l hl

theorem hbmRead (p x n : Nat) : (s.hbmRead p x n).HoldsMem r := by
  refine foldl _ (fun t u ht => ?_) _ (h.modHbmc p _)
  split
  · exact (ht.log _ _).hbmErr p _ _ _
  · exact ht

theorem hbmWrite (p x n : Nat) : (s.hbmWrite p x n).HoldsMem r := (h.modHbmc p _).logN _ _ _

theorem mergeReads (p x n : Nat) : (s.mergeReads p x n).HoldsMem r := (foldl _ (fun _ u ht => ht.hbmRead p u 64) _ h).logN _ _ _

/-- A line written back: memory already holds its data. -/
theorem writeBack {p : Nat} (hp : p < 12) (k : Nat) : (s.writeBack p k).HoldsMem r := by
  unfold Block.writeBack
  split
  · rename_i l hl
    split
    · rw [MLine.markBad_none ((h.lines p hp).line k l hl).2]
      have hcount : (s.modMsc p fun m => { m with writebacks := m.writebacks + 1 }).HoldsMem r := h.modCount p rfl
      exact (hcount.modLine p k fun _ _ _ => ⟨fun _ => rfl, rfl⟩).hbmWrite p _ 128
    · exact h
  · exact h

theorem at_modLine {p : Nat} (hp : p < 12) (k : Nat) (f : MLine → MLine) : ((s.modLine p k f).msc p).at? k = ((s.msc p).at? k).map f := by
  rw [Block.modLine, h.msc_modMsc]
  exact smGet_mod_self none k _ (h.lines p hp).wf

/-- A line written back is clean. -/
theorem writeBack_clean {p : Nat} (hp : p < 12) (k : Nat) : (s.writeBack p k).cleanAt p k := by
  intro l' hl'
  unfold Block.writeBack at hl'
  split at hl'
  · rename_i l hl
    split at hl'
    · dsimp only at hl'
      rw [MLine.markBad_none ((h.lines p hp).line k l hl).2, Block.msc, Block.hbmWrite, (Block.logN_tiers ..).2] at hl'
      have hcount : (s.modMsc p fun m => { m with writebacks := m.writebacks + 1 }).HoldsMem r := h.modCount p rfl
      obtain ⟨_, -, rfl⟩ := Option.map_eq_some_iff.1 ((hcount.at_modLine hp k _).symm.trans hl')
      rfl
    · rename_i hd
      rw [Option.some.inj (hl'.symm.trans hl)]
      exact Bool.eq_false_iff.2 hd
  · rename_i hl
    exact absurd (hl.symm.trans hl') nofun

/-- A clean line ends without a trace in memory. -/
theorem dropLine {p : Nat} (hp : p < 12) {k : Nat} (hc : s.cleanAt p k) : (s.dropLine p k).HoldsMem r := by
  unfold Block.dropLine
  split
  · rename_i l hl
    have hstale := ((h.lines p hp).line k l hl).1 (hc l hl)
    simp only [hstale, List.isEmpty_nil, if_true]
    exact h.modMsc p fun hp => (h.lines p hp).put k fun l hl => absurd hl.symm (Option.some_ne_none l)
  · exact h

/-- A line is written back and ends. -/
theorem evict {p : Nat} (hp : p < 12) (k : Nat) : ((s.writeBack p k).dropLine p k).HoldsMem r :=
  (h.writeBack hp k).dropLine hp (h.writeBack_clean hp k)

theorem keepRoom (p n : Nat) : (s.keepRoom p n).HoldsMem r := by
  unfold Block.keepRoom
  dsimp only
  split
  · split
    · exact (h.modMark p _ (f := fun x => { x with keep := false }) fun _ => ⟨rfl, rfl, rfl⟩).log _ _
    · exact h
  · exact h

theorem markKeep (p k : Nat) : (s.markKeep p k).HoldsMem r := by
  unfold Block.markKeep
  split
  · split
    · exact h
    · exact (h.keepRoom p _).modMark p k (f := fun x => { x with keep := true }) fun _ => ⟨rfl, rfl, rfl⟩
  · exact h

theorem keepRoom_retired (p n : Nat) : ((s.keepRoom p n).msc p).retired = (s.msc p).retired := by
  unfold Block.keepRoom
  dsimp only
  split
  · split
    · rw [Block.log_msc, Block.modLine, h.msc_modMsc]
    · rfl
  · rfl

/-- A fill. -/
theorem fill {p : Nat} (hp : p < 12) (n : Nat) (fetch keep : Bool) : (s.fill p n fetch keep).2.HoldsMem r := by
  have hroom (c : Bool) : (if c = true then s.keepRoom p n else s).HoldsMem r := by
    split
    · exact h.keepRoom p n
    · exact h
  have hfresh {t : Block} (ht : t.HoldsMem r) (k c : Nat) (b : Bool) : (t.modMsc p fun m =>
      { m with clock := m.clock + 1, lines := smPut none m.lines k (some { line := n, keep := b, used := m.clock + 1 }) }).HoldsMem r :=
    ht.modMsc p fun hp => (ht.lines p hp).put k fun l hl => by
      obtain rfl := Option.some.inj hl
      exact ⟨fun _ => rfl, rfl⟩
  unfold Block.fill
  split
  · exact h
  · dsimp only
    split
    · exact hroom _
    · rename_i k _
      have hevict := (hroom (keep && decide (s.fld (.msc p) 0x040 8 4 ≠ 0))).evict hp k
      split
      · exact hfresh (hevict.hbmRead p _ _) k 0 _
      · exact hfresh hevict k 0 _

/-- A fill takes a way where the set has one in service. -/
theorem fill_takes (p n : Nat) (fetch keep : Bool) (hv : (s.msc p).victim n ≠ none) : ∃ k, (s.fill p n fetch keep).1 = some k := by
  unfold Block.fill
  rw [if_neg (by simpa using hv)]
  dsimp only
  split
  · rename_i hnone
    refine absurd ?_ hv
    rw [Msc.victim_eq_none_iff] at hnone ⊢
    split at hnone
    · rwa [h.keepRoom_retired] at hnone
    · exact hnone
  · exact ⟨_, rfl⟩

/-- A fill, of a line that some way can take, that meets no physical error. -/
theorem fillEv {p : Nat} (hp : p < 12) (x : Nat) (fetch keep : Bool) (hv : (s.msc p).victim (x / 128) ≠ none) :
    ∃ k t, s.fillEv p x fetch keep .none = (some k, t) ∧ t.HoldsMem r := by
  obtain ⟨k, hk⟩ := h.fill_takes p (x / 128) fetch keep hv
  have hfill := h.fill hp (x / 128) fetch keep
  have he : s.fill p (x / 128) fetch keep = (some k, (s.fill p (x / 128) fetch keep).2) := Prod.ext hk rfl
  unfold Block.fillEv
  rw [he]
  cases fetch
  · exact ⟨k, _, rfl, hfill⟩
  · exact ⟨k, _, rfl, hfill⟩

/-- Bytes written into a line. -/
theorem lineWrite {p : Nat} (hp : p < 12) (k x : Nat) (bs : List Nat) (po : Bool) :
    (s.lineWrite p k x bs po).HoldsMem (r.write (p * stackBytes + x) bs po) := by
  have hline (c : Nat) (hc : c = 0) : ({ s.modLine p k fun l => { l.keepStale p s.ram with dirty := true, bad := c } with
      ram := (s.ram.writeMarked (p * stackBytes + x) bs po []).blank (p * stackBytes + x / 128 * 128) c } : Block).HoldsMem
      (r.write (p * stackBytes + x) bs po) := by
    rw [hc, Ram.blank, if_pos rfl, h.ram]
    exact (h.modLine p k fun _ _ _ => ⟨fun hd => Bool.noConfusion hd, rfl⟩).store _
  refine hline _ ?_
  split
  · rename_i l hl
    rw [badAfter, ((h.lines p hp).line k l hl).2, Nat.zero_and]
  · rfl

/-! Accesses that meet no physical error. -/

/-- A write has the effect of a plain write at its home, whatever its hint and whatever the cache holds (Table 6.2). -/
theorem mscWrite {p : Nat} (hp : p < 12) (x : Nat) (bs : List Nat) (po : Bool) (hint : Hint) :
    (s.mscWrite p x bs po hint .none).HoldsMem (r.write (p * stackBytes + x) bs po) := by
  have hlast : (if hint = .lastUse then s.log (.msc p) 7 else s).HoldsMem r := by
    split
    · exact h.log _ _
    · exact h
  unfold Block.mscWrite
  dsimp only
  rw [show s.mscEvent p x .none = s from rfl]
  generalize (if hint = Hint.lastUse then s.log (.msc p) 7 else s) = t at hlast ⊢
  split
  · rename_i k _
    have hline := (hlast.modCount p (f := fun m => { m with hits := m.hits + 1 }) rfl).lineWrite hp k x bs po
    split
    · exact hline.touch p k
    · exact (hline.markKeep p k).touch p k
    · exact hline
  · have hmiss := hlast.modCount p (f := fun m => { m with misses := m.misses + 1 }) rfl
    split
    · have hmerge := (hmiss.modCount p (f := fun m => { m with bypass := m.bypass + 1 }) rfl).mergeReads p x bs.length
      refine hbmWrite (writeMarked ?_ _ _ _) p x _
      split
      · exact hmerge
      · exact hmerge
    · rename_i hbypass
      obtain ⟨k, u, hfill, hu⟩ := hmiss.fillEv hp x (decide (bs.length < 128)) (decide (hint = .keep)) fun hv => hbypass (.inr (.inr hv))
      rw [hfill]
      exact hu.lineWrite hp k x bs po

/-- What a read of memory as it is delivers. -/
theorem deliver {p : Nat} (hp : p < 12) (x n : Nat) :
    (s.ram.deliver (p * stackBytes + x) n false).1 = r.bytes (p * stackBytes + x) n ∧
      ((s.ram.deliver (p * stackBytes + x) n false).2 || s.lineBad p x n) = r.poisoned (p * stackBytes + x) n := by
  rw [h.lineBad_eq hp, h.ram, Bool.or_false]
  exact ⟨rfl, rfl⟩

/-- A read, but a LAST_USE read of a full line, delivers the bytes of its home and leaves memory (Table 6.2). -/
theorem mscRead {p : Nat} (hp : p < 12) (x n : Nat) (hint : Hint) (hl : hint ≠ .lastUse ∨ n < 128) :
    (s.mscRead p x n hint .none).1 = r.bytes (p * stackBytes + x) n ∧
      (s.mscRead p x n hint .none).2.1 = r.poisoned (p * stackBytes + x) n ∧ (s.mscRead p x n hint .none).2.2.HoldsMem r := by
  have hshort : (if decide (hint = .lastUse ∧ n < 128) then s.log (.msc p) 6 else s).HoldsMem r := by
    split
    · exact h.log _ _
    · exact h
  have hhint : (if decide (hint = .lastUse ∧ n < 128) then Hint.stream else hint) ≠ .lastUse := by
    split
    · nofun
    · rename_i hn
      exact fun he => hn (by simpa [he] using hl)
  unfold Block.mscRead
  dsimp only
  rw [show s.mscEvent p x .none = s from rfl]
  generalize (if decide (hint = .lastUse ∧ n < 128) then s.log (.msc p) 6 else s) = t at hshort ⊢
  generalize (if decide (hint = .lastUse ∧ n < 128) then Hint.stream else hint) = hint at hhint ⊢
  split
  · rename_i k _
    have hhit := hshort.modCount p (f := fun m => { m with hits := m.hits + 1 }) rfl
    obtain ⟨hbytes, hpois⟩ := hhit.deliver hp x n
    split
    · exact ⟨hbytes, hpois, hhit.touch p k⟩
    · exact ⟨hbytes, hpois, (hhit.markKeep p k).touch p k⟩
    · exact ⟨hbytes, hpois, hhit⟩
    · exact absurd rfl hhint
  · have hmiss := hshort.modCount p (f := fun m => { m with misses := m.misses + 1 }) rfl
    split
    · have hread := (hmiss.modCount p (f := fun m => { m with bypass := m.bypass + 1 }) rfl).hbmRead p x n
      obtain ⟨hbytes, hpois⟩ := hread.deliver hp x n
      exact ⟨hbytes, hpois, hread⟩
    · rename_i hbypass
      obtain ⟨k, u, hfill, hu⟩ := hmiss.fillEv hp x true (decide (hint = .keep)) fun hv => hbypass (.inr (.inr hv))
      obtain ⟨hbytes, hpois⟩ := hu.deliver hp x n
      rw [hfill]
      exact ⟨hbytes, hpois, hu⟩

end Block.HoldsMem

end Sys2Proof.Machine
end

section
/-! Accesses at a stack's cache and at a capacity controller that meet no physical error (R149, R153, R155, R159, R163, R168, Table 6.2). -/

namespace Sys2Proof.Machine

/-- Bytes inside one line are one piece. -/
theorem piecesOf_inLine {a n : Nat} (hn : 0 < n) (h : a % 128 + n ≤ 128) : piecesOf a n = [(a, n)] := by
  have hmin : Nat.min n (128 - a % 128) = n := min_eq_left (by omega)
  rw [piecesOf, linePieces, if_neg (by omega)]
  dsimp only
  rw [hmin, Nat.sub_self, linePieces, if_pos rfl]

variable {s : Block}

theorem hintOf_ne_lastUse {h : BitVec 2} (hh : h ≠ 3) : hintOf h.toNat ≠ .lastUse := by
  revert h
  decide

/-! MSC_ACCESS. -/

/-- A write inside one line that a stack in service admits is the write at its cache. -/
theorem Block.mscAccess_write {p x n : Nat} (hint : Hint) (data : List Nat) (po : Bool) (ev : MemEvent) (hoos : bit s.tiers.stackOos p = false)
    (hn : 0 < n) (hline : x % 128 + n ≤ 128) (hx : x + n ≤ stackBytes) :
    s.mscAccess p x n true hint data po ev = s.mscWrite p x ((data ++ List.replicate n 0).take n) po hint ev := by
  unfold Block.mscAccess
  rw [if_neg (by simp [hoos]; omega), if_pos rfl, piecesOf_inLine hn hline]
  simp [List.take_take]

/-- A read inside one line that a stack in service admits is the read at its cache, delivered; delivered poison is observed. -/
theorem Block.mscAccess_read {p x n : Nat} (hint : Hint) (data : List Nat) (po : Bool) (ev : MemEvent) (hoos : bit s.tiers.stackOos p = false)
    (hn : 0 < n) (hline : x % 128 + n ≤ 128) (hx : x + n ≤ stackBytes) (hpois : (s.mscRead p x n hint ev).2.1 = false) :
    s.mscAccess p x n false hint data po ev =
      (s.mscRead p x n hint ev).2.2.emit (.memData (p * stackBytes + x) (s.mscRead p x n hint ev).1 false) := by
  unfold Block.mscAccess
  rw [if_neg (by simp [hoos]; omega), if_neg Bool.false_ne_true, piecesOf_inLine hn hline]
  simp [hpois]

/-! CAPACITY_ACCESS. -/

theorem Block.useCheck_ram (d x : Nat) (c : Bool) : (s.useCheck d x c).ram = s.ram := by
  unfold Block.useCheck
  dsimp only
  split
  · exact Block.log_ram ..
  · rfl

theorem Block.capLineRead_ram (d x : Nat) : (s.capLineRead d x).ram = s.ram := by
  unfold Block.capLineRead
  dsimp only
  split
  · exact (Block.log_ram ..).trans (s.useCheck_ram d x false)
  · exact s.useCheck_ram d x false

theorem Block.capLineWrite_ram (d x : Nat) (bs : List Nat) (po : Bool) :
    (s.capLineWrite d x bs po).ram = s.ram.write (2 ^ 40 + d * 2 ^ 36 + x) bs po := by
  have hwrite : ((s.useCheck d x true).modCapc d fun c => { c with wrLines := c.wrLines + 1 }).ram.writeMarked (2 ^ 40 + d * 2 ^ 36 + x) bs po [] =
      s.ram.write (2 ^ 40 + d * 2 ^ 36 + x) bs po := by
    rw [← s.useCheck_ram d x true]
    rfl
  unfold Block.capLineWrite
  dsimp only
  split
  · exact (Block.log_ram ..).trans hwrite
  · exact hwrite

/-- A write that meets no physical error has the effect of a plain write at its home. -/
theorem Block.capWrite_ram (d x : Nat) (bs : List Nat) (po : Bool) :
    (s.capWrite d x bs po .none).ram = s.ram.write (2 ^ 40 + d * 2 ^ 36 + x) bs po := by
  unfold Block.capWrite
  rw [Block.capLineWrite_ram]
  split
  · exact congrArg (Ram.write · _ bs po) ((Block.capLineRead_ram d x).trans (Block.log_ram ..))
  · rfl

/-- A read that meets no physical error delivers the bytes of its home and leaves memory. -/
theorem Block.capRead_none (d x n : Nat) : (s.capRead d x n .none).1 = s.ram.bytes (2 ^ 40 + d * 2 ^ 36 + x) n ∧
    (s.capRead d x n .none).2.1 = s.ram.poisoned (2 ^ 40 + d * 2 ^ 36 + x) n ∧ (s.capRead d x n .none).2.2.ram = s.ram := by
  have hram := s.capLineRead_ram d x
  unfold Block.capRead
  refine ⟨?_, ?_, hram⟩
  · exact congrArg (Ram.bytes · _ n) hram
  · exact congrArg (Ram.poisoned · _ n) hram

theorem Block.capAccess_write {d x n : Nat} (data : List Nat) (po : Bool) (ev : MemEvent) (hin : bit s.tiers.capIn d = true)
    (hx : x % 4096 < 3968) (hline : x % 128 + n ≤ 128) :
    s.capAccess d x n true data po ev = s.capWrite d x ((data ++ List.replicate n 0).take n) po ev := by
  have hmin : Nat.min n (128 - x % 128) = n := min_eq_left (by omega)
  unfold Block.capAccess
  dsimp only
  rw [hmin, if_neg (by simp [hin]; omega), if_pos rfl]

theorem Block.capAccess_read {d x n : Nat} (data : List Nat) (po : Bool) (ev : MemEvent) (hin : bit s.tiers.capIn d = true)
    (hx : x % 4096 < 3968) (hline : x % 128 + n ≤ 128) (hpois : (s.capRead d x n ev).2.1 = false) :
    s.capAccess d x n false data po ev =
      (s.capRead d x n ev).2.2.emit (.memData (2 ^ 40 + d * 2 ^ 36 + x) (s.capRead d x n ev).1 false) := by
  have hmin : Nat.min n (128 - x % 128) = n := min_eq_left (by omega)
  unfold Block.capAccess
  dsimp only
  rw [hmin, if_neg (by simp [hin]; omega), if_neg Bool.false_ne_true, hpois, if_neg Bool.false_ne_true]

/-! The commands. -/

section
variable {t : State} (hon : t.blk.boot.power = .on)
include hon

theorem exec_mscAccess (p : Fin 12) (x : BitVec 36) (n : BitVec 12) (w : Bool) (hint : BitVec 2) (data : List Byte) (po : Bool) (ev : MemEvent) :
    exec (.mscAccess p x n w hint data po ev) t =
      .next (t.withBlk (t.blk.mscAccess p x.toNat n.toNat w (hintOf hint.toNat) (data.map BitVec.toNat) po ev)) := by
  show execMscAccess p x n w hint data po ev t = _
  rw [execMscAccess, State.onBlock_eq, Block.live_on _ hon]

theorem exec_capacityAccess (d : Fin 16) (x : BitVec 36) (n : BitVec 8) (w : Bool) (data : List Byte) (po : Bool) (ev : MemEvent) :
    exec (.capacityAccess d x n w data po ev) t =
      .next (t.withBlk (t.blk.capAccess d x.toNat n.toNat w (data.map BitVec.toNat) po ev)) := by
  show execCapacityAccess d x n w data po ev t = _
  rw [execCapacityAccess, State.onBlock_eq, Block.live_on _ hon]

end

/-- Settles O17: at a stack the cache that agrees with it hides nothing, and at a device the controller goes to memory itself. -/
theorem memoryAccessesReachTheirHome : Obligations.MemoryAccessesReachTheirHome := by
  unfold Obligations.MemoryAccessesReachTheirHome
  intro s p d x len n hint data po hon hagree bs
  have hmem := Block.CachesAgree.holds hagree
  refine ⟨fun hoos hlen hline hx => ⟨?_, fun hpois hhint => ?_⟩, fun hin hx hn hline => ⟨?_, fun hpois => ?_⟩⟩
  · refine ⟨_, exec_mscAccess hon .., ?_⟩
    rw [Block.mscAccess_write _ _ _ _ hoos hlen hline hx]
    exact (hmem.mscWrite p.isLt x.toNat _ po _).ram
  · obtain ⟨hbytes, hp, hread⟩ := hmem.mscRead p.isLt x.toNat len.toNat (hintOf hint.toNat) (hhint.imp_left hintOf_ne_lastUse)
    refine ⟨_, exec_mscAccess hon .., ?_⟩
    rw [Block.mscAccess_read _ _ _ _ hoos hlen hline hx (hp.trans hpois), hbytes]
    exact ⟨hread.ram, rfl⟩
  · refine ⟨_, exec_capacityAccess hon .., ?_⟩
    rw [Block.capAccess_write _ _ _ hin hx hline]
    exact Block.capWrite_ram ..
  · obtain ⟨hbytes, hp, hram⟩ := s.blk.capRead_none d x.toNat n.toNat
    refine ⟨_, exec_capacityAccess hon .., ?_⟩
    rw [Block.capAccess_read _ _ _ hin hx hline (hp.trans hpois), hbytes]
    exact ⟨hram, rfl⟩

end Sys2Proof.Machine
end

section
/-! MSC_FLUSH of a cache that has lost a word of a dirty line (R156, R157, R168). -/

namespace Sys2Proof.Machine

/-- MSC_FLUSH is its effect, while the package is on and the requester is no job. -/
theorem exec_mscFlush {s : State} {p : Fin 12} {req : Requester} (hon : s.blk.boot.power = .on) (hj : req ≠ .job) :
    exec (.mscFlush p req) s = .next (s.withBlk (s.blk.mscFlush p)) := by
  show execMscFlush p req s = _
  rw [execMscFlush, State.onBlock_eq, Block.live_on _ hon, Block.guardW_open _ hj]

/-- A package whose cache 0 holds a dirty line, line 0 of its stack, of which the first word is lost. -/
def dirtyLost : Block := { boot := { power := .on }, mscs := [(0, { lines := [(0, some { line := 0, dirty := true, bad := 1 })] })] }

/-- The write-back of the flush stores the unit of the lost word with its marker. -/
theorem dirtyLost_flushed : smGet false (dirtyLost.mscFlush (0 : Fin 12)).ram.poison 0 = true := by decide +kernel

/-- Refutes O21: a flush does change memory where a dirty line has lost a word. Its write-back stores the unit of that word with the poison
marker (R157, R168), where the statement keeps memory as it was. -/
theorem not_cacheAndScrubCommands : ¬ Obligations.CacheAndScrubCommands := by
  unfold Obligations.CacheAndScrubCommands
  intro h
  have hon : dirtyLost.boot.power = .on := by decide
  have hj : Requester.mgmtCtl ≠ .job := by decide
  obtain ⟨-, hflush, -⟩ := h ⟨[], dirtyLost⟩ 0 0 .mgmtCtl 0 hon hj
  obtain ⟨b, hrun, -, hram⟩ := hflush (by decide) (by decide)
  rw [exec_mscFlush hon hj] at hrun
  obtain rfl : dirtyLost.mscFlush (0 : Fin 12) = b := congrArg State.blk (Host.Outcome.next.inj hrun)
  have hmarked := dirtyLost_flushed
  rw [hram] at hmarked
  exact Bool.noConfusion hmarked

end Sys2Proof.Machine
end

section
/-! Walks of page tables in memory that the caches agree with (R172 to R174, Tables 6.8, 6.9). -/

namespace Sys2Proof.Machine

/-- The stack of an HBM address is one of the twelve. -/
theorem homeOf_stack_lt {t : Tiers} {a p x : Nat} (h : homeOf t a = some (.hbm p x)) : p < 12 := by
  have hbm_lt {c : Prop} [Decidable c] {q y : Nat} (hq : q < 12) (he : (if c then none else some (Home.hbm q y)) = some (.hbm p x)) : p < 12 := by
    split at he
    · exact absurd he nofun
    · obtain ⟨rfl, -⟩ := Home.hbm.inj (Option.some.inj he)
      exact hq
  unfold homeOf at h
  dsimp only at h
  split at h
  · split at h
    · exact hbm_lt (by omega) h
    · exact hbm_lt (by omega) h
    · exact hbm_lt (by unfold stackBytes; omega) h
  · split_ifs at h
    · exact absurd (Option.some.inj h) nofun
    · exact absurd (Option.some.inj h) nofun
    · exact absurd (Option.some.inj h) nofun

/-! Reads inside one line. -/

namespace Block.HoldsMem

variable {s : Block} {r : Ram} (hs : s.HoldsMem r)
include hs

theorem useCheck (d x : Nat) (c : Bool) : (s.useCheck d x c).HoldsMem r := by
  unfold Block.useCheck
  dsimp only
  split
  · exact (hs.log _ _).modCapc d _
  · exact hs.modCapc d _

theorem capLineRead (d x : Nat) : (s.capLineRead d x).HoldsMem r := by
  have hcheck := (hs.useCheck d x false).modCapc d fun c => { c with rdLines := c.rdLines + 1 }
  unfold Block.capLineRead
  dsimp only
  split
  · exact (hcheck.log _ _).capErr d _ _ _
  · exact hcheck

/-- A read at a home delivers what memory holds there. -/
theorem readPiece {t : Tiers} {a : Nat} {h : Home} (ha : homeOf t a = some h) (n : Nat) :
    (s.readPiece h n .normal .none).1 = r.bytes h.num n ∧ (s.readPiece h n .normal .none).2.1 = r.poisoned h.num n ∧
      (s.readPiece h n .normal .none).2.2.HoldsMem r := by
  cases h with
  | hbm p x => exact hs.mscRead (homeOf_stack_lt ha) x n .normal (.inl nofun)
  | cap d x =>
    obtain ⟨hbytes, hpois, -⟩ := s.capRead_none d x n
    rw [hs.ram] at hbytes hpois
    exact ⟨hbytes, hpois, hs.capLineRead d x⟩
  | sram x => exact ⟨congrArg (Ram.bytes · x n) hs.ram, congrArg (Ram.poisoned · x n) hs.ram, hs⟩

/-- What a read at a home would deliver is poison where memory marks it: the caches have lost nothing. -/
theorem homePoisoned_eq {t : Tiers} {a : Nat} {h : Home} (ha : homeOf t a = some h) (n : Nat) : s.homePoisoned h n = r.poisoned h.num n := by
  unfold Block.homePoisoned
  rw [hs.ram]
  cases h with
  | hbm p x => simp [hs.lineBad_eq (homeOf_stack_lt ha)]
  | _ => exact Bool.or_false _

end Block.HoldsMem

/-- Bytes inside one line that can be accessed have a home. -/
theorem Block.canAccess_home {s : Block} {a n : Nat} (hn : 0 < n) (hl : a % 128 + n ≤ 128) (hc : s.canAccess a n = true) :
    ∃ h, homeOf s.tiers a = some h := by
  rw [Block.canAccess, piecesOf_inLine hn hl] at hc
  simp only [List.all_cons, Bool.and_eq_true] at hc
  exact Option.isSome_iff_exists.1 hc.1.1

/-- A read inside one line, of memory that the caches agree with, delivers what it holds. -/
theorem Block.HoldsMem.memRead {s : Block} {r : Ram} (hs : s.HoldsMem r) {a n : Nat} (hn : 0 < n) (hl : a % 128 + n ≤ 128)
    (hc : s.canAccess a n = true) : (s.memRead a n).1 = s.memBytes a n ∧ (s.memRead a n).2.1 = s.memPoisoned a n ∧
      (s.memRead a n).2.2.HoldsMem r := by
  obtain ⟨h, ha⟩ := Block.canAccess_home hn hl hc
  obtain ⟨hbytes, hpois, hread⟩ := hs.readPiece ha n
  have hparts : s.memReadParts a n = ((s.readPiece h n .normal .none).1, [(s.readPiece h n .normal .none).2.1], (s.readPiece h n .normal .none).2.2) := by
    unfold Block.memReadParts
    simp only [piecesOf_inLine hn hl, List.foldl_cons, List.foldl_nil, ha, List.nil_append]
  unfold Block.memRead Block.memBytes Block.memPoisoned
  rw [hparts, piecesOf_inLine hn hl]
  simp only [List.flatMap_cons, List.flatMap_nil, List.any_cons, List.any_nil, ha, List.append_nil, Bool.or_false]
  rw [hs.ram, hs.homePoisoned_eq ha]
  exact ⟨hbytes, hpois, hread⟩

/-! Entries. -/

/-- The entry `e` can be read at `a`, whole and free of poison. -/
structure Block.HasEntry (s : Block) (a e : Nat) : Prop where
  access : s.canAccess a 8 = true
  value : leNat (s.memBytes a 8) = e
  clean : s.memPoisoned a 8 = false
  aligned : a % 8 = 0

/-- Blocks with one memory and one map of it hold the same entries, where the caches of both agree. -/
theorem Block.HasEntry.of_memory {s t : Block} {r : Ram} {a e : Nat} (h : s.HasEntry a e) (hs : s.HoldsMem r) (ht : t.HoldsMem r)
    (htiers : t.tiers = s.tiers) : t.HasEntry a e := by
  obtain ⟨hacc, hval, hclean, hal⟩ := h
  have hbytes : t.memBytes a 8 = s.memBytes a 8 := by
    unfold Block.memBytes
    rw [htiers, ht.ram, hs.ram]
  have hpois : t.memPoisoned a 8 = s.memPoisoned a 8 := by
    unfold Block.memPoisoned
    refine congrArg _ (funext fun q => ?_)
    rw [htiers]
    split
    · rename_i h hh
      rw [ht.homePoisoned_eq hh, hs.homePoisoned_eq hh]
    · rfl
  exact ⟨by rw [Block.canAccess, htiers]; exact hacc, by rw [hbytes, hval], by rw [hpois, hclean], hal⟩

/-- A walk of partition `p` has come from `b` to `s` by reading `n` entries: memory, its map and the agreement of the caches are kept. -/
structure Block.Walked (b : Block) (p n : Nat) (s : Block) : Prop where
  mem : s.HoldsMem b.ram
  tiers : s.tiers = b.tiers
  mmus : smWf {} s.mmus = true
  reads : (s.mmu p).walkReads = (b.mmu p).walkReads + n

/-- One more entry read by a walk. -/
def Mmu.countRead (m : Mmu) : Mmu := { m with walkReads := m.walkReads + 1 }

/-- The block after a walk of partition `p` has read an entry. -/
def Block.entryRead (s : Block) (p a : Nat) : Block := (s.memRead a 8).2.2.modMmu p Mmu.countRead

theorem Block.Walked.read {b s : Block} {p n a e : Nat} (h : b.Walked p n s) (he : s.HasEntry a e) : b.Walked p (n + 1) (s.entryRead p a) := by
  obtain ⟨hmem, htiers, hmmus, hreads⟩ := h
  obtain ⟨-, -, hread⟩ := hmem.memRead (by omega) (by have := he.aligned; omega) he.access
  have htiers' := congrArg Block.tiers (s.memRead_tierRest a 8)
  have hmmus' := congrArg Block.mmus (s.memRead_tierRest a 8)
  have hwf : smWf {} (s.memRead a 8).2.2.mmus = true := (congrArg (smWf {}) hmmus').trans hmmus
  have hself : (s.entryRead p a).mmu p = ((s.memRead a 8).2.2.mmu p).countRead := smGet_mod_self ({} : Mmu) p _ hwf
  have hmmu : (s.memRead a 8).2.2.mmu p = s.mmu p := congrArg (fun m => smGet ({} : Mmu) m p) hmmus'
  refine ⟨hread.other rfl rfl, htiers'.trans htiers, smWf_mod ({} : Mmu) p Mmu.countRead hwf, ?_⟩
  rw [hself, hmmu]
  exact congrArg (· + 1) hreads

/-! Levels. -/

section
variable {b s : Block} {p n e : Nat} (h : b.Walked p n s) (va : Nat) (w x : Bool) (f lvl table prev : Nat)
  (he : s.HasEntry (table + bits va (levelBits lvl).1 (levelBits lvl).2 * 8) e)
include h he

/-- The read of an entry. -/
theorem Block.Walked.memRead_entry : (s.memRead (table + bits va (levelBits lvl).1 (levelBits lvl).2 * 8) 8).2.1 = false ∧
    leNat (s.memRead (table + bits va (levelBits lvl).1 (levelBits lvl).2 * 8) 8).1 = e := by
  obtain ⟨hbytes, hpois, -⟩ := h.mem.memRead (by omega) (by have := he.aligned; omega) he.access
  exact ⟨hpois.trans he.clean, (congrArg leNat hbytes).trans he.value⟩

/-- An entry of type 0 leads to the next table. -/
theorem Block.Walked.walk_table (hv : bit e 0 = true) (hm : malformed lvl e = false) (ht : bits e 1 2 = 0) : s.walkFrom p va w x (f + 1) lvl table prev .none =
    (s.entryRead p (table + bits va (levelBits lvl).1 (levelBits lvl).2 * 8)).walkFrom p va w x f (lvl + 1) (bits e 8 40 * 256) e .none := by
  obtain ⟨hpois, hval⟩ := h.memRead_entry va lvl table he
  conv_lhs => unfold Block.walkFrom
  dsimp only
  rw [he.access, hpois, hval, hv, hm, ht]
  rfl

/-- An entry of type 1 is the leaf, or names the fault. -/
theorem Block.Walked.walk_leaf (hv : bit e 0 = true) (hm : malformed lvl e = false) (ht : bits e 1 2 = 1) :
    s.walkFrom p va w x (f + 1) lvl table prev .none =
    (if w && !bit e 3 then .fault 2 e else if x && !bit e 4 then .fault 3 e
      else .package (bits e 48 16) (bits e 12 36 * 4096) (2 ^ (levelBits lvl).1) (bit e 3) (bit e 4),
      s.entryRead p (table + bits va (levelBits lvl).1 (levelBits lvl).2 * 8)) := by
  obtain ⟨hpois, hval⟩ := h.memRead_entry va lvl table he
  unfold Block.walkFrom
  dsimp only
  rw [he.access, hpois, hval, hv, hm, ht]
  simp only [Bool.not_true, Bool.false_eq_true, if_false]
  split
  · rfl
  · split <;> rfl

end

/-- A walk from a valid root. -/
theorem Block.walk_root {b : Block} {p slot lo : Nat} (va : Nat) (w x : Bool) (ev : MemEvent) (hlo : lo = if slot = 0 then 0x040 else 0x048)
    (hv : bit (b.reg (.mmu p) lo) 0 = true) :
    b.walk p slot va w x ev = b.walkFrom p va w x 5 0 (b.pair (.mmu p) lo (lo + 4) 12) 0 ev := by
  unfold Block.walk
  dsimp only
  rw [← hlo]
  exact if_neg (by rw [hv]; decide)

/-- Settles O22: two entries lead to the table of the next level, the third is the leaf. -/
theorem tableWalkFindsTheLeaf : Obligations.TableWalkFindsTheLeaf := by
  unfold Obligations.TableWalkFindsTheLeaf
  intro b p slot va w x e0 e1 e2 lo t0 t1 t2 holds hroot h0 h1 h2 hv0 hty0 hm0 hv1 hty1 hm1 hv2 hty2 hm2 hmmus hagree r
  have hentry {a : Nat} {e : BitVec 64} (h : holds a e) : b.HasEntry a e.toNat := by
    obtain ⟨hacc, hval, hclean, hal⟩ := h
    exact ⟨hacc, hval, hclean, hal⟩
  have hmem := Block.CachesAgree.holds hagree
  have hw0 : b.Walked p 0 b := ⟨hmem, rfl, hmmus, rfl⟩
  have hw1 := hw0.read (hentry h0)
  have he1 := (hentry h1).of_memory hmem hw1.mem hw1.tiers
  have hw2 := hw1.read he1
  have he2 := (hentry h2).of_memory hmem hw2.mem hw2.tiers
  have hw3 := hw2.read he2
  simp only [← bits_eq_wordField, ← bit_eq_getLsbD] at hty0 hv0 hty1 hv1 hty2 hv2
  have ht1 : t1 = bits e0.toNat 8 40 * 256 + bits va.toNat 39 9 * 8 := by rw [bits_eq_wordField]
  have ht2 : t2 = bits e1.toNat 8 40 * 256 + bits va.toNat 30 9 * 8 := by rw [bits_eq_wordField]
  have hlo : lo = if slot.val = 0 then 0x040 else 0x048 := if_congr Fin.ext_iff rfl rfl
  have hleaf := hw2.walk_leaf va.toNat w x 2 2 (bits e1.toNat 8 40 * 256) e1.toNat (by rw [ht2] at he2; exact he2) hv2 hm2 hty2
  have hwalk : r = _ :=
    calc b.walk p slot va.toNat w x
      _ = b.walkFrom p va.toNat w x 5 0 (b.pair (.mmu p) lo (lo + 4) 12) 0 .none := b.walk_root va.toNat w x .none hlo hroot
      _ = (b.entryRead p t0).walkFrom p va.toNat w x 4 1 (bits e0.toNat 8 40 * 256) e0.toNat .none :=
        hw0.walk_table va.toNat w x 4 0 _ 0 (hentry h0) hv0 hm0 hty0
      _ = ((b.entryRead p t0).entryRead p t1).walkFrom p va.toNat w x 3 2 (bits e1.toNat 8 40 * 256) e1.toNat .none := by
        rw [ht1] at he1 ⊢
        exact hw1.walk_table va.toNat w x 3 1 _ _ he1 hv1 hm1 hty1
  rw [hwalk, hleaf]
  simp only [← bits_eq_wordField, ← bit_eq_getLsbD]
  refine ⟨rfl, ?_⟩
  rw [show (levelBits 2).1 = 30 from rfl, show (levelBits 2).2 = 9 from rfl, ← ht2]
  exact ⟨hw3.reads, hw3.mem.ram⟩

end Sys2Proof.Machine
end

section
/-! Translation (R173, R176, R179, R180): the caches of leaves, the walk, the responses to fault records, invalidation. -/

namespace Sys2Proof.Machine

variable {b : Block} {p slot va : Nat} {w x : Bool} {ev : MemEvent} {e : TcEntry} {eng : Option Nat}

/-! Translation through the caches (R173, R176). -/

/-- The job whose translations a slot of a partition uses. -/
def Block.transJob (b : Block) (p slot : Nat) : Nat := ((b.part p).jobOf slot).getD 0

/-- The entry of an engine's own cache that covers an address. -/
def Block.engEntry (b : Block) (p slot : Nat) (eng : Option Nat) (va : Nat) : Option TcEntry :=
  match eng with
  | some j => tcFind (smGet [] (b.mmu p).engCache j) (b.transJob p slot) slot va
  | none => none

/-- The entry of the partition's cache that covers an address. -/
def Block.partEntry (b : Block) (p slot va : Nat) : Option TcEntry := tcFind (b.mmu p).cache (b.transJob p slot) slot va

/-- A leaf allows an access. -/
def Leaf.allows (l : Leaf) (w x : Bool) : Bool :=
  match l.check w x with
  | .fault _ _ => false
  | _ => true

theorem Leaf.allows_iff {l : Leaf} : l.allows w x = true ↔ ∀ c n, l.check w x ≠ .fault c n := by
  unfold Leaf.allows
  split
  · rename_i c n hc
    exact ⟨fun h => Bool.noConfusion h, fun h => absurd hc (h c n)⟩
  · rename_i hc
    exact ⟨fun _ => hc, fun _ => rfl⟩

/-- A leaf that allows something is a mapping. -/
theorem Leaf.not_fault_of_check {l : Leaf} (h : ∀ c n, l.check w x ≠ .fault c n) : ∀ c n, l ≠ .fault c n := by
  rintro c n rfl
  exact h c n rfl

/-- An entry enters the engine's cache. -/
def Block.learn (b : Block) (p : Nat) (eng : Option Nat) (e : TcEntry) : Block :=
  match eng with
  | some j => b.modMmu p fun m => { m with engCache := smMod [] m.engCache j fun c => (e :: c).take 64 }
  | none => b

/-- A hit in the partition's cache is counted. -/
def Block.countHit (b : Block) (p : Nat) : Block := b.modMmu p fun m => { m with hits := m.hits + 1 }

/-- A miss is counted. -/
def Block.countMiss (b : Block) (p : Nat) : Block := b.modMmu p fun m => { m with misses := m.misses + 1 }

theorem Block.translate_engEntry (h : b.engEntry p slot eng va = some e) :
    b.translate p slot eng va w x ev = if e.leaf.allows w x then (e.leaf, b) else b.walk p slot va w x ev := by
  cases eng with
  | none => exact absurd h nofun
  | some j =>
    have hj : tcFind (smGet [] (b.mmu p).engCache j) (((b.part p).jobOf slot).getD 0) slot va = some e := h
    unfold Block.translate
    dsimp only
    rw [hj]
    rfl

theorem Block.translate_partEntry (h0 : b.engEntry p slot eng va = none) (h : b.partEntry p slot va = some e) :
    b.translate p slot eng va w x ev =
      if e.leaf.allows w x then (e.leaf, (b.countHit p).learn p eng e) else (b.countHit p).walk p slot va w x ev := by
  have hp : tcFind (b.mmu p).cache (((b.part p).jobOf slot).getD 0) slot va = some e := h
  cases eng with
  | none =>
    unfold Block.translate
    dsimp only
    rw [hp]
    rfl
  | some j =>
    have hj : tcFind (smGet [] (b.mmu p).engCache j) (((b.part p).jobOf slot).getD 0) slot va = none := h0
    unfold Block.translate
    dsimp only
    rw [hj, hp]
    rfl

/-- The entry for a leaf that a walk has found. -/
def Block.walkEntry (b : Block) (p slot va : Nat) (l : Leaf) : TcEntry := ⟨b.transJob p slot, slot, va / l.size * l.size, l⟩

/-- What a miss answers, from the outcome of its walk: a leaf enters the caches. -/
def Block.afterWalk (b : Block) (p slot : Nat) (eng : Option Nat) (va : Nat) (r : Leaf × Block) : Leaf × Block :=
  match r.1 with
  | .fault _ _ => r
  | l => (l, (r.2.modMmu p fun m => { m with cache := (b.walkEntry p slot va l :: m.cache).take 8192 }).learn p eng (b.walkEntry p slot va l))

theorem Block.translate_miss (h0 : b.engEntry p slot eng va = none) (h : b.partEntry p slot va = none) :
    b.translate p slot eng va w x ev = b.afterWalk p slot eng va ((b.countMiss p).walk p slot va w x ev) := by
  have hp : tcFind (b.mmu p).cache (((b.part p).jobOf slot).getD 0) slot va = none := h
  obtain ⟨⟨l, t⟩, hr⟩ : ∃ r, (b.countMiss p).walk p slot va w x ev = r := ⟨_, rfl⟩
  have hr' : (b.modMmu p fun m => { m with misses := m.misses + 1 }).walk p slot va w x ev = (l, t) := hr
  rw [hr]
  cases eng with
  | none =>
    unfold Block.translate
    dsimp only
    rw [hp]
    dsimp only
    rw [hr']
    cases l <;> rfl
  | some j =>
    have hj : tcFind (smGet [] (b.mmu p).engCache j) (((b.part p).jobOf slot).getD 0) slot va = none := h0
    unfold Block.translate
    dsimp only
    rw [hj, hp]
    dsimp only
    rw [hr']
    cases l <;> rfl

theorem Block.afterWalk_fault {r : Leaf × Block} {c n : Nat} (h : r.1 = .fault c n) : b.afterWalk p slot eng va r = r := by
  unfold Block.afterWalk
  rw [h]

theorem Block.afterWalk_leaf {r : Leaf × Block} (h : ∀ c n, r.1 ≠ .fault c n) : b.afterWalk p slot eng va r =
    (r.1, (r.2.modMmu p fun m => { m with cache := (b.walkEntry p slot va r.1 :: m.cache).take 8192 }).learn p eng (b.walkEntry p slot va r.1)) := by
  unfold Block.afterWalk
  split
  · rename_i c n hc
    exact absurd hc (h c n)
  · rfl

/-! TRANSLATION_WALK (R173, R179). -/

/-- The end of TRANSLATION_WALK: a fault of the page that the transfer has reached parks its channel. -/
def Block.walkEnd (p slot : Nat) (eng : Option Nat) (va : Nat) (w : Bool) (r : Leaf × Block) : Block :=
  match r.1, eng with
  | .fault c n, some j => if r.2.reaches p j slot va w then r.2.parkAt p j slot va w c n else r.2
  | _, _ => r.2

theorem Block.walkEnd_leaf {l : Leaf} {t : Block} (h : ∀ c n, l ≠ .fault c n) : Block.walkEnd p slot eng va w (l, t) = t := by
  cases l with
  | fault c n => exact absurd rfl (h c n)
  | _ => rfl

theorem Block.walkCmd_far (h : 2 ^ 57 ≤ va) : b.walkCmd p slot eng va w ev = b := if_pos h

theorem Block.walkCmd_near (h : va < 2 ^ 57) :
    b.walkCmd p slot eng va w ev = Block.walkEnd p slot eng va w (b.translate p slot eng va w eng.isNone ev) := by
  unfold Block.walkCmd
  rw [if_neg (by omega)]
  rfl

/-! Responses to fault records, and timeouts (R179, R180). -/

/-- Record `n` taken away. -/
def Block.dropRec (b : Block) (p n : Nat) : Block := b.modMmu p fun m => { m with recs := m.recs.filter fun q => q.id ≠ n }

variable {n : Nat} {r : FaultRec}

theorem Block.mmuRespond_resume (hr : (b.mmu p).recs.find? (fun q => q.id = n) = some r) (hs : (b.part p).state ≠ .saved)
    (hv : (b.part p).state ≠ .saving) (hh : b.recHeld p r = false) : b.mmuRespond p n 1 = (b.dropRec p n).chanResume p r.engine r.chan := by
  unfold Block.mmuRespond
  rw [if_neg (by simp), hr]
  dsimp only
  rw [if_neg (by simp [hs, hv, hh]), if_pos rfl]
  rfl

theorem Block.mmuRespond_fail (hr : (b.mmu p).recs.find? (fun q => q.id = n) = some r) (hs : (b.part p).state ≠ .saved)
    (hv : (b.part p).state ≠ .saving) (hh : b.recHeld p r = false) :
    b.mmuRespond p n 2 = ((b.dropRec p n).log (.mmu p) 10).chanStop p r.engine r.chan 6 := by
  unfold Block.mmuRespond
  rw [if_neg (by simp), hr]
  dsimp only
  rw [if_neg (by simp [hs, hv, hh]), if_neg (by decide)]
  rfl

theorem Block.mmuTimeout_due (hr : (b.mmu p).recs.find? (fun q => q.id = n) = some r) (ha : b.fld (.mmu p) 0x074 0 16 ≤ r.age)
    (hh : b.recHeld p r = false) :
    b.mmuTimeout p n = (((b.dropRec p n).raise (.mmu p) 1).log (.mmu p) 9).chanStop p r.engine r.chan 6 := by
  unfold Block.mmuTimeout
  rw [hr]
  dsimp only
  rw [if_neg (by simp [hh]; omega)]
  rfl

theorem Block.fqConsume_none (v : Nat) (h : (b.mmu p).waiting = []) : b.fqConsume p v = b.setFld (.mmu p) 0x068 0 8 v := by
  have hlen : ((b.setFld (.mmu p) 0x068 0 8 v).mmu p).waiting.length = 0 := congrArg List.length h
  unfold Block.fqConsume
  dsimp only
  rw [hlen]
  rfl

/-! Invalidation (R176). -/

/-- Marking the accesses that are out leaves the translation units. -/
theorem Block.staleOut_mmus (b : Block) (p : Nat) : (b.staleOut p).mmus = b.mmus := rfl

theorem smMapVals_default {α : Type} [DecidableEq α] (d : α) (m : SMap α) (f : Nat → α → α) (h : ∀ k v, f k v = d) : smMapVals d m f = [] := by
  unfold smMapVals
  exact List.filter_eq_nil_iff.2 fun e he => by
    obtain ⟨x, -, rfl⟩ := List.mem_map.1 he
    simp [h]

theorem Block.mmu_modMmu_self (f : Mmu → Mmu) (hwf : smWf {} b.mmus = true) : (b.modMmu p f).mmu p = f (b.mmu p) :=
  smGet_mod_self ({} : Mmu) p f hwf

/-- An invalidation of scope ALL empties the caches of the partition and its engines, and keeps the fault records. -/
theorem Block.mmuInvalidate_all (hg : (b.mmu p).invGo = false) (hs : bits (b.reg (.mmu p) 0x050) 24 4 = 2) (hwf : smWf {} b.mmus = true) :
    (b.mmuInvalidate p).mmu p = { b.mmu p with invGo := true, cache := [], engCache := [] } := by
  unfold Block.mmuInvalidate
  rw [if_neg (by simp [hg])]
  dsimp only
  rw [hs]
  rw [Block.mmu_modMmu_self _ (by rw [Block.staleOut_mmus]; exact hwf), smMapVals_default [] _ _ fun _ c => by simp]
  simp only [Bool.not_true, List.filter_false]
  rfl

theorem Block.mmuInvDone_done (hg : (b.mmu p).invGo = true) (hb : b.staleBusy p = false) :
    b.mmuInvDone p = (b.modMmu p fun m => { m with invGo := false }).raise (.mmu p) 2 := if_pos ⟨hg, hb⟩

theorem Block.mmuInvDone_waits (hb : b.staleBusy p = true) : b.mmuInvDone p = b := if_neg (by simp [hb])

/-! The commands. -/

/-- A command's block, by an equation. -/
theorem exec_becomes {s : State} {i : Instr} {t u : Block} (he : exec i s = .next (s.withBlk t)) (h : t = u) :
    exec i s = .next (s.withBlk u) := by
  rw [he, h]

section
variable {s : State} {p : Fin 12} {req : Requester} (hon : s.blk.boot.power = .on)
include hon

theorem exec_translationWalk (slot : Fin 2) (j : Option (Fin 36)) (va : BitVec 64) (w : Bool) (ev : MemEvent) :
    exec (.translationWalk p slot j va ⟨w, ev, false⟩) s =
      .next (s.withBlk (s.blk.walkCmd p slot (j.map (·.val)) va.toNat w ev)) := by
  show execTranslationWalk p slot j va ⟨w, ev, false⟩ s = _
  rw [execTranslationWalk, State.onBlock_eq, Block.live_on _ hon]
  rfl

theorem exec_mmuResume (hj : req ≠ .job) : exec (.mmuResume p req) s =
    .next (s.withBlk (s.blk.settling fun b => b.mmuRespond p (b.reg (.mmu p) 0x06C) 1)) := by
  show execMmuResume p req s = _
  rw [execMmuResume, State.onBlock_eq, Block.live_on _ hon, Block.guardW_open _ hj]

theorem exec_mmuFail (hj : req ≠ .job) : exec (.mmuFail p req) s =
    .next (s.withBlk (s.blk.settling fun b => b.mmuRespond p (b.reg (.mmu p) 0x06C) 2)) := by
  show execMmuFail p req s = _
  rw [execMmuFail, State.onBlock_eq, Block.live_on _ hon, Block.guardW_open _ hj]

theorem exec_mmuFaultTimeout (id : BitVec 32) : exec (.mmuFaultTimeout p id) s = .next (s.withBlk (s.blk.mmuTimeout p id.toNat)) := by
  show execMmuFaultTimeout p id s = _
  rw [execMmuFaultTimeout, State.onBlock_eq, Block.live_on _ hon]

theorem exec_faultQueueConsume (v : BitVec 8) (h : s.blk.MayWrite (.mmu p) req) :
    exec (.faultQueueConsume p req v) s = .next (s.withBlk (s.blk.fqConsume p v.toNat)) := by
  show execFaultQueueConsume p req v s = _
  rw [execFaultQueueConsume, State.onBlock_eq, Block.live_on _ hon, Block.guard_open _ _ _ h]

theorem exec_mmuInvalidate (hj : req ≠ .job) : exec (.mmuInvalidate p req) s = .next (s.withBlk (s.blk.mmuInvalidate p)) := by
  show execMmuInvalidate p req s = _
  rw [execMmuInvalidate, State.onBlock_eq, Block.live_on _ hon, Block.guardW_open _ hj]

theorem exec_mmuInvDone : exec (.mmuInvDone p) s = .next (s.withBlk (s.blk.mmuInvDone p)) := by
  show execMmuInvDone p s = _
  rw [execMmuInvDone, State.onBlock_eq, Block.live_on _ hon]

end

/-- TRANSLATION_WALK of an address below 2^57 ends as its translation says. -/
theorem exec_translationWalk_near {s : State} {p : Fin 12} {slot : Fin 2} {j : Option (Fin 36)} {va : BitVec 64} {w : Bool} {ev : MemEvent}
    {r : Leaf × Block} (hon : s.blk.boot.power = .on) (hva : va.toNat < 2 ^ 57)
    (h : s.blk.translate p slot (j.map (·.val)) va.toNat w (j.map (·.val)).isNone ev = r) :
    exec (.translationWalk p slot j va ⟨w, ev, false⟩) s = .next (s.withBlk (Block.walkEnd p slot (j.map (·.val)) va.toNat w r)) := by
  rw [exec_translationWalk hon, Block.walkCmd_near hva, h]

/-- Settles O23, one command after the other. -/
theorem mmuCommands : Obligations.MmuCommands := by
  unfold Obligations.MmuCommands
  intro s p slot va req id v e r j wr ev hon hjob b job own shared usable learn ended hit walked run drop given
  have hown : own = b.engEntry p slot (j.map (·.val)) va.toNat := by cases j <;> rfl
  have hnone : j.isNone = (j.map (·.val)).isNone := by cases j <;> rfl
  have hlearn (t : Block) (e : TcEntry) : learn t e = t.learn p (j.map (·.val)) e := by cases j <;> rfl
  have hended (x : Leaf × Block) : ended x = Block.walkEnd p slot (j.map (·.val)) va.toNat wr x := by
    obtain ⟨l, t⟩ := x
    cases l <;> cases j <;> rfl
  have husable (e : TcEntry) : usable e ↔ e.leaf.allows wr (j.map (·.val)).isNone = true := by
    rw [Leaf.allows_iff, ← hnone]
  refine ⟨?_, fun hva => ⟨?_, ?_, ?_, ?_, ?_, ?_⟩, fun hr hs hv hh => ⟨?_, ?_⟩, fun hr ha hh => ?_, fun hmay hw => ?_, fun hg hs hwf => ?_,
    fun hg => ⟨fun hb => ?_, fun hb => ?_⟩⟩
  · intro hfar
    refine (exec_translationWalk hon ..).trans ?_
    rw [Block.walkCmd_far hfar]
    rfl
  · intro he hu
    refine (exec_translationWalk_near hon hva (Block.translate_engEntry (hown.symm.trans he))).trans ?_
    rw [if_pos ((husable e).1 hu), Block.walkEnd_leaf (Leaf.not_fault_of_check hu)]
    rfl
  · intro he hu
    refine (exec_translationWalk_near hon hva (Block.translate_engEntry (hown.symm.trans he))).trans ?_
    rw [if_neg (mt (husable e).2 hu), ← hnone, hended]
  · intro h0 he hu
    refine (exec_translationWalk_near hon hva (Block.translate_partEntry (hown.symm.trans h0) he)).trans ?_
    rw [if_pos ((husable e).1 hu), Block.walkEnd_leaf (Leaf.not_fault_of_check hu), hlearn]
    rfl
  · intro h0 he hu
    refine (exec_translationWalk_near hon hva (Block.translate_partEntry (hown.symm.trans h0) he)).trans ?_
    rw [if_neg (mt (husable e).2 hu), ← hnone, hended]
    rfl
  · intro h0 he hleaf
    refine (exec_translationWalk_near hon hva (Block.translate_miss (hown.symm.trans h0) he)).trans ?_
    rw [← hnone, show (b.countMiss p).walk p slot va.toNat wr j.isNone ev = walked from rfl, Block.afterWalk_leaf hleaf,
      Block.walkEnd_leaf hleaf, hlearn]
    rfl
  · rintro h0 he ⟨c, n, hfault⟩
    refine (exec_translationWalk_near hon hva (Block.translate_miss (hown.symm.trans h0) he)).trans ?_
    rw [← hnone, show (b.countMiss p).walk p slot va.toNat wr j.isNone ev = walked from rfl, Block.afterWalk_fault hfault, hended]
  · exact exec_becomes (exec_mmuResume hon hjob)
      (Block.settling_congr (f := fun b => b.mmuRespond p (b.reg (.mmu p) 0x06C) 1) (Block.mmuRespond_resume hr hs hv hh))
  · exact exec_becomes (exec_mmuFail hon hjob)
      (Block.settling_congr (f := fun b => b.mmuRespond p (b.reg (.mmu p) 0x06C) 2) (Block.mmuRespond_fail hr hs hv hh))
  · rw [exec_mmuFaultTimeout hon, Block.mmuTimeout_due hr ha hh]
    rfl
  · rw [exec_faultQueueConsume hon v hmay, Block.fqConsume_none _ hw]
  · refine ⟨_, exec_mmuInvalidate hon hjob, ?_⟩
    rw [Block.mmuInvalidate_all hg hs hwf]
    exact ⟨rfl, rfl, fun _ => rfl, rfl⟩
  · rw [exec_mmuInvDone hon, Block.mmuInvDone_done hg hb]
  · rw [exec_mmuInvDone hon, Block.mmuInvDone_waits hb]
    rfl

end Sys2Proof.Machine
end

section
/-! A fault record written to a slot whose unit two poison entries name (R168, R177, R425). -/

namespace Sys2Proof.Machine

/-- PCIE_COMPLETION is its effect in a block whose package is on. -/
theorem exec_pcieCompletion {s : State} {x : Fin 2} {tag : BitVec 10} {ok perm : Bool} {data : List Byte} (hon : s.blk.boot.power = .on) :
    exec (.pcieCompletion x tag ok perm data) s =
      .next (s.withBlk (s.blk.settling fun b => b.pcieDone x tag.toNat ok perm (data.map (·.toNat)))) := by
  show execPcieCompletion x tag ok perm data s = _
  rw [execPcieCompletion, State.onBlock_eq, Block.live_on _ hon]

/-- The translation request, asked a second time, of the transfer that `awaitingPage` runs. -/
def secondAsk : PcieReq := .ats 0 0 0 0 0x1000 1 false true

/-- Port 0 is trained and waits for an answer to `secondAsk`. The memory list names the unit of the fault queue's first slot twice: the
first entry, which a read finds, says that it is clean, the second that it is marked. -/
def awaitingPage : Block :=
  { boot := { power := .on }, pcie := [(0, { gen := 6, width := 16, vfEn := 1, reqs := [(0, some secondAsk)] })],
    parts := [(0, { bindP := some (7, 0) })], engs := [(0, { pri := { cur := some { bytes := [] } } })],
    ram := { poison := [(0, false), (0, true)] } }

/-- A transfer list; the clause that fails names none. -/
def anyList : XList := { core := 0, slot := 0, lcore := 0, job := 0, base := 0, count := 1 }

/-- The slot of the fault queue is clean before the refusal. -/
theorem awaitingPage_slot :
    awaitingPage.canAccess (awaitingPage.pair (.mmu 0) 0x05C 0x060 13 + 32 * (awaitingPage.mmu 0).prod) 32 = true ∧
      awaitingPage.memPoisoned (awaitingPage.pair (.mmu 0) 0x05C 0x060 13 + 32 * (awaitingPage.mmu 0).prod) 32 = false := by
  decide +kernel

/-- `awaitingPage` after the refusal. -/
def refusedPage : Block := awaitingPage.settling fun b => b.pcieDone (0 : Fin 2) (0 : BitVec 10).toNat false false (([] : List Byte).map (·.toNat))

/-- The refusal stops the channel: storing the fault record drops the first entry of its unit and so brings the marked one to light. -/
theorem refusedPage_stopped : (refusedPage.chan (0 : Fin 12) (0 : Fin 36) 0).state = .stopped := by decide +kernel

/-- The refusal leads from the one block to the other. -/
theorem exec_refusedPage :
    exec (.pcieCompletion 0 0 false false []) ⟨[], awaitingPage⟩ = .next (State.withBlk ⟨[], awaitingPage⟩ refusedPage) :=
  exec_pcieCompletion (s := ⟨[], awaitingPage⟩) rfl

/-- Refutes O53: the statement lets the memory list name a unit twice, and there a refused translation does not park its channel.
The slot of the fault queue reads clean, but the write of its record uncovers the second entry's mark, and the queue, whose slot is now
poisoned, does not take the record: the channel stops. -/
theorem not_hostPortCommands : ¬ Obligations.HostPortCommands := by
  unfold Obligations.HostPortCommands
  intro h
  have hon : awaitingPage.boot.power = .on := by decide
  obtain ⟨-, -, -, -, -, -, -, hcompletion, -⟩ := h ⟨[], awaitingPage⟩ 0 0 0 0 0 0 [] 0 0 0 .mgmtCtl 0 false false false 0 0 0 []
    0 0 0 0 0 0 0x1000 1 0 0 [] false true false false anyList hon (by decide) (by decide +kernel) (by decide) (by decide) (by decide) (by decide)
    (by decide) (by decide) (by decide) (by decide)
  obtain ⟨hats, -⟩ := hcompletion (by decide)
  obtain ⟨-, -, hrefused, -⟩ := hats (by decide)
  obtain ⟨b, hrun, hparked, -⟩ := hrefused ⟨by decide, by decide, .inr awaitingPage_slot⟩ (.inl rfl)
  have hsame := congrArg State.blk (Host.Outcome.next.inj (exec_refusedPage.symm.trans hrun))
  rw [State.withBlk_blk, State.withBlk_blk] at hsame
  subst hsame
  exact ChState.noConfusion (refusedPage_stopped.symm.trans hparked)

end Sys2Proof.Machine
end

section
/-! A restore beside a list of translation units that names one unit twice (R180, R250, R256, R385). -/

namespace Sys2Proof.Machine

/-- RESTORE_DONE is its effect in a block whose package is on. -/
theorem exec_restoreDone {s : State} {p : Fin 12} (hon : s.blk.boot.power = .on) :
    exec (.restoreDone p) s = .next (s.withBlk (s.blk.settling fun b => b.restoreDone p)) := by
  show execRestoreDone p s = _
  rw [execRestoreDone, State.onBlock_eq, Block.live_on _ hon]

/-- The transfer list of the parked channel. -/
def farList : XList := { core := 0, slot := 0, lcore := 0, job := 7, base := 0, count := 1 }

/-- Its descriptor: no rows, and a remote signal to package 5, which no route reaches (R197). -/
def farSignal : List Nat := [0, 0x20, 0, 0, 0, 0, 0, 0, 0, 0, 0, 0x80] ++ List.replicate 12 0 ++ leBytes 8 (5 * 2 ^ 48)

/-- The fault record that channel 0 of engine 0 is parked for. -/
def farFault : FaultRec :=
  { id := 1, va := 0, job := 7, cause := 1, write := false, slot := 0, engine := 0, chan := 0, count := 0, entry := 0 }

/-- An atomic of the restored slot that is out to package 5. -/
def farAtomic : Xact := { pkt := { kind := 8, dst := 5 }, space := 0, origin := .amo 0 0 0 1 8, sentUs := 0 }

/-- Partition 0 of job 7, whose image has slot 0 of core 0 wait for that atomic, is to be restored. The list of translation units names
unit 0 twice: the first entry, which a read finds, holds nothing, the second `farFault` and a RESUME that waits for the restore. -/
def restoring : Block :=
  { boot := { power := .on }, parts := [(0, { bindP := some (7, 0), restore := true, amap := [(0, 0x80), (16, 0x80)] })],
    images := [(0, { job := 7, slots := [(0, { wait := .verdict })] })],
    engs := [(0, { pri := { state := .parked, lists := [farList], cur := some { bytes := farSignal, moved := true } } })],
    xu := { outs := [farAtomic] }, mmus := [(0, {}), (0, { recs := [farFault], deferred := [(1, 1)] })] }

/-- `restoring` after the restore. -/
def restored : Block := restoring.settling fun b => b.restoreDone (0 : Fin 12)

/-- The image is at MMU_SAVE, and it holds slot 0 at pc 0. -/
theorem restoring_image : (restoring.imageAt (0 : Fin 12)).map (fun g => (smGet {} g.slots 0).pc) = some 0 := by decide +kernel

/-- Core 0 is the place of logical core 0 alone. -/
theorem restoring_places :
    (restoring.part (0 : Fin 12)).coreAt (0 / 16) (0 % 16) = some 0 ∧
      ∀ k < 128, k ≠ 0 → (restoring.part (0 : Fin 12)).coreAt (k / 16) (k % 16) ≠ some 0 := by
  decide +kernel

/-- The restore lets slot 0 go on: storing the freed records drops the first entry of the unit, and the RESUME that comes to light sends
the signal, whose loss ends what is out to package 5 with REMOTE_FAIL, the atomic of slot 0 among it. -/
theorem restored_pc : (restored.slot (0 : Fin 12) (0 : Fin 153) 0).pc = 8 := by decide +kernel

/-- The restore leads from the one block to the other. -/
theorem exec_restored : exec (.restoreDone 0) ⟨[], restoring⟩ = .next (State.withBlk ⟨[], restoring⟩ restored) :=
  exec_restoreDone (s := ⟨[], restoring⟩) rfl

/-- Refutes O50: the statement lets the list of translation units name a unit twice, and there a restore whose unit reads as free of
waiting responses applies one all the same. The slot that the image holds at pc 0 then stands at pc 8. -/
theorem not_abortsPatrolsAndPreemption : ¬ Obligations.AbortsPatrolsAndPreemption := by
  unfold Obligations.AbortsPatrolsAndPreemption
  intro h
  obtain ⟨-, -, -, -, -, -, -, -, -, hdone, -⟩ := h ⟨[], restoring⟩ 0 0 0 .mgmtCtl false 0 0 0 0 {} 0 0 0 0 0 0 { ring := 0, target := 0 }
    (by decide) (by decide) (by decide) (by decide) (by decide) (by decide) (by decide)
  obtain ⟨g, hg, hpc⟩ := Option.map_eq_some_iff.mp restoring_image
  obtain ⟨hplace, honly⟩ := restoring_places
  have hempty : ∀ g, restoring.imageAt (0 : Fin 12) = some g → (restoring.mmu g.home).deferred = [] := by decide +kernel
  obtain ⟨b, hrun, -, -, -, hslots⟩ := hdone (by decide) (by decide) hempty
  obtain ⟨-, hsame, -⟩ := hslots g hg 0 (by decide) hplace honly
  have hblk := congrArg State.blk (Host.Outcome.next.inj (exec_restored.symm.trans hrun))
  rw [State.withBlk_blk, State.withBlk_blk] at hblk
  subst hblk
  rw [restored_pc, hpc] at hsame
  exact absurd hsame (by decide)

end Sys2Proof.Machine
end

section
/-! What a write of the memory tiers, a trace record and the entry of an instruction are made of (R47, R149, R437), said once: what their
parts keep holds after them. -/

namespace Sys2Proof.Machine

/-- The parts of a write at its home keep `P`: changes of memory, of a cache, of a controller, and Logbook counts. -/
structure Block.TierKeeps (P : Block → Prop) : Prop where
  ram : ∀ {t : Block} (r : Ram), P t → P { t with ram := r }
  modMsc : ∀ {t : Block} (p : Nat) (f : Msc → Msc), P t → P (t.modMsc p f)
  modHbmc : ∀ {t : Block} (p : Nat) (f : Hbmc → Hbmc), P t → P (t.modHbmc p f)
  modCapc : ∀ {t : Block} (d : Nat) (f : Capc → Capc), P t → P (t.modCapc d f)
  log : ∀ {t : Block} (pg : Page) (n : Nat), P t → P (t.log pg n)
  logN : ∀ {t : Block} (pg : Page) (n k : Nat), P t → P (t.logN pg n k)

namespace Block.TierKeeps

variable {P : Block → Prop} (K : Block.TierKeeps P) {t : Block} (h : P t)
include K h

theorem hbmRead (p x n : Nat) : P (t.hbmRead p x n) := by
  refine foldl_keeps P _ (fun u k hu => ?_) _ (K.modHbmc p _ h)
  split
  · exact K.modHbmc p _ (K.log _ _ hu)
  · exact hu

theorem hbmWrite (p x n : Nat) : P (t.hbmWrite p x n) := K.logN _ _ _ (K.modHbmc p _ h)

theorem mergeReads (p x n : Nat) : P (t.mergeReads p x n) :=
  K.logN _ _ _ (foldl_keeps P _ (fun _ k hu => K.hbmRead hu p k 64) _ h)

theorem lineWrite (p k x : Nat) (bs : List Nat) (po : Bool) : P (t.lineWrite p k x bs po) := K.ram _ (K.modMsc p _ h)

theorem writeBack (p k : Nat) : P (t.writeBack p k) := by
  unfold Block.writeBack
  split
  · split
    · exact K.hbmWrite (K.modMsc p _ (K.modMsc p _ (K.ram _ h))) p _ _
    · exact h
  · exact h

theorem dropLine (p k : Nat) : P (t.dropLine p k) := by
  unfold Block.dropLine
  split
  · dsimp only
    split
    · exact K.modMsc p _ h
    · exact K.ram _ (K.modMsc p _ h)
  · exact h

theorem keepRoom (p n : Nat) : P (t.keepRoom p n) := by
  unfold Block.keepRoom
  dsimp only
  split
  · split
    · exact K.log _ _ (K.modMsc p _ h)
    · exact h
  · exact h

theorem fill (p n : Nat) (fetch keep : Bool) : P (t.fill p n fetch keep).2 := by
  have hroom (c : Bool) : P (if c = true then t.keepRoom p n else t) := by
    split
    · exact K.keepRoom h p n
    · exact h
  unfold Block.fill
  split
  · exact h
  · dsimp only
    split
    · exact hroom _
    · rename_i k _
      have hdrop := K.dropLine (K.writeBack (hroom (keep && decide (t.fld (.msc p) 0x040 8 4 ≠ 0))) p k) p k
      split
      · exact K.modMsc p _ (K.hbmRead hdrop p _ _)
      · exact K.modMsc p _ hdrop

theorem mscPut (p x : Nat) (bs : List Nat) : P (t.mscPut p x bs) := by
  unfold Block.mscPut
  split
  · exact K.modMsc p _ (K.lineWrite (K.modMsc p _ h) p _ x bs false)
  · have hfill := K.fill (K.modMsc p (fun m => { m with misses := m.misses + 1 }) h) p (x / 128) (decide (bs.length < 128)) false
    dsimp only
    split <;> rename_i he <;> rw [he] at hfill
    · exact K.lineWrite hfill p _ x bs false
    · exact K.hbmWrite (K.ram _ (K.mergeReads (K.modMsc p _ hfill) p x _)) p x _

theorem useCheck (d x : Nat) (c : Bool) : P (t.useCheck d x c) := by
  unfold Block.useCheck
  dsimp only
  split
  · exact K.modCapc d _ (K.log _ _ h)
  · exact K.modCapc d _ h

theorem capLineRead (d x : Nat) : P (t.capLineRead d x) := by
  have hcount := K.modCapc d (fun c => { c with rdLines := c.rdLines + 1 }) (K.useCheck h d x false)
  unfold Block.capLineRead
  dsimp only
  split
  · exact K.modCapc d _ (K.log _ _ hcount)
  · exact hcount

theorem capLineWrite (d x : Nat) (bs : List Nat) (po : Bool) : P (t.capLineWrite d x bs po) := by
  have hcount := K.modCapc d (fun c => { c with wrLines := c.wrLines + 1 }) (K.useCheck h d x true)
  unfold Block.capLineWrite
  dsimp only
  split
  · exact K.log _ _ (K.ram _ hcount)
  · exact K.ram _ hcount

theorem capPut (d x : Nat) (bs : List Nat) : P (t.capPut d x bs) := by
  refine K.capLineWrite ?_ d x bs false
  split
  · exact K.capLineRead (K.log _ _ h) d x
  · exact h

theorem tierWrite (a : Nat) (bs : List Nat) : P (t.tierWrite a bs) := by
  refine foldl_keeps P _ (fun u q hu => ?_) _ h
  dsimp only
  split
  · exact K.mscPut hu _ _ _
  · exact K.capPut hu _ _ _
  · exact K.ram _ hu
  · exact hu

end Block.TierKeeps

/-- The parts of a trace record keep `P`: those of a write, the Eyepiece's own state and its cause WRAPPED, a free value, what leaves the
block. -/
structure Block.TraceKeeps (P : Block → Prop) : Prop extends Block.TierKeeps P where
  eyep : ∀ {t : Block} (e : Eyep), P t → P { t with eyep := e }
  fv : ∀ {t : Block} (n : Nat), P t → P { t with fv := n }
  emit : ∀ {t : Block} (o : Out), P t → P (t.emit o)
  wrapped : ∀ {t : Block}, P t → P (t.modIrq .eyep fun h => { h with irqStat := h.irqStat ||| 4 })

namespace Block.TraceKeeps

variable {P : Block → Prop} (K : Block.TraceKeeps P) {t : Block} (h : P t)
include K h

theorem traceRec (src off : Nat) (d : List Nat) : P (t.traceRec src off d) := by
  have hfv := K.fv (t.fv + 1) h
  unfold Block.traceRec Block.fresh
  dsimp only
  split_ifs
  · exact K.emit _ hfv
  · exact K.eyep _ (K.wrapped (K.eyep _ (K.tierWrite hfv _ _)))
  · exact K.eyep _ (K.tierWrite hfv _ _)
  · exact K.log _ _ (K.eyep _ hfv)
  · exact h

theorem trace (src off : Nat) (d : List Nat) : P (t.trace src off d) := by
  have hrec := K.traceRec h src off d
  unfold Block.trace
  dsimp only
  split
  · exact K.traceRec hrec _ _ _
  · exact hrec

theorem traceCore (p i src : Nat) (d : List Nat) : P (t.traceCore p i src d) := by
  unfold Block.traceCore
  split
  · exact K.trace h _ _ _
  · exact h

/-- What the partitions do not bear on is kept by the entry of an instruction too. -/
theorem entered (hpart : ∀ {u : Block} (p : Nat) (f : Part → Part), P u → P (u.modPart p f)) (p i sl : Nat) : P (t.entered p i sl) := by
  have hleft : P (t.leaveBoundary p) := by
    unfold Block.leaveBoundary
    split
    · exact hpart p _ h
    · exact h
  unfold Block.entered
  split
  · exact K.traceCore hleft _ _ _ _
  · exact hleft

end Block.TraceKeeps

/-! Page headers. -/

/-- A value other than the default is read back, whatever the map's form. -/
theorem smGet_put_of_ne {α : Type} [DecidableEq α] (d : α) (m : SMap α) (x : Nat) {v : α} (hv : v ≠ d) : smGet d (smPut d m x v) x = v := by
  induction m with
  | nil => simp [smPut, hv, smGet]
  | cons e m ih =>
    obtain ⟨k, w⟩ := e
    by_cases hlt : x < k
    · simp [smPut, hlt, hv, smGet]
    · by_cases heq : x = k
      · simp [smPut, heq, hv, smGet]
      · simp [smPut, hlt, heq, smGet, Ne.symm heq, ih]

/-- What the header of the page with key `k` holds beside its causes. -/
def Block.hdrRest (s : Block) (k : Nat) : PageHdr := { smGet {} s.pages k with irqStat := 0 }

variable (s : Block)

theorem Block.modIrq_hdrRest (pg : Page) {x : Word} (hx : x ≠ 0) :
    (s.modIrq pg fun h => { h with irqStat := h.irqStat ||| x }).hdrRest = s.hdrRest := by
  funext k
  rw [Block.hdrRest, Block.modIrq_pages, Block.hdrRest]
  by_cases hk : k = pg.key
  · have hset : ({ smGet ({} : PageHdr) s.pages pg.key with irqStat := (smGet ({} : PageHdr) s.pages pg.key).irqStat ||| x } : PageHdr) ≠ {} :=
      fun he => hx (BitVec.or_eq_zero_iff.1 (congrArg PageHdr.irqStat he)).2
    rw [hk, smMod, smGet_put_of_ne ({} : PageHdr) _ _ hset]
  · rw [smGet_mod_ne ({} : PageHdr) _ hk]

theorem Block.log_hdrRest (pg : Page) (n : Nat) : (s.log pg n).hdrRest = s.hdrRest := by
  unfold Block.log
  dsimp only
  split_ifs
  · rfl
  · exact Block.modIrq_hdrRest _ pg (by decide)
  · rfl

theorem Block.logN_hdrRest (pg : Page) (n k : Nat) : (s.logN pg n k).hdrRest = s.hdrRest := by
  unfold Block.logN
  dsimp only
  split_ifs
  · rfl
  · exact Block.modIrq_hdrRest _ pg (by decide)
  · rfl

/-- A trace record leaves every header but for causes. -/
theorem Block.traceKeeps_hdrRest (r : Nat → PageHdr) : Block.TraceKeeps fun t => t.hdrRest = r where
  ram _ h := h
  modMsc _ _ h := h
  modHbmc _ _ h := h
  modCapc _ _ h := h
  log pg n h := (Block.log_hdrRest _ pg n).trans h
  logN pg n k h := (Block.logN_hdrRest _ pg n k).trans h
  eyep _ h := h
  fv _ h := h
  emit _ h := h
  wrapped h := (Block.modIrq_hdrRest _ .eyep (by decide)).trans h

theorem Block.entered_hdrRest (p i sl k : Nat) : (s.entered p i sl).hdrRest k = s.hdrRest k :=
  congrFun ((Block.traceKeeps_hdrRest s.hdrRest).entered rfl (fun _ _ h => h) p i sl) k

@[simp] theorem Block.entered_enaW (p i sl : Nat) (pg : Page) : ((s.entered p i sl).hdr pg).enaW = (s.hdr pg).enaW := by
  have h := congrArg PageHdr.enaW (s.entered_hdrRest p i sl pg.key)
  exact h

@[simp] theorem Block.entered_draining (p i sl : Nat) (pg : Page) : ((s.entered p i sl).hdr pg).draining = (s.hdr pg).draining := by
  have h := congrArg PageHdr.draining (s.entered_hdrRest p i sl pg.key)
  exact h

end Sys2Proof.Machine
end

section
/-! XF.POST, XF.WAIT, XF.PAIR, XF.SWAP and XF.STAT (R187 to R191, Table 7.1). -/

namespace Sys2Proof.Machine

/-! The commands: each is its instruction's effect on the block that issue leaves. -/

section
variable {s : State} {p : Fin 12} {i : Fin 153} {sl : Fin 2} {w : BitVec 64}

/-- An instruction that comes to its effect is that effect. -/
theorem State.onBlock_issue {c o : Nat} (body : Block → Block) (h : s.blk.Runs p i sl w.toNat c o) :
    (s.onBlock fun b => b.live fun b => b.issue p i sl w.toNat c o body) = .next (s.withBlk (body (s.blk.entered p i sl))) := by
  rw [State.onBlock_eq, Block.live_on _ h.1, Block.issue_runs body h]

theorem exec_xfPost (h : s.blk.Runs p i sl w.toNat 4 0) :
    exec (.xfPost p i sl w) s = .next (s.withBlk ((s.blk.entered p i sl).xfPostI p i sl w.toNat)) := State.onBlock_issue _ h

theorem exec_xfWait (h : s.blk.Runs p i sl w.toNat 4 1) :
    exec (.xfWait p i sl w) s = .next (s.withBlk ((s.blk.entered p i sl).xfWaitI p i sl w.toNat)) := State.onBlock_issue _ h

theorem exec_xfPair (h : s.blk.Runs p i sl w.toNat 4 2) :
    exec (.xfPair p i sl w) s = .next (s.withBlk ((s.blk.entered p i sl).xfPairI p i sl w.toNat)) := State.onBlock_issue _ h

theorem exec_xfSwap (h : s.blk.Runs p i sl w.toNat 4 3) :
    exec (.xfSwap p i sl w) s = .next (s.withBlk ((s.blk.entered p i sl).xfSwapI p i sl w.toNat)) := State.onBlock_issue _ h

theorem exec_xfStat (h : s.blk.Runs p i sl w.toNat 4 4) :
    exec (.xfStat p i sl w) s = .next (s.withBlk ((s.blk.entered p i sl).xfStatI p i sl w.toNat)) := State.onBlock_issue _ h

end

/-! Addresses, engines and channels. -/

/-- The sign extension of an immediate is that of its word. -/
theorem sext_eq_signExtend (w : BitVec 64) : sext 32 w.toNat = ((w.extractLsb' 0 32).signExtend 64).toNat := by
  have hlow : (w.extractLsb' 0 32).toNat = w.toNat % 2 ^ 32 := by simp [BitVec.extractLsb'_toNat]
  have hmsb : (w.extractLsb' 0 32).msb = bit w.toNat 31 := by
    rw [bit_eq_getLsbD, BitVec.msb_eq_getLsbD_last]
    simp
  have hlt := Nat.mod_lt w.toNat (show 0 < 2 ^ 32 by decide)
  rw [BitVec.toNat_signExtend, hmsb, BitVec.toNat_setWidth, hlow, sext]
  cases bit w.toNat 31
  · simp only [Bool.false_eq_true, if_false]
    omega
  · simp only [if_true]
    omega

/-- The address of a base register and an immediate, as a sum of words. -/
theorem Slot.addr_eq (t : Slot) (n : Nat) (w : BitVec 64) :
    t.addr n w.toNat = (BitVec.ofNat 64 (t.a n) + (w.extractLsb' 0 32).signExtend 64).toNat := by
  rw [BitVec.toNat_add, BitVec.toNat_ofNat, Nat.mod_add_mod, Slot.addr, sext_eq_signExtend]

/-- The engines of a core's cluster, four to a cluster (R185). -/
theorem engineOf_eq (i e : Nat) : engineOf i e = 4 * (i / 17) + e := by rw [engineOf, Nat.mul_comm]

variable {b : Block}

@[simp] theorem Block.entered_chan (p i sl q j ch : Nat) : (b.entered p i sl).chan q j ch = b.chan q j ch := by
  rw [Block.chan, Block.entered_eng, Block.chan]

@[simp] theorem Block.entered_engOn (p i sl q j : Nat) : (b.entered p i sl).engOn q j = b.engOn q j := by
  rw [Block.engOn, Block.entered_enaW, Block.engOn]

@[simp] theorem Block.entered_chanWord (p i sl q j ch : Nat) : (b.entered p i sl).chanWord q j ch = b.chanWord q j ch := by
  rw [Block.chanWord, Block.entered_chan, Block.entered_draining, Block.chanWord]

/-! XF.POST. -/

/-- A list posted to an enabled engine that works, on a channel not stopped, is accepted (R189). -/
theorem Block.xfPost_accepted {p j ch : Nat} (l : XList) (hon : b.engOn p j = true) (hs : (b.chan p j ch).state ≠ .stopped)
    (hf : (b.eng p j).failed = false) : b.xfPost p j ch l = (0, b.modChan p j ch fun c => { c with lists := c.lists ++ [l] }) := by
  have hs' : ((b.eng p j).chan ch).state ≠ .stopped := hs
  simp [Block.xfPost, hon, hs', hf]

/-- The list that XF.POST names: its place, its number of descriptors, the slot's pair capture (R188, R191). -/
def Slot.xlist (t : Slot) (i sl w : Nat) : XList :=
  { core := i, slot := sl, lcore := t.lcore, job := t.job, base := t.addr (bits w 48 4) w, count := bits w 38 10 + 1, pairs := t.pairCapture }

/-- XF.POST of an aligned list inside the slot's window, with room, posts it and writes the status of the post (R188, R189). -/
theorem Block.xfPostI_posts {p i sl w : Nat} {l : XList} (hl : l = (b.slot p i sl).xlist i sl w) (ha : l.base % 64 = 0)
    (hend : l.base + 64 * l.count ≤ 0x80000) (hwin : b.outside p i sl l.base (64 * l.count) = none)
    (hroom : (b.chan p (engineOf i (bits w 52 2)) sl).lists.length < 16) (hfew : (b.chan p (engineOf i (bits w 52 2)) sl).listsOf i < 4) :
    b.xfPostI p i sl w = (b.xfPost p (engineOf i (bits w 52 2)) sl l).2.ret p i sl fun t =>
      t.setS (bits w 33 5) (b.xfPost p (engineOf i (bits w 52 2)) sl l).1 := by
  subst hl
  have hplace : ¬((b.slot p i sl).addr (bits w 48 4) w % 64 ≠ 0 ∨ 0x80000 < (b.slot p i sl).addr (bits w 48 4) w + 64 * (bits w 38 10 + 1)) :=
    not_or.2 ⟨not_not.2 ha, Nat.not_lt.2 hend⟩
  have hwin' : b.outside p i sl ((b.slot p i sl).addr (bits w 48 4) w) (64 * (bits w 38 10 + 1)) = none := hwin
  unfold Block.xfPostI
  dsimp only
  rw [if_neg hplace, hwin']
  exact if_neg (by omega)

/-! XF.WAIT. -/

/-- A slot that begins to wait for its transfers is not traced, as it would be for synchronisation (R437). -/
theorem Block.stall_transfer (p i sl w : Nat) :
    b.stall p i sl w .transfer = b.modSlot p i sl fun t => { t with wait := .transfer, waitWord := w } := by
  unfold Block.stall
  simp [Wait.code]

/-- XF.WAIT goes on or waits, as the slot's lists outstanding say (R188). -/
theorem Block.xfWaitI_eq (p i sl w : Nat) : b.xfWaitI p i sl w = b.modSlot p i sl fun t =>
    if (if bit w 51 then (List.range 4).all fun e => decide (b.listsOn p i sl e ≤ bits w 48 3)
        else decide (b.listsOn p i sl (bits w 52 2) ≤ bits w 48 3)) then t.executed
    else { t with wait := .transfer, waitWord := w } := by
  unfold Block.xfWaitI
  dsimp only
  generalize (if bit w 51 = true then (List.range 4).all fun e => decide (b.listsOn p i sl e ≤ bits w 48 3)
    else decide (b.listsOn p i sl (bits w 52 2) ≤ bits w 48 3)) = ok
  cases ok
  · exact Block.stall_transfer p i sl w
  · rfl

/-! XF.PAIR and XF.SWAP. -/

/-- XF.PAIR with a legal half offset sets the pair, its first half current (R190). -/
theorem Block.xfPairI_sets {p i sl w v : Nat} (hv : (b.slot p i sl).s (bits w 45 5) = v) (h0 : v ≠ 0) (ha : v % 64 = 0) (hlt : v < 2 ^ 31) :
    b.xfPairI p i sl w = b.ret p i sl fun t => { t with pairs := smPut {} t.pairs (bits w 50 4) ⟨v, false⟩ } := by
  unfold Block.xfPairI
  dsimp only
  rw [hv]
  exact if_neg (by omega)

/-- The pair with its other half current. -/
def BufPair.swap (x : BufPair) : BufPair := { x with second := !x.second }

/-- Pairs 1 to `n` with those that MASK names swapped, bit 46 being pair 1's (R188). -/
def swapPairs (w n : Nat) (m : SMap BufPair) : SMap BufPair :=
  (List.range n).foldl (fun m k => if bit w (46 + k) then smMod {} m (k + 1) BufPair.swap else m) m

theorem swapPairs_succ (w n : Nat) (m : SMap BufPair) : swapPairs w (n + 1) m =
    if bit w (46 + n) then smMod {} (swapPairs w n m) (n + 1) BufPair.swap else swapPairs w n m := by
  simp [swapPairs, List.range_succ]

theorem swapPairs_wf (w n : Nat) {m : SMap BufPair} (h : smWf {} m = true) : smWf {} (swapPairs w n m) = true := by
  refine foldl_keeps (fun m : SMap BufPair => smWf {} m = true) _ (fun m k hm => ?_) _ h
  split
  · exact smWf_mod _ _ _ hm
  · exact hm

/-- A pair beyond those looked at stays. -/
theorem swapPairs_get_above (w : Nat) {n k : Nat} (m : SMap BufPair) (hk : n < k) : smGet {} (swapPairs w n m) k = smGet {} m k := by
  induction n with
  | zero => rfl
  | succ n ih =>
    rw [swapPairs_succ]
    split
    · rw [smGet_mod_ne _ _ (by omega), ih (by omega)]
    · exact ih (by omega)

/-- A pair looked at keeps its half offset, and changes its half as MASK says. -/
theorem swapPairs_get (w : Nat) {n k : Nat} {m : SMap BufPair} (hm : smWf {} m = true) (hk : k < n) :
    smGet {} (swapPairs w n m) (k + 1) = ⟨(smGet {} m (k + 1)).half, (smGet {} m (k + 1)).second != bit w (46 + k)⟩ := by
  induction n with
  | zero => omega
  | succ n ih =>
    rw [swapPairs_succ]
    obtain hlt | rfl := Nat.lt_succ_iff_lt_or_eq.1 hk
    · split
      · rw [smGet_mod_ne _ _ (by omega), ih hlt]
      · exact ih hlt
    · have hstill := swapPairs_get_above w m (Nat.lt_succ_self k)
      split
      · rename_i hb
        rw [smGet_mod_self _ _ _ (swapPairs_wf w k hm), hstill, hb, Bool.bne_true]
        rfl
      · rename_i hb
        rw [hstill, Bool.eq_false_iff.2 hb, Bool.bne_false]

/-- XF.SWAP swaps the pairs of its mask (R188). -/
theorem Block.xfSwapI_eq (p i sl w : Nat) : b.xfSwapI p i sl w = b.ret p i sl fun t => { t with pairs := swapPairs w 8 t.pairs } := rfl

/-- What `ret` makes of the slot. -/
theorem Block.ret_slot_self (p i sl : Nat) (f : Slot → Slot) (h : smWf {} b.slots = true) :
    (b.ret p i sl f).slot p i sl = (f (b.slot p i sl)).executed := smGet_mod_self ({} : Slot) (slotKey p i sl) (fun t => (f t).resume) h

/-! All five. -/

/-- Settles O24: each instruction's own lemma, on the block that issue leaves. -/
theorem transferInstructionResults : Obligations.TransferInstructionResults := by
  unfold Obligations.TransferInstructionResults
  intro s p i sl w e t a count j c list
  have haddr : t.addr (wordField w 48 4) w.toNat = a := t.addr_eq _ w
  refine ⟨?_, ?_, ?_, ?_, ?_⟩
  · intro hrun ha hend hwin hroom hfew hon hstate hfail
    have hlist : list = (e.slot p i sl).xlist i sl w.toNat := by
      simp only [Slot.xlist, bits_eq_wordField, e, Block.entered_slot]
      rw [haddr]
    have hj : engineOf i (bits w.toNat 52 2) = j := by rw [engineOf_eq, bits_eq_wordField]
    have hchan : e.chan p j sl = c := Block.entered_chan ..
    have hpost : e.xfPost p j sl list = (0, e.modChan p j sl fun c => { c with lists := c.lists ++ [list] }) :=
      Block.xfPost_accepted list (by rw [Block.entered_engOn]; exact hon) (by rw [hchan]; exact hstate) (by rw [Block.entered_eng]; exact hfail)
    rw [exec_xfPost hrun, Block.xfPostI_posts hlist ha hend hwin (by rw [hj, hchan]; exact hroom) (by rw [hj, hchan]; exact hfew), hj, hpost,
      bits_eq_wordField]
    rfl
  · intro hrun out
    rw [exec_xfWait hrun, Block.xfWaitI_eq]
    simp only [Block.listsOn, Block.entered_chan, engineOf_eq, bits_eq_wordField, bit_eq_getLsbD]
    rfl
  · intro hrun v h0 h64 hlt
    have hv : (e.slot p i sl).s (bits w.toNat 45 5) = v := by rw [Block.entered_slot, bits_eq_wordField]
    rw [exec_xfPair hrun, Block.xfPairI_sets hv h0 h64 hlt, bits_eq_wordField]
    rfl
  · intro hrun hpairs hslots
    refine ⟨_, exec_xfSwap hrun, ?_⟩
    rw [Block.xfSwapI_eq, Block.ret_slot_self _ _ _ _ (by rw [Block.entered_slots]; exact hslots), Block.entered_slot]
    exact ⟨fun n hn => (swapPairs_get w.toNat hpairs hn).trans (by rw [bit_eq_getLsbD]), rfl⟩
  · intro hrun
    rw [exec_xfStat hrun, Block.xfStatI, Block.entered_chanWord, engineOf_eq, bits_eq_wordField, bits_eq_wordField]
    rfl

end Sys2Proof.Machine
end

section
/-! Reads and writes of SRAM that meet no physical error and no poison (R149, R168): memory as it stands, the bytes as they are written. -/

namespace Sys2Proof.Machine

/-! Stored bytes. -/

/-- Storing the default where the default stands changes nothing. -/
theorem smPut_default {α : Type} [DecidableEq α] (d : α) {m : SMap α} {x : Nat} (hm : ∀ e ∈ m, e.2 ≠ d) (h : smGet d m x = d) :
    smPut d m x d = m := by
  induction m with
  | nil => simp [smPut]
  | cons e m ih =>
    obtain ⟨k, w⟩ := e
    have hw : w ≠ d := hm (k, w) (by simp)
    have hk : k ≠ x := fun hk => hw (by simpa [smGet, hk] using h)
    rw [smGet, if_neg hk] at h
    simp [smPut, Ne.symm hk, ih (fun e he => hm e (List.mem_cons_of_mem _ he)) h]

theorem putBytes_append (m : SMap Byte) (a : Nat) (xs ys : List Nat) :
    putBytes m a (xs ++ ys) = putBytes (putBytes m a xs) (a + xs.length) ys := by
  induction xs generalizing m a with
  | nil => rfl
  | cons x xs ih => rw [List.cons_append, putBytes, ih, putBytes, List.length_cons, Nat.add_assoc, Nat.add_comm 1]

/-- The first `i + j` bytes are stored as the first `i` and then `j` more. -/
theorem putBytes_take_add (m : SMap Byte) (a : Nat) {bs : List Nat} {i j : Nat} (hi : i ≤ bs.length) :
    putBytes m a (bs.take (i + j)) = putBytes (putBytes m a (bs.take i)) (a + i) ((bs.drop i).take j) := by
  rw [List.take_add, putBytes_append, List.length_take_of_le hi]

@[simp] theorem Ram.bytes_length (r : Ram) (a n : Nat) : (r.bytes a n).length = n := by simp [Ram.bytes]

theorem Ram.bytes_add (r : Ram) (a m n : Nat) : r.bytes a (m + n) = r.bytes a m ++ r.bytes (a + m) n := by
  simp [Ram.bytes, List.range_add, Nat.add_assoc]

theorem Ram.bytes_lt (r : Ram) (a n : Nat) : ∀ x ∈ r.bytes a n, x < 256 := by
  intro x hx
  obtain ⟨i, -, rfl⟩ := List.mem_map.1 hx
  exact BitVec.isLt _

/-- Memory with the bytes `bs` from `a` on. -/
def Ram.put (r : Ram) (a : Nat) (bs : List Nat) : Ram := { r with mem := putBytes r.mem a bs }

theorem Ram.put_wf {r : Ram} (a : Nat) (bs : List Nat) (h : r.wf = true) : (r.put a bs).wf = true := by
  obtain ⟨hmem, hpois⟩ := (Ram.wf_iff r).1 h
  exact (Ram.wf_iff _).2 ⟨smWf_putBytes a bs hmem, hpois⟩

/-- The bytes put are read back. -/
theorem Ram.put_bytes {r : Ram} (a : Nat) {bs : List Nat} (h : r.wf = true) (hbs : ∀ x ∈ bs, x < 256) : (r.put a bs).bytes a bs.length = bs := by
  have hrise : smRise r.mem = true := ((smWf_iff 0 _).1 ((Ram.wf_iff r).1 h).1).1
  refine List.ext_getElem (Ram.bytes_length _ _ _) fun k hk hk' => ?_
  have hget : smGet 0 (putBytes r.mem a bs) (a + k) = BitVec.ofNat 8 bs[k] := by
    rw [smGet_putBytes_in a k bs hrise hk', List.getD_eq_getElem _ _ hk']
  simp only [Ram.bytes, Ram.put, List.getElem_map, List.getElem_range, hget, BitVec.toNat_ofNat]
  exact Nat.mod_eq_of_lt (hbs _ (List.getElem_mem hk'))

/-! The pieces of a range. -/

/-- The first piece of a range goes up to the next line (R149). -/
theorem linePieces_cons (f a : Nat) {n : Nat} (hn : n ≠ 0) : linePieces (f + 1) a n =
    (a, min n (128 - a % 128)) :: linePieces f (a + min n (128 - a % 128)) (n - min n (128 - a % 128)) := by
  rw [linePieces, if_neg hn]

/-- What holds at the start of a range, and from each piece's first byte to its end, holds at the end of the range. -/
theorem foldl_linePieces {σ : Type} (I : Nat → σ → Prop) (F : σ → Nat × Nat → σ) (f a n : Nat) {x : σ} (hf : n = 0 ∨ a % 128 + n ≤ 128 * f) (h : I a x)
    (hstep : ∀ q ∈ linePieces f a n, ∀ y, I q.1 y → I (q.1 + q.2) (F y q)) : I (a + n) ((linePieces f a n).foldl F x) := by
  induction f generalizing a n x with
  | zero =>
    obtain rfl : n = 0 := by omega
    exact h
  | succ f ih =>
    by_cases hn : n = 0
    · subst hn
      rw [linePieces, if_pos rfl]
      exact h
    · rw [linePieces_cons f a hn] at hstep ⊢
      have hrest := ih (a + min n (128 - a % 128)) (n - min n (128 - a % 128)) (by omega) (hstep _ (List.mem_cons_self ..) x h)
        fun q hq => hstep q (List.mem_cons_of_mem _ hq)
      rwa [show a + min n (128 - a % 128) + (n - min n (128 - a % 128)) = a + n by omega] at hrest

/-- A piece is some of the range. -/
theorem linePieces_inside {f a n : Nat} {q : Nat × Nat} (hq : q ∈ linePieces f a n) : a ≤ q.1 ∧ 0 < q.2 ∧ q.1 + q.2 ≤ a + n := by
  induction f generalizing a n with
  | zero => exact absurd hq List.not_mem_nil
  | succ f ih =>
    by_cases hn : n = 0
    · rw [linePieces, if_pos hn] at hq
      exact absurd hq List.not_mem_nil
    · rw [linePieces_cons f a hn] at hq
      obtain rfl | hq := List.mem_cons.1 hq
      · dsimp only
        omega
      · have := ih hq
        omega

theorem foldl_piecesOf {σ : Type} (I : Nat → σ → Prop) (F : σ → Nat × Nat → σ) (a n : Nat) {x : σ} (h : I a x)
    (hstep : ∀ q ∈ piecesOf a n, ∀ y, I q.1 y → I (q.1 + q.2) (F y q)) : I (a + n) ((piecesOf a n).foldl F x) :=
  foldl_linePieces I F (n / 128 + 2) a n (.inr (by omega)) h hstep

/-! Ranges of SRAM. -/

/-- The bytes [a, a + n) lie in SRAM. -/
structure Tiers.InSram (t : Tiers) (a n : Nat) : Prop where
  high : 2 ^ 41 ≤ a
  home : ∀ x, a ≤ x → x < a + n → homeOf t x = some (.sram x)

/-- A range inside a core's memory lies in SRAM (Table 1.3). -/
theorem Tiers.inSram_core (t : Tiers) {p i x n : Nat} (hp : p < 12) (hi : i < 153) (hx : x + n ≤ 0x80000) : t.InSram (coreBase p i + x) n := by
  refine ⟨by unfold coreBase; omega, fun y hy hy' => ?_⟩
  unfold coreBase at hy hy'
  have hcore : (y - 0x21000000000) % 2 ^ 27 / 2 ^ 19 < 153 := by omega
  unfold homeOf
  rw [if_neg (by omega), if_neg (by omega), if_neg (by omega), if_pos (by omega), if_pos hcore]

section
variable {s : Block} {a n : Nat} (h : s.tiers.InSram a n)
include h

theorem Tiers.InSram.piece {q : Nat × Nat} (hq : q ∈ piecesOf a n) : homeOf s.tiers q.1 = some (.sram q.1) ∧ 2 ^ 41 ≤ q.1 := by
  obtain ⟨hfrom, hlen, hto⟩ := linePieces_inside hq
  exact ⟨h.home q.1 hfrom (by omega), h.high.trans hfrom⟩

/-- The bytes of SRAM are those of memory. -/
theorem Block.memBytes_sram : s.memBytes a n = s.ram.bytes a n := by
  unfold Block.memBytes
  rw [List.flatMap_eq_foldl]
  refine Eq.trans (foldl_piecesOf (fun x bs => bs = s.ram.bytes a (x - a)) _ a n (by simp [Ram.bytes]) fun q hq bs hbs => ?_)
    (by rw [Nat.add_sub_cancel_left])
  obtain ⟨hfrom, -⟩ := linePieces_inside hq
  rw [hbs, (h.piece hq).1, show q.1 + q.2 - a = (q.1 - a) + q.2 by omega, Ram.bytes_add, show a + (q.1 - a) = q.1 by omega]
  rfl

/-- SRAM without poison has no marked unit in any piece. -/
theorem Block.memPoisoned_sram (hc : s.memPoisoned a n = false) {q : Nat × Nat} (hq : q ∈ piecesOf a n) : s.ram.poisoned q.1 q.2 = false := by
  have hpiece := List.any_eq_false.1 hc q hq
  rw [(h.piece hq).1] at hpiece
  simpa [Block.homePoisoned, Home.num] using hpiece

/-- What a read has gathered of SRAM from `a` up to `x`: the bytes of memory. -/
def Block.readUpTo (s : Block) (a x : Nat) (acc : List Nat × List Bool × Block × MemEvent) : Prop :=
  acc.1 = s.ram.bytes a (x - a) ∧ acc.2.2 = (s, .none)

/-- A read of SRAM delivers the bytes of memory and changes nothing. -/
theorem Block.memReadParts_sram (hint : Hint) :
    (s.memReadParts a n hint .none).1 = s.ram.bytes a n ∧ (s.memReadParts a n hint .none).2.2 = s := by
  have hend {acc : List Nat × List Bool × Block × MemEvent} (hacc : s.readUpTo a (a + n) acc) : acc.1 = s.ram.bytes a n ∧ acc.2.2.1 = s := by
    obtain ⟨hbs, hs⟩ := hacc
    exact ⟨hbs.trans (by rw [Nat.add_sub_cancel_left]), congrArg Prod.fst hs⟩
  refine hend (foldl_piecesOf (s.readUpTo a) _ a n ⟨by simp [Ram.bytes], rfl⟩ fun q hq acc hacc => ?_)
  obtain ⟨bs, flags, u, ev⟩ := acc
  obtain ⟨hbs, hs⟩ := hacc
  obtain ⟨rfl, rfl⟩ := Prod.mk.inj hs
  obtain ⟨hfrom, -⟩ := linePieces_inside hq
  dsimp only at hbs ⊢
  rw [(h.piece hq).1, hbs]
  refine ⟨?_, rfl⟩
  rw [show q.1 + q.2 - a = (q.1 - a) + q.2 by omega, Ram.bytes_add, show a + (q.1 - a) = q.1 by omega]
  rfl

/-- No part of SRAM without poison is told as poisoned (R203). -/
theorem Block.poisonRanges_sram (hc : s.memPoisoned a n = false) : s.poisonRanges a n = [] := by
  refine List.flatMap_eq_nil_iff.2 fun q hq => ?_
  have hclean := Block.memPoisoned_sram h hc hq
  rw [(h.piece hq).1]
  dsimp only [Home.num]
  rw [List.append_nil, List.map_eq_nil_iff, List.filter_eq_nil_iff]
  exact fun u hu hm => List.any_eq_false.1 hclean u hu hm

/-- A read of SRAM without poison that meets no error delivers the bytes of memory, no poison, and changes nothing. -/
theorem Block.memReadMarked_sram (hc : s.memPoisoned a n = false) (hint : Hint) :
    s.memReadMarked a n hint .none = (s.ram.bytes a n, [], s) := by
  have harray : s.arrayEvent a .none = (s, .none) := by
    unfold Block.arrayEvent
    split <;> rfl
  obtain ⟨hbs, hs⟩ := Block.memReadParts_sram h hint
  unfold Block.memReadMarked
  rw [harray]
  simp [Block.poisonRanges_sram h hc, hbs, hs, MemEvent.capLost]

end

/-! Writes. -/

theorem unitSize_high {a : Nat} (h : 2 ^ 41 ≤ a) : unitSize a = 8 := by
  rw [unitSize, if_neg (by omega), if_neg (by omega)]

/-- The write of an unmarked unit stores its part of the bytes. -/
theorem Ram.writeUnit_clean {r : Ram} (a : Nat) (bs : List Nat) {u : Nat} (hwf : r.wf = true) (hc : smGet false r.poison u = false) :
    r.writeUnit a bs false u = r.put (max a u) ((bs.drop (max a u - a)).take (min (a + bs.length) (u + unitSize u) - max a u)) := by
  have hsame := smPut_default false ((smWf_iff false _).1 ((Ram.wf_iff r).1 hwf).2).2 hc
  rw [Ram.writeUnit, hc, hsame]
  rfl

/-- The writes of the first `k` units of a range of SRAM without a marker store the bytes up to the end of the last. -/
theorem Ram.write_clean_units {r : Ram} {a : Nat} {bs : List Nat} (ha : 2 ^ 41 ≤ a) (hwf : r.wf = true)
    (hc : ∀ u ∈ unitsOf 8 a bs.length, smGet false r.poison u = false) (hn : bs.length ≠ 0) (k : Nat) (hk : k ≤ (a + bs.length - 1) / 8 - a / 8 + 1) :
    ((List.range k).map fun i => (a / 8 + i) * 8).foldl (fun r u => r.writeUnit a bs false u) r = r.put a (bs.take ((a / 8 + k) * 8 - a)) := by
  induction k with
  | zero =>
    rw [show (a / 8 + 0) * 8 - a = 0 by omega]
    rfl
  | succ k ih =>
    have hmem : (a / 8 + k) * 8 ∈ unitsOf 8 a bs.length := by
      rw [unitsOf, if_neg hn]
      exact List.mem_map.2 ⟨k, List.mem_range.2 hk, rfl⟩
    have hunit : unitSize ((a / 8 + k) * 8) = 8 := unitSize_high (by omega)
    rw [List.range_succ, List.map_append, List.foldl_append, ih (by omega)]
    simp only [List.map_cons, List.map_nil, List.foldl_cons, List.foldl_nil]
    rw [Ram.writeUnit_clean a bs (Ram.put_wf _ _ hwf) (hc _ hmem), hunit]
    have hbegin : max a ((a / 8 + k) * 8) = a + ((a / 8 + k) * 8 - a) := by omega
    have htake : (bs.drop ((a / 8 + k) * 8 - a)).take (min (a + bs.length) ((a / 8 + k) * 8 + 8) - (a + ((a / 8 + k) * 8 - a))) =
        (bs.drop ((a / 8 + k) * 8 - a)).take ((a / 8 + (k + 1)) * 8 - a - ((a / 8 + k) * 8 - a)) := by
      rw [List.take_eq_take_iff, List.length_drop]
      omega
    rw [hbegin, Nat.add_sub_cancel_left, htake]
    have hadd := putBytes_take_add r.mem a (bs := bs) (i := (a / 8 + k) * 8 - a) (j := (a / 8 + (k + 1)) * 8 - a - ((a / 8 + k) * 8 - a)) (by omega)
    rw [show (a / 8 + k) * 8 - a + ((a / 8 + (k + 1)) * 8 - a - ((a / 8 + k) * 8 - a)) = (a / 8 + (k + 1)) * 8 - a by omega] at hadd
    rw [Ram.put, Ram.put, Ram.put, hadd]

/-- A write of SRAM without a marker stores its bytes (R168). -/
theorem Ram.write_clean {r : Ram} {a : Nat} (bs : List Nat) (ha : 2 ^ 41 ≤ a) (hwf : r.wf = true) (hc : r.poisoned a bs.length = false) :
    r.write a bs false = r.put a bs := by
  rw [Ram.poisoned, unitSize_high ha] at hc
  rw [Ram.write, unitSize_high ha]
  by_cases hn : bs.length = 0
  · rw [unitsOf, if_pos hn, List.length_eq_zero_iff.1 hn]
    rfl
  · have hunits := Ram.write_clean_units ha hwf (fun u hu => Bool.eq_false_iff.2 (List.any_eq_false.1 hc u hu)) hn _ (Nat.le_refl _)
    rw [List.take_of_length_le (by omega)] at hunits
    rw [unitsOf, if_neg hn]
    exact hunits

/-- The block with the bytes `bs` in memory from `a` on. -/
def Block.put (s : Block) (a : Nat) (bs : List Nat) : Block := { s with ram := s.ram.put a bs }

/-- A write of SRAM without poison stores its bytes and changes nothing else. -/
theorem Block.memWriteMarked_sram {s : Block} {a : Nat} {bs : List Nat} (h : s.tiers.InSram a bs.length) (hwf : s.ram.wf = true)
    (hc : s.memPoisoned a bs.length = false) (hint : Hint) : s.memWriteMarked a bs [] hint = s.put a bs := by
  refine Eq.trans (congrArg Prod.fst (foldl_piecesOf (fun x acc => acc = (s.put a (bs.take (x - a)), MemEvent.none))
    _ a bs.length (by simp [Block.put, Ram.put, putBytes]) fun q hq acc hacc => ?_)) (by rw [Nat.add_sub_cancel_left, List.take_length])
  obtain ⟨hfrom, -, hto⟩ := linePieces_inside hq
  obtain ⟨hhome, hhigh⟩ := h.piece hq
  have hlen : ((bs.drop (q.1 - a)).take q.2).length = q.2 := by
    rw [List.length_take, List.length_drop]
    omega
  have hclean : (s.ram.put a (bs.take (q.1 - a))).poisoned q.1 ((bs.drop (q.1 - a)).take q.2).length = false := by
    rw [hlen]
    exact Block.memPoisoned_sram h hc hq
  have hwrite := Ram.write_clean ((bs.drop (q.1 - a)).take q.2) hhigh (Ram.put_wf a (bs.take (q.1 - a)) hwf) hclean
  have hadd := putBytes_take_add s.ram.mem a (bs := bs) (i := q.1 - a) (j := q.2) (by omega)
  have hhome' : homeOf (s.put a (bs.take (q.1 - a))).tiers q.1 = some (.sram q.1) := hhome
  rw [hacc]
  dsimp only
  rw [hhome']
  show (({ s with ram := (s.ram.put a (bs.take (q.1 - a))).write q.1 ((bs.drop (q.1 - a)).take q.2) false } : Block), MemEvent.none) = _
  rw [hwrite, show q.1 + q.2 - a = q.1 - a + q.2 by omega, Block.put, Ram.put, Ram.put, Ram.put, hadd, show a + (q.1 - a) = q.1 by omega]

end Sys2Proof.Machine
end

section
/-! DESCRIPTOR_START of a fenced copy of one piece within a core's memory (R193, R196, R198, Tables 7.2, 7.4). -/

namespace Sys2Proof.Machine

variable {b : Block} {p j ch : Nat}

/-! Channels. -/

@[simp] theorem Engine.setChan_chan (e : Engine) (ch : Nat) (c : Chan) : (e.setChan ch c).chan ch = c := by
  unfold Engine.setChan Engine.chan
  split <;> rfl

theorem Block.eng_modEng_self (f : Engine → Engine) (h : smWf {} b.engs = true) : (b.modEng p j f).eng p j = f (b.eng p j) :=
  smGet_mod_self ({} : Engine) _ f h

theorem Block.modEng_wf (f : Engine → Engine) (h : smWf {} b.engs = true) : smWf {} (b.modEng p j f).engs = true := smWf_mod ({} : Engine) _ f h

theorem Block.chan_modChan_self (f : Chan → Chan) (h : smWf {} b.engs = true) : (b.modChan p j ch f).chan p j ch = f (b.chan p j ch) := by
  rw [Block.chan, Block.modChan, Block.eng_modEng_self _ h, Engine.setChan_chan]
  rfl

/-- The engine's counters of bytes read and written, `n` of each more. -/
def Engine.count (e : Engine) (n : Nat) : Engine := { e with bytesRd := e.bytesRd + n, bytesWr := e.bytesWr + n }

/-- What an engine counts leaves its channels. -/
theorem Block.chan_count (n : Nat) (h : smWf {} b.engs = true) : (b.modEng p j (·.count n)).chan p j ch = b.chan p j ch := by
  rw [Block.chan, Block.eng_modEng_self _ h]
  rfl

/-! A descriptor that has moved, and what is fenced. -/

/-- A descriptor that has moved has no piece left to move. -/
theorem Block.moveRows_moved {d : Desc} (hcur : (b.chan p j ch).cur = some d) (hm : d.moved = true) (ev : MoveEvent) (f : Nat) :
    b.moveRows p j ch ev f = b := by
  cases f with
  | zero => rfl
  | succ f =>
    rw [Block.moveRows]
    split
    · rename_i d' _ hd
      obtain rfl : d = d' := Option.some.inj (hcur.symm.trans hd)
      rw [if_pos (by simp [hm])]
    · rfl

/-- A fenced descriptor gives no signal before it completes (R197). -/
theorem Block.signalsDue_fenced {d : Desc} (hcur : (b.chan p j ch).cur = some d) (hout : (b.chan p j ch).out = []) (hf : dFence d.bytes = true) :
    b.signalsDue p j ch = b := by
  have hstarted : (b.chan p j ch).started = [d] := by simp [Chan.started, hcur, hout]
  unfold Block.signalsDue
  rw [hstarted, List.length_singleton, Block.chanSignals, hstarted]
  split
  · rfl
  · rename_i k hk
    obtain ⟨hlt, -⟩ := List.findIdx?_eq_some_iff_getElem.1 hk
    obtain rfl : k = 0 := by simpa using hlt
    split
    · rename_i d' l hd _
      obtain rfl : d = d' := by simpa using hd
      rw [if_neg (by simp [hf])]
    · rfl

/-- A descriptor that is no row post waits for no batch slot (R195). -/
theorem Block.batchHeld_unposted (l : XList) {bs : List Nat} (h : dPost bs = false) : b.batchHeld l bs = false := by
  simp [Block.batchHeld, Block.postSlot, h]

/-! The copy. -/

/-- The channel's one started descriptor, of list `l`, is a fenced copy of a row of one piece within the memory of the core that posted it,
and nothing holds it. -/
structure Block.CopyDue (b : Block) (p j ch : Nat) (l : XList) (d : Desc) : Prop where
  normal : (b.chan p j ch).state = .normal
  list : descAt (b.chan p j ch).lists 0 = some l
  cur : (b.chan p j ch).cur = some d
  alone : (b.chan p j ch).out = []
  held : d.held = []
  given : d.asked = d.given
  parks : d.hold.parks = false
  moved : d.moved = false
  hostWait : d.hostWait = false
  row : d.row = 0
  off : d.off = 0
  post : dPost d.bytes = false
  fence : dFence d.bytes = true
  srcKind : dSrcKind d.bytes = 1
  dstKind : dDstKind d.bytes = 1
  rows : dRows d.bytes = 1
  nonempty : 0 < dRowBytes d.bytes
  src : dSrc d.bytes l + dRowBytes d.bytes ≤ 0x80000
  dst : dDst d.bytes l + dRowBytes d.bytes ≤ 0x80000
  piece : pieceLen (dRowBytes d.bytes) (dSrc d.bytes l) (dDst d.bytes l) = dRowBytes d.bytes
  part : p < 12
  core : l.core < 153

/-- Where a copy within a core's memory begins to read. -/
def Desc.coreSrc (d : Desc) (p : Nat) (l : XList) : Nat := coreBase p l.core + dSrc d.bytes l

/-- Where it begins to write. -/
def Desc.coreDst (d : Desc) (p : Nat) (l : XList) : Nat := coreBase p l.core + dDst d.bytes l

/-- The descriptor after `n` bytes have moved, nothing holding it. -/
def Desc.went (d : Desc) (n : Nat) : Desc := { d.step n with hold := .free }

/-- The reads that it has asked for stay. -/
theorem Desc.went_eq (d : Desc) (n : Nat) : d.went n = { d.step n with asked := d.asked, hold := .free, asks := d.asks } := by
  unfold Desc.went Desc.step
  split <;> rfl

/-- The block after the copy: the row stands at its destination, the engine has counted it, the descriptor has moved. -/
def Block.copied (b : Block) (p j ch : Nat) (l : XList) (d : Desc) : Block :=
  ((b.put (d.coreDst p l) (b.ram.bytes (d.coreSrc p l) (dRowBytes d.bytes))).modEng p j (·.count (dRowBytes d.bytes))).modDesc p j ch d.id
    (·.went (dRowBytes d.bytes))

variable {l : XList} {d : Desc}

namespace Block.CopyDue

variable (h : b.CopyDue p j ch l d)
include h

theorem curList : (b.chan p j ch).curList = some l := by rw [Chan.curList, h.alone]; exact h.list

theorem started : (b.chan p j ch).started = [d] := by simp [Chan.started, h.cur, h.alone]

/-- The addresses of its element are its bases. -/
theorem addrs : d.addrs l = (dSrc d.bytes l, dDst d.bytes l) := by simp [Desc.addrs, h.row, h.off]

theorem sideOf_src : b.sideOf p j ch l (dSrcKind d.bytes) (dSrc d.bytes l) (dSrcHint d.bytes) false =
    (.place (.here (d.coreSrc p l) (dSrcHint d.bytes)), b) := by
  have hin : dSrc d.bytes l % 2 ^ 19 = dSrc d.bytes l := Nat.mod_eq_of_lt (by have := h.src; have := h.nonempty; omega)
  rw [h.srcKind, Block.sideOf, hin]
  rfl

theorem destsOf : b.destsOf p j ch l d.bytes (dDst d.bytes l) = ([.place (.here (d.coreDst p l) (dDstHint d.bytes))], b) := by
  have hin : dDst d.bytes l % 2 ^ 19 = dDst d.bytes l := Nat.mod_eq_of_lt (by have := h.dst; have := h.nonempty; omega)
  rw [Block.destsOf, h.dstKind, if_neg (by decide), Block.sideOf, hin]
  rfl

/-- Nothing holds it. -/
theorem holdOf (sa sh da dh : Nat) : b.holdOf d (.place (.here sa sh)) [.here da dh] = .free := by
  unfold Block.holdOf
  dsimp only [List.findSome?]
  rw [h.given]
  simp

/-- Its one step is its last. -/
theorem went : d.went (dRowBytes d.bytes) = { d with row := 1, off := 0, moved := true, hold := .free } := by
  simp [Desc.went, Desc.step, h.off, h.row, h.rows]

/-- The copied descriptor is the current one. -/
theorem copied_chan (hwf : smWf {} b.engs = true) : (b.copied p j ch l d).chan p j ch = { b.chan p j ch with cur := some (d.went (dRowBytes d.bytes)) } := by
  unfold Block.copied Block.modDesc
  rw [Block.chan_modChan_self, Block.chan_count]
  · show (b.chan p j ch).modDesc d.id (·.went (dRowBytes d.bytes)) = _
    simp [Chan.modDesc, h.alone, h.cur]
  · exact hwf
  · exact Block.modEng_wf _ hwf

variable (hsrc : b.memPoisoned (d.coreSrc p l) (dRowBytes d.bytes) = false) (hdst : b.memPoisoned (d.coreDst p l) (dRowBytes d.bytes) = false)
  (hram : b.ram.wf = true) (hwf : smWf {} b.engs = true)
include hsrc hdst hram hwf

/-- The one piece moves, and with it the descriptor. -/
theorem moveRows (f : Nat) : b.moveRows p j ch .none (f + 1) = b.copied p j ch l d := by
  have hin : b.tiers.InSram (d.coreSrc p l) (dRowBytes d.bytes) := b.tiers.inSram_core h.part h.core h.src
  have hread := Block.memReadMarked_sram hin hsrc (hintOf (dSrcHint d.bytes))
  have hlen := Ram.bytes_length b.ram (d.coreSrc p l) (dRowBytes d.bytes)
  have hwrite := Block.memWriteMarked_sram (s := b) (a := d.coreDst p l) (bs := b.ram.bytes (d.coreSrc p l) (dRowBytes d.bytes))
    (by rw [hlen]; exact b.tiers.inSram_core h.part h.core h.dst) hram (by rw [hlen]; exact hdst) (hintOf (dDstHint d.bytes))
  have hmoved : (b.copied p j ch l d).moveRows p j ch .none f = b.copied p j ch l d :=
    Block.moveRows_moved (d := d.went _) (by rw [h.copied_chan hwf]) (by rw [h.went]) _ f
  have hstay : ¬(d.moved || d.hostWait || d.hold.parks || decide ((b.chan p j ch).state ≠ .normal)) = true := by
    simp [h.moved, h.hostWait, h.parks, h.normal]
  have hfill : ¬dSrcKind d.bytes = 5 := by simp [h.srcKind]
  have hstop : sideStop [.place (.here (d.coreSrc p l) (dSrcHint d.bytes)), .place (.here (d.coreDst p l) (dDstHint d.bytes))] = none := rfl
  have hplaces : sidePlaces [.place (.here (d.coreDst p l) (dDstHint d.bytes))] = [.here (d.coreDst p l) (dDstHint d.bytes)] := rfl
  have hlen' : pieceLen (dRowBytes d.bytes - d.off) (dSrc d.bytes l) (dDst d.bytes l) = dRowBytes d.bytes := by
    rw [h.off, Nat.sub_zero, h.piece]
  rw [Block.moveRows]
  simp only [h.curList, h.cur]
  rw [if_neg hstay]
  simp only [h.addrs, if_neg hfill, hlen', h.sideOf_src, h.destsOf, hstop, hplaces, h.holdOf, ne_eq, not_true_eq_false,
    if_false, reduceCtorEq, decide_false, Bool.false_eq_true, MoveEvent.atMem, hread, parityMark, Block.deliver, List.foldl_cons, List.foldl_nil,
    Block.putAt, hwrite]
  refine Eq.trans (congrArg (fun u : Block => u.moveRows p j ch .none f) ?_) hmoved
  simp only [hlen, List.length_singleton, Nat.mul_one, Nat.sub_self, Nat.mul_zero, Nat.add_zero, if_true, Block.copied, Desc.went_eq]
  rfl

/-- DESCRIPTOR_START makes the copy (R194, R196, R198). -/
theorem descStart (hfrozen : b.frozen = false) (hserved : (b.eng p j).served = true) (hprec : ch = 0 ∨ b.canProceed p j 0 = false) :
    b.descStart p j ch .none = b.copied p j ch l d := by
  have hact : ¬(decide ((b.chan p j ch).state ≠ .normal) || b.frozen || !(b.eng p j).served || (decide (ch ≠ 0) && b.canProceed p j 0)) = true := by
    obtain rfl | hprec := hprec <;> simp [h.normal, *]
  have hpieces : b.piecesAll p j ch = b := by simp [Block.piecesAll, h.started, h.list, h.held, Block.pieces]
  have hpark : b.parkDue p j ch = b := by
    unfold Block.parkDue
    rw [h.cur]
    dsimp only
    split
    · rename_i hk
      exact absurd h.parks (by simp [hk, DHold.parks])
    · rfl
  have hnormal : ¬(b.chan p j ch).state ≠ .normal := by simp [h.normal]
  have hgoes : ¬d.moved = true := by simp [h.moved]
  have hbatch : ¬b.batchHeld l d.bytes = true := by simp [Block.batchHeld_unposted l h.post]
  obtain ⟨f, hf⟩ : ∃ f, moveFuel ch d.bytes = f + 1 := Nat.exists_eq_succ_of_ne_zero (by unfold moveFuel dFuel; split <;> omega)
  have hsignals : (b.copied p j ch l d).signalsDue p j ch = b.copied p j ch l d :=
    Block.signalsDue_fenced (d := d.went _) (by rw [h.copied_chan hwf]) (by rw [h.copied_chan hwf, h.alone]) (by rw [h.went]; exact h.fence)
  unfold Block.descStart
  dsimp only
  rw [if_neg hact, hpieces, hpark, if_neg hnormal, h.curList, h.cur]
  dsimp only
  rw [if_neg hgoes, if_neg hbatch, hf, h.moveRows hsrc hdst hram hwf, hsignals]

end Block.CopyDue

/-- DESCRIPTOR_START acts while the package is on, and nothing is to settle after a copy. -/
theorem exec_descriptorStart {s : State} {p : Fin 12} {j : Fin 36} {ch : Fin 2} {ev : MoveEvent} (hon : s.blk.boot.power = .on)
    (ht : (s.blk.descStart p j ch ev).Settled) : exec (.descriptorStart p j ch ev) s = .next (s.withBlk (s.blk.descStart p j ch ev)) := by
  show execDescriptorStart p j ch ev s = _
  rw [execDescriptorStart, State.onBlock_eq, Block.live_on _ hon, Block.settling_settled (fun b => b.descStart p j ch ev) ht]

/-- Settles O25: the copy's one piece is read and written as SRAM holds it (`Block.CopyDue.descStart`). -/
theorem descriptorCopiesCoreMemory : Obligations.DescriptorCopiesCoreMemory := by
  unfold Obligations.DescriptorCopiesCoreMemory
  intro s p j ch l rest d b c n src dst hon hsettled hfrozen hserved hnormal hlists hcur hout hheld hgiven hparks hprec hmoved hwait hrow hoff
    hpost hfence hsk hdk hrows hsome hcore hsrc hdst hpiece hcleanSrc hcleanDst hram hwf
  have h : b.CopyDue p j ch l d :=
    { normal := hnormal, list := by rw [hlists]; rfl, cur := hcur, alone := hout, held := hheld, given := hgiven, parks := hparks, moved := hmoved,
      hostWait := hwait, row := hrow, off := hoff, post := hpost, fence := hfence, srcKind := hsk, dstKind := hdk, rows := hrows, nonempty := hsome,
      src := hsrc, dst := hdst, piece := hpiece, part := p.isLt, core := hcore }
  have hstart : b.descStart p j ch .none = b.copied p j ch l d :=
    h.descStart hcleanSrc hcleanDst hram hwf hfrozen hserved (hprec.imp (fun h => by rw [h]; rfl) id)
  have hlen : (b.ram.bytes src n).length = n := Ram.bytes_length ..
  have hread : (b.copied p j ch l d).memBytes dst n = b.memBytes src n := by
    have hput := Ram.put_bytes dst hram (b.ram.bytes_lt src n)
    rw [hlen] at hput
    rw [Block.memBytes_sram (b.tiers.inSram_core p.isLt hcore hsrc), Block.memBytes_sram (Tiers.inSram_core _ p.isLt hcore hdst)]
    exact hput
  have hrun : exec (.descriptorStart p j ch .none) s = .next (s.withBlk (b.descStart p j ch .none)) :=
    exec_descriptorStart hon (by rw [hstart]; exact hsettled)
  rw [hstart] at hrun
  refine ⟨b.copied p j ch l d, hrun, hread, fun x hx => ?_, ?_, ?_⟩
  · exact smGet_putBytes_out dst x (b.ram.bytes src n) (by rw [hlen]; exact hx)
  · rw [h.copied_chan hwf, h.went]
  · rw [h.copied_chan hwf]

end Sys2Proof.Machine
end

section
/-! Counter and barrier instructions of a slot, and FENCE (R208 to R220, Table 8.2). -/

namespace Sys2Proof.Machine

/-! The commands: each is its instruction's effect on the block that issue leaves. -/

section
variable {s : State} {p : Fin 12} {i : Fin 153} {sl : Fin 2} {w : BitVec 64}

theorem exec_fence (h : s.blk.Runs p i sl w.toNat 5 0) :
    exec (.fence p i sl w) s = .next (s.withBlk ((s.blk.entered p i sl).fence p i sl w.toNat)) := State.onBlock_issue _ h

theorem exec_ctrAdd (h : s.blk.Runs p i sl w.toNat 5 1) :
    exec (.ctrAdd p i sl w) s = .next (s.withBlk ((s.blk.entered p i sl).ctrAddSub p i sl w.toNat false)) := State.onBlock_issue _ h

theorem exec_ctrSub (h : s.blk.Runs p i sl w.toNat 5 2) :
    exec (.ctrSub p i sl w) s = .next (s.withBlk ((s.blk.entered p i sl).ctrAddSub p i sl w.toNat true)) := State.onBlock_issue _ h

theorem exec_ctrWait (h : s.blk.Runs p i sl w.toNat 5 3) :
    exec (.ctrWait p i sl w) s = .next (s.withBlk ((s.blk.entered p i sl).ctrWait p i sl w.toNat)) := State.onBlock_issue _ h

theorem exec_ctrRead (h : s.blk.Runs p i sl w.toNat 5 4) :
    exec (.ctrRead p i sl w) s = .next (s.withBlk ((s.blk.entered p i sl).ctrRead p i sl w.toNat)) := State.onBlock_issue _ h

theorem exec_ctrSet (h : s.blk.Runs p i sl w.toNat 5 5) :
    exec (.ctrSet p i sl w) s = .next (s.withBlk ((s.blk.entered p i sl).ctrSet p i sl w.toNat)) := State.onBlock_issue _ h

theorem exec_barInit (h : s.blk.Runs p i sl w.toNat 5 6) :
    exec (.barInit p i sl w) s = .next (s.withBlk ((s.blk.entered p i sl).barInit p i sl w.toNat)) := State.onBlock_issue _ h

theorem exec_barArrive (h : s.blk.Runs p i sl w.toNat 5 7) :
    exec (.barArrive p i sl w) s = .next (s.withBlk ((s.blk.entered p i sl).barArriveI p i sl w.toNat)) := State.onBlock_issue _ h

theorem exec_barWait (h : s.blk.Runs p i sl w.toNat 5 8) :
    exec (.barWait p i sl w) s = .next (s.withBlk ((s.blk.entered p i sl).barWaitI p i sl w.toNat)) := State.onBlock_issue _ h

theorem exec_barSync (h : s.blk.Runs p i sl w.toNat 5 9) :
    exec (.barSync p i sl w) s = .next (s.withBlk ((s.blk.entered p i sl).barSyncI p i sl w.toNat)) := State.onBlock_issue _ h

end

variable {b : Block}

/-! What the entry of an instruction leaves of shares and of bindings. -/

@[simp] theorem Block.entered_fld (p i sl : Nat) (pg : Page) (o lo n : Nat) : (b.entered p i sl).fld pg o lo n = b.fld pg o lo n := by
  rw [Block.fld, Block.entered_reg, Block.fld]

@[simp] theorem Block.entered_ctrNum (p i sl q k n : Nat) : (b.entered p i sl).ctrNum q k n = b.ctrNum q k n := by
  rw [Block.ctrNum, Block.bfCtrs, Block.entered_fld]
  rfl

@[simp] theorem Block.entered_barNum (p i sl q k n : Nat) : (b.entered p i sl).barNum q k n = b.barNum q k n := by
  rw [Block.barNum, Block.bfBars, Block.entered_fld]
  rfl

@[simp] theorem Block.entered_isSelf (p i sl g : Nat) : (b.entered p i sl).isSelf g = b.isSelf g := by
  rw [Block.isSelf, Block.pkgn, Block.entered_reg]
  rfl

@[simp] theorem Block.entered_listsOf (p i sl q j k : Nat) : (b.entered p i sl).listsOf q j k = b.listsOf q j k := by
  simp [Block.listsOf]

/-- A partition with the frame boundary behind it. -/
def Part.left (q : Part) : Part := { q with atBoundary := false }

/-- Leaving the frame boundary, and nothing else, is what an instruction's entry does to a partition (R47). -/
theorem Block.entered_part (p i sl q : Nat) : (b.entered p i sl).part q = b.part q ∨ (b.entered p i sl).part q = (b.part q).left := by
  have hleave : (b.leaveBoundary p).part q = b.part q ∨ (b.leaveBoundary p).part q = (b.part q).left := by
    unfold Block.leaveBoundary
    split
    · by_cases hq : q = p
      · have hset : (b.part p).left ≠ {} := fun h => Bool.noConfusion (congrArg Part.atBoundary h)
        subst hq
        exact .inr (smGet_put_of_ne ({} : Part) b.parts q hset)
      · exact .inl (Block.modPart_part_ne _ hq)
    · exact .inl rfl
  unfold Block.entered
  split
  · simpa only [Block.traceCore_part] using hleave
  · exact hleave

/-- What turns on the bindings, the marks and the resets of a partition alone is left by an instruction's entry. -/
theorem Block.entered_part_eq {α : Type} (f : Part → α) (hf : ∀ q, f q.left = f q) (p i sl q : Nat) :
    f ((b.entered p i sl).part q) = f (b.part q) := by
  obtain h | h := b.entered_part p i sl q
  · rw [h]
  · rw [h, hf]

@[simp] theorem Block.entered_bindOf (p i sl q k : Nat) : (b.entered p i sl).bindOf q k = b.bindOf q k :=
  b.entered_part_eq (fun x => if k = 0 then x.bindP else x.bindB) (fun _ => rfl) p i sl q

@[simp] theorem Block.entered_usable (p i sl q : Nat) : ((b.entered p i sl).part q).usable = (b.part q).usable :=
  b.entered_part_eq Part.usable (fun _ => rfl) p i sl q

@[simp] theorem Block.entered_partOf (p i sl job lp : Nat) (k : Option Nat) : (b.entered p i sl).partOf job lp k = b.partOf job lp k := by
  unfold Block.partOf
  congr 1
  funext q
  rw [Block.entered_bindOf, Block.entered_usable]

@[simp] theorem Block.entered_blank (p i sl q : Nat) : ((b.entered p i sl).part q).blank = (b.part q).blank :=
  b.entered_part_eq Part.blank (fun _ => rfl) p i sl q

/-! What each instruction does on a block. -/

/-- An update of the slot's own partition whose number lies in the slot's share sets out, and the slot waits for the verdict (R220). -/
theorem Block.nearUpdate_sends {p i sl w num n : Nat} {u : SyncUpd}
    (h : (if u.bar then b.barNum p sl num else b.ctrNum p sl num) = some n) :
    b.nearUpdate p i sl w num u = ((b.syncTrace p i sl).sendUpd p { u with num := n }).modSlot p i sl fun t =>
      { t with wait := .verdict, waitWord := w } := by
  unfold Block.nearUpdate
  rw [h]

/-- A counter update with R = 1 to a partition of this package that keeps its job's binding, the number in both shares, sets out, and the
slot goes on with one more update out (R209, R212). -/
theorem Block.farUpdate_sends {p i sl w reg kind num amount q k n : Nat} (hlp : bits ((b.slot p i sl).s reg) 0 4 < 12)
    (hown : b.ctrNum p sl num ≠ none) (hself : b.isSelf (bits ((b.slot p i sl).s reg) 48 16) = true)
    (hpart : b.partOf (b.slot p i sl).job (bits ((b.slot p i sl).s reg) 0 4) (some sl) = some (q, k))
    (hblank : (b.part q).blank = false) (hnum : b.ctrNum q k num = some n) :
    b.farUpdate p i sl w reg kind num amount false =
      (b.sendUpd q { op := if kind = 1 then .sub else .add, num := n, amount := amount, src := (b.slot p i sl).src p i sl false }).modSlot
        p i sl fun t => { t with syncOut := t.syncOut + 1 }.executed := by
  have hown' : (b.ctrNum p sl num).isNone = false := by simpa [Option.isNone_iff_eq_none, Bool.eq_false_iff] using hown
  have hremote : b.remoteSync (b.slot p i sl).job (bits ((b.slot p i sl).s reg) 0 4) (some sl) = (some (q, k), b) := by
    simp [Block.remoteSync, hpart, hblank]
  unfold Block.farUpdate
  dsimp only
  rw [if_neg (Nat.not_le.2 hlp), hremote]
  simp [hown', hself, hpart, hnum, Block.ret, Slot.executed_eq_resume]

/-- CTR.READ writes the counter's value (R220). -/
theorem Block.ctrRead_reads {p i sl w n : Nat} (h : b.ctrNum p sl (bits w 37 12) = some n) :
    b.ctrRead p i sl w = b.ret p i sl fun t => t.setS (bits w 49 5) ((b.syn p).ctr n) := by
  unfold Block.ctrRead
  dsimp only
  rw [h]

/-- A number beyond the share is a range fault (R209). -/
theorem Block.ctrRead_beyond {p i sl w : Nat} (h : b.ctrNum p sl (bits w 37 12) = none) :
    b.ctrRead p i sl w = b.rangeFault p i sl (bits w 37 12) := by
  unfold Block.ctrRead
  dsimp only
  rw [h]

/-- The value that CTR.WAIT awaits (Table 8.2). -/
def Slot.awaited (t : Slot) (w : Nat) : Nat := if bit w 35 then t.s (bits w 49 5) else bits w 0 32

/-- CTR.WAIT of a value that is reached goes on, taking it off when C = 1 (R216). -/
theorem Block.ctrWait_reached {p i sl w n : Nat} (h : b.ctrNum p sl (bits w 37 12) = some n)
    (hv : (b.slot p i sl).awaited w ≤ (b.syn p).ctr n) :
    b.ctrWait p i sl w = (if bit w 36 then b.modSyn p fun y =>
      { y with ctrs := smPut 0 y.ctrs n ((b.syn p).ctr n - (b.slot p i sl).awaited w) } else b).modSlot p i sl Slot.executed := by
  unfold Block.ctrWait
  dsimp only
  rw [h]
  exact if_pos hv

/-- CTR.WAIT of a value not reached registers its wait behind those that wait, and is traced (R216). -/
theorem Block.ctrWait_waits {p i sl w n : Nat} (h : b.ctrNum p sl (bits w 37 12) = some n)
    (hv : (b.syn p).ctr n < (b.slot p i sl).awaited w) :
    b.ctrWait p i sl w = ((b.syncTrace p i sl).modSyn p fun y =>
      { y with ctrWaits := smMod [] y.ctrWaits n fun l => l ++ [⟨i, sl, (b.slot p i sl).awaited w, bit w 36⟩] }).modSlot p i sl fun t =>
        { t with wait := .ctr n, waitWord := w } := by
  unfold Block.ctrWait
  dsimp only
  rw [h]
  exact if_neg (Nat.not_le.2 hv)

/-- BAR.INIT arms the barrier (R217). -/
theorem Block.barInit_arms {p i sl w n : Nat} (h : b.barNum p sl (bits w 41 8) = some n) :
    b.barInit p i sl w = (b.armBar p n (bits w 16 16) (bits w 0 16)).modSlot p i sl Slot.executed := by
  unfold Block.barInit
  dsimp only
  rw [h]
  rfl

section
variable {p i sl w n : Nat} (h : b.barNum p sl (bits w 41 8) = some n)
include h

/-- BAR.WAIT at a barrier timed out faults (R218). -/
theorem Block.barWaitI_timedOut (hst : ((b.syn p).bar n).state = .timedOut) :
    b.barWaitI p i sl w = (b.log (.sync p) 4).coreFault p i sl .sync (0x4000 + bits w 41 8) := by
  unfold Block.barWaitI
  dsimp only
  rw [h]
  exact if_pos hst

/-- BAR.WAIT goes on when the generation is no longer the one held (R217). -/
theorem Block.barWaitI_released (hst : ((b.syn p).bar n).state ≠ .timedOut)
    (hg : ((b.syn p).bar n).gen ≠ (b.slot p i sl).s (bits w 49 5) % 65536) : b.barWaitI p i sl w = b.modSlot p i sl Slot.executed := by
  unfold Block.barWaitI
  dsimp only
  rw [h]
  dsimp only
  rw [if_neg hst, if_pos hg]
  rfl

/-- BAR.WAIT of the present generation of an armed barrier waits, and is traced (R217). -/
theorem Block.barWaitI_waits (hst : ((b.syn p).bar n).state = .armed)
    (hg : ((b.syn p).bar n).gen = (b.slot p i sl).s (bits w 49 5) % 65536) :
    b.barWaitI p i sl w = ((b.syncTrace p i sl).modSyn p fun z =>
      { z with barWaits := smMod [] z.barWaits n fun l => l ++ [⟨i, sl, (b.slot p i sl).s (bits w 49 5) % 65536⟩] }).modSlot p i sl fun t =>
        { t with wait := .bar n, waitWord := w } := by
  unfold Block.barWaitI
  dsimp only
  rw [h]
  dsimp only
  rw [if_neg (by rw [hst]; decide), if_neg (not_not.2 hg), hst]

/-- BAR.WAIT of the present generation of a disarmed barrier faults (R217). -/
theorem Block.barWaitI_disarmed (hst : ((b.syn p).bar n).state = .disarmed)
    (hg : ((b.syn p).bar n).gen = (b.slot p i sl).s (bits w 49 5) % 65536) :
    b.barWaitI p i sl w = (b.log (.sync p) 4).coreFault p i sl .sync (0x5000 + bits w 41 8) := by
  unfold Block.barWaitI
  dsimp only
  rw [h]
  dsimp only
  rw [if_neg (by rw [hst]; decide), if_neg (not_not.2 hg), hst]

end

/-- Nothing that a FENCE names is outstanding (R212). -/
def Block.FenceIdle (b : Block) (p i sl w : Nat) : Prop :=
  (b.slot p i sl).syncOut = 0 ∧ (b.slot p i sl).amos = [] ∧ (bit w 53 = true → (b.slot p i sl).mq = []) ∧
    (bit w 52 = true → b.listsOf p i sl = [])

/-- FENCE goes on when nothing it names is outstanding. -/
theorem Block.fence_goesOn {p i sl w : Nat} (h : b.FenceIdle p i sl w) : b.fence p i sl w = b.modSlot p i sl Slot.executed := by
  obtain ⟨hout, hamos, hmq, hlists⟩ := h
  unfold Block.fence
  dsimp only
  rw [if_neg]
  · rfl
  · simp only [hout, hamos, ne_eq, not_true_eq_false, decide_false, Bool.false_or, Bool.or_eq_true, Bool.and_eq_true, decide_eq_true_eq]
    rintro (⟨hb, hne⟩ | ⟨hb, hne⟩)
    · exact hne (hmq hb)
    · exact hne (hlists hb)

/-- FENCE waits otherwise. -/
theorem Block.fence_waits {p i sl w : Nat} (h : ¬ b.FenceIdle p i sl w) : b.fence p i sl w = b.stall p i sl w .fence := by
  unfold Block.fence
  dsimp only
  rw [if_pos]
  by_contra hopen
  simp only [ne_eq, Bool.or_eq_true, Bool.and_eq_true, decide_eq_true_eq, not_or, not_and, not_not] at hopen
  obtain ⟨⟨⟨hout, hamos⟩, hmq⟩, hlists⟩ := hopen
  exact h ⟨hout, hamos, hmq, hlists⟩

theorem Block.stall_slots (p i sl w : Nat) (x : Wait) : (b.stall p i sl w x).slots =
    (b.modSlot p i sl fun t => { t with wait := x, waitWord := w }).slots := by
  unfold Block.stall Block.syncTrace
  dsimp only
  split_ifs <;> simp

/-! The same on the block that issue leaves, in the statement's terms. -/

section
variable {p i sl n : Nat} {w : BitVec 64}

/-- What an update of the slot's own partition leaves: the update on its way, the slot waiting for its verdict (R220). -/
def Block.sent (b : Block) (p i sl w : Nat) (u : SyncUpd) : Block :=
  ((b.syncTrace p i sl).sendUpd p u).modSlot p i sl fun t => { t with wait := .verdict, waitWord := w }

theorem Block.nearUpdate_entered {num : Nat} {u : SyncUpd} (h : (if u.bar then b.barNum p sl num else b.ctrNum p sl num) = some n) :
    (b.entered p i sl).nearUpdate p i sl w.toNat num u = (b.entered p i sl).sent p i sl w.toNat { u with num := n } :=
  Block.nearUpdate_sends (by simpa using h)

/-- CTR.ADD and CTR.SUB with R = 0 send one update (R214, R220). -/
theorem Block.ctrAddSub_near (sub : Bool) (h : b.ctrNum p sl (wordField w 37 12) = some n) (hr : w.getLsbD 36 = false) :
    (b.entered p i sl).ctrAddSub p i sl w.toNat sub = (b.entered p i sl).sent p i sl w.toNat
      { op := if sub then .sub else .add, num := n, amount := wordField w 0 16, src := (b.slot p i sl).src p i sl true } := by
  simp only [Block.ctrAddSub, bit_eq_getLsbD, hr, bits_eq_wordField, Block.entered_slot]
  exact Block.nearUpdate_entered h

/-- CTR.SET sends one update (R214, R220). -/
theorem Block.ctrSet_near (h : b.ctrNum p sl (wordField w 37 12) = some n) :
    (b.entered p i sl).ctrSet p i sl w.toNat = (b.entered p i sl).sent p i sl w.toNat
      { op := .set, num := n, amount := (b.slot p i sl).s (wordField w 49 5) % 2 ^ 32, src := (b.slot p i sl).src p i sl true } := by
  simp only [Block.ctrSet, bits_eq_wordField, Block.entered_slot]
  exact Block.nearUpdate_entered h

/-- BAR.ARRIVE with R = 0 sends an arrival (R217, R220). -/
theorem Block.barArriveI_near (h : b.barNum p sl (wordField w 41 8) = some n) (hr : w.getLsbD 40 = false) :
    (b.entered p i sl).barArriveI p i sl w.toNat = (b.entered p i sl).sent p i sl w.toNat
      { bar := true, num := n, src := (b.slot p i sl).src p i sl true, reg := wordField w 49 5 } := by
  simp only [Block.barArriveI, bit_eq_getLsbD, hr, bits_eq_wordField, Block.entered_slot]
  exact Block.nearUpdate_entered h

/-- BAR.SYNC sends an arrival that then waits (R217, R220). -/
theorem Block.barSyncI_near (h : b.barNum p sl (wordField w 41 8) = some n) :
    (b.entered p i sl).barSyncI p i sl w.toNat = (b.entered p i sl).sent p i sl w.toNat
      { bar := true, num := n, src := (b.slot p i sl).src p i sl true, sync := true } := by
  simp only [Block.barSyncI, bits_eq_wordField, Block.entered_slot]
  exact Block.nearUpdate_entered h

/-- CTR.ADD and CTR.SUB with R = 1 to a partition of this package (R209, R212). -/
theorem Block.ctrAddSub_far {v q k : Nat} (sub : Bool) (hr : w.getLsbD 36 = true) (hv : (b.slot p i sl).s (wordField w 49 5) = v)
    (hlp : v % 16 < 12) (hown : b.ctrNum p sl (wordField w 37 12) ≠ none) (hself : b.isSelf (v / 2 ^ 48) = true)
    (hpart : b.partOf (b.slot p i sl).job (v % 16) (some sl) = some (q, k)) (hblank : (b.part q).blank = false)
    (hnum : b.ctrNum q k (wordField w 37 12) = some n) :
    (b.entered p i sl).ctrAddSub p i sl w.toNat sub = ((b.entered p i sl).sendUpd q
      { op := if sub then .sub else .add, num := n, amount := wordField w 0 16, src := (b.slot p i sl).src p i sl false }).modSlot p i sl
        fun t => { t with syncOut := t.syncOut + 1 }.executed := by
  have hlow : bits v 0 4 = v % 16 := by simp [bits]
  have hhigh : bits v 48 16 = v / 2 ^ 48 := by
    have hlt : v < 2 ^ 64 := hv ▸ (b.slot p i sl).s_lt _
    exact Nat.mod_eq_of_lt (by omega)
  have hop : (if b2n sub = 1 then CtrOp.sub else .add) = if sub then .sub else .add := by cases sub <;> rfl
  simp only [Block.ctrAddSub, bit_eq_getLsbD, hr, bits_eq_wordField, if_true]
  rw [Block.farUpdate_sends (q := q) (k := k) (n := n), hop, Block.entered_slot]
  · rw [Block.entered_slot, hv, hlow]
    exact hlp
  · rw [Block.entered_ctrNum]
    exact hown
  · rw [Block.entered_isSelf, Block.entered_slot, hv, hhigh]
    exact hself
  · rw [Block.entered_partOf, Block.entered_slot, hv, hlow]
    exact hpart
  · rw [Block.entered_blank]
    exact hblank
  · rw [Block.entered_ctrNum]
    exact hnum

theorem Block.entered_awaited : ((b.entered p i sl).slot p i sl).awaited w.toNat =
    if w.getLsbD 35 then (b.slot p i sl).s (wordField w 49 5) else wordField w 0 32 := by
  rw [Block.entered_slot, Slot.awaited, bit_eq_getLsbD, bits_eq_wordField, bits_eq_wordField]

theorem Block.entered_fenceIdle : (b.entered p i sl).FenceIdle p i sl w.toNat ↔
    (b.slot p i sl).syncOut = 0 ∧ (b.slot p i sl).amos = [] ∧ (w.getLsbD 53 = true → (b.slot p i sl).mq = []) ∧
      (w.getLsbD 52 = true → b.listsOf p i sl = []) := by
  rw [Block.FenceIdle, Block.entered_slot, bit_eq_getLsbD, bit_eq_getLsbD, Block.entered_listsOf]

end

/-- Settles O27: each instruction's own lemma, on the block that issue leaves. -/
theorem syncInstructionResults : Obligations.SyncInstructionResults := by
  unfold Obligations.SyncInstructionResults
  intro s p i sl w n b e t num bar src send goOn
  have hsyn : e.syn p = b.syn p := Block.entered_syn ..
  have hctr : e.ctrNum p sl (bits w.toNat 37 12) = b.ctrNum p sl num := by rw [Block.entered_ctrNum, bits_eq_wordField]
  have hbar : e.barNum p sl (bits w.toNat 41 8) = b.barNum p sl bar := by rw [Block.entered_barNum, bits_eq_wordField]
  refine ⟨fun hn => ⟨?add, ?sub, ?set, ?read, ?wait⟩, fun hn => ⟨?init, ?arrive, ?sync, ?barWait⟩, ?beyond, ?far, ?fence⟩
  case add => exact fun hrun hr => exec_becomes (exec_ctrAdd hrun) (Block.ctrAddSub_near false hn hr)
  case sub => exact fun hrun hr => exec_becomes (exec_ctrSub hrun) (Block.ctrAddSub_near true hn hr)
  case set => exact fun hrun => exec_becomes (exec_ctrSet hrun) (Block.ctrSet_near hn)
  case read =>
    intro hrun
    rw [exec_ctrRead hrun, Block.ctrRead_reads (hctr.trans hn), hsyn, bits_eq_wordField]
    rfl
  case wait =>
    intro hrun v
    have hawaited : (e.slot p i sl).awaited w.toNat = v := Block.entered_awaited
    refine ⟨fun hv => ?_, fun hv => ⟨_, exec_ctrWait hrun, ?_⟩⟩
    · rw [exec_ctrWait hrun, Block.ctrWait_reached (hctr.trans hn) (by rw [hawaited, hsyn]; exact hv), hawaited, hsyn, bit_eq_getLsbD]
    · rw [Block.ctrWait_waits (hctr.trans hn) (by rw [hawaited, hsyn]; exact hv), hawaited, bit_eq_getLsbD]
      exact ⟨by simp [Block.syncTrace], by simp [Block.syncTrace]⟩
  case init =>
    intro hrun
    rw [exec_barInit hrun, Block.barInit_arms (hbar.trans hn), bits_eq_wordField, bits_eq_wordField]
  case arrive => exact fun hrun hr => exec_becomes (exec_barArrive hrun) (Block.barArriveI_near hn hr)
  case sync => exact fun hrun => exec_becomes (exec_barSync hrun) (Block.barSyncI_near hn)
  case barWait =>
    intro hrun held
    have hheld : (e.slot p i sl).s (bits w.toNat 49 5) % 65536 = held := by rw [Block.entered_slot, bits_eq_wordField]
    refine ⟨fun hst hg => ?_, fun hg hst => ⟨_, exec_barWait hrun, ?_⟩, fun hst => ?_, fun hg hst => ?_⟩
    · exact exec_becomes (exec_barWait hrun) (Block.barWaitI_released (hbar.trans hn) (by rwa [hsyn]) (by rwa [hsyn, hheld]))
    · rw [Block.barWaitI_waits (hbar.trans hn) (by rwa [hsyn]) (by rwa [hsyn, hheld]), hheld]
      exact ⟨by simp [Block.syncTrace], by simp [Block.syncTrace]⟩
    · rw [exec_barWait hrun, Block.barWaitI_timedOut (hbar.trans hn) (by rwa [hsyn]), bits_eq_wordField]
    · rw [exec_barWait hrun, Block.barWaitI_disarmed (hbar.trans hn) (by rwa [hsyn]) (by rwa [hsyn, hheld]), bits_eq_wordField]
  case beyond =>
    intro hn hrun
    rw [exec_ctrRead hrun, Block.ctrRead_beyond (hctr.trans hn), bits_eq_wordField]
    rfl
  case far =>
    intro q k hr v hlp hown hself hpart hblank hnum u far
    exact ⟨fun hrun => exec_becomes (exec_ctrAdd hrun) (Block.ctrAddSub_far false hr rfl hlp hown hself hpart hblank hnum),
      fun hrun => exec_becomes (exec_ctrSub hrun) (Block.ctrAddSub_far true hr rfl hlp hown hself hpart hblank hnum)⟩
  case fence =>
    intro hrun idle
    have hidle : e.FenceIdle p i sl w.toNat ↔ idle := Block.entered_fenceIdle
    exact ⟨fun h => exec_becomes (exec_fence hrun) (Block.fence_goesOn (hidle.2 h)),
      fun h => ⟨_, exec_fence hrun, by rw [Block.fence_waits (mt hidle.1 h), Block.stall_slots]⟩⟩

end Sys2Proof.Machine
end

section
/-! The Logbook of a partition's SYNC page (R41, R223): the memory tiers, trace records, causes, platform events, job faults and core faults
count on other pages. -/

namespace Sys2Proof.Machine

/-- The Logbook counters of a partition's SYNC page. -/
def Block.syncCounts (s : Block) (p : Nat) : Fin 10 → Nat := fun m => s.logOf (.sync p) m

/-- No other page's counter lies where one of SYNC[p] lies. -/
theorem counterKey_ne_sync {p : Nat} {pg : Page} (hpg : pg ≠ .sync p) {n : Nat} (hn : n < pg.logCount) (m : Fin 10) :
    (Page.sync p).key * 256 + m ≠ pg.key * 256 + n := by
  have hm := m.isLt
  cases pg with
  | sync q =>
    have hq : p ≠ q := fun h => hpg (by rw [h])
    simp only [Page.key, Page.loc, Page.logCount, Page.caps] at hn ⊢
    omega
  | _ => simp only [Page.key, Page.loc, Page.logCount, Page.caps] at hn ⊢; omega

variable {s : Block} {p : Nat}

/-- A change that leaves the Logbook leaves these counters. -/
theorem Block.syncCounts_congr {t : Block} (h : t.logs = s.logs) : t.syncCounts p = s.syncCounts p := by
  funext m
  rw [Block.syncCounts, Block.logOf, h]
  rfl

/-- A counter of another page counts. -/
theorem Block.syncCounts_put {pg : Page} (hpg : pg ≠ .sync p) {n : Nat} (hn : n < pg.logCount) (v : Nat) :
    ({ s with logs := smPut 0 s.logs (pg.key * 256 + n) v } : Block).syncCounts p = s.syncCounts p := by
  funext m
  exact smGet_put_ne 0 v (counterKey_ne_sync hpg hn m)

theorem Block.log_syncCounts {pg : Page} (hpg : pg ≠ .sync p) (n : Nat) : (s.log pg n).syncCounts p = s.syncCounts p := by
  unfold Block.log
  split
  · rfl
  · rename_i hon
    have hput := Block.syncCounts_put (s := s) hpg (n := n) (by simp at hon; exact hon.2) (sat16 (smGet 0 s.logs (pg.key * 256 + n)))
    dsimp only
    split
    · exact (Block.syncCounts_congr (by simp)).trans hput
    · exact hput

theorem Block.logN_syncCounts {pg : Page} (hpg : pg ≠ .sync p) (n k : Nat) : (s.logN pg n k).syncCounts p = s.syncCounts p := by
  unfold Block.logN
  split
  · rfl
  · rename_i hon
    have hput := Block.syncCounts_put (s := s) hpg (n := n) (by simp at hon; exact hon.1.2)
      (Nat.min (smGet 0 s.logs (pg.key * 256 + n) + k) 0xFFFF)
    dsimp only
    split
    · exact (Block.syncCounts_congr (by simp)).trans hput
    · exact hput

theorem foldl_syncCounts {β : Type} (f : Block → β → Block) (hf : ∀ t b, (f t b).syncCounts p = t.syncCounts p) (l : List β) (s : Block) :
    (l.foldl f s).syncCounts p = s.syncCounts p :=
  foldl_keeps (fun t : Block => t.syncCounts p = s.syncCounts p) f (fun t b ht => (hf t b).trans ht) l rfl

/-! Changes that leave the Logbook. -/

@[simp] theorem Block.modMsc_syncCounts (q : Nat) (f : Msc → Msc) : (s.modMsc q f).syncCounts p = s.syncCounts p := rfl
@[simp] theorem Block.modHbmc_syncCounts (q : Nat) (f : Hbmc → Hbmc) : (s.modHbmc q f).syncCounts p = s.syncCounts p := rfl
@[simp] theorem Block.modCapc_syncCounts (d : Nat) (f : Capc → Capc) : (s.modCapc d f).syncCounts p = s.syncCounts p := rfl
@[simp] theorem Block.modLine_syncCounts (q k : Nat) (f : MLine → MLine) : (s.modLine q k f).syncCounts p = s.syncCounts p := rfl
@[simp] theorem Block.touch_syncCounts (q k : Nat) : (s.touch q k).syncCounts p = s.syncCounts p := rfl
@[simp] theorem Block.hbmErr_syncCounts (q k y x : Nat) : (s.hbmErr q k y x).syncCounts p = s.syncCounts p := rfl
@[simp] theorem Block.capErr_syncCounts (d k y x : Nat) : (s.capErr d k y x).syncCounts p = s.syncCounts p := rfl
@[simp] theorem Block.ram_syncCounts (r : Ram) : ({ s with ram := r } : Block).syncCounts p = s.syncCounts p := rfl
theorem Block.eyep_syncCounts (e : Eyep) : ({ s with eyep := e } : Block).syncCounts p = s.syncCounts p := rfl
theorem Block.fv_syncCounts (n : Nat) : ({ s with fv := n } : Block).syncCounts p = s.syncCounts p := rfl
@[simp] theorem Block.lineWrite_syncCounts (q k x : Nat) (bs : List Nat) (po : Bool) :
    (s.lineWrite q k x bs po).syncCounts p = s.syncCounts p := rfl

@[simp] theorem Block.modIrq_syncCounts (pg : Page) (f : PageHdr → PageHdr) : (s.modIrq pg f).syncCounts p = s.syncCounts p :=
  Block.syncCounts_congr (by simp)

/-! The memory tiers. -/

@[simp] theorem Block.hbmRead_syncCounts (q x n : Nat) : (s.hbmRead q x n).syncCounts p = s.syncCounts p := by
  unfold Block.hbmRead
  refine (foldl_syncCounts _ (fun t u => ?_) _ _).trans rfl
  split
  · exact Block.log_syncCounts (by nofun) _
  · rfl

@[simp] theorem Block.hbmWrite_syncCounts (q x n : Nat) : (s.hbmWrite q x n).syncCounts p = s.syncCounts p := Block.logN_syncCounts (by nofun) _ _

@[simp] theorem Block.mergeReads_syncCounts (q x n : Nat) : (s.mergeReads q x n).syncCounts p = s.syncCounts p :=
  (Block.logN_syncCounts (by nofun) _ _).trans (foldl_syncCounts _ (fun t u => t.hbmRead_syncCounts q u 64) _ _)

@[simp] theorem Block.writeBack_syncCounts (q k : Nat) : (s.writeBack q k).syncCounts p = s.syncCounts p := by
  unfold Block.writeBack
  split
  · split <;> simp
  · rfl

@[simp] theorem Block.dropLine_syncCounts (q k : Nat) : (s.dropLine q k).syncCounts p = s.syncCounts p := by
  unfold Block.dropLine
  split
  · dsimp only
    split <;> rfl
  · rfl

@[simp] theorem Block.keepRoom_syncCounts (q n : Nat) : (s.keepRoom q n).syncCounts p = s.syncCounts p := by
  unfold Block.keepRoom
  dsimp only
  split
  · split
    · exact Block.log_syncCounts (by nofun) _
    · rfl
  · rfl

@[simp] theorem Block.fill_syncCounts (q n : Nat) (fetch keep : Bool) : (s.fill q n fetch keep).2.syncCounts p = s.syncCounts p := by
  have hroom (c : Bool) : (if c = true then s.keepRoom q n else s).syncCounts p = s.syncCounts p := by split <;> simp
  unfold Block.fill
  split
  · rfl
  · dsimp only
    split
    · exact hroom _
    · have hroom' := hroom (keep && decide (s.fld (.msc q) 0x040 8 4 ≠ 0))
      split <;> simpa using hroom'

@[simp] theorem Block.mscPut_syncCounts (q x : Nat) (bs : List Nat) : (s.mscPut q x bs).syncCounts p = s.syncCounts p := by
  unfold Block.mscPut
  split
  · simp
  · have hfill := Block.fill_syncCounts (s := s.modMsc q fun m => { m with misses := m.misses + 1 }) (p := p) q (x / 128)
      (decide (bs.length < 128)) false
    dsimp only
    split <;> rename_i he <;> rw [he] at hfill <;> simpa using hfill

@[simp] theorem Block.useCheck_syncCounts (d x : Nat) (c : Bool) : (s.useCheck d x c).syncCounts p = s.syncCounts p := by
  unfold Block.useCheck
  dsimp only
  split
  · exact Block.log_syncCounts (by nofun) _
  · rfl

@[simp] theorem Block.capLineRead_syncCounts (d x : Nat) : (s.capLineRead d x).syncCounts p = s.syncCounts p := by
  have hcount : ((s.useCheck d x false).modCapc d fun c => { c with rdLines := c.rdLines + 1 }).syncCounts p = s.syncCounts p := by simp
  unfold Block.capLineRead
  dsimp only
  split
  · exact (Block.capErr_syncCounts ..).trans ((Block.log_syncCounts (by nofun) _).trans hcount)
  · exact hcount

@[simp] theorem Block.capLineWrite_syncCounts (d x : Nat) (bs : List Nat) (po : Bool) :
    (s.capLineWrite d x bs po).syncCounts p = s.syncCounts p := by
  have hcount : ((s.useCheck d x true).modCapc d fun c => { c with wrLines := c.wrLines + 1 }).syncCounts p = s.syncCounts p := by simp
  unfold Block.capLineWrite
  dsimp only
  split
  · exact (Block.log_syncCounts (by nofun) _).trans ((Block.ram_syncCounts _).trans hcount)
  · exact (Block.ram_syncCounts _).trans hcount

@[simp] theorem Block.capPut_syncCounts (d x : Nat) (bs : List Nat) : (s.capPut d x bs).syncCounts p = s.syncCounts p := by
  unfold Block.capPut
  rw [Block.capLineWrite_syncCounts]
  split
  · exact (Block.capLineRead_syncCounts d x).trans (Block.log_syncCounts (by nofun) _)
  · rfl

@[simp] theorem Block.tierWrite_syncCounts (a : Nat) (bs : List Nat) : (s.tierWrite a bs).syncCounts p = s.syncCounts p := by
  refine foldl_syncCounts _ (fun t q => ?_) _ _
  dsimp only
  split <;> simp

/-! Trace records, causes, platform events, job faults and core faults. -/

@[simp] theorem Block.traceRec_syncCounts (src off : Nat) (d : List Nat) : (s.traceRec src off d).syncCounts p = s.syncCounts p := by
  have hwrite (a : Nat) (r : List Nat) : (({ s with fv := s.fv + 1 } : Block).tierWrite a r).syncCounts p = s.syncCounts p :=
    (Block.tierWrite_syncCounts a r).trans (Block.fv_syncCounts _)
  unfold Block.traceRec Block.fresh
  dsimp only
  split_ifs
  · exact rfl
  · exact (Block.eyep_syncCounts _).trans ((Block.modIrq_syncCounts _ _).trans ((Block.eyep_syncCounts _).trans (hwrite _ _)))
  · exact (Block.eyep_syncCounts _).trans (hwrite _ _)
  · exact (Block.log_syncCounts (by nofun) _).trans rfl
  · rfl

@[simp] theorem Block.trace_syncCounts (src off : Nat) (d : List Nat) : (s.trace src off d).syncCounts p = s.syncCounts p := by
  unfold Block.trace
  dsimp only
  split <;> simp

@[simp] theorem Block.raise0_syncCounts (pg : Page) (n : Nat) : (s.raise0 pg n).syncCounts p = s.syncCounts p := by
  unfold Block.raise0
  split <;> simp

@[simp] theorem Block.event_syncCounts (pg : Page) (n : Nat) : (s.event pg n).syncCounts p = s.syncCounts p := by
  unfold Block.event
  dsimp only
  split_ifs
  · exact (Block.raise0_syncCounts _ _).trans (Block.log_syncCounts (by nofun) _)
  · rfl
  · rfl

@[simp] theorem Block.raise_syncCounts (pg : Page) (n : Nat) : (s.raise pg n).syncCounts p = s.syncCounts p := by
  unfold Block.raise
  split <;> simp

@[simp] theorem Block.jobFault_syncCounts (q cause job detail lcore : Nat) :
    (s.jobFault q cause job detail lcore).syncCounts p = s.syncCounts p := by
  have hlog : (s.log (.part q) 0).syncCounts p = s.syncCounts p := Block.log_syncCounts (by nofun) _
  unfold Block.jobFault
  dsimp only
  split
  · exact hlog
  · exact (Block.raise_syncCounts _ _).trans hlog

/-- The record of a core fault, kept where the core holds one under the cause of the slot (R74). -/
def Block.faultNoted (s : Block) (p i sl code detail : Nat) : Block :=
  if s.causeSet (.core p i) sl then s
  else s.modCore p i fun k =>
    { k with faultValid := true, faultSlot := sl, faultCode := code, faultDetail := detail % 65536, faultPc := (s.slot p i sl).pc }

/-- A core fault SYNC: its record, the slot stopped, the cause, the job fault (R74, R101). -/
theorem Block.coreFault_sync (q i sl d : Nat) : s.coreFault q i sl .sync d =
    (((s.faultNoted q i sl 10 d).modSlot q i sl fun t => { t with stop := .fault, wait := .none }).raise (.core q i) sl).jobFault q 1
      (s.slot q i sl).job (10 * 256 + d % 256) (s.slot q i sl).lcore := rfl

theorem Block.faultNoted_slots (q i sl code d : Nat) : (s.faultNoted q i sl code d).slots = s.slots := by
  unfold Block.faultNoted
  split <;> rfl

theorem Block.faultNoted_pages (q i sl code d : Nat) : (s.faultNoted q i sl code d).pages = s.pages := by
  unfold Block.faultNoted
  split <;> rfl

theorem Block.faultNoted_logs (q i sl code d : Nat) : (s.faultNoted q i sl code d).logs = s.logs := by
  unfold Block.faultNoted
  split <;> rfl

@[simp] theorem Block.coreFault_sync_syncCounts (q i sl d : Nat) : (s.coreFault q i sl .sync d).syncCounts p = s.syncCounts p := by
  rw [Block.coreFault_sync, Block.jobFault_syncCounts, Block.raise_syncCounts]
  exact Block.syncCounts_congr (s.faultNoted_logs q i sl 10 d)

/-- A counter of SYNC[p] that is not frozen counts one event (R41). -/
theorem Block.log_sync_counts (m : Fin 10) (hf : (s.hdr (.sync p)).freeze = false) (hwf : smWf 0 s.logs = true) :
    (s.log (.sync p) m).syncCounts p m = sat16 (s.syncCounts p m) := by
  have hput := smGet_put_self 0 ((Page.sync p).key * 256 + m) (sat16 (s.logOf (.sync p) m)) ((smWf_iff 0 _).1 hwf).1
  have hm : ¬ (Page.sync p).logCount ≤ m := Nat.not_le.2 m.isLt
  unfold Block.log
  rw [if_neg (by simp [hf, hm])]
  dsimp only
  split
  · rw [Block.modIrq_syncCounts]
    exact hput
  · exact hput

end Sys2Proof.Machine
end

section
/-! COUNTER_UPDATE of one update that arrives alone (R214 to R216, R220, Tables 8.3, 8.10). -/

namespace Sys2Proof.Machine

/-! What a core fault SYNC does to the slot, the core and the causes. -/

section
variable {s : Block} {p i sl d : Nat}

theorem Block.modIrq_causeSet_ne {pg pg' : Page} (f : PageHdr → PageHdr) (h : pg'.key ≠ pg.key) (n : Nat) :
    (s.modIrq pg f).causeSet pg' n = s.causeSet pg' n := by
  rw [Block.causeSet, Block.hdr, Block.modIrq_pages, smGet_mod_ne ({} : PageHdr) f h]
  rfl

/-- Another cause set on a page leaves those it has not named. -/
theorem Block.modIrq_causeSet_other (pg pg' : Page) {x : Word} {n : Nat} (hx : x ≠ 0) (hn : x.getLsbD n = false) :
    (s.modIrq pg fun h => { h with irqStat := h.irqStat ||| x }).causeSet pg' n = s.causeSet pg' n := by
  by_cases hk : pg'.key = pg.key
  · have hset : ({ smGet ({} : PageHdr) s.pages pg.key with irqStat := (smGet ({} : PageHdr) s.pages pg.key).irqStat ||| x } : PageHdr) ≠ {} :=
      fun he => hx (BitVec.or_eq_zero_iff.1 (congrArg PageHdr.irqStat he)).2
    rw [Block.causeSet, Block.hdr, Block.modIrq_pages, hk, smMod, smGet_put_of_ne ({} : PageHdr) _ _ hset, BitVec.getLsbD_or, hn,
      Bool.or_false, ← hk]
    rfl
  · exact Block.modIrq_causeSet_ne _ hk n

/-- The causes that a Logbook counter and a full trace ring set are none of the first two. -/
theorem lateCause_low (n : Fin 2) : (BitVec.ofNat 32 (2 ^ 31)).getLsbD n = false ∧ (4 : Word).getLsbD n = false := by
  revert n
  decide

/-- Logbook counters and trace records set causes 2 and 31 alone (R41, R437). -/
theorem Block.traceKeeps_causeSet (pg : Page) (n : Fin 2) (c : Bool) : Block.TraceKeeps fun t => t.causeSet pg n = c where
  ram _ h := h
  modMsc _ _ h := h
  modHbmc _ _ h := h
  modCapc _ _ h := h
  log pg' m h := by
    unfold Block.log
    dsimp only
    split_ifs
    · exact h
    · exact (Block.modIrq_causeSet_other pg' pg (x := BitVec.ofNat 32 (2 ^ 31)) (by decide) (lateCause_low n).1).trans h
    · exact h
  logN pg' m k h := by
    unfold Block.logN
    dsimp only
    split_ifs
    · exact h
    · exact (Block.modIrq_causeSet_other pg' pg (x := BitVec.ofNat 32 (2 ^ 31)) (by decide) (lateCause_low n).1).trans h
    · exact h
  eyep _ h := h
  fv _ h := h
  emit _ h := h
  wrapped h := (Block.modIrq_causeSet_other .eyep pg (by decide) (lateCause_low n).2).trans h

/-- A cause raised on a page that sends no platform events leaves causes 0 and 1 of every other page. -/
theorem Block.raise_causeSet_ne {pg pg' : Page} (k : Nat) (n : Fin 2) (halarm : pg.alarms = false) (h : pg'.key ≠ pg.key) :
    (s.raise pg k).causeSet pg' n = s.causeSet pg' n := by
  have hevent (t : Block) : t.event pg k = t := by simp [Block.event, halarm]
  unfold Block.raise Block.raise0
  split
  · rfl
  · rw [hevent]
    exact (Block.traceKeeps_causeSet pg' n _).trace (Block.modIrq_causeSet_ne _ h n) _ _ _

theorem Block.log_causeSet_low (pg pg' : Page) (k : Nat) (n : Fin 2) : (s.log pg k).causeSet pg' n = s.causeSet pg' n :=
  (Block.traceKeeps_causeSet pg' n _).log pg k rfl

theorem Block.coreFault_sync_causesKept (p i sl d : Nat) : CausesKept s.pages (s.coreFault p i sl .sync d).pages := by
  rw [Block.coreFault_sync]
  refine .trans ?_ (Block.jobFault_causesKept ..)
  refine Block.raise_causesKept _ _ _ ?_
  rw [Block.modSlot_pages, Block.faultNoted_pages]
  exact .refl _

/-- A core fault SYNC raises the cause of its slot. -/
theorem Block.coreFault_sync_causeSet (p i d : Nat) {sl : Nat} (hsl : sl < 32) (hwf : smWf {} s.pages = true) :
    (s.coreFault p i sl .sync d).causeSet (.core p i) sl = true := by
  rw [Block.coreFault_sync]
  refine Block.raise_causeSet_kept _ hsl ?_ (Block.jobFault_causesKept ..)
  rw [Block.modSlot_pages, Block.faultNoted_pages]
  exact hwf

/-- A core fault SYNC stops its slot. -/
theorem Block.coreFault_sync_slot (p i sl d : Nat) (hwf : smWf {} s.slots = true) :
    (s.coreFault p i sl .sync d).slot p i sl = { s.slot p i sl with stop := .fault, wait := .none } := by
  have hself := smGet_mod_self ({} : Slot) (slotKey p i sl) (fun t : Slot => { t with stop := .fault, wait := .none }) hwf
  rw [Block.coreFault_sync, Block.jobFault_slot, Block.raise_slot, Block.slot, Block.modSlot_slots, Block.faultNoted_slots]
  exact hself

/-- The record of a core fault SYNC, where the core holds none under the slot's cause (R74, Table 3.12). -/
theorem Block.coreFault_sync_core (p i sl d : Nat) (hc : s.causeSet (.core p i) sl = false) (hwf : smWf {} s.cores = true) :
    (s.coreFault p i sl .sync d).core p i = { s.core p i with
      faultValid := true, faultSlot := sl, faultCode := 10, faultDetail := d % 65536, faultPc := (s.slot p i sl).pc } := by
  rw [Block.coreFault_sync, Block.jobFault_core, Block.raise_core, Block.modSlot_core, Block.faultNoted, if_neg (by simp [hc])]
  exact Block.core_modCore_self p i _ hwf

/-! Sync objects. -/

theorem Block.syn_modSyn_self (p : Nat) (f : Sync → Sync) (hwf : smWf {} s.syncs = true) : (s.modSyn p f).syn p = f (s.syn p) :=
  smGet_mod_self ({} : Sync) p f hwf

theorem Block.modSyn_wf (p : Nat) (f : Sync → Sync) (hwf : smWf {} s.syncs = true) : smWf {} (s.modSyn p f).syncs = true :=
  smWf_mod ({} : Sync) p f hwf

theorem Block.modSyn_congr {p : Nat} {f g : Sync → Sync} (h : f (s.syn p) = g (s.syn p)) : s.modSyn p f = s.modSyn p g := by
  rw [Block.modSyn, smMod, Block.modSyn, smMod]
  exact congrArg (fun y => ({ s with syncs := smPut {} s.syncs p y } : Block)) h

/-! An update that is applied. -/

/-- The update does not pass a bound of the counter at `v` (R215). -/
def CtrOp.Fits (op : CtrOp) (v amount : Nat) : Prop :=
  match op with
  | .add => v + amount ≤ 0xFFFFFFFF
  | .sub => amount ≤ v
  | .set => True

/-- The counter's value after an update that is applied at `v` (R214). -/
def CtrOp.result (op : CtrOp) (v amount : Nat) : Nat :=
  match op with
  | .add => v + amount
  | .sub => v - amount
  | .set => amount % 2 ^ 32

/-- The counter at a new value, no slot waiting on it. -/
def Block.counted (s : Block) (p n v : Nat) : Block :=
  (s.modSyn p fun y => { y with ctrs := smPut 0 y.ctrs n v }).modSyn p fun y => { y with ctrWaits := smPut [] y.ctrWaits n [] }

theorem Block.ctrApply_applied {op : CtrOp} {n amount : Nat} (src : SyncSrc) (hwf : smWf {} s.syncs = true)
    (hw : smGet [] (s.syn p).ctrWaits n = []) (h : op.Fits ((s.syn p).ctr n) amount) :
    s.ctrApply p op n amount src = (true, s.counted p n (op.result ((s.syn p).ctr n) amount)) := by
  have hexam (v : Nat) : Block.examine (s.modSyn p fun y => { y with ctrs := smPut 0 y.ctrs n v }) p n
      (smGet [] ((s.modSyn p fun y => { y with ctrs := smPut 0 y.ctrs n v }).syn p).ctrWaits n) [] = s.counted p n v := by
    rw [Block.syn_modSyn_self p _ hwf, hw]
    rfl
  unfold Block.ctrApply
  cases op with
  | add => rw [← hexam]; exact if_neg (Nat.not_lt.2 h)
  | sub => rw [← hexam]; exact if_neg (Nat.not_lt.2 h)
  | set => rw [← hexam]; rfl

/-- The kind of fault of an update that is refused (Table 8.3). -/
def CtrOp.refusal (op : CtrOp) : Nat := if op = .sub then 1 else 2

theorem Block.ctrApply_refused {op : CtrOp} {n amount : Nat} (src : SyncSrc) (h : ¬ op.Fits ((s.syn p).ctr n) amount) :
    s.ctrApply p op n amount src = (false, s.syncFault p op.refusal n amount src) := by
  unfold Block.ctrApply
  cases op with
  | add => exact if_pos (Nat.not_le.1 h)
  | sub => exact if_pos (Nat.not_le.1 h)
  | set => exact absurd trivial h

/-! An update that is refused. -/

/-- The sync fault record, unless one is held (R215). -/
def Block.syncNoted (s : Block) (p : Nat) (r : SyncRec) : Block :=
  if (s.syn p).fault.isSome then s else s.modSyn p fun y => { y with fault := some r }

theorem Block.syncNoted_frame (p : Nat) (r : SyncRec) : (s.syncNoted p r).slots = s.slots ∧ (s.syncNoted p r).cores = s.cores ∧
    (s.syncNoted p r).pages = s.pages ∧ (s.syncNoted p r).logs = s.logs := by
  unfold Block.syncNoted
  split <;> exact ⟨rfl, rfl, rfl, rfl⟩

theorem Block.syncNoted_syn (p : Nat) (r : SyncRec) (hwf : smWf {} s.syncs = true) : (s.syncNoted p r).syn p =
    { s.syn p with fault := if (s.syn p).fault.isSome then (s.syn p).fault else some r } := by
  unfold Block.syncNoted
  split
  · rfl
  · exact Block.syn_modSyn_self p _ hwf

/-- What a refused update of a waiting slot does (R215): it is counted and recorded, CTR_FAULT is raised, and the slot faults. -/
theorem Block.syncFault_precise (p kind n amount q i sl lc job : Nat) :
    s.syncFault p kind n amount (.instr q i sl true lc job) =
      (((s.log (.sync p) (kind - 1)).syncNoted p ⟨0, kind, lc, n, s.pkgn, job, amount, (s.syn p).ctr n⟩).raise (.sync p) 0).coreFault q i sl
        .sync (kind * 4096 + s.ctrOwn q sl n) := by
  have hnoted : (if (s.syn p).fault.isSome then s.log (.sync p) (kind - 1) else (s.log (.sync p) (kind - 1)).modSyn p fun y =>
      { y with fault := some ⟨0, kind, lc, n, s.pkgn, job, amount, y.ctr n⟩ }) =
      (s.log (.sync p) (kind - 1)).syncNoted p ⟨0, kind, lc, n, s.pkgn, job, amount, (s.syn p).ctr n⟩ := by
    rw [Block.syncNoted, Block.log_syn]
    split
    · rfl
    · exact Block.modSyn_congr (by rw [Block.log_syn])
  have hown (u : Block) (h : u.regs = s.regs) : u.ctrOwn q sl n = s.ctrOwn q sl n := by
    rw [Block.ctrOwn, Block.bfCtrs, Block.fld, Block.reg, h]
    rfl
  unfold Block.syncFault
  dsimp only [SyncSrc.who, SyncSrc.code]
  rw [hnoted, hown]
  rw [Block.raise_regs, Block.syncNoted]
  split <;> simp

/-! The update that arrives. -/

/-- The partition with nothing in flight to it. -/
def Block.landed (s : Block) (p : Nat) : Block := s.modSyn p fun y => { y with inflight := [] }

/-- What a refused update leaves before its slot faults: its count, its record and CTR_FAULT (R215). -/
def Block.refused (s : Block) (p kind : Nat) (r : SyncRec) : Block :=
  (((s.landed p).log (.sync p) (kind - 1)).syncNoted p r).raise (.sync p) 0

/-- The one update in flight arrives (R214). -/
theorem Block.counterUpdate_alone {u : SyncUpd} (hin : (s.syn p).inflight = [u]) (hbar : u.bar = false) :
    s.counterUpdate p [0] = (s.landed p).updateAt p u := by
  have htake : takeAt [u] [0] = ([u], []) := rfl
  unfold Block.counterUpdate
  rw [hin, htake]
  simp [hbar, arrivalOrder, putInOrder, Block.landed]

theorem Block.updateAt_applied {u : SyncUpd} {t : Block} {q i sl lc job : Nat} (hsrc : u.src = .instr q i sl true lc job)
    (h : s.ctrApply p u.op u.num u.amount u.src = (true, t)) : s.updateAt p u = t.modSlot q i sl Slot.executed := by
  unfold Block.updateAt
  rw [h]
  simp only [Block.updBound, hsrc, Block.verdict]
  rfl

theorem Block.updateAt_refused {u : SyncUpd} {t : Block} {q i sl lc job : Nat} (hsrc : u.src = .instr q i sl true lc job)
    (h : s.ctrApply p u.op u.num u.amount u.src = (false, t)) : s.updateAt p u = t := by
  unfold Block.updateAt
  rw [h]
  simp [Block.updBound, hsrc]

variable {op : CtrOp} {n amount lc job : Nat} (hwf : smWf {} s.syncs = true)
include hwf

theorem Block.landed_syn : (s.landed p).syn p = { s.syn p with inflight := [] } := Block.syn_modSyn_self p _ hwf

theorem Block.landed_wf : smWf {} (s.landed p).syncs = true := Block.modSyn_wf p _ hwf

theorem Block.counted_syn (v : Nat) : (s.counted p n v).syn p =
    { s.syn p with ctrs := smPut 0 (s.syn p).ctrs n v, ctrWaits := smPut [] (s.syn p).ctrWaits n [] } := by
  rw [Block.counted, Block.syn_modSyn_self p _ (Block.modSyn_wf p _ hwf), Block.syn_modSyn_self p _ hwf]

variable (hin : (s.syn p).inflight = [{ op := op, num := n, amount := amount, src := .instr p i sl true lc job }])
include hin

/-- The update is applied, and its slot goes on (R214, R220). -/
theorem Block.counterUpdate_applies (hw : smGet [] (s.syn p).ctrWaits n = []) (h : op.Fits ((s.syn p).ctr n) amount) :
    s.counterUpdate p [0] = ((s.landed p).counted p n (op.result ((s.syn p).ctr n) amount)).modSlot p i sl Slot.executed := by
  have hsyn := Block.landed_syn (p := p) hwf
  have hctr : ((s.landed p).syn p).ctr n = (s.syn p).ctr n := by rw [hsyn]; rfl
  have happly := Block.ctrApply_applied (s := s.landed p) (p := p) (.instr p i sl true lc job) (Block.landed_wf hwf) (n := n) (by rw [hsyn]; exact hw)
    (by rw [hctr]; exact h)
  rw [Block.counterUpdate_alone hin rfl, Block.updateAt_applied rfl happly, hctr]

/-- The update is refused, and its slot faults (R215). -/
theorem Block.counterUpdate_refuses (h : ¬ op.Fits ((s.syn p).ctr n) amount) :
    s.counterUpdate p [0] = (s.refused p op.refusal ⟨0, op.refusal, lc, n, s.pkgn, job, amount, (s.syn p).ctr n⟩).coreFault p i sl .sync
      (op.refusal * 4096 + s.ctrOwn p sl n) := by
  have hctr : ((s.landed p).syn p).ctr n = (s.syn p).ctr n := by rw [Block.landed_syn hwf]; rfl
  have happly := Block.ctrApply_refused (s := s.landed p) (p := p) (.instr p i sl true lc job) (n := n) (by rw [hctr]; exact h)
  rw [Block.counterUpdate_alone hin rfl, Block.updateAt_refused rfl happly, Block.syncFault_precise, hctr]
  rfl

end

/-! What stands after a refused update but for its slot's fault. -/

section
variable {s : Block} {p kind : Nat} {r : SyncRec}

theorem Block.refused_slots : (s.refused p kind r).slots = s.slots := by
  rw [Block.refused, Block.raise_slots, (Block.syncNoted_frame ..).1, Block.log_slots]
  rfl

theorem Block.refused_cores : (s.refused p kind r).cores = s.cores := by
  rw [Block.refused, Block.raise_cores, (Block.syncNoted_frame ..).2.1, Block.log_cores]
  rfl

theorem Block.refused_noted_pages : (((s.landed p).log (.sync p) (kind - 1)).syncNoted p r).pages = ((s.landed p).log (.sync p) (kind - 1)).pages :=
  (Block.syncNoted_frame ..).2.2.1

theorem Block.refused_causesKept : CausesKept s.pages (((s.landed p).log (.sync p) (kind - 1)).syncNoted p r).pages := by
  rw [Block.refused_noted_pages]
  exact Block.log_causesKept _ _ _ (.refl _)

theorem Block.refused_pages_wf (hwf : smWf {} s.pages = true) : smWf {} (s.refused p kind r).pages = true :=
  (Block.raise_causesKept _ _ _ Block.refused_causesKept).wf hwf

theorem Block.refused_syn (hwf : smWf {} s.syncs = true) : (s.refused p kind r).syn p =
    { s.syn p with inflight := [], fault := if (s.syn p).fault.isSome then (s.syn p).fault else some r } := by
  rw [Block.refused, Block.raise_syn, Block.syncNoted_syn p r (by rw [Block.log_syncs]; exact Block.landed_wf hwf), Block.log_syn,
    Block.landed_syn hwf]

theorem Block.refused_counts (m : Fin 10) (hm : kind - 1 = m) (hf : (s.hdr (.sync p)).freeze = false) (hwf : smWf 0 s.logs = true) :
    (s.refused p kind r).syncCounts p m = sat16 (s.syncCounts p m) := by
  have hnoted := Block.syncCounts_congr (p := p) (Block.syncNoted_frame (s := (s.landed p).log (.sync p) m) p r).2.2.2
  rw [Block.refused, Block.raise_syncCounts, hm, hnoted]
  exact Block.log_sync_counts (s := s.landed p) m hf hwf

theorem Block.refused_causeSet_core (i : Nat) (sl : Fin 2) : (s.refused p kind r).causeSet (.core p i) sl = s.causeSet (.core p i) sl := by
  have hkey : (Page.core p i).key ≠ (Page.sync p).key := by simp only [Page.key, Page.loc]; omega
  rw [Block.refused, Block.raise_causeSet_ne _ _ rfl hkey, Block.causeSet, Block.hdr, Block.refused_noted_pages]
  exact Block.log_causeSet_low _ _ _ _

end

/-- COUNTER_UPDATE acts while the package is on. -/
theorem exec_counterUpdate {s : State} {p : Fin 12} {ks : List Nat} (hon : s.blk.boot.power = .on) :
    exec (.counterUpdate p ks) s = .next (s.withBlk (s.blk.counterUpdate p ks)) := State.onBlock_live hon _

/-- Settles O28: an update that fits is applied; one that does not is refused, and its slot faults. -/
theorem counterUpdatesApplyOrFault : Obligations.CounterUpdatesApplyOrFault := by
  unfold Obligations.CounterUpdatesApplyOrFault
  intro s p i sl op n amount lc job b u v hon hin hw hsyncs hctrs hslots hcores hpages hlogs kind ok new
  have hfits : ok ↔ op.Fits v amount := by cases op <;> rfl
  have hnew : new = op.result v amount := by cases op <;> rfl
  refine ⟨fun hok => ⟨_, exec_counterUpdate hon, ?_⟩, fun hok => ⟨_, exec_counterUpdate hon, ?_⟩⟩
  · have hrise := ((smWf_iff 0 _).1 hctrs).1
    have hsyn : (b.counterUpdate p [0]).syn p =
        { b.syn p with inflight := [], ctrs := smPut 0 (b.syn p).ctrs n new, ctrWaits := smPut [] (b.syn p).ctrWaits n [] } := by
      rw [Block.counterUpdate_applies hsyncs hin hw (hfits.1 hok), Block.modSlot_syn, Block.counted_syn (Block.landed_wf hsyncs),
        Block.landed_syn hsyncs, hnew]
    refine ⟨?_, fun m hm => ?_, ?_, ?_⟩
    · rw [hsyn]
      exact smGet_put_self 0 n new hrise
    · rw [hsyn]
      exact smGet_put_ne 0 new hm
    · rw [hsyn]
    · rw [Block.counterUpdate_applies hsyncs hin hw (hfits.1 hok)]
      exact smGet_mod_self ({} : Slot) (slotKey p i sl) _ hslots
  · have hkind : kind - 1 = (if op = .sub then (0 : Fin 10) else 1) := by cases op <;> rfl
    let r : SyncRec := ⟨0, kind, lc, n, b.pkgn, job, amount, v⟩
    have hupd : b.counterUpdate p [0] = (b.refused p kind r).coreFault p i sl .sync (kind * 4096 + b.ctrOwn p sl n) :=
      Block.counterUpdate_refuses hsyncs hin (mt hfits.2 hok)
    have hsyn : (b.counterUpdate p [0]).syn p =
        { b.syn p with inflight := [], fault := if (b.syn p).fault.isSome then (b.syn p).fault else some r } := by
      rw [hupd, Block.coreFault_syn, Block.refused_syn hsyncs]
    have hslot : (b.refused p kind r).slot p i sl = b.slot p i sl := by rw [Block.slot, Block.refused_slots, Block.slot]
    have hcore : (b.refused p kind r).core p i = b.core p i := by rw [Block.core, Block.refused_cores, Block.core]
    refine ⟨fun m => by rw [hsyn]; rfl, ?_, by rw [hsyn], fun hf => ?_, ?_, ?_, by rw [hsyn], fun hc => ?_⟩
    · rw [hupd, Block.coreFault_sync_slot _ _ _ _ (by rw [Block.refused_slots]; exact hslots), hslot]
    · rw [hupd, hkind]
      exact (congrFun (Block.coreFault_sync_syncCounts (p := p) p i sl _) _).trans (Block.refused_counts _ hkind hf hlogs)
    · rw [hupd]
      exact Block.raise_causeSet_kept _ (by decide) (Block.refused_causesKept.wf hpages) (Block.coreFault_sync_causesKept ..)
    · rw [hupd]
      exact Block.coreFault_sync_causeSet _ _ _ (by omega) (Block.refused_pages_wf hpages)
    · rw [hupd, Block.coreFault_sync_core _ _ _ _ (by rw [Block.refused_causeSet_core]; exact hc) (by rw [Block.refused_cores]; exact hcores),
        hslot]
      exact ⟨rfl, rfl, rfl, rfl, rfl⟩

end Sys2Proof.Machine
end

section
/-! BARRIER_ARRIVAL, BARRIER_ARM_WRITE, BARRIER_TIMEOUT, SYNC_SURVEY and SURVEY_COMPLETE (R217, R218, R222). -/

namespace Sys2Proof.Machine

/-! The commands. -/

section
variable {s : State} {p : Fin 12}

theorem exec_barrierArrival {ks : List Nat} (hon : s.blk.boot.power = .on) :
    exec (.barrierArrival p ks) s = .next (s.withBlk (s.blk.barrierArrival p ks)) := State.onBlock_live hon _

theorem exec_barrierArmWrite {req : Requester} {n : Fin 256} {count timeout : BitVec 16} (hon : s.blk.boot.power = .on)
    (hw : s.blk.MayWrite (.sync p) req) :
    exec (.barrierArmWrite p req n count timeout) s = .next (s.withBlk (s.blk.barWrite p n count.toNat timeout.toNat)) :=
  (State.onBlock_live hon _).trans (by rw [Block.guard_open _ _ _ hw])

theorem exec_barrierTimeout {n : Fin 256} (hon : s.blk.boot.power = .on) :
    exec (.barrierTimeout p n) s = .next (s.withBlk (s.blk.barTimeout p n)) := State.onBlock_live hon _

theorem exec_syncSurvey {req : Requester} (hon : s.blk.boot.power = .on) (hreq : req ≠ .job) :
    exec (.syncSurvey p req) s = .next (s.withBlk (s.blk.surveyStart p 0 0)) :=
  (State.onBlock_live hon _).trans (by rw [Block.guardW_open _ hreq])

theorem exec_surveyComplete {unc : Bool} (hon : s.blk.boot.power = .on) :
    exec (.surveyComplete p unc) s = .next (s.withBlk (s.blk.surveyDone p unc)) := State.onBlock_live hon _

end

section
variable {s : Block} {p n : Nat}

/-! Arrivals. -/

/-- The barrier after one more arrival (R217). -/
def Bar.arrive (y : Bar) : Bar :=
  if y.arrived + 1 = y.count then { y with gen := (y.gen + 1) % 65536, arrived := 0, ticks := 0 } else { y with arrived := y.arrived + 1 }

/-- With no waiter a completed generation only renews the canonical form of the waiters. -/
theorem Block.releaseWaiters_none (h : smGet [] (s.syn p).barWaits n = []) :
    s.releaseWaiters p n = s.modSyn p fun y => { y with barWaits := smPut [] y.barWaits n [] } := by
  unfold Block.releaseWaiters
  rw [h]
  rfl

theorem Block.barArrive_gen (src : SyncSrc) : (s.barArrive p n src).1 = ((s.syn p).bar n).gen := by
  unfold Block.barArrive
  dsimp only
  split <;> rfl

theorem Block.barArrive_slots (src : SyncSrc) (hw : smGet [] (s.syn p).barWaits n = []) (hrel : ((s.syn p).bar n).relEn = false)
    (hwf : smWf {} s.syncs = true) : (s.barArrive p n src).2.slots = s.slots := by
  unfold Block.barArrive
  dsimp only
  split
  · rw [hrel, Block.releaseWaiters_none (by rw [Block.syn_modSyn_self p _ hwf]; exact hw)]
    rfl
  · rfl

theorem Block.barArrive_bars (src : SyncSrc) (hw : smGet [] (s.syn p).barWaits n = []) (hrel : ((s.syn p).bar n).relEn = false)
    (hwf : smWf {} s.syncs = true) :
    ((s.barArrive p n src).2.syn p).bars = smPut {} (s.syn p).bars n ((s.syn p).bar n).arrive := by
  unfold Block.barArrive Bar.arrive
  dsimp only
  split
  · rw [hrel, Block.releaseWaiters_none (by rw [Block.syn_modSyn_self p _ hwf]; exact hw)]
    rw [if_neg (by decide), Block.syn_modSyn_self p _ (Block.modSyn_wf p _ hwf), Block.syn_modSyn_self p _ hwf]
  · rw [Block.syn_modSyn_self p _ hwf]

/-- A waiting BAR.ARRIVE at an armed barrier arrives, takes its generation and goes on (R217). -/
theorem Block.arriveAt_armed {u : SyncUpd} {q i sl lc job : Nat} (hsrc : u.src = .instr q i sl true lc job) (hsync : u.sync = false)
    (harmed : ((s.syn p).bar u.num).state = .armed) : s.arriveAt p u =
      (s.barArrive p u.num u.src).2.modSlot q i sl fun t => (t.setS u.reg ((s.syn p).bar u.num).gen).resume := by
  unfold Block.arriveAt
  dsimp only
  rw [harmed, hsrc]
  dsimp only
  rw [hsync, Block.barArrive_gen, if_neg (by decide)]

/-- The one arrival in flight reaches its barrier (R217). -/
theorem Block.barrierArrival_alone {u : SyncUpd} {q i sl lc job : Nat} (hin : (s.syn p).inflight = [u]) (hbar : u.bar = true)
    (hsrc : u.src = .instr q i sl true lc job) : s.barrierArrival p [0] = (s.landed p).arriveAt p u := by
  have htake : takeAt [u] [0] = ([u], []) := rfl
  unfold Block.barrierArrival
  rw [hin, htake]
  simp [hbar, arrivalOrder, putInOrder, Block.landed, Block.updBound, hsrc]

/-! Arming. -/

/-- The barrier after a change of it alone. -/
theorem Block.modBar_bar (f : Bar → Bar) (hwf : smWf {} s.syncs = true) (hbars : smWf {} (s.syn p).bars = true) :
    ((s.modSyn p fun y => { y with bars := smMod {} y.bars n f }).syn p).bar n = f ((s.syn p).bar n) := by
  rw [Block.syn_modSyn_self p _ hwf]
  exact smGet_mod_self ({} : Bar) n f hbars

/-- A barrier TIMED_OUT takes COUNT and TIMEOUT, and stays so (assumption log 193). -/
theorem Block.barWrite_timedOut {count : Nat} (timeout : Nat) (hc : 2 ≤ count) (hst : ((s.syn p).bar n).state = .timedOut) :
    s.barWrite p n count timeout =
      s.modSyn p fun y => { y with bars := smMod {} y.bars n fun z => { z with count := count, timeout := timeout } } := by
  have hmax : Nat.max 2 count = count := Nat.max_eq_right hc
  unfold Block.barWrite
  rw [if_pos ⟨by omega, hst⟩, if_neg (by omega), hmax]

theorem Block.barWrite_arms {count : Nat} (timeout : Nat) (hc : 2 ≤ count) (hst : ((s.syn p).bar n).state ≠ .timedOut) :
    s.barWrite p n count timeout = s.armBar p n count timeout := by
  unfold Block.barWrite
  rw [if_neg (by simp [hst]), if_neg (by omega), if_neg (by omega)]

/-! The timeout. -/

/-- The partition with barrier `n` TIMED_OUT. -/
def Block.barEnded (s : Block) (p n : Nat) : Block :=
  s.modSyn p fun z => { z with bars := smPut {} z.bars n { (s.syn p).bar n with state := .timedOut } }

/-- A timeout with no waiter and no automatic survey (R218). -/
theorem Block.barTimeout_ends (hwf : smWf {} s.syncs = true) (harmed : ((s.syn p).bar n).state = .armed)
    (htimeout : ((s.syn p).bar n).timeout ≠ 0) (harrived : ((s.syn p).bar n).arrived ≠ 0)
    (hticks : ((s.syn p).bar n).timeout < ((s.syn p).bar n).ticks) (hw : smGet [] (s.syn p).barWaits n = [])
    (hauto : bit (s.reg (.sync p) 0x044) 1 = false) :
    s.barTimeout p n = (((s.barEnded p n).log (.sync p) 3).raise (.sync p) 1).modSyn p fun z =>
      { z with barWaits := smPut [] z.barWaits n [] } := by
  have hwaits : smGet [] ((((s.barEnded p n).log (.sync p) 3).raise (.sync p) 1).syn p).barWaits n = [] := by
    rw [Block.raise_syn, Block.log_syn, Block.barEnded, Block.syn_modSyn_self p _ hwf]
    exact hw
  have hreg : bit (((((s.barEnded p n).log (.sync p) 3).raise (.sync p) 1).modSyn p fun z =>
      { z with barWaits := smPut [] z.barWaits n [] }).reg (.sync p) 0x044) 1 = false := by
    rw [Block.reg_of_regs (s := s) (by simp [Block.barEnded]), hauto]
  unfold Block.barTimeout
  rw [if_pos ⟨harmed, htimeout, harrived, hticks⟩]
  dsimp only
  rw [← Block.barEnded, hwaits]
  exact if_neg (ne_true_of_eq_false hreg)

/-! What a cause raised on a page without platform events keeps. -/

/-- What a trace record and the page's new cause keep is kept (R36). -/
theorem Block.TraceKeeps.raise {P : Block → Prop} (K : Block.TraceKeeps P) {pg : Page} {k : Nat} (halarm : pg.alarms = false) (h : P s)
    (hirq : P (s.modIrq pg fun h => { h with irqStat := h.irqStat ||| BitVec.ofNat 32 (2 ^ k) })) : P (s.raise pg k) := by
  have hevent (t : Block) : t.event pg k = t := by simp [Block.event, halarm]
  unfold Block.raise Block.raise0
  split
  · exact h
  · rw [hevent]
    exact K.trace hirq _ _ _

/-- Trace records and Logbook counters keep the canonical form of the Logbook. -/
theorem Block.traceKeeps_logsWf : Block.TraceKeeps fun t => smWf 0 t.logs = true where
  ram _ h := h
  modMsc _ _ h := h
  modHbmc _ _ h := h
  modCapc _ _ h := h
  log pg m h := by
    unfold Block.log
    dsimp only
    split_ifs
    · exact h
    · rw [Block.modIrq_logs]
      exact smWf_put 0 _ _ h
    · exact smWf_put 0 _ _ h
  logN pg m k h := by
    unfold Block.logN
    dsimp only
    split_ifs
    · exact h
    · rw [Block.modIrq_logs]
      exact smWf_put 0 _ _ h
    · exact smWf_put 0 _ _ h
  eyep _ h := h
  fv _ h := h
  emit _ h := h
  wrapped h := by
    rw [Block.modIrq_logs]
    exact h

theorem Block.raise_sync_logsWf (k : Nat) (hwf : smWf 0 s.logs = true) : smWf 0 (s.raise (.sync p) k).logs = true :=
  Block.traceKeeps_logsWf.raise rfl hwf (by rw [Block.modIrq_logs]; exact hwf)

theorem Block.raise_sync_freeze {k : Nat} (hk : BitVec.ofNat 32 (2 ^ k) ≠ 0) :
    ((s.raise (.sync p) k).hdr (.sync p)).freeze = (s.hdr (.sync p)).freeze := by
  have hrest := (Block.traceKeeps_hdrRest s.hdrRest).raise (pg := .sync p) (k := k) rfl rfl (Block.modIrq_hdrRest _ _ hk)
  have hfreeze := congrArg PageHdr.freeze (congrFun hrest (Page.sync p).key)
  exact hfreeze

/-! Surveys. -/

/-- The partition with its survey taken. -/
def Block.surveyed (s : Block) (p : Nat) : Block := s.modSyn p fun y => { y with busy := false, survey := none }

theorem Block.surveyDone_writes {bs : List Nat} (h : (s.syn p).survey = some bs)
    (hacc : s.canAccess (s.pair (.sync p) 0x048 0x04C 15) bs.length = true) :
    s.surveyDone p false = ((s.surveyed p).memWrite (s.pair (.sync p) 0x048 0x04C 15) bs).raise (.sync p) 2 := by
  have hgo : (!s.canAccess (s.pair (.sync p) 0x048 0x04C 15) bs.length) = false := by simp [hacc]
  unfold Block.surveyDone
  rw [h]
  exact if_neg (ne_true_of_eq_false hgo)

theorem Block.surveyDone_fails {bs : List Nat} {unc : Bool} (h : (s.syn p).survey = some bs)
    (hfail : unc = true ∨ s.canAccess (s.pair (.sync p) 0x048 0x04C 15) bs.length = false) :
    s.surveyDone p unc = ((s.surveyed p).raise (.sync p) 3).log (.sync p) 8 := by
  have hstop : (unc || !s.canAccess (s.pair (.sync p) 0x048 0x04C 15) bs.length) = true := by simpa using hfail
  unfold Block.surveyDone
  rw [h]
  exact if_pos hstop

end

/-- Settles O29: a generation completes at its last arrival; barriers are armed and time out; surveys are taken and written. -/
theorem barrierGenerationCompletes : Obligations.BarrierGenerationCompletes := by
  unfold Obligations.BarrierGenerationCompletes
  intro s p i sl n r lc job req count timeout b u y counted hon hsyncs hbars hslots hpages hlogs
  refine ⟨fun hin hw harmed hrel => ⟨_, exec_barrierArrival hon, ?_⟩, fun hmay hc => ⟨_, exec_barrierArmWrite hon hmay, ?_⟩,
    fun hmay hc => ⟨_, exec_barrierArmWrite hon hmay, ?_⟩,
    fun harmed htimeout harrived hticks hw hauto => ⟨_, exec_barrierTimeout hon, ?_⟩,
    fun hreq hbusy => ⟨_, exec_syncSurvey hon hreq, ?_⟩, fun bs hsurvey => ?_⟩
  · have hsyn := Block.landed_syn (s := b) (p := p) hsyncs
    have hlanded := Block.landed_wf (s := b) (p := p) hsyncs
    have hbar : ((b.landed p).syn p).bar n = y := by rw [hsyn]; rfl
    have hwaits : smGet [] ((b.landed p).syn p).barWaits n = [] := by rw [hsyn]; exact hw
    have harrive := Block.arriveAt_armed (s := b.landed p) (p := p) (u := u) rfl rfl (by rw [hbar]; exact harmed)
    rw [Block.barrierArrival_alone hin rfl rfl, harrive]
    refine ⟨?_, ?_⟩
    · rw [Block.modSlot_syn, Sync.bar, Block.barArrive_bars _ hwaits (by rw [hbar]; exact hrel) hlanded, hbar, hsyn]
      exact smGet_put_self ({} : Bar) n _ ((smWf_iff ({} : Bar) _).1 hbars).1
    · rw [Block.slot, Block.modSlot_slots, Block.barArrive_slots _ hwaits (by rw [hbar]; exact hrel) hlanded, hbar]
      exact smGet_mod_self ({} : Slot) (slotKey p i sl) _ hslots
  · split
    · rename_i hst
      rw [Block.barWrite_timedOut _ hc hst]
      exact Block.modBar_bar _ hsyncs hbars
    · rename_i hst
      rw [Block.barWrite_arms _ hc hst]
      exact Block.modBar_bar _ hsyncs hbars
  · rw [hc]
    exact Block.modBar_bar _ hsyncs hbars
  · have hcounts := Block.log_sync_counts (s := b.barEnded p n) (p := p) 3
    rw [Block.barTimeout_ends hsyncs harmed htimeout harrived hticks hw hauto]
    refine ⟨?_, ?_, fun hf => ?_⟩
    · rw [Block.syn_modSyn_self p _ (by simp only [Block.raise_syncs, Block.log_syncs]; exact Block.modSyn_wf p _ hsyncs), Block.raise_syn,
        Block.log_syn, Block.barEnded, Block.syn_modSyn_self p _ hsyncs]
      exact smGet_put_self ({} : Bar) n _ ((smWf_iff ({} : Bar) _).1 hbars).1
    · exact Block.raise_causeSet (s := (b.barEnded p n).log (.sync p) 3) (by decide) ((Block.log_causesKept _ (.sync p) 3 (.refl _)).wf hpages)
    · exact (congrFun (Block.raise_syncCounts (p := p) (.sync p) 1) 3).trans (hcounts hf hlogs)
  · have hstart : b.surveyStart p 0 0 = (b.modSyn p fun y =>
        { y with busy := true, survey := some (b.surveyBytes p 0 0), seq := (y.seq + 1) % 2 ^ 32 }).log (.sync p) 6 :=
      if_neg (by rw [hbusy]; decide)
    rw [hstart, Block.log_syn, Block.syn_modSyn_self p _ hsyncs]
    exact ⟨rfl, rfl, fun hf => Block.log_sync_counts (s := b.modSyn p _) (p := p) 6 hf hlogs⟩
  · intro a b1
    refine ⟨fun hacc => ⟨_, exec_surveyComplete hon, ?_⟩, fun unc hfail => ⟨_, exec_surveyComplete hon, ?_⟩⟩
    · have hrest := (b.surveyed p).memWrite_tierRest a bs false []
      have hregs : ((b.surveyed p).memWrite a bs).regs = b.regs := (congrArg Block.regs hrest :)
      have hkept := (FrameKept.refl (b.surveyed p)).memWrite a bs false .normal .none []
      rw [Block.surveyDone_writes hsurvey hacc]
      refine ⟨?_, fun hoff => ?_, ?_⟩
      · rw [Block.raise_syncs]
        exact (congrArg Block.syncs hrest :)
      · exact Block.raise_ram_off (by rw [Block.reg_of_regs hregs]; exact hoff) _ _
      · exact Block.raise_causeSet (s := (b.surveyed p).memWrite a bs) (by decide) (hkept.pages hpages).1
    · have hcounts := Block.log_sync_counts (s := (b.surveyed p).raise (.sync p) 3) (p := p) 8
      rw [Block.surveyDone_fails hsurvey hfail]
      refine ⟨by rw [Block.log_syncs, Block.raise_syncs]; rfl, ?_, fun hf => ?_⟩
      · exact Block.raise_causeSet_kept (b.surveyed p) (by decide) hpages (Block.log_causesKept _ _ _ (.refl _))
      · exact (hcounts (by rw [Block.raise_sync_freeze (by decide)]; exact hf) (Block.raise_sync_logsWf 3 hlogs)).trans
          (congrArg sat16 (congrFun (Block.raise_syncCounts (p := p) (.sync p) 3) 8))

end Sys2Proof.Machine
end

section
/-! Atomics at their homes, in memory that the caches agree with (R168, R219, Table 8.4). -/

namespace Sys2Proof.Machine

/-! Small aligned ranges lie inside one protected unit. -/

/-- The protected unit that holds home number `a`. -/
def unitOf (a : Nat) : Nat := a / unitSize a * unitSize a

/-- A tier begins and ends at a unit's bound. -/
theorem unitSize_unitOf (a : Nat) : unitSize (unitOf a) = unitSize a := by
  have hlow (h : a < 2 ^ 40) : unitSize (a / 64 * 64) = 64 := if_pos (by omega)
  have hcap (h : ¬ a < 2 ^ 40) (h' : a < 2 ^ 41) : unitSize (a / 128 * 128) = 128 := by
    unfold unitSize
    rw [if_neg (by omega), if_pos (by omega)]
  have hsram (h : ¬ a < 2 ^ 41) : unitSize (a / 8 * 8) = 8 := unitSize_high (by omega)
  unfold unitOf
  conv => lhs; arg 1; unfold unitSize
  conv => rhs; unfold unitSize
  split_ifs with h h'
  · exact hlow h
  · exact hcap h h'
  · exact hsram h'

/-- A unit is one or more words of 8 bytes. -/
theorem unitSize_words (a : Nat) : ∃ k, unitSize a = 8 * (k + 1) := by
  unfold unitSize
  split_ifs
  · exact ⟨7, rfl⟩
  · exact ⟨15, rfl⟩
  · exact ⟨0, rfl⟩

/-- Inside a line, homes are numbered as addresses are (R149). -/
theorem homeOf_num_mod {t : Tiers} {a : Nat} {h : Home} (ha : homeOf t a = some h) : h.num % 128 = a % 128 := by
  have hnum {c : Prop} [Decidable c] {g : Home} (hg : g.num % 128 = a % 128) (he : (if c then none else some g) = some h) :
      h.num % 128 = a % 128 := by
    split at he
    · exact absurd he nofun
    · rw [← Option.some.inj he]
      exact hg
  have hnum' {c : Prop} [Decidable c] {g : Home} (hg : g.num % 128 = a % 128) (he : (if c then some g else none) = some h) :
      h.num % 128 = a % 128 := by
    split at he
    · rw [← Option.some.inj he]
      exact hg
    · exact absurd he nofun
  unfold homeOf at ha
  dsimp only at ha
  split at ha
  · split at ha
    · exact hnum (by simp only [Home.num, stackBytes]; omega) ha
    · exact hnum (by simp only [Home.num, stackBytes]; omega) ha
    · exact hnum (by simp only [Home.num, stackBytes]; omega) ha
  · split at ha
    · exact hnum' (by simp only [Home.num]; omega) ha
    · split at ha
      · exact hnum' rfl ha
      · split at ha
        · exact hnum' rfl ha
        · exact absurd ha nofun

/-- The `n` bytes at `pa`, whose home is `h`, are what an atomic can be on: an aligned word of 4 or 8 bytes (R219). -/
structure Block.WordAt (s : Block) (pa n : Nat) (h : Home) : Prop where
  home : homeOf s.tiers pa = some h
  size : n = 4 ∨ n = 8
  aligned : pa % n = 0

section
variable {s : Block} {pa n : Nat} {h : Home} (hw : s.WordAt pa n h)
include hw

theorem Block.WordAt.of_tiers {t : Block} (ht : t.tiers = s.tiers) : t.WordAt pa n h := ⟨by rw [ht]; exact hw.home, hw.size, hw.aligned⟩

/-- Such a word is one piece. -/
theorem Block.WordAt.pieces : piecesOf pa n = [(pa, n)] := by
  obtain ⟨-, rfl | rfl, hal⟩ := hw
  · exact piecesOf_inLine (by omega) (by omega)
  · exact piecesOf_inLine (by omega) (by omega)

/-- Such a word lies inside one unit. -/
theorem Block.WordAt.inUnit {bs : List Nat} (hbs : bs.length = n) : InUnit h.num (unitOf h.num) bs := by
  obtain ⟨hhome, hsize, hal⟩ := hw
  have hmod := homeOf_num_mod hhome
  obtain ⟨k, hk⟩ := unitSize_words h.num
  have hdiv := Nat.div_add_mod' h.num (unitSize h.num)
  have hrest : h.num % unitSize h.num % 8 = h.num % 8 := Nat.mod_mod_of_dvd _ ⟨k + 1, hk⟩
  have hlt := Nat.mod_lt h.num (show 0 < unitSize h.num by omega)
  have hfits : h.num % unitSize h.num + bs.length ≤ unitSize h.num := by
    rw [hbs]
    obtain rfl | rfl := hsize <;> omega
  exact ⟨by omega, Nat.mul_mod_left _ _, by unfold unitOf; omega, by unfold unitOf; omega, unitSize_unitOf _⟩

/-! What accesses to such a word are at its home. -/

theorem Block.WordAt.memBytes : s.memBytes pa n = s.ram.bytes h.num n := by
  unfold Block.memBytes
  rw [hw.pieces]
  simp [hw.home]

theorem Block.WordAt.memPoisoned {r : Ram} (hs : s.HoldsMem r) : s.memPoisoned pa n = r.poisoned h.num n := by
  unfold Block.memPoisoned
  rw [hw.pieces]
  simp [hw.home, hs.homePoisoned_eq hw.home]

/-- A marker in memory is poison, whatever the caches hold. -/
theorem Block.WordAt.memPoisoned_of_marked (hp : s.ram.poisoned h.num n = true) : s.memPoisoned pa n = true := by
  unfold Block.memPoisoned Block.homePoisoned
  rw [hw.pieces]
  simp [hw.home, hp]

theorem Block.WordAt.memWrite {bs : List Nat} (hbs : bs.length = n) (po : Bool) (hint : Hint) (ev : MemEvent) :
    s.memWrite pa bs po hint ev = s.writePiece h bs po hint ev := by
  have hclip : clipRanges [] (pa - pa) n = [] := rfl
  unfold Block.memWrite
  rw [hbs, hw.pieces, List.foldl_cons, List.foldl_nil, hw.home]
  dsimp only
  rw [hclip, Nat.sub_self, List.drop_zero, List.take_of_length_le hbs.le]

theorem Block.WordAt.poke {bs : List Nat} (hbs : bs.length = n) (po : Bool) :
    s.poke pa bs po = { s with ram := s.ram.write h.num bs po } := by
  unfold Block.poke Ram.store
  rw [hbs, hw.pieces, List.foldl_cons, List.foldl_nil, hw.home]
  dsimp only
  rw [Nat.sub_self, List.drop_zero, List.take_of_length_le hbs.le]

end

/-! Writes at a home that meet no physical error. -/

theorem Block.markKeep_tierRest (s : Block) (p k : Nat) : (s.markKeep p k).tierRest = s.tierRest := by
  unfold Block.markKeep
  split
  · split
    · rfl
    · simp
  · rfl

/-- A write at a home changes memory, the controllers on the way and their Logbook counters alone, whatever its hint. -/
theorem Block.writePiece_tierRest_hint (s : Block) (h : Home) (bs : List Nat) (po : Bool) (hint : Hint) :
    (s.writePiece h bs po hint .none).tierRest = s.tierRest := by
  cases h with
  | cap d x => exact s.writePiece_tierRest (.cap d x) bs po []
  | sram x => rfl
  | hbm p x =>
    have hlast : (if hint = .lastUse then s.log (.msc p) 7 else s).tierRest = s.tierRest := by split <;> simp
    show (s.mscWrite p x bs po hint .none).tierRest = s.tierRest
    unfold Block.mscWrite
    dsimp only
    rw [show s.mscEvent p x .none = s from rfl, ← hlast]
    generalize (if hint = Hint.lastUse then s.log (.msc p) 7 else s) = t
    split
    · split
      · simp
      · rw [Block.touch_tierRest, Block.markKeep_tierRest]
        simp
      · simp
    · split
      · split <;> simp [Block.hbmEvent]
      · have hfill := (t.modMsc p fun m => { m with misses := m.misses + 1 }).fillEv_tierRest p x (decide (bs.length < 128)) (decide (hint = .keep))
        split <;> rename_i he <;> rw [he] at hfill
        · exact hfill
        · exact hfill

theorem Block.HoldsMem.capLineWrite {s : Block} {r : Ram} (hs : s.HoldsMem r) (d x : Nat) (bs : List Nat) (po : Bool) :
    (s.capLineWrite d x bs po).HoldsMem (r.write (2 ^ 40 + d * 2 ^ 36 + x) bs po) := by
  have hwrite := ((hs.useCheck d x true).modCapc d fun c => { c with wrLines := c.wrLines + 1 }).writeMarked (2 ^ 40 + d * 2 ^ 36 + x) bs po
  unfold Block.capLineWrite
  dsimp only
  split
  · exact hwrite.log _ _
  · exact hwrite

/-- A write at a home is a plain write of memory, and the caches go on agreeing with it. -/
theorem Block.HoldsMem.writePiece {s : Block} {r : Ram} (hs : s.HoldsMem r) {t : Tiers} {a : Nat} {h : Home} (ha : homeOf t a = some h)
    (bs : List Nat) (po : Bool) (hint : Hint) : (s.writePiece h bs po hint .none).HoldsMem (r.write h.num bs po) := by
  cases h with
  | hbm p x => exact hs.mscWrite (homeOf_stack_lt ha) x bs po hint
  | sram x => exact hs.writeMarked x bs po
  | cap d x =>
    have hread : (if bs.length < 128 then (s.log (.capc d) 4).capLineRead d x else s).HoldsMem r := by
      split
      · exact (hs.log _ _).capLineRead d x
      · exact hs
    exact hread.capLineWrite d x bs po

/-! Memory under the read and the write of an atomic. -/

section
variable {r : Ram} {a u n : Nat} {bs : List Nat}

theorem Ram.poisoned_inUnit (h : InUnit a u bs) : r.poisoned a bs.length = smGet false r.poison u := by
  rw [Ram.poisoned, unitsOf_inside h.some h.begins h.from_ h.upto]
  simp

theorem Ram.bytes_congr {r' : Ram} (h : ∀ x, smGet 0 r'.mem x = smGet 0 r.mem x) : r'.bytes a n = r.bytes a n := by
  simp only [Ram.bytes, h]

/-- Bytes that are put where they stand change no byte. -/
theorem Ram.put_bytes_self (hwf : r.wf = true) (x : Nat) : smGet 0 (r.put a (r.bytes a n)).mem x = smGet 0 r.mem x := by
  have hrise : smRise r.mem = true := ((smWf_iff 0 _).1 ((Ram.wf_iff r).1 hwf).1).1
  by_cases hx : x < a ∨ a + (r.bytes a n).length ≤ x
  · exact smGet_putBytes_out a x _ hx
  · have hk : x - a < (r.bytes a n).length := by omega
    have hin := smGet_putBytes_in a (x - a) (r.bytes a n) hrise hk
    rw [List.getD_eq_getElem _ _ hk, show a + (x - a) = x by omega] at hin
    rw [Ram.put, hin]
    simp [Ram.bytes, show a + (x - a) = x by omega]

/-- A write of a word to a unit without a marker stores its bytes. -/
theorem Ram.write_unmarked (h : InUnit a u bs) (hwf : r.wf = true) (hc : r.poisoned a bs.length = false) : r.write a bs false = r.put a bs := by
  have hunit := (smWf_iff false _).1 ((Ram.wf_iff r).1 hwf).2
  rw [Ram.poisoned_inUnit h] at hc
  rw [Ram.write_unpoisoned h, if_neg (by simp [hc]), smPut_default false hunit.2 hc]
  rfl

/-- A word's own bytes, written back, change no byte of memory, whether its unit is marked or not. -/
theorem Ram.write_back_mem (h : InUnit a u (r.bytes a n)) (hwf : r.wf = true) (x : Nat) :
    smGet 0 (r.write a (r.bytes a n) false).mem x = smGet 0 r.mem x := by
  rw [Ram.write_unpoisoned h]
  split
  · rfl
  · exact Ram.put_bytes_self hwf x

/-- A poisoned write leaves its unit marked. -/
theorem Ram.write_marks (h : InUnit a u bs) (hwf : r.wf = true) : (r.write a bs true).poisoned a bs.length = true := by
  rw [Ram.poisoned_inUnit h, Ram.write_poisoned h]
  exact smGet_put_self false u _ ((smWf_iff false _).1 ((Ram.wf_iff r).1 hwf).2).1

end

/-! The atomic. -/

theorem Block.arrayEvent_none (s : Block) (a : Nat) : s.arrayEvent a .none = (s, .none) := by
  unfold Block.arrayEvent
  split <;> rfl

/-- Memory after the word at home number `a` is written back by an atomic that reads it. -/
def Ram.readBack (r : Ram) (a n : Nat) : Ram := r.write a (r.bytes a n) false

theorem Ram.readBack_wf {r : Ram} (a n : Nat) (h : r.wf = true) : (r.readBack a n).wf = true := Ram.wf_write _ _ _ h

/-- Memory after an atomic on the word at home number `a` (R219): the new value of Table 8.4, or the poison marker. -/
def Ram.atomic (r : Ram) (a op n data cmp : Nat) : Ram :=
  (r.readBack a n).write a (leBytes n (amoNew op n (leNat (r.bytes a n)) data cmp)) (r.poisoned a n)

section
variable {s : Block} {pa n op data cmp : Nat} {h : Home} (hw : s.WordAt pa n h) (hwf : s.ram.wf = true)
include hw hwf

theorem Block.WordAt.readBack_mem (x : Nat) : smGet 0 (s.ram.readBack h.num n).mem x = smGet 0 s.ram.mem x :=
  Ram.write_back_mem (hw.inUnit (Ram.bytes_length ..)) hwf x

theorem Block.WordAt.readBack_poisoned (hc : s.ram.poisoned h.num n = false) : (s.ram.readBack h.num n).poisoned h.num n = false := by
  have hlen := Ram.bytes_length s.ram h.num n
  rw [Ram.readBack, Ram.write_unmarked (hw.inUnit hlen) hwf (by rw [hlen, hc])]
  exact hc

/-- An atomic that meets no physical error: the old value, whether it is poison, and the block, which differs from the one before in memory,
the controllers on the way and their Logbook counters alone. -/
theorem Block.WordAt.atomicAt (hs : s.HoldsMem s.ram) (hint : Nat) : ∃ t : Block, s.atomicAt pa hint op n data cmp .none =
    (leNat (s.memBytes pa n), s.memPoisoned pa n, t) ∧ t.tierRest = s.tierRest ∧ t.ram = s.ram.atomic h.num op n data cmp := by
  have hlen : (s.memBytes pa n).length = n := by rw [hw.memBytes, Ram.bytes_length]
  set u := s.memWrite pa (s.memBytes pa n) false (hintOf hint) .none with hu
  have hpiece : u = s.writePiece h (s.ram.bytes h.num n) false (hintOf hint) .none := by
    rw [hu, hw.memWrite hlen, hw.memBytes]
  have hrest : u.tierRest = s.tierRest := by rw [hpiece, Block.writePiece_tierRest_hint]
  have hmem : u.HoldsMem (s.ram.readBack h.num n) := by
    rw [hpiece]
    exact hs.writePiece hw.home _ _ _
  have hwu : u.WordAt pa n h := hw.of_tiers (congrArg Block.tiers hrest :)
  have hold : u.memBytes pa n = s.memBytes pa n := by
    rw [hwu.memBytes, hmem.ram, hw.memBytes]
    exact Ram.bytes_congr (hw.readBack_mem hwf)
  have hpois : (s.memPoisoned pa n || u.memPoisoned pa n) = s.memPoisoned pa n := by
    rw [hw.memPoisoned hs, hwu.memPoisoned hmem]
    cases hc : s.ram.poisoned h.num n with
    | true => rfl
    | false => exact hw.readBack_poisoned hwf hc
  refine ⟨u.poke pa (leBytes n (amoNew op n (leNat (s.memBytes pa n)) data cmp)) (s.memPoisoned pa n), ?_, hrest, ?_⟩
  · unfold Block.atomicAt
    rw [Block.arrayEvent_none]
    dsimp only
    rw [if_neg (by decide), ← hu, hold, hpois, Bool.or_false]
  · rw [hwu.poke (leBytes_length ..), hw.memBytes, hw.memPoisoned hs, hmem.ram]
    rfl

/-! Memory after the atomic. -/

theorem Block.WordAt.atomic_clean (hc : s.ram.poisoned h.num n = false) : s.ram.atomic h.num op n data cmp =
    (s.ram.readBack h.num n).put h.num (leBytes n (amoNew op n (leNat (s.ram.bytes h.num n)) data cmp)) := by
  have hlen := leBytes_length n (amoNew op n (leNat (s.ram.bytes h.num n)) data cmp)
  rw [Ram.atomic, hc]
  exact Ram.write_unmarked (hw.inUnit hlen) (Ram.readBack_wf _ _ hwf) (by rw [hlen]; exact hw.readBack_poisoned hwf hc)

/-- A word free of poison takes the new value (Table 8.4). -/
theorem Block.WordAt.atomic_value (hc : s.ram.poisoned h.num n = false) :
    leNat ((s.ram.atomic h.num op n data cmp).bytes h.num n) = amoNew op n (leNat (s.ram.bytes h.num n)) data cmp % 2 ^ (8 * n) := by
  have hbytes (v : Nat) : ((s.ram.readBack h.num n).put h.num (leBytes n v)).bytes h.num n = leBytes n v := by
    have hput := Ram.put_bytes h.num (bs := leBytes n v) (Ram.readBack_wf h.num n hwf) (fun x hx => by
      obtain ⟨i, -, rfl⟩ := List.mem_map.1 hx
      exact Nat.mod_lt _ (by decide))
    rw [leBytes_length] at hput
    exact hput
  have hpow : 256 ^ n = 2 ^ (8 * n) := (pow_mul 2 8 n).symm
  rw [hw.atomic_clean hwf hc]
  exact (congrArg leNat (hbytes _)).trans ((leNat_leBytes _ _).trans (by rw [hpow]))

/-- No other byte changes. -/
theorem Block.WordAt.atomic_frame (hc : s.ram.poisoned h.num n = false) {x : Nat} (hx : x < h.num ∨ h.num + n ≤ x) :
    smGet 0 (s.ram.atomic h.num op n data cmp).mem x = smGet 0 s.ram.mem x := by
  rw [hw.atomic_clean hwf hc, ← hw.readBack_mem hwf x]
  exact smGet_putBytes_out h.num x _ (by rw [leBytes_length]; exact hx)

/-- A poisoned word stays marked. -/
theorem Block.WordAt.atomic_poisoned (hc : s.ram.poisoned h.num n = true) : (s.ram.atomic h.num op n data cmp).poisoned h.num n = true := by
  have hmarks := Ram.write_marks (hw.inUnit (leBytes_length n (amoNew op n (leNat (s.ram.bytes h.num n)) data cmp))) (Ram.readBack_wf h.num n hwf)
  rw [leBytes_length] at hmarks
  rw [Ram.atomic, hc]
  exact hmarks

end

end Sys2Proof.Machine
end

section
/-! AMO and AMO_PERFORM (R219, R223, Table 8.4). -/

namespace Sys2Proof.Machine

/-! AMO. -/

section
variable {s : Block} {p i sl w : Nat}

/-- The address of an AMO (Table 8.2). -/
def Slot.amoAddr (t : Slot) (w : Nat) : Nat := (t.a (bits w 45 4) + sext 24 (bits w 0 24)) % 2 ^ 64

/-- The bytes that an AMO is on. -/
def amoSize (w : Nat) : Nat := 4 * 2 ^ bits w 30 2

/-- The atomic of an AMO on an address of this package. -/
def Slot.amoAt (t : Slot) (w pa : Nat) : Amo :=
  ⟨pa, bits w 28 2, bits w 32 3, amoSize w, t.s (bits w 40 5) % 2 ^ (8 * amoSize w), t.s (bits w 35 5) % 2 ^ (8 * amoSize w), bits w 49 5, false⟩

/-- The ATOMIC packet of an AMO on an address of package `g`. -/
def Slot.amoPkt (t : Slot) (w g pa : Nat) : Pkt :=
  { kind := 3, hint := bits w 28 2, dst := g, job := t.job, addr := pa, operand := t.s (bits w 40 5) % 2 ^ (8 * amoSize w), op := bits w 32 3,
    size := bits w 30 2, data := if bits w 32 3 = 7 then leBytes 8 (t.s (bits w 35 5) % 2 ^ (8 * amoSize w)) else [] }

theorem Block.amo_misaligned (h : (s.slot p i sl).amoAddr w % amoSize w ≠ 0) : s.amo p i sl w = s.amoFault p i sl 7 := if_pos h

section
variable (ha : (s.slot p i sl).amoAddr w % amoSize w = 0)
include ha

theorem Block.amo_high (h : 2 ^ 57 ≤ (s.slot p i sl).amoAddr w) : s.amo p i sl w = s.amoFault p i sl 6 :=
  (if_neg (not_not.2 ha)).trans (if_pos h)

variable {g base size : Nat} {lw lx : Bool} {t : Block} (hlow : (s.slot p i sl).amoAddr w < 2 ^ 57)
  (ht : s.translate p sl none ((s.slot p i sl).amoAddr w) true false = (.package g base size lw lx, t))
include hlow ht

/-- An AMO whose address has a translation goes by where its page lies. -/
theorem Block.amo_translated : s.amo p i sl w =
    let pa := base + (s.slot p i sl).amoAddr w % size
    if t.isSelf g then
      if t.canAccess pa (amoSize w) then t.ret p i sl fun u => { u with amos := u.amos ++ [(s.slot p i sl).amoAt w pa] }
      else t.amoFault p i sl 6
    else if !t.reachable g then t.amoFault p i sl 6
    else if !t.xRoom g 0 then t.stall p i sl w .room
    else ((t.syncTrace p i sl).xIssue p ((s.slot p i sl).amoPkt w g pa) (.amo p i sl (bits w 49 5) (amoSize w))).modSlot p i sl fun u =>
      { u with wait := .verdict, waitWord := w } := by
  refine ((if_neg (not_not.2 ha)).trans (if_neg (Nat.not_le.2 hlow))).trans ?_
  rw [show s.translate p sl none (((s.slot p i sl).a (bits w 45 4) + sext 24 (bits w 0 24)) % 2 ^ 64) true false = _ from ht]
  rfl

theorem Block.amo_local (hself : t.isSelf g = true) (hacc : t.canAccess (base + (s.slot p i sl).amoAddr w % size) (amoSize w) = true) :
    s.amo p i sl w = t.ret p i sl fun u =>
      { u with amos := u.amos ++ [(s.slot p i sl).amoAt w (base + (s.slot p i sl).amoAddr w % size)] } :=
  (Block.amo_translated ha hlow ht).trans ((if_pos hself).trans (if_pos hacc))

theorem Block.amo_refused (hself : t.isSelf g = true) (hacc : t.canAccess (base + (s.slot p i sl).amoAddr w % size) (amoSize w) = false) :
    s.amo p i sl w = t.amoFault p i sl 6 :=
  (Block.amo_translated ha hlow ht).trans ((if_pos hself).trans (if_neg (ne_true_of_eq_false hacc)))

theorem Block.amo_remote (hself : t.isSelf g = false) (hreach : t.reachable g = true) (hroom : t.xRoom g 0 = true) :
    s.amo p i sl w = ((t.syncTrace p i sl).xIssue p ((s.slot p i sl).amoPkt w g (base + (s.slot p i sl).amoAddr w % size))
      (.amo p i sl (bits w 49 5) (amoSize w))).modSlot p i sl fun u => { u with wait := .verdict, waitWord := w } := by
  rw [Block.amo_translated ha hlow ht]
  simp [hself, hreach, hroom]

end

theorem Block.modSlot_congr {f g : Slot → Slot} (h : f (s.slot p i sl) = g (s.slot p i sl)) : s.modSlot p i sl f = s.modSlot p i sl g := by
  rw [Block.modSlot, smMod, Block.modSlot, smMod]
  exact congrArg (fun t => ({ s with slots := smPut {} s.slots (slotKey p i sl) t } : Block)) h

/-- A translation leaves the slots. -/
theorem Block.translate_slot {slot va : Nat} {eng : Option Nat} {wr x : Bool} :
    (s.translate p slot eng va wr x).2.slot p i sl = s.slot p i sl :=
  congrArg (fun m => smGet ({} : Slot) m (slotKey p i sl)) (congrArg (·.1) ((PlaceKept.refl s).translate p slot eng va wr x).view)

end

/-- The sign extension of an AMO's offset. -/
theorem sext_24 (x : BitVec 24) : sext 24 x.toNat = (x.signExtend 64).toNat := by
  have hmsb : x.msb = bit x.toNat 23 := by rw [BitVec.msb_eq_getLsbD_last, BitVec.getLsbD, Nat.testBit_eq_decide_div_mod_eq, bit]
  have hlt := x.isLt
  rw [BitVec.toNat_signExtend, hmsb, BitVec.toNat_setWidth, sext]
  cases bit x.toNat 23
  · simp only [Bool.false_eq_true, if_false]
    omega
  · simp only [if_true]
    omega

theorem Slot.amoAddr_eq (t : Slot) (w : BitVec 64) :
    t.amoAddr w.toNat = (BitVec.ofNat 64 (t.a (wordField w 45 4)) + (w.extractLsb' 0 24).signExtend 64).toNat := by
  rw [BitVec.toNat_add, BitVec.toNat_ofNat, Nat.mod_add_mod, Slot.amoAddr, bits_eq_wordField, bits_eq_wordField, ← sext_24]
  rfl

theorem amoSize_eq (w : BitVec 64) : amoSize w.toNat = 4 * 2 ^ wordField w 30 2 := by rw [amoSize, bits_eq_wordField]

/-! AMO_PERFORM. -/

section
variable {s : Block} {p i sl k : Nat}

/-- What poison at an atomic's location does beside memory (R376). -/
def Block.poisonSeen (s : Block) (p i : Nat) (pois : Bool) : Block :=
  if pois then (s.observePoison (.core p i)).raise (.core p i) 2 else s

theorem Block.poisonSeen_slots (pois : Bool) : (s.poisonSeen p i pois).slots = s.slots := by
  unfold Block.poisonSeen
  split <;> simp

theorem Block.poisonSeen_tiers (pois : Bool) : (s.poisonSeen p i pois).tiers = s.tiers := by
  unfold Block.poisonSeen
  split <;> simp

/-- An atomic of the list is performed at its home (R219). -/
theorem Block.amoPerform_at {x : Amo} {old : Nat} {pois : Bool} {t : Block} (hx : (s.slot p i sl).amos[k]? = some x)
    (hat : s.atomicAt x.pa x.hint x.op x.size x.data x.cmp .none = (old, pois, t)) :
    s.amoPerform p i sl k .none = (t.poisonSeen p i pois).modSlot p i sl fun u => { u.setS x.reg old with amos := u.amos.eraseIdx k } := by
  unfold Block.amoPerform
  rw [hx]
  dsimp only
  rw [hat]
  rfl

section
variable (hoff : bit (s.reg .eyep 0x040) 0 = false)
include hoff

/-- While the Eyepiece traces nothing, the observation of poison writes no memory. -/
theorem Block.observePoison_ram_off (pg : Page) : (s.observePoison pg).ram = s.ram := by
  unfold Block.observePoison
  dsimp only
  split
  · simp
  · rw [Block.raise_ram_off]
    · split <;> simp
    · split <;> rw [Block.reg_of_regs (s := s) (by simp), hoff]

/-- The cause is set, whatever the form of the page headers. -/
theorem Block.raise_causeSet_off {pg : Page} {n : Nat} (hn : n < 32) (halarm : pg.alarms = false) : (s.raise pg n).causeSet pg n = true := by
  have hevent (t : Block) : t.event pg n = t := by simp [Block.event, halarm]
  unfold Block.raise Block.raise0
  split
  · rename_i hc
    exact hc
  · rw [hevent]
    dsimp only
    rw [Block.trace_off (by rw [Block.reg_of_regs (Block.modIrq_regs ..), hoff])]
    have hbit : (BitVec.ofNat 32 (2 ^ n)).getLsbD n = true := by
      rw [BitVec.getLsbD_ofNat, Nat.testBit_two_pow_self]
      simp [hn]
    have hset : ({ s.hdr pg with irqStat := (s.hdr pg).irqStat ||| BitVec.ofNat 32 (2 ^ n) } : PageHdr) ≠ {} := fun he => by
      rw [(BitVec.or_eq_zero_iff.1 (congrArg PageHdr.irqStat he)).2] at hbit
      exact absurd hbit (by simp)
    rw [Block.causeSet, Block.hdr, Block.modIrq_pages, smMod]
    exact (congrArg (fun h : PageHdr => h.irqStat.getLsbD n) (smGet_put_of_ne ({} : PageHdr) _ _ hset)).trans
      (by rw [BitVec.getLsbD_or, hbit, Bool.or_true])

theorem Block.poisonSeen_ram : (s.poisonSeen p i true).ram = s.ram :=
  (Block.raise_ram_off (by rw [Block.observePoison_reg, hoff]) _ _).trans (Block.observePoison_ram_off hoff _)

theorem Block.poisonSeen_causeSet : (s.poisonSeen p i true).causeSet (.core p i) 2 = true :=
  Block.raise_causeSet_off (by rw [Block.observePoison_reg, hoff]) (by decide) rfl

end

end

/-! The commands. -/

section
variable {s : State} {p : Fin 12} {i : Fin 153} {sl : Fin 2}

theorem exec_amo {w : BitVec 64} (h : s.blk.Runs p i sl w.toNat 5 0x0A) :
    exec (.amo p i sl w) s = .next (s.withBlk ((s.blk.entered p i sl).amo p i sl w.toNat)) := State.onBlock_issue _ h

theorem exec_amoPerform {x : AmoPick} (hon : s.blk.boot.power = .on) :
    exec (.amoPerform p i sl x) s = .next (s.withBlk (s.blk.amoPerform p i sl x.k x.ev)) := State.onBlock_live hon _

end

/-- Settles O30: AMO goes by its alignment, its address and where its page lies; AMO_PERFORM is one read and one write of the word. -/
theorem atomicsReturnTheOldValue : Obligations.AtomicsReturnTheOldValue := by
  unfold Obligations.AtomicsReturnTheOldValue
  intro s p i sl w b e t va n
  have hva : (e.slot p i sl).amoAddr w.toNat = va := by rw [Block.entered_slot, Slot.amoAddr_eq]
  have hn : amoSize w.toNat = n := amoSize_eq w
  refine ⟨fun hrun => ⟨fun hal => ?_, fun g base size lw lx b' hal hlow ht hself hacc => ?_, fun hhigh hal => ?_,
    fun g base size lw lx b' hal hlow ht => ⟨fun hself hacc => ?_, fun hself hreach hroom => ?_⟩⟩,
    fun k x h hon hx hsize hal hhome hacc hwf hagree hslots => ?_⟩
  · rw [exec_amo hrun, Block.amo_misaligned (by rw [hva, hn]; exact hal)]
    rfl
  · have hslot : b'.slot p i sl = e.slot p i sl := (congrArg (fun r => r.2.slot p i sl) ht).symm.trans Block.translate_slot
    rw [← hva, ← hn] at hal
    rw [← hva] at hlow ht
    rw [exec_amo hrun, Block.amo_local hal hlow ht hself (by rw [hva, hn]; exact hacc)]
    refine congrArg (fun t => Host.Outcome.next (s.withBlk t)) (Block.modSlot_congr ?_)
    simp only [Slot.amoAt, bits_eq_wordField, hva, hn, hslot]
    rfl
  · rw [exec_amo hrun, Block.amo_high (by rw [hva, hn]; exact hal) (by rw [hva]; exact hhigh)]
    rfl
  · rw [← hva, ← hn] at hal
    rw [← hva] at hlow ht
    rw [exec_amo hrun, Block.amo_refused hal hlow ht hself (by rw [hva, hn]; exact hacc)]
    rfl
  · rw [← hva, ← hn] at hal
    rw [← hva] at hlow ht
    rw [exec_amo hrun, Block.amo_remote hal hlow ht hself hreach hroom]
    simp only [Slot.amoPkt, bits_eq_wordField, hva, hn]
    rw [Block.entered_slot]
  · have hw : b.WordAt x.pa x.size h := ⟨hhome, hsize, hal⟩
    have hmem := Block.CachesAgree.holds hagree
    obtain ⟨u, hat, hrest, hram⟩ := hw.atomicAt (op := x.op) (data := x.data) (cmp := x.cmp) hwf hmem x.hint
    have hslotsU : u.slots = b.slots := (congrArg Block.slots hrest :)
    have hregs : u.regs = b.regs := (congrArg Block.regs hrest :)
    have htiers : u.tiers = b.tiers := (congrArg Block.tiers hrest :)
    refine ⟨_, exec_amoPerform hon, ?_, fun hclean => ?_, fun hpois hoff => ?_⟩
    · rw [Block.amoPerform_at hx hat, Block.slot, Block.modSlot_slots, Block.poisonSeen_slots, hslotsU]
      exact smGet_mod_self ({} : Slot) (slotKey p i sl) _ hslots
    · rw [Block.amoPerform_at hx hat, hclean]
      rw [hw.memPoisoned hmem] at hclean
      refine ⟨?_, fun a ha => ?_⟩
      · rw [(hw.of_tiers (t := (u.poisonSeen p i false).modSlot p i sl _) htiers).memBytes, hw.memBytes]
        exact (congrArg (fun r : Ram => leNat (r.bytes h.num x.size)) hram).trans (hw.atomic_value hwf hclean)
      · exact (congrArg (fun r : Ram => smGet 0 r.mem a) hram).trans (hw.atomic_frame hwf hclean ha)
    · have hoffU : bit (u.reg .eyep 0x040) 0 = false := by rw [Block.reg_of_regs hregs]; exact hoff
      rw [Block.amoPerform_at hx hat, hpois]
      rw [hw.memPoisoned hmem] at hpois
      refine ⟨(hw.of_tiers (t := (u.poisonSeen p i true).modSlot p i sl _) ?_).memPoisoned_of_marked ?_, ?_⟩
      · exact (Block.poisonSeen_tiers true).trans htiers
      · exact (congrArg (fun r : Ram => r.poisoned h.num x.size) ((Block.poisonSeen_ram hoffU).trans hram)).trans (hw.atomic_poisoned hwf hpois)
      · exact Block.poisonSeen_causeSet hoffU

end Sys2Proof.Machine
end
